-- ==== Sys2Proof/Word.lean ====
section
/-! DEFINITION. The byte and word types of the spec (R4, R6) and their plainest arithmetic. -/

namespace Sys2Proof

/-- One byte of any memory (R4). -/
abbrev Byte := BitVec 8

/-- One register of any block: 64 bits wide, of which a 32-bit register uses the low half (R6). -/
abbrev Word := BitVec 64

/-- Bits `[lo + w - 1 : lo]` of `x` as a number. -/
def bitsOf (x lo w : Nat) : Nat := x / 2 ^ lo % 2 ^ w

/-- Bit `i` of `x`. -/
def bitOf (x i : Nat) : Bool := x / 2 ^ i % 2 = 1

/-- Least whole number not below `a / b`. -/
def ceilDiv (a b : Nat) : Nat := (a + b - 1) / b

/-- `a` rounded up to a multiple of `b`. -/
def roundUp (a b : Nat) : Nat := ceilDiv a b * b

/-- The number of a Boolean flag. -/
def flagNat (b : Bool) : Nat := if b then 1 else 0

end Sys2Proof
end

