-- ==== Sys2Proof/Syntax.lean ====
section
/-! DEFINITION. The commands of the block, one constructor per row of spec/opcode_table.json, in the table's order.
Operands name what the row acts on. Where the spec leaves a choice to Genash, or a physical quantity is observed, the
operand carries it (log 1). -/

namespace Sys2Proof

/-- Who made a read of host memory: the queue engine for a ring entry, or a descriptor (R379). -/
inductive ReadOwner where
  | ring (r : Nat)
  | job (jid : Nat)
  deriving DecidableEq, Repr

/-- What the jets of a swap waited for an incomplete shadow set, in a-cycles, their basin's stalls meanwhile (R70, R267), and the
accumulator entries in which one bit has come into error: entry `r`, `c` of jet `x` is `32768 · x + 128 · r + c` (R444). -/
structure SwapWait where
  jets : List Nat
  stalls : Nat
  upsets : List Nat
  deriving DecidableEq, Repr

/-- A drain of a descriptor, the stalls of its basin meanwhile, and the accumulator entries in which one bit has come into error
(R105, R267, R444). -/
structure DrainRun where
  jid : Nat
  stalls : Nat
  upsets : List Nat
  deriving DecidableEq, Repr

/-- Where a preemption finds the jets: the latency of R307 in a-cycles, and for each jet how far its tile has run, in rows, for
EMU_BASAD in a-cycles (R304). -/
structure Interrupt where
  latency : Nat
  done : List Nat
  deriving DecidableEq, Repr

/-- What the message that ends with a flit brings from another cascade member, where no row of the table is its own: nothing; a token
change of a slot of a basin here (R275, R412); a write of a unit of that member at an address here, or a read for which the bytes go
back in a priority class (R320, R402, R411); an allocation that the member spills here, placed as Genash chooses, and its end
(R333); or `len` bytes for a third member, which this one sends on (R409). -/
inductive Brought where
  | nothing
  | token (basin slot : Nat) (full claimed : Bool)
  | write (unit addr : Nat) (data : List Byte)
  | read (member cls addr len : Nat)
  | spill (base size f : Nat)
  | spillEnd (base : Nat)
  | onward (member cls len : Nat)
  deriving DecidableEq, Repr

/-- Whether a flit asks for a replay, and what its message brings (R403). -/
structure FlitEnd where
  nak : Bool
  brings : Brought
  deriving DecidableEq, Repr

/-- A lane, and its corrected symbols in 1 ms, none where it has lost lock (R404). -/
structure LaneState where
  lane : Nat
  symbols : Option Nat
  deriving DecidableEq, Repr

/-- A descriptor that a row issues or lets go on, and the basin stalls that the accesses it begins meet (R267). -/
structure IssueRun where
  jid : Nat
  stalls : Nat
  deriving DecidableEq, Repr

/-- A command of the block. `jid` names a descriptor in flight by its dispatch number; `mb` a mailbox (0 to 63 host,
64 to 71 management link); `value` is the word a register write carries. -/
inductive Instr where
  | doorbellWrite (ring : Nat) (wide : Bool) (value : BitVec 64)
  | tick
  | matmul (jid : Nat) (stalls : Nat)
  | fusedPair (run : IssueRun)
  | checknode (run : IssueRun)
  | reduce (run : IssueRun)
  | update (run : IssueRun)
  | convert (run : IssueRun)
  | gatherRows (run : IssueRun)
  | gatherColumns (run : IssueRun)
  | hazeSelect (run : IssueRun)
  | forecast (run : IssueRun)
  | barrier (jid : Nat)
  | barrierArrival (jid : Nat)
  | barrierTimeout (jid : Nat)
  | dot (run : IssueRun)
  | toStream (run : IssueRun)
  | fromStream (run : IssueRun)
  | drain (run : IssueRun)
  | reshard (jid : Nat)
  | weightTileLoaded (unit : Nat) (errs : List (Nat × Bool)) (stalls : Nat)
  | swap (unit : Nat) (wait : SwapWait)
  | groupDrain (run : DrainRun)
  | preemption (jid : Nat) (point : Interrupt)
  | slotWaitEnd (run : IssueRun)
  | slotTimeout (jid : Nat)
  | completionRecordPost (jid : Nat)
  | msixTimer (cq : Nat)
  | haloComparison (terrace : Nat)
  | poolWriteRequest (basin : Nat) (addr : Nat) (cls : Nat) (writer : BitVec 24) (data : List Byte)
  | hostWrite (offset : Nat) (data : List Byte)
  | hostRead (offset : Nat) (len : Nat)
  | readCompletion (owner : ReadOwner) (ok : Bool)
  | completionTimeout (owner : ReadOwner)
  | hostLinkDown
  | hostLinkUp (rate : Nat) (width : Nat) (flit : Bool)
  | functionLevelReset
  | d3hot
  | d0
  | hotReset
  | hstPerstLAssert
  | deviceReset (value : BitVec 32)
  | computeReset (value : BitVec 32)
  | computeResetDone
  | mgtPerstLAssert
  | smbusReadWord (code : BitVec 8)
  | registerWrite (bar : Nat) (offset : Nat) (bytes : Nat) (value : BitVec 64)
  | rcCounterRead (offset : Nat) (bytes : Nat)
  | debugHalt
  | debugResume
  | eccInjectArm (basin : Nat) (value : BitVec 64)
  | closeStep (value : BitVec 32)
  | lifetimeSave (value : BitVec 32)
  | hello (mb : Nat)
  | ringSetup (mb : Nat)
  | ringTeardown (mb : Nat)
  | cqSetup (mb : Nat)
  | cqTeardown (mb : Nat)
  | eventSetup (mb : Nat)
  | eventTeardown (mb : Nat)
  | groupBindReplace (mb : Nat)
  | groupBindAdd (mb : Nat)
  | groupBindRemove (mb : Nat)
  | groupBindUnbind (mb : Nat)
  | tensorAlloc (mb : Nat) (addr : Nat) (f : Nat) (spillTo : Nat)
  | tensorFree (mb : Nat)
  | spillGrant (mb : Nat)
  | spillRevoke (mb : Nat)
  | placeQuery (mb : Nat)
  | phasePlanDefine (mb : Nat)
  | phasePlanSelect (mb : Nat)
  | phasePlanDrop (mb : Nat)
  | tensorLoad (mb : Nat)
  | tensorLoadEncode (mb : Nat)
  | monitorSnapshot (mb : Nat)
  | monitorRestore (mb : Nat)
  | emuBasadCfgGet (mb : Nat)
  | emuBasadCfgSet (mb : Nat)
  | cascadeJoin (mb : Nat)
  | cascadeLeave (mb : Nat)
  | timeSet (mb : Nat)
  | timeSetAtPps (mb : Nat)
  | cellConfigSet (mb : Nat)
  | cellConfigClear (mb : Nat)
  | unitTest (mb : Nat) (failing : Option Nat)
  | resourceClaim (mb : Nat)
  | resourceRelease (mb : Nat)
  | sensorRead (mb : Nat)
  | logRead (mb : Nat)
  | lifetimeRead (mb : Nat)
  | fwStage (mb : Nat)
  | fwActivate (mb : Nat)
  | fwActivateResetNow (mb : Nat)
  | attest (mb : Nat)
  | debugUnlock (mb : Nat)
  | debugRelock (mb : Nat)
  | certRead (mb : Nat)
  | broadcast (value : BitVec 32)
  | broadcastCopy (data : List Byte)
  | snapshot (value : BitVec 32)
  | snapshotHold
  | snapshotRelease
  | reset (value : BitVec 32)
  | resetMessage
  | gopAnswer (child : Nat) (answered : Nat) (missing : Bool)
  | gopAnswerTimeout (child : Nat)
  | remoteDescriptor (member : Nat) (ring : Nat) (seq : Nat) (cls : Nat) (bytes : List Byte)
  | remoteCompletion (jid : Nat) (bytes : List Byte)
  | cascadeExchange (port : Nat) (index : Nat) (master : Nat) (n : Nat) (bitmap : Nat)
  | flitReceive (port : Nat) (good : Bool) (acked : Nat) (tail : FlitEnd)
  | laneFault (port : Nat) (lane : LaneState)
  | retrainDone (port : Nat)
  | portUp (port : Nat)
  | frameReceive (port : Nat) (fcsOk : Bool) (data : List Byte)
  | symbolWrite (grid : Nat) (symbol : Nat)
  | fhPortState (port : Nat) (up : Bool)
  | ppsEdge
  | ppsMissed
  | referencePresent
  | referenceLocked
  | referenceLost
  | holdoverExpiry
  | slotTick
  | telemetryTick (volts : Nat) (power : Nat)
  | sensorSample (readings : List (BitVec 16))
  | inputPowerGood (slotId : Nat)
  | powerWarn (volts : Nat) (high : Bool)
  | powerRestored (us : Nat)
  | overvoltage (peak : Nat) (us : Nat)
  | switchClose
  | consistentSnapshot
  | orderlyStop
  | rootLockLoss
  | bistWaveEnd (failed : List (Nat × Nat))
  | stackTrained (stack : Nat)
  | stackTrainingTimeout (stack : Nat) (element : Nat)
  | zenithReady
  | fwTrialTimeout
  | residueMismatch (jet : Nat) (column : Nat)
  | accumulatorEccError (jet : Nat)
  | progressFault (unit : Nat)
  | failoverDone (terrace : Nat) (us : Nat)
  | sparseEngineFault (engine : Nat)
  | fatalFault (unitClass : Nat) (cause : Nat)
  | dramPatrol (stack : Nat) (errors : List (Nat × Nat × Nat))
  | spill (base : Nat) (dest : Nat)
  | fill (base : Nat)
  | lifetimeSecond
  | lifetimeRecordSave
  | flashLogWrite
  | hstPerstLRelease
  | nimbusReady
  | rootPllLock
  | mailboxCompletion (mb : Nat)
  | stepCloseEnd
  | ppsOutPulse
  deriving DecidableEq, Repr

end Sys2Proof
end

