-- ==== Sys2Proof/WellFormed.lean ====
section
/-! DEFINITION. The ranges of the operands of commands: ring, mailbox, unit and port numbers the spec has (R13, R247, R348,
R354, R358, R382, R386, R403). -/

namespace Sys2Proof

/-- A mailbox number: 0 to 63 of the host, 64 to 71 of the management link. -/
def mbOk (mb : Nat) : Bool := decide (mb < 72)

/-- A logical jet: 560 of the basins, 35 reserve jets. -/
def jetOk (j : Nat) : Bool := decide (j < 595)

/-- A unit that holds weights: a logical jet, or 595 and up the 280 sparse engines (R69, R169). -/
def holderOk (u : Nat) : Bool := decide (u < 875)

/-- A Rill port. -/
def portOk (p : Nat) : Bool := decide (p < 16)

/-- A width of an access of registers or mailboxes, in bytes. -/
def widthOk (n : Nat) : Bool := n = 1 || n = 2 || n = 4 || n = 8

/-- The numbers that the message of a flit names exist. -/
def Brought.wf : Brought → Bool
  | .nothing => true
  | .token q n _ _ => decide (q < 140) && decide (n < 64)
  | .write u a d => decide (u < 2 ^ 24) && decide (a < 2 ^ 64) && decide (0 < d.length)
  | .read m c a n => decide (m < 256) && decide (c < 3) && decide (a < 2 ^ 64) && decide (0 < n)
  | .spill b n f => decide (b < 2 ^ 40) && decide (0 < n) && decide (f < 16)
  | .spillEnd b => decide (b < 2 ^ 40)
  | .onward m c _ => decide (m < 256) && decide (c < 3)

/-- The numbers a command names exist. -/
def Instr.wf : Instr → Bool
  | .doorbellWrite r _ _ => decide (r < 65536)
  | .weightTileLoaded u errs _ => holderOk u && errs.all fun e => decide (e.1 < 0x800000)
  | .swap u w => holderOk u && decide (w.jets.length ≤ 4)
  | .preemption _ i => decide (i.done.length ≤ 4)
  | .msixTimer c => decide (c < 4096)
  | .haloComparison t => decide (t < 35)
  | .poolWriteRequest q x c _ d => decide (q < 140) && decide (x < 0x800000) && decide (c < 6) &&
      decide (0 < d.length) && decide (x % 256 + d.length ≤ 256)
  | .hostLinkUp r w _ => decide (r < 16) && decide (w < 32)
  | .registerWrite bar _ n _ => (bar = 0 || bar = 1 || bar = 4 || bar = 8 || bar = 9) && widthOk n
  | .rcCounterRead _ n => widthOk n
  | .eccInjectArm q _ => decide (q < 140)
  | .hello mb | .ringSetup mb | .ringTeardown mb | .cqSetup mb | .cqTeardown mb | .eventSetup mb | .eventTeardown mb
  | .groupBindReplace mb | .groupBindAdd mb | .groupBindRemove mb | .groupBindUnbind mb | .tensorFree mb | .spillGrant mb
  | .spillRevoke mb | .placeQuery mb | .phasePlanDefine mb | .phasePlanSelect mb | .phasePlanDrop mb | .tensorLoad mb
  | .tensorLoadEncode mb | .monitorSnapshot mb | .monitorRestore mb | .emuBasadCfgGet mb | .emuBasadCfgSet mb
  | .cascadeJoin mb | .cascadeLeave mb | .timeSet mb | .timeSetAtPps mb | .cellConfigSet mb | .cellConfigClear mb
  | .resourceClaim mb | .resourceRelease mb | .sensorRead mb | .logRead mb | .lifetimeRead mb | .fwStage mb
  | .fwActivate mb | .fwActivateResetNow mb | .attest mb | .debugUnlock mb | .debugRelock mb | .certRead mb
  | .mailboxCompletion mb => mbOk mb
  | .tensorAlloc mb _ f _ => mbOk mb && decide (f < 16)
  | .unitTest mb _ => mbOk mb
  | .gopAnswer c n _ => decide (c < 256) && decide (n < 512)
  | .gopAnswerTimeout c => decide (c < 256)
  | .remoteDescriptor m r _ c bs => decide (m < 256) && decide (r < 65536) && decide (c < 4) && (bs.length = 128 || bs.length = 131)
  | .remoteCompletion _ bs => decide (bs.length = 32)
  | .cascadeExchange p i m n b => portOk p && decide (i < 256) && decide (m < 256) && decide (n < 512) && decide (b < 2 ^ 256)
  | .flitReceive p _ _ e => portOk p && e.brings.wf
  | .retrainDone p | .portUp p => portOk p
  | .laneFault p l => portOk p && decide (l.lane < 9)
  | .frameReceive p _ _ | .fhPortState p _ => decide (p < 2)
  | .symbolWrite g s => decide (g < 64) && decide (s < 14)
  | .stackTrained s | .stackTrainingTimeout s _ | .dramPatrol s _ => decide (s < 16)
  | .bistWaveEnd fs => fs.all fun f => decide (f.1 < 35)
  | .residueMismatch j c => (jetOk j || (decide (0x800 ≤ j) && decide (j < 0x918))) && decide (c < 128)
  | .accumulatorEccError j => jetOk j
  | .failoverDone t _ => decide (t < 35)
  | .sparseEngineFault e => decide (e < 280)
  | .sensorSample r => decide (r.length = 120)
  | .inputPowerGood k => decide (k < 8)
  | _ => true

end Sys2Proof
end

