-- ==== Sys2Proof/Decode.lean ====
section
/-! DEFINITION. The decoder of table words. No row of the opcode table gives bits, so no word spells a command. -/

namespace Sys2Proof

/-- The command that `nbits` bits `w` of the opcode table's numbering spell: none, since no row gives bits. -/
def decodeTableWord (_nbits _w : Nat) : Option Instr := none

end Sys2Proof
end

