-- ==== Sys2Proof/Config.lean ====
section
/-! DEFINITION. What the spec names and does not give: functions and constants without a body, so that no statement can
lean on a value of theirs. -/

namespace Sys2Proof

/-- The SM3 digest (GB/T 32905, named by the spec's security chapter): 32 bytes of a message. -/
opaque Config.sm3 : List Byte → List Byte

/-- SM2 verification (GB/T 32918.2): public key (64 bytes), signed bytes, signature (64 bytes). -/
opaque Config.sm2Verify : List Byte → List Byte → List Byte → Bool

/-- The identity key's SM2 signature of a message, 64 bytes (R485, R487). -/
opaque Config.identitySign : List Byte → List Byte

/-- The Keltu root public key in the boot ROM, 64 bytes. -/
opaque Config.rootKey : List Byte

/-- The device identity public key, 64 bytes (R485). -/
opaque Config.identityKey : List Byte

/-- The device certificate followed by the manufacturing CA certificate, DER (R486). -/
opaque Config.certChain : List Byte

/-- The boot ROM's bytes (R487, m0). -/
opaque Config.bootRom : List Byte

/-- The module revision word of SMBus command 0x81 (R383). -/
opaque Config.moduleRevision : BitVec 16

/-- A byte of another member's memory as a read over Rill finds it: member, local address, draw (log 23). -/
opaque Config.peerByte : Nat → Nat → Nat → Byte

/-- A byte of an uncorrectable codeword as a spill copies it: local address, draw (log 15). -/
opaque Config.spoiledByte : Nat → Nat → Byte

/-- The stack that a local handle names in UNIT_TEST: the table of mailbox commands lists DRAM unit handles, and no rule gives their
numbers (R13, R362, log 42). -/
opaque Config.dramUnit : Nat → Option (Fin 16)

/-- Halo's ulp difference between a NaN and an infinity, which no rule states: whether the written value is the NaN, and
the infinity's sign (R217, log 24). -/
opaque Config.haloMixed : Bool → Bool → BitVec 32

/-- Items and events that a reset discarded at crossings, by draw and kind of reset (R429): no rule says how many are on
their way (log 8). -/
opaque Config.flushed : Nat → Nat → BitVec 16

/-- The a-cycles that a replay re-runs, by draw: no rule gives the figure (R463, R464, log 13). -/
opaque Config.rerun : Nat → BitVec 32

end Sys2Proof
end

