-- ==== Sys2Proof/Machine/Num.lean ====
section
/-! DEFINITION. Exact numbers, signed zeros, infinities and NaN, and rounding to binary floating-point formats
(R41, R50, R54, R90, R106). Magnitudes are quotients of naturals, never reduced. -/

namespace Sys2Proof.Machine

/-- A value of the drain path: a NaN, an infinity, or a sign and the magnitude `n / d` (`d` is never 0). -/
inductive Num where
  | nan
  | inf (neg : Bool)
  | fin (neg : Bool) (n d : Nat)
  deriving DecidableEq, Repr

/-- Round to nearest, ties to even, of `n / d`. -/
def rne (n d : Nat) : Nat :=
  let q := n / d
  let r := n % d
  if 2 * r > d ∨ (2 * r = d ∧ q % 2 = 1) then q + 1 else q

/-- `⌊log2 (n / d)⌋` of a positive quotient. -/
def ilog2 (n d : Nat) : Int :=
  let k : Int := (Nat.log2 n : Int) - (Nat.log2 d : Int)
  if 0 ≤ k then (if n < d * 2 ^ k.toNat then k - 1 else k)
  else (if n * 2 ^ (-k).toNat < d then k - 1 else k)

/-- `n · 2 ^ k` over `d`, as a quotient. -/
def scale2 (n d : Nat) (k : Int) : Nat × Nat :=
  if 0 ≤ k then (n * 2 ^ k.toNat, d) else (n, d * 2 ^ (-k).toNat)

/-- Clamp to `[lo, hi]`. -/
def satI (x lo hi : Int) : Int := if x < lo then lo else if hi < x then hi else x

namespace Num

/-- +0. -/
def zero : Num := .fin false 0 1

/-- An integer times a power of two, exactly. -/
def ofInt (x : Int) (k : Int := 0) : Num :=
  let p := scale2 x.natAbs 1 k
  .fin (decide (x < 0)) p.1 p.2

/-- Is the value finite? -/
def isFin : Num → Bool
  | .fin _ _ _ => true
  | _ => false

/-- Is the value NaN? -/
def isNan : Num → Bool
  | .nan => true
  | _ => false

/-- Is the value a zero of either sign? -/
def isZero : Num → Bool
  | .fin _ n _ => n = 0
  | _ => false

/-- The signed numerator of a finite value over its denominator. -/
def top (neg : Bool) (n : Nat) : Int := if neg then -(n : Int) else n

/-- Negation. -/
def neg : Num → Num
  | .nan => .nan
  | .inf s => .inf (!s)
  | .fin s n d => .fin (!s) n d

/-- Absolute value. -/
def abs : Num → Num
  | .nan => .nan
  | .inf _ => .inf false
  | .fin _ n d => .fin false n d

/-- Sum, exact; an exact cancellation gives +0, as IEEE 754 does. -/
def add : Num → Num → Num
  | .nan, _ => .nan
  | _, .nan => .nan
  | .inf a, .inf b => if a = b then .inf a else .nan
  | .inf a, _ => .inf a
  | _, .inf b => .inf b
  | .fin sa na da, .fin sb nb db =>
    if na = 0 ∧ nb = 0 then .fin (sa && sb) 0 1
    else
      let t : Int := top sa na * db + top sb nb * da
      .fin (decide (t < 0)) t.natAbs (da * db)

/-- Difference. -/
def sub (a b : Num) : Num := add a (neg b)

/-- Product, exact; 0 times an infinity is NaN. -/
def mul : Num → Num → Num
  | .nan, _ => .nan
  | _, .nan => .nan
  | .inf a, .inf b => .inf (xor a b)
  | .inf a, .fin b n _ => if n = 0 then .nan else .inf (xor a b)
  | .fin a n _, .inf b => if n = 0 then .nan else .inf (xor a b)
  | .fin a na da, .fin b nb db => .fin (xor a b) (na * nb) (da * db)

/-- Quotient under IEEE 754 rules. -/
def div : Num → Num → Num
  | .nan, _ => .nan
  | _, .nan => .nan
  | .inf _, .inf _ => .nan
  | .inf a, .fin b _ _ => .inf (xor a b)
  | .fin a _ _, .inf b => .fin (xor a b) 0 1
  | .fin a na da, .fin b nb db =>
    if nb = 0 then (if na = 0 then .nan else .inf (xor a b)) else .fin (xor a b) (na * db) (da * nb)

/-- The value times `2 ^ k`, exactly. -/
def shift (x : Num) (k : Int) : Num :=
  match x with
  | .fin s n d => let p := scale2 n d k; .fin s p.1 p.2
  | y => y

/-- `a < b` of values that are not NaN; zeros of both signs are equal. -/
def lt : Num → Num → Bool
  | .nan, _ => false
  | _, .nan => false
  | .inf a, .inf b => a && !b
  | .inf a, .fin _ _ _ => a
  | .fin _ _ _, .inf b => !b
  | .fin sa na da, .fin sb nb db => decide (top sa na * db < top sb nb * da)

/-- `a ≤ b`, neither a NaN. -/
def le (a b : Num) : Bool := !a.isNan && !b.isNan && !lt b a

/-- `round_half_even` of a finite value; 0 of any other. -/
def round : Num → Int
  | .fin s n d => top s (rne n d)
  | _ => 0

/-- `⌊x⌋` of a finite value; 0 of any other. -/
def floor : Num → Int
  | .fin s n d => if s then -((ceilDiv n d : Nat) : Int) else (n / d : Nat)
  | _ => 0

/-- `⌊log2 |x|⌋` of a finite nonzero value. -/
def log2 : Num → Int
  | .fin _ n d => ilog2 n d
  | _ => 0

end Num

/-! ### Binary formats -/

/-- A binary format: mantissa bits, least exponent of a normal number, and the largest finite magnitude code. -/
structure BinFmt where
  mant : Nat
  emin : Int
  maxCode : Nat
  deriving DecidableEq, Repr

/-- FP32 (IEEE 754 binary32). -/
def binFp32 : BinFmt := ⟨23, -126, 0x7F7FFFFF⟩

/-- FP16 (IEEE 754 binary16). -/
def binFp16 : BinFmt := ⟨10, -14, 0x7BFF⟩

/-- BF16. -/
def binBf16 : BinFmt := ⟨7, -126, 0x7F7F⟩

/-- MXFP4 E2M1 (R39). -/
def binE2M1 : BinFmt := ⟨1, 0, 7⟩

/-- MXFP6 E3M2 (R39). -/
def binE3M2 : BinFmt := ⟨2, -2, 31⟩

/-- MXFP6 E2M3 (R39). -/
def binE2M3 : BinFmt := ⟨3, 0, 31⟩

/-- MXFP8 E4M3 (R39). -/
def binE4M3 : BinFmt := ⟨3, -6, 0x7E⟩

/-- MXFP8 E5M2 (R39). -/
def binE5M2 : BinFmt := ⟨2, -14, 0x7B⟩

/-- The magnitude code nearest to `n / d`, ties to even, subnormals kept and no upper limit. -/
def BinFmt.near (f : BinFmt) (n d : Nat) : Nat :=
  if n = 0 then 0
  else
    let e := max (ilog2 n d) f.emin
    let p := scale2 n d (f.mant - e)
    (e - f.emin).toNat * 2 ^ f.mant + rne p.1 p.2

/-- The magnitude of a finite code, as a quotient. -/
def BinFmt.mag (f : BinFmt) (c : Nat) : Nat × Nat :=
  let e := c / 2 ^ f.mant
  let m := c % 2 ^ f.mant
  if e = 0 then scale2 m 1 (f.emin - f.mant)
  else scale2 (2 ^ f.mant + m) 1 (f.emin + (e : Int) - 1 - f.mant)

/-- The value of an FP32 encoding. -/
def ofFp32 (x : Nat) : Num :=
  let s := bitOf x 31
  let c := x % 2 ^ 31
  if c > 0x7F800000 then .nan
  else if c = 0x7F800000 then .inf s
  else let p := binFp32.mag c; .fin s p.1 p.2

/-- The quiet NaN that Genash writes (R55, R91). -/
def nan32 : Nat := 0x7FC00000

/-- The sign bit of an encoding of `w` bits. -/
def signBit (s : Bool) (w : Nat) : Nat := if s then 2 ^ (w - 1) else 0

/-- `fp32()` of R90: nearest even, subnormals kept, overflow to an infinity. -/
def fp32 : Num → Nat
  | .nan => nan32
  | .inf s => signBit s 32 + 0x7F800000
  | .fin s n d => signBit s 32 + min (binFp32.near n d) 0x7F800000

/-- `fp32()` of R106: as R54 rounds, a finite value beyond the range giving the largest finite one; the flag says so. -/
def fp32Sat : Num → Nat × Bool
  | .nan => (nan32, false)
  | .inf s => (signBit s 32 + 0x7F800000, false)
  | .fin s n d =>
    let c := binFp32.near n d
    (signBit s 32 + min c 0x7F7FFFFF, decide (0x7F7FFFFF < c))

/-- Is an FP32 encoding finite? -/
def finite32 (x : Nat) : Bool := decide (x % 2 ^ 31 < 0x7F800000)

/-- FP32 addition and subtraction of encodings, one rounding (R90). -/
def add32 (a b : Nat) : Nat := fp32 (Num.add (ofFp32 a) (ofFp32 b))

/-- FP32 subtraction of encodings. -/
def sub32 (a b : Nat) : Nat := fp32 (Num.sub (ofFp32 a) (ofFp32 b))

/-- The steps of a binade in the table T of R126. -/
def expSteps : Nat := 1024

/-- The 24-bit significand of T[i] of R126: the `m` nearest `2 ^ 23 · 2 ^ (i / 1024)`, found bit by bit as the greatest
with `2m - 1 < 2 ^ (24 + i / 1024)`. -/
def expSig (i : Nat) : Nat :=
  (List.range 24).foldl
    (fun m b =>
      let t := m + 2 ^ (23 - b)
      if (2 * t - 1) ^ expSteps < 2 ^ (24 * expSteps + i) then t else m) 0

/-- T[i] of R126, an FP32 value between 1 and 2. -/
def expT (i : Nat) : Num := .fin false (expSig i) (2 ^ 23)

/-- `exp2q(d, w)` of R126. -/
def exp2q (d : Num) (w : Nat) : Nat :=
  match d with
  | .fin s n k =>
    let t := Num.top s (rne (n * 1024) k)
    if t < -131072 then 0
    else
      let i := (t % 1024).toNat
      let p := scale2 (expSig i * (2 ^ w - 1)) (2 ^ 23) (t / 1024)
      rne p.1 p.2
  | _ => 0

/-- `srand(key, ctr)` of R214. -/
def srand (key ctr : Nat) : Nat :=
  let z : BitVec 64 := BitVec.ofNat 64 key + (BitVec.ofNat 64 ctr + 1) * 0x9E3779B97F4A7C15#64
  let z := (z ^^^ (z >>> 30)) * 0xBF58476D1CE4E5B9#64
  let z := (z ^^^ (z >>> 27)) * 0x94D049BB133111EB#64
  let z := z ^^^ (z >>> 31)
  (z >>> 32).toNat

end Sys2Proof.Machine
end

