-- ==== Sys2Proof/Machine/RegMap.lean ====
section
/-! DEFINITION. The register map: every register table of the spec, with offsets, widths, access codes and reset values
(R6 to R8, R79, R179, R190, R204, R224, R225, R271, R309, R343, R344, R368, R372, R373, R374, R381, R382, R393, R399,
R419, R442, R464, R465, R491, R492, R505), and where each block lies in BAR0 and BAR4 (R345 to R347). -/

namespace Sys2Proof.Machine

/-- Access codes of R7. -/
inductive Access where
  | ro | rw | w1c | w1s | wo | rc
  deriving DecidableEq, Repr

/-- A named field of a register: bits `[lo + w - 1 : lo]`, its access code and its reset value. -/
structure Field where
  lo : Nat
  w : Nat
  acc : Access
  rst : Nat
  deriving DecidableEq, Repr

/-- The register blocks of R346, the debug space of R347, READY_MAP, the management link's register, and the configuration
spaces of the host link and of the management link (R374, R382, log 4). -/
inductive Blk where
  | jt | se | bs | tr | dm | qe | mb | hi | fh | tm | lk | ck | sp | nb | sc | pw | wr | hl | dz | fc | hz | pl | dbg | ready | mgt | cfg | mcf
  deriving DecidableEq, Repr

/-- The registers by the spec's names; an array register (BS_WIN_w, QE_BOUNDS_r …) is one name and an index. -/
inductive RegName where
  | JT_ID
  | JT_STATUS
  | JT_CTRL
  | JT_LIVE_PLANES
  | JT_ROW_CYCLES
  | JT_GROUP_LIVE_CYCLES
  | JT_GROUP_GATED_CYCLES
  | JT_LOAD_WAIT_CYCLES
  | JT_TILES_LOADED
  | JT_PLANES_SKIPPED
  | JT_S24_TILES
  | SE_ID
  | SE_STATUS
  | SE_CTRL
  | SE_SPAN
  | SE_SPANS_RUN
  | SE_MATCHED_PAIRS
  | SE_LANE_BUSY_CYCLES
  | SE_RUN_CYCLES
  | SE_SKEW_STALLS
  | SE_BUSY_DENSE
  | SE_DECLINED
  | SE_DENSITY_DENSE
  | DZ_CTRL
  | DZ_TEMP
  | DZ_HEAD
  | DZ_ZEROED
  | DZ_OFFSET_TILES
  | DZ_PRESSURE
  | FC_TRK_CFG
  | HZ_TRK_CFG
  | FC_TRK_STAT
  | HZ_TRK_STAT
  | FC_TRK_HITS
  | HZ_TRK_HITS
  | FC_TRK_TRUTH
  | HZ_TRK_TRUTH
  | FC_TRK_OPEN
  | HZ_TRK_OPEN
  | FC_TRK_SAMPLES
  | HZ_TRK_SAMPLES
  | FC_TRK_DROPPED
  | HZ_TRK_DROPPED
  | WR_STEP
  | WR_STATUS
  | WR_SLOT_CFG
  | WR_SLOT_SCALE
  | HL_CTRL
  | HL_THRESH
  | HL_DROPPED
  | HL_QUEUE_DROPPED
  | HL_PENDING
  | BS_ID
  | BS_SLOT_WDOG
  | BS_FRAME
  | BS_DBG_BOUNDS
  | BS_DBG_STATUS
  | BS_WIN_DROP_INFO
  | BS_ECC_INJECT
  | BS_SLIP_COUNT
  | BS_ECC_CORRECTED
  | BS_ECC_UNCORR
  | BS_WIN_DROPS
  | BS_SLOT_WAIT_CYCLES
  | BS_SLOT_TIMEOUTS
  | BS_BOUNDS_HITS
  | BS_WIDE_CONFLICTS
  | BS_WIN
  | BS_SLOT
  | TR_RADIO_GROUPS
  | TR_ISSUE_CFG
  | TR_PREEMPTIONS
  | TR_PREEMPT_LAT
  | DM_STATUS
  | DM_TEMP
  | DM_CFG
  | DM_ERR_INFO
  | DM_CORRECTED
  | DM_UNCORR
  | DM_ROWS_SPARED
  | DM_READ_BYTES
  | DM_WRITE_BYTES
  | DM_SCRUB_PASSES
  | DM_THROTTLE_CYCLES
  | PL_STATUS
  | PL_CFG
  | PL_HOME_W
  | PL_HOME_A
  | PL_TERRACE_HOME
  | PL_FREE
  | PL_UNMAPPED_INFO
  | PL_SPILLS
  | PL_FILLS
  | PL_SPILL_BYTES
  | PL_SPILL_READ_BYTES
  | PL_UNMAPPED
  | PL_PLACED_LOCAL
  | PL_PLACED_OTHER
  | HI_DBG_SEL
  | HI_DBG_HALT
  | QE_STATUS
  | QE_RING_ERR_INFO
  | QE_EV_HEAD
  | QE_BOUNDS_LO
  | QE_BOUNDS_HI
  | QE_CQ_HEAD
  | QE_DISPATCHED
  | QE_RING_ERRORS
  | QE_CQ_FULL_CYCLES
  | QE_EV_LOST
  | QE_CANCELLED
  | MB_PENDING
  | MB_COMPLETED
  | HI_LINK
  | HI_CTRL
  | HI_BAR2_BASE
  | HI_READ_ERRORS
  | HI_POISON_SENT
  | HI_LINK_DOWNS
  | FH_PORT_CFG
  | FH_PORT_STATUS
  | FH_RX_FRAMES
  | FH_DROP_FCS
  | FH_DROP_OTHER
  | FH_DROP_NOFLOW
  | FH_DROP_EARLY
  | FH_DROP_LATE
  | FH_DROP_DUP
  | FH_SEQ_GAPS
  | FH_MISSING_PRB
  | FH_SAT_SAMPLES
  | FH_FLUSHED_SAMPLES
  | FH_SLOT_OVERRUN
  | FH_GRID
  | FH_GRID_DST
  | TM_STATUS
  | TM_NOW
  | TM_PPS_ERR
  | TM_CFG
  | TM_TICK_CFG
  | TM_SLOT
  | TM_PPS_EDGES
  | TM_PPS_MISSED
  | LK_CASCADE
  | LK_GOP_CTRL
  | LK_GOP_CFG
  | LK_GOP_SRC
  | LK_GOP_DST
  | LK_SNAP_DST
  | LK_GOP_LEN
  | LK_GOP_STATUS
  | LK_SNAP_CFG
  | LK_SNAP_TIME
  | LK_PORT_STATUS
  | LK_PORT_CFG
  | LK_TX_FLITS
  | LK_RX_FLITS
  | LK_CRC_ERRORS
  | LK_REPLAYS
  | LK_LANE_FAULTS
  | LK_DOWNS
  | CK_STATUS
  | CK_RESET
  | CK_RESET_CAUSE
  | CK_BRINGUP_CFG
  | CK_BRINGUP_STATUS
  | CK_CDC_FLUSHED
  | CK_CDC_OVERFLOW
  | CK_COMPUTE_RESETS
  | CK_DEVICE_RESETS
  | SP_CFG
  | SP_STATUS
  | SP_PROVISION
  | SP_RESIDUE_ERRORS
  | SP_ACC_CORRECTED
  | SP_REPLAYS
  | SP_REPLAY_CYCLES
  | SP_COLUMNS_SPARED
  | SP_JETS_SPARED
  | SP_ENGINES_SPARED
  | SP_FAILOVERS
  | SP_UNIT_FAULTS
  | SP_UNJOURNALED
  | SP_POOL_ROWS_RETIRED
  | TR_RESERVE
  | TR_COLUMN_SPARES
  | NB_STATUS
  | NB_POWERED
  | NB_LOG_DIE
  | NB_LOG_FLASH
  | NB_LIFETIME_SAVE
  | NB_FLASH_ERASES
  | NB_LIFETIME_SAVES
  | NB_AUTH_FAILURES
  | SC_STATUS
  | SC_UNLOCKS
  | PW_STATUS
  | PW_INPUT
  | PW_CAP
  | PW_CFG
  | PW_SHARE
  | PW_WITHHELD_CYCLES
  | PW_WARNS
  | PW_RIDE_THROUGHS
  | PW_CAP_TICKS
  | PW_THERMAL_TICKS
  | READY_DEVICE
  | READY_STACKS
  | READY_TERRACES
  | READY_BASINS0
  | READY_BASINS1
  | READY_BASINS2
  | READY_PORTS
  | READY_GENERATION
  | MGT_MB_COMPLETED
  | MSIX_ADDR_LO
  | MSIX_ADDR_HI
  | MSIX_DATA
  | MSIX_CTRL
  | MSIX_PBA
  | PCI_ID
  | PCI_COMMAND
  | PCI_CLASS
  | PCI_HEADER
  | PCI_BAR0_LO
  | PCI_BAR0_HI
  | PCI_BAR2_LO
  | PCI_BAR2_HI
  | PCI_BAR4_LO
  | PCI_BAR4_HI
  | PCI_CAP_PTR
  | PCI_PM_CAP
  | PCI_PM_CTRL
  | PCI_MSIX
  | PCI_MSIX_TABLE
  | PCI_MSIX_PBA
  | PCI_EXP_CAP
  | PCI_DEV_CAP
  | PCI_DEV_CTRL
  | PCI_LINK_CAP
  | PCI_LINK_CTRL
  | PCI_DEV_CAP2
  | PCI_DEV_CTRL2
  | PCI_AER
  | PCI_AER_UNCORR
  | PCI_AER_UNCORR_MASK
  | PCI_AER_SEVERITY
  | PCI_AER_CORR
  | PCI_AER_CORR_MASK
  | PCI_AER_CTRL
  | PCI_TPH
  | PCI_TPH_CAP
  | PCI_TPH_CTRL
  | PCI_LINK_CAP2
  | PCI_LINK_CTRL2
  | PCI_DEV3
  | PCI_DEV_CAP3
  | PCI_DEV_CTRL3
  | MCF_ID
  | MCF_COMMAND
  | MCF_CLASS
  | MCF_HEADER
  | MCF_BAR0
  | MCF_BAR2
  | MCF_CAP_PTR
  | MCF_MSIX
  | MCF_MSIX_TABLE
  | MCF_MSIX_PBA
  | MCF_EXP_CAP
  | MCF_DEV_CAP
  | MCF_DEV_CTRL
  | MCF_LINK_CAP
  | MCF_LINK_CTRL
  | MCF_AER
  | MCF_AER_UNCORR
  | MCF_AER_UNCORR_MASK
  | MCF_AER_SEVERITY
  | MCF_AER_CORR
  | MCF_AER_CORR_MASK
  | MCF_AER_CTRL
  | MCF_VEC_ADDR_LO
  | MCF_VEC_ADDR_HI
  | MCF_VEC_DATA
  | MCF_VEC_CTRL
  | MCF_VEC_PENDING
  deriving DecidableEq, Repr

/-- A register of one unit: its name, the unit its block belongs to (physical, R346) and its index in an array. -/
structure RegKey where
  name : RegName
  unit : Nat
  idx : Nat
  deriving DecidableEq, Repr

/-- One row of a register table. -/
structure RegRow where
  blk : Blk
  off : Nat
  stride : Nat
  count : Nat
  wide : Bool
  fields : List Field
  deriving DecidableEq, Repr

/-- The register tables, row by row. -/
def regRow : RegName → RegRow
  | .JT_ID => ⟨.jt, 0x0, 0x0, 1, false, [⟨0, 16, .ro, 0⟩, ⟨16, 10, .ro, 0⟩]⟩
  | .JT_STATUS => ⟨.jt, 0x8, 0x0, 1, false, [⟨0, 2, .ro, 0⟩, ⟨2, 1, .ro, 0⟩, ⟨3, 1, .ro, 0⟩, ⟨4, 1, .ro, 0⟩]⟩
  | .JT_CTRL => ⟨.jt, 0x10, 0x0, 1, false, [⟨0, 1, .rw, 0⟩]⟩
  | .JT_LIVE_PLANES => ⟨.jt, 0x18, 0x0, 1, true, [⟨0, 40, .ro, 0⟩, ⟨40, 6, .ro, 0⟩, ⟨46, 2, .ro, 0⟩, ⟨48, 2, .ro, 0⟩, ⟨50, 1, .ro, 0⟩]⟩
  | .JT_ROW_CYCLES => ⟨.jt, 0x20, 0x0, 1, true, [⟨0, 64, .rc, 0⟩]⟩
  | .JT_GROUP_LIVE_CYCLES => ⟨.jt, 0x28, 0x0, 1, true, [⟨0, 64, .rc, 0⟩]⟩
  | .JT_GROUP_GATED_CYCLES => ⟨.jt, 0x30, 0x0, 1, true, [⟨0, 64, .rc, 0⟩]⟩
  | .JT_LOAD_WAIT_CYCLES => ⟨.jt, 0x38, 0x0, 1, true, [⟨0, 64, .rc, 0⟩]⟩
  | .JT_TILES_LOADED => ⟨.jt, 0x40, 0x0, 1, true, [⟨0, 64, .rc, 0⟩]⟩
  | .JT_PLANES_SKIPPED => ⟨.jt, 0x48, 0x0, 1, true, [⟨0, 64, .rc, 0⟩]⟩
  | .JT_S24_TILES => ⟨.jt, 0x50, 0x0, 1, true, [⟨0, 64, .rc, 0⟩]⟩
  | .SE_ID => ⟨.se, 0x0, 0x0, 1, false, [⟨0, 16, .ro, 0⟩, ⟨16, 9, .ro, 0⟩]⟩
  | .SE_STATUS => ⟨.se, 0x8, 0x0, 1, false, [⟨0, 2, .ro, 0⟩, ⟨2, 1, .ro, 0⟩, ⟨3, 1, .ro, 0⟩, ⟨4, 1, .ro, 0⟩]⟩
  | .SE_CTRL => ⟨.se, 0x10, 0x0, 1, false, [⟨0, 1, .rw, 0⟩]⟩
  | .SE_SPAN => ⟨.se, 0x18, 0x0, 1, true, [⟨0, 40, .ro, 0⟩, ⟨40, 4, .ro, 0⟩, ⟨44, 3, .ro, 0⟩]⟩
  | .SE_SPANS_RUN => ⟨.se, 0x20, 0x0, 1, true, [⟨0, 64, .rc, 0⟩]⟩
  | .SE_MATCHED_PAIRS => ⟨.se, 0x28, 0x0, 1, true, [⟨0, 64, .rc, 0⟩]⟩
  | .SE_LANE_BUSY_CYCLES => ⟨.se, 0x30, 0x0, 1, true, [⟨0, 64, .rc, 0⟩]⟩
  | .SE_RUN_CYCLES => ⟨.se, 0x38, 0x0, 1, true, [⟨0, 64, .rc, 0⟩]⟩
  | .SE_SKEW_STALLS => ⟨.se, 0x40, 0x0, 1, true, [⟨0, 64, .rc, 0⟩]⟩
  | .SE_BUSY_DENSE => ⟨.se, 0x48, 0x0, 1, true, [⟨0, 64, .rc, 0⟩]⟩
  | .SE_DECLINED => ⟨.se, 0x50, 0x0, 1, true, [⟨0, 64, .rc, 0⟩]⟩
  | .SE_DENSITY_DENSE => ⟨.se, 0x58, 0x0, 1, true, [⟨0, 64, .rc, 0⟩]⟩
  | .DZ_CTRL => ⟨.dz, 0x0, 0x0, 1, false, [⟨0, 1, .rw, 0⟩]⟩
  | .DZ_TEMP => ⟨.dz, 0x8, 0x0, 1, false, [⟨0, 12, .rw, 680⟩, ⟨16, 12, .rw, 800⟩]⟩
  | .DZ_HEAD => ⟨.dz, 0x10, 0x0, 1, false, [⟨0, 12, .rw, 40⟩, ⟨16, 12, .rw, 200⟩]⟩
  | .DZ_ZEROED => ⟨.dz, 0x20, 0x0, 1, true, [⟨0, 64, .rc, 0⟩]⟩
  | .DZ_OFFSET_TILES => ⟨.dz, 0x28, 0x0, 1, true, [⟨0, 64, .rc, 0⟩]⟩
  | .DZ_PRESSURE => ⟨.dz, 0x100, 0x4, 35, false, [⟨0, 9, .ro, 0⟩, ⟨9, 1, .ro, 0⟩]⟩
  | .FC_TRK_CFG => ⟨.fc, 0x1000, 0x40, 64, false, [⟨0, 17, .rw, 0⟩, ⟨17, 15, .rw, 0⟩]⟩
  | .HZ_TRK_CFG => ⟨.hz, 0x1000, 0x40, 64, false, [⟨0, 17, .rw, 0⟩, ⟨17, 15, .rw, 0⟩]⟩
  | .FC_TRK_STAT => ⟨.fc, 0x1004, 0x40, 64, false, [⟨0, 17, .ro, 0⟩, ⟨17, 1, .ro, 0⟩, ⟨18, 1, .w1c, 0⟩]⟩
  | .HZ_TRK_STAT => ⟨.hz, 0x1004, 0x40, 64, false, [⟨0, 17, .ro, 0⟩, ⟨17, 1, .ro, 0⟩, ⟨18, 1, .w1c, 0⟩]⟩
  | .FC_TRK_HITS => ⟨.fc, 0x1008, 0x40, 64, true, [⟨0, 64, .ro, 0⟩]⟩
  | .HZ_TRK_HITS => ⟨.hz, 0x1008, 0x40, 64, true, [⟨0, 64, .ro, 0⟩]⟩
  | .FC_TRK_TRUTH => ⟨.fc, 0x1010, 0x40, 64, true, [⟨0, 64, .ro, 0⟩]⟩
  | .HZ_TRK_TRUTH => ⟨.hz, 0x1010, 0x40, 64, true, [⟨0, 64, .ro, 0⟩]⟩
  | .FC_TRK_OPEN => ⟨.fc, 0x1018, 0x40, 64, false, [⟨0, 15, .ro, 0⟩]⟩
  | .HZ_TRK_OPEN => ⟨.hz, 0x1018, 0x40, 64, false, [⟨0, 15, .ro, 0⟩]⟩
  | .FC_TRK_SAMPLES => ⟨.fc, 0x1020, 0x40, 64, true, [⟨0, 64, .rc, 0⟩]⟩
  | .HZ_TRK_SAMPLES => ⟨.hz, 0x1020, 0x40, 64, true, [⟨0, 64, .rc, 0⟩]⟩
  | .FC_TRK_DROPPED => ⟨.fc, 0x1028, 0x40, 64, true, [⟨0, 64, .rc, 0⟩]⟩
  | .HZ_TRK_DROPPED => ⟨.hz, 0x1028, 0x40, 64, true, [⟨0, 64, .rc, 0⟩]⟩
  | .WR_STEP => ⟨.wr, 0x0, 0x0, 1, false, [⟨0, 12, .wo, 0⟩, ⟨12, 12, .wo, 0⟩]⟩
  | .WR_STATUS => ⟨.wr, 0x8, 0x0, 1, false, [⟨0, 1, .ro, 0⟩, ⟨1, 1, .w1c, 0⟩, ⟨2, 5, .ro, 0⟩]⟩
  | .WR_SLOT_CFG => ⟨.wr, 0x4000, 0x4, 4096, false, [⟨0, 6, .rw, 15⟩, ⟨6, 3, .rw, 1⟩, ⟨9, 3, .rw, 0⟩, ⟨12, 2, .rw, 0⟩]⟩
  | .WR_SLOT_SCALE => ⟨.wr, 0x8000, 0x4, 4096, false, [⟨0, 8, .rw, 127⟩, ⟨8, 7, .ro, 0⟩, ⟨15, 1, .ro, 0⟩]⟩
  | .HL_CTRL => ⟨.hl, 0x0, 0x0, 1, false, [⟨0, 1, .rw, 0⟩]⟩
  | .HL_THRESH => ⟨.hl, 0x10, 0x8, 4, true, [⟨0, 32, .rw, 0⟩, ⟨32, 32, .rw, 0⟩]⟩
  | .HL_DROPPED => ⟨.hl, 0x100, 0x20, 35, true, [⟨0, 64, .rc, 0⟩]⟩
  | .HL_QUEUE_DROPPED => ⟨.hl, 0x108, 0x20, 35, true, [⟨0, 64, .rc, 0⟩]⟩
  | .HL_PENDING => ⟨.hl, 0x110, 0x20, 35, false, [⟨0, 5, .ro, 0⟩]⟩
  | .BS_ID => ⟨.bs, 0x0, 0x0, 1, false, [⟨0, 16, .ro, 0⟩, ⟨16, 8, .ro, 0⟩]⟩
  | .BS_SLOT_WDOG => ⟨.bs, 0x8, 0x0, 1, false, [⟨0, 5, .rw, 20⟩, ⟨8, 5, .rw, 15⟩]⟩
  | .BS_FRAME => ⟨.bs, 0x10, 0x0, 1, false, [⟨0, 5, .ro, 0⟩, ⟨5, 1, .ro, 0⟩]⟩
  | .BS_DBG_BOUNDS => ⟨.bs, 0x18, 0x0, 1, false, [⟨0, 1, .rw, 0⟩]⟩
  | .BS_DBG_STATUS => ⟨.bs, 0x1C, 0x0, 1, false, [⟨0, 2, .ro, 0⟩]⟩
  | .BS_WIN_DROP_INFO => ⟨.bs, 0x20, 0x0, 1, true, [⟨0, 23, .ro, 0⟩, ⟨24, 3, .ro, 0⟩, ⟨32, 24, .ro, 0⟩, ⟨63, 1, .w1c, 0⟩]⟩
  | .BS_ECC_INJECT => ⟨.bs, 0x28, 0x0, 1, true, [⟨0, 23, .rw, 0⟩, ⟨24, 8, .rw, 0⟩, ⟨32, 1, .rw, 0⟩, ⟨33, 1, .w1s, 0⟩]⟩
  | .BS_SLIP_COUNT => ⟨.bs, 0x100, 0x0, 1, true, [⟨0, 64, .rc, 0⟩]⟩
  | .BS_ECC_CORRECTED => ⟨.bs, 0x108, 0x0, 1, true, [⟨0, 64, .rc, 0⟩]⟩
  | .BS_ECC_UNCORR => ⟨.bs, 0x110, 0x0, 1, true, [⟨0, 64, .rc, 0⟩]⟩
  | .BS_WIN_DROPS => ⟨.bs, 0x118, 0x0, 1, true, [⟨0, 64, .rc, 0⟩]⟩
  | .BS_SLOT_WAIT_CYCLES => ⟨.bs, 0x120, 0x0, 1, true, [⟨0, 64, .rc, 0⟩]⟩
  | .BS_SLOT_TIMEOUTS => ⟨.bs, 0x128, 0x0, 1, true, [⟨0, 64, .rc, 0⟩]⟩
  | .BS_BOUNDS_HITS => ⟨.bs, 0x130, 0x0, 1, true, [⟨0, 64, .rc, 0⟩]⟩
  | .BS_WIDE_CONFLICTS => ⟨.bs, 0x138, 0x0, 1, true, [⟨0, 64, .rc, 0⟩]⟩
  | .BS_WIN => ⟨.bs, 0x400, 0x8, 16, true, [⟨0, 15, .rw, 0⟩, ⟨16, 15, .rw, 0⟩, ⟨32, 6, .rw, 0⟩, ⟨40, 1, .rw, 0⟩, ⟨41, 1, .ro, 0⟩]⟩
  | .BS_SLOT => ⟨.bs, 0x800, 0x8, 64, true, [⟨0, 15, .rw, 0⟩, ⟨16, 15, .rw, 0⟩, ⟨32, 1, .rw, 0⟩, ⟨33, 1, .ro, 0⟩, ⟨34, 1, .ro, 0⟩]⟩
  | .TR_RADIO_GROUPS => ⟨.tr, 0x200, 0x4, 4, false, [⟨0, 8, .rw, 0⟩]⟩
  | .TR_ISSUE_CFG => ⟨.tr, 0x210, 0x0, 1, false, [⟨0, 2, .rw, 0⟩]⟩
  | .TR_PREEMPTIONS => ⟨.tr, 0x220, 0x8, 4, true, [⟨0, 64, .rc, 0⟩]⟩
  | .TR_PREEMPT_LAT => ⟨.tr, 0x240, 0x4, 4, false, [⟨0, 16, .rc, 0⟩]⟩
  | .DM_STATUS => ⟨.dm, 0x0, 0x0, 1, false, [⟨0, 1, .ro, 0⟩, ⟨1, 1, .ro, 0⟩, ⟨2, 1, .ro, 0⟩, ⟨3, 4, .ro, 0⟩, ⟨7, 1, .ro, 0⟩, ⟨8, 12, .ro, 2048⟩, ⟨20, 1, .ro, 0⟩]⟩
  | .DM_TEMP => ⟨.dm, 0x8, 0x0, 1, false, [⟨0, 12, .ro, 0⟩]⟩
  | .DM_CFG => ⟨.dm, 0x10, 0x0, 1, false, [⟨0, 4, .rw, 4⟩, ⟨4, 8, .rw, 24⟩]⟩
  | .DM_ERR_INFO => ⟨.dm, 0x18, 0x0, 1, true, [⟨0, 34, .ro, 0⟩, ⟨34, 3, .ro, 0⟩, ⟨63, 1, .w1c, 0⟩]⟩
  | .DM_CORRECTED => ⟨.dm, 0x100, 0x0, 1, true, [⟨0, 64, .rc, 0⟩]⟩
  | .DM_UNCORR => ⟨.dm, 0x108, 0x0, 1, true, [⟨0, 64, .rc, 0⟩]⟩
  | .DM_ROWS_SPARED => ⟨.dm, 0x110, 0x0, 1, true, [⟨0, 64, .rc, 0⟩]⟩
  | .DM_READ_BYTES => ⟨.dm, 0x118, 0x0, 1, true, [⟨0, 64, .rc, 0⟩]⟩
  | .DM_WRITE_BYTES => ⟨.dm, 0x120, 0x0, 1, true, [⟨0, 64, .rc, 0⟩]⟩
  | .DM_SCRUB_PASSES => ⟨.dm, 0x128, 0x0, 1, true, [⟨0, 64, .rc, 0⟩]⟩
  | .DM_THROTTLE_CYCLES => ⟨.dm, 0x130, 0x0, 1, true, [⟨0, 64, .rc, 0⟩]⟩
  | .PL_STATUS => ⟨.pl, 0x0, 0x0, 1, false, [⟨0, 1, .ro, 0⟩, ⟨1, 17, .ro, 0⟩]⟩
  | .PL_CFG => ⟨.pl, 0x8, 0x0, 1, false, [⟨0, 1, .rw, 1⟩, ⟨1, 1, .rw, 0⟩]⟩
  | .PL_HOME_W => ⟨.pl, 0x10, 0x0, 1, false, [⟨0, 15, .rw, 0⟩, ⟨16, 15, .rw, 0⟩, ⟨31, 1, .rw, 0⟩]⟩
  | .PL_HOME_A => ⟨.pl, 0x14, 0x0, 1, false, [⟨0, 15, .rw, 0⟩, ⟨16, 15, .rw, 0⟩, ⟨31, 1, .rw, 0⟩]⟩
  | .PL_TERRACE_HOME => ⟨.pl, 0x100, 0x4, 35, false, [⟨0, 4, .ro, 0⟩, ⟨4, 6, .ro, 0⟩]⟩
  | .PL_FREE => ⟨.pl, 0x200, 0x8, 16, true, [⟨0, 64, .ro, 0⟩]⟩
  | .PL_UNMAPPED_INFO => ⟨.pl, 0x300, 0x0, 1, true, [⟨0, 56, .ro, 0⟩, ⟨63, 1, .w1c, 0⟩]⟩
  | .PL_SPILLS => ⟨.pl, 0x400, 0x0, 1, true, [⟨0, 64, .rc, 0⟩]⟩
  | .PL_FILLS => ⟨.pl, 0x408, 0x0, 1, true, [⟨0, 64, .rc, 0⟩]⟩
  | .PL_SPILL_BYTES => ⟨.pl, 0x410, 0x0, 1, true, [⟨0, 64, .rc, 0⟩]⟩
  | .PL_SPILL_READ_BYTES => ⟨.pl, 0x418, 0x0, 1, true, [⟨0, 64, .rc, 0⟩]⟩
  | .PL_UNMAPPED => ⟨.pl, 0x420, 0x0, 1, true, [⟨0, 64, .rc, 0⟩]⟩
  | .PL_PLACED_LOCAL => ⟨.pl, 0x428, 0x0, 1, true, [⟨0, 64, .rc, 0⟩]⟩
  | .PL_PLACED_OTHER => ⟨.pl, 0x430, 0x0, 1, true, [⟨0, 64, .rc, 0⟩]⟩
  | .HI_DBG_SEL => ⟨.dbg, 0x80000, 0x0, 1, false, [⟨0, 10, .rw, 0⟩, ⟨16, 8, .rw, 0⟩]⟩
  | .HI_DBG_HALT => ⟨.dbg, 0x80008, 0x0, 1, false, [⟨0, 1, .rw, 0⟩, ⟨1, 1, .ro, 0⟩]⟩
  | .QE_STATUS => ⟨.qe, 0x0, 0x0, 1, false, [⟨0, 17, .ro, 0⟩, ⟨17, 13, .ro, 0⟩, ⟨30, 1, .ro, 0⟩]⟩
  | .QE_RING_ERR_INFO => ⟨.qe, 0x8, 0x0, 1, true, [⟨0, 16, .ro, 0⟩, ⟨16, 4, .ro, 0⟩, ⟨63, 1, .w1c, 0⟩]⟩
  | .QE_EV_HEAD => ⟨.qe, 0x10, 0x0, 1, false, [⟨0, 32, .rw, 0⟩]⟩
  | .QE_BOUNDS_LO => ⟨.qe, 0x1000, 0x10, 256, true, [⟨0, 32, .rw, 0⟩, ⟨32, 32, .rw, 0⟩]⟩
  | .QE_BOUNDS_HI => ⟨.qe, 0x1008, 0x10, 256, true, [⟨0, 32, .rw, 0⟩]⟩
  | .QE_CQ_HEAD => ⟨.qe, 0x4000, 0x4, 4096, false, [⟨0, 32, .rw, 0⟩]⟩
  | .QE_DISPATCHED => ⟨.qe, 0x100, 0x0, 1, true, [⟨0, 64, .rc, 0⟩]⟩
  | .QE_RING_ERRORS => ⟨.qe, 0x108, 0x0, 1, true, [⟨0, 64, .rc, 0⟩]⟩
  | .QE_CQ_FULL_CYCLES => ⟨.qe, 0x110, 0x0, 1, true, [⟨0, 64, .rc, 0⟩]⟩
  | .QE_EV_LOST => ⟨.qe, 0x118, 0x0, 1, true, [⟨0, 64, .rc, 0⟩]⟩
  | .QE_CANCELLED => ⟨.qe, 0x120, 0x0, 1, true, [⟨0, 64, .rc, 0⟩]⟩
  | .MB_PENDING => ⟨.mb, 0x0, 0x0, 1, true, [⟨0, 64, .ro, 0⟩]⟩
  | .MB_COMPLETED => ⟨.mb, 0x8, 0x0, 1, true, [⟨0, 64, .w1c, 0⟩]⟩
  | .HI_LINK => ⟨.hi, 0x0, 0x0, 1, false, [⟨0, 4, .ro, 0⟩, ⟨4, 5, .ro, 0⟩, ⟨9, 1, .ro, 0⟩, ⟨10, 1, .ro, 0⟩]⟩
  | .HI_CTRL => ⟨.hi, 0x8, 0x0, 1, false, [⟨0, 1, .rw, 1⟩, ⟨1, 1, .rw, 0⟩, ⟨8, 8, .rw, 0⟩]⟩
  | .HI_BAR2_BASE => ⟨.hi, 0x10, 0x0, 1, true, [⟨30, 26, .rw, 0⟩]⟩
  | .HI_READ_ERRORS => ⟨.hi, 0x100, 0x0, 1, true, [⟨0, 64, .rc, 0⟩]⟩
  | .HI_POISON_SENT => ⟨.hi, 0x108, 0x0, 1, true, [⟨0, 64, .rc, 0⟩]⟩
  | .HI_LINK_DOWNS => ⟨.hi, 0x110, 0x0, 1, true, [⟨0, 64, .rc, 0⟩]⟩
  | .FH_PORT_CFG => ⟨.fh, 0x0, 0x100, 2, true, [⟨0, 48, .rw, 0⟩, ⟨48, 1, .rw, 0⟩, ⟨49, 1, .rw, 0⟩]⟩
  | .FH_PORT_STATUS => ⟨.fh, 0x8, 0x100, 2, false, [⟨0, 1, .ro, 0⟩]⟩
  | .FH_RX_FRAMES => ⟨.fh, 0x20, 0x100, 2, true, [⟨0, 64, .rc, 0⟩]⟩
  | .FH_DROP_FCS => ⟨.fh, 0x28, 0x100, 2, true, [⟨0, 64, .rc, 0⟩]⟩
  | .FH_DROP_OTHER => ⟨.fh, 0x30, 0x100, 2, true, [⟨0, 64, .rc, 0⟩]⟩
  | .FH_DROP_NOFLOW => ⟨.fh, 0x38, 0x100, 2, true, [⟨0, 64, .rc, 0⟩]⟩
  | .FH_DROP_EARLY => ⟨.fh, 0x40, 0x100, 2, true, [⟨0, 64, .rc, 0⟩]⟩
  | .FH_DROP_LATE => ⟨.fh, 0x48, 0x100, 2, true, [⟨0, 64, .rc, 0⟩]⟩
  | .FH_DROP_DUP => ⟨.fh, 0x50, 0x100, 2, true, [⟨0, 64, .rc, 0⟩]⟩
  | .FH_SEQ_GAPS => ⟨.fh, 0x58, 0x100, 2, true, [⟨0, 64, .rc, 0⟩]⟩
  | .FH_MISSING_PRB => ⟨.fh, 0x300, 0x0, 1, true, [⟨0, 64, .rc, 0⟩]⟩
  | .FH_SAT_SAMPLES => ⟨.fh, 0x308, 0x0, 1, true, [⟨0, 64, .rc, 0⟩]⟩
  | .FH_FLUSHED_SAMPLES => ⟨.fh, 0x310, 0x0, 1, true, [⟨0, 64, .rc, 0⟩]⟩
  | .FH_SLOT_OVERRUN => ⟨.fh, 0x318, 0x0, 1, true, [⟨0, 64, .rc, 0⟩]⟩
  | .FH_GRID => ⟨.fh, 0x1000, 0x10, 64, true, [⟨0, 32, .ro, 0⟩, ⟨32, 8, .ro, 0⟩, ⟨40, 4, .ro, 0⟩, ⟨44, 6, .ro, 0⟩, ⟨63, 1, .ro, 0⟩]⟩
  | .FH_GRID_DST => ⟨.fh, 0x1008, 0x10, 64, true, [⟨0, 64, .ro, 0⟩]⟩
  | .TM_STATUS => ⟨.tm, 0x0, 0x0, 1, false, [⟨0, 2, .ro, 0⟩, ⟨2, 1, .ro, 0⟩, ⟨3, 1, .ro, 0⟩, ⟨4, 1, .ro, 0⟩, ⟨5, 1, .ro, 0⟩]⟩
  | .TM_NOW => ⟨.tm, 0x8, 0x0, 1, true, [⟨0, 64, .ro, 0⟩]⟩
  | .TM_PPS_ERR => ⟨.tm, 0x10, 0x0, 1, false, [⟨0, 32, .ro, 0⟩]⟩
  | .TM_CFG => ⟨.tm, 0x18, 0x0, 1, false, [⟨0, 16, .rw, 100⟩, ⟨16, 16, .rw, 60⟩]⟩
  | .TM_TICK_CFG => ⟨.tm, 0x20, 0x0, 1, true, [⟨0, 3, .rw, 1⟩, ⟨3, 1, .rw, 0⟩, ⟨8, 24, .rw, 0⟩]⟩
  | .TM_SLOT => ⟨.tm, 0x28, 0x0, 1, false, [⟨0, 4, .ro, 0⟩, ⟨4, 6, .ro, 0⟩, ⟨10, 4, .ro, 0⟩, ⟨14, 8, .ro, 0⟩]⟩
  | .TM_PPS_EDGES => ⟨.tm, 0x100, 0x0, 1, true, [⟨0, 64, .rc, 0⟩]⟩
  | .TM_PPS_MISSED => ⟨.tm, 0x108, 0x0, 1, true, [⟨0, 64, .rc, 0⟩]⟩
  | .LK_CASCADE => ⟨.lk, 0x0, 0x0, 1, true, [⟨0, 2, .ro, 0⟩, ⟨2, 1, .ro, 0⟩, ⟨3, 1, .ro, 0⟩, ⟨4, 1, .ro, 0⟩, ⟨8, 8, .ro, 0⟩, ⟨16, 8, .ro, 0⟩, ⟨24, 9, .ro, 0⟩, ⟨33, 8, .ro, 0⟩, ⟨41, 2, .ro, 0⟩, ⟨43, 8, .ro, 0⟩]⟩
  | .LK_GOP_CTRL => ⟨.lk, 0x10, 0x0, 1, false, [⟨0, 3, .wo, 0⟩]⟩
  | .LK_GOP_CFG => ⟨.lk, 0x18, 0x0, 1, false, [⟨0, 16, .rw, 1000⟩]⟩
  | .LK_GOP_SRC => ⟨.lk, 0x20, 0x0, 1, true, [⟨0, 56, .rw, 0⟩]⟩
  | .LK_GOP_DST => ⟨.lk, 0x28, 0x0, 1, true, [⟨0, 56, .rw, 0⟩]⟩
  | .LK_SNAP_DST => ⟨.lk, 0x48, 0x0, 1, true, [⟨0, 56, .rw, 0⟩]⟩
  | .LK_GOP_LEN => ⟨.lk, 0x30, 0x0, 1, false, [⟨0, 32, .rw, 0⟩]⟩
  | .LK_GOP_STATUS => ⟨.lk, 0x38, 0x0, 1, false, [⟨0, 1, .ro, 0⟩, ⟨1, 1, .w1c, 0⟩, ⟨2, 2, .ro, 0⟩, ⟨4, 3, .ro, 0⟩, ⟨7, 9, .ro, 0⟩, ⟨16, 16, .ro, 0⟩]⟩
  | .LK_SNAP_CFG => ⟨.lk, 0x40, 0x0, 1, false, [⟨0, 12, .rw, 0⟩, ⟨12, 13, .rw, 0⟩, ⟨25, 1, .rw, 0⟩]⟩
  | .LK_SNAP_TIME => ⟨.lk, 0x50, 0x0, 1, true, [⟨0, 64, .ro, 0⟩]⟩
  | .LK_PORT_STATUS => ⟨.lk, 0x1000, 0x100, 16, false, [⟨0, 1, .ro, 0⟩, ⟨1, 4, .ro, 0⟩, ⟨5, 1, .ro, 0⟩, ⟨6, 8, .ro, 0⟩, ⟨14, 1, .ro, 0⟩]⟩
  | .LK_PORT_CFG => ⟨.lk, 0x1008, 0x100, 16, false, [⟨0, 1, .rw, 1⟩, ⟨8, 5, .rw, 20⟩]⟩
  | .LK_TX_FLITS => ⟨.lk, 0x1020, 0x100, 16, true, [⟨0, 64, .rc, 0⟩]⟩
  | .LK_RX_FLITS => ⟨.lk, 0x1028, 0x100, 16, true, [⟨0, 64, .rc, 0⟩]⟩
  | .LK_CRC_ERRORS => ⟨.lk, 0x1030, 0x100, 16, true, [⟨0, 64, .rc, 0⟩]⟩
  | .LK_REPLAYS => ⟨.lk, 0x1038, 0x100, 16, true, [⟨0, 64, .rc, 0⟩]⟩
  | .LK_LANE_FAULTS => ⟨.lk, 0x1040, 0x100, 16, true, [⟨0, 64, .rc, 0⟩]⟩
  | .LK_DOWNS => ⟨.lk, 0x1048, 0x100, 16, true, [⟨0, 64, .rc, 0⟩]⟩
  | .CK_STATUS => ⟨.ck, 0x0, 0x0, 1, false, [⟨0, 1, .ro, 0⟩, ⟨1, 1, .ro, 0⟩]⟩
  | .CK_RESET => ⟨.ck, 0x8, 0x0, 1, false, [⟨0, 2, .wo, 0⟩, ⟨8, 8, .wo, 0⟩]⟩
  | .CK_RESET_CAUSE => ⟨.ck, 0x10, 0x0, 1, false, [⟨0, 3, .ro, 0⟩]⟩
  | .CK_BRINGUP_CFG => ⟨.ck, 0x18, 0x0, 1, false, [⟨0, 2, .rw, 0⟩]⟩
  | .CK_BRINGUP_STATUS => ⟨.ck, 0x20, 0x0, 1, false, [⟨0, 6, .ro, 0⟩, ⟨6, 6, .ro, 0⟩, ⟨12, 5, .ro, 0⟩, ⟨17, 15, .ro, 0⟩]⟩
  | .CK_CDC_FLUSHED => ⟨.ck, 0x100, 0x0, 1, true, [⟨0, 64, .rc, 0⟩]⟩
  | .CK_CDC_OVERFLOW => ⟨.ck, 0x108, 0x0, 1, true, [⟨0, 64, .rc, 0⟩]⟩
  | .CK_COMPUTE_RESETS => ⟨.ck, 0x110, 0x0, 1, true, [⟨0, 64, .rc, 0⟩]⟩
  | .CK_DEVICE_RESETS => ⟨.ck, 0x118, 0x0, 1, true, [⟨0, 64, .rc, 0⟩]⟩
  | .SP_CFG => ⟨.sp, 0x0, 0x0, 1, false, [⟨0, 16, .rw, 168⟩, ⟨16, 8, .rw, 16⟩]⟩
  | .SP_STATUS => ⟨.sp, 0x8, 0x0, 1, false, [⟨0, 2, .ro, 3⟩, ⟨2, 6, .ro, 0⟩]⟩
  | .SP_PROVISION => ⟨.sp, 0x100, 0x8, 32, true, [⟨0, 56, .rw, 0⟩]⟩
  | .SP_RESIDUE_ERRORS => ⟨.sp, 0x400, 0x0, 1, true, [⟨0, 64, .rc, 0⟩]⟩
  | .SP_ACC_CORRECTED => ⟨.sp, 0x408, 0x0, 1, true, [⟨0, 64, .rc, 0⟩]⟩
  | .SP_REPLAYS => ⟨.sp, 0x410, 0x0, 1, true, [⟨0, 64, .rc, 0⟩]⟩
  | .SP_REPLAY_CYCLES => ⟨.sp, 0x418, 0x0, 1, true, [⟨0, 64, .rc, 0⟩]⟩
  | .SP_COLUMNS_SPARED => ⟨.sp, 0x420, 0x0, 1, true, [⟨0, 64, .rc, 0⟩]⟩
  | .SP_JETS_SPARED => ⟨.sp, 0x428, 0x0, 1, true, [⟨0, 64, .rc, 0⟩]⟩
  | .SP_ENGINES_SPARED => ⟨.sp, 0x430, 0x0, 1, true, [⟨0, 64, .rc, 0⟩]⟩
  | .SP_FAILOVERS => ⟨.sp, 0x438, 0x0, 1, true, [⟨0, 64, .rc, 0⟩]⟩
  | .SP_UNIT_FAULTS => ⟨.sp, 0x440, 0x0, 1, true, [⟨0, 64, .rc, 0⟩]⟩
  | .SP_UNJOURNALED => ⟨.sp, 0x448, 0x0, 1, true, [⟨0, 64, .rc, 0⟩]⟩
  | .SP_POOL_ROWS_RETIRED => ⟨.sp, 0x450, 0x0, 1, true, [⟨0, 64, .rc, 0⟩]⟩
  | .TR_RESERVE => ⟨.tr, 0x300, 0x0, 1, false, [⟨0, 1, .ro, 0⟩, ⟨1, 4, .ro, 0⟩, ⟨5, 1, .ro, 0⟩]⟩
  | .TR_COLUMN_SPARES => ⟨.tr, 0x310, 0x4, 4, false, [⟨0, 8, .ro, 0⟩, ⟨8, 8, .ro, 0⟩]⟩
  | .NB_STATUS => ⟨.nb, 0x0, 0x0, 1, false, [⟨0, 1, .ro, 0⟩, ⟨1, 1, .ro, 0⟩, ⟨2, 1, .ro, 0⟩, ⟨3, 1, .ro, 0⟩]⟩
  | .NB_POWERED => ⟨.nb, 0x8, 0x0, 1, true, [⟨0, 32, .ro, 0⟩, ⟨32, 32, .ro, 0⟩]⟩
  | .NB_LOG_DIE => ⟨.nb, 0x10, 0x0, 1, true, [⟨0, 64, .ro, 0⟩]⟩
  | .NB_LOG_FLASH => ⟨.nb, 0x18, 0x0, 1, true, [⟨0, 64, .ro, 0⟩]⟩
  | .NB_LIFETIME_SAVE => ⟨.nb, 0x20, 0x0, 1, false, [⟨0, 1, .wo, 0⟩]⟩
  | .NB_FLASH_ERASES => ⟨.nb, 0x100, 0x0, 1, true, [⟨0, 64, .rc, 0⟩]⟩
  | .NB_LIFETIME_SAVES => ⟨.nb, 0x108, 0x0, 1, true, [⟨0, 64, .rc, 0⟩]⟩
  | .NB_AUTH_FAILURES => ⟨.nb, 0x110, 0x0, 1, true, [⟨0, 64, .rc, 0⟩]⟩
  | .SC_STATUS => ⟨.sc, 0x0, 0x0, 1, false, [⟨0, 1, .ro, 0⟩, ⟨1, 1, .ro, 0⟩, ⟨2, 1, .ro, 0⟩, ⟨3, 1, .ro, 0⟩, ⟨4, 1, .ro, 0⟩, ⟨5, 1, .ro, 0⟩, ⟨6, 7, .ro, 0⟩, ⟨13, 7, .ro, 0⟩, ⟨20, 7, .ro, 0⟩]⟩
  | .SC_UNLOCKS => ⟨.sc, 0x8, 0x0, 1, false, [⟨0, 32, .ro, 0⟩]⟩
  | .PW_STATUS => ⟨.pw, 0x0, 0x0, 1, false, [⟨0, 2, .ro, 0⟩, ⟨2, 1, .ro, 0⟩, ⟨3, 1, .ro, 0⟩, ⟨4, 1, .ro, 0⟩, ⟨5, 3, .ro, 0⟩]⟩
  | .PW_INPUT => ⟨.pw, 0x8, 0x0, 1, false, [⟨0, 16, .ro, 0⟩, ⟨16, 16, .ro, 0⟩]⟩
  | .PW_CAP => ⟨.pw, 0x10, 0x0, 1, false, [⟨0, 11, .rw, 900⟩, ⟨16, 8, .rw, 20⟩]⟩
  | .PW_CFG => ⟨.pw, 0x18, 0x0, 1, false, [⟨0, 1, .rw, 1⟩, ⟨8, 8, .rw, 32⟩]⟩
  | .PW_SHARE => ⟨.pw, 0x100, 0x4, 35, false, [⟨0, 9, .ro, 256⟩, ⟨9, 9, .ro, 256⟩]⟩
  | .PW_WITHHELD_CYCLES => ⟨.pw, 0x200, 0x0, 1, true, [⟨0, 64, .rc, 0⟩]⟩
  | .PW_WARNS => ⟨.pw, 0x208, 0x0, 1, true, [⟨0, 64, .rc, 0⟩]⟩
  | .PW_RIDE_THROUGHS => ⟨.pw, 0x210, 0x0, 1, true, [⟨0, 64, .rc, 0⟩]⟩
  | .PW_CAP_TICKS => ⟨.pw, 0x218, 0x0, 1, true, [⟨0, 64, .rc, 0⟩]⟩
  | .PW_THERMAL_TICKS => ⟨.pw, 0x220, 0x0, 1, true, [⟨0, 64, .rc, 0⟩]⟩
  | .READY_DEVICE => ⟨.ready, 0x0, 0x0, 1, true, [⟨0, 64, .ro, 0⟩]⟩
  | .READY_STACKS => ⟨.ready, 0x8, 0x0, 1, true, [⟨0, 64, .ro, 0⟩]⟩
  | .READY_TERRACES => ⟨.ready, 0x10, 0x0, 1, true, [⟨0, 64, .ro, 0⟩]⟩
  | .READY_BASINS0 => ⟨.ready, 0x18, 0x0, 1, true, [⟨0, 64, .ro, 0⟩]⟩
  | .READY_BASINS1 => ⟨.ready, 0x20, 0x0, 1, true, [⟨0, 64, .ro, 0⟩]⟩
  | .READY_BASINS2 => ⟨.ready, 0x28, 0x0, 1, true, [⟨0, 64, .ro, 0⟩]⟩
  | .READY_PORTS => ⟨.ready, 0x30, 0x0, 1, true, [⟨0, 64, .ro, 0⟩]⟩
  | .READY_GENERATION => ⟨.ready, 0x38, 0x0, 1, true, [⟨0, 64, .ro, 0⟩]⟩
  | .MGT_MB_COMPLETED => ⟨.mgt, 0x8000, 0x0, 1, true, [⟨0, 8, .w1c, 0⟩]⟩
  | .MSIX_ADDR_LO => ⟨.hi, 0x4000, 0x10, 2048, false, [⟨0, 32, .rw, 0⟩]⟩
  | .MSIX_ADDR_HI => ⟨.hi, 0x4004, 0x10, 2048, false, [⟨0, 32, .rw, 0⟩]⟩
  | .MSIX_DATA => ⟨.hi, 0x4008, 0x10, 2048, false, [⟨0, 32, .rw, 0⟩]⟩
  | .MSIX_CTRL => ⟨.hi, 0x400C, 0x10, 2048, false, [⟨0, 1, .rw, 1⟩]⟩
  | .MSIX_PBA => ⟨.hi, 0xC000, 0x4, 64, false, [⟨0, 32, .ro, 0⟩]⟩
  | .PCI_ID => ⟨.cfg, 0x0, 0x0, 1, false, [⟨0, 16, .ro, 0⟩, ⟨16, 16, .ro, 0⟩]⟩
  | .PCI_COMMAND => ⟨.cfg, 0x4, 0x0, 1, false, [⟨1, 1, .rw, 0⟩, ⟨2, 1, .rw, 0⟩, ⟨6, 1, .rw, 0⟩, ⟨8, 1, .rw, 0⟩, ⟨10, 1, .rw, 0⟩, ⟨20, 1, .ro, 1⟩, ⟨24, 1, .w1c, 0⟩, ⟨27, 5, .w1c, 0⟩]⟩
  | .PCI_CLASS => ⟨.cfg, 0x8, 0x0, 1, false, [⟨0, 8, .ro, 0⟩, ⟨8, 24, .ro, 0x120000⟩]⟩
  | .PCI_HEADER => ⟨.cfg, 0xC, 0x0, 1, false, [⟨0, 8, .rw, 0⟩, ⟨16, 8, .ro, 0⟩]⟩
  | .PCI_BAR0_LO => ⟨.cfg, 0x10, 0x0, 1, false, [⟨0, 4, .ro, 4⟩, ⟨26, 6, .rw, 0⟩]⟩
  | .PCI_BAR0_HI => ⟨.cfg, 0x14, 0x0, 1, false, [⟨0, 32, .rw, 0⟩]⟩
  | .PCI_BAR2_LO => ⟨.cfg, 0x18, 0x0, 1, false, [⟨0, 4, .ro, 12⟩]⟩
  | .PCI_BAR2_HI => ⟨.cfg, 0x1C, 0x0, 1, false, [⟨4, 28, .rw, 0⟩]⟩
  | .PCI_BAR4_LO => ⟨.cfg, 0x20, 0x0, 1, false, [⟨0, 4, .ro, 4⟩, ⟨24, 8, .rw, 0⟩]⟩
  | .PCI_BAR4_HI => ⟨.cfg, 0x24, 0x0, 1, false, [⟨0, 32, .rw, 0⟩]⟩
  | .PCI_CAP_PTR => ⟨.cfg, 0x34, 0x0, 1, false, [⟨0, 8, .ro, 64⟩]⟩
  | .PCI_PM_CAP => ⟨.cfg, 0x40, 0x0, 1, false, [⟨0, 8, .ro, 1⟩, ⟨8, 8, .ro, 80⟩, ⟨16, 3, .ro, 3⟩]⟩
  | .PCI_PM_CTRL => ⟨.cfg, 0x44, 0x0, 1, false, [⟨0, 2, .ro, 0⟩, ⟨3, 1, .ro, 1⟩]⟩
  | .PCI_MSIX => ⟨.cfg, 0x50, 0x0, 1, false, [⟨0, 8, .ro, 17⟩, ⟨8, 8, .ro, 96⟩, ⟨16, 11, .ro, 0x7ff⟩, ⟨30, 1, .rw, 0⟩, ⟨31, 1, .rw, 0⟩]⟩
  | .PCI_MSIX_TABLE => ⟨.cfg, 0x54, 0x0, 1, false, [⟨0, 32, .ro, 0x1424000⟩]⟩
  | .PCI_MSIX_PBA => ⟨.cfg, 0x58, 0x0, 1, false, [⟨0, 32, .ro, 0x142c000⟩]⟩
  | .PCI_EXP_CAP => ⟨.cfg, 0x60, 0x0, 1, false, [⟨0, 8, .ro, 16⟩, ⟨8, 8, .ro, 0⟩, ⟨16, 4, .ro, 2⟩, ⟨31, 1, .ro, 1⟩]⟩
  | .PCI_DEV_CAP => ⟨.cfg, 0x64, 0x0, 1, false, [⟨0, 3, .ro, 2⟩, ⟨5, 1, .ro, 1⟩, ⟨15, 1, .ro, 1⟩, ⟨28, 1, .ro, 1⟩]⟩
  | .PCI_DEV_CTRL => ⟨.cfg, 0x68, 0x0, 1, false, [⟨0, 4, .rw, 0⟩, ⟨4, 1, .rw, 1⟩, ⟨5, 3, .rw, 0⟩, ⟨8, 1, .rw, 1⟩, ⟨11, 1, .rw, 0⟩, ⟨12, 3, .rw, 2⟩, ⟨16, 4, .w1c, 0⟩]⟩
  | .PCI_LINK_CAP => ⟨.cfg, 0x6C, 0x0, 1, false, [⟨0, 4, .ro, 6⟩, ⟨4, 6, .ro, 16⟩, ⟨10, 2, .ro, 2⟩]⟩
  | .PCI_LINK_CTRL => ⟨.cfg, 0x70, 0x0, 1, false, [⟨0, 2, .rw, 0⟩, ⟨16, 4, .ro, 0⟩, ⟨20, 6, .ro, 0⟩]⟩
  | .PCI_DEV_CAP2 => ⟨.cfg, 0x84, 0x0, 1, false, [⟨16, 2, .ro, 3⟩]⟩
  | .PCI_DEV_CTRL2 => ⟨.cfg, 0x88, 0x0, 1, false, [⟨0, 4, .rw, 0⟩, ⟨12, 1, .rw, 0⟩]⟩
  | .PCI_AER => ⟨.cfg, 0x100, 0x0, 1, false, [⟨0, 16, .ro, 1⟩, ⟨16, 4, .ro, 2⟩, ⟨20, 12, .ro, 320⟩]⟩
  | .PCI_AER_UNCORR => ⟨.cfg, 0x104, 0x0, 1, false, [⟨4, 22, .w1c, 0⟩]⟩
  | .PCI_AER_UNCORR_MASK => ⟨.cfg, 0x108, 0x0, 1, false, [⟨4, 22, .rw, 0⟩]⟩
  | .PCI_AER_SEVERITY => ⟨.cfg, 0x10C, 0x0, 1, false, [⟨4, 22, .rw, 0x46203⟩]⟩
  | .PCI_AER_CORR => ⟨.cfg, 0x110, 0x0, 1, false, [⟨0, 16, .w1c, 0⟩]⟩
  | .PCI_AER_CORR_MASK => ⟨.cfg, 0x114, 0x0, 1, false, [⟨0, 13, .rw, 0⟩, ⟨13, 1, .rw, 1⟩, ⟨14, 2, .rw, 0⟩]⟩
  | .PCI_AER_CTRL => ⟨.cfg, 0x118, 0x0, 1, false, [⟨0, 5, .ro, 0⟩]⟩
  | .PCI_TPH => ⟨.cfg, 0x140, 0x0, 1, false, [⟨0, 16, .ro, 23⟩, ⟨16, 4, .ro, 1⟩, ⟨20, 12, .ro, 336⟩]⟩
  | .PCI_TPH_CAP => ⟨.cfg, 0x144, 0x0, 1, false, [⟨0, 1, .ro, 1⟩]⟩
  | .PCI_TPH_CTRL => ⟨.cfg, 0x148, 0x0, 1, false, [⟨0, 3, .ro, 0⟩, ⟨8, 2, .rw, 0⟩]⟩
  | .PCI_LINK_CAP2 => ⟨.cfg, 0x8C, 0x0, 1, false, [⟨1, 6, .ro, 0x3f⟩]⟩
  | .PCI_LINK_CTRL2 => ⟨.cfg, 0x90, 0x0, 1, false, [⟨0, 4, .rw, 6⟩, ⟨26, 1, .ro, 0⟩]⟩
  | .PCI_DEV3 => ⟨.cfg, 0x150, 0x0, 1, false, [⟨0, 16, .ro, 47⟩, ⟨16, 4, .ro, 1⟩, ⟨20, 12, .ro, 0⟩]⟩
  | .PCI_DEV_CAP3 => ⟨.cfg, 0x154, 0x0, 1, false, [⟨1, 2, .ro, 3⟩]⟩
  | .PCI_DEV_CTRL3 => ⟨.cfg, 0x158, 0x0, 1, false, [⟨2, 1, .rw, 0⟩]⟩
  | .MCF_ID => ⟨.mcf, 0x0, 0x0, 1, false, [⟨0, 16, .ro, 0⟩, ⟨16, 16, .ro, 0⟩]⟩
  | .MCF_COMMAND => ⟨.mcf, 0x4, 0x0, 1, false, [⟨1, 1, .rw, 0⟩, ⟨2, 1, .rw, 0⟩, ⟨6, 1, .rw, 0⟩, ⟨8, 1, .rw, 0⟩, ⟨10, 1, .rw, 0⟩, ⟨20, 1, .ro, 1⟩, ⟨24, 1, .w1c, 0⟩, ⟨27, 5, .w1c, 0⟩]⟩
  | .MCF_CLASS => ⟨.mcf, 0x8, 0x0, 1, false, [⟨0, 8, .ro, 0⟩, ⟨8, 24, .ro, 0⟩]⟩
  | .MCF_HEADER => ⟨.mcf, 0xC, 0x0, 1, false, [⟨0, 8, .rw, 0⟩, ⟨16, 8, .ro, 0⟩]⟩
  | .MCF_BAR0 => ⟨.mcf, 0x10, 0x0, 1, false, [⟨16, 16, .rw, 0⟩]⟩
  | .MCF_BAR2 => ⟨.mcf, 0x18, 0x0, 1, false, [⟨12, 20, .rw, 0⟩]⟩
  | .MCF_CAP_PTR => ⟨.mcf, 0x34, 0x0, 1, false, [⟨0, 8, .ro, 80⟩]⟩
  | .MCF_MSIX => ⟨.mcf, 0x50, 0x0, 1, false, [⟨0, 8, .ro, 17⟩, ⟨8, 8, .ro, 96⟩, ⟨16, 11, .ro, 0⟩, ⟨30, 1, .rw, 0⟩, ⟨31, 1, .rw, 0⟩]⟩
  | .MCF_MSIX_TABLE => ⟨.mcf, 0x54, 0x0, 1, false, [⟨0, 32, .ro, 2⟩]⟩
  | .MCF_MSIX_PBA => ⟨.mcf, 0x58, 0x0, 1, false, [⟨0, 32, .ro, 18⟩]⟩
  | .MCF_EXP_CAP => ⟨.mcf, 0x60, 0x0, 1, false, [⟨0, 8, .ro, 16⟩, ⟨8, 8, .ro, 0⟩, ⟨16, 4, .ro, 2⟩]⟩
  | .MCF_DEV_CAP => ⟨.mcf, 0x64, 0x0, 1, false, [⟨0, 3, .ro, 1⟩, ⟨15, 1, .ro, 1⟩]⟩
  | .MCF_DEV_CTRL => ⟨.mcf, 0x68, 0x0, 1, false, [⟨0, 4, .rw, 0⟩, ⟨5, 3, .rw, 0⟩, ⟨12, 3, .rw, 2⟩, ⟨16, 4, .w1c, 0⟩]⟩
  | .MCF_LINK_CAP => ⟨.mcf, 0x6C, 0x0, 1, false, [⟨0, 4, .ro, 4⟩, ⟨4, 6, .ro, 2⟩]⟩
  | .MCF_LINK_CTRL => ⟨.mcf, 0x70, 0x0, 1, false, [⟨16, 4, .ro, 4⟩, ⟨20, 6, .ro, 2⟩]⟩
  | .MCF_AER => ⟨.mcf, 0x100, 0x0, 1, false, [⟨0, 16, .ro, 1⟩, ⟨16, 4, .ro, 2⟩, ⟨20, 12, .ro, 0⟩]⟩
  | .MCF_AER_UNCORR => ⟨.mcf, 0x104, 0x0, 1, false, [⟨4, 22, .w1c, 0⟩]⟩
  | .MCF_AER_UNCORR_MASK => ⟨.mcf, 0x108, 0x0, 1, false, [⟨4, 22, .rw, 0⟩]⟩
  | .MCF_AER_SEVERITY => ⟨.mcf, 0x10C, 0x0, 1, false, [⟨4, 22, .rw, 0x46203⟩]⟩
  | .MCF_AER_CORR => ⟨.mcf, 0x110, 0x0, 1, false, [⟨0, 16, .w1c, 0⟩]⟩
  | .MCF_AER_CORR_MASK => ⟨.mcf, 0x114, 0x0, 1, false, [⟨0, 13, .rw, 0⟩, ⟨13, 1, .rw, 1⟩, ⟨14, 2, .rw, 0⟩]⟩
  | .MCF_AER_CTRL => ⟨.mcf, 0x118, 0x0, 1, false, [⟨0, 5, .ro, 0⟩]⟩
  | .MCF_VEC_ADDR_LO => ⟨.mcf, 0x1000, 0x0, 1, false, [⟨0, 32, .rw, 0⟩]⟩
  | .MCF_VEC_ADDR_HI => ⟨.mcf, 0x1004, 0x0, 1, false, [⟨0, 32, .rw, 0⟩]⟩
  | .MCF_VEC_DATA => ⟨.mcf, 0x1008, 0x0, 1, false, [⟨0, 32, .rw, 0⟩]⟩
  | .MCF_VEC_CTRL => ⟨.mcf, 0x100C, 0x0, 1, false, [⟨0, 1, .rw, 1⟩]⟩
  | .MCF_VEC_PENDING => ⟨.mcf, 0x1010, 0x0, 1, false, [⟨0, 1, .ro, 0⟩]⟩

/-- The registers of each block. -/
def blockRegs : Blk → List RegName
  | .jt => [.JT_ID, .JT_STATUS, .JT_CTRL, .JT_LIVE_PLANES, .JT_ROW_CYCLES, .JT_GROUP_LIVE_CYCLES, .JT_GROUP_GATED_CYCLES, .JT_LOAD_WAIT_CYCLES] ++
      [.JT_TILES_LOADED, .JT_PLANES_SKIPPED, .JT_S24_TILES]
  | .se => [.SE_ID, .SE_STATUS, .SE_CTRL, .SE_SPAN, .SE_SPANS_RUN, .SE_MATCHED_PAIRS, .SE_LANE_BUSY_CYCLES, .SE_RUN_CYCLES] ++
      [.SE_SKEW_STALLS, .SE_BUSY_DENSE, .SE_DECLINED, .SE_DENSITY_DENSE]
  | .bs => [.BS_ID, .BS_SLOT_WDOG, .BS_FRAME, .BS_DBG_BOUNDS, .BS_DBG_STATUS, .BS_WIN_DROP_INFO, .BS_ECC_INJECT, .BS_SLIP_COUNT] ++
      [.BS_ECC_CORRECTED, .BS_ECC_UNCORR, .BS_WIN_DROPS, .BS_SLOT_WAIT_CYCLES, .BS_SLOT_TIMEOUTS, .BS_BOUNDS_HITS, .BS_WIDE_CONFLICTS, .BS_WIN] ++
      [.BS_SLOT]
  | .tr => [.TR_RADIO_GROUPS, .TR_ISSUE_CFG, .TR_PREEMPTIONS, .TR_PREEMPT_LAT, .TR_RESERVE, .TR_COLUMN_SPARES]
  | .dm => [.DM_STATUS, .DM_TEMP, .DM_CFG, .DM_ERR_INFO, .DM_CORRECTED, .DM_UNCORR, .DM_ROWS_SPARED, .DM_READ_BYTES] ++
      [.DM_WRITE_BYTES, .DM_SCRUB_PASSES, .DM_THROTTLE_CYCLES]
  | .qe => [.QE_STATUS, .QE_RING_ERR_INFO, .QE_EV_HEAD, .QE_BOUNDS_LO, .QE_BOUNDS_HI, .QE_CQ_HEAD, .QE_DISPATCHED, .QE_RING_ERRORS] ++
      [.QE_CQ_FULL_CYCLES, .QE_EV_LOST, .QE_CANCELLED]
  | .mb => [.MB_PENDING, .MB_COMPLETED]
  | .hi => [.HI_LINK, .HI_CTRL, .HI_BAR2_BASE, .HI_READ_ERRORS, .HI_POISON_SENT, .HI_LINK_DOWNS, .MSIX_ADDR_LO, .MSIX_ADDR_HI] ++
      [.MSIX_DATA, .MSIX_CTRL, .MSIX_PBA]
  | .fh => [.FH_PORT_CFG, .FH_PORT_STATUS, .FH_RX_FRAMES, .FH_DROP_FCS, .FH_DROP_OTHER, .FH_DROP_NOFLOW, .FH_DROP_EARLY, .FH_DROP_LATE] ++
      [.FH_DROP_DUP, .FH_SEQ_GAPS, .FH_MISSING_PRB, .FH_SAT_SAMPLES, .FH_FLUSHED_SAMPLES, .FH_SLOT_OVERRUN, .FH_GRID, .FH_GRID_DST]
  | .tm => [.TM_STATUS, .TM_NOW, .TM_PPS_ERR, .TM_CFG, .TM_TICK_CFG, .TM_SLOT, .TM_PPS_EDGES, .TM_PPS_MISSED]
  | .lk => [.LK_CASCADE, .LK_GOP_CTRL, .LK_GOP_CFG, .LK_GOP_SRC, .LK_GOP_DST, .LK_SNAP_DST, .LK_GOP_LEN, .LK_GOP_STATUS] ++
      [.LK_SNAP_CFG, .LK_SNAP_TIME, .LK_PORT_STATUS, .LK_PORT_CFG, .LK_TX_FLITS, .LK_RX_FLITS, .LK_CRC_ERRORS, .LK_REPLAYS] ++
      [.LK_LANE_FAULTS, .LK_DOWNS]
  | .ck => [.CK_STATUS, .CK_RESET, .CK_RESET_CAUSE, .CK_BRINGUP_CFG, .CK_BRINGUP_STATUS, .CK_CDC_FLUSHED, .CK_CDC_OVERFLOW, .CK_COMPUTE_RESETS] ++
      [.CK_DEVICE_RESETS]
  | .sp => [.SP_CFG, .SP_STATUS, .SP_PROVISION, .SP_RESIDUE_ERRORS, .SP_ACC_CORRECTED, .SP_REPLAYS, .SP_REPLAY_CYCLES, .SP_COLUMNS_SPARED] ++
      [.SP_JETS_SPARED, .SP_ENGINES_SPARED, .SP_FAILOVERS, .SP_UNIT_FAULTS, .SP_UNJOURNALED, .SP_POOL_ROWS_RETIRED]
  | .nb => [.NB_STATUS, .NB_POWERED, .NB_LOG_DIE, .NB_LOG_FLASH, .NB_LIFETIME_SAVE, .NB_FLASH_ERASES, .NB_LIFETIME_SAVES, .NB_AUTH_FAILURES]
  | .sc => [.SC_STATUS, .SC_UNLOCKS]
  | .pw => [.PW_STATUS, .PW_INPUT, .PW_CAP, .PW_CFG, .PW_SHARE, .PW_WITHHELD_CYCLES, .PW_WARNS, .PW_RIDE_THROUGHS] ++
      [.PW_CAP_TICKS, .PW_THERMAL_TICKS]
  | .wr => [.WR_STEP, .WR_STATUS, .WR_SLOT_CFG, .WR_SLOT_SCALE]
  | .hl => [.HL_CTRL, .HL_THRESH, .HL_DROPPED, .HL_QUEUE_DROPPED, .HL_PENDING]
  | .dz => [.DZ_CTRL, .DZ_TEMP, .DZ_HEAD, .DZ_ZEROED, .DZ_OFFSET_TILES, .DZ_PRESSURE]
  | .fc => [.FC_TRK_CFG, .FC_TRK_STAT, .FC_TRK_HITS, .FC_TRK_TRUTH, .FC_TRK_OPEN, .FC_TRK_SAMPLES, .FC_TRK_DROPPED]
  | .hz => [.HZ_TRK_CFG, .HZ_TRK_STAT, .HZ_TRK_HITS, .HZ_TRK_TRUTH, .HZ_TRK_OPEN, .HZ_TRK_SAMPLES, .HZ_TRK_DROPPED]
  | .pl => [.PL_STATUS, .PL_CFG, .PL_HOME_W, .PL_HOME_A, .PL_TERRACE_HOME, .PL_FREE, .PL_UNMAPPED_INFO, .PL_SPILLS] ++
      [.PL_FILLS, .PL_SPILL_BYTES, .PL_SPILL_READ_BYTES, .PL_UNMAPPED, .PL_PLACED_LOCAL, .PL_PLACED_OTHER]
  | .dbg => [.HI_DBG_SEL, .HI_DBG_HALT]
  | .ready => [.READY_DEVICE, .READY_STACKS, .READY_TERRACES, .READY_BASINS0, .READY_BASINS1, .READY_BASINS2, .READY_PORTS, .READY_GENERATION]
  | .mgt => [.MGT_MB_COMPLETED]
  | .cfg => [.PCI_ID, .PCI_COMMAND, .PCI_CLASS, .PCI_HEADER, .PCI_BAR0_LO, .PCI_BAR0_HI, .PCI_BAR2_LO, .PCI_BAR2_HI] ++
      [.PCI_BAR4_LO, .PCI_BAR4_HI, .PCI_CAP_PTR, .PCI_PM_CAP, .PCI_PM_CTRL, .PCI_MSIX, .PCI_MSIX_TABLE, .PCI_MSIX_PBA] ++
      [.PCI_EXP_CAP, .PCI_DEV_CAP, .PCI_DEV_CTRL, .PCI_LINK_CAP, .PCI_LINK_CTRL, .PCI_DEV_CAP2, .PCI_DEV_CTRL2, .PCI_AER] ++
      [.PCI_AER_UNCORR, .PCI_AER_UNCORR_MASK, .PCI_AER_SEVERITY, .PCI_AER_CORR, .PCI_AER_CORR_MASK, .PCI_AER_CTRL, .PCI_TPH, .PCI_TPH_CAP] ++
      [.PCI_TPH_CTRL, .PCI_LINK_CAP2, .PCI_LINK_CTRL2, .PCI_DEV3, .PCI_DEV_CAP3, .PCI_DEV_CTRL3]
  | .mcf => [.MCF_ID, .MCF_COMMAND, .MCF_CLASS, .MCF_HEADER, .MCF_BAR0, .MCF_BAR2] ++
      [.MCF_CAP_PTR, .MCF_MSIX, .MCF_MSIX_TABLE, .MCF_MSIX_PBA, .MCF_EXP_CAP, .MCF_DEV_CAP] ++
      [.MCF_DEV_CTRL, .MCF_LINK_CAP, .MCF_LINK_CTRL, .MCF_AER, .MCF_AER_UNCORR, .MCF_AER_UNCORR_MASK] ++
      [.MCF_AER_SEVERITY, .MCF_AER_CORR, .MCF_AER_CORR_MASK, .MCF_AER_CTRL, .MCF_VEC_ADDR_LO, .MCF_VEC_ADDR_HI] ++
      [.MCF_VEC_DATA, .MCF_VEC_CTRL, .MCF_VEC_PENDING]

/-- Stack above physical terrace `p` (R311). -/
def stackAbove (p : Nat) : Nat :=
  if p = 2 ∨ p = 7 ∨ p = 12 then 12
  else if p = 17 ∨ p = 22 ∨ p = 27 then 13
  else if p = 30 ∨ p = 31 then 14
  else if p ≥ 32 then 15
  else 2 * (p / 5) + (if p % 5 ≤ 1 then 0 else 1)

/-- Local handle of the logical jet that physical jet `u` serves before any sparing (R13, R79). -/
def jetHandle0 (u : Nat) : Nat :=
  if u % 17 = 16 then 0x0C00 + u / 17 else 0x0400 + 16 * (u / 17) + u % 17

/-- The per-unit and per-module reset values: identity of logical and physical numbering (log 5), the internal slots
and the placement engine's windows marked as such (R251, R256). -/
def resetExtra (k : RegKey) : Nat :=
  match k.name with
  | .JT_ID => jetHandle0 k.unit + 2 ^ 16 * k.unit
  | .SE_ID => 0x0800 + k.unit + 2 ^ 16 * k.unit
  | .BS_ID => 0x0200 + k.unit + 2 ^ 16 * k.unit
  | .PL_TERRACE_HOME => stackAbove k.idx + 2 ^ 4 * k.idx
  | .BS_WIN => if k.idx ≥ 12 then 2 ^ 41 else 0
  | .BS_SLOT => if k.idx ≥ 48 then 2 ^ 34 else 0
  | _ => 0

/-- The reset value of a register: its fields' reset values (R7). -/
def resetWord (k : RegKey) : Word :=
  BitVec.ofNat 64 (((regRow k.name).fields.map fun f => f.rst * 2 ^ f.lo).sum + resetExtra k)

/-- The block, unit and offset within the block of a BAR0 offset (R345, R346); none in a reserved region. -/
def blockAt (off : Nat) : Option (Blk × Nat × Nat) :=
  if 0x0020_0000 ≤ off ∧ off < 0x0020_0040 then some (.ready, 0, off - 0x0020_0000)
  else if 0x0100_0000 ≤ off ∧ off < 0x0123_0000 then
    let p := (off - 0x0100_0000) / 0x1_0000
    let w := (off - 0x0100_0000) % 0x1_0000
    if w < 0x1000 then some (.tr, p, w)
    else if w < 0x5000 then some (.bs, 4 * p + (w / 0x1000 - 1), w % 0x1000)
    else if w < 0x6000 then some (.jt, 17 * p + (w - 0x5000) / 0x100, w % 0x100)
    else if w < 0x6100 then some (.jt, 17 * p + 16, w % 0x100)
    else if 0x6800 ≤ w ∧ w < 0x7000 then some (.se, 8 * p + (w - 0x6800) / 0x100, w % 0x100)
    else none
  else if 0x0130_0000 ≤ off ∧ off < 0x0140_0000 then
    some (.dm, (off - 0x0130_0000) / 0x1_0000, off % 0x1_0000)
  else if 0x0140_0000 ≤ off ∧ off < 0x0151_0000 then
    let b := [Blk.qe, .mb, .hi, .fh, .tm, .lk, .ck, .sp, .nb, .sc, .pw, .wr, .hl, .dz, .fc, .hz, .pl]
    (b[(off - 0x0140_0000) / 0x1_0000]?).map fun k => (k, 0, off % 0x1_0000)
  else none

/-- The register of a block at an offset of that block. -/
def regInBlock (b : Blk) (unit off : Nat) : Option RegKey :=
  (blockRegs b).findSome? fun n =>
    let r := regRow n
    if r.stride = 0 then (if off = r.off then some ⟨n, unit, 0⟩ else none)
    else if r.off ≤ off ∧ (off - r.off) % r.stride = 0 ∧ (off - r.off) / r.stride < r.count then
      some ⟨n, unit, (off - r.off) / r.stride⟩
    else none

/-- The register at an offset of BAR0, of BAR4, or of the configuration space of the host link (8) or the management link (9, with
its vector's entry from 0x1000 on); none where no register starts. -/
def regAt (bar off : Nat) : Option RegKey :=
  if bar = 0 then (blockAt off).bind fun x => regInBlock x.1 x.2.1 x.2.2
  else if bar = 4 then regInBlock .dbg 0 off
  else if bar = 8 then regInBlock .cfg 0 off
  else if bar = 9 then regInBlock .mcf 0 off
  else none

end Sys2Proof.Machine
end

