-- ==== Sys2Proof/Machine/State.lean ====
section
/-! DEFINITION. The machine's state as plain data, its fault and refusal names, and the state right after reset. -/

namespace Sys2Proof.Machine

/-- Why the machine stops. The spec gives the block no stop: every error is a status, a flag, an event or a reset
(R291, R292, R370, R445), so no meaning raises a fault. -/
inductive Fault where
  /-- Raised by no meaning: the spec names no stop of the block. Safe. -/
  | none
  deriving DecidableEq, Repr

/-- Why a command has no meaning. -/
inductive Refusal where
  /-- Raised by the dispatcher for a command not modelled yet. Safe: nothing is concluded of it. -/
  | notModelled (mnemonic : String)
  deriving DecidableEq, Repr

/-- A memory: (address, byte) pairs, addresses strictly rising, no byte equal to what an unlisted address reads as. -/
abbrev Mem := List Host.Cell

/-- A table by number: (key, value) pairs, at most one per key. -/
abbrev Tab (α : Type) := List (Nat × α)

/-- A completion or event ring's and a submission ring's place (R348, R354, R370). -/
structure Place where
  device : Bool
  base : Nat
  z : Nat
  deriving DecidableEq, Repr

/-- A submission ring (R348 to R353): class 0 radio, 1 serving, 2 bulk, 3 management. -/
structure Ring where
  cls : Nat
  weight : Nat
  place : Place
  head : Nat
  tail : Nat
  deficit : Nat
  error : Bool
  /-- RING_TEARDOWN has started (R353). -/
  closing : Bool
  deriving DecidableEq, Repr

/-- A completion ring (R354 to R357). `since` counts records posted since the vector was last sent. -/
structure Cq where
  place : Place
  vector : Nat
  n : Nat
  t : Nat
  posted : Nat
  since : Nat
  /-- CQ_TEARDOWN has started (R356). -/
  closing : Bool
  deriving DecidableEq, Repr

/-- The event ring (R370). -/
structure EvRing where
  place : Place
  posted : Nat
  deriving DecidableEq, Repr

/-- A write bound for host memory, or an MSI-X vector due (R380, R434). -/
inductive Post where
  | write (addr : Nat) (data : List Byte)
  | vector (v : Nat)
  deriving DecidableEq, Repr

/-- An operand element in the lanes: its integer, its block's exponent (none: an all-zero block, R42), and whether it
was non-finite (R47). -/
structure Lane where
  n : Int
  e : Option Int
  bad : Bool
  deriving DecidableEq, Repr

/-- A descriptor's fields (R272), as numbers. -/
structure Desc where
  opcode : Nat
  shape : Nat
  boundsSrc : Nat
  accBegin : Bool
  accEnd : Bool
  strict : Bool
  target : Nat
  accGroup : Nat
  accKind : Nat
  treeCode : Nat
  accRow0 : Nat
  sparseMode : Nat
  round : Nat
  reduce : Nat
  m : Nat
  n : Nat
  k : Nat
  serialFmt : Nat
  broadFmt : Nat
  serialBits : Nat
  broadPasses : Nat
  broadBits : Nat
  rowfn : Nat
  eltfn : Nat
  outFmt : Nat
  drizzleBand : Nat
  drizzleT : Nat
  scaleMode : Nat
  scaleValue : Nat
  scaleParam : Nat
  crossover : Nat
  slot : Nat
  haloRate : Nat
  cq : Nat
  seed : Nat
  deadline : Nat
  aSrc : Nat
  wSrc : Nat
  metaSrc : Nat
  outDst : Nat
  deriving DecidableEq, Repr

/-- The counts a descriptor gathers for its monitor slot, and its output amax as an FP32 encoding (R206, R207). -/
structure Counts where
  elements : Nat
  zeros : Nat
  satOut : Nat
  flushOut : Nat
  nonfinite : Nat
  flushIn : Nat
  accSat : Nat
  amax : Nat
  deriving DecidableEq, Repr

/-- A Basad profile (R236). -/
structure Profile where
  unipolar : Bool
  baseA : Nat
  baseW : Nat
  baseS : Nat
  deriving DecidableEq, Repr

/-- A row's state in a fused pair (R126): the reference (none: −∞), l and the entries of O as FP32C entries, the term count, and
the nan flag. -/
structure RowState where
  mref : Option Int
  l : Nat
  o : List Nat
  n : Nat
  nan : Bool
  deriving DecidableEq, Repr

/-- What one jet holds in a fused pair: its row states, the scores of its key block in progress as entries, the counts, and
the exponent of each row of P (R126 to R128, R135). -/
structure FusedJet where
  rows : List RowState
  scores : List (List Nat)
  clamps : Nat
  flushed : Nat
  bad : Bool
  pExp : List (Option Int)
  deriving DecidableEq, Repr

/-- Where a descriptor in flight stands. -/
inductive Phase where
  /-- Placed on a unit, not yet issued (R277). -/
  | dispatched
  /-- Issued; waits for the slot tokens it reads or writes (R258, R259). -/
  | waiting
  /-- Its sums of the output tile in progress are formed; the drain is due (R104). -/
  | draining
  /-- Its drain waits for the token of the slot it writes (R258). -/
  | drainWait
  /-- A BARRIER that has left its ring and travels to its target (R285). -/
  | barrierSent
  /-- A BARRIER that waits in its round, or for a round to be free (R286). -/
  | barrierArrived
  /-- Carried to another cascade member, `Job.member`, whose record is awaited (R16). -/
  | away
  /-- Ended; its completion record is due (R293). -/
  | done
  deriving DecidableEq, Repr

/-- A descriptor in flight. -/
structure Job where
  jid : Nat
  ring : Nat
  seq : Nat
  cls : Nat
  /-- The member that submitted it; none: this module (R16). -/
  origin : Option Nat
  d : Desc
  raw : List Byte
  /-- Local handle of the unit that runs it; 0 if rejected before dispatch (R290). -/
  unit : Nat
  phase : Phase
  bm : Nat
  bn : Nat
  bk : Nat
  /-- The output tile in progress, in the order of R298. -/
  tile : Nat
  flags : Nat
  status : Nat
  detail : Nat
  counts : Counts
  dzLo : Nat
  dzHi : Nat
  dzAny : Bool
  /-- Clock at issue; none: rejected before issue. -/
  issued : Option Nat
  /-- Clock at its end (R293). -/
  ended : Nat
  /-- Slots whose token the descriptor has claimed, and slots it reads, as (basin, slot). -/
  claimed : List (Nat × Nat)
  reads : List (Nat × Nat)
  /-- Clock at which the running token wait began, and the slot on whose token it waits (R261). -/
  waitFrom : Nat
  waitOn : Option (Nat × Nat)
  profile : Profile
  weirX : Nat
  /-- The run is a replay of work already posted: nothing is counted or written again (R453). -/
  silent : Bool
  /-- Its group is reserved for radio, as TR_RADIO_GROUPS stood at issue (R303, R309). -/
  reserved : Bool
  /-- The codebooks as read once for the descriptor: of op.w_src, and of a fused pair's V (R66). -/
  books : List (List Int)
  /-- For each jet the next output tile whose weight tiles it has still to take up (R298). -/
  queued : Tab Nat
  /-- What each jet of a fused pair holds (R126). -/
  fused : Tab FusedJet
  /-- What the output tile in progress on each jet has counted: a replay takes it back (R453). -/
  tried : Tab Counts
  /-- The bounds watch was on when the descriptor was dispatched (R263). -/
  watch : Bool
  /-- Columns of a BFP-ORAN record that ends in a later output tile: row, column, value, saturated in step 3, Drizzle
  threshold, kept in step 6 (R113). -/
  carry : List (Nat × Nat × Num × Bool × Nat × Bool)
  /-- The block at op.meta_src as read at issue (R282). -/
  block : List Byte
  /-- The member that it was carried to; none: it runs here (R16). -/
  member : Option Nat
  /-- Output tiles of a QUAD on a basin that have drained ahead of the lowest one open (R295, R298). -/
  drained : List Nat
  /-- Spans that a faulted engine was running, as jet, output tile and first K index: they run on the dense jet (R448). -/
  dense : List (Nat × Nat × Nat)
  /-- The half of the slots 48 to 63 of its basin that a fused pair holds its P in (R135). -/
  pHalf : Nat
  deriving DecidableEq, Repr

/-- A journal entry: the descriptor that added to the group, by dispatch number, its bounds, and the bounds watch it was dispatched
under (R263, R451). -/
structure Entry where
  jid : Nat
  d : Desc
  bm : Nat
  bn : Nat
  bk : Nat
  watch : Bool
  deriving DecidableEq, Repr

/-- An accumulation group of one jet: its record (R118), the widths of the last descriptor that added (R291 bit 6),
its journal (R451) and whether its closing drain is due. -/
structure Group where
  closing : Bool
  kind : Nat
  domain : Nat
  row0 : Nat
  rows : Nat
  cols : Nat
  nTotal : Nat
  sat : Bool
  lapsed : Bool
  nonfinite : Bool
  e : Int
  eSet : Bool
  shape : Nat
  n : Nat
  live : Nat
  mTotal : Nat
  serialFmt : Nat
  serialBits : Nat
  broadFmt : Nat
  broadBits : Nat
  broadPasses : Nat
  radio : Bool
  journal : List Entry
  unjournaled : Bool
  /-- Slots read by the descriptors of the group (R259, R260). -/
  reads : List (Nat × Nat)
  deriving DecidableEq, Repr

/-- What a weight tile holds (R123, R191, R230, R294): a MATMUL's weights, half of a key block's Kᵀ, a key block's V, or the
serial operand of an opcode that forms its results apart from the plane sets. -/
inductive TileKind where
  | weights
  | keys (half : Nat)
  | values
  | other (fmt bits src len passes form : Nat)
  deriving DecidableEq, Repr

/-- A weight tile in a jet's issue order (R69, R294, R295, R298): the descriptor, its output tile and K-tile (the first K index of
that K-tile over all jets; a fused pair's key block), the columns and the ranges of K indices it covers (two where an S24 row
spans two tiles, R73), the rows that use it, whether the basin runs it in lock-step, and, where it loads again after a
preemption, how many of its rows have run and its chunk size C (R72, R304, R305): its sums are formed already. `seq` orders the
lock-step tiles that wait on a basin. -/
structure TileLoad where
  jid : Nat
  d : Desc
  kind : TileKind
  ot : Nat
  kt : Nat
  col0 : Nat
  cols : Nat
  ks : List (Nat × Nat)
  row0 : Nat
  rows : Nat
  lock : Bool
  ran : Option (Nat × Nat)
  seq : Nat
  deriving DecidableEq, Repr

/-- A column of the plane store: its elements with their K index. An S24 tile keeps two of every four, and its position
store may name one index twice (R73, R176). -/
abbrev Column := List (Nat × Lane)

/-- A complete weight tile: L_g of the eight column groups, t_row, product form, S24 state (R62, R64, R79), the plane store, the
elements that alignment flushed (R43), and once it is active its row time in lock-step, C of its K-tile and the rows that have run (R295, R304). -/
structure LoadedTile where
  load : TileLoad
  live : List Nat
  tRow : Nat
  form : Nat
  s24 : Nat
  twoPass : Bool
  cols : List Column
  flushed : Nat
  tB : Nat
  chunk : Nat
  done : Nat
  deriving DecidableEq, Repr

/-- The plane sets of one jet, the weight tiles still to load, the spans whose engine is not decided yet (R69, R70, R162),
and the non-radio tiles set aside while radio work runs (R303, R305). -/
structure JetSets where
  active : Option LoadedTile
  shadow : Option LoadedTile
  loads : List TileLoad
  spans : List (List TileLoad)
  paused : List TileLoad
  deriving DecidableEq, Repr

/-- A span on a sparse engine (R162, R167 to R169): its weight tiles, the jet it adds for, whether it was forced, and once it is
loaded L_g, t_pair, its columns expanded to dense and their bitmaps. -/
structure EngSpan where
  tiles : List TileLoad
  jet : Nat
  forced : Bool
  loaded : Bool
  live : List Nat
  tPair : Nat
  cols : List Column
  bits : List (List Bool)
  /-- Elements of its weights that alignment flushed (R43). -/
  flushed : Nat
  deriving DecidableEq, Repr

/-- The weight store and shadow store of a sparse engine, and spans given to it that wait for a store (R164, R169). -/
structure EngSets where
  active : Option EngSpan
  shadow : Option EngSpan
  waiting : List EngSpan
  deriving DecidableEq, Repr

/-- A monitor slot (R206, R209); the scale byte and step_sat live in WR_SLOT_SCALE (R224). -/
structure MonSlot where
  elements : Nat
  zeros : Nat
  satOut : Nat
  flushOut : Nat
  nonfinite : Nat
  flushIn : Nat
  accSat : Nat
  stepAmax : Nat
  haloSamples : Nat
  haloOver : Nat
  haloMaxUlps : Nat
  hist : List Nat
  deriving DecidableEq, Repr

/-- A queued step close: the range, for each of its slots step_amax and step_sat cut at the write (R213), and the writes of
x that arrived while it ran (R212). -/
structure WeirClose where
  /-- How many closes were written before it (R209). -/
  seq : Nat
  first : Nat
  last : Nat
  cut : List (Nat × Nat × Bool)
  sets : List (Nat × Nat)
  deriving DecidableEq, Repr

/-- A Halo sample (R216): the descriptor, the unit sampled, the codes written with their scale bytes, and for each
column whether it is left out of the comparison. For FORECAST and HAZE_SELECT `picked` is the descriptor's selection. -/
structure HaloSample where
  ring : Nat
  seq : Nat
  d : Desc
  bm : Nat
  bn : Nat
  bk : Nat
  basin : Nat
  m : Nat
  j : Nat
  codes : List (Nat × Nat × Bool)
  picked : List Nat
  block : List Byte
  deriving DecidableEq, Repr

/-- A placement hint (R326). -/
structure Hint where
  mode : Nat
  spill : Nat
  prio : Nat
  plan : Nat
  stackMask : Nat
  shard : Nat
  consumer : Nat
  pool : Nat
  poolBytes : Nat
  deriving DecidableEq, Repr

/-- Where an allocation's bytes lie (R362 PLACE_QUERY state): on the stacks, at a host address, on a peer, or lost. -/
inductive Lies where
  | onStacks
  | host (addr : Nat)
  | peer (index : Nat)
  | lost
  deriving DecidableEq, Repr

/-- A live allocation (R325 to R331). -/
structure Alloc where
  base : Nat
  size : Nat
  hint : Hint
  stackList : List Nat
  f : Nat
  lies : Lies
  /-- Pool home: basin, first unit, units, window. -/
  home : Option (Nat × Nat × Nat × Nat)
  lastUse : Nat
  /-- The consumer it was placed for, as its hint or its plan gave it at TENSOR_ALLOC (R327, R338). -/
  cons : Nat
  deriving DecidableEq, Repr

/-- A phase plan (R337). -/
structure Plan where
  p : Nat
  s : Nat
  phase : Nat
  entries : List Nat
  deriving DecidableEq, Repr

/-- A barrier round: its participant count and the arrivals, by dispatch number (R286). -/
structure Round where
  p : Nat
  arrivals : List Nat
  deriving DecidableEq, Repr

/-- A firmware image in a flash slot (R479). -/
structure Image where
  level : Nat
  release : Nat
  build : Nat
  verifies : Bool
  bytes : List Byte
  deriving DecidableEq, Repr

/-- A mailbox command that has started and not ended (R359). -/
inductive MbRun where
  | ringTeardown (ring cancelled discarded : Nat)
  | cqTeardown (ring : Nat)
  | cascadeLeave
  | timeSetAtPps (time : Nat)
  | fwStage (toB : Bool) (image : Image)
  | unitTest (unit : Nat) (failing : Option Nat)
  deriving DecidableEq, Repr

/-- The cascade membership payload (R406). -/
structure Casc where
  own : Nat
  master : Nat
  n : Nat
  bitmap : Nat
  ports : List (Option Nat)
  distributor : Bool
  deriving DecidableEq, Repr

/-- The cascade operation in progress on this member (R414 to R417). -/
structure Gop where
  op : Nat
  waiting : List Nat
  answered : Nat
  missing : Bool
  failed : Bool
  received : Bool
  deriving DecidableEq, Repr

/-- A message this module sends on Rill (R16, R275, R409 to R416). -/
inductive LinkMsg where
  /-- A descriptor; where a group's dispatcher chose the member's unit, the unit's handle follows the 128 bytes (log 21). -/
  | descriptor (member ring seq cls : Nat) (jid : Nat) (raw : List Byte)
  | record (member : Nat) (bytes : List Byte)
  | write (member addr : Nat) (data : List Byte)
  /-- A write from offset `off` of a slot of a basin of the member (R257). -/
  | slotWrite (member basin slot off : Nat) (data : List Byte)
  /-- The request of a read of the member's memory. -/
  | read (member addr len : Nat)
  | token (member basin slot : Nat) (full claimed : Bool)
  /-- What a read of the member's found here, with whether a codeword of it could not be corrected; `len` bytes that one member sends
  to another through this one (R409). Both go in the priority class that they came in. -/
  | found (member cls : Nat) (data : List Byte) (bad : Bool)
  | onward (member cls len : Nat)
  | exchange (port own master n bitmap : Nat)
  | leave (member : Nat)
  | copy (member : Nat) (data : List Byte)
  | hold (member : Nat)
  | release (member : Nat)
  | reset (member : Nat)
  | answer (member : Nat) (answered : Nat) (missing : Bool)
  deriving DecidableEq, Repr

/-- A Rill port: for each flit sent and not acknowledged, oldest first, the operation that sent it (one more than a
descriptor's dispatch number, or 0), failures in a row, lanes out of use, retrain in progress, flits in a row that arrived with
a bad CRC (R403 to R405); the messages that
wait for it, as priority class, operation, flits still to send and message, and the flits of other classes sent in a row while
class 2 waited (R404, R411). -/
structure Port where
  unacked : List Nat
  fails : Nat
  badLanes : List Nat
  narrowed : Bool
  retraining : Bool
  waiting : List (Nat × Nat × Nat × LinkMsg)
  run : Nat
  rxBad : Nat
  deriving DecidableEq, Repr

/-- A fronthaul flow (R386). -/
structure Flow where
  port : Nat
  eaxc : Nat
  w : Nat
  mu : Nat
  dst : Nat
  rbs : Nat
  symbols : Nat
  early : Nat
  late : Nat
  antenna : Nat
  antennas : Nat
  grid : Nat
  lastSeq : Option Nat
  deriving DecidableEq, Repr

/-- One PRB received for a grid: slot index, symbol, antenna, PRB, exponent, wire width and its 24 integers (R388). -/
structure Prb where
  slot : Nat
  sym : Nat
  ant : Nat
  prb : Nat
  e : Nat
  iq : List Int
  deriving DecidableEq, Repr

/-- A fronthaul grid (R386 to R392): staged PRBs, the symbols written or past (full slot index, symbol), and for a slot
reference the radio slot that holds the token and the radio slots discarded. -/
structure Grid where
  dst : Nat
  staged : List Prb
  written : List (Nat × Nat)
  claim : Option Nat
  lost : List Nat
  deriving DecidableEq, Repr

/-- A log entry (R470): the event and when it was raised. -/
structure LogEntry where
  num : Nat
  code : Nat
  seq : Nat
  time : Nat
  unit : Nat
  payload : List Byte
  cycles : Nat
  ms : Nat
  deriving DecidableEq, Repr

/-- A repair-map entry (R477). -/
structure Repair where
  kind : Nat
  unit : Nat
  loc : Nat
  days : Nat
  deriving DecidableEq, Repr

/-- The lifetime record (R476). -/
structure Life where
  saves : Nat
  lastTod : Nat
  poweredS : Nat
  powerCycles : Nat
  deviceResets : Nat
  fatal : Nat
  fwConfirmed : Nat
  logicBins : List Nat
  dramBins : List Nat
  voltBins : List Nat
  overV : Nat
  underV : Nat
  dramWritten : List Nat
  rillFaults : List Nat
  rillDowns : List Nat
  rillCrc : List Nat
  columns : Nat
  jets : Nat
  engines : Nat
  terraces : Nat
  dies : Nat
  stacksLost : Nat
  poolRows : Nat
  dramRows : Nat
  unitFaults : Nat
  unlocks : Nat
  map : List Repair
  deriving DecidableEq, Repr

/-- The answer of the last read the device completed (R10, R377, R379, R383): its bytes and whether it is poisoned;
none: not acknowledged (R383). The model's latch for what leaves the block. -/
structure Answer where
  bytes : List Byte
  poisoned : Bool
  acked : Bool
  deriving DecidableEq, Repr

/-- A copy of the lifetime record in a block of the record region, and whether its digest verifies (R475). -/
structure LifeCopy where
  life : Life
  verifies : Bool
  deriving DecidableEq, Repr

/-- A descriptor that runs again after a replay: the jet whose groups were replayed, and the cause (R455). -/
structure Rerun where
  jid : Nat
  jet : Nat
  cause : Nat
  deriving DecidableEq, Repr

/-- The machine. Units of a basin, jet or engine field are logical (R13): jet 16t + 4b + j, reserve jet 560 + t,
basin 4t + b, engine 8t + 2b + s; registers are by physical unit (R346). -/
structure State where
  pending : List Instr
  /-- Clock, in ticks of 1/33 ns: 10 an a-cycle, 15 an f-cycle, 20 a b-cycle (R420). -/
  tk : Nat
  nextJid : Nat
  regs : List (RegKey × Word)
  dev : Mem
  host : Mem
  site : Mem
  mbox : Mem
  /-- Header and request of every mailbox command in progress, as read at its start; laid out as `mbox` (R359). -/
  mbReq : Mem
  /-- Host mailboxes whose command in progress an FLR has left without an answer (R433). -/
  mbGone : List Nat
  /-- For each mailbox command in progress, as it was received: step closes written, and entries numbered in the on-die and the flash
  log (R209, R471). -/
  mbMark : Tab (Nat × Nat × Nat)
  poolErr : Tab Nat
  dramErr : Tab (List (Nat × Nat))
  /-- Corrected reads of a row, each with the powered ms since power-on: DRAM rows at even keys, pool rows at odd ones (R315,
  R449). -/
  rowCorr : Tab (List Nat)
  /-- Codewords that showed symbol errors in the running patrol period, by 5 × stack + die (R316). -/
  dieSeen : Tab (List Nat)
  rings : Tab Ring
  cqs : Tab Cq
  evRing : Option EvRing
  evSeq : Nat
  /-- Events lost since the last EV_EVENTS_LOST record (R370). -/
  evLost : Nat
  /-- READY_MAP bits whose own condition holds, before the needs of R27. -/
  up : List Nat
  cursors : Tab Nat
  feat : Nat
  helloDone : Bool
  hostWait : List Post
  d3 : Bool
  readData : Answer
  groups : Tab (List Nat)
  jobs : List Job
  rounds : Tab Round
  acc : Tab Word
  /-- Accumulator entries with one bit in error, by the keys of `acc` (R444). -/
  accErr : List Nat
  grp : Tab Group
  jets : Tab JetSets
  engines : Tab EngSets
  mon : Tab MonSlot
  weirQ : List WeirClose
  /-- Step closes written since reset. -/
  weirSeq : Nat
  haloQ : Tab (List HaloSample)
  profiles : Tab Profile
  allocs : List Alloc
  plans : Tab Plan
  grants : List (Nat × Nat)
  /-- A free or a fill has left room that no fill has been tried on (R336). -/
  fillDue : Bool
  holders : Tab Nat
  ppsWait : Bool
  mbRun : Tab MbRun
  casc : Option Casc
  leaving : Bool
  neigh : Tab (Nat × Nat × Nat)
  gop : Option Gop
  holdPost : Bool
  linkOut : List LinkMsg
  ports : Tab Port
  flows : Tab Flow
  grids : Tab Grid
  slew : Int
  tickCfg : Word
  holdoverDone : Bool
  /-- The 10 MHz input has been locked since reset (R394). -/
  onceLocked : Bool
  ppsPulse : Nat
  lastSlot : Nat
  uCap : Nat
  uCut : Nat
  credit : Tab Nat
  /-- Basin stalls that have arisen and not yet held the basin's frame counter, by logical basin (R267). -/
  stallDue : Tab Nat
  pwrAlert : Bool
  perst : Bool
  tripped : Bool
  switchOpen : Bool
  powerGood : Bool
  snapshotBegun : Bool
  dispatchHeld : Bool
  overSample : Bool
  /-- The last sensor sample tripped the module (R503). -/
  tripNow : Bool
  /-- The trip fell due with a brownout snapshot in one sample, so it stands after the input returns (R503). -/
  tripStays : Bool
  lastVolt : Option Nat
  /-- Physical terrace of a logical one, where they differ (R18). -/
  lmap : Tab Nat
  /-- Failed physical jets, each with the physical reserve jet that took its place; 595: none did (R447). -/
  jmap : Tab Nat
  /-- Failed physical engines (R448). -/
  emap : List Nat
  /-- Suspect columns, by 256 × physical jet + column, with the powered seconds since manufacture at the mark (R446). -/
  suspects : Tab Nat
  /-- Spare columns in use of a physical jet (R78, R446). -/
  spareCols : Tab Nat
  /-- Logical terraces in failover: the reserve terrace provisioned; 0: waiting for one (R456, R458). -/
  failing : Tab Nat
  /-- The next terrace under BIST, and the terraces per wave taken at the start of bring-up (R436). -/
  bistNext : Nat
  bistWave : Nat
  /-- Clock at input power good or at the device reset (CK_BRINGUP_STATUS). -/
  upSince : Nat
  /-- Clock at which bring-up last set a READY_MAP bit (CK_BRINGUP_STATUS). -/
  readyAt : Nat
  /-- A power-on reset whose boot the lifetime record has still to count (R475). -/
  cold : Bool
  resetting : Bool
  dieLog : List LogEntry
  flashPend : List LogEntry
  flashLog : List LogEntry
  blockErases : Tab Nat
  worn : List Nat
  life : Life
  /-- Copies of the lifetime record in flash, by block of the record region (R475). -/
  copies : Tab LifeCopy
  sensors : Tab (BitVec 16)
  slotA : Option Image
  slotB : Option Image
  staged : Option Bool
  trialRun : Bool
  /-- A confirmed slot whose fuses are still being blown, with the fused level before (R484). -/
  fuse : Option (Bool × Nat)
  /-- Descriptors that re-run after a fault (R455). -/
  reruns : List Rerun
  bar4 : Bool
  /-- The model's own: how many free values have been drawn (logs 8, 13). -/
  draws : Nat
  deriving DecidableEq, Repr

/-- The lifetime record at manufacture. -/
def Life.zero : Life :=
  ⟨0, 0, 0, 0, 0, 0, 0, List.replicate 8 0, List.replicate 8 0, List.replicate 6 0, 0, 0, List.replicate 16 0,
   List.replicate 16 0, List.replicate 16 0, List.replicate 16 0, 0, 0, 0, 0, 0, 0, 0, 0, 0, 0, []⟩

/-- The machine right after a power-on reset of a new module (R431), before any function is ready: every register at
the reset value of its table (an empty register list), every memory with nothing listed. -/
def State.reset : State where
  pending := []
  tk := 0
  nextJid := 0
  regs := []
  dev := []
  host := []
  site := []
  mbox := []
  mbReq := []
  mbGone := []
  mbMark := []
  poolErr := []
  dramErr := []
  rowCorr := []
  dieSeen := []
  rings := []
  cqs := []
  evRing := none
  evSeq := 0
  evLost := 0
  up := []
  cursors := []
  feat := 0
  helloDone := false
  hostWait := []
  d3 := false
  readData := ⟨[], false, true⟩
  groups := []
  jobs := []
  rounds := []
  acc := []
  accErr := []
  grp := []
  jets := []
  engines := []
  mon := []
  weirQ := []
  weirSeq := 0
  haloQ := []
  profiles := []
  allocs := []
  plans := []
  grants := []
  fillDue := false
  holders := []
  ppsWait := false
  mbRun := []
  casc := none
  leaving := false
  neigh := []
  gop := none
  holdPost := false
  linkOut := []
  ports := []
  flows := []
  grids := []
  slew := 0
  tickCfg := 1
  holdoverDone := false
  onceLocked := false
  ppsPulse := 0
  lastSlot := 0
  uCap := 256
  uCut := 256
  credit := []
  stallDue := []
  pwrAlert := false
  perst := false
  tripped := false
  switchOpen := false
  powerGood := false
  snapshotBegun := false
  dispatchHeld := false
  overSample := false
  tripNow := false
  tripStays := false
  lastVolt := none
  lmap := []
  jmap := []
  emap := []
  suspects := []
  spareCols := []
  failing := []
  bistNext := 0
  bistWave := 1
  upSince := 0
  readyAt := 0
  cold := true
  resetting := false
  dieLog := []
  flashPend := []
  flashLog := []
  blockErases := []
  worn := []
  life := Life.zero
  copies := []
  sensors := []
  slotA := some ⟨0, 0, 0, true, []⟩
  slotB := none
  staged := none
  trialRun := false
  fuse := none
  reruns := []
  bar4 := false
  draws := 0

end Sys2Proof.Machine
end

