-- ==== Sys2Proof/Machine/Ops.lean ====
section
/-! DEFINITION. Named operations over tables, memories and registers. -/

namespace Sys2Proof.Machine

/-- The outcome of a command. -/
abbrev Res := Host.Outcome State Fault Refusal

/-! ### Tables -/

/-- The value at a key. -/
def Tab.find? {α : Type} (t : Tab α) (k : Nat) : Option α :=
  match t with
  | [] => none
  | (x, v) :: r => if x = k then some v else Tab.find? r k

/-- The value at a key, or `d`. -/
def Tab.getD {α : Type} (t : Tab α) (k : Nat) (d : α) : α := (Tab.find? t k).getD d

/-- The table with `v` at `k`; keys stay in rising order. -/
def Tab.put {α : Type} (t : Tab α) (k : Nat) (v : α) : Tab α :=
  match t with
  | [] => [(k, v)]
  | (x, y) :: r =>
    if k < x then (k, v) :: (x, y) :: r
    else if k = x then (k, v) :: r
    else (x, y) :: Tab.put r k v

/-- The table without `k`. -/
def Tab.del {α : Type} (t : Tab α) (k : Nat) : Tab α := t.filter fun e => e.1 ≠ k

/-- The table with the value at `k` changed, if there is one. -/
def Tab.modify {α : Type} (t : Tab α) (k : Nat) (f : α → α) : Tab α :=
  match Tab.find? t k with
  | some v => Tab.put t k (f v)
  | none => t

/-- A list of numbers as a set, in rising order. -/
def setIns (l : List Nat) (k : Nat) : List Nat :=
  match l with
  | [] => [k]
  | x :: r => if k < x then k :: x :: r else if k = x then x :: r else x :: setIns r k

/-! ### Memory -/

/-- What an unlisted address reads as (log 3). -/
def memDefault : Byte := 0

/-- The byte at an address. -/
def Mem.get (m : Mem) (a : Nat) : Byte :=
  match m with
  | [] => memDefault
  | (x, b) :: r => if x = a then b else Mem.get r a

/-- The memory with byte `b` at `a`, in canonical form: the default byte is not listed. -/
def Mem.put (m : Mem) (a : Nat) (b : Byte) : Mem :=
  match m with
  | [] => if b = memDefault then [] else [(a, b)]
  | (x, y) :: r =>
    if a < x then (if b = memDefault then (x, y) :: r else (a, b) :: (x, y) :: r)
    else if a = x then (if b = memDefault then r else (a, b) :: r)
    else (x, y) :: Mem.put r a b

/-- The addresses rise strictly from above `lo` and no listed byte is the default. -/
def Mem.wfFrom (lo : Option Nat) (m : Mem) : Bool :=
  match m with
  | [] => true
  | (a, b) :: r => (match lo with | none => true | some l => decide (l < a)) && decide (b ≠ memDefault) &&
      Mem.wfFrom (some a) r

/-- The canonical form of a memory. -/
def Mem.wf (m : Mem) : Bool := Mem.wfFrom none m

/-- `n` bytes from `a`. -/
def Mem.read (m : Mem) (a n : Nat) : List Byte := (List.range n).map fun i => Mem.get m (a + i)

/-- The memory with the bytes stored from `a`. -/
def Mem.write (m : Mem) (a : Nat) (bs : List Byte) : Mem :=
  match bs with
  | [] => m
  | b :: r => Mem.write (Mem.put m a b) (a + 1) r

/-- The memory with the bytes at `a` to `a + n - 1` no longer listed. -/
def Mem.erase (m : Mem) (a n : Nat) : Mem := m.filter fun c => ¬ (a ≤ c.1 ∧ c.1 < a + n)

/-- The bytes listed from `a` to `a + n - 1`, moved by replacing `a` with `b`. -/
def Mem.moved (m : Mem) (a n b : Nat) : List Host.Cell :=
  (m.filter fun c => a ≤ c.1 ∧ c.1 < a + n).map fun c => (c.1 - a + b, c.2)

/-- The memory with single bytes stored. -/
def Mem.puts (m : Mem) (cs : List Host.Cell) : Mem := cs.foldl (fun m c => Mem.put m c.1 c.2) m

/-- The number that bytes spell, least significant first (R4). -/
def leNat : List Byte → Nat
  | [] => 0
  | b :: r => b.toNat + 256 * leNat r

/-- `n` bytes of a number, least significant first (R4). -/
def leBytes (n x : Nat) : List Byte :=
  match n with
  | 0 => []
  | k + 1 => BitVec.ofNat 8 x :: leBytes k (x / 256)

/-- Field of `n` bytes at byte `o` of a structure (R4). -/
def fieldAt (bs : List Byte) (o n : Nat) : Nat := leNat ((bs.drop o).take n)

/-- A byte string brought to the length that its field has. -/
def fixLen (n : Nat) (l : List Byte) : List Byte := (l ++ List.replicate n 0).take n

/-! ### Registers -/

/-- Key of a register. -/
def rk (n : RegName) (u : Nat := 0) (i : Nat := 0) : RegKey := ⟨n, u, i⟩

/-- The listed value of a register. -/
def regFind (l : List (RegKey × Word)) (k : RegKey) : Option Word :=
  match l with
  | [] => none
  | (x, v) :: r => if x = k then some v else regFind r k

/-- The register list with the value of `k` set. -/
def regPut (l : List (RegKey × Word)) (k : RegKey) (v : Word) : List (RegKey × Word) :=
  match l with
  | [] => [(k, v)]
  | (x, y) :: r => if x = k then (k, v) :: r else (x, y) :: regPut r k v

/-- The value of a register: the one listed, else its reset value. -/
def State.reg (s : State) (k : RegKey) : Word := (regFind s.regs k).getD (resetWord k)

/-- The state with a register set. -/
def State.setReg (s : State) (k : RegKey) (v : Word) : State := { s with regs := regPut s.regs k v }

/-- Field `[lo + w - 1 : lo]` of a register. -/
def State.fld (s : State) (k : RegKey) (lo w : Nat) : Nat := bitsOf (s.reg k).toNat lo w

/-- A word with the field `[lo + w - 1 : lo]` replaced. -/
def setBits (v : Word) (lo w x : Nat) : Word :=
  BitVec.ofNat 64 (v.toNat - bitsOf v.toNat lo w * 2 ^ lo + x % 2 ^ w * 2 ^ lo)

/-- The state with a field of a register set. -/
def State.setFld (s : State) (k : RegKey) (lo w x : Nat) : State := s.setReg k (setBits (s.reg k) lo w x)

/-- An event counter advanced by `n`; it saturates at its all-ones value (R11). -/
def State.bump (s : State) (k : RegKey) (n : Nat := 1) : State :=
  s.setReg k (BitVec.ofNat 64 (min ((s.reg k).toNat + n) (2 ^ 64 - 1)))

/-- A register brought to a value. -/
def State.show (s : State) (k : RegKey) (v : Nat) : State :=
  if s.reg k = BitVec.ofNat 64 v then s else s.setReg k (BitVec.ofNat 64 v)

/-- A value that counts and saturates at `2 ^ w - 1` (R11). -/
def satAdd (w a b : Nat) : Nat := min (a + b) (2 ^ w - 1)

/-- Bit `i` of a register. -/
def State.bit (s : State) (k : RegKey) (i : Nat) : Bool := s.fld k i 1 = 1

/-! ### Logical and physical units (R18, R346) -/

/-- Physical terrace that serves logical terrace `t`. -/
def State.physT (s : State) (t : Nat) : Nat := Tab.getD s.lmap t t

/-- Physical basin (its register unit) of logical basin `q = 4t + b`. -/
def State.physB (s : State) (q : Nat) : Nat := 4 * s.physT (q / 4) + q % 4

/-- Place of a logical jet's physical jet before jets are spared: logical jet `16t + 4b + j`, or the reserve jet
`560 + t`. -/
def State.ownJ (s : State) (j : Nat) : Nat :=
  if j ≥ 560 then 17 * s.physT (j - 560) + 16 else 17 * s.physT (j / 16) + j % 16

/-- Physical jet (register unit) of a logical jet: the reserve jet that took the place of its own (R447). -/
def State.physJ (s : State) (j : Nat) : Nat :=
  match Tab.find? s.jmap (s.ownJ j) with
  | some r => if r = 595 then s.ownJ j else r
  | none => s.ownJ j

/-- The other engine of a basin. -/
def partner (p : Nat) : Nat := if p % 2 = 0 then p + 1 else p - 1

/-- Place of a logical engine's physical engine before engines move. -/
def State.ownE (s : State) (e : Nat) : Nat := 8 * s.physT (e / 8) + e % 8

/-- Physical engine (register unit) of logical engine `8t + 2b + s`; its partner's after it has moved (R448). -/
def State.physE (s : State) (e : Nat) : Nat := if s.emap.contains (s.ownE e) then partner (s.ownE e) else s.ownE e

/-- Does some engine of its basin serve a logical engine's handle (R448)? -/
def State.engineUp (s : State) (e : Nat) : Bool := !s.emap.contains (s.physE e)

/-- Local handle of a logical jet (R13). -/
def jetHandle (j : Nat) : Nat := if j ≥ 560 then 0x0C00 + (j - 560) else 0x0400 + j

/-- Handle on this device of a local handle: device index 0xFF (R15). -/
def hereHandle (h : Nat) : Nat := 0xFF0000 + h

/-- The handle of the device itself. -/
def devHandle : Nat := 0xFF0001

/-- The radio-time counter (R394). -/
def State.now (s : State) : Nat := (s.reg (rk .TM_NOW)).toNat

/-! ### Columns (R446, R465) -/

/-- Is a column marked suspect at powered second `p` suspect still? -/
def State.stillSuspect (s : State) (p : Nat) : Bool := decide (s.life.poweredS - p ≤ 3600 * s.fld (rk .SP_CFG) 0 16)

/-- TR_COLUMN_SPARES of a physical jet: spare columns used and suspect columns (R465). -/
def State.showColumns (s : State) (u : Nat) : State :=
  if u % 17 = 16 then s
  else
    let k := rk .TR_COLUMN_SPARES (u / 17) (u % 17 / 4)
    let n := (s.suspects.filter fun e => decide (e.1 / 256 = u) && s.stillSuspect e.2).length
    (s.setFld k (2 * (u % 4)) 2 (min (Tab.getD s.spareCols u 0) 3)).setFld k (8 + 2 * (u % 4)) 2 (min n 3)

/-- The suspect columns of every jet shown anew: the period has moved on, or has been set. -/
def State.showSuspects (s : State) : State := (s.suspects.map fun e => e.1 / 256).eraseDups.foldl State.showColumns s

end Sys2Proof.Machine
end

