-- ==== Sys2Proof/Machine/Tree.lean ====
section
/-! DEFINITION. The cascade tree, the routes over Rill and what the module sends (R402, R403, R407, R409, R411). -/

namespace Sys2Proof.Machine

/-! ### Ranks and the tree (R407) -/

/-- The members by rank: the master, then the others in ascending index. -/
def Casc.order (c : Casc) : List Nat :=
  c.master :: (List.range 256).filter fun i => bitOf c.bitmap i && i ≠ c.master

/-- A member's rank. -/
def Casc.rankOf (c : Casc) (i : Nat) : Nat := c.order.findIdx (· = i)

/-- The member of a rank. -/
def Casc.member (c : Casc) (r : Nat) : Nat := c.order.getD r 0

/-- The parent of a rank. -/
def treeParent (r : Nat) : Nat := (r - 1) / 8

/-- The child ranks of a rank in a cascade of `n`. -/
def treeChildren (n r : Nat) : List Nat := ((List.range 8).map (8 * r + 1 + ·)).filter (· < n)

/-- Parent steps from a rank to rank 0. -/
def treeDepthOf : Nat → Nat → Nat
  | 0, _ => 0
  | fuel + 1, r => if r = 0 then 0 else 1 + treeDepthOf fuel (treeParent r)

/-- A rank climbed towards the root while it lies above `c`. -/
def climbTo (c : Nat) : Nat → Nat → Nat
  | 0, x => x
  | fuel + 1, x => if c < x then climbTo c fuel (treeParent x) else x

/-- `next_hop` of R409, in ranks. -/
def nextHop (here t n : Nat) : Nat :=
  ((treeChildren n here).find? fun c => climbTo c 8 t = c).getD (treeParent here)

/-- Own rank. -/
def Casc.rank (c : Casc) : Nat := c.rankOf c.own

/-- Indices of the tree children. -/
def Casc.children (c : Casc) : List Nat := (treeChildren c.n c.rank).map c.member

/-- Index of the tree parent; none at rank 0. -/
def Casc.parent (c : Casc) : Option Nat := if c.rank = 0 then none else some (c.member (treeParent c.rank))

/-- Indices of the tree neighbours. -/
def Casc.near (c : Casc) : List Nat := c.parent.toList ++ c.children

/-- Are the module and its cascade neighbours such that this is the one that starts operations (R417)? -/
def State.isMaster (s : State) : Bool := match s.casc with | some c => c.own = c.master | none => true

/-! ### Routes (R409) -/

/-- A port is up. -/
def State.portUp (s : State) (p : Nat) : Bool := s.bit (rk .LK_PORT_STATUS 0 p) 0

/-- The lowest port that is up and names a member. -/
def State.portTo (s : State) (c : Casc) (i : Nat) : Option Nat :=
  (List.range 16).find? fun p => c.ports.getD p none = some i && s.portUp p

/-- The port on which traffic to a member leaves. -/
def State.route (s : State) (m : Nat) : Option Nat :=
  match s.casc with
  | none => none
  | some c =>
    match s.portTo c m with
    | some p => some p
    | none => s.portTo c (c.member (nextHop c.rank (c.rankOf m) c.n))

/-- Can traffic to a member be sent? -/
def State.reachable (s : State) (m : Nat) : Bool := (s.route m).isSome

/-! ### Sending -/

/-- The member that a message is for; none for the join values, which go to whoever is at the port's far end. -/
def LinkMsg.member : LinkMsg → Option Nat
  | .descriptor m _ _ _ _ _ | .record m _ | .write m _ _ | .slotWrite m _ _ _ _ | .read m _ _ | .token m _ _ _ _ | .leave m
  | .found m _ _ _ | .onward m _ _ | .copy m _ | .hold m | .release m | .reset m | .answer m _ _ => some m
  | .exchange _ _ _ _ _ => none

/-- The port a message leaves on. -/
def State.linkPort (s : State) : LinkMsg → Option Nat
  | .exchange p _ _ _ _ => if s.portUp p then some p else none
  | msg => msg.member.bind s.route

/-- Flits of a message: one for each 240 payload bytes it carries, and one for a message of fewer (R402, log 17). -/
def LinkMsg.flits : LinkMsg → Nat
  | .write _ _ d | .slotWrite _ _ _ _ d | .copy _ d | .found _ _ d _ => max 1 (ceilDiv d.length 240)
  | .onward _ _ n => max 1 (ceilDiv n 240)
  | _ => 1

/-- A Rill port. -/
def State.rill (s : State) (p : Nat) : Port := Tab.getD s.ports p ⟨[], 0, [], false, false, [], 0, 0⟩

/-- BARRIER's opcode (R272). -/
def opBarrier : Nat := 0x0B

/-- Priority class of the traffic of an operation: a BARRIER, a descriptor from a radio-class ring, another (R411). -/
def State.opClass (s : State) (op : Nat) : Nat :=
  match s.jobs.find? fun j => op ≠ 0 && j.jid = op - 1 with
  | some j => if j.d.opcode = opBarrier then 0 else if j.cls = 0 then 1 else 2
  | none => 2

/-- Priority class of a message's flits (R411). -/
def State.linkClass (s : State) (op : Nat) : LinkMsg → Nat
  | .token _ _ _ _ _ | .copy _ _ | .hold _ | .release _ | .reset _ | .answer _ _ _ => 0
  | .descriptor _ _ _ _ _ _ | .record _ _ | .write _ _ _ | .slotWrite _ _ _ _ _ | .read _ _ _ => s.opClass op
  | .found _ c _ _ | .onward _ c _ => c
  | .exchange _ _ _ _ _ | .leave _ => 2

/-- The class whose flit a port sends next, after `run` flits of other classes in a row while class 2 waited (R411). -/
def nextClass (cs : List Nat) (run : Nat) : Option Nat :=
  if cs.contains 2 && decide (7 ≤ run) then some 2 else [0, 1, 2].find? cs.contains

/-- One flit of the first message of class `c` taken from those that wait: the rest, and the message where that was its last
flit. -/
def takeFlit (c : Nat) : List (Nat × Nat × Nat × LinkMsg) → List (Nat × Nat × Nat × LinkMsg) × Option (Nat × Option LinkMsg)
  | [] => ([], none)
  | x :: r =>
    if x.1 = c then
      if x.2.2.1 ≤ 1 then (r, some (x.2.1, some x.2.2.2)) else ((c, x.2.1, x.2.2.1 - 1, x.2.2.2) :: r, some (x.2.1, none))
    else
      let t := takeFlit c r
      (x :: t.1, t.2)

/-- A port sends one of the flits that wait (R411). -/
def State.flitOut (s : State) (p : Nat) : State :=
  let r := s.rill p
  let cs := r.waiting.map Prod.fst
  match nextClass cs r.run with
  | none => s
  | some c =>
    match takeFlit c r.waiting with
    | (_, none) => s
    | (w, some (op, msg)) =>
      let s := s.bump (rk .LK_TX_FLITS 0 p)
      { s with
        linkOut := s.linkOut ++ msg.toList
        ports := Tab.put s.ports p { r with
          unacked := r.unacked ++ [op], waiting := w, run := if c = 2 || !cs.contains 2 then 0 else r.run + 1 } }

/-- A port sends up to `n` of the flits that wait. -/
def State.flitsOut (s : State) (p : Nat) : Nat → State
  | 0 => s
  | n + 1 => (s.flitOut p).flitsOut p n

/-- The port a message of a priority class leaves on: where messages of its class to the same member wait on a port, behind them,
else the port of its route (R412). -/
def State.portOf (s : State) (cls : Nat) (msg : LinkMsg) : Option Nat :=
  match (List.range 16).find? fun p => (s.rill p).waiting.any fun x => x.1 = cls && x.2.2.2.member.isSome && x.2.2.2.member = msg.member with
  | some p => some p
  | none => s.linkPort msg

/-- A message left to wait on a port. -/
def State.enqueue (s : State) (p cls op : Nat) (msg : LinkMsg) : State :=
  let r := s.rill p
  { s with ports := Tab.put s.ports p { r with waiting := r.waiting ++ [(cls, op, msg.flits, msg)] } }

/-- A message of a priority class sent, whose flits wait for acknowledgement under the operation `op`: 0 none, else one more than
a descriptor's dispatch number (R403). On a port that retrains it waits (R404). A message that no port can take is not sent (R409). -/
def State.sendAs (s : State) (cls : Nat) (msg : LinkMsg) (op : Nat) : State :=
  match s.portOf cls msg with
  | none => s
  | some p =>
    let r := s.rill p
    if r.retraining then s.enqueue p cls op msg
    else
      let s := s.bump (rk .LK_TX_FLITS 0 p) msg.flits
      { s with
        linkOut := s.linkOut ++ [msg]
        ports := Tab.put s.ports p { r with unacked := r.unacked ++ List.replicate msg.flits op } }

/-- A message sent in the priority class that R411 gives it. -/
def State.sendLink (s : State) (msg : LinkMsg) (op : Nat := 0) : State := s.sendAs (s.linkClass op msg) msg op

end Sys2Proof.Machine
end

