-- ==== Sys2Proof/Machine/Place.lean ====
section
/-! DEFINITION. Where a device address lies, and the effects of a write that raise no event or hand one back to be raised
(R15, R17, R242, R243, R248, R249, R264, R313, R320 to R323, R329). -/

namespace Sys2Proof.Machine

/-! ### Geometry -/

/-- Base of a logical basin's pools in device addresses (R321). -/
def poolBase (q : Nat) : Nat := 0x10000000000 + q * 0x800000

/-- The pool that holds a basin pool address: number, start, size, banks (R242). -/
def poolOf (x : Nat) : Nat × Nat × Nat × Nat :=
  if x < 0x400000 then (0, 0, 0x400000, 32)
  else if x < 0x700000 then (1, 0x400000, 0x300000, 24)
  else (2, 0x700000, 0x100000, 8)

/-- Bank, row in the bank and narrow word of a basin pool address (R243). -/
def bankOf (x : Nat) : Nat × Nat × Nat :=
  let p := poolOf x
  let o := x - p.2.1
  (o / 256 % p.2.2.2, o / 256 / p.2.2.2, o / 32 % 8)

/-- Is a device index this device (R15)? -/
def State.isHere (s : State) (i : Nat) : Bool :=
  i = 0xFF || match s.casc with | some c => c.own = i | none => false

/-- Is a device index a current member of the cascade other than this device (R15, R17)? -/
def State.isPeer (s : State) (i : Nat) : Bool :=
  !s.isHere i && match s.casc with | some c => decide (i < 256) && bitOf c.bitmap i | none => false

/-- Is an index a member of the cascade other than this one, the member 0xFF included, which no other member can name (R17)? -/
def State.inCascade (s : State) (i : Nat) : Bool :=
  match s.casc with
  | some c => decide (i < 256) && bitOf c.bitmap i && i ≠ c.own
  | none => false

/-! ### Where a device address lies -/

/-- Where a byte lies (R320 to R323). -/
inductive Loc where
  | unmapped
  | pool (q x : Nat)
  | dram (a : Nat) (stack : Nat)
  | host (h : Nat)
  /-- In another member's memory, by a peer-form address (R320). -/
  | peer (m a : Nat)
  /-- In an allocation of this device that lies spilled on a peer (R333, R335); its bytes are kept at their own address. -/
  | away (m a : Nat)
  | lost (a : Nat) (stack : Nat)
  deriving DecidableEq, Repr

/-- The live allocation that holds a local device address. -/
def State.allocAt (s : State) (a : Nat) : Option Alloc := s.allocs.find? fun x => decide (x.base ≤ a ∧ a < x.base + x.size)

/-- The stack that holds a byte of an allocation (R328). -/
def Alloc.stackOf (x : Alloc) (a : Nat) : Nat :=
  x.stackList.getD (((a - x.base) / 4096 + x.f) % max x.stackList.length 1) 0

/-- Where a local device address (bits [46:0]) lies. -/
def State.localLoc (s : State) (a : Nat) : Loc :=
  if a < 0x10000000000 then
    match s.allocAt a with
    | none => .unmapped
    | some x =>
      match x.lies with
      | .onStacks => .dram a (x.stackOf a)
      | .host h => .host (h + (a - x.base))
      | .peer i => .away i a
      | .lost => .lost a (x.stackOf a)
  else if a < 0x10046000000 then .pool ((a - 0x10000000000) / 0x800000) (a % 0x800000)
  else .unmapped

/-- Where a device address (bits [55:0]) lies, peer form included (R320, R322). -/
def State.loc (s : State) (a : Nat) : Loc :=
  if bitOf a 55 then
    let i := bitsOf a 47 8
    if s.isHere i then s.localLoc (a % 2 ^ 47)
    else if s.isPeer i && decide (a % 2 ^ 47 < 0x10046000000) then .peer i (a % 2 ^ 47)
    else .unmapped
  else if bitsOf a 47 8 = 0 then s.localLoc (a % 2 ^ 47)
  else .unmapped

/-! ### Effects of a write -/

/-- The pieces of `len` bytes from `a`, cut at multiples of `u`. -/
def cutAt (u : Nat) (fuel : Nat) (a len : Nat) : List (Nat × Nat) :=
  match fuel with
  | 0 => []
  | k + 1 =>
    if len = 0 then []
    else
      let n := min len (u - a % u)
      (a, n) :: cutAt u k (a + n) (len - n)

/-- The pieces cut at multiples of `u`. -/
def pieces (u a len : Nat) : List (Nat × Nat) := cutAt u (len / u + 2) a len

/-- An allocation accessed: its place in the order of least recent use (R329). -/
def State.used (s : State) (a : Nat) : State :=
  { s with allocs := s.allocs.map fun x => if x.base ≤ a ∧ a < x.base + x.size then { x with lastUse := s.tk } else x }

/-- Does window `k` of a basin admit the bytes `x` to `x + n - 1` for a class (R248)? -/
def State.admits (s : State) (u k x n cls : Nat) : Bool :=
  let r := rk .BS_WIN u k
  s.bit r 40 && s.bit r (32 + cls) && decide (s.fld r 0 15 * 256 ≤ x) && decide (x + n ≤ s.fld r 16 15 * 256 + 256)

/-- An event to be raised: code, unit and payload. -/
abbrev Ev := Nat × Nat × List Byte

/-- Bytes 24 to 62 of an event record from fields (byte, length, value). -/
def payload (fs : List (Nat × Nat × Nat)) : List Byte :=
  leBytes 39 ((fs.map fun f => f.2.2 % 2 ^ (8 * f.2.1) * 2 ^ (8 * (f.1 - 24))).sum)

/-- A dropped pool write request: counted, and latched with an event if none is latched (R249). -/
def State.dropLatch (s : State) (q x cls writer : Nat) : State × Option Ev :=
  let u := s.physB q
  let s := s.bump (rk .BS_WIN_DROPS u)
  if s.bit (rk .BS_WIN_DROP_INFO u) 63 then (s, none)
  else
    (s.setReg (rk .BS_WIN_DROP_INFO u) (BitVec.ofNat 64 (x + 2 ^ 24 * cls + 2 ^ 32 * writer + 2 ^ 63)),
      some (0x10, hereHandle (0x200 + q), payload [(24, 4, x), (28, 1, cls), (29, 3, writer)]))

/-- An unmapped piece: counted, and latched with an event if none is (R323). -/
def State.unmappedLatch (s : State) (a : Nat) : State × Option Ev :=
  let s := s.bump (rk .PL_UNMAPPED)
  if s.bit (rk .PL_UNMAPPED_INFO) 63 then (s, none)
  else
    (s.setReg (rk .PL_UNMAPPED_INFO) (BitVec.ofNat 64 (a % 2 ^ 56 + 2 ^ 63)),
      some (0x25, devHandle, payload [(24, 8, a % 2 ^ 56)]))

/-- The check bits of a narrow word written whole, with the armed error injection (R264, BS_ECC_INJECT). -/
def State.wholeWord (s : State) (q x : Nat) : State :=
  let key := (poolBase q + x) / 32
  let ij := rk .BS_ECC_INJECT (s.physB q)
  if s.bit ij 33 ∧ s.fld ij 0 23 / 32 = x / 32 then
    let b := s.fld ij 24 8
    let m := 2 ^ b + (if s.bit ij 32 then 2 ^ ((b + 1) % 256) else 0)
    { s.setFld ij 33 1 0 with poolErr := Tab.put s.poolErr key m }
  else { s with poolErr := Tab.del s.poolErr key }

/-- The key of a codeword of a stack: the stack, and the device address it serves (log 20). -/
def codeKey (st a : Nat) : Nat := st * 2 ^ 34 + a / 64

/-- Bytes stored in an allocation that lies spilled on a peer: kept at their own address, and sent to the peer (R335). -/
def State.spillStore (s : State) (m a : Nat) (bs : List Byte) (op : Nat) : State :=
  ({ s with dev := Mem.write s.dev a bs }).sendLink (.write m a bs) op

/-- Bytes stored in device memory on a stack: counted since the device reset and over the life (R313, R475). -/
def State.stackStore (s : State) (st a : Nat) (bs : List Byte) : State :=
  let s := s.bump (rk .DM_WRITE_BYTES st) bs.length
  { s with
    dev := Mem.write s.dev a bs
    life := { s.life with dramWritten := s.life.dramWritten.modify st fun x => satAdd 64 x bs.length } }

end Sys2Proof.Machine
end

