-- ==== Sys2Proof/Machine/Events.lean ====
section
/-! DEFINITION. Writes to host memory, MSI-X vectors, events, logs and READY_MAP (R27, R357, R368 to R371, R378, R380,
R434, R468 to R470). -/

namespace Sys2Proof.Machine

/-! ### Host memory and vectors -/

/-- May the device send writes to host memory now (R379, R380, R434)? -/
def State.hostOpen (s : State) : Bool := s.bit (rk .HI_LINK) 10 && !s.d3

/-- MSI-X is enabled in the configuration space (R374, R506). -/
def State.msixOn (s : State) : Bool := s.bit (rk .PCI_MSIX) 31

/-- A write or a vector carried out: without MSI-X enabled no vector is sent; one that its mask bit or the function mask holds
back becomes pending, another is the MSI-X write of its table entry (log 4). -/
def State.post (s : State) (p : Post) : State :=
  match p with
  | .write a bs => { s with host := Mem.write s.host a bs }
  | .vector v =>
    if !s.msixOn then s
    else if s.bit (rk .PCI_MSIX) 30 || s.bit (rk .MSIX_CTRL 0 v) 0 then s.setFld (rk .MSIX_PBA 0 (v / 32)) (v % 32) 1 1
    else
      let a := (s.reg (rk .MSIX_ADDR_LO 0 v)).toNat + 2 ^ 32 * (s.reg (rk .MSIX_ADDR_HI 0 v)).toNat
      { s with host := Mem.write s.host a (leBytes 4 (s.reg (rk .MSIX_DATA 0 v)).toNat) }

/-- A write or a vector sent at once where the link is up, in D0 and nothing waits; else it waits in order. -/
def State.send (s : State) (p : Post) : State :=
  if s.hostOpen && s.hostWait.isEmpty then s.post p else { s with hostWait := s.hostWait ++ [p] }

/-- Is it a write? -/
def Post.isWrite : Post → Bool
  | .write _ _ => true
  | .vector _ => false

/-- Everything that waited, once the host can take it: the writes in order, then the vectors that are due (R380, R434). From the
instant of a consistent snapshot on nothing that waited is posted any more (R499). -/
def State.flushWait (s : State) : State :=
  if s.hostOpen && !s.snapshotBegun then
    (s.hostWait.filter fun p => !p.isWrite).foldl State.post
      ((s.hostWait.filter Post.isWrite).foldl State.post { s with hostWait := [] })
  else s

/-! ### The management link's vector (R382, log 4) -/

/-- Does a mask hold the management link's vector back? -/
def State.mgtMasked (s : State) : Bool := s.bit (rk .MCF_MSIX) 30 || s.bit (rk .MCF_VEC_CTRL) 0

/-- The management link's vector, written to site-controller memory where MSI-X is enabled on that link; pending while masked. -/
def State.mgtVector (s : State) : State :=
  if !s.bit (rk .MCF_MSIX) 31 then s
  else if s.mgtMasked then s.setFld (rk .MCF_VEC_PENDING) 0 1 1
  else
    let a := (s.reg (rk .MCF_VEC_ADDR_LO)).toNat + 2 ^ 32 * (s.reg (rk .MCF_VEC_ADDR_HI)).toNat
    { s with site := Mem.write s.site a (leBytes 4 (s.reg (rk .MCF_VEC_DATA)).toNat) }

/-- A pending vector of the management link goes out once nothing masks it. -/
def State.mgtUnmask (s : State) : State :=
  if s.bit (rk .MCF_MSIX) 31 && !s.mgtMasked && s.bit (rk .MCF_VEC_PENDING) 0 then (s.setFld (rk .MCF_VEC_PENDING) 0 1 0).mgtVector
  else s

/-! ### Events -/

/-- Codes that Nimbus also writes to the flash log (R469). -/
def flashLogged (c : Nat) : Bool :=
  c = 0x12 || (0x20 ≤ c && c ≤ 0x23) || (0x300 ≤ c && c ≤ 0x303) || (0x400 ≤ c && c ≤ 0x406) || (0x500 ≤ c && c ≤ 0x6FF)

/-- Powered time since power-on in ms: the clock counts ticks of 1/33 ns. -/
def State.ms (s : State) : Nat := s.tk / 33000000

/-- The event ring has room (R370). -/
def State.evRoom (s : State) (r : EvRing) : Bool :=
  (r.posted + 2 ^ 32 - s.fld (rk .QE_EV_HEAD) 0 32) % 2 ^ 32 < 2 ^ r.place.z

/-- The 64 bytes of an event record, phase bit aside (R370). -/
def eventBytes (code seq time unit : Nat) (pay : List Byte) (last : Nat) : List Byte :=
  leBytes 4 code ++ leBytes 4 seq ++ leBytes 8 time ++ leBytes 3 unit ++ leBytes 5 0 ++ fixLen 39 pay ++ leBytes 1 last

/-- An event written to the on-die log, and marked for the flash log where its code is one of R469's. -/
def State.logEvent (s : State) (code unit : Nat) (pay : List Byte) : State :=
  let e : LogEntry := ⟨(s.reg (rk .NB_LOG_DIE)).toNat, code, s.evSeq % 2 ^ 32, s.now, unit, pay, s.life.powerCycles % 2 ^ 16,
    s.ms % 2 ^ 40⟩
  let l := s.dieLog ++ [e]
  { s.bump (rk .NB_LOG_DIE) with
    dieLog := l.drop (l.length - 1024)
    flashPend := if flashLogged code then s.flashPend ++ [e] else s.flashPend
    evSeq := s.evSeq + 1 }

/-- A pool write request of an event record, of Zenith's class, where a window admits it (R248 to R250). -/
def State.recordRequest (s : State) (q x : Nat) (bs : List Byte) : State × Option Ev :=
  if (List.range 16).any fun k => s.admits (s.physB q) k x bs.length 5 then
    ((pieces 32 x bs.length).foldl (fun s p => s.wholeWord q p.1) { s with dev := Mem.write s.dev (poolBase q + x) bs }, none)
  else s.dropLatch q x 5 devHandle

/-- The 64 bytes of an event record written in place, which is one codeword or lies in one wide row; an event that the write
causes is handed back (R323, R370). -/
def State.recordStore (s : State) (p : Place) (off : Nat) (bs : List Byte) : State × Option Ev :=
  let a := p.base + off
  if !p.device then (s.send (.write a bs), none)
  else
    match s.loc (a % 2 ^ 56) with
    | .unmapped => s.unmappedLatch a
    | .pool q x => s.recordRequest q x bs
    | .dram l st =>
      let s := (s.used (a % 2 ^ 47)).stackStore st l bs
      ({ s with dramErr := Tab.del s.dramErr (codeKey st l) }, none)
    | .host h => ((s.used (a % 2 ^ 47)).send (.write h bs), none)
    | .peer m l => (s.sendLink (.write m l bs), none)
    | .away m l => (if s.reachable m then (s.used (a % 2 ^ 47)).spillStore m l bs 0 else s, none)
    | .lost _ _ => (s, none)

/-- An event raised, and with it the events that the writes of records to device memory cause: each of those fills a latch
that was empty, so at most one for unmapped addresses and one for each of the two basins that a ring can lie in follow. -/
def State.raiseN : Nat → State → Nat → Nat → List Byte → State
  | 0, s, _, _, _ => s
  | fuel + 1, s, code, unit, pay =>
    let seq := s.evSeq % 2 ^ 32
    let time := s.now
    let s := s.logEvent code unit pay
    if code = 0x303 ∨ code = 0x406 then s
    else
      match s.evRing with
      | none => s
      | some r =>
        if s.evRoom r then
          let i := r.posted
          let ph := if i / 2 ^ r.place.z % 2 = 0 then 128 else 0
          let s := { s with evRing := some { r with posted := i + 1 } }
          let w := s.recordStore r.place (64 * (i % 2 ^ r.place.z)) (eventBytes code seq time unit pay ph)
          let s := w.1.send (.vector 2047)
          match w.2 with
          | some e => s.raiseN fuel e.1 e.2.1 e.2.2
          | none => s
        else { s.bump (rk .QE_EV_LOST) with evLost := s.evLost + 1 }

/-- An event raised: log, then the event ring if one exists and has room; a ring without room loses it (R370). Clock
faults and fatal faults go to the logs only (R423, R462). -/
def State.raise (s : State) (code unit : Nat) (pay : List Byte) : State := s.raiseN 4 code unit pay

/-- When room returns after a loss, one EV_EVENTS_LOST is posted first (R370). -/
def State.lostPost (s : State) : State :=
  match s.evRing with
  | some r =>
    if s.evLost ≠ 0 ∧ s.evRoom r then
      { s with evLost := 0 }.raise 0x4 devHandle (payload [(24, 8, s.evLost)])
    else s
  | none => s

/-! ### READY_MAP -/

/-- A stack's, terrace's, basin's or function's own condition holds. -/
def State.own (s : State) (i : Nat) : Bool := s.up.contains i

/-- Nimbus is ready. -/
def State.nimbus (s : State) : Bool := s.own 0

/-- Zenith is ready: it needs Nimbus (R27). -/
def State.zenith (s : State) : Bool := s.own 1 && s.nimbus

/-- A stack is ready: its training, and Nimbus (R27). -/
def State.stackReady (s : State) (i : Nat) : Bool := s.own (64 + i) && s.nimbus

/-- The placement engine is ready: Zenith and a ready stack (R27). -/
def State.placement (s : State) : Bool := s.zenith && (List.range 16).any s.stackReady

/-- The queue engine is ready: Zenith and the placement engine (R27). -/
def State.queueReady (s : State) : Bool := s.zenith && s.placement

/-- A logical terrace is ready: its BIST, and the queue engine (R27); none is while a compute reset runs (R432). -/
def State.terraceReady (s : State) (t : Nat) : Bool := s.own (128 + t) && s.queueReady && !s.resetting

/-- A logical basin is ready, with its terrace. -/
def State.basinReady (s : State) (q : Nat) : Bool := s.own (192 + q) && s.terraceReady (q / 4)

/-- Does sparing hold the reserve jet of a logical terrace (R438)? -/
def State.spared (s : State) (t : Nat) : Bool := Tab.find? s.holders (0x100 + t) = some 3

/-- Halo is ready: Zenith and a ready terrace whose reserve jet sparing does not hold (R27). -/
def State.haloReady (s : State) : Bool :=
  s.zenith && (List.range 35).any fun t => s.terraceReady t && !s.spared t

/-- The numbered readiness bit, under the needs of R27: device functions 0 to 9, stacks from 64, terraces from 128,
basins from 192, ports from 384. -/
def State.isReady (s : State) (i : Nat) : Bool :=
  if i = 0 then s.nimbus
  else if i = 1 then s.zenith
  else if i = 2 then s.placement
  else if i = 3 then s.queueReady
  else if i = 4 then s.zenith
  else if i = 5 then s.haloReady
  else if i = 6 then s.zenith
  else if i = 7 then s.own 7 && s.zenith
  else if i = 8 then s.own 8
  else if i = 9 then s.own 9 && s.nimbus
  else if 64 ≤ i ∧ i < 80 then s.stackReady (i - 64)
  else if 128 ≤ i ∧ i < 163 then s.terraceReady (i - 128)
  else if 192 ≤ i ∧ i < 332 then s.basinReady (i - 192)
  else if 384 ≤ i ∧ i < 402 then s.own i
  else false

/-- The words of READY_MAP but the generation, with the first bit number each holds and its width. -/
def readyWords : List (RegName × Nat × Nat) :=
  [(.READY_DEVICE, 0, 10), (.READY_STACKS, 64, 16), (.READY_TERRACES, 128, 35), (.READY_BASINS0, 192, 64),
   (.READY_BASINS1, 256, 64), (.READY_BASINS2, 320, 12), (.READY_PORTS, 384, 18)]

/-- Kind and bit index of a readiness bit in EV_READY (R371). -/
def readyKind (i : Nat) : Nat × Nat :=
  if i < 64 then (0, i) else if i < 128 then (1, i - 64) else if i < 192 then (2, i - 128) else if i < 384 then (3, i - 192)
  else (4, i - 384)

/-- The word of readiness bits from `lo`. -/
def State.readyWord (s : State) (lo w : Nat) : Nat :=
  ((List.range w).map fun i => if s.isReady (lo + i) then 2 ^ i else 0).sum

/-- The readiness bits that the words published and the conditions give differently, in ascending order. -/
def State.readyChanges (s : State) : List Nat :=
  readyWords.flatMap fun x =>
    ((List.range x.2.2).map (x.2.1 + ·)).filter fun i => s.bit (rk x.1) (i - x.2.1) ≠ s.isReady i

/-- READY_MAP, and the ready bits of the stacks and the placement engine, brought in line with the conditions as one
step, with one event for each bit that changes (R369). -/
def State.refreshReady (s : State) : State :=
  let ch := s.readyChanges
  if ch.isEmpty then s
  else
    let g := (s.fld (rk .READY_GENERATION) 0 32 + 1) % 2 ^ 32
    let t := readyWords.foldl (fun t x => t.setReg (rk x.1) (BitVec.ofNat 64 (s.readyWord x.2.1 x.2.2))) s
    let t := t.setReg (rk .READY_GENERATION) (BitVec.ofNat 64 g)
    let t := (List.range 16).foldl (fun t i => t.setFld (rk .DM_STATUS i) 0 1 (flagNat (s.stackReady i))) t
    let t := t.setFld (rk .PL_STATUS) 0 1 (flagNat s.placement)
    let t := (t.setFld (rk .NB_STATUS) 0 1 (flagNat s.nimbus))
    ch.foldl (fun t i =>
      let k := readyKind i
      t.raise (if s.isReady i then 1 else 2) devHandle (payload [(24, 1, k.1), (25, 2, k.2), (28, 4, g)])) t

/-- A condition set or cleared. -/
def State.setOwn (s : State) (i : Nat) (b : Bool) : State :=
  { s with up := if b then setIns s.up i else s.up.filter (· ≠ i) }

end Sys2Proof.Machine
end

