-- ==== Sys2Proof/Machine/Access.lean ====
section
/-! DEFINITION. Addresses, pools, windows, slots and tokens, bonded DRAM and its errors, and the reads and writes that
units make (R242 to R271, R273, R312 to R324, R449). -/

namespace Sys2Proof.Machine

/-- The repair map's place of a wide row: pool, bank and row (R477). -/
def rowPlace (x : Nat) : Nat := (poolOf x).1 * 2 ^ 14 + (bankOf x).1 * 2 ^ 9 + (bankOf x).2.1

/-- Is the address a slot reference (R273)? -/
def isSlotRef (a : Nat) : Bool := bitOf a 63

/-- Offset, slot number and unit handle of a slot reference (R273). -/
def slotOff (a : Nat) : Nat := bitsOf a 0 23
/-- Slot number of a slot reference. -/
def slotNum (a : Nat) : Nat := bitsOf a 24 6
/-- Unit handle of a slot reference. -/
def slotUnit (a : Nat) : Nat := bitsOf a 32 24

/-- The logical basin of this device that a slot reference's handle names; none if it is not one here. -/
def State.slotBasin (s : State) (a : Nat) : Option Nat :=
  let h := slotUnit a
  let l := h % 2 ^ 16
  if s.isHere (h / 2 ^ 16) ∧ 0x200 ≤ l ∧ l < 0x200 + 140 then some (l - 0x200) else none

/-- The BS_SLOT register of slot `n` of logical basin `q`. -/
def State.slotKey (s : State) (q n : Nat) : RegKey := rk .BS_SLOT (s.physB q) n

/-- The basin pool address that offset `o` of slot `n` reaches (R257). -/
def State.slotAddr (s : State) (q n o : Nat) : Nat :=
  let b := s.fld (s.slotKey q n) 0 15 * 256
  let p := poolOf b
  p.2.1 + (b - p.2.1 + o) % p.2.2.1

/-- Size of a slot in bytes (R256). -/
def State.slotSize (s : State) (q n : Nat) : Nat := (s.fld (s.slotKey q n) 16 15 + 1) * 256

/-! ### Who reads and writes -/

/-- A unit that makes accesses: the logical basin whose owner it is, the writer class of its remote writes where it is
no basin, its handle, whether the bounds watch acts on its slot accesses, and the operation whose flits it sends (R245,
R246, R263, R405). -/
structure Who where
  basin : Option Nat
  cls : Nat
  unit : Nat
  watch : Bool
  op : Nat
  deriving DecidableEq, Repr

/-- A status and its detail. -/
abbrev Err := Nat × Nat

/-- A range of bytes an access covers: the address field, the offset from it, and the length. -/
structure Span where
  ref : Nat
  off : Nat
  len : Nat
  deriving DecidableEq, Repr

/-- Does the bounds watch catch byte `o` of a slot (R263)? -/
def State.watched (s : State) (w : Who) (a o : Nat) : Bool :=
  w.watch && match s.slotBasin a with | some q => decide (s.slotSize q (slotNum a) ≤ o) | none => false

/-- A byte of host memory, with the device's own writes that wait to be posted: a read never passes them (R324). -/
def State.hostByte (s : State) (h : Nat) : Byte :=
  s.hostWait.foldl (fun b p => match p with
    | .write a bs => if a ≤ h then bs.getD (h - a) b else b
    | .vector _ => b) (Mem.get s.host h)

/-- The byte a unit reads at a place (R245, R321, R323, R335). -/
def State.byteAt (s : State) (w : Who) (l : Loc) : Byte :=
  match l with
  | .unmapped => 0
  | .pool q x => if w.basin = some q then Mem.get s.dev (poolBase q + x) else 0
  | .dram a _ => Mem.get s.dev a
  | .host h => s.hostByte h
  | .peer m a => if a < 0x10000000000 then Config.peerByte m a s.draws else 0
  | .away _ a => Mem.get s.dev a
  | .lost _ _ => 0

/-- The place of byte `o` past an address field (R257, R273). -/
def State.place (s : State) (a o : Nat) : Loc :=
  if isSlotRef a then
    match s.slotBasin a with
    | some q => .pool q (s.slotAddr q (slotNum a) (slotOff a + o))
    | none => .unmapped
  else s.loc ((a + o) % 2 ^ 56)

/-- The bytes a unit reads over a span. -/
def State.peek (s : State) (w : Who) (a o n : Nat) : List Byte :=
  (List.range n).map fun i =>
    if isSlotRef a && s.watched w a (slotOff a + o + i) then 0 else s.byteAt w (s.place a (o + i))

/-! ### Errors of pools and DRAM -/

/-- A power of two: exactly one bit in error. -/
def oneBit (m : Nat) : Bool := m ≠ 0 && m = 2 ^ Nat.log2 m

/-- Adds an entry to the repair map, with the powered days (R450, R477); a full map takes none. -/
def State.mapAdd (s : State) (kind unit loc : Nat) : State :=
  if s.life.map.length < 4096 then
    { s with life := { s.life with map := s.life.map ++ [⟨kind, unit, loc, min (s.life.poweredS / 86400) 65535⟩] } }
  else s.raise 0x505 devHandle (payload [(24, 1, 2), (25, 1, 0)])

/-- Wide rows of a bank already retired (R449). -/
def State.rowsRetired (s : State) (u x : Nat) : Nat :=
  (s.life.map.filter fun e => e.kind = 3 && e.unit = u && e.loc / 2 ^ 9 = rowPlace x / 2 ^ 9).length

/-- A corrected pool read: counted, and the row retired when its corrected reads within one hour of powered time reach the threshold
(R265, R449). -/
def State.poolCorrected (s : State) (q x : Nat) : State :=
  let u := s.physB q
  let s := s.bump (rk .BS_ECC_CORRECTED u)
  let key := 2 * (u * 2 ^ 16 + rowPlace x) + 1
  let ns := (Tab.getD s.rowCorr key []).filter (fun t => decide (s.ms < t + 3600000)) ++ [s.ms]
  let th := s.fld (rk .SP_CFG) 16 8
  let used := s.rowsRetired u x
  if th ≠ 0 ∧ ns.length ≥ th ∧ used < 4 then
    let s := { s with rowCorr := Tab.del s.rowCorr key, life := { s.life with poolRows := satAdd 32 s.life.poolRows 1 } }
    let s := s.mapAdd 3 u (rowPlace x)
    let s := s.bump (rk .SP_POOL_ROWS_RETIRED)
    s.raise 0x405 (hereHandle (0x200 + q))
      (payload [(24, 1, (poolOf x).1), (25, 1, (bankOf x).1), (26, 2, (bankOf x).2.1), (28, 1, 3 - used)])
  else { s with rowCorr := Tab.put s.rowCorr key ns }

/-- The error mask of the narrow word at a basin pool address; 2^256 is the mark of R264. -/
def State.wordMask (s : State) (q x : Nat) : Nat := Tab.getD s.poolErr ((poolBase q + x) / 32) 0

/-- An error that a read corrects. -/
def correctable (m : Nat) : Bool := oneBit m && decide (m < 2 ^ 256)

/-- An uncorrectable narrow word found by an owner's read (R269). -/
def State.poolUncorr (s : State) (q x req : Nat) : State :=
  (s.bump (rk .BS_ECC_UNCORR (s.physB q))).raise 0x12 (hereHandle (0x200 + q))
    (payload [(24, 1, (poolOf x).1), (25, 1, (bankOf x).1), (26, 2, (bankOf x).2.1), (28, 1, (bankOf x).2.2), (29, 1, req)])

/-- The corrected reads among words read together: a wide read counts one for its row, narrow reads, the sequencer's and the
movers' (requester 11), one for each word (R243, R252, R265). -/
def correctedReads (req : Nat) (fix : List Nat) : List Nat := if req = 11 then fix else fix.take 1

/-- An owner's read of `n` bytes of one wide row with its ECC outcome: the words in single-bit error are corrected and counted
(R265), and the first word that cannot be ends the operation (R269). -/
def State.poolRowRead (s : State) (q x n req : Nat) : State × Option Err :=
  let ws := (pieces 32 x n).map Prod.fst
  let fix := ws.filter fun y => correctable (s.wordMask q y)
  let t := { s with poolErr := fix.foldl (fun t y => Tab.del t ((poolBase q + y) / 32)) s.poolErr }
  let t := (correctedReads req fix).foldl (fun t y => t.poolCorrected q y) t
  match ws.find? fun y => s.wordMask q y ≠ 0 && !correctable (s.wordMask q y) with
  | none => (t, none)
  | some y => (t.poolUncorr q y req, some (0x43, 0x200 + q))

/-- Bits of a stack's dies out of use: data dies in [3:0], the fifth in [4] (R316). -/
def State.diesOut (s : State) (st : Nat) : Nat := s.fld (rk .DM_STATUS st) 3 5

/-- Can a codeword with these symbol errors be corrected: e + 2t ≤ 16 (R312)? -/
def State.codewordOk (s : State) (st : Nat) (es : List (Nat × Nat)) : Bool :=
  let out := s.diesOut st
  let e := ((List.range 5).filter (bitOf out ·)).length * 16
  let t := ((es.filter fun x => !bitOf out x.1).map Prod.snd).sum
  decide (e + 2 * t ≤ 16)

/-- The key of a stack's row in the counts of corrected reads: 8 KiB of the device addresses it serves (log 20). -/
def dramRow (st a : Nat) : Nat := 2 * (st * 2 ^ 27 + a / 8192)

/-- The dies on which a codeword shows symbol errors, noted for the patrol period (R316). -/
def State.dieShown (s : State) (st a : Nat) (es : List (Nat × Nat)) : State :=
  { s with dieSeen := ((List.range 5).filter fun d => es.any fun e => e.1 = d).foldl (fun t d =>
      Tab.put t (5 * st + d) (setIns (Tab.getD t (5 * st + d) []) (a / 64))) s.dieSeen }

/-- A corrected read of a codeword: counted, and the row repaired when it reaches the threshold (R314, R315). -/
def State.dramCorrected (s : State) (st a : Nat) : State :=
  let s := { s.bump (rk .DM_CORRECTED st) with dramErr := Tab.del s.dramErr (codeKey st a) }
  let key := dramRow st a
  let ns := Tab.getD s.rowCorr key [] ++ [s.ms]
  let th := s.fld (rk .DM_CFG st) 0 4
  let left := s.fld (rk .DM_STATUS st) 8 12
  if th ≠ 0 ∧ ns.length ≥ th ∧ left ≠ 0 then
    let s := { s with rowCorr := Tab.del s.rowCorr key, life := { s.life with dramRows := satAdd 32 s.life.dramRows 1 } }
    let s := (s.setFld (rk .DM_STATUS st) 8 12 (left - 1)).bump (rk .DM_ROWS_SPARED st)
    s.raise 0x21 devHandle (payload [(24, 1, st), (26, 2, left - 1)])
  else { s with rowCorr := Tab.put s.rowCorr key ns }

/-- The die of a codeword with the most symbol errors (DM_ERR_INFO). -/
def worstDie (es : List (Nat × Nat)) : Nat :=
  ((es.filter fun x => decide (x.1 < 5)).foldl (fun (m : Nat × Nat) x => if m.2 < x.2 then x else m) (0, 0)).1

/-- Stack offset of a local device address: the allocation space's own offset, modulo the stack's size (log 20). -/
def stackOffset (a : Nat) : Nat := a % 2 ^ 34 / 64 * 64

/-- An uncorrectable codeword read: counted, latched and reported (R317). -/
def State.dramUncorr (s : State) (st a : Nat) (es : List (Nat × Nat)) : State :=
  let s := s.bump (rk .DM_UNCORR st)
  let s := if s.bit (rk .DM_ERR_INFO st) 63 then s
    else s.setReg (rk .DM_ERR_INFO st) (BitVec.ofNat 64 (stackOffset a + 2 ^ 34 * worstDie es + 2 ^ 63))
  s.raise 0x20 devHandle (payload [(24, 1, st), (25, 1, worstDie es), (32, 8, stackOffset a)])

/-- A read of part of one codeword of an allocation on the stacks. -/
def State.dramRead (s : State) (st a n : Nat) : State × Option Err :=
  let s := s.bump (rk .DM_READ_BYTES st) n
  match Tab.find? s.dramErr (codeKey st a) with
  | none => (s, none)
  | some es =>
    let s := s.dieShown st a es
    if s.codewordOk st es then (s.dramCorrected st a, none) else (s.dramUncorr st a es, some (0x44, st))

/-- A state and the event that its change hands back, raised. -/
def State.raising (r : State × Option Ev) : State :=
  match r.2 with
  | some e => r.1.raise e.1 e.2.1 e.2.2
  | none => r.1

/-- An unmapped piece (R323). -/
def State.unmapped (s : State) (a : Nat) : State := State.raising (s.unmappedLatch a)

/-! ### Reads -/

/-- Bytes of a spilled allocation that a descriptor reads, counted (R335). -/
def State.spillRead (s : State) (w : Who) (n : Nat) : State := if w.op = 0 then s else s.bump (rk .PL_SPILL_READ_BYTES) n

/-- The effects of reading one piece: within a wide row of the pools, elsewhere within 64 bytes of a device address. -/
def State.readPiece (s : State) (w : Who) (a n req : Nat) : State × Option Err :=
  match s.loc (a % 2 ^ 56) with
  | .unmapped => (s.unmapped a, none)
  | .pool q x =>
    if w.basin = some q then s.poolRowRead q x n req else (s, none)
  | .dram l st => (s.used (a % 2 ^ 47)).dramRead st l n
  | .host _ =>
    if s.bit (rk .HI_LINK) 10 then ((s.used (a % 2 ^ 47)).spillRead w n, none) else (s, some (0x45, 0))
  | .peer m l =>
    if s.reachable m then ({ s with draws := s.draws + 1 }.sendLink (.read m l n) w.op, none) else (s, some (0x45, 0))
  | .away m l =>
    if s.reachable m then (((s.used (a % 2 ^ 47)).spillRead w n).sendLink (.read m l n) w.op, none) else (s, some (0x45, 0))
  | .lost l st => (s.dramUncorr st l [], some (0x44, st))

/-- A bounds-watch hit: counted, with an event for the first since the counter was last read (R263). -/
def State.boundsHit (s : State) (q n o : Nat) : State :=
  let k := rk .BS_BOUNDS_HITS (s.physB q)
  let first := (s.reg k).toNat = 0
  let s := s.bump k
  if first then s.raise 0x11 (hereHandle (0x200 + q)) (payload [(24, 1, n), (28, 4, o)]) else s

/-- Do `n` bytes from a device address lie on one other member, by the peer form or in one allocation spilled there? -/
def State.oneFar (s : State) (a n : Nat) : Bool :=
  n ≠ 0 && match s.loc (a % 2 ^ 56), s.loc ((a + n - 1) % 2 ^ 56) with
    | .peer m l, .peer m' l' => m = m' && l' = l + n - 1
    | .away _ l, .away _ l' => l' = l + n - 1 && s.allocAt l = s.allocAt l'
    | _, _ => false

/-- The pieces of an access at a device address: whole where all of it crosses Rill (R402), else at multiples of 256 in the pools
and of 64 elsewhere (R247, R323). -/
def State.devPieces (s : State) (a n : Nat) : List (Nat × Nat) :=
  if s.oneFar a n then [(a, n)] else (pieces 256 a n).flatMap fun p => match s.loc (p.1 % 2 ^ 56) with
    | .pool _ _ => [p]
    | _ => pieces 64 p.1 p.2

/-- The offsets of the reads in one wide row of a slot: a wide read is one, narrow reads are one for each 32-byte word (R243, R252). -/
def readOffsets (req o len : Nat) : List Nat := if req = 11 then (pieces 32 o len).map Prod.fst else [o]

/-- The effects of reading one piece of a slot, which lies in one wide row: beyond the slot's size under the bounds watch each
read is a hit and gives zeros (R257, R263). -/
def State.slotPiece (s : State) (w : Who) (q n o len req : Nat) : State × Option Err :=
  let out : Bool := w.watch && decide (s.slotSize q n ≤ o)
  if out then ((readOffsets req o len).foldl (fun s o => s.boundsHit q n o) s, none)
  else if w.basin = some q then s.poolRowRead q (s.slotAddr q n o) len req
  else (s, none)

/-- The effects of reading a span: unmapped pieces, ECC and codeword errors, watch hits and byte counts. The first error
ends it. -/
def State.readSpan (s : State) (w : Who) (p : Span) (req : Nat := 11) : State × Option Err :=
  if isSlotRef p.ref then
    match s.slotBasin p.ref with
    | none => (s, none)
    | some q =>
      (pieces 256 (slotOff p.ref + p.off) p.len).foldl
        (fun r c => match r.2 with | some _ => r | none => r.1.slotPiece w q (slotNum p.ref) c.1 c.2 req) (s, none)
  else
    (s.devPieces (p.ref + p.off) p.len).foldl
      (fun r c => match r.2 with | some _ => r | none => r.1.readPiece w c.1 c.2 req) (s, none)

/-- The effects of reading every piece of a device address's span, whatever the others meet, and the errors met (R379). -/
def State.readEach (s : State) (w : Who) (a n : Nat) : State × List Err :=
  (s.devPieces a n).foldl (fun r c => let x := r.1.readPiece w c.1 c.2 11; (x.1, r.2 ++ x.2.toList)) (s, [])

/-- The effects of reading several spans in order, up to the first error. -/
def State.readSpans (s : State) (w : Who) (ps : List Span) (req : Nat := 11) : State × Option Err :=
  ps.foldl (fun r p => match r.2 with | some _ => r | none => r.1.readSpan w p req) (s, none)

/-! ### Writes -/

/-- One narrow word's check bits after a write that covers it whole or in part (R264). -/
def State.wordWritten (s : State) (q x n : Nat) : State :=
  let key := (poolBase q + x) / 32
  if n = 32 then s.wholeWord q x
  else
    match Tab.find? s.poolErr key with
    | none => s
    | some m =>
      if correctable m then ({ s with poolErr := Tab.del s.poolErr key }).poolCorrected q x
      else
        -- the bits of the bytes written are in error no more; the word stays marked
        let lo := 8 * (x % 32)
        { s with poolErr := Tab.put s.poolErr key ((m - bitsOf m lo (8 * n) * 2 ^ lo) ||| 2 ^ 256) }

/-- Bytes stored in a pool, without a check. -/
def State.poolStore (s : State) (q x : Nat) (bs : List Byte) : State :=
  let s := { s with dev := Mem.write s.dev (poolBase q + x) bs }
  (pieces 32 x bs.length).foldl (fun s p => s.wordWritten q p.1 p.2) s

/-- A dropped pool write request (R249). -/
def State.poolDrop (s : State) (q x cls writer : Nat) : State := State.raising (s.dropLatch q x cls writer)

/-- A pool write request at a basin's arbiter: it lands where a window admits it, else it is dropped whole
(R248 to R250). -/
def State.poolRequest (s : State) (q x cls writer : Nat) (bs : List Byte) : State :=
  let u := s.physB q
  if (List.range 16).any fun k => s.admits u k x bs.length cls then s.poolStore q x bs else s.poolDrop q x cls writer

/-- A write into a basin's pools: an owner's goes straight in, a remote one is split into requests (R245 to R247). -/
def State.poolWrite (s : State) (w : Who) (q x : Nat) (bs : List Byte) : State :=
  if w.basin = some q then s.poolStore q x bs
  else
    let cls := match w.basin with
      | some b => if b / 4 = q / 4 then 0 else 1
      | none => w.cls
    (pieces 256 x bs.length).foldl (fun s p => s.poolRequest q p.1 cls w.unit ((bs.drop (p.1 - x)).take p.2)) s

/-- Bytes stored in part of one codeword (R313). -/
def State.dramStore (s : State) (st a : Nat) (bs : List Byte) : State :=
  let s := s.stackStore st a bs
  match Tab.find? s.dramErr (codeKey st a) with
  | none => s
  | some es =>
    if bs.length = 64 then { s with dramErr := Tab.del s.dramErr (codeKey st a) }
    else
      let s := s.dieShown st a es
      if s.codewordOk st es then s.dramCorrected st a
      -- the mark that stays until the codeword is written whole, as more errors than any codeword corrects
      else { s with dramErr := Tab.put s.dramErr (codeKey st a) ((es.filter fun x => decide (x.1 < 5)) ++ [(5, 17)]) }

/-- A write of one piece. -/
def State.writePiece (s : State) (w : Who) (a : Nat) (bs : List Byte) : State :=
  match s.loc (a % 2 ^ 56) with
  | .unmapped => s.unmapped a
  | .pool q x => s.poolWrite w q x bs
  | .dram l st => (s.used (a % 2 ^ 47)).dramStore st l bs
  | .host h => (s.used (a % 2 ^ 47)).send (.write h bs)
  | .peer m l => s.sendLink (.write m l bs) w.op
  | .away m l => if s.reachable m then (s.used (a % 2 ^ 47)).spillStore m l bs w.op else s
  | .lost _ _ => s

/-- A write at an address: pool requests are formed at 256-byte boundaries, other pieces at 64 (R247, R323). -/
def State.writeDev (s : State) (w : Who) (a : Nat) (bs : List Byte) : State :=
  (s.devPieces a bs.length).foldl (fun s p => s.writePiece w p.1 ((bs.drop (p.1 - a)).take p.2)) s

/-- A write of one piece of a slot, within 256 bytes of the offset: dropped with a hit beyond the slot's size under the bounds
watch (R257, R263). -/
def State.slotWrite (s : State) (w : Who) (q n o : Nat) (bs : List Byte) : State :=
  let out : Bool := w.watch && decide (s.slotSize q n ≤ o)
  if out then s.boundsHit q n o else s.poolWrite w q (s.slotAddr q n o) bs

/-- A write past an address field of either form (R257, R263, R273, R276). -/
def State.writeAt (s : State) (w : Who) (a o : Nat) (bs : List Byte) : State :=
  if isSlotRef a then
    match s.slotBasin a with
    | none =>
      -- the slot lies on another member: carried over Rill with the slot's token message sent apart
      s.sendLink (.slotWrite (slotUnit a / 2 ^ 16) (slotUnit a % 2 ^ 16) (slotNum a) (slotOff a + o) bs) w.op
    | some q =>
      let o := slotOff a + o
      (pieces 256 o bs.length).foldl (fun s p => s.slotWrite w q (slotNum a) p.1 ((bs.drop (p.1 - o)).take p.2)) s
  else s.writeDev w (a + o) bs

/-- Several writes in order: address field, offset, bytes. -/
def State.writeAll (s : State) (w : Who) (ws : List (Nat × Nat × List Byte)) : State :=
  ws.foldl (fun s x => s.writeAt w x.1 x.2.1 x.2.2) s

/-! ### Tokens -/

/-- The number that stands for a basin of another member in a slot's key, from its handle. -/
def remoteBasin (h : Nat) : Nat := 2 ^ 24 + h

/-- Does a slot's key name a basin of another member? -/
def isRemote (q : Nat) : Bool := decide (2 ^ 24 ≤ q)

/-- A token change of a slot on another member, sent to it for an operation (R275, R405, R411). -/
def State.sendToken (s : State) (q n : Nat) (full claimed : Bool) (op : Nat) : State :=
  s.sendLink (.token ((q - 2 ^ 24) / 2 ^ 16) (q % 2 ^ 16) n full claimed) op

/-- A slot's token reads FULL (R259). -/
def State.slotFull (s : State) (q n : Nat) : Bool := s.bit (s.slotKey q n) 32

/-- A writer holds the slot (R258). -/
def State.slotClaimed (s : State) (q n : Nat) : Bool := s.bit (s.slotKey q n) 33

/-- The slot claimed by a writer. -/
def State.slotClaim (s : State) (q n : Nat) (op : Nat := 0) : State :=
  if isRemote q then s.sendToken q n false true op else s.setFld (s.slotKey q n) 33 1 1

/-- The writer done: claimed clears and full sets in one b-cycle, full only after success (R258, R260). -/
def State.slotFill (s : State) (q n : Nat) (ok : Bool) (op : Nat := 0) : State :=
  if isRemote q then s.sendToken q n ok false op
  else (s.setFld (s.slotKey q n) 33 1 0).setFld (s.slotKey q n) 32 1 (flagNat ok)

/-- The reader's use ended: full clears (R259). -/
def State.slotEmpty (s : State) (q n : Nat) : State := s.setFld (s.slotKey q n) 32 1 0

end Sys2Proof.Machine
end

