-- ==== Sys2Proof/Machine/Formats.lean ====
section
/-! DEFINITION. Number formats: format codes, stored layouts of rows, element values, conversion to lane integers, and
output encodings (R32 to R56, R144, R182). -/

namespace Sys2Proof.Machine

/-- A stored element format (R32, R49). -/
inductive Fmt where
  | int (w : Nat)
  | uint (w : Nat)
  | log4
  | code4
  | e2m1
  | e3m2
  | e2m3
  | e4m3
  | e5m2
  | mxint8
  | bfp (w : Nat)
  | fp16
  | bf16
  | stream (w : Nat)
  | fp32
  deriving DecidableEq, Repr

/-- The role an operand format takes. -/
inductive Role where
  | serial | broad
  deriving DecidableEq, Repr

/-- The format of a format code and bits field, and none where the table of R32 does not list the pair. -/
def Fmt.ofCode (role : Role) (code bits : Nat) : Option Fmt :=
  let wide := decide (1 ≤ bits ∧ bits ≤ 16)
  let conv := match role with
    | .serial => decide (2 ≤ bits ∧ bits ≤ 16)
    | .broad => decide (bits = 0)
  match code with
  | 0 => if wide then some (.int bits) else none
  | 1 => if wide then some (.uint bits) else none
  | 2 => if bits = 0 then some .log4 else none
  | 3 => if bits = 0 then some .code4 else none
  | 4 => if bits = 0 then some .e2m1 else none
  | 5 => if bits = 0 then some .e3m2 else if bits = 1 then some .e2m3 else none
  | 6 => if conv then some .e4m3 else none
  | 7 => if conv then some .e5m2 else none
  | 8 => if bits = 0 then some .mxint8 else none
  | 9 => if wide then some (.bfp bits) else none
  | 10 => if conv then some .fp16 else none
  | 11 => if conv then some .bf16 else none
  | 12 => if 4 ≤ bits ∧ bits ≤ 10 then some (.stream bits) else none
  | _ => none

/-- The output format of `op.out_fmt` (R49); none is a reserved value. -/
def Fmt.ofOut (x : Nat) : Option Fmt :=
  let w := x % 16 + 1
  if x < 0x10 then some (.int w)
  else if x < 0x20 then some (.uint w)
  else if x = 0x20 then some .log4
  else if x = 0x40 then some .e2m1
  else if x = 0x50 then some .e3m2
  else if x = 0x51 then some .e2m3
  else if x = 0x60 then some .e4m3
  else if x = 0x70 then some .e5m2
  else if x = 0x80 then some .mxint8
  else if 0x90 ≤ x ∧ x < 0xA0 then some (.bfp w)
  else if x = 0xA0 then some .fp16
  else if x = 0xB0 then some .bf16
  else if x = 0xC0 then some (.stream 0)
  else if x = 0xD0 then some .fp32
  else none

namespace Fmt

/-- The format code (R32, R146). -/
def code : Fmt → Nat
  | .int _ => 0
  | .uint _ => 1
  | .log4 => 2
  | .code4 => 3
  | .e2m1 => 4
  | .e3m2 => 5
  | .e2m3 => 5
  | .e4m3 => 6
  | .e5m2 => 7
  | .mxint8 => 8
  | .bfp _ => 9
  | .fp16 => 10
  | .bf16 => 11
  | .stream _ => 12
  | .fp32 => 13

/-- The bits-field value of the stored element (R146, byte 26). -/
def storedBits : Fmt → Nat
  | .int w => w
  | .uint w => w
  | .bfp w => w
  | .e2m3 => 1
  | .stream w => w
  | _ => 0

/-- Stored element width (R34, R144). -/
def width : Fmt → Nat
  | .int w => w
  | .uint w => w
  | .log4 => 4
  | .code4 => 4
  | .e2m1 => 4
  | .e3m2 => 6
  | .e2m3 => 6
  | .e4m3 => 8
  | .e5m2 => 8
  | .mxint8 => 8
  | .bfp w => w
  | .fp16 => 16
  | .bf16 => 16
  | .stream w => w
  | .fp32 => 32

/-- Is the format one of the MX formats, with a scale byte for each block of 32 (R39)? -/
def isMx : Fmt → Bool
  | .e2m1 | .e3m2 | .e2m3 | .e4m3 | .e5m2 | .mxint8 => true
  | _ => false

/-- Is the format BFP-ORAN? -/
def isBfp : Fmt → Bool
  | .bfp _ => true
  | _ => false

/-- The binary format of the elements, where they are floating-point. -/
def bin : Fmt → Option BinFmt
  | .e2m1 => some binE2M1
  | .e3m2 => some binE3M2
  | .e2m3 => some binE2M3
  | .e4m3 => some binE4M3
  | .e5m2 => some binE5M2
  | .fp16 => some binFp16
  | .bf16 => some binBf16
  | .fp32 => some binFp32
  | _ => none

/-- Block length along the row where the format has a block exponent or is aligned in blocks; 0 otherwise
(R39, R41, R44, R83). -/
def block : Fmt → Nat
  | .bfp _ => 24
  | .fp16 | .bf16 => 32
  | f => if f.isMx then 32 else 0

/-- May the format be stored tiled (R144)? -/
def tileable : Fmt → Bool
  | .bfp _ => false
  | .stream _ => false
  | .fp32 => false
  | _ => true

/-- Bytes of one MX record (R39) or BFP-ORAN record (R44). -/
def recordBytes : Fmt → Nat
  | .bfp w => ceilDiv (1 + 3 * w) 4 * 4
  | f => 4 + 16 * f.width

/-- Bytes of a row of `n` elements before padding to 64 (R34, R39, R44). -/
def rowBytes (f : Fmt) (n : Nat) : Nat :=
  if f.isMx then ceilDiv n 128 * f.recordBytes
  else if f.isBfp then ceilDiv n 24 * f.recordBytes
  else ceilDiv (n * f.width) 8

/-- Distance from one row to the next: rows start on 64-byte boundaries. -/
def pitch (f : Fmt) (n : Nat) : Nat := roundUp (f.rowBytes n) 64

/-- RAW row bytes of a storage tile, for 128 elements (R144). -/
def rawRow (f : Fmt) : Nat := f.rowBytes 128

end Fmt

/-! ### Reading stored rows -/

/-- An element as read: its code, none where a RUN or CSR tile holds none (value 0, R149), and the byte of its block's
scale or exponent. -/
abbrev Elt := Option Nat × Nat

/-- Field of `w` bits at bit `i` of bytes (R4). -/
def bitField (bs : List Byte) (i w : Nat) : Nat := bitsOf (leNat ((bs.drop (i / 8)).take 5)) (i % 8) w

/-- Bit position of element `k` in a row, and the byte of its scale or exponent if the format has one. -/
def Fmt.place (f : Fmt) (k : Nat) : Nat × Option Nat :=
  if f.isMx then
    let r := k / 128 * f.recordBytes
    (8 * (r + 4) + k % 128 * f.width, some (r + k % 128 / 32))
  else if f.isBfp then
    let r := k / 24 * f.recordBytes
    (8 * (r + 1) + k % 24 * f.width, some r)
  else (k * f.width, none)

/-- Element `k` of a stored row. -/
def Fmt.eltAt (f : Fmt) (row : List Byte) (k : Nat) : Elt :=
  let p := f.place k
  (some (bitField row p.1 f.width),
    match p.2 with
    | some b => if f.isBfp then fieldAt row b 1 % 16 else fieldAt row b 1
    | none => 0)

/-- The `n` elements of a stored row. -/
def Fmt.rowElts (f : Fmt) (row : List Byte) (n : Nat) : List Elt := (List.range n).map (f.eltAt row)

/-! ### Values -/

/-- Two's complement of `w` bits. -/
def signed (c w : Nat) : Int := if c < 2 ^ (w - 1) then c else (c : Int) - 2 ^ w

/-- Magnitude of a LOG4 code in units of 2^-7 (R36). -/
def log4Mag (c : Nat) : Nat := if c = 0 then 0 else (if (c - 1) % 2 = 0 then 128 else 181) * 2 ^ ((c - 1) / 2)

/-- The signed LOG4 product in units of 2^-7 (R37). -/
def log4Mul (a b : Nat) : Int :=
  let ca := a % 8
  let cb := b % 8
  if ca = 0 ∨ cb = 0 then 0
  else
    let n := (ca - 1) + (cb - 1)
    let m : Int := ((if n % 2 = 0 then 128 else 181) * 2 ^ (n / 2) : Nat)
    if a / 8 % 2 ≠ b / 8 % 2 then -m else m

/-- Is the element non-finite (R47, R48)? -/
def Fmt.nonfinite (f : Fmt) (e : Elt) : Bool :=
  match e.1 with
  | none => f.isMx && e.2 = 0xFF
  | some c =>
    (f.isMx && e.2 = 0xFF) ||
    match f with
    | .e4m3 => c % 128 = 0x7F
    | .e5m2 => decide (c % 128 ≥ 0x7C)
    | .fp16 => decide (c % 2 ^ 15 ≥ 0x7C00)
    | .bf16 => decide (c % 2 ^ 15 ≥ 0x7F80)
    | .fp32 => decide (c % 2 ^ 31 ≥ 0x7F800000)
    | _ => false

/-- Does the code encode zero (R48)? CODE4 codes are judged by their entry, not here. -/
def Fmt.zeroCode (f : Fmt) (c : Nat) : Bool :=
  match f with
  | .int w => w ≠ 1 && c = 0
  | .log4 => c % 8 = 0
  | .e2m1 | .e3m2 | .e2m3 | .e4m3 | .e5m2 | .fp16 | .bf16 | .fp32 => c % 2 ^ (f.width - 1) = 0
  | _ => c = 0

/-- The element's value without any block scale: integers as themselves, LOG4 and floating-point elements at their
value, CODE4 by its codebook. -/
def Fmt.bare (f : Fmt) (book : List Int) (e : Elt) : Num :=
  match e.1 with
  | none => Num.zero
  | some c =>
    match f with
    | .int 1 => if c = 1 then Num.ofInt 1 else Num.ofInt (-1)
    | .int w => Num.ofInt (signed c w)
    | .uint _ | .stream _ => Num.ofInt c
    | .log4 => Num.ofInt (if c / 8 % 2 = 1 then -(log4Mag (c % 8) : Int) else log4Mag (c % 8)) (-7)
    | .code4 => Num.ofInt (book.getD c 0)
    | .mxint8 => Num.ofInt (signed c 8) (-6)
    | .bfp w => Num.ofInt (signed c w)
    | _ =>
      match f.bin with
      | some b =>
        let h := 2 ^ (f.width - 1)
        let p := b.mag (c % h)
        .fin (decide (c ≥ h)) p.1 p.2
      | none => Num.zero

/-- The exponent a block's stored byte stands for. -/
def Fmt.blockExp (f : Fmt) (x : Nat) : Int := if f.isMx then (x : Int) - 127 else if f.isBfp then x else 0

/-- The element's exact value with its block scale: NaN for a NaN or under scale 0xFF, an infinity for an infinity
(R284). -/
def Fmt.value (f : Fmt) (book : List Int) (e : Elt) : Num :=
  if f.isMx && e.2 = 0xFF then .nan
  else if f.nonfinite e then
    match e.1 with
    | none => .nan
    | some c =>
      let h := 2 ^ (f.width - 1)
      let isInf : Bool := match f with
        | .e5m2 => decide (c % h = 0x7C)
        | .fp16 => decide (c % h = 0x7C00)
        | .bf16 => decide (c % h = 0x7F80)
        | .fp32 => decide (c % h = 0x7F800000)
        | _ => false
      if isInf then .inf (decide (c ≥ h)) else .nan
  else Num.shift (f.bare book e) (f.blockExp e.2)

/-! ### Conversion to lane integers -/

/-- `align_block` of R41 over values without scale: the integers and the exponent before the block's own is added. The
loop runs at most twice more. -/
def alignBlock (xs : List Num) (W : Nat) : List Int × Option Int :=
  let nz := xs.filter fun v => !v.isZero
  match nz with
  | [] => (xs.map fun _ => 0, none)
  | v :: r =>
    let eb0 := r.foldl (fun m x => max m (Num.log2 x)) (Num.log2 v)
    let try1 (eb : Int) : List Int × Int := let q := eb - ((W : Int) - 2); (xs.map fun x => Num.round (Num.shift x (-q)), q)
    let fits (l : List Int) : Bool := l.all fun i => decide (i.natAbs ≤ 2 ^ (W - 1) - 1)
    let a := try1 eb0
    if fits a.1 then (a.1, some a.2)
    else
      let b := try1 (eb0 + 1)
      if fits b.1 then (b.1, some b.2) else let c := try1 (eb0 + 2); (c.1, some c.2)

/-- Is the format converted by alignment (R41)? -/
def Fmt.aligned : Fmt → Bool
  | .e3m2 | .e2m3 | .e4m3 | .e5m2 | .fp16 | .bf16 => true
  | _ => false

/-- A block of elements converted to lane integers of width `W` (R40 to R44, R47). -/
def Fmt.convBlock (f : Fmt) (W : Nat) (book : List Int) (es : List Elt) : List Lane :=
  let bad := es.map f.nonfinite
  let clean := es.map fun e => if f.nonfinite e then (none, e.2) else e
  let sc : Nat := match es with | [] => 0 | e :: _ => e.2
  if f.aligned then
    let a := alignBlock (clean.map (f.bare book)) W
    let e := a.2.map fun q => q + (if f.isMx then (sc : Int) - 127 else 0)
    (a.1.zip bad).map fun p => ⟨p.1, e, p.2⟩
  else
    let up : Int := match f with | .e2m1 => 1 | .mxint8 => 6 | _ => 0
    let ns := clean.map fun e => match f with
      | .log4 => ((e.1.getD 0 : Nat) : Int)
      | _ => Num.round (Num.shift (f.bare book e) up)
    let e : Option Int :=
      if f.block = 0 then some 0
      else if ns.all (· = 0) then none
      else some (f.blockExp sc - up)
    (ns.zip bad).map fun p => ⟨p.1, e, p.2⟩

/-- A list cut into runs of `b` elements. -/
def chunks {α : Type} (b : Nat) (fuel : Nat) (l : List α) : List (List α) :=
  match fuel with
  | 0 => []
  | k + 1 => match l with
    | [] => []
    | _ => l.take b :: chunks b k (l.drop b)

/-- A list cut into runs of neighbours with one key. -/
def runsOf {α : Type} (key : α → Nat) : List α → List (List α)
  | [] => []
  | x :: r =>
    match runsOf key r with
    | (y :: ys) :: t => if key x = key y then (x :: y :: ys) :: t else [x] :: (y :: ys) :: t
    | t => [x] :: t

/-- The stored elements of a row, with their K indices, as a column of lane integers, block by block (R40 to R47). -/
def Fmt.convCells (f : Fmt) (W : Nat) (book : List Int) (es : List (Nat × Elt)) : Column :=
  (runsOf (fun e => if f.block = 0 then 0 else e.1 / f.block) es).flatMap fun b =>
    (b.map Prod.fst).zip (f.convBlock W book (b.map Prod.snd))

/-- A row of elements converted to lane integers, block by block from element 0. Elements beyond the row's length are
not in the list, and count as zero. -/
def Fmt.convRow (f : Fmt) (W : Nat) (book : List Int) (es : List Elt) : List Lane :=
  let b := if f.block = 0 then max es.length 1 else f.block
  (chunks b (es.length + 1) es).flatMap (f.convBlock W book)

/-- Nonzero elements of a row that alignment turned into 0 (R43). -/
def Fmt.flushed (f : Fmt) (book : List Int) (es : List Elt) (ls : List Lane) : Nat :=
  if f.aligned then
    ((es.zip ls).filter fun p => !f.nonfinite p.1 && !(f.bare book p.1).isZero && p.2.n = 0).length
  else 0

/-- Converted width W of a role (R32). -/
def Fmt.convW (f : Fmt) (role : Role) (bits passes : Nat) : Nat :=
  match f with
  | .e2m1 => 5
  | .e3m2 | .e2m3 => 10
  | .e4m3 | .e5m2 | .fp16 | .bf16 => match role with | .serial => bits | .broad => 10 * passes
  | .code4 => 12
  | g => g.width

/-- The value `op.broad_passes` must hold (R32, R33). -/
def Fmt.passesOk (f : Fmt) (passes : Nat) : Bool :=
  match f with
  | .int w | .uint w | .bfp w => passes = (if w ≤ 10 then 1 else 2)
  | .e4m3 | .e5m2 => passes = 1 ∨ passes = 2
  | .fp16 | .bf16 => passes = 2
  | _ => passes = 1

/-- Packing factor of a broad operand (R46). -/
def Fmt.pack (f : Fmt) (passes : Nat) : Nat :=
  if passes = 2 then 1
  else
    match f with
    | .log4 => 1
    | _ =>
      let w := f.convW .broad 0 passes
      if w ≤ 1 then 4 else if w ≤ 5 then 2 else 1

/-- Serial width s of the plane capacity check (R60). -/
def Fmt.planes (f : Fmt) (bits : Nat) : Nat :=
  match f with
  | .log4 => 4
  | .e4m3 | .e5m2 | .fp16 | .bf16 => bits
  | g => g.convW .serial bits 1

/-! ### Output encodings -/

/-- What an output element is counted as (R56). -/
inductive Count where
  | plain | nonfinite | sat | flush
  deriving DecidableEq, Repr

/-- An encoded element: its code, how it is counted, and whether the value written is finite (R183). -/
structure Enc where
  code : Nat
  cnt : Count
  fin : Bool
  deriving DecidableEq, Repr

/-- Two's complement bits of an integer. -/
def bitsOfInt (x : Int) (w : Nat) : Nat := (x % (2 : Int) ^ w).toNat

/-- A clamped integer result with its count; `nz` says the value was not zero. -/
def encInt (r lo hi : Int) (w : Nat) (nz pre : Bool) : Enc :=
  let q := satI r lo hi
  ⟨bitsOfInt q w, if pre || decide (q ≠ r) then .sat else if nz && q = 0 then .flush else .plain, true⟩

/-- Nearest LOG4 code of a magnitude, ties to the smaller code (R51). -/
def log4Near (n d : Nat) : Nat :=
  (List.range 7).foldl
    (fun c i => if 2 * 128 * n > (log4Mag i + log4Mag (i + 1)) * d then i + 1 else c) 0

/-- The magnitude code of a floating-point element and whether it was clamped. -/
def BinFmt.clampCode (b : BinFmt) (n d : Nat) : Nat × Bool :=
  let c := b.near n d
  (min c b.maxCode, decide (b.maxCode < c))

/-- An element of a format without blocks (R50, R51, R54, R55); `pre` is the saturation of step 3 (R106). -/
def Fmt.encElem (f : Fmt) (y : Num) (pre : Bool) : Enc :=
  match f with
  | .int 1 =>
    match y with
    | .nan => ⟨0, .nonfinite, true⟩
    | .inf s => ⟨if s then 0 else 1, .nonfinite, true⟩
    | v => ⟨if Num.lt v Num.zero then 0 else 1, if pre then .sat else .plain, true⟩
  | .int w =>
    match y with
    | .nan => ⟨0, .nonfinite, true⟩
    | .inf s => ⟨if s then 2 ^ (w - 1) else 2 ^ (w - 1) - 1, .nonfinite, true⟩
    | v => encInt v.round (-(2 ^ (w - 1) : Nat)) ((2 ^ (w - 1) : Nat) - 1) w (!v.isZero) pre
  | .uint w | .stream w =>
    match y with
    | .nan => ⟨0, .nonfinite, true⟩
    | .inf s => ⟨if s then 0 else 2 ^ w - 1, .nonfinite, true⟩
    | v => encInt v.round 0 ((2 ^ w : Nat) - 1) w (!v.isZero) pre
  | .log4 =>
    match y with
    | .nan => ⟨0, .nonfinite, true⟩
    | .inf s => ⟨if s then 15 else 7, .nonfinite, true⟩
    | .fin s n d =>
      let c := log4Near n d
      let big := decide (n > 8 * d)
      ⟨if c = 0 then 0 else (if s then 8 + c else c),
        if pre || big then .sat else if n ≠ 0 ∧ c = 0 then .flush else .plain, true⟩
  | g =>
    match g.bin with
    | none => ⟨0, .plain, true⟩
    | some b =>
      let sg (s : Bool) := signBit s g.width
      let infCode := 2 ^ (g.width - 1) - 2 ^ b.mant
      match y with
      | .nan => ⟨infCode + 2 ^ (b.mant - 1), .nonfinite, false⟩
      | .inf s => ⟨sg s + infCode, .nonfinite, false⟩
      | .fin s n d =>
        let c := b.clampCode n d
        ⟨sg s + c.1, if pre || c.2 then .sat else if n ≠ 0 ∧ c.1 = 0 then .flush else .plain, true⟩

/-- Largest exponent emax of R52 and R210. -/
def Fmt.emax : Fmt → Int
  | .e2m1 => 2
  | .e3m2 => 4
  | .e2m3 => 2
  | .e4m3 => 8
  | .e5m2 => 15
  | _ => 0

/-- Greatest magnitude among finite values, none if all are zero or there is none. -/
def amaxOf (ys : List Num) : Option Num :=
  ys.foldl (fun m y =>
    if y.isFin && !y.isZero then
      match m with
      | some v => if Num.lt v y.abs then some y.abs else some v
      | none => some y.abs
    else m) none

/-- The scale byte of an MX output block (R52): from Weir where it supplies one (R211), else from amax. -/
def Fmt.mxScale (f : Fmt) (weir : Option Nat) (ys : List Num) : Nat :=
  match weir with
  | some x => x
  | none =>
    match amaxOf ys with
    | none => 0x7F
    | some a => (satI (a.log2 - f.emax + 127) 0 254).toNat

/-- An MX output block: its scale byte and its elements (R52, R55, R56). Every value above the largest finite element is
clamped, one that rounds to it included. Under a Weir scale byte of 0xFF Drizzle judges an element by its own encoding (log 30). -/
def Fmt.encMx (f : Fmt) (weir : Option Nat) (ys : List (Num × Bool)) : Nat × List Enc :=
  let hasNan := ys.any fun y => y.1.isNan
  let noNan := match f with | .e4m3 | .e5m2 => false | _ => true
  if hasNan && noNan then
    (0xFF, ys.map fun y => ⟨0, if y.1.isNan then .nonfinite else .plain, true⟩)
  else
    let x := f.mxScale weir (ys.map Prod.fst)
    let enc (y : Num × Bool) : Enc :=
      match f with
      | .mxint8 =>
        match y.1 with
        | .nan => ⟨0, .nonfinite, true⟩
        | .inf s => ⟨if s then 128 else 127, .nonfinite, true⟩
        | v =>
          let z := Num.shift v (133 - (x : Int))
          encInt (Num.round z) (-128) 127 8 (!v.isZero)
            (y.2 || Num.lt (Num.ofInt 127) z || Num.lt z (Num.ofInt (-128)))
      | g =>
        match g.bin with
        | none => ⟨0, .plain, true⟩
        | some b =>
          let sg (s : Bool) := signBit s g.width
          match y.1 with
          | .nan => ⟨0x7F, .nonfinite, false⟩
          | .inf s => match g with
            | .e5m2 => ⟨sg s + 0x7C, .nonfinite, false⟩
            | _ => ⟨sg s + b.maxCode, .nonfinite, true⟩
          | .fin s n d =>
            let p := scale2 n d (127 - (x : Int))
            let c := b.clampCode p.1 p.2
            let mx := b.mag b.maxCode
            ⟨sg s + c.1, if y.2 || decide (mx.1 * p.2 < p.1 * mx.2) then .sat else if n ≠ 0 ∧ c.1 = 0 then .flush else .plain, true⟩
    (x, ys.map fun y => if x = 0xFF ∧ !y.1.isNan then { enc y with cnt := .plain } else enc y)

/-- A BFP-ORAN output block: its exponent and its elements (R53, R55). -/
def encBfp (w : Nat) (ys : List (Num × Bool)) : Nat × List Enc :=
  let lo : Int := -(2 ^ (w - 1) : Nat)
  let hi : Int := (2 ^ (w - 1) : Nat) - 1
  let fits (e : Nat) : Bool := ys.all fun y =>
    match y.1 with
    | .fin _ _ _ => let r := Num.round (Num.shift y.1 (-(e : Int))); decide (lo ≤ r ∧ r ≤ hi)
    | _ => true
  let e := ((List.range 15).find? fits).getD 15
  (e, ys.map fun y =>
    match y.1 with
    | .nan => ⟨0, .nonfinite, true⟩
    | .inf s => ⟨bitsOfInt (if s then lo else hi) w, .nonfinite, true⟩
    | v => encInt (Num.round (Num.shift v (-(e : Int)))) lo hi w (!v.isZero) y.2)

/-- Code magnitude that Drizzle compares (R182). -/
def Fmt.codeMag (f : Fmt) (c : Nat) : Nat :=
  match f with
  | .int w | .bfp w => (signed c w).natAbs
  | .mxint8 => (signed c 8).natAbs
  | .uint _ | .stream _ => c
  | .log4 => c % 8
  | g => c % 2 ^ (g.width - 1)

/-- Bytes of `n`-bit fields packed from bit 0 (R34). -/
def packBits (w : Nat) (cs : List Nat) : List Byte :=
  leBytes (ceilDiv (cs.length * w) 8) (cs.reverse.foldl (fun a c => a * 2 ^ w + c % 2 ^ w) 0)

/-- `ulp` of a written code in its format, without the block scale, as a value (R217). -/
def Fmt.ulp (f : Fmt) (c : Nat) : Num :=
  match f with
  | .mxint8 => Num.ofInt 1 (-6)
  | .log4 =>
    let m := c % 8
    Num.ofInt (if m = 7 then log4Mag 7 - log4Mag 6 else log4Mag (m + 1) - log4Mag m : Int) (-7)
  | .fp16 | .bf16 | .fp32 | .e2m1 | .e3m2 | .e2m3 | .e4m3 | .e5m2 =>
    match f.bin with
    | some b =>
      let m := c % 2 ^ (f.width - 1)
      let lo := b.mag (if m ≥ b.maxCode then b.maxCode - 1 else m)
      let hi := b.mag (if m ≥ b.maxCode then b.maxCode else m + 1)
      Num.sub (.fin false hi.1 hi.2) (.fin false lo.1 lo.2)
    | none => Num.ofInt 1
  | _ => Num.ofInt 1

end Sys2Proof.Machine
end

