-- ==== Sys2Proof/Machine/Tiles.lean ====
section
/-! DEFINITION. Tiled tensors: headers, directories, bitmaps, the encodings RAW, RUN, CSR and S24, and the reading of
plain and tiled operands (R143 to R161, R170, R175, R176). -/

namespace Sys2Proof.Machine

/-- A tile header's fields that Genash uses on read (R146, R147). -/
structure Hdr where
  data : Nat
  bitmap : Nat
  dataBytes : Nat
  rowStride : Nat
  enc : Nat
  fallback : Nat
  rows : Nat
  cols : Nat
  density : Nat
  deriving DecidableEq, Repr

/-- The header that 64 bytes spell. -/
def Hdr.ofBytes (bs : List Byte) : Hdr where
  data := fieldAt bs 0 8
  bitmap := fieldAt bs 8 8
  dataBytes := fieldAt bs 16 4
  rowStride := fieldAt bs 20 4
  enc := bitsOf (fieldAt bs 24 1) 0 3
  fallback := bitsOf (fieldAt bs 24 1) 3 2
  rows := bitsOf (fieldAt bs 27 1) 0 5 + 1
  cols := bitsOf (fieldAt bs 28 1) 0 7 + 1
  density := fieldAt bs 30 2

/-- Reserved bits of an address that are set (R273). -/
def addrReserved (a : Nat) : Nat :=
  if isSlotRef a then bitsOf a 23 1 * 2 ^ 23 + bitsOf a 30 2 * 2 ^ 30 + bitsOf a 56 7 * 2 ^ 56 else bitsOf a 56 7 * 2 ^ 56

/-- A reserved encoding or fallback, or an address with a reserved bit set (R12, R146, R175, R273). -/
def Hdr.invalid (h : Hdr) : Bool :=
  decide (4 ≤ h.enc) || h.fallback = 3 || addrReserved h.data ≠ 0 || addrReserved h.bitmap ≠ 0

/-- The 64 bytes of a header Genash writes (R146, R147). -/
def Hdr.toBytes (h : Hdr) (f : Fmt) (i j : Nat) : List Byte :=
  leBytes 8 h.data ++ leBytes 8 h.bitmap ++ leBytes 4 h.dataBytes ++ leBytes 4 h.rowStride ++
  leBytes 1 (h.enc + 8 * h.fallback) ++ leBytes 1 f.code ++ leBytes 1 f.storedBits ++ leBytes 1 (h.rows - 1) ++
  leBytes 1 (h.cols - 1) ++ leBytes 1 0 ++ leBytes 2 h.density ++ leBytes 4 i ++ leBytes 4 j ++ leBytes 24 0

/-- A reader of bytes: offset and length. -/
abbrev Reader := Nat → Nat → List Byte

/-- Row `r` of a RUN stream: the column and code of each stored element (R150). -/
def runRow (bits : Nat) (cols w : Nat) : Nat → Nat → Nat → List (Nat × Nat)
  | 0, _, _ => []
  | fuel + 1, pos, i =>
    if cols ≤ pos then []
    else
      let r := bitsOf bits i 4
      if r = 15 then runRow bits cols w fuel (pos + 15) (i + 4)
      else
        let p := pos + r
        if p < cols then (p, bitsOf bits (i + 4) w) :: runRow bits cols w fuel (p + 1) (i + 4 + w)
        else []

/-- The scale bytes of row `r` of an encoded MX tile, from its scale area (R149); none for other formats. -/
def tileScale (f : Fmt) (rd : Reader) (area r k : Nat) : Nat :=
  if f.isMx then fieldAt (rd (area + 4 * r + k / 32) 1) 0 1 else 0

/-- The stored elements of row `r` of an encoded tile, in stored order, with their columns (R150, R152, R153). -/
def storedRow (f : Fmt) (h : Hdr) (rd : Reader) (r : Nat) : List (Nat × Nat) :=
  let w := f.width
  let sc := if f.isMx then 4 else 0
  if h.enc = 1 then
    let off := fieldAt (rd (2 * r) 2) 0 2
    let len := ceilDiv (h.cols * (4 + w)) 8 + 8
    runRow (leNat (rd off len)) h.cols w (h.cols + 10) 0 0
  else if h.enc = 2 then
    let a := fieldAt (rd (2 * r) 2) 0 2
    let b := fieldAt (rd (2 * r + 2) 2) 0 2
    let nnz := fieldAt (rd (2 * h.rows) 2) 0 2
    let idx := 4 * ceilDiv (h.rows + 1) 2 + h.rows * sc
    (List.range (b - a)).map fun x =>
      let i := a + x
      let bit := i * w
      (fieldAt (rd (idx + i) 1) 0 1 % 128, bitField (rd (idx + nnz + bit / 8) 5) (bit % 8) w)
  else
    (List.range 64).map fun x =>
      let g := x / 2
      let nib := bitsOf (fieldAt (rd (h.rows * sc + 16 * r + g / 2) 1) 0 1) (4 * (g % 2)) 4
      let pos := if x % 2 = 0 then nib % 4 else nib / 4
      let bit := w * x
      (4 * g + pos, bitField (rd (h.rows * (sc + 16) + 8 * w * r + bit / 8) 5) (bit % 8) w)

/-- Start of the scale area of an encoded tile. -/
def scaleArea (h : Hdr) : Nat := if h.enc = 1 then 64 else if h.enc = 2 then 4 * ceilDiv (h.rows + 1) 2 else 0

/-- The elements of row `r` of a tile, `n` of them. Elements beyond the header's rows and columns, and those a RUN or
CSR row does not hold, are absent (R149, R176). -/
def tileRow (f : Fmt) (h : Hdr) (rd : Reader) (r n : Nat) : List Elt :=
  if h.rows ≤ r then List.replicate n (none, 0)
  else if h.enc = 0 then
    let row := rd (r * h.rowStride) f.rawRow
    (List.range n).map fun k => if k < h.cols then f.eltAt row k else (none, 0)
  else
    let st := storedRow f h rd r
    (List.range n).map fun k =>
      let sc := tileScale f rd (scaleArea h) r k
      if k < h.cols then (((st.find? fun e => e.1 = k).map Prod.snd), sc) else (none, sc)

/-- The elements of row `r` of a tile with their columns, `n` of them, as the dense jet takes them: an S24 row brings its two kept
elements of every four, each at its stored position (R73, R74, R176). -/
def tileCells (f : Fmt) (h : Hdr) (rd : Reader) (r n : Nat) : List (Nat × Elt) :=
  if h.enc = 3 ∧ r < h.rows then
    ((storedRow f h rd r).filter fun e => decide (e.1 < n)).map fun e =>
      (e.1, if e.1 < h.cols then some e.2 else none, tileScale f rd (scaleArea h) r e.1)
  else (List.range n).zip (tileRow f h rd r n)

/-- Row `r` as a sparse engine takes it: the stored values of a RUN or CSR row go to the 1 bits of the row's bitmap in
ascending order; elements beyond the header's rows and columns are 0 (R170, R176). -/
def engineRow (f : Fmt) (h : Hdr) (rd : Reader) (r n : Nat) (bits : List Bool) : List Elt :=
  if (h.enc = 1 ∨ h.enc = 2) ∧ r < h.rows then
    let st := (storedRow f h rd r).map Prod.snd
    (List.range n).map fun k =>
      let sc := tileScale f rd (scaleArea h) r k
      if bits.getD k false && decide (k < h.cols) then (st[((bits.take k).filter id).length]?, sc) else (none, sc)
  else tileRow f h rd r n

/-- The bitmap bits of row `r`, `n` of them; all ones where the tile has no bitmap (R145, R170). -/
def bitmapRow (h : Hdr) (rd : Reader) (r n : Nat) : List Bool :=
  if h.bitmap = 0 then List.replicate n true
  else (List.range n).map fun k => bitOf (fieldAt (rd (16 * r + k / 8) 1) 0 1) (k % 8)

/-! ### Operands -/

/-- An operand tensor: its address field, format, the directory and stride of a tiled one, its codebook, the bytes that
stand before its rows (a codebook's 64), and its rows and row length. -/
structure Operand where
  ref : Nat
  fmt : Fmt
  dir : Nat
  stride : Nat
  book : List Int
  skip : Nat
  rows : Nat
  len : Nat
  deriving DecidableEq, Repr

/-- The codebook at an address: 16 entries of 12 bits (R38). -/
def State.codebook (s : State) (w : Who) (a : Nat) : List Int :=
  let bs := s.peek w a 0 32
  (List.range 16).map fun i => signed (fieldAt bs (2 * i) 2 % 4096) 12

/-- An operand at an address, its codebook not yet read; a format that is never stored tiled is plain whatever its
directory says (R144). -/
def Operand.of (f : Fmt) (ref dir stride rows len : Nat) : Operand :=
  ⟨ref, f, if f.tileable then dir else 0, stride, [], if f = .code4 then 64 else 0, rows, len⟩

/-- An operand at an address, with its codebook where the format has one. -/
def State.operand (s : State) (w : Who) (f : Fmt) (ref dir stride rows len : Nat) : Operand :=
  { Operand.of f ref dir stride rows len with book := if f = .code4 then s.codebook w ref else [] }

/-- Headers per tile row. -/
def Operand.headers (o : Operand) : Nat := if o.stride = 0 then ceilDiv o.len 128 else o.stride

/-- The header of tile (i, j) (R143). -/
def State.hdrAt (s : State) (w : Who) (dir stride i j : Nat) : Hdr :=
  Hdr.ofBytes (s.peek w dir (64 * (i * stride + j)) 64)

/-- The header of tile (i, j) of a tiled operand. -/
def State.opHdr (s : State) (w : Who) (o : Operand) (i j : Nat) : Hdr := s.hdrAt w o.dir o.headers i j

/-- Elements of row `r`, from element 0 to the row's length, as the dense jet decodes them. -/
def State.opRow (s : State) (w : Who) (o : Operand) (r : Nat) : List Elt :=
  if o.dir = 0 then o.fmt.rowElts (s.peek w o.ref (o.skip + r * o.fmt.pitch o.len) (o.fmt.rowBytes o.len)) o.len
  else
    (List.range (ceilDiv o.len 128)).flatMap fun j =>
      let h := s.opHdr w o (r / 32) j
      tileRow o.fmt h (s.peek w h.data) (r % 32) (min 128 (o.len - 128 * j))

/-- Elements of row `r` with their K indices, as the dense jet takes them. -/
def State.opCells (s : State) (w : Who) (o : Operand) (r : Nat) : List (Nat × Elt) :=
  if o.dir = 0 then (List.range o.len).zip (s.opRow w o r)
  else
    (List.range (ceilDiv o.len 128)).flatMap fun j =>
      let h := s.opHdr w o (r / 32) j
      (tileCells o.fmt h (s.peek w h.data) (r % 32) (min 128 (o.len - 128 * j))).map fun e => (128 * j + e.1, e.2)

/-- Bitmap bits of row `r`; all ones for a plain operand. -/
def State.opBits (s : State) (w : Who) (o : Operand) (r : Nat) : List Bool :=
  if o.dir = 0 then List.replicate o.len true
  else
    (List.range (ceilDiv o.len 128)).flatMap fun j =>
      let h := s.opHdr w o (r / 32) j
      bitmapRow h (s.peek w h.bitmap) (r % 32) (min 128 (o.len - 128 * j))

/-- Elements of row `r` as a sparse engine's activation feed takes them (R170). -/
def State.opEngineRow (s : State) (w : Who) (o : Operand) (r : Nat) : List Elt :=
  if o.dir = 0 then s.opRow w o r
  else
    (List.range (ceilDiv o.len 128)).flatMap fun j =>
      let h := s.opHdr w o (r / 32) j
      let n := min 128 (o.len - 128 * j)
      engineRow o.fmt h (s.peek w h.data) (r % 32) n (bitmapRow h (s.peek w h.bitmap) (r % 32) n)

/-- The spans read for rows `r0` to `r0 + n - 1` of an operand, elements `k0` to `k0 + len - 1`: rows of a plain one;
headers, bitmaps and data of a tiled one. -/
def State.opSpans (s : State) (w : Who) (o : Operand) (r0 n k0 len : Nat) : List Span :=
  if n = 0 ∨ len = 0 then []
  else if o.dir = 0 then
    let lo := if o.fmt.isMx then k0 / 128 * o.fmt.recordBytes else if o.fmt.isBfp then k0 / 24 * o.fmt.recordBytes
      else k0 * o.fmt.width / 8
    let hi := o.fmt.rowBytes (min (k0 + len) o.len)
    (List.range n).map fun r => ⟨o.ref, o.skip + (r0 + r) * o.fmt.pitch o.len + lo, hi - lo⟩
  else
    let i0 := r0 / 32
    let i1 := (r0 + n - 1) / 32
    let j0 := k0 / 128
    let j1 := (k0 + len - 1) / 128
    (List.range (i1 - i0 + 1)).flatMap fun a => (List.range (j1 - j0 + 1)).flatMap fun b =>
      let h := s.opHdr w o (i0 + a) (j0 + b)
      [⟨o.dir, 64 * ((i0 + a) * o.headers + (j0 + b)), 64⟩] ++
      (if h.bitmap = 0 then [] else [⟨h.bitmap, 0, 512⟩]) ++
      (if h.enc = 0 then (List.range h.rows).map fun r => ⟨h.data, r * h.rowStride, o.fmt.rawRow⟩
       else [⟨h.data, 0, h.dataBytes⟩])

/-- The header places of a tiled operand that rows and a K range cover: tile row, tile column, header. -/
def State.opHdrs (s : State) (w : Who) (o : Operand) (r0 n k0 len : Nat) : List (Nat × Nat × Hdr) :=
  if o.dir = 0 ∨ n = 0 ∨ len = 0 then []
  else
    let i0 := r0 / 32
    let i1 := (r0 + n - 1) / 32
    let j0 := k0 / 128
    let j1 := (k0 + len - 1) / 128
    (List.range (i1 - i0 + 1)).flatMap fun a => (List.range (j1 - j0 + 1)).map fun b =>
      (i0 + a, j0 + b, s.opHdr w o (i0 + a) (j0 + b))

/-! ### Encoding tiles -/

/-- Is an element zero for a bitmap (R48)? A CODE4 index is zero where its entry is. -/
def Fmt.zeroElt (f : Fmt) (book : List Int) (e : Elt) : Bool :=
  match e.1 with
  | none => true
  | some c => match f with
    | .code4 => decide (book.getD c 0 = 0)
    | _ => f.zeroCode c

/-- A tile's bitmap bytes from the nonzero marks of its rows (R145). -/
def bitmapBytes (rows : List (List Bool)) : List Byte :=
  let bs := rows.flatMap fun r =>
    leBytes 16 (((List.range 128).map fun k => if r.getD k false then 2 ^ k else 0).sum)
  bs ++ List.replicate (512 - bs.length) 0

/-- The scale area of an encoded tile: four bytes a row, 0x7F beyond the columns (R149). -/
def scaleBytes (f : Fmt) (cols : Nat) (rows : List (List Elt)) : List Byte :=
  if f.isMx then
    rows.flatMap fun r => (List.range 4).flatMap fun b =>
      leBytes 1 (if 32 * b < cols then (r.getD (32 * b) (none, 0)).2 else 0x7F)
  else []

/-- The tokens of a RUN row after `pos` (R151), as fields (width, value), least significant first. -/
def runTokens (w cols : Nat) : List (Nat × Nat) → Nat → List (Nat × Nat)
  | [], pos =>
    let t := cols - pos
    List.replicate (t / 15) (4, 15) ++ (if t % 15 = 0 then [] else [(4, t % 15)])
  | (k, c) :: r, pos =>
    let z := k - pos
    List.replicate (z / 15) (4, 15) ++ [(4, z % 15), (w, c)] ++ runTokens w cols r (k + 1)

/-- Bits of fields laid from bit 0, as bytes. -/
def fieldsBytes (fs : List (Nat × Nat)) : List Byte :=
  let n := (fs.map Prod.fst).sum
  leBytes (ceilDiv n 8) (fs.reverse.foldl (fun a f => a * 2 ^ f.1 + f.2) 0)

/-- The two kept positions of a group of four in an S24 tile: the nonzero ones, then the lowest others, ascending
(R153). -/
def keep2 (nz : List Bool) : List Nat :=
  let a := (List.range 4).filter fun i => nz.getD i false
  let b := (List.range 4).filter fun i => !nz.getD i false
  let k := (a ++ b).take 2
  (List.range 4).filter fun i => k.contains i

/-- Position and value areas of an S24 tile from the kept columns of each group of each row. -/
def s24Bytes (f : Fmt) (cols : Nat) (rows : List (List Elt)) (kept : List (List (List Nat))) : List Byte :=
  let pos := kept.flatMap fun gs => fieldsBytes (gs.flatMap fun p => [(2, p.getD 0 0), (2, p.getD 1 1)])
  let vals := (rows.zip kept).flatMap fun x =>
    packBits f.width ((List.range 32).flatMap fun g =>
      (x.2.getD g [0, 1]).map fun p => ((x.1.getD (4 * g + p) (none, 0)).1.getD 0))
  scaleBytes f cols rows ++ pos ++ vals

/-- RAW data of a tile: each row its RAW row bytes. -/
def rawBytes (f : Fmt) (rows : List (List Elt)) : List Byte :=
  rows.flatMap fun r =>
    if f.isMx then
      ((List.range 4).flatMap fun b => leBytes 1 (if 32 * b < r.length then (r.getD (32 * b) (none, 0)).2 else 0x7F)) ++
        packBits f.width ((List.range 128).map fun k => ((r.getD k (none, 0)).1.getD 0))
    else packBits f.width ((List.range 128).map fun k => ((r.getD k (none, 0)).1.getD 0))

/-- A tile encoded by the DMA encoder in the form asked for (0 RAW, 1 RUN, 2 CSR, 3 S24): the encoding stored, its
fallback and its data (R150 to R155). A tile with a group of more than two nonzero elements has fallback 2 whatever its size in S24
(log 35). -/
def encodeTile (f : Fmt) (book : List Int) (form cols : Nat) (rows : List (List Elt)) : Nat × Nat × List Byte :=
  let w := f.width
  let nz := rows.map fun r => (List.range cols).filter fun k => !f.zeroElt book (r.getD k (none, 0))
  let D := rows.length * f.rawRow
  let raw := rawBytes f rows
  let code (r : List Elt) (k : Nat) : Nat := (r.getD k (none, 0)).1.getD 0
  if form = 1 then
    let streams := (rows.zip nz).map fun x => fieldsBytes (runTokens w cols (x.2.map fun k => (k, code x.1 k)) 0)
    let base := 64 + (scaleBytes f cols rows).length
    let offs := (List.range 32).flatMap fun r =>
      leBytes 2 (if r < rows.length then base + ((streams.take r).map List.length).sum else 0)
    let out := offs ++ scaleBytes f cols rows ++ streams.flatten
    if out.length ≤ D then (1, 0, out) else (0, 1, raw)
  else if form = 2 then
    let n := (nz.map List.length).sum
    let ptr := (List.range (2 * ceilDiv (rows.length + 1) 2)).flatMap fun r =>
      leBytes 2 (if r ≤ rows.length then ((nz.take r).map List.length).sum else 0)
    let idx := nz.flatten.flatMap fun k => leBytes 1 k
    let vals := packBits w ((rows.zip nz).flatMap fun x => x.2.map fun k => code x.1 k)
    let out := ptr ++ scaleBytes f cols rows ++ idx ++ vals
    if out.length ≤ D ∧ n ≤ 4096 then (2, 0, out) else (0, 1, raw)
  else if form = 3 then
    let mark := (rows.zip nz).map fun x => (List.range 32).map fun g => (List.range 4).map fun i => x.2.contains (4 * g + i)
    if mark.any fun gs => gs.any fun g => decide ((g.filter id).length > 2) then (0, 2, raw)
    else
      let kept := mark.map fun gs => gs.map keep2
      let out := s24Bytes f cols rows kept
      if out.length ≤ D then (3, 0, out) else (0, 1, raw)
  else (0, 0, raw)

end Sys2Proof.Machine
end

