-- ==== Sys2Proof/Machine/Accum.lean ====
section
/-! DEFINITION. Products and group sums, accumulator entries of both kinds, scale domains, and accumulation groups
(R57 to R68, R82 to R98, R118). -/

namespace Sys2Proof.Machine

/-! ### Products -/

/-- A group sum: its integer, its exponent (none where a block is all-zero, R84) and whether a product with a non-finite
element is in it (R91). -/
structure Sum where
  g : Int
  e : Option Int
  bad : Bool
  deriving DecidableEq, Repr

/-- The product of two lane elements (R37, R57). -/
def laneMul (log : Bool) (w a : Int) : Int := if log then log4Mul w.toNat a.toNat else w * a

/-- The exponent of a product: −7 for LOG4 × LOG4, else the sum of the block exponents (R84). -/
def laneExp (log : Bool) (w a : Lane) : Option Int :=
  if log then some (-7) else match w.e, a.e with
    | some x, some y => some (x + y)
    | _, _ => none

/-- One group sum over a run of pairs (R82). -/
def runSum (log : Bool) (ps : List (Lane × Lane)) : Sum where
  g := (ps.map fun p => laneMul log p.1.n p.2.n).sum
  e := match ps with
    | [] => none
    | p :: _ => laneExp log p.1 p.2
  bad := ps.any fun p => p.1.bad || p.2.bad

/-- Group sums of the runs of `tree` consecutive indices that a column and a row form, in ascending K (R82, R85). The
lists start at a multiple of `tree`. -/
def groupSums (log : Bool) (tree : Nat) (w a : List Lane) : List Sum :=
  (chunks tree (w.length + 1) (w.zip a)).map (runSum log)

/-- The pairs that elements of one K index form (R57, R73, R74). -/
def pairsOf (w a : Column) : List (Lane × Lane) :=
  if w.map Prod.fst = a.map Prod.fst then (w.map Prod.snd).zip (a.map Prod.snd)
  else w.flatMap fun x => (a.filter fun y => y.1 = x.1).map fun y => (x.2, y.2)

/-- Group sums of a column and a row on a dense jet, where an S24 operand holds its kept elements only (R73 to R75, R82). -/
def columnSums (log : Bool) (tree : Nat) (w a : Column) : List Sum :=
  ((runsOf (fun e => e.1 / tree) w).zip (runsOf (fun e => e.1 / tree) a)).map fun p => runSum log (pairsOf p.1 p.2)

/-- Group sums of a column and a row on a sparse engine: only pairs that both bitmaps match, and a run without a match adds
nothing (R170, R171). -/
def engineSums (log : Bool) (tree : Nat) (w a : Column) (wb ab : List Bool) : List Sum :=
  let ps := (w.zip (a.zip (wb.zip ab))).filter fun p => p.2.2.1 && p.2.2.2
  (runsOf (fun p => p.1.1 / tree) ps).map fun r => runSum log (r.map fun p => (p.1.2, p.2.1.2))

/-! ### Accumulator entries -/

/-- An INT32 entry after a group sum (R89, R91): the entry and whether the add clamped. -/
def addInt32 (x : Nat) (s : Sum) : Nat × Bool :=
  let x := if s.bad then x ||| 2 ^ 33 else x
  if bitOf x 33 then (x, false)
  else
    let v := signed (x % 2 ^ 32) 32 + s.g
    let q := satI v (-2147483648) 2147483647
    let clamped := decide (q ≠ v)
    (bitsOfInt q 32 + (if clamped ∨ bitOf x 32 then 2 ^ 32 else 0), clamped)

/-- An FP32C pair after a term `G · 2 ^ E` (R90). -/
def addFp32c (s c : Nat) (x : Num) : Nat × Nat :=
  let xh := fp32 x
  let xl := if finite32 xh then fp32 (Num.sub x (ofFp32 xh)) else 0
  let t := add32 s xh
  if !finite32 t then (t, 0)
  else
    let z := sub32 t s
    let e := add32 (sub32 s (sub32 t z)) (sub32 xh z)
    (t, add32 c (add32 e xl))

/-- An FP32C entry after a group sum (R90, R91). -/
def addEntry32c (x : Nat) (s : Sum) : Nat :=
  let s0 := if s.bad then nan32 else x % 2 ^ 32
  let c0 := if s.bad then 0 else x / 2 ^ 32
  let p := addFp32c s0 c0 (Num.ofInt s.g (s.e.getD 0))
  p.1 + 2 ^ 32 * p.2

/-- Two FP32C pairs merged (R92). -/
def mergeFp32c (a b : Nat × Nat) : Nat × Nat :=
  let t := add32 a.1 b.1
  if !finite32 t then (t, 0)
  else
    let z := sub32 t a.1
    let e := add32 (sub32 a.1 (sub32 t z)) (sub32 b.1 z)
    (t, add32 (add32 a.2 b.2) e)

/-- The value of an FP32C pair (R90). -/
def pairValue (s c : Nat) : Num :=
  if !finite32 s then ofFp32 s else if !finite32 c then ofFp32 c else
    match Num.add (ofFp32 s) (ofFp32 c) with
    | .fin _ 0 _ => Num.zero
    | v => v

/-- Two entries merged by the basin merge, with whether an INT32 merge clamped (R92). -/
def mergeEntry (kind : Nat) (a b : Nat) : Nat × Bool :=
  if kind = 0 then
    let v := signed (a % 2 ^ 32) 32 + signed (b % 2 ^ 32) 32
    let q := satI v (-2147483648) 2147483647
    let nf := bitOf a 33 || bitOf b 33
    let cl := !nf && decide (q ≠ v)
    (bitsOfInt q 32 + (if cl || bitOf a 32 || bitOf b 32 then 2 ^ 32 else 0) + (if nf then 2 ^ 33 else 0), cl)
  else
    let p := mergeFp32c (a % 2 ^ 32, a / 2 ^ 32) (b % 2 ^ 32, b / 2 ^ 32)
    (p.1 + 2 ^ 32 * p.2, false)

/-- The value v of an entry at step 2 of R105; `e` is the group's exponent in an INT32 domain. -/
def entryValue (kind : Nat) (e : Int) (x : Nat) : Num :=
  if kind = 0 then (if bitOf x 33 then .nan else Num.ofInt (signed (x % 2 ^ 32) 32) e)
  else pairValue (x % 2 ^ 32) (x / 2 ^ 32)

/-! ### Scale domains and groups -/

/-- The scale domain of a format pair (R87): 0 integer, 1 logarithmic, 2 block, 3 real. -/
def domainOf (kind : Nat) (serial broad : Fmt) : Nat :=
  let plain (f : Fmt) : Bool := match f with | .int _ | .uint _ | .code4 => true | _ => false
  if kind = 1 then 3
  else if plain serial && plain broad then 0
  else match serial, broad with
    | .log4, .log4 => 1
    | _, _ => 2

/-- Key of an accumulator entry: jet, row, column (R118). -/
def accKey (j r c : Nat) : Nat := j * 32768 + r * 128 + c

/-- Key of a group of a jet. -/
def grpKey (j g : Nat) : Nat := j * 8 + g

/-- An accumulator entry. -/
def State.accAt (s : State) (j r c : Nat) : Nat := (Tab.getD s.acc (accKey j r c) 0).toNat

/-- The open group `g` of jet `j`, if it is open. -/
def State.group? (s : State) (j g : Nat) : Option Group := Tab.find? s.grp (grpKey j g)

/-- Bit errors that arise in accumulator entries, one to an entry (R444). -/
def State.upsetAcc (s : State) (ks : List Nat) : State := { s with accErr := (s.accErr ++ ks).eraseDups }

/-- Accumulator entries read: one bit in error in any of them is corrected and counted (R444, R464). -/
def State.readAcc (s : State) (p : Nat → Bool) : State :=
  let n := (s.accErr.filter p).length
  if n = 0 then s else { s.bump (rk .SP_ACC_CORRECTED) n with accErr := s.accErr.filter fun k => !p k }

/-- The accumulators with entries set. -/
def accPuts (t : Tab Word) (es : List (Nat × Nat)) : Tab Word :=
  es.foldl (fun t e => Tab.put t e.1 (BitVec.ofNat 64 e.2)) t

/-- Rows of entries cleared: the opening of a group sets every entry of its range to 0 (R98). -/
def accClear (t : Tab Word) (j row0 rows : Nat) : Tab Word :=
  t.filter fun e => ¬ (accKey j row0 0 ≤ e.1 ∧ e.1 < accKey j (row0 + rows) 0)

/-- Is a key that of an entry in a range of rows of a jet? -/
def inRows (j row0 rows k : Nat) : Bool := decide (accKey j row0 0 ≤ k) && decide (k < accKey j (row0 + rows) 0)

/-- The exponent of a group's entries in an INT32 domain (R87). -/
def Group.exp (g : Group) : Int := if g.domain = 1 then -7 else if g.domain = 2 ∧ g.eSet then g.e else 0

/-- What adding sums to the entries of one jet's group gives: the accumulators, the group, INT32 adds that clamped, whether a
non-finite input was met, and whether the block domain met two exponents, which ends the adds (R88). -/
structure Added where
  acc : Tab Word
  grp : Group
  clamps : Nat
  bad : Bool
  clash : Bool
  deriving DecidableEq, Repr

/-- The group after its E is compared with a group sum's before the add, and whether the two differ (R87, R88). -/
def Group.seeExp (g : Group) (e : Option Int) : Group × Bool :=
  match e with
  | none => (g, false)
  | some x =>
    if g.domain ≠ 2 then (g, false)
    else if g.eSet then (g, decide (g.e ≠ x)) else ({ g with e := x, eSet := true }, false)

/-- One group sum added to the entry of row `r` and column `c` of jet `x`'s group (R85, R88 to R91). -/
def Added.sum (a : Added) (x r c : Nat) (s : Sum) : Added :=
  if a.clash then a
  else
    let g := a.grp.seeExp s.e
    if g.2 then { a with clash := true }
    else
      let k := accKey x (a.grp.row0 + r) c
      let v := (Tab.getD a.acc k 0).toNat
      let w := if a.grp.kind = 0 then addInt32 v s else (addEntry32c v s, false)
      { acc := Tab.put a.acc k (BitVec.ofNat 64 w.1)
        grp := { g.1 with sat := g.1.sat || w.2, nonfinite := g.1.nonfinite || s.bad }
        clamps := a.clamps + flagNat w.2
        bad := a.bad || s.bad
        clash := false }

/-- The sums of each entry (row, column, sums) added into jet `x`'s group, row by row, up to the first clash (R85, R88). -/
def State.addAll (s : State) (x : Nat) (g : Group) (es : List (Nat × Nat × List Sum)) : Added :=
  es.foldl (fun a e => e.2.2.foldl (fun a v => a.sum x e.1 e.2.1 v) a) ⟨s.acc, g, 0, false, false⟩

/-- The term count after `k` more terms, and the lapsed mark of FP32C (R93, R95). -/
def Group.terms (g : Group) (k : Nat) : Group :=
  let n := min (g.nTotal + k) (2 ^ 32 - 1)
  { g with nTotal := n, lapsed := g.lapsed || (g.kind = 1 && decide (2 ^ 22 < n)) }

/-! ### Effective widths -/

/-- Least number of two's-complement bits that hold `x` (R62). -/
def signedBits (x : Int) : Nat := if 0 ≤ x then Nat.log2 x.toNat + 1 + (if x = 0 then 0 else 1) else
  if x = -1 then 1 else Nat.log2 (-x - 1).toNat + 2

/-- e_g of a column group's integers (R62). -/
def effWidth (sgn : Bool) (xs : List Int) : Nat :=
  if xs.all (· = 0) then 0
  else (xs.map fun x => if sgn then signedBits x else (if x = 0 then 0 else Nat.log2 x.toNat + 1)).foldl max 0

/-- L_g: planes below e_g in which some integer has its bit set (R62). -/
def livePlanes (sgn : Bool) (xs : List Int) : Nat :=
  let e := effWidth sgn xs
  ((List.range e).filter fun b => xs.any fun x => bitOf (bitsOfInt x e) b).length

/-- Is the serial format signed for R62? -/
def Fmt.isSigned : Fmt → Bool
  | .uint _ => false
  | _ => true

/-- Product form code of JT_LIVE_PLANES: 0 AND-add or sign-select, 1 table-based, 2 logarithmic, 3 binary (R58). -/
def formOf (serial broad : Fmt) : Nat :=
  match serial, broad with
  | .int 1, .int 1 => 3
  | .log4, .log4 => 2
  | .code4, _ => 1
  | _, _ => 0

end Sys2Proof.Machine
end

