-- ==== Sys2Proof/Machine/DrainPath.lean ====
section
/-! DEFINITION. The drain path, steps 3 to 9 of R105: scaling, elementwise functions, row reductions, pruning, encoding,
Drizzle, and the output with its metadata and row records (R105 to R112, R156 to R158, R183 to R185, R206). -/

namespace Sys2Proof.Machine

/-- No counts. -/
def Counts.zero : Counts := ⟨0, 0, 0, 0, 0, 0, 0, 0⟩

/-- Counts less those of a part that runs again (R453); the greatest magnitude stays. -/
def Counts.minus (a b : Counts) : Counts where
  elements := a.elements - b.elements
  zeros := a.zeros - b.zeros
  satOut := a.satOut - b.satOut
  flushOut := a.flushOut - b.flushOut
  nonfinite := a.nonfinite - b.nonfinite
  flushIn := a.flushIn - b.flushIn
  accSat := a.accSat - b.accSat
  amax := a.amax

/-- Counts of two parts of one descriptor (R206, R207). -/
def Counts.plus (a b : Counts) : Counts where
  elements := a.elements + b.elements
  zeros := a.zeros + b.zeros
  satOut := a.satOut + b.satOut
  flushOut := a.flushOut + b.flushOut
  nonfinite := a.nonfinite + b.nonfinite
  flushIn := a.flushIn + b.flushIn
  accSat := a.accSat + b.accSat
  amax := max a.amax b.amax

/-! ### Drain parameter block -/

/-- A drain parameter block (R107). -/
structure Prm where
  lo : Num
  d : Int
  f : List Num
  sc : List (Num × Num)
  deriving DecidableEq, Repr

/-- The basin pool pieces of a parameter block of `n` bytes at a P-pool offset, wrapping at its end (R107). -/
def prmAddr (off i : Nat) : Nat := 0x700000 + (off + i) % 0x100000

/-- Does a descriptor read a parameter block: VECTOR scaling or the PWL function (R107)? -/
def Desc.readsPrm (d : Desc) : Bool := d.scaleMode = 2 || d.eltfn % 4 = 2

/-- Bytes of the parameter block that `N` columns use. -/
def Desc.prmLen (d : Desc) (n : Nat) : Nat := if d.scaleMode = 2 then 320 + 8 * n else 268

/-- The block of a descriptor that runs on basin `q`. -/
def State.prm (s : State) (q : Nat) (d : Desc) (n : Nat) : Prm :=
  let o := d.scaleParam * 64
  let rd (i k : Nat) : Nat := leNat ((List.range k).map fun x => Mem.get s.dev (poolBase q + prmAddr o (i + x)))
  { lo := ofFp32 (rd 0 4)
    d := signed (rd 4 1) 8
    f := (List.range 65).map fun i => ofFp32 (rd (8 + 4 * i) 4)
    sc := if d.scaleMode = 2 then (List.range n).map fun c => (ofFp32 (rd (320 + 8 * c) 4), ofFp32 (rd (324 + 8 * c) 4))
      else [] }

/-- ECC effects of reading the parameter block. -/
def State.prmRead (s : State) (q : Nat) (d : Desc) (n : Nat) : State × Option Err :=
  if d.readsPrm then
    (pieces 256 (d.scaleParam * 64) (d.prmLen n)).foldl
      (fun r p => match r.2 with | some _ => r | none => r.1.poolRowRead q (prmAddr p.1 0) p.2 11) (s, none)
  else (s, none)

/-! ### Steps 3 to 6 -/

/-- A value on its way to the encoder, whether step 3 clamped it (R106), and the Drizzle threshold of its tile. -/
abbrev Cell := Num × Bool × Nat

/-- Step 3 (R106). `exact` says that NONE and EXP do not round: an INT32 entry, or CONVERT (R284). -/
def scaleStep (d : Desc) (exact : Bool) (p : Prm) (c : Nat) (v : Num) : Num × Bool :=
  if d.scaleMode = 2 then
    let x := p.sc.getD c (Num.zero, Num.zero)
    let y := fp32Sat (Num.add (Num.mul v x.1) x.2)
    (ofFp32 y.1, y.2)
  else
    let y := if d.scaleMode = 1 then Num.shift v (signed d.scaleValue 8) else v
    if exact then (y, false) else let z := fp32Sat y; (ofFp32 z.1, z.2)

/-- The PWL function (R108). -/
def pwl (p : Prm) (y : Num) : Num :=
  let u := Num.shift (Num.sub y p.lo) (-p.d)
  let f (i : Nat) : Num := p.f.getD i Num.zero
  match u with
  | .nan => .nan
  | _ =>
    if Num.le u Num.zero then f 0
    else if Num.le (Num.ofInt 64) u then f 64
    else
      let i := u.floor.toNat
      let r := Num.sub u (Num.ofInt i)
      if r.isZero then f i
      else if (f i).isFin && (f (i + 1)).isFin then
        ofFp32 (fp32 (Num.add (f i) (Num.mul r (Num.sub (f (i + 1)) (f i)))))
      else Num.add (f i) (Num.mul r (Num.sub (f (i + 1)) (f i)))

/-- Step 4 (R108). -/
def eltStep (d : Desc) (p : Prm) (y : Num) : Num :=
  if d.eltfn % 4 = 1 then
    match y with
    | .nan => .nan
    | v => if Num.lt Num.zero v then v else Num.zero
  else if d.eltfn % 4 = 2 then pwl p y
  else y

/-- Does pruning apply (R108)? -/
def Desc.prunes (d : Desc) : Bool := decide (4 ≤ d.eltfn)

/-- Is `a` a better extreme than `b`: greater for a maximum, less for a minimum; NaN beats every number (R111)? -/
def beats (mx : Bool) (a b : Num) : Bool :=
  if b.isNan then false else if a.isNan then true else if mx then Num.lt b a else Num.lt a b

/-- The extreme of FP32 encodings with the index of its first place (R111). -/
def extreme (mx : Bool) (xs : List (Nat × Nat)) : Option (Nat × Nat) :=
  xs.foldl (fun m x =>
    match m with
    | none => some x
    | some b => if beats mx (ofFp32 x.2) (ofFp32 b.2) then some x else some b) none

/-- The row sum of R111. -/
def rowSum (xs : List Nat) : Nat :=
  let p := xs.foldl (fun (p : Nat × Nat) x =>
    match ofFp32 x with
    | .fin s n k => addFp32c p.1 p.2 (.fin s n k)
    | v => let t := fp32 (Num.add (ofFp32 p.1) v); (t, 0)) (0, 0)
  (fp32Sat (pairValue p.1 p.2)).1

/-- A row record of R110 over the columns of one output tile, `n0` the first; `empty` says the group's n is 0 (R111). -/
def rowRecord (reduce n0 : Nat) (empty : Bool) (ys : List Num) : List Byte :=
  let xs := ys.map fun y => (fp32Sat y).1
  let ix := (List.range xs.length).zip xs
  if empty then
    if reduce = 1 then leBytes 4 0xFF800000 ++ leBytes 4 0
    else if reduce = 2 then leBytes 4 0xFF800000 ++ leBytes 4 0xFFFFFFFF
    else leBytes 4 0x7F800000 ++ leBytes 4 0xFFFFFFFF
  else
    let e := (extreme (decide (reduce ≠ 3)) ix).getD (0, 0)
    let v := if (ofFp32 e.2).isNan then nan32 else e.2
    if reduce = 1 then leBytes 4 v ++ leBytes 4 (rowSum xs) else leBytes 4 v ++ leBytes 4 (n0 + e.1)

/-- Of a run of at most four values, which places keep (R109). -/
def pruneRun (ys : List Num) : List Bool :=
  let better (i j : Nat) : Bool :=
    -- column i ranks before column j
    let a := (ys.getD i Num.zero).abs
    let b := (ys.getD j Num.zero).abs
    if a.isNan && b.isNan then decide (i < j)
    else if a.isNan then true
    else if b.isNan then false
    else if Num.lt b a then true else if Num.lt a b then false else decide (i < j)
  (List.range ys.length).map fun i =>
    decide (((List.range ys.length).filter fun j => j ≠ i && better j i).length < 2)

/-- The columns of a row that pruning keeps (R109); the row starts at a multiple of four. -/
def pruneRow (ys : List Num) : List Bool := (chunks 4 (ys.length + 1) ys).flatMap pruneRun

/-! ### Steps 7 and 8 -/

/-- An encoded element of an output row: the element, its block's scale or exponent byte, and its Drizzle threshold. -/
abbrev Coded := Enc × Nat × Nat

/-- A row, or a part of it that starts at a block boundary, encoded (R49 to R55). -/
def encRow (f : Fmt) (weir : Option Nat) (cs : List Cell) : List Coded :=
  if f.isMx then
    (chunks 32 (cs.length + 1) cs).flatMap fun b =>
      let e := f.encMx weir (b.map fun c => (c.1, c.2.1))
      (e.2.zip b).map fun x => (x.1, e.1, x.2.2.2)
  else
    match f with
    | .bfp w =>
      (chunks 24 (cs.length + 1) cs).flatMap fun b =>
        let e := encBfp w (b.map fun c => (c.1, c.2.1))
        (e.2.zip b).map fun x => (x.1, e.1, x.2.2.2)
    | g => cs.map fun c => (g.encElem c.1 c.2.1, 0, c.2.2)

/-- Does Drizzle act on an output format (R181)? -/
def Fmt.drizzles : Fmt → Bool
  | .fp32 => false
  | .stream _ => false
  | .int 1 => false
  | _ => true

/-- Step 8 for one element: the element and whether Drizzle zeroed it (R183, R184). An element of code magnitude 0, −0 among
them, becomes the table's zero, and is not counted as zeroed, as the worked example of R189 counts. -/
def drizzleElem (f : Fmt) (c : Coded) : Coded × Bool :=
  if f.drizzles && c.1.fin && decide (f.codeMag c.1.code < c.2.2) then
    (({ c.1 with code := 0 }, c.2), decide (f.codeMag c.1.code ≠ 0))
  else (c, false)

/-- The stored bytes of part of a row that starts at a record or byte boundary (R34, R39, R44). The elements beyond N of a row's
last BFP-ORAN record are 0 (log 30). -/
def rowImage (f : Fmt) (cs : List Coded) : List Byte :=
  if f.isMx then
    (chunks 128 (cs.length + 1) cs).flatMap fun b =>
      ((List.range 4).flatMap fun i => leBytes 1 (match b[32 * i]? with | some c => c.2.1 | none => 0x7F)) ++
        packBits f.width ((List.range 128).map fun k => match b[k]? with | some c => c.1.code | none => 0)
  else
    match f with
    | .bfp w =>
      (chunks 24 (cs.length + 1) cs).flatMap fun b =>
        let e := match b with | [] => 0 | c :: _ => c.2.1
        let body := leBytes 1 e ++ packBits w ((List.range 24).map fun k => match b[k]? with | some c => c.1.code | none => 0)
        body ++ List.replicate (f.recordBytes - body.length) 0
    | g => packBits g.width (cs.map fun c => c.1.code)

/-! ### The output -/

/-- Where an output and its metadata go: format, bounds, tile width, and the places of rows, records, directory and
bitmaps as (address field, offset) (R112, R157, R158). -/
structure Out where
  fmt : Fmt
  m : Nat
  n : Nat
  nt : Nat
  dst : Nat
  s24 : Bool
  tiled : Bool
  fall : Nat
  stride : Nat
  recAt : Nat
  dir : Nat × Nat
  bmp : Nat × Nat
  deriving DecidableEq, Repr

/-- A sparse operand block's output fields: out_dir, out_bmp, out_stride, no_out_meta (R159). -/
structure OutMeta where
  dir : Nat
  bmp : Nat
  stride : Nat
  none : Bool
  deriving DecidableEq, Repr

/-- No block: the default places. -/
def OutMeta.default : OutMeta := ⟨0, 0, 0, false⟩

/-- The place an output's default metadata is measured from: the slot offset, or the address itself (R158). -/
def measureBase (a : Nat) : Nat := if isSlotRef a then slotOff a else a

/-- The layout of a descriptor's output. -/
def Desc.outPlan (d : Desc) (f : Fmt) (m n nt : Nat) (om : OutMeta) : Out :=
  let tiled := f.tileable && !om.none
  let s24 := tiled && d.prunes && decide (2 ≤ f.width)
  let tj := ceilDiv n 128
  let rowsEnd := if s24 then ceilDiv m 32 * tj * (32 * f.rawRow) else m * f.pitch n
  let rec0 := roundUp rowsEnd 64
  let recEnd := if d.reduce = 0 then rowsEnd else rec0 + 8 * (ceilDiv n nt * m)
  let b := measureBase d.outDst
  let dir0 := roundUp (b + recEnd) 4096 - b
  let stride := if om.stride = 0 then tj else om.stride
  let dirEnd := dir0 + 64 * (ceilDiv m 32 * stride)
  let bmp0 := roundUp (b + dirEnd) 4096 - b
  { fmt := f, m := m, n := n, nt := nt, dst := d.outDst, s24 := s24, tiled := tiled
    fall := if tiled && d.prunes && !s24 then 1 else 0
    stride := stride, recAt := rec0
    dir := if om.dir = 0 then (d.outDst, dir0) else (om.dir, 0)
    bmp := if om.dir = 0 then (d.outDst, bmp0) else (om.bmp, 0) }

/-- The address that a header names for offset `o` of an address field, in the field's own form (R146, R273). -/
def addrPlus (a o : Nat) : Nat :=
  if isSlotRef a then a - slotOff a + (slotOff a + o) % 2 ^ 23 else a + o

/-- A column of a BFP-ORAN record that a later output tile completes: row, column, value, saturated in step 3, Drizzle
threshold, kept in step 6 (R113). -/
abbrev Carried := Nat × Nat × Num × Bool × Nat × Bool

/-- What the drain of one output tile gives. -/
structure Drained where
  writes : List (Nat × Nat × List Byte)
  counts : Counts
  sat : Bool
  bad : Bool
  zeroed : Nat
  carry : List Carried
  /-- Row, first column, and the codes with their scale bytes and whether a column is left out of Halo's comparison. -/
  segs : List (Nat × Nat × List (Nat × Nat × Bool))
  deriving DecidableEq, Repr

/-- Counts of the encoded elements of an output (R56, R206), Drizzle zeros included. -/
def countCoded (f : Fmt) (cs : List (Coded × Bool)) : Counts where
  elements := cs.length
  zeros := (cs.filter fun c => f.zeroCode c.1.1.code).length
  satOut := (cs.filter fun c => c.1.1.cnt = .sat).length
  flushOut := (cs.filter fun c => c.1.1.cnt = .flush).length
  nonfinite := (cs.filter fun c => c.1.1.cnt = .nonfinite).length
  flushIn := 0
  accSat := 0
  amax := 0

/-- The greatest finite magnitude as FP32 (R206). -/
def amax32 (ys : List Num) : Nat := (ys.map fun y => if y.isFin then (fp32Sat y.abs).1 else 0).foldl max 0

/-- One row of an output tile drained: the part encoded now with its first column and its cells' marks, the values that part was
encoded from, how many of its first and last cells belong to columns that are not drained, and the columns of the row that wait for
the rest of their BFP-ORAN record. -/
structure RowOut where
  row : Nat
  first : Nat
  cs : List (Coded × Bool)
  kept : List Bool
  ys : List Num
  pad : Nat
  tail : Nat
  carry : List Carried
  deriving DecidableEq, Repr

/-- The output elements of a drained row, of what it lists for each cell. -/
def RowOut.of {α : Type} (r : RowOut) (l : List α) : List α := (l.drop r.pad).take (l.length - r.pad - r.tail)

/-- The output elements of a drained row. -/
def RowOut.elts (r : RowOut) : List (Coded × Bool) := r.of r.cs

/-- A row of an output of `n` columns in BFP-ORAN: the records that the cells of columns from `n0` complete, with the columns that
earlier drains of the descriptor have left (R113). Where the drain is a DRAIN (`fill`), every record that holds one of its columns is
formed, and has 0 in the columns that it does not cover (log 30). -/
def drainRecords (f : Fmt) (weir : Option Nat) (n row n0 : Nat) (fill : Bool) (carry : List Carried) (cells : List Cell)
    (kept : List Bool) : RowOut :=
  let all : List Carried := carry.filter (·.1 = row) ++
    ((List.range cells.length).zip (cells.zip kept)).map fun c => (row, n0 + c.1, c.2.1.1, c.2.1.2.1, c.2.1.2.2, c.2.2)
  let at' (c : Nat) : Option Carried := all.find? fun x => x.2.1 = c
  let cols (r : Nat) : List Nat := (List.range (min 24 (n - 24 * r))).map (24 * r + ·)
  let w := cells.length
  let rs := if w = 0 then [] else (List.range ((n0 + w - 1) / 24 + 1 - n0 / 24)).map (n0 / 24 + ·)
  let now := (rs.filter fun r => fill || (cols r).all fun c => (at' c).isSome).flatMap cols
  let first := now.headD n0
  let cs := now.map fun c => ((at' c).map fun x => (((x.2.2.1, x.2.2.2.1, x.2.2.2.2.1), x.2.2.2.2.2) : Cell × Bool)).getD ((Num.zero, false, 0), true)
  ⟨row, first, (encRow f weir (cs.map Prod.fst)).map (drizzleElem f), cs.map Prod.snd, cs.map fun c => c.1.1,
    (now.takeWhile fun c => (at' c).isNone).length, (now.reverse.takeWhile fun c => (at' c).isNone).length,
    all.filter fun x => !now.contains x.2.1⟩

/-- A row of cells of columns from `n0` of an output of `n` columns, encoded and Drizzled. -/
def drainRow (f : Fmt) (weir : Option Nat) (n row n0 : Nat) (fill : Bool) (carry : List Carried) (cells : List Cell)
    (kept : List Bool) : RowOut :=
  if f.isBfp then drainRecords f weir n row n0 fill carry cells kept
  else ⟨row, n0, (encRow f weir cells).map (drizzleElem f), kept, cells.map Prod.fst, 0, 0, []⟩

/-- The write of a drained row in the plain layout; bits after the last column are written as 0 (R34, R157). -/
def RowOut.write (r : RowOut) (o : Out) : List (Nat × Nat × List Byte) :=
  let f := o.fmt
  let img := rowImage f (r.cs.map Prod.fst)
  let off := if f.isMx then r.first / 128 * f.recordBytes else if f.isBfp then r.first / 24 * f.recordBytes
    else r.first * f.width / 8
  let pad := if r.first + r.cs.length ≥ o.n then f.pitch o.n - off - img.length else 0
  if r.cs.isEmpty then [] else [(o.dst, r.row * f.pitch o.n + off, img ++ List.replicate pad 0)]

/-- The metadata of one storage tile: S24 data where the output has that form, its bitmap, then its header
(R145, R146, R156). -/
def tileWrites (o : Out) (rows : List RowOut) (i j : Nat) : List (Nat × Nat × List Byte) :=
  let f := o.fmt
  let part := rows.map fun r =>
    let skip := 128 * j - r.first
    ((r.cs.drop skip).take 128, (r.kept.drop skip).take 128)
  let cols := min 128 (o.n - 128 * j)
  let nz := part.map fun p => p.1.map fun c => !f.zeroCode c.1.1.code
  let density := (nz.map fun r => (r.filter id).length).sum
  let tj := ceilDiv o.n 128
  let bm := addrPlus o.bmp.1 (o.bmp.2 + 512 * (i * o.stride + j))
  let elts := part.map fun p => p.1.map fun c => ((some c.1.1.code, c.1.2.1) : Elt)
  let kept := part.map fun p => (List.range 32).map fun g =>
    keep2 ((List.range 4).map fun k => p.2.getD (4 * g + k) false)
  let body := s24Bytes f cols elts kept
  let slot := (i * tj + j) * (32 * f.rawRow)
  let h : Hdr :=
    { data := addrPlus o.dst (if o.s24 then slot else 32 * i * f.pitch o.n + (if f.isMx then j * f.recordBytes else 16 * f.width * j))
      bitmap := bm
      dataBytes := if o.s24 then body.length else rows.length * f.rawRow
      rowStride := if o.s24 then 0 else f.pitch o.n
      enc := if o.s24 then 3 else 0
      fallback := o.fall
      rows := rows.length
      cols := cols
      density := density }
  (if o.s24 then [(o.dst, slot, body)] else []) ++
  (if o.tiled then
    [(o.bmp.1, o.bmp.2 + 512 * (i * o.stride + j), bitmapBytes nz),
     (o.dir.1, o.dir.2 + 64 * (i * o.stride + j), h.toBytes f i j)]
   else [])

/-- One output tile drained: rows from `m0`, columns from `n0`; `fill` says that records go out whole whatever the drain covers of them;
`vals` are the values v of step 2. -/
structure TileIn where
  d : Desc
  exact : Bool
  prm : Prm
  weir : Option Nat
  thr : Nat
  empty : Bool
  m0 : Nat
  n0 : Nat
  fill : Bool
  carry : List Carried
  vals : List (List Num)
  deriving DecidableEq, Repr

/-- Steps 3 to 9 of R105 for an output tile. One without columns writes nothing (log 30). -/
def drainTile (o : Out) (t : TileIn) : Drained :=
  let rows := (List.range t.vals.length).zip t.vals
  let cells := rows.map fun r =>
    let ys := ((List.range r.2.length).zip r.2).map fun c =>
      let y := scaleStep t.d t.exact t.prm (t.n0 + c.1) c.2
      (y.1, (eltStep t.d t.prm y.1, y.2))
    let y1 := ys.map fun y => y.2.1
    let keep := if t.d.prunes then pruneRow y1 else y1.map fun _ => true
    let out := (ys.zip keep).map fun x => ((if x.2 then x.1.2.1 else Num.zero, x.1.2.2, t.thr) : Cell)
    (r.1, ys.map Prod.fst, y1, keep, out)
  let outs := cells.map fun c => drainRow o.fmt t.weir o.n (t.m0 + c.1) t.n0 t.fill t.carry c.2.2.2.2 c.2.2.2.1
  let coded := outs.flatMap RowOut.elts
  let width := match t.vals with | [] => 0 | r :: _ => r.length
  let recs := if t.d.reduce = 0 ∨ t.d.reduce = 4 ∨ width = 0 then [] else
    cells.map fun c => (o.dst, o.recAt + 8 * (t.n0 / o.nt * o.m + t.m0 + c.1), rowRecord t.d.reduce t.n0 t.empty c.2.2.1)
  let i0 := t.m0 / 32
  let j0 := t.n0 / 128
  let rowGroups := chunks 32 (outs.length + 1) outs
  let metas :=
    ((List.range rowGroups.length).zip rowGroups).flatMap fun g => (List.range (ceilDiv width 128)).flatMap fun b =>
      tileWrites o g.2 (i0 + g.1) (j0 + b)
  let plainRows := if o.s24 then [] else outs.flatMap fun r => r.write o
  let amax := amax32 (outs.flatMap fun r => r.of r.ys)
  let cnt := countCoded o.fmt coded
  { writes := plainRows ++ (if o.tiled || o.s24 then metas else []) ++ recs
    counts := { cnt with amax := amax }
    sat := decide (cnt.satOut ≠ 0)
    bad := cells.any fun c => c.2.1.any fun y => !y.isFin
    zeroed := (coded.filter Prod.snd).length
    carry := (t.carry.filter fun x => !(decide (t.m0 ≤ x.1) && decide (x.1 < t.m0 + t.vals.length))) ++ outs.flatMap (·.carry)
    segs := outs.map fun r => (r.row, r.first, (r.cs.zip r.kept).map fun x => (x.1.1.1.code, x.1.1.2.1, !x.2 || x.1.2)) }

end Sys2Proof.Machine
end

