-- ==== Sys2Proof/Machine/Descriptor.lean ====
section
/-! DEFINITION. The operation descriptor: its fields, which of them each opcode reads, and the checks of steps 1 to 5 of the
validation order (R12, R14, R15, R19, R272 to R276, R282, R283, R288). -/

namespace Sys2Proof.Machine

/-- Status codes of completion records (R292). -/
def stFeature : Nat := 0x1
/-- FIELD_RESERVED. -/
def stField : Nat := 0x2
/-- ADDR_INVALID. -/
def stAddr : Nat := 0x3
/-- TARGET_INVALID. -/
def stTarget : Nat := 0x4
/-- TARGET_SHAPE. -/
def stShape : Nat := 0x5
/-- UNIT_NOT_READY. -/
def stNotReady : Nat := 0x6
/-- SHAPE_RANGE. -/
def stRange : Nat := 0x7
/-- FORMAT_INVALID. -/
def stFormat : Nat := 0x8
/-- PAIR_INVALID. -/
def stPair : Nat := 0x9
/-- META_INVALID. -/
def stMeta : Nat := 0xA
/-- RING_CLASS. -/
def stRingClass : Nat := 0xB
/-- ACC_STATE. -/
def stAccState : Nat := 0xC
/-- ACC_RANGE. -/
def stAccRange : Nat := 0xD
/-- PRECISION_MISMATCH. -/
def stPrecision : Nat := 0xE
/-- BOUND_EXCEEDED. -/
def stBound : Nat := 0xF
/-- TILE_REJECTED. -/
def stTileRejected : Nat := 0x10
/-- SCALE_DOMAIN. -/
def stScaleDomain : Nat := 0x40
/-- TILE_INVALID. -/
def stTileInvalid : Nat := 0x41
/-- SLOT_TIMEOUT. -/
def stSlotTimeout : Nat := 0x42
/-- POOL_ECC. -/
def stPoolEcc : Nat := 0x43
/-- DRAM_ECC. -/
def stDramEcc : Nat := 0x44
/-- LINK_ERROR. -/
def stLink : Nat := 0x45
/-- UNIT_FAULT. -/
def stUnitFault : Nat := 0x46
/-- BARRIER_TIMEOUT. -/
def stBarrier : Nat := 0x47
/-- CANCELLED. -/
def stCancelled : Nat := 0x48

/-- Opcodes (R282). -/
def opMatmul : Nat := 0x01
/-- FUSED_PAIR. -/
def opFused : Nat := 0x03
/-- CHECKNODE. -/
def opCheck : Nat := 0x04
/-- REDUCE. -/
def opReduce : Nat := 0x05
/-- UPDATE. -/
def opUpdate : Nat := 0x06
/-- CONVERT. -/
def opConvert : Nat := 0x07
/-- GATHER. -/
def opGather : Nat := 0x08
/-- HAZE_SELECT. -/
def opHaze : Nat := 0x09
/-- FORECAST. -/
def opForecast : Nat := 0x0A
/-- EMU_BASAD. -/
def opEmu : Nat := 0x0C
/-- DRAIN. -/
def opDrain : Nat := 0x10
/-- RESHARD. -/
def opReshard : Nat := 0x11

/-- The opcodes of R282. -/
def opcodes : List Nat :=
  [opMatmul, opFused, opCheck, opReduce, opUpdate, opConvert, opGather, opHaze, opForecast, opBarrier, opEmu, opDrain,
   opReshard]

/-- The fields of a 128-byte entry (R272). -/
def Desc.ofBytes (bs : List Byte) : Desc :=
  let f (o n lo w : Nat) : Nat := bitsOf (fieldAt bs o n) lo w
  { opcode := f 0 1 0 8
    shape := f 1 1 0 3
    boundsSrc := f 1 1 3 2
    accBegin := decide (f 1 1 5 1 = 1)
    accEnd := decide (f 1 1 6 1 = 1)
    strict := decide (f 1 1 7 1 = 1)
    target := f 2 3 0 24
    accGroup := f 5 1 0 3
    accKind := f 5 1 3 2
    treeCode := f 5 1 5 2
    accRow0 := f 6 1 0 8
    sparseMode := f 7 1 0 2
    round := f 7 1 2 2
    reduce := f 7 1 4 4
    m := f 8 4 0 32
    n := f 12 4 0 32
    k := f 16 4 0 32
    serialFmt := f 20 1 0 4
    broadFmt := f 20 1 4 4
    serialBits := f 21 1 0 5
    broadPasses := f 21 1 5 2
    broadBits := f 22 1 0 5
    rowfn := f 23 1 0 4
    eltfn := f 23 1 4 4
    outFmt := f 24 1 0 8
    drizzleBand := f 25 1 0 8
    drizzleT := f 26 2 0 16
    scaleMode := f 28 4 0 4
    scaleValue := f 28 4 8 8
    scaleParam := f 28 4 16 14
    crossover := f 32 2 0 10
    slot := f 34 2 0 12
    haloRate := f 36 1 0 5
    cq := f 38 2 0 12
    seed := f 40 6 0 48
    deadline := f 48 8 0 64
    aSrc := f 56 8 0 64
    wSrc := f 64 8 0 64
    metaSrc := f 72 8 0 64
    outDst := f 80 8 0 64 }

/-- op.tree_group as a count (R82, R272). -/
def Desc.tree (d : Desc) : Nat := if d.treeCode = 0 then 4 else if d.treeCode = 1 then 8 else 16

/-- Is the opcode in a list? -/
def Desc.among (d : Desc) (l : List Nat) : Bool := l.contains d.opcode

/-- EMU_BASAD DOT. -/
def Desc.isDot (d : Desc) : Bool := d.opcode = opEmu && d.rowfn = 0

/-- Opcodes that read the serial fields (R282). -/
def Desc.readsSerial (d : Desc) : Bool :=
  d.among [opMatmul, opFused, opForecast, opHaze, opUpdate, opGather] || d.isDot

/-- Opcodes that read the broad fields. -/
def Desc.readsBroad (d : Desc) : Bool := d.among [opMatmul, opFused, opForecast, opHaze, opConvert, opCheck, opEmu]

/-- Opcodes that read op.shape. -/
def Desc.readsShape (d : Desc) : Bool := d.among [opMatmul, opFused, opCheck, opForecast, opHaze, opEmu]

/-- Opcodes that read the accumulation fields. -/
def Desc.readsAcc (d : Desc) : Bool := d.among [opMatmul, opFused, opCheck, opForecast, opHaze]

/-- Opcodes that read M, N or K, and with them op.bounds_src. -/
def Desc.readsBounds (d : Desc) : Bool := d.among opcodes && d.opcode ≠ opDrain && d.opcode ≠ opReshard

/-- Opcodes that read op.reduce. -/
def Desc.readsReduce (d : Desc) : Bool := d.among [opMatmul, opFused, opCheck, opReduce, opConvert, opDrain, opEmu]

/-- Opcodes that read op.eltfn. -/
def Desc.readsElt (d : Desc) : Bool := d.among [opMatmul, opFused, opReduce, opConvert, opDrain, opEmu]

/-- Opcodes that read op.out_fmt. -/
def Desc.readsOut (d : Desc) : Bool := d.among [opMatmul, opFused, opCheck, opReduce, opConvert, opDrain, opEmu]

/-- Opcodes that read op.out_scale. -/
def Desc.readsScale (d : Desc) : Bool :=
  d.among [opMatmul, opFused, opCheck, opReduce, opConvert, opDrain, opEmu, opUpdate]

/-- The address fields an opcode reads, as (byte, value): op.a_src, op.w_src, op.meta_src, op.out_dst (R282). -/
def Desc.addrs (d : Desc) : List (Nat × Nat) :=
  let a := d.among [opMatmul, opFused, opCheck, opUpdate, opConvert, opGather, opHaze, opForecast, opEmu]
  let w := d.among [opMatmul, opFused, opCheck, opUpdate, opHaze, opForecast] || d.isDot
  let mt := d.among [opMatmul, opFused, opCheck, opReduce, opUpdate, opConvert, opGather, opHaze, opForecast, opReshard]
  let o := d.among [opMatmul, opFused, opCheck, opReduce, opConvert, opGather, opHaze, opForecast, opEmu, opDrain]
  (if a then [(56, d.aSrc)] else []) ++ (if w then [(64, d.wSrc)] else []) ++ (if mt then [(72, d.metaSrc)] else []) ++
    (if o then [(80, d.outDst)] else [])

/-- Opcodes whose block at op.meta_src is required (R282). -/
def Desc.needsMeta (d : Desc) : Bool := d.among [opFused, opReduce, opUpdate, opGather, opHaze, opForecast, opReshard]

/-- The byte of the least set bit. -/
def lowByte (x : Nat) : Nat := ((List.range 8).find? fun i => bitsOf x (8 * i) 8 ≠ 0).getD 0

/-- The bits of each byte that the layout shows as "—" (R272). -/
def reservedMask (i : Nat) : Nat :=
  if i = 5 ∨ i = 21 then 0x80
  else if i = 22 ∨ i = 36 then 0xE0
  else if i = 28 then 0xF0
  else if i = 31 then 0xC0
  else if i = 33 then 0xFC
  else if i = 35 ∨ i = 39 then 0xF0
  else if i = 37 ∨ i = 46 ∨ i = 47 ∨ (88 ≤ i ∧ i < 128) then 0xFF
  else 0

/-- Is the pair of a format code and bits field one that R32 lists for the role; UPDATE ignores the converted width of its
floating-point formats (R220). -/
def fmtListed (role : Role) (code bits : Nat) (ignore : Bool) : Bool :=
  if ignore ∧ (code = 6 ∨ code = 7 ∨ code = 10 ∨ code = 11) then true else (Fmt.ofCode role code bits).isSome

/-- Bytes at which a field the opcode reads holds a reserved value, or a "—" field is not 0 (R12, R288 step 2). -/
def Desc.offending (d : Desc) (raw : List Byte) : List Nat :=
  let b (c : Bool) (i : Nat) : List Nat := if c then [i] else []
  b (!opcodes.contains d.opcode) 0 ++
  ((List.range 128).filter fun i => (fieldAt raw i 1) &&& reservedMask i ≠ 0) ++
  b (d.readsShape && (d.shape = 0 || d.shape = 7)) 1 ++
  b (d.readsBounds && d.boundsSrc = 3) 1 ++
  b (d.readsAcc && decide (2 ≤ d.accKind)) 5 ++
  b (d.readsAcc && d.opcode ≠ opCheck && d.treeCode = 3) 5 ++
  b (d.opcode = opMatmul && d.sparseMode = 3) 7 ++
  b (d.opcode = opUpdate && decide (2 ≤ d.round)) 7 ++
  b (d.readsReduce && decide (5 ≤ d.reduce)) 7 ++
  b (d.readsSerial && decide (13 ≤ d.serialFmt)) 20 ++
  b (d.readsBroad && decide (13 ≤ d.broadFmt)) 20 ++
  b (d.readsSerial && !fmtListed .serial d.serialFmt d.serialBits (d.opcode = opUpdate)) 21 ++
  b (d.readsBroad && (d.broadPasses = 0 || d.broadPasses = 3)) 21 ++
  b (d.readsBroad && !fmtListed .broad d.broadFmt d.broadBits false) 22 ++
  b ((d.opcode = opFused || d.opcode = opReduce) && decide (4 ≤ d.rowfn)) 23 ++
  b (d.opcode = opGather && decide (2 ≤ d.rowfn)) 23 ++
  b (d.opcode = opEmu && decide (3 ≤ d.rowfn)) 23 ++
  b (d.readsElt && (d.eltfn = 3 || decide (7 ≤ d.eltfn))) 23 ++
  b (d.readsOut && (Fmt.ofOut d.outFmt).isNone) 24 ++
  b (d.readsScale && decide (4 ≤ d.scaleMode)) 28 ++
  b (d.opcode = opCheck && d.scaleMode = 3) 28 ++
  b (d.opcode = opCheck && d.scaleMode = 2 && (d.scaleValue = 0 || decide (16 < d.scaleValue))) 29 ++
  b (d.among [opMatmul, opForecast, opHaze] && decide (18 ≤ d.haloRate)) 36 ++
  (d.addrs.filterMap fun a => if addrReserved a.2 ≠ 0 then some (a.1 + lowByte (addrReserved a.2)) else none)

/-- The least of a list of numbers. -/
def minOf (l : List Nat) : Option Nat := l.foldl (fun m x => match m with | none => some x | some y => some (min x y)) none

/-- The handle's device and local handle name a basin of this device or a member of the cascade (R274). -/
def State.basinNamed (s : State) (h : Nat) : Bool :=
  let l := h % 2 ^ 16
  (s.isHere (h / 2 ^ 16) || s.isPeer (h / 2 ^ 16)) && decide (0x200 ≤ l) && decide (l < 0x200 + 140)

/-- Is an address that must lie on a 64-byte boundary valid (R274)? -/
def State.addrOk (s : State) (a : Nat) (aligned : Bool := true) : Bool :=
  if isSlotRef a then decide (slotNum a < 48) && s.basinNamed (slotUnit a) && (!aligned || slotOff a % 64 = 0)
  else !aligned || a % 64 = 0

/-- The feature bit an opcode needs (R366). -/
def featureOf (op : Nat) : Nat :=
  if op = opEmu then 1 else if op = opFused ∨ op = opReduce then 2 else if op = opCheck then 3 else if op = opForecast then 4
  else if op = opHaze then 5 else if op = opUpdate then 6 else if op = opReshard then 7 else 0

/-- Kinds of units (R13, R282). -/
inductive UnitKind where
  | device | terrace | basin | jet | engine | reserve | group
  deriving DecidableEq, Repr

/-- The kind of a local handle; none where R14 reserves it. -/
def unitKind (l : Nat) : Option UnitKind :=
  if l = 1 then some .device
  else if 0x100 ≤ l ∧ l < 0x123 then some .terrace
  else if 0x200 ≤ l ∧ l < 0x28C then some .basin
  else if 0x400 ≤ l ∧ l < 0x630 then some .jet
  else if 0x800 ≤ l ∧ l < 0x918 then some .engine
  else if 0xC00 ≤ l ∧ l < 0xC23 then some .reserve
  else if 0x1000 ≤ l ∧ l < 0x10000 then some .group
  else none

/-- Does an opcode's row of R282 allow a kind of target? -/
def opAllows (op : Nat) (k : UnitKind) : Bool :=
  if op = opMatmul ∨ op = opDrain then true
  else if op = opBarrier ∨ op = opReshard then (match k with | .device => true | _ => false)
  else match k with
    | .basin | .terrace | .device | .group => true
    | .jet => op = opCheck || op = opEmu
    | _ => false

/-- Does a shape fit a kind of unit (R19)? Opcodes without a shape fit any. -/
def Desc.fits (d : Desc) (k : UnitKind) : Bool :=
  if !d.readsShape then true
  else match k with
    | .jet | .reserve => d.shape = 4
    | .engine => d.shape = 6
    | _ => true

/-- Does a unit kind accept the descriptor (R20)? -/
def Desc.accepts (d : Desc) (k : UnitKind) : Bool := opAllows d.opcode k && d.fits k

/-- Is a target handle valid here (R14, R15)? -/
def State.targetOk (s : State) (h : Nat) : Bool :=
  let i := h / 2 ^ 16
  let l := h % 2 ^ 16
  if s.isHere i then
    match unitKind l with
    | none => false
    | some .group => (Tab.find? s.groups l).isSome
    | some _ => true
  else s.isPeer i && (unitKind l).isSome

/-- Steps 1 to 5 of R288, at the queue engine: the first check that fails, with its detail. -/
def State.frontCheck (s : State) (d : Desc) (raw : List Byte) : Option Err :=
  if opcodes.contains d.opcode ∧ !bitOf s.feat (featureOf d.opcode) then some (stFeature, 0)
  else
    match minOf (d.offending raw) with
    | some b => some (stField, b)
    | none =>
      let mem := d.m + 2 ^ 32 * d.n
      if d.readsBounds ∧ d.boundsSrc = 2 ∧ mem / 2 ^ 56 ≠ 0 then some (stAddr, 12)
      else if d.readsBounds ∧ d.boundsSrc = 2 ∧ mem % 16 ≠ 0 then some (stAddr, 8)
      else
        match d.addrs.find? fun a => !s.addrOk a.2 || (a.1 = 72 && d.needsMeta && a.2 = 0) with
        | some a => some (stAddr, a.1)
        | none =>
          if !s.targetOk d.target then some (stTarget, 0)
          else
            match unitKind (d.target % 2 ^ 16) with
            | none => some (stTarget, 0)
            | some k => if d.accepts k then none else some (stShape, 0)

end Sys2Proof.Machine
end

