-- ==== Sys2Proof/Machine/Placement.lean ====
section
/-! DEFINITION. Which member runs a descriptor: readiness of units, groups, locality classes, load, and dispatch
(R18 to R23, R211, R238, R276, R288 step 6, R332, R351). -/

namespace Sys2Proof.Machine

/-- Debug is unlocked (R489). -/
def State.debugOn (s : State) : Bool := s.bit (rk .SC_STATUS) 0

/-- The holder code of a resource (R367). -/
def State.holder (s : State) (r : Nat) : Nat := Tab.getD s.holders r 0

/-- The logical basin of a basin, jet or engine handle; a reserve jet's is the first of its terrace (log 21). -/
def basinOf (l : Nat) : Nat :=
  if 0x200 ≤ l ∧ l < 0x28C then l - 0x200
  else if 0x400 ≤ l ∧ l < 0x630 then (l - 0x400) / 4
  else if 0x800 ≤ l ∧ l < 0x918 then (l - 0x800) / 2
  else if 0xC00 ≤ l ∧ l < 0xC23 then 4 * (l - 0xC00)
  else 0

/-- Is a unit of this device ready (R18 to R20, R369)? -/
def State.unitReady (s : State) (l : Nat) : Bool :=
  match unitKind l with
  | some .device => s.queueReady
  | some .terrace => s.terraceReady (l - 0x100)
  | some .reserve => s.terraceReady (l - 0xC00) && s.debugOn && s.holder (0x100 + (l - 0xC00)) = 1
  | some .group => true
  | some _ => s.basinReady (basinOf l)
  | none => false

/-- Does a unit, or for a terrace, the device or a group one of its own units, accept the descriptor (R20)? -/
def State.acceptsIn (s : State) (d : Desc) : Nat → Nat → Bool
  | 0, _ => false
  | fuel + 1, h =>
    let l := h % 2 ^ 16
    match unitKind l with
    | none => false
    | some .group =>
      if s.isHere (h / 2 ^ 16) then (Tab.getD s.groups l []).any fun m => s.acceptsIn d fuel m else d.accepts .group
    | some .terrace => d.accepts .basin
    | some .device => d.accepts .basin || d.accepts .device
    | some k => d.accepts k

/-- First physical terrace under a stack, at whose router the stack attaches (R311). -/
def attachT (st : Nat) : Nat :=
  if st = 12 then 2 else if st = 13 then 17 else if st = 14 then 30 else if st = 15 then 32
  else 5 * (st / 2) + (if st % 2 = 0 then 0 else 3)

/-- Mesh hops between two physical terraces' routers (R311, R342). -/
def hops (a b : Nat) : Nat := (a / 5 - b / 5) + (b / 5 - a / 5) + ((a % 5 - b % 5) + (b % 5 - a % 5))

/-- Locality class of a logical basin for an address (R332). -/
def State.locality (s : State) (q a : Nat) : Nat :=
  let p := s.physT (q / 4)
  if isSlotRef a then (if s.slotBasin a = some q then 3 else 0)
  else
    match s.loc (a % 2 ^ 56) with
    | .pool b _ => if b = q then 3 else 0
    | .dram x _ =>
      match s.allocAt x with
      | none => 0
      | some al =>
        if al.stackList.all (· = stackAbove p) then 2
        else if al.stackList.all fun st => decide (hops (attachT st) p ≤ 1) then 1 else 0
    | _ => 0

/-- Descriptors dispatched to a basin and not yet completed (R332). -/
def State.load (s : State) (q : Nat) : Nat :=
  (s.jobs.filter fun j => j.unit ≠ 0 && j.unit ≠ 1 && basinOf j.unit = q && j.phase ≠ .away).length

/-- Descriptors that this module has sent to a unit of another member and that have not completed (R332, log 21). -/
def State.farLoad (s : State) (m l : Nat) : Nat :=
  (s.jobs.filter fun j => j.phase = .away && j.member = some m && j.unit = l).length

/-- Does a unit with the local handle `l` hold a basin? A group of another member is known to that member only. -/
def holdsBasin (l u : Nat) : Bool :=
  match unitKind l with
  | some .device => true
  | some .terrace => basinOf u / 4 = l - 0x100
  | some .group | none => false
  | some _ => basinOf l = basinOf u

/-- The local handle of the basin of member `m` in whose pools an address lies, by slot reference or aperture address. -/
def State.farBasin (s : State) (m a : Nat) : Option Nat :=
  if isSlotRef a then (if slotUnit a / 2 ^ 16 = m then some (slotUnit a % 2 ^ 16) else none)
  else match s.loc (a % 2 ^ 56) with
    | .peer i x =>
      if i = m ∧ 0x10000000000 ≤ x ∧ x < 0x10046000000 then some (0x200 + (x - 0x10000000000) / 0x800000) else none
    | _ => none

/-- Locality class of a unit of another member: 3 where the address lies in its own pools, else 0 (R332, log 21). -/
def State.farClass (s : State) (m l a : Nat) : Nat :=
  match s.farBasin m a with
  | some u => if holdsBasin l u then 3 else 0
  | none => 0

/-- Descriptors a basin holds that have been dispatched and not yet issued (R351). -/
def State.backlog (s : State) (q : Nat) : Nat :=
  (s.jobs.filter fun j => j.unit ≠ 0 && j.unit ≠ 1 && basinOf j.unit = q && j.phase = .dispatched).length

/-- The rank of a candidate: locality class, load, the member's handle, and the unit that would run the descriptor with
the member of the cascade it lies on, none here. -/
structure Cand where
  cls : Nat
  load : Nat
  handle : Nat
  unit : Nat
  member : Option Nat
  deriving DecidableEq, Repr

/-- Does one candidate rank before another: class, then load, then handle (R332)? -/
def Cand.before (a b : Cand) : Bool :=
  if a.cls ≠ b.cls then decide (b.cls < a.cls)
  else if a.load ≠ b.load then decide (a.load < b.load)
  else decide (a.handle < b.handle)

/-- The candidate that ranks first. -/
def bestOf (cs : List Cand) : Option Cand :=
  cs.foldl (fun m c => match m with | none => some c | some b => if c.before b then some c else some b) none

/-- The address that locality is judged by (R332), of the fields that the opcode reads: a conversion of EMU_BASAD ignores
op.w_src (R234, log 21). -/
def Desc.locAddr (d : Desc) : Nat :=
  let f (o : Nat) : Nat := ((d.addrs.find? fun a => a.1 = o).map Prod.snd).getD 0
  if f 64 = 0 then f 56 else f 64

/-- The best ready candidate with room that a unit offers; a member that is a terrace or a group offers its first-ranked
basin under its own handle (R332, R351). -/
def State.candidate (s : State) (d : Desc) : Nat → Nat → Option Cand
  | 0, _ => none
  | fuel + 1, h =>
    let l := h % 2 ^ 16
    let as (c : Option Cand) : Option Cand := c.map fun c => { c with handle := l }
    let one (l : Nat) : Option Cand :=
      if s.unitReady l ∧ s.backlog (basinOf l) < 32 then
        some ⟨s.locality (basinOf l) d.locAddr, s.load (basinOf l), l, l, none⟩ else none
    if !s.isHere (h / 2 ^ 16) then
      let m := h / 2 ^ 16
      -- a unit of another member counts as ready (log 21)
      if s.isPeer m && s.acceptsIn d 1 h then some ⟨s.farClass m l d.locAddr, s.farLoad m l, l, l, some m⟩ else none
    else
      match unitKind l with
      | none => none
      | some .device =>
        if d.accepts .basin then as (bestOf ((List.range 35).filterMap fun t => s.candidate d fuel (hereHandle (0x100 + t))))
        else none
      | some .terrace =>
        if s.unitReady l ∧ d.accepts .basin then
          as (bestOf ((List.range 4).filterMap fun b => one (0x200 + 4 * (l - 0x100) + b)))
        else none
      | some .group => as (bestOf ((Tab.getD s.groups l []).filterMap fun m => s.candidate d fuel m))
      | some k => if d.accepts k then one l else none

/-- Depth of the unit tree a handle can span (R22): sixteen groups, the device and a terrace. -/
def treeDepth : Nat := 20

/-- The handles of the basins whose slots op.a_src and op.w_src name, where the opcode reads them (R276); a basin here has
device index 0xFF. -/
def State.slotBasins (s : State) (d : Desc) : List Nat :=
  (d.addrs.filter fun a => a.1 = 56 || a.1 = 64).filterMap fun a =>
    if isSlotRef a.2 then
      some (match s.slotBasin a.2 with | some q => hereHandle (0x200 + q) | none => slotUnit a.2)
    else none

/-- Is a basin among the members that a target's dispatcher chooses from (R276)? -/
def State.isMember (s : State) : Nat → Nat → Nat → Bool
  | 0, _, _ => false
  | fuel + 1, h, u =>
    let l := h % 2 ^ 16
    if !s.isHere (h / 2 ^ 16) then
      h / 2 ^ 16 = u / 2 ^ 16 && match unitKind l with
        | some .device | some .terrace => holdsBasin l (u % 2 ^ 16)
        | _ => l = u % 2 ^ 16
    else if !s.isHere (u / 2 ^ 16) then
      match unitKind l with
      | some .group => (Tab.getD s.groups l []).any fun m => s.isMember fuel m u
      | _ => false
    else match unitKind l with
      | some .group => (Tab.getD s.groups l []).any fun m => s.isMember fuel m u
      | some .device | some .terrace => holdsBasin l (u % 2 ^ 16)
      | _ => l = u % 2 ^ 16

/-- Where R20 places a descriptor that targets a terrace, the device or a group: R276's basin if it is a ready member,
else the best candidate; none where no ready member has room. -/
def State.choose (s : State) (d : Desc) : Option Cand :=
  let plain := s.candidate d treeDepth d.target
  match s.slotBasins d with
  | [] => plain
  | u :: r =>
    let ready := !s.isHere (u / 2 ^ 16) || s.unitReady (u % 2 ^ 16)
    if r.all (· = u) ∧ s.isMember treeDepth d.target u ∧ ready ∧ d.accepts .basin then s.candidate d 1 u else plain

end Sys2Proof.Machine
end

