-- ==== Sys2Proof/Machine/PlaneSets.lean ====
section
/-! DEFINITION. The plane sets of the jets and the stores of the sparse engines, with the status registers that show them (R69,
R70, R79, R167, R169, R179). -/

namespace Sys2Proof.Machine

/-- The sparse engine of a jet's pair (R167); a reserve jet has none. -/
def engineOf (x : Nat) : Option Nat := if x < 560 then some (x / 2) else none

/-- The jets of a jet's basin; a reserve jet stands alone. -/
def lockJets (x : Nat) : List Nat := if x < 560 then (List.range 4).map (x / 4 * 4 + ·) else [x]

/-- Plane sets that hold nothing. -/
def JetSets.empty : JetSets := ⟨none, none, [], [], []⟩

/-- Plane sets of a jet. -/
def State.setsOf (s : State) (x : Nat) : JetSets := Tab.getD s.jets x JetSets.empty

/-- The state and shadow_full fields of JT_STATUS in line with a jet's plane sets; a halted or spared jet keeps its
state. -/
def State.showJet (s : State) (x : Nat) : State :=
  let u := s.physJ x
  let js := s.setsOf x
  let s := if 2 ≤ s.fld (rk .JT_STATUS u) 0 2 then s else s.setFld (rk .JT_STATUS u) 0 2 (flagNat js.active.isSome)
  s.setFld (rk .JT_STATUS u) 2 1 (flagNat js.shadow.isSome)

/-- Plane sets of a jet replaced; an empty entry is not kept. -/
def State.putSets (s : State) (x : Nat) (js : JetSets) : State :=
  ({ s with jets := if js = JetSets.empty then Tab.del s.jets x else Tab.put s.jets x js }).showJet x

/-- The stores of a sparse engine (R169). -/
def State.storesOf (s : State) (e : Nat) : EngSets := Tab.getD s.engines e ⟨none, none, []⟩

/-- The logical engines that the engine serving `e` serves (R448). -/
def State.sharers (s : State) (e : Nat) : List Nat := [e, e ^^^ 1].filter fun x => s.physE x = s.physE e

/-- The state and shadow_full fields of SE_STATUS in line with an engine's stores; an engine out of service keeps its
state. State 2, halted for debug, is never shown: a halt is of a jet, and no rule names one of an engine (log 33). -/
def State.showEngine (s : State) (e : Nat) : State :=
  let u := s.physE e
  let es := (s.sharers e).map s.storesOf
  let s := if 2 ≤ s.fld (rk .SE_STATUS u) 0 2 then s else s.setFld (rk .SE_STATUS u) 0 2 (flagNat (es.any (·.active.isSome)))
  s.setFld (rk .SE_STATUS u) 2 1 (flagNat (es.any fun x => x.shadow.any (·.loaded)))

/-- The stores of a sparse engine replaced; the oldest span that waits takes a shadow store that is free. -/
def State.putStores (s : State) (e : Nat) (es : EngSets) : State :=
  let es := if es.shadow.isNone then { es with shadow := es.waiting.head?, waiting := es.waiting.drop 1 } else es
  ({ s with engines := if es = (⟨none, none, []⟩ : EngSets) then Tab.del s.engines e else Tab.put s.engines e es }).showEngine e

/-- Is a sparse engine busy: both its stores hold unfinished spans (R167)? One that serves both pairs of its basin is busy
whenever either store holds a span (R448). -/
def State.engineBusy (s : State) (e : Nat) : Bool :=
  let es := s.storesOf e
  if (s.sharers e).length = 2 then
    (s.sharers e).any fun x => let es := s.storesOf x; es.active.isSome || es.shadow.isSome || !es.waiting.isEmpty
  else es.active.isSome && es.shadow.isSome || !es.waiting.isEmpty

/-- The span that ran on an engine has finished (R179). -/
def State.endSpan (s : State) (e : Nat) : State :=
  match (s.storesOf e).active with
  | none => s
  | some _ => (s.bump (rk .SE_SPANS_RUN (s.physE e))).putStores e { s.storesOf e with active := none }

/-- The finished spans of jet `x` leave its engine (R167): its lanes go on. -/
def State.spanOver (s : State) (x : Nat) : State :=
  match engineOf x with
  | none => s
  | some e => match (s.storesOf e).active with
    | some a => if a.jet = x then s.endSpan e else s
    | none => s

/-! ### A descriptor's tiles taken off -/

/-- Plane sets without the weight tiles of a descriptor. -/
def JetSets.without (x : JetSets) (jid : Nat) : JetSets :=
  { active := x.active.filter fun t => t.load.jid ≠ jid
    shadow := x.shadow.filter fun t => t.load.jid ≠ jid
    loads := x.loads.filter fun t => t.jid ≠ jid
    spans := x.spans.filter fun l => !l.any fun t => t.jid = jid
    paused := x.paused.filter fun t => t.jid ≠ jid }

/-- Is a span a descriptor's? -/
def EngSpan.isOf (x : EngSpan) (jid : Nat) : Bool := x.tiles.any fun t => t.jid = jid

/-- An engine's stores without the spans of a descriptor. -/
def EngSets.without (x : EngSets) (jid : Nat) : EngSets :=
  ⟨x.active.filter fun t => !t.isOf jid, x.shadow.filter fun t => !t.isOf jid, x.waiting.filter fun t => !t.isOf jid⟩

/-- Does an interrupted tile wait on a jet, or in lock-step on its basin (R305, R308)? -/
def State.interrupted (s : State) (x : Nat) : Bool :=
  (lockJets x).any fun y =>
    let js := s.setsOf y
    let mine (l : TileLoad) : Bool := l.ran.isSome && (y = x || l.lock)
    js.paused.any mine || js.loads.any mine || js.shadow.any fun t => mine t.load

/-- JT_STATUS.preempted clears on the jets of a basin that no interrupted tile waits for (R308). -/
def State.quiet (s : State) (x : Nat) : State :=
  (lockJets x).foldl (fun s y =>
    if s.bit (rk .JT_STATUS (s.physJ y)) 3 && !s.interrupted y then s.setFld (rk .JT_STATUS (s.physJ y)) 3 1 0 else s) s

/-- No weight tile or span of a descriptor stands on a jet or an engine any more. The last tile of an ended descriptor is no
active tile of its jet (log 47). -/
def State.unload (s : State) (jid : Nat) : State :=
  let mine := s.jets.filter fun e => e.2.without jid ≠ e.2
  let s := mine.foldl (fun s e => (s.putSets e.1 (e.2.without jid)).quiet e.1) s
  (s.engines.filter fun e => e.2.without jid ≠ e.2).foldl (fun s e => s.putStores e.1 (e.2.without jid)) s

end Sys2Proof.Machine
end

