-- ==== Sys2Proof/Machine/Flags.lean ====
section
/-! DEFINITION. Descriptors in flight: their table, completion flags and completion records (R290, R291). -/

namespace Sys2Proof.Machine

/-! ### Flag bits (R291) -/

/-- SAT. -/
def flSat : Nat := 0
/-- NONFINITE. -/
def flNonfinite : Nat := 1
/-- BOUND_LAPSED. -/
def flLapsed : Nat := 2
/-- GOV_ACTIVE. -/
def flGov : Nat := 3
/-- PARTIAL. -/
def flPartial : Nat := 4
/-- NOOP. -/
def flNoop : Nat := 5
/-- PRECISION_MISMATCH. -/
def flPrecision : Nat := 6
/-- SPARSE_DECLINED. -/
def flDeclined : Nat := 7
/-- HALO_SAMPLED. -/
def flHalo : Nat := 8
/-- DEADLINE_MISSED. -/
def flDeadline : Nat := 9
/-- REMOTE. -/
def flRemote : Nat := 10
/-- PREEMPTED. -/
def flPreempted : Nat := 11

/-- The descriptor with a flag set where `c` holds. -/
def Job.mark (j : Job) (i : Nat) (c : Bool) : Job := if c then { j with flags := j.flags ||| 2 ^ i } else j

/-! ### The descriptors in flight -/

/-- A descriptor in flight by its dispatch number. -/
def State.job? (s : State) (jid : Nat) : Option Job := s.jobs.find? fun j => j.jid = jid

/-- A descriptor's entry replaced. -/
def State.putJob (s : State) (j : Job) : State := { s with jobs := s.jobs.map fun x => if x.jid = j.jid then j else x }

/-- A descriptor removed. -/
def State.dropJob (s : State) (jid : Nat) : State := { s with jobs := s.jobs.filter fun x => x.jid ≠ jid }

/-- Ended descriptors stand last, in the order in which they completed (R293). -/
def State.endJob (s : State) (j : Job) (status detail : Nat) : State :=
  let s := s.unload j.jid
  { s with jobs := (s.jobs.filter fun x => x.jid ≠ j.jid) ++
      [{ j with
        phase := .done, status := status, detail := detail, ended := s.tk, carry := [], books := [], fused := [], queued := [], tried := []
        drained := [], dense := [] }] }

/-- Slot tokens a descriptor claimed are given back with full left at 0 (R260). -/
def State.giveBack (s : State) (cs : List (Nat × Nat)) (op : Nat := 0) : State :=
  cs.foldl (fun s c => s.slotFill c.1 c.2 false op) s

/-- Slot tokens a descriptor claimed set FULL (R258). -/
def State.fillAll (s : State) (cs : List (Nat × Nat)) (op : Nat := 0) : State :=
  cs.foldl (fun s c => s.slotFill c.1 c.2 true op) s

/-- A descriptor that fails a check of R288: no effect, its record carries the status. -/
def State.reject (s : State) (j : Job) (e : Err) : State := s.endJob { j with claimed := [], reads := [] } e.1 e.2

/-- A descriptor ends with SUCCESS: the slots it wrote are FULL, those it read are emptied at its record (R258, R259). -/
def State.succeed (s : State) (j : Job) : State :=
  (s.fillAll j.claimed (j.jid + 1)).endJob { j with claimed := [] } 0 0

/-- The next step's effect if the descriptor is in a phase, and the state as it was otherwise: an event that is not due
changes nothing (log 7). -/
def State.whenJob (s : State) (jid : Nat) (ok : Job → Bool) (f : Job → State) : State :=
  match s.job? jid with
  | some j => if ok j then f j else s
  | none => s

/-- b-cycles from issue to now, saturating; 0 if the descriptor was rejected before issue (R290). -/
def Job.cycles (j : Job) (tk : Nat) : Nat :=
  match j.issued with
  | some t => min ((tk - t) / 20) (2 ^ 32 - 1)
  | none => 0

/-- The 32 bytes of a completion record (R290); `index` is the device index its unit handle carries. -/
def Job.record (j : Job) (tk index flags phase : Nat) : List Byte :=
  leBytes 2 j.status ++ leBytes 2 flags ++ leBytes 4 j.seq ++ leBytes 2 j.ring ++
  leBytes 1 (if j.dzAny then j.dzLo else 0) ++ leBytes 1 (if j.dzAny then j.dzHi else 0) ++ leBytes 4 (j.cycles tk) ++
  leBytes 3 (if j.unit = 0 then 0 else index * 2 ^ 16 + j.unit) ++ leBytes 1 j.d.opcode ++ leBytes 4 j.detail ++
  leBytes 7 0 ++ leBytes 1 (128 * phase)

/-- A flag for every descriptor that a basin runs now (R497). -/
def State.markBasin (s : State) (q i : Nat) : State :=
  { s with jobs := s.jobs.map fun j =>
      j.mark i (j.issued.isSome && j.phase ≠ .done && j.unit ≠ 0 && j.unit ≠ 1 && basinOf j.unit = q) }

end Sys2Proof.Machine
end

