-- ==== Sys2Proof/Machine/Holders.lean ====
section
/-! DEFINITION. Nimbus's resource table: holders, their precedence and defaults, and readiness with them (R19, R28, R367,
R438, R465). -/

namespace Sys2Proof.Machine

/-- Resource ids (R367). -/
def resPps : Nat := 1
/-- TELEMETRY_TIMER. -/
def resTimer : Nat := 2
/-- RESERVE_JET_t of a logical terrace. -/
def resJet (t : Nat) : Nat := 0x100 + t
/-- DEBUG_VIEW_t of a logical terrace. -/
def resView (t : Nat) : Nat := 0x200 + t

/-- A resource given to a holder, shown in the registers of a reserve jet (R79, R465). -/
def State.setHolder (s : State) (r h : Nat) : State :=
  let s := { s with holders := if h = 0 then Tab.del s.holders r else Tab.put s.holders r h }
  if 0x100 ≤ r ∧ r < 0x123 then
    let p := s.physT (r - 0x100)
    let s := s.setFld (rk .JT_STATUS (17 * p + 16)) 4 1 (flagNat (h = 3 || h = 4))
    (s.setFld (rk .TR_RESERVE p) 0 1 (flagNat (h = 3))).setFld (rk .TR_RESERVE p) 5 1 (flagNat (h = 4))
  else s

/-- Halo takes every free reserve jet that is ready, or yields all it holds while HL_CTRL.disable is 1; the power cap takes
the telemetry timer once Nimbus is ready (R438). -/
def State.holdDefaults (s : State) : State :=
  let s := if s.nimbus && s.holder resTimer = 0 then s.setHolder resTimer 5 else s
  let off := s.bit (rk .HL_CTRL) 0
  let halo := s.haloReady
  (List.range 35).foldl (fun s t =>
    let h := s.holder (resJet t)
    if off then (if h = 4 then s.setHolder (resJet t) 0 else s)
    else if halo && h = 0 && s.terraceReady t then s.setHolder (resJet t) 4
    else s) s

/-- A terrace's own readiness and its basins', set or cleared together. -/
def State.setTerrace (s : State) (t : Nat) (b : Bool) : State :=
  (List.range 4).foldl (fun s i => s.setOwn (192 + 4 * t + i) b) (s.setOwn (128 + t) b)

/-- The lowest-numbered reserve terrace that is ready (R456). -/
def State.readyReserve (s : State) : Option Nat := [32, 33, 34].find? s.terraceReady

/-- The lowest-numbered logical terrace that waits for a reserve takes the first that is ready: its failover starts and the
reserve is no unit of its own any more (R18, R456, R458). -/
def State.takeReserve (s : State) : State :=
  match List.find? (fun e => e.2 = 0) s.failing, s.readyReserve with
  | some e, some r => ({ s with failing := Tab.put s.failing e.1 r }.setTerrace r false).refreshReady
  | _, _ => s

/-- SP_STATUS: ready reserve terraces not in use, and ready terraces whose reserve jet sparing does not hold (R464). -/
def State.showSpares (s : State) : State :=
  let a := ([32, 33, 34].filter s.terraceReady).length
  let b := ((List.range 35).filter fun t => s.terraceReady t && !s.spared t).length
  let w := BitVec.ofNat 64 (a + 4 * b)
  if s.reg (rk .SP_STATUS) = w then s else s.setReg (rk .SP_STATUS) w

/-- READY_MAP, reserve terraces and the default holders in line with the conditions (R27, R369, R438, R456). -/
def State.settle (s : State) : State := s.refreshReady.takeReserve.takeReserve.takeReserve.holdDefaults.showSpares

/-! ### The timing distributor's claim of PPS_OUT -/

/-- TM_STATUS.pps_out: the timing distributor holds the pin and drives it (R398, R399). -/
def State.showPps (s : State) : State := s.setFld (rk .TM_STATUS) 5 1 (flagNat (s.holder resPps = 6))

/-- The distributor's join claims PPS_OUT, or waits while another holds it (R438). -/
def State.claimPps (s : State) : State :=
  if s.holder resPps = 0 then ({ s with ppsWait := false }.setHolder resPps 6).showPps
  else if s.holder resPps = 6 then s
  else { s with ppsWait := true }

/-- A resource released; a waiting claim of the distributor is granted. -/
def State.freeHolder (s : State) (r : Nat) : State :=
  let s := s.setHolder r 0
  if r = resPps ∧ s.ppsWait then s.claimPps else s

/-! ### Debug halts -/

/-- A jet's physical unit is halted for debug (R117). -/
def State.haltedU (s : State) (u : Nat) : Bool := s.fld (rk .JT_STATUS u) 0 2 = 2

/-- A logical jet is halted. -/
def State.halted (s : State) (x : Nat) : Bool := s.haltedU (s.physJ x)

/-- Logical jets of a terrace, its reserve jet last. -/
def logicalJets (t : Nat) : List Nat := (List.range 16).map (16 * t + ·) ++ [560 + t]

/-- HI_DBG_HALT.halted in line with the jet that HI_DBG_SEL names. -/
def State.showHalt (s : State) : State :=
  s.setFld (rk .HI_DBG_HALT) 1 1 (flagNat (s.haltedU (s.fld (rk .HI_DBG_SEL) 0 10)))

/-- A halted jet resumed: idle, or running if its active set holds a tile. -/
def State.resumeU (s : State) (u : Nat) : State :=
  if s.haltedU u then
    let on := s.jets.any fun e => s.physJ e.1 = u && e.2.active.isSome
    (s.setFld (rk .JT_STATUS u) 0 2 (flagNat on)).showHalt
  else s

/-- Every halted jet of a logical terrace resumed (R438). -/
def State.resumeView (s : State) (t : Nat) : State := (logicalJets t).foldl (fun s x => s.resumeU (s.physJ x)) s

end Sys2Proof.Machine
end

