-- ==== Sys2Proof/Machine/Operands.lean ====
section
/-! DEFINITION. Operand forms at issue: bounds, formats and their checks, metadata blocks and their addresses, output
tiles and jets, accumulation checks, slot tokens, and the order of the checks of R288 steps 7 to 12. -/

namespace Sys2Proof.Machine

/-! ### Shapes and jets -/

/-- Rows and columns of one output tile of a shape (R294). -/
def Desc.tileDims (d : Desc) : Nat × Nat :=
  if d.shape = 1 then (256, 512) else if d.shape = 2 then (256, 128) else if d.shape = 3 then (512, 256)
  else if d.shape = 5 then (32, 512) else (256, 128)

/-- Output tiles of the job: row tiles and column tiles (R297). -/
def Job.tiles (j : Job) : Nat × Nat := (ceilDiv j.bm j.d.tileDims.1, ceilDiv j.bn j.d.tileDims.2)

/-- Number of output tiles. -/
def Job.tileCount (j : Job) : Nat := j.tiles.1 * j.tiles.2

/-- The jets of a unit: its own, an engine's home jet (R168), a reserve jet, or a basin's four. -/
def unitJets (l : Nat) : List Nat :=
  match unitKind l with
  | some .jet => [l - 0x400]
  | some .engine => [2 * (l - 0x800)]
  | some .reserve => [560 + (l - 0xC00)]
  | some .basin => (List.range 4).map (4 * (l - 0x200) + ·)
  | _ => []

/-- Is the unit a whole basin? -/
def isBasinUnit (l : Nat) : Bool := decide (0x200 ≤ l) && decide (l < 0x28C)

/-- The jets a descriptor's shape uses (R97, R168, R294, R298). -/
def Job.jets (j : Job) : List Nat :=
  let js := unitJets j.unit
  if isBasinUnit j.unit ∧ j.d.opcode ≠ opDrain ∧ j.d.opcode ≠ opFused then
    if j.d.shape = 6 then js.take 1
    else if j.d.shape = 4 then js.take (max 1 (min 4 j.tileCount))
    else js
  else js

/-- Part of an output tile that one jet forms: first row and rows of the group's range, column offset and columns in the
tile, the row offset in the tile, and for COLUMN the jet's quarter (R294). -/
structure Part where
  jet : Nat
  row : Nat
  rows : Nat
  col : Nat
  cols : Nat
  quarter : Option Nat
  deriving DecidableEq, Repr

/-- The parts of output tile number `q` with `m` rows and `n` columns. -/
def Job.parts (j : Job) (q m n : Nat) : List Part :=
  let js := unitJets j.unit
  let at' (i : Nat) : Nat := js.getD i (js.getD 0 0)
  if !isBasinUnit j.unit then [⟨at' 0, 0, m, 0, n, none⟩]
  else if j.d.shape = 2 then (List.range 4).map fun i => ⟨at' i, 0, m, 0, n, some i⟩
  else if j.d.shape = 3 then
    (List.range 4).map fun i =>
      ⟨at' i, 256 * (i / 2), min 256 (m - 256 * (i / 2)), 128 * (i % 2), min 128 (n - 128 * (i % 2)), none⟩
  else if j.d.shape = 4 then [⟨at' (q % 4), 0, m, 0, n, none⟩]
  else if j.d.shape = 6 then [⟨at' 0, 0, m, 0, n, none⟩]
  else (List.range 4).map fun i => ⟨at' i, 0, m, 128 * i, min 128 (n - 128 * i), none⟩

/-- Place of output tile `q` (R298): first row and column, rows and columns. -/
def Job.tileAt (j : Job) (q : Nat) : Nat × Nat × Nat × Nat :=
  let t := j.d.tileDims
  let c := max 1 j.tiles.2
  let m0 := q / c * t.1
  let n0 := q % c * t.2
  (m0, n0, min t.1 (j.bm - m0), min t.2 (j.bn - n0))

/-! ### Ends -/

/-- Does the descriptor hold an accumulation group of its own or add to one? -/
def Desc.usesGroup (d : Desc) : Bool := d.readsAcc || d.opcode = opDrain

/-- Has a descriptor not met R100's checks yet: it has not issued, or it waits for its metadata block (R259, R288)? CHECKNODE's degree
bytes are no such block. -/
def Job.unissued (j : Job) : Bool :=
  j.phase = .dispatched ||
    (j.phase = .waiting && j.block.isEmpty && j.d.metaSrc ≠ 0 && j.d.opcode ≠ opCheck && j.d.addrs.any fun x => x.1 = 72)

/-- Accumulation group `g` of jet `j` closed (R88, R98). -/
def State.shut (s : State) (j g : Nat) : State := { s with grp := Tab.del s.grp (grpKey j g) }

/-- A descriptor ends with an error: the group it adds to closes without output (R88), it changes no token but gives back
what it claimed (R260). -/
def State.failJob (s : State) (j : Job) (status detail : Nat) : State :=
  let s := if j.issued.isSome && j.d.readsAcc && !(j.unissued && j.d.accBegin) then j.jets.foldl (fun s x => s.shut x j.d.accGroup) s else s
  (s.giveBack j.claimed (j.jid + 1)).endJob { j with claimed := [], reads := [] } status detail

/-! ### Who reads, bounds -/

/-- The unit that makes a descriptor's accesses: its basin as owner (R245), or for the device itself Zenith's transfers
(R246). -/
def Job.who (j : Job) : Who :=
  if j.unit = 1 then ⟨none, 5, devHandle, false, j.jid + 1⟩
  else ⟨some (basinOf j.unit), 0, hereHandle j.unit, j.watch, j.jid + 1⟩

/-- The span of a MEM bounds record (R278). -/
def Desc.boundsSpan (d : Desc) : Span := ⟨d.m + 2 ^ 32 * d.n, 0, 12⟩

/-- M, N and K (R278, R279). -/
def State.bounds (s : State) (j : Job) : Nat × Nat × Nat :=
  let d := j.d
  if d.boundsSrc = 1 then
    let r := d.m % 256
    (s.fld (rk .QE_BOUNDS_LO 0 r) 0 32, s.fld (rk .QE_BOUNDS_LO 0 r) 32 32, s.fld (rk .QE_BOUNDS_HI 0 r) 0 32)
  else if d.boundsSrc = 2 then
    let b := s.peek j.who (d.m + 2 ^ 32 * d.n) 0 12
    (fieldAt b 0 4, fieldAt b 4 4, fieldAt b 8 4)
  else (d.m, d.n, d.k)

/-- Step 7 (R280). A conversion of EMU_BASAD ignores N (R234). CHECKNODE, which R280 lists, is held to its limit on K although
R138 ignores K (log 28). -/
def Desc.rangeCheck (d : Desc) (m n k : Nat) : Option Err :=
  let general := d.among [opMatmul, opFused, opCheck, opConvert, opGather, opUpdate, opHaze, opForecast, opEmu, opReduce]
  if general ∧ 2 ^ 24 - 1 < m then some (stRange, 0)
  else if general ∧ !(d.opcode = opEmu && !d.isDot) ∧ 2 ^ 24 - 1 < n then some (stRange, 1)
  else if general ∧ 2 ^ 26 < k then some (stRange, 2)
  else if d.opcode = opReduce ∧ (k = 0 ∨ 8 < k) then some (stRange, 3)
  else if d.opcode = opBarrier ∧ 65536 < n then some (stRange, 3)
  else none

/-! ### Formats -/

/-- The serial operand's format. -/
def Desc.serial (d : Desc) : Fmt := (Fmt.ofCode .serial d.serialFmt d.serialBits).getD (.int 8)
/-- The broad operand's format. -/
def Desc.broad (d : Desc) : Fmt := (Fmt.ofCode .broad d.broadFmt d.broadBits).getD (.int 8)
/-- The output's format. -/
def Desc.out (d : Desc) : Fmt := (Fmt.ofOut d.outFmt).getD .fp32
/-- Packing factor (R46). -/
def Desc.pack (d : Desc) : Nat := d.broad.pack d.broadPasses
/-- LOG4 × LOG4. -/
def Desc.log (d : Desc) : Bool := d.serial = .log4 && d.broad = .log4

/-- Is a format STREAM? -/
def Fmt.isStream : Fmt → Bool
  | .stream _ => true
  | _ => false

/-- R33, for the formats an opcode reads. -/
def Desc.pairOk (d : Desc) : Bool :=
  (!(d.readsSerial && d.readsBroad) || (decide (d.serial = .log4) == decide (d.broad = .log4))) &&
  (!d.readsBroad || d.broad ≠ .code4) &&
  (d.opcode = opEmu || !(d.readsSerial && d.serial.isStream) && !(d.readsBroad && d.broad.isStream) &&
    !(d.readsOut && d.out.isStream)) &&
  (!d.readsBroad || d.broad.passesOk d.broadPasses)

/-- R60, for opcodes that read a serial format for the plane store. -/
def Desc.planesOk (d : Desc) : Bool :=
  !(d.readsSerial && d.readsBroad) || decide (d.serial.planes d.serialBits * d.pack ≤ 16)

/-- R83, for opcodes that read op.tree_group. -/
def Desc.treeOk (d : Desc) : Bool :=
  let ok (f : Fmt) : Bool := f.block = 0 || f.block % d.tree = 0
  !(d.readsAcc && d.opcode ≠ opCheck) || ok d.serial && ok d.broad

/-- R211: mode WEIR needs the MX output format that the slot's weir_fmt names; EMU_BASAD takes no mode but NONE, as its own
table says after its shape (R235). -/
def State.weirOk (s : State) (d : Desc) : Bool :=
  d.opcode = opEmu || !(d.readsScale && d.readsOut && d.scaleMode = 3) ||
  match s.fld (rk .WR_SLOT_CFG 0 d.slot) 9 3 with
  | 1 => d.out = .e2m1
  | 2 => d.out = .e3m2
  | 3 => d.out = .e2m3
  | 4 => d.out = .e4m3
  | 5 => d.out = .e5m2
  | 6 => d.out = .mxint8
  | _ => false

/-- Step 8 (R33, R60, R83, R211). -/
def State.formatCheck (s : State) (d : Desc) : Option Err :=
  if d.pairOk && d.planesOk && d.treeOk && s.weirOk d then none else some (stFormat, 0)

/-! ### Metadata blocks -/

/-- An address field of a block: its byte, its value, whether Genash reads through it, and whether R274 needs a 64-byte
boundary. -/
structure Fld where
  byte : Nat
  addr : Nat
  reads : Bool
  aligned : Bool
  deriving DecidableEq, Repr

/-- A slot reference on a basin other than the one that runs the descriptor (R276). -/
def State.strayRef (s : State) (j : Job) (a : Nat) : Bool :=
  isSlotRef a && match s.slotBasin a with | none => true | some q => decide (j.who.basin ≠ some q)

/-- The first part of step 9: reserved bytes `bad` of the block, its addresses (R273, R274), then slot references on
another basin, of the descriptor's reading fields `own` and the block's (R276). -/
def State.blockCheck (s : State) (j : Job) (bad : List Nat) (own : List (Nat × Nat)) (fs : List Fld) : Option Err :=
  let res := bad ++ fs.filterMap fun f => if addrReserved f.addr ≠ 0 then some (f.byte + lowByte (addrReserved f.addr)) else none
  match minOf res with
  | some b => some (stField, 256 + b)
  | none =>
    match fs.find? fun f => !s.addrOk f.addr f.aligned with
    | some f => some (stAddr, 256 + f.byte)
    | none =>
      match own.find? fun a => s.strayRef j a.2 with
      | some a => some (stAddr, a.1)
      | none =>
        match fs.find? fun f => f.reads && s.strayRef j f.addr with
        | some f => some (stAddr, 256 + f.byte)
        | none => none

/-- Bytes among `l` of a block that are not 0. -/
def nonzeroBytes (bs : List Byte) (l : List Nat) : List Nat := l.filter fun i => fieldAt bs i 1 ≠ 0

/-- The sparse operand block's fields (R159); all 0 where op.meta_src is 0. -/
structure SparseBlk where
  aDir : Nat
  wDir : Nat
  om : OutMeta
  aStride : Nat
  wStride : Nat
  deriving DecidableEq, Repr

/-- The sparse operand block that bytes spell. -/
def SparseBlk.ofBytes (bs : List Byte) : SparseBlk where
  aDir := fieldAt bs 0 8
  wDir := fieldAt bs 8 8
  om := ⟨fieldAt bs 16 8, fieldAt bs 24 8, fieldAt bs 40 4, decide (bitsOf (fieldAt bs 44 1) 0 1 = 1)⟩
  aStride := fieldAt bs 32 4
  wStride := fieldAt bs 36 4

/-- Reserved bytes of a sparse operand block that are not 0. -/
def sparseBad (bs : List Byte) : List Nat :=
  (if bitsOf (fieldAt bs 44 1) 1 7 ≠ 0 then [44] else []) ++ nonzeroBytes bs ((List.range 19).map (45 + ·))

/-! ### Slot tokens -/

/-- The slot (basin, number) that an address names, on this device or on another member. -/
def State.slotOf (s : State) (a : Nat) : Option (Nat × Nat) :=
  if isSlotRef a then some ((s.slotBasin a).getD (remoteBasin (slotUnit a)), slotNum a) else none

/-- The slots that addresses name here, each once. -/
def State.slotsOf (s : State) (as : List Nat) : List (Nat × Nat) := (as.filterMap s.slotOf).eraseDups

/-- May a writer claim a slot: it is EMPTY and unclaimed (R258)? A slot of another member is taken as free: its token is not of
this device's state (log 17). -/
def State.slotFree (s : State) (c : Nat × Nat) : Bool := isRemote c.1 || (!s.slotFull c.1 c.2 && !s.slotClaimed c.1 c.2)

/-- The first token that a descriptor lacks: a slot that it reads and that is not FULL, then one that it writes and can not
claim (R258, R259, R261). -/
def State.lacking (s : State) (j : Job) (rd wr : List (Nat × Nat)) : Option (Nat × Nat) :=
  match rd.find? fun c => !s.slotFull c.1 c.2 with
  | some c => some c
  | none => wr.find? fun c => !j.claimed.contains c && !s.slotFree c

/-- Slots claimed in order, up to the first that is not free: each in the b-cycle in which it is (R258). -/
def State.claimFree (s : State) (j : Job) : List (Nat × Nat) → State × Job
  | [] => (s, j)
  | c :: r =>
    if j.claimed.contains c then s.claimFree j r
    else if s.slotFree c then (s.slotClaim c.1 c.2 (j.jid + 1)).claimFree { j with claimed := j.claimed ++ [c] } r
    else (s, j)

/-- The tokens of the slots that a descriptor reads, then of those that it writes, taken as far as they are there; what it
then waits for, if anything. -/
def State.takeTokens (s : State) (j : Job) (rd wr : List (Nat × Nat)) : State × Job × Option (Nat × Nat) :=
  let a := if rd.all fun c => s.slotFull c.1 c.2 then s.claimFree j wr else (s, j)
  (a.1, a.2, a.1.lacking a.2 rd wr)

/-- A descriptor that waits on a token, counted from now (R261). -/
def State.waitToken (s : State) (j : Job) (ph : Phase) (c : Option (Nat × Nat)) : State :=
  s.putJob { j with phase := ph, waitFrom := s.tk, waitOn := c }

/-! ### Accumulation groups at issue -/

/-- R of R97. -/
def Desc.rowCount (d : Desc) (m : Nat) : Nat := if d.shape = 5 then min m 32 else min m 256

/-- Packing factor of a FUSED_PAIR's P by its width (R122). -/
def packOfWidth (w : Nat) : Nat := if w ≤ 5 then 2 else 1

/-- Accumulator rows a descriptor occupies on a jet: R of R97, or as the opcode's own rule gives (R123, R192, R199). Before
a FUSED_PAIR's block is read, every row from op.acc_row0 on. -/
def Job.accRows (j : Job) : Nat :=
  if j.d.opcode = opFused then
    (if j.block.isEmpty then 256 - j.d.accRow0 else (packOfWidth (fieldAt j.block 46 1) + 1) * j.bm)
  else if j.d.opcode = opForecast then 2 * j.bm
  else if j.d.opcode = opHaze then j.bm
  else j.d.rowCount j.bm

/-- Does a descriptor hold P slots of a basin: a fused pair that has issued there and not ended (R135)? -/
def Job.holdsP (j : Job) (q : Nat) : Bool :=
  j.d.opcode = opFused && j.issued.isSome && j.phase ≠ .done && j.phase ≠ .away && isBasinUnit j.unit && basinOf j.unit = q

/-- Open for R100: a group whose closing drain is due counts as closed, as if its descriptor had completed. -/
def State.open? (s : State) (x g : Nat) : Option Group := (s.group? x g).filter fun r => !r.closing

/-- Row ranges that share a row. -/
def overlaps (a n b m : Nat) : Bool := decide (a < b + m) && decide (b < a + n)

/-- Does another group of jet `x` that `p` selects share a row with `r0 … r0 + n - 1`? -/
def State.rowClash (s : State) (x g r0 n : Nat) (p : Group → Bool) : Bool :=
  (List.range 8).any fun h => h ≠ g && match s.group? x h with
    | some r => p r && overlaps r0 n r.row0 r.rows
    | none => false

/-- Scale domain of the descriptor (R87). -/
def Desc.domain (d : Desc) : Nat := domainOf d.accKind d.serial d.broad

/-- Step 11 (R100) with step 9 of its table (R96). -/
def State.accCheck (s : State) (j : Job) (shape : Nat) (k : Nat) : Option Err :=
  let d := j.d
  let g := d.accGroup
  let single := match unitKind (d.target % 2 ^ 16) with
    | some .jet | some .basin | some .engine | some .reserve => true
    | _ => false
  let R := j.accRows
  let js := j.jets
  let drain := d.opcode = opDrain
  let shut : Bool := if drain then js.all fun x => (s.open? x g).isNone else js.any fun x => (s.open? x g).isNone
  let gs := js.filterMap fun x => s.open? x g
  if (!d.accBegin || !d.accEnd || drain) && !single then some (stAccState, 0)
  else if drain then (if shut then some (stAccState, 0) else none)
  else if decide (1 < j.tileCount) && !(d.accBegin && d.accEnd) then some (stAccRange, 0)
  else if d.accBegin && js.any (fun x => (s.open? x g).isSome) then some (stAccState, 0)
  else if d.accBegin && (decide (256 < d.accRow0 + R) || js.any fun x => s.rowClash x g d.accRow0 R fun r => !r.closing) then
    some (stAccRange, 0)
  else if !d.accBegin && shut then some (stAccState, 0)
  else
    let gs := if d.accBegin then [] else gs
    if gs.any fun r => r.shape ≠ shape then some (stAccState, 0)
    else if gs.any fun r => r.row0 ≠ d.accRow0 || r.rows ≠ R || r.n ≠ j.bn then some (stAccRange, 0)
    else if gs.any fun r => r.kind ≠ d.accKind || r.domain ≠ d.domain then some (stPrecision, 0)
    else if d.strict && d.accKind = 1 && decide (2 ^ 22 < (gs.map (·.nTotal)).foldl max 0 + k) then some (stBound, 0)
    else none

/-- Must the descriptor wait for earlier work on its jets: an unfinished descriptor of the same group, a group in its
rows whose closing drain is due, or for a fused pair two others that hold the P slots of its basin (R100, R101, R114, R135)? -/
def State.accBusy (s : State) (j : Job) : Bool :=
  (j.d.opcode = opFused && decide (2 ≤ (s.jobs.filter fun x => x.jid ≠ j.jid && x.holdsP (basinOf j.unit)).length)) ||
  (s.jobs.any fun x => x.jid ≠ j.jid && x.issued.isSome && x.phase ≠ .done && x.d.usesGroup &&
    x.d.accGroup = j.d.accGroup && (unitJets x.unit).any fun y => (unitJets j.unit).contains y) ||
  ((unitJets j.unit).any fun x => match s.group? x j.d.accGroup with | some r => r.closing | none => false) ||
  (j.d.accBegin && j.d.opcode ≠ opDrain && (unitJets j.unit).any fun x => s.rowClash x j.d.accGroup j.d.accRow0 j.accRows fun r => r.closing)

/-- Group `g` of a jet as a descriptor opens it (R87, R97, R98). -/
def Job.openGroup (j : Job) (shape cols live : Nat) (radio : Bool) : Group where
  closing := j.d.accEnd
  kind := j.d.accKind
  domain := j.d.domain
  row0 := j.d.accRow0
  rows := j.accRows
  cols := cols
  nTotal := 0
  sat := false
  lapsed := false
  nonfinite := false
  e := 0
  eSet := false
  shape := shape
  n := j.bn
  live := live
  mTotal := j.bm
  serialFmt := j.d.serialFmt
  serialBits := j.d.serialBits
  broadFmt := j.d.broadFmt
  broadBits := j.d.broadBits
  broadPasses := j.d.broadPasses
  radio := radio
  journal := []
  unjournaled := false
  reads := []

/-- A group opened on a jet: its rows' entries read 0 (R98). -/
def State.openOn (s : State) (x g : Nat) (r : Group) : State :=
  { s with
    acc := accClear s.acc x r.row0 r.rows, accErr := s.accErr.filter fun k => !inRows x r.row0 r.rows k
    grp := Tab.put s.grp (grpKey x g) r }

/-! ### Issue -/

/-- The accumulator rows of a descriptor that has not met R100's checks yet: first and number, the bounds as they stand. -/
def State.rowsDue (s : State) (j : Job) : Nat × Nat := (j.d.accRow0, ({ j with bm := (s.bounds j).1 } : Job).accRows)

/-- Does an earlier descriptor of the jets leave nothing behind that R100's checks of `j` look at: another group, in other rows? A DRAIN
changes no group. -/
def State.apart (s : State) (x j : Job) : Bool :=
  x.d.accGroup ≠ j.d.accGroup && (x.d.opcode = opDrain || j.d.opcode = opDrain ||
    let a := s.rowsDue x
    let b := s.rowsDue j
    !overlaps a.1 a.2 b.1 b.2)

/-- Is it the descriptor's turn on its jets: every descriptor dispatched before it has met R100's checks? Radio-class work goes ahead of
other work (R303) where those checks come out the same as in dispatch order (R85, R100, R101; log 33). -/
def State.turn (s : State) (j : Job) : Bool :=
  let before := s.jobs.takeWhile fun x => x.jid ≠ j.jid
  !j.d.usesGroup || !before.any fun x =>
    x.unissued && x.d.usesGroup && !(x.cls ≠ 0 && j.cls = 0 && s.apart x j) &&
      (unitJets x.unit).any fun y => (unitJets j.unit).contains y

/-- What an opcode brings to issue: its own formats check (after R33, R60 and R83), its block's length, the rest of step 9,
whether step 10 ends it with NOOP, whether R100 applies and with which shape and how many terms (R96, R129), the addresses whose slots it waits to read
and claims to write, the opening of its group, and its effect. -/
structure Op where
  format : State → Job → Option Err
  blockLen : Job → Nat
  check : State → Job → State × Option Err
  noop : Job → Bool
  acc : Bool
  shape : Job → Nat
  terms : Job → Nat
  last : State → Job → State × Option Err
  reads : Job → List Nat
  writes : Job → List Nat
  opens : State → Job → State × Job
  run : State → Job → State

/-- The slots of its own basin that a descriptor reads. -/
def State.readSlots (s : State) (j : Job) (o : Op) : List (Nat × Nat) :=
  (s.slotsOf (o.reads j)).filter fun c => some c.1 = j.who.basin

/-- Does the block at op.meta_src lie in a slot of the basin that is not FULL (R259)? -/
def State.blockWaits (s : State) (j : Job) (n : Nat) : Bool :=
  n ≠ 0 && match s.slotOf j.d.metaSrc with
    | some c => some c.1 = j.who.basin && !s.slotFull c.1 c.2
    | none => false

/-- Tokens, then the effect; where a token is not there the descriptor waits (R258, R259, R261). -/
def State.proceed (s : State) (j : Job) (o : Op) : State :=
  let rd := s.readSlots j o
  match s.takeTokens j rd (s.slotsOf (o.writes j)) with
  | (s, j, some c) => s.waitToken j .waiting (some c)
  | (s, j, none) =>
    let j := { j with reads := rd, phase := .waiting, waitOn := none }
    o.run (s.putJob j) j

/-- Steps 9 to 12 for a descriptor whose block has been read; only CHECKNODE may carry op.reduce = CHECKNODE (R138). -/
def State.afterBlock (s : State) (j : Job) (o : Op) : State :=
  match o.check s j with
  | (s, some e) => s.reject j e
  | (s, none) =>
    if j.d.readsReduce ∧ j.d.reduce = 4 ∧ j.d.opcode ≠ opCheck then s.reject j (stFormat, 0)
    else if o.noop j then s.endJob (j.mark flNoop true) 0 0
    else
      match (if o.acc then s.accCheck j (o.shape j) (o.terms j) else none) with
      | some e => s.reject j e
      | none =>
        match o.last s j with
        | (s, some e) => s.reject j e
        | (s, none) => (o.opens s j).1.proceed (o.opens s j).2 o

/-- Groups reserved for radio on a logical basin (R303). -/
def State.reserved (s : State) (q g : Nat) : Bool := s.bit (rk .TR_RADIO_GROUPS (s.physT (q / 4)) (q % 4)) g

/-- A read at issue that fails ends the descriptor; a group that it continues closes without output (R88, R269, R317). -/
def State.issueFail (s : State) (j : Job) (e : Err) : State :=
  let s := if j.d.readsAcc && !j.d.accBegin then j.jets.foldl (fun s x => s.shut x j.d.accGroup) s else s
  s.reject j e

/-- Bytes of the block at op.meta_src that a descriptor reads. -/
def Op.block (o : Op) (j : Job) : Nat :=
  if j.d.addrs.any (fun x => x.1 = 72) ∧ j.d.metaSrc ≠ 0 then o.blockLen j else 0

/-- Issue from step 9 on: the block, waited for first in a slot that is not FULL (R259), and what follows it. A block behind a
slot reference on another basin is not read (R276). -/
def State.issueBlock (s : State) (j : Job) (o : Op) : State :=
  let a := j.d.metaSrc
  let n := o.block j
  if n ≠ 0 && s.strayRef j a then
    s.reject j (stAddr, ((j.d.addrs.find? fun x => x.1 ≠ 80 && s.strayRef j x.2).map Prod.fst).getD 72)
  else if s.blockWaits j n then s.waitToken j .waiting (s.slotOf a)
  else
    match (if n = 0 then (s, none) else s.readSpan j.who ⟨a, 0, n⟩) with
    | (s, some e) => s.issueFail j e
    | (s, none) => s.afterBlock { j with block := if n = 0 then [] else s.peek j.who a 0 n } o

/-- Issue of a descriptor: its bounds, read once, formats, and on (R277 to R281, R288). Whether its group is reserved for
radio is taken as TR_RADIO_GROUPS stands now (R309). -/
def State.issueAs (s : State) (j : Job) (o : Op) : State :=
  let j := { j with issued := some s.tk, reserved := j.cls = 0 && j.d.readsAcc && s.reserved (basinOf j.unit) j.d.accGroup }
  let mem := j.d.readsBounds && j.d.boundsSrc = 2
  match (if mem then s.readSpan j.who j.d.boundsSpan else (s, none)) with
  | (s, some e) => s.issueFail j e
  | (s, none) =>
    let b := s.bounds j
    let j := { j with bm := b.1, bn := b.2.1, bk := b.2.2 }
    match j.d.rangeCheck j.bm j.bn j.bk with
    | some e => s.reject j e
    | none =>
      match (match s.formatCheck j.d with | some e => some e | none => o.format s j) with
      | some e => s.reject j e
      | none => s.issueBlock j o

/-- Does a descriptor stand on a terrace whose failover runs (R458)? -/
def State.failingOver (s : State) (j : Job) : Bool := j.unit ≠ 1 && (Tab.find? s.failing (basinOf j.unit / 4)).isSome

/-- May a descriptor issue now (R277, R432, R499)? A jet halted for debug takes no work (R117). -/
def State.issueDue (s : State) (j : Job) : Bool :=
  j.phase = .dispatched && j.unit ≠ 0 && !s.dispatchHeld && !s.failingOver j && s.turn j &&
    !(j.d.usesGroup && (unitJets j.unit).any s.halted) &&
    !(j.d.usesGroup && s.accBusy { j with bm := (s.bounds j).1 })

/-- Basin stalls that arise (R267). -/
def State.stall (s : State) (q n : Nat) : State :=
  if n = 0 then s else { s with stallDue := Tab.put s.stallDue q (Tab.getD s.stallDue q 0 + n) }

/-- An issue row of the table: the descriptor issues if it is its turn and it is one of the row's. -/
def State.issueRow (s : State) (r : IssueRun) (mine : Desc → Bool) (o : Op) : State :=
  s.whenJob r.jid (fun j => mine j.d && s.issueDue j) fun j => (s.stall (basinOf j.unit) r.stalls).issueAs j o

/-- No block, no check. -/
def Op.plain (noop : Job → Bool) (reads writes : Job → List Nat) (run : State → Job → State) : Op where
  format := fun _ _ => none
  blockLen := fun _ => 0
  check := fun s _ => (s, none)
  noop := noop
  acc := false
  shape := fun j => j.d.shape
  terms := fun j => j.bk
  last := fun s _ => (s, none)
  reads := reads
  writes := writes
  opens := fun s j => (s, j)
  run := run

end Sys2Proof.Machine
end

