-- ==== Sys2Proof/Machine/QueueEngine.lean ====
section
/-! DEFINITION. The queue engine: doorbells, the head entry of a ring and what becomes of it, class arbitration and
dispatch (R16, R20, R276, R285, R288, R289, R348 to R356). -/

namespace Sys2Proof.Machine

/-! ### Rings -/

/-- A ring error counted, latched and reported (R350); `cq` is the completion ring of kind 3. -/
def State.ringError (s : State) (ring kind cq : Nat) : State :=
  let s := if s.bit (rk .QE_RING_ERR_INFO) 63 then s else
    s.setReg (rk .QE_RING_ERR_INFO) (BitVec.ofNat 64 (ring + kind * 2 ^ 16 + 2 ^ 63))
  (s.bump (rk .QE_RING_ERRORS)).raise 0x3 devHandle (payload [(24, 2, ring), (26, 1, kind), (28, 2, cq)])

/-- A ring put into the error state (R350). -/
def State.breakRing (s : State) (ring kind : Nat) : State :=
  ({ s with rings := Tab.modify s.rings ring fun r => { r with error := true } }).ringError ring kind 0

/-- DOORBELL_WRITE (R349, R350): bits [31:0] become tail unless tail − head would exceed the ring, which puts the ring into
the error state; a ring that is in it already is not put into it again. -/
def execDoorbellWrite (ring : Nat) (_wide : Bool) (value : BitVec 64) (s : State) : Res :=
  match Tab.find? s.rings ring with
  | none => .next (s.ringError ring 4 0)
  | some r =>
    let tail := value.toNat % 2 ^ 32
    if 2 ^ r.place.z < (tail + 2 ^ 32 - r.head) % 2 ^ 32 then .next (if r.error then s else s.breakRing ring 1)
    else .next { s with rings := Tab.put s.rings ring { r with tail := tail } }

/-- The queue engine as a reader and writer of ring memory; a write of its to a pool is one of Zenith's class (R246). -/
def queueWho : Who := ⟨none, 5, devHandle, false, 0⟩

/-- The 128 bytes of the head entry of a ring (R348). -/
def State.headBytes (s : State) (r : Ring) : List Byte :=
  let o := 128 * (r.head % 2 ^ r.place.z)
  if r.place.device then s.peek queueWho (r.place.base % 2 ^ 56) o 128 else Mem.read s.host (r.place.base + o) 128

/-- May the queue engine take an entry of the ring: one is there, the ring is sound and not torn down, its memory can be
read (R350, R380, R434), and none of its BARRIERs is outstanding (R285)? -/
def State.hasEntry (s : State) (k : Nat) (r : Ring) : Bool :=
  !r.error && !r.closing && decide (r.head ≠ r.tail) && (r.place.device || (s.bit (rk .HI_LINK) 10 && !s.d3)) &&
  !s.jobs.any fun j => j.ring = k && j.origin = none && j.d.opcode = opBarrier && j.phase ≠ .done

/-- A completion ring that exists for dispatch (R356). -/
def State.liveCq (s : State) (c : Nat) : Option Cq :=
  match Tab.find? s.cqs c with
  | some q => if q.closing then none else some q
  | none => none

/-- A completion ring has room (R355). -/
def State.cqRoom (s : State) (c : Nat) (q : Cq) : Bool :=
  decide ((q.posted + 2 ^ 32 - s.fld (rk .QE_CQ_HEAD 0 c) 0 32) % 2 ^ 32 < 2 ^ q.place.z)

/-! ### What becomes of an entry -/

/-- What the queue engine and the dispatcher do with a head entry. -/
inductive Verdict where
  | held
  | discard
  | reject (e : Err)
  | go (unit : Nat) (member : Option Nat) (cand : Option Cand)
  deriving DecidableEq, Repr

/-- Is some unit that R20 could choose ready, whatever room it has? -/
def State.anyReady (s : State) (d : Desc) : Nat → Nat → Bool
  | 0, _ => false
  | fuel + 1, h =>
    let l := h % 2 ^ 16
    if !s.isHere (h / 2 ^ 16) then s.isPeer (h / 2 ^ 16) && s.acceptsIn d 1 h
    else
      match unitKind l with
      | none => false
      | some .device => d.accepts .basin && (List.range 140).any fun q => s.unitReady (0x200 + q)
      | some .terrace =>
        d.accepts .basin && s.unitReady l && (List.range 4).any fun b => s.unitReady (0x200 + 4 * (l - 0x100) + b)
      | some .group => (Tab.getD s.groups l []).any fun m => s.anyReady d fuel m
      | some k => d.accepts k && s.unitReady l

/-- Does an open or queued step close cover the slot of a WEIR-mode descriptor (R212, R213)? -/
def State.weirHolds (s : State) (d : Desc) : Bool :=
  d.readsScale && d.scaleMode = 3 && s.weirQ.any fun c => decide (c.first ≤ d.slot) && decide (d.slot ≤ c.last)

/-- The dispatcher's answer for a descriptor that passed the queue engine's checks (R20, R288 step 6, R351). -/
def State.placing (s : State) (d : Desc) : Verdict :=
  let h := d.target
  let l := h % 2 ^ 16
  if !s.isHere (h / 2 ^ 16) then .go l (some (h / 2 ^ 16)) none
  else if s.weirHolds d then .held
  else if d.opcode = opBarrier ∨ d.opcode = opReshard then
    if s.queueReady then .go 1 none none else .reject (stNotReady, 0)
  else
    match unitKind l with
    | some .terrace | some .device | some .group =>
      match s.choose d with
      | some c => .go c.unit c.member (some c)
      | none =>
        if !s.acceptsIn d treeDepth h then .reject (stShape, 0)
        else if s.anyReady d treeDepth h then .held
        else .reject (stNotReady, 0)
    | _ =>
      if !s.unitReady l then .reject (stNotReady, 0)
      else if 32 ≤ s.backlog (basinOf l) then .held
      else .go l none none

/-- The verdict on a head entry (R288 steps 1 to 6, R289, R351). -/
def State.verdict (s : State) (d : Desc) (raw : List Byte) : Verdict :=
  match s.liveCq d.cq with
  | none => .discard
  | some q =>
    if !s.cqRoom d.cq q then .held
    else
      match s.frontCheck d raw with
      | some e => .reject e
      | none => s.placing d

/-! ### Dispatch -/

/-- The default Basad profile (R236). -/
def Profile.default : Profile := ⟨false, 0xACE0, 0x1233, 0x15A5A⟩

/-- A profile (R236). -/
def State.profile (s : State) (i : Nat) : Profile := Tab.getD s.profiles i Profile.default

/-- A descriptor just taken. -/
def Job.fresh (jid ring seq cls : Nat) (origin : Option Nat) (d : Desc) (raw : List Byte) : Job where
  jid := jid
  ring := ring
  seq := seq
  cls := cls
  origin := origin
  d := d
  raw := raw
  unit := 0
  phase := .dispatched
  bm := 0
  bn := 0
  bk := 0
  tile := 0
  flags := 0
  status := 0
  detail := 0
  counts := Counts.zero
  dzLo := 0
  dzHi := 0
  dzAny := false
  issued := none
  ended := 0
  claimed := []
  reads := []
  waitFrom := 0
  waitOn := none
  profile := Profile.default
  weirX := 127
  silent := false
  reserved := false
  books := []
  queued := []
  fused := []
  tried := []
  watch := false
  carry := []
  block := []
  member := none
  drained := []
  dense := []
  pHalf := 0

/-- A new descriptor in the table. -/
def State.addJob (s : State) (j : Job) : State := { s with jobs := s.jobs ++ [j], nextJid := s.nextJid + 1 }

/-- A placement by a dispatcher counted by its class (R332). -/
def State.countPlaced (s : State) : Option Cand → State
  | some c => s.bump (rk (if 2 ≤ c.cls then .PL_PLACED_LOCAL else .PL_PLACED_OTHER))
  | none => s

/-- A descriptor placed on a unit of this device: it reads the slot's x and its profile now (R211, R238). -/
def State.place1 (s : State) (j : Job) (unit : Nat) (cand : Option Cand) : State :=
  let s := (s.bump (rk .QE_DISPATCHED)).countPlaced cand
  let d := j.d
  s.addJob { j with
    unit := unit
    weirX := s.fld (rk .WR_SLOT_SCALE 0 d.slot) 0 8
    profile := s.profile (d.seed % 16)
    watch := s.debugOn && unit ≠ 1 && s.bit (rk .BS_DBG_BOUNDS (s.physB (basinOf unit))) 0 }

/-- The bytes that carry a descriptor to member `m`: its own, unaltered (R30), and where a group here is its target the unit of
that member that the dispatcher chose (log 21). -/
def Job.sentTo (j : Job) (s : State) (m : Nat) : List Byte :=
  if s.isHere (j.d.target / 2 ^ 16) then j.raw ++ leBytes 3 (m * 2 ^ 16 + j.unit) else j.raw

/-- A descriptor sent over Rill to the member that runs it (R16). -/
def State.linkDescriptor (s : State) (j : Job) (m : Nat) : State :=
  s.sendLink (.descriptor m j.ring j.seq j.cls j.jid (j.sentTo s m)) (j.jid + 1)

/-- A new descriptor that runs on another member. -/
def State.carry (s : State) (j : Job) (m : Nat) : State :=
  (s.addJob { j with phase := .away, member := some m }).linkDescriptor j m

/-- The verdict carried out on a descriptor taken from a ring or over Rill. -/
def State.takeUp (s : State) (j : Job) (v : Verdict) : State :=
  match v with
  | .held => s
  | .discard => s.ringError j.ring 3 j.d.cq
  | .reject e => (s.addJob j).reject j e
  | .go u none c => s.place1 j u c
  | .go u (some m) c =>
    let s := (s.bump (rk .QE_DISPATCHED)).countPlaced c
    -- a BARRIER leaves once its ring's earlier descriptors have completed (R285)
    if j.d.opcode = opBarrier then s.addJob { j with unit := u }
    else if s.reachable m then s.carry { j with unit := u } m
    else (s.addJob j).endJob j stLink 0

/-- The effects of reading a ring's head entry in device memory. -/
def State.readHead (s : State) (r : Ring) : State :=
  if r.place.device then (s.readSpan queueWho ⟨r.place.base % 2 ^ 56, 128 * (r.head % 2 ^ r.place.z), 128⟩).1 else s

/-- Does the read of a ring's head entry fail: a codeword of it that cannot be corrected, or a link that is down (R317, R335)? -/
def State.headFails (s : State) (r : Ring) : Bool :=
  r.place.device && [0, 64].any fun i =>
    match s.loc ((r.place.base % 2 ^ 56 + 128 * (r.head % 2 ^ r.place.z) + i) % 2 ^ 56) with
    | .unmapped | .pool _ _ => false
    | .dram l st => match Tab.find? s.dramErr (codeKey st l) with
      | some es => !s.codewordOk st es
      | none => false
    | .host _ => !s.bit (rk .HI_LINK) 10
    | .peer m _ | .away m _ => !s.reachable m
    | .lost _ _ => true

/-- The head entry of ring `k` taken and handed on; one whose read from device memory fails breaks the ring (R350). -/
def State.takeHead (s : State) (k : Nat) (r : Ring) : State :=
  let raw := s.headBytes r
  let d := Desc.ofBytes raw
  let v := s.verdict d raw
  if s.headFails r then (s.readHead r).breakRing k 2
  else
    let s := { s.readHead r with rings := Tab.put s.rings k { r with head := (r.head + 1) % 2 ^ 32 } }
    s.takeUp (Job.fresh s.nextJid k r.head r.cls none d raw) v

/-! ### Arbitration -/

/-- A ring is eligible in a tick (R351). -/
def State.eligible (s : State) (k : Nat) (r : Ring) : Bool :=
  s.hasEntry k r && decide (s.verdict (Desc.ofBytes (s.headBytes r)) (s.headBytes r) ≠ .held)

/-- Is dispatch of a ring's entry withheld for a full completion ring (R355)? -/
def State.cqFull (s : State) (k : Nat) (r : Ring) : Bool :=
  s.hasEntry k r &&
  match s.liveCq (Desc.ofBytes (s.headBytes r)).cq with
  | some q => !s.cqRoom (Desc.ofBytes (s.headBytes r)).cq q
  | none => false

/-- Eligible rings of a class, by ascending index. -/
def State.eligibles (s : State) (c : Nat) : List Nat :=
  (s.rings.filter fun e => e.2.cls = c && s.eligible e.1 e.2).map Prod.fst

/-- The radio ring whose head has the earliest deadline; 0 orders last and a tie goes to the lower index (R352). -/
def State.radioPick (s : State) (el : List Nat) : Option Nat :=
  let dl (k : Nat) : Nat := match Tab.find? s.rings k with
    | some r => let x := (Desc.ofBytes (s.headBytes r)).deadline; if x = 0 then 2 ^ 64 - 1 else x
    | none => 2 ^ 64 - 1
  el.foldl (fun m k => match m with | none => some k | some b => if dl k < dl b then some k else some b) none

/-- The next ring of a list after a cursor, cyclic; the lowest if there is no cursor. -/
def nextRing (el : List Nat) (cur : Option Nat) : Nat :=
  match cur with
  | none => el.headD 0
  | some x => (el.find? fun k => decide (x < k)).getD (el.headD 0)

/-- Deficit round-robin over the eligible rings of a class (R352). -/
def State.drr (s : State) (c : Nat) (el : List Nat) : State × Nat :=
  let cur := Tab.find? s.cursors c
  let go (s : State) : State × Nat :=
    let k := nextRing el cur
    ({ s with
        rings := Tab.modify s.rings k fun r => { r with deficit := r.deficit + r.weight - 1 }
        cursors := Tab.put s.cursors c k }, k)
  match cur with
  | none => go s
  | some k =>
    if el.contains k then
      match Tab.find? s.rings k with
      | some r => if 1 ≤ r.deficit then ({ s with rings := Tab.put s.rings k { r with deficit := r.deficit - 1 } }, k) else go s
      | none => go s
    -- the ring under the cursor has left the eligible rings of the class: it loses what was left of its turn
    else go { s with rings := Tab.modify s.rings k fun r => if r.cls = c then { r with deficit := 0 } else r }

/-- The ring a tick serves, with the arbiter's state after it. -/
def State.pick (s : State) : Option (State × Nat) :=
  match s.radioPick (s.eligibles 0) with
  | some k => some (s, k)
  | none =>
    match [1, 2, 3].find? fun c => !(s.eligibles c).isEmpty with
    | some c => some (s.drr c (s.eligibles c))
    | none => none

/-- TICK (R351, R352): one dispatch decision. Nothing is dispatched before the queue engine is ready or while a reset or
a brownout holds dispatch (R432, R499). -/
def execTick (s : State) : Res :=
  if !s.queueReady ∨ s.dispatchHeld then .next s
  else
    let s := if s.rings.any fun e => s.cqFull e.1 e.2 then s.bump (rk .QE_CQ_FULL_CYCLES) else s
    match s.pick with
    | none => .next s
    | some (s, k) =>
      match Tab.find? s.rings k with
      | some r => .next (s.takeHead k r)
      | none => .next s

/-- A failed read of Genash: of ring memory it breaks the ring, for a descriptor it ends it with LINK_ERROR (R379). -/
def State.readFailed (s : State) (o : ReadOwner) : State :=
  let s := s.bump (rk .HI_READ_ERRORS)
  match o with
  | .ring r => if (Tab.find? s.rings r).isSome then s.breakRing r 2 else s
  | .job n => s.whenJob n (fun j => j.phase ≠ .done) fun j => s.failJob j stLink 0

/-- READ_COMPLETION (R379). -/
def execReadCompletion (o : ReadOwner) (ok : Bool) (s : State) : Res :=
  if ok then .next s else .next (s.readFailed o)

/-- COMPLETION_TIMEOUT (R379). -/
def execCompletionTimeout (o : ReadOwner) (s : State) : Res := .next (s.readFailed o)

end Sys2Proof.Machine
end

