-- ==== Sys2Proof/Machine/Matmul.lean ====
section
/-! DEFINITION. MATMUL: its operands, the weight tiles and spans of its output tiles, the choice of the engine when a span's
first load is due, and the sums that a weight tile or a span adds (R57 to R102, R160 to R178, R294 to R303, R451). -/

namespace Sys2Proof.Machine

/-! ### Rows run -/

/-- Group-a-cycles of one row in which column groups are live (R64, R65, R67); a group is live for no more than the row, and all
are for a DOT (R240, log 31). -/
def LoadedTile.liveCycles (t : LoadedTile) : Nat :=
  if t.load.d.isDot then 8 * t.tB
  else if t.form = 2 then 2 * (t.live.filter (· ≠ 0)).length
  else if t.form = 3 then 8
  else (t.live.map fun n => min ((if t.twoPass then 2 else 1) * n) t.tRow).sum

/-- The rows of a jet's active tile that have not been counted run (R79, R295, R299). -/
def State.runRows (s : State) (x : Nat) (t : LoadedTile) (n : Nat) : State :=
  let u := s.physJ x
  let live := n * t.liveCycles
  let s := s.bump (rk .JT_ROW_CYCLES u) (n * t.tB)
  (s.bump (rk .JT_GROUP_LIVE_CYCLES u) live).bump (rk .JT_GROUP_GATED_CYCLES u) (8 * n * t.tB - live)

/-- The active tile of a jet has run all its rows. -/
def State.retire (s : State) (x : Nat) : State :=
  let js := s.setsOf x
  match js.active with
  | none => s
  | some t => (s.runRows x t (t.load.rows - t.done)).putSets x { js with active := some { t with done := t.load.rows } }

/-- The active tile of a jet that holds one of output tile `q` of a descriptor has run (R298). -/
def State.retireOf (s : State) (x jid q : Nat) : State :=
  match (s.setsOf x).active with
  | some t => if t.load.jid = jid ∧ t.load.ot = q then s.retire x else s
  | none => s

/-! ### Operands -/

/-- The sparse operand block of a descriptor. -/
def Job.blk (j : Job) : SparseBlk := SparseBlk.ofBytes j.block

/-- Codebook `i` that the descriptor has read (R66). -/
def Job.book (j : Job) (i : Nat) : List Int := j.books.getD i []

/-- The serial operand (R160). -/
def Job.serialOp (j : Job) : Operand :=
  { Operand.of j.d.serial j.d.wSrc j.blk.wDir j.blk.wStride j.bn j.bk with book := j.book 0 }

/-- The broad operand (R160). -/
def Job.broadOp (j : Job) : Operand := Operand.of j.d.broad j.d.aSrc j.blk.aDir j.blk.aStride j.bm j.bk

/-- The codebooks of a descriptor, read once: the 64 bytes at each place given, where the format has one (R66). -/
def State.readBooks (s : State) (j : Job) (at' : List (Bool × Nat)) : State × Job × Option Err :=
  match s.readSpans j.who ((at'.filter Prod.fst).map fun a => ⟨a.2, 0, 64⟩) with
  | (s, some e) => (s, j, some e)
  | (s, none) => (s, { j with books := at'.map fun a => if a.1 then s.codebook j.who a.2 else [] }, none)

/-- The elements of a row in ranges of K, as lane integers (R40 to R47), and how many of them alignment flushed (R43). -/
def Operand.lanesOn (o : Operand) (W : Nat) (es : List (Nat × Elt)) (ks : List (Nat × Nat)) : Column × Nat :=
  let mine (k : Nat) : Bool := ks.any fun x => decide (x.1 ≤ k) && decide (k < x.1 + x.2)
  let on := (es.zip (o.fmt.convCells W o.book es)).filter fun p => mine p.1.1
  (on.map Prod.snd, o.fmt.flushed o.book (on.map fun p => p.1.2) (on.map fun p => p.2.2))

/-- Those of an operand's row as the dense jet takes it. -/
def State.cellsOf (s : State) (w : Who) (o : Operand) (W r : Nat) (ks : List (Nat × Nat)) : Column × Nat :=
  o.lanesOn W (s.opCells w o r) ks

/-- Spans of an operand's rows over ranges of K. -/
def State.opSpansOn (s : State) (w : Who) (o : Operand) (r0 n : Nat) (ks : List (Nat × Nat)) : List Span :=
  ks.flatMap fun k => s.opSpans w o r0 n k.1 k.2

/-! ### Weight tiles and spans -/

/-- The weight tiles of a part in issue order: the first K index of the K-tile, then the part's first K index and K indices
(R294, R297, R298). -/
def Job.weightTiles (j : Job) (p : Part) : List (Nat × Nat × Nat) :=
  if p.cols = 0 then []
  else
    let w := 128 * j.d.pack
    let step := match p.quarter with | some _ => 4 * w | none => w
    let off := match p.quarter with | some i => i * w | none => 0
    ((List.range (ceilDiv j.bk step)).map fun t => (t * step, t * step + off, min w (j.bk - (t * step + off)))).filter fun t =>
      t.2.2 ≠ 0

/-- Weight tiles of a span (R162). -/
def Desc.spanLen (d : Desc) : Nat := 4 / max 1 d.pack

/-- Does a shape run every jet of its basin in lock-step (R295)? -/
def lockShape (shape : Nat) : Bool := shape = 1 || shape = 2 || shape = 3 || shape = 5

/-- The spans of a jet's part of output tile `q` (R162, R298), queued as number `n` on their basin. -/
def Job.spansOf (j : Job) (q : Nat) (p : Part) (n : Nat := 0) : List (List TileLoad) :=
  let t := j.tileAt q
  let lock := isBasinUnit j.unit && lockShape j.d.shape
  (chunks j.d.spanLen (j.bk + 1) (j.weightTiles p)).map fun ts => ts.map fun k =>
    ⟨j.jid, j.d, .weights, q, k.1, t.2.1 + p.col, p.cols, [k.2], t.1 + p.row, p.rows, lock, none, n⟩

/-- The headers of an operand that rows and K ranges cover. -/
def State.coverHdrs (s : State) (w : Who) (o : Operand) (r0 n : Nat) (ts : List (Nat × Nat)) : List (Nat × Nat × Hdr) :=
  ts.flatMap fun t => s.opHdrs w o r0 n t.1 t.2

/-- The spans of the headers of a tiled operand that rows and K ranges cover. -/
def State.hdrSpans (s : State) (w : Who) (o : Operand) (r0 n : Nat) (ts : List (Nat × Nat)) : List Span :=
  (s.coverHdrs w o r0 n ts).map fun h => ⟨o.dir, 64 * (h.1 * o.headers + h.2.1), 64⟩

/-- Is an operand S24 for a weight tile (R163)? -/
def isS24 (hs : List (Nat × Nat × Hdr)) : Bool := !hs.isEmpty && hs.all fun h => h.2.2.enc = 3

/-- nnz and cnt of an operand over covered storage tiles (R166); a plain operand counts as full. -/
def densityOf (hs : List (Nat × Nat × Hdr)) (full : Nat) : Nat × Nat :=
  if hs.isEmpty then (full, full)
  else
    hs.foldl (fun a h => let c := h.2.2.rows * h.2.2.cols
      (a.1 + (if h.2.2.bitmap = 0 then c else h.2.2.density), a.2 + c)) (0, 0)

/-- What R164 decides for a span. -/
inductive Choice where
  | invalid (detail : Nat)
  | dense (declined busy thin : Bool)
  | engine
  deriving DecidableEq, Repr

/-- Detail of TILE_INVALID (R292). -/
def tileDetail (i j : Nat) : Nat := j % 65536 + i % 65536 * 65536

/-- A choice is forced (R165). -/
def Desc.forced (d : Desc) : Bool := d.sparseMode = 2 || d.shape = 6

/-- K ranges of a list of weight tiles. -/
def ksOf (ts : List TileLoad) : List (Nat × Nat) := ts.flatMap (·.ks)

/-- S24 state of a weight tile (R73, R74): 0 dense, 1 serial operand S24, 2 broad operand S24, 3 that expanded. -/
def State.s24State (s : State) (j : Job) (l : TileLoad) : Nat :=
  if isS24 (s.coverHdrs j.who j.serialOp l.col0 l.cols l.ks) then 1
  else if isS24 (s.coverHdrs j.who j.broadOp l.row0 l.rows l.ks) then
    (if 2 * l.d.serial.planes l.d.serialBits * l.d.pack ≤ 16 then 2 else 3)
  else 0

/-- Weight tiles of one span as the dense jet loads them: two neighbours whose rows cover twice the K indices are one (R73, R74;
log 33). -/
def State.mergeS24 (s : State) (j : Job) : List TileLoad → List TileLoad
  | a :: b :: r =>
    let z := s.s24State j a
    if (z = 1 || z = 2) && s.s24State j b = z then { a with ks := a.ks ++ b.ks } :: s.mergeS24 j r
    else a :: s.mergeS24 j (b :: r)
  | l => l

/-- A span with the one after it where each is one weight tile (p = 4) and their rows cover twice the K indices together: the dense jet
loads them as one (R73 to R76; log 33). -/
def State.joinS24 (s : State) (j : Job) (sp : List TileLoad) (rest : List (List TileLoad)) : List TileLoad × List (List TileLoad) :=
  match sp, rest with
  | [a], [b] :: r =>
    let z := s.s24State j a
    if j.d.spanLen = 1 && a.jid = b.jid && a.ot = b.ot && (z = 1 || z = 2) && s.s24State j b = z then ([a, b], r) else (sp, rest)
  | _, _ => (sp, rest)

/-- The spans of a jet's part with those joined. -/
def State.pairSpans (s : State) (j : Job) : List (List TileLoad) → List (List TileLoad)
  | sp :: b :: r => if (s.joinS24 j sp [b]).2.isEmpty then (sp ++ b) :: s.pairSpans j r else sp :: s.pairSpans j (b :: r)
  | l => l

/-- The engine choice of a span of jet `x` (R163 to R166, R448). A span that a faulted engine was running goes to the dense jet, and counts
in no counter. Where SE_CTRL.auto_disable is 1 a busy engine does not count the span: nothing was to go there (log 33). -/
def State.chooseEngine (s : State) (j : Job) (x : Nat) (ts : List TileLoad) : Choice :=
  let d := j.d
  let hw (t : TileLoad) := s.coverHdrs j.who j.serialOp t.col0 t.cols t.ks
  let ha (t : TileLoad) := s.coverHdrs j.who j.broadOp t.row0 t.rows t.ks
  let allW := ts.flatMap hw
  let allA := ts.flatMap ha
  match (allW ++ allA).find? fun h => h.2.2.invalid with
  | some h => .invalid (tileDetail h.1 h.2.1)
  | none =>
    match ts.find? fun t => isS24 (hw t) && isS24 (ha t) with
    | some t => .invalid (match hw t with | h :: _ => tileDetail h.1 h.2.1 | [] => 0)
    | none =>
      if ts.any fun t => isS24 (hw t) || isS24 (ha t) then .dense d.forced false false
      else if d.sparseMode = 1 || ts.any fun t => j.dense.contains (x, t.ot, t.kt) then .dense false false false
      else
        let form := formOf d.serial d.broad
        let eligible := (form = 0 || form = 1) && d.serial ≠ .int 1 && decide (d.serial.planes d.serialBits ≤ 8) &&
          d.broadPasses = 1 && (match engineOf x with | some e => s.engineUp e | none => false) && (allW ++ allA).all fun h => h.2.2.fallback = 0
        if !eligible then .dense d.forced false false
        else if d.forced then .engine
        else
          let e := (engineOf x).getD 0
          if s.bit (rk .SE_CTRL (s.physE e)) 0 then .dense false false false
          else if s.engineBusy e then .dense false true false
          else
            let k := ((ksOf ts).map Prod.snd).sum
            let n := (ts.head?.map (·.cols)).getD 0
            let m := (ts.head?.map (·.rows)).getD 0
            let dw := densityOf allW (n * k)
            let da := densityOf allA (m * k)
            let c := if d.crossover = 0 then 225 else d.crossover
            if 1024 * da.1 * dw.1 ≤ c * da.2 * dw.2 then .engine else .dense false false true

/-- The counters of a span sent dense (R164, R165, R179). -/
def State.countDense (s : State) (x : Nat) (declined busy thin : Bool) : State :=
  match engineOf x with
  | none => s
  | some e =>
    let u := s.physE e
    let s := if declined then s.bump (rk .SE_DECLINED u) else s
    let s := if busy then s.bump (rk .SE_BUSY_DENSE u) else s
    if thin then s.bump (rk .SE_DENSITY_DENSE u) else s

/-! ### Effective widths -/

/-- The serial integers of a column group of 16 columns. -/
def groupInts (cols : List Column) (g : Nat) : List Int :=
  ((cols.drop (16 * g)).take 16).flatMap fun c => c.map fun e => e.2.n

/-- L_g of the eight column groups of a weight tile or span (R62, R67, R80). With plane skipping off every group has the serial
width s, and s in each of two slot-sets where the serial operand is S24; LOG4 × LOG4 has no planes to skip, and stays as it is
(log 33). -/
def liveOf (form : Nat) (f : Fmt) (bits : Nat) (skipOff s24 : Bool) (cols : List Column) : List Nat :=
  (List.range 8).map fun g =>
    if form = 2 then flagNat ((groupInts cols g).any fun c => c % 8 ≠ 0)
    else if skipOff then f.planes bits * (if s24 then 2 else 1)
    else if f = .int 1 then 1
    else livePlanes f.isSigned (groupInts cols g)

/-! ### Sums of a weight tile or span -/

/-- A descriptor in flight, changed. -/
def State.modJob (s : State) (jid : Nat) (f : Job → Job) : State := s.whenJob jid (fun _ => true) fun j => s.putJob (f j)

/-- Input elements that alignment flushed (R43, R206). -/
def Job.flushIn (j : Job) (n : Nat) : Job := { j with counts := { j.counts with flushIn := j.counts.flushIn + n } }

/-- Counts of the output tile in progress on jet `x`: a replay takes them back (R206, R453). -/
def Job.trial (j : Job) (x : Nat) (c : Counts) : Job :=
  { j with
    counts := j.counts.plus c
    tried := if c = Counts.zero then j.tried else Tab.put j.tried x ((Tab.getD j.tried x Counts.zero).plus c) }

/-- Flushed input elements and clamped accumulator adds of the output tile in progress on jet `x` (R89, R206). -/
def Job.tally (j : Job) (x n clamps : Nat) : Job := j.trial x { Counts.zero with flushIn := n, accSat := clamps }

/-- What the output tile in progress on jet `x` has counted, taken back (R453). -/
def Job.untry (j : Job) (x : Nat) : Job :=
  { j with counts := j.counts.minus (Tab.getD j.tried x Counts.zero), tried := Tab.del j.tried x }

/-- A journal entry added (R451). -/
def Group.journaled (g : Group) (j : Job) : Group × Bool :=
  if g.journal.any fun e => e.jid = j.jid then (g, false)
  else if 16 ≤ g.journal.length then ({ g with unjournaled := true }, !g.unjournaled)
  else ({ g with journal := g.journal ++ [⟨j.jid, j.d, j.bm, j.bn, j.bk, j.watch⟩] }, false)

/-- Does a descriptor divide each K-tile among the jets of its basin (R294)? -/
def Job.column (j : Job) : Bool := isBasinUnit j.unit && j.d.shape = 2

/-- K indices within the bounds that a weight tile brings: of COLUMN those of its K-tiles over all four jets (R93, R294). -/
def TileLoad.terms (l : TileLoad) (j : Job) : Nat :=
  (l.ks.map fun k => if j.column then min (4 * 128 * l.d.pack) (j.bk - k.1) else k.2).sum

/-- The jets whose groups take a weight tile's terms: its own; of COLUMN all four, with the tile of the first jet, which has a part of every
K-tile (R93). -/
def Job.termJets (j : Job) (x : Nat) : List Nat := if j.column then (if x % 4 = 0 then unitJets j.unit else []) else [x]

/-- Sums added to jet `x`'s group, with the term count and its journal (R85, R88, R93, R95, R451). -/
def State.addSums (s : State) (j : Job) (x n : Nat) (xs : List (Nat × Nat × List Sum)) : State × Option Err :=
  match s.group? x j.d.accGroup with
  | none => (s, none)
  | some g =>
    let s := s.readAcc fun k => xs.any fun e => k = accKey x (g.row0 + e.1) e.2.1
    let a := s.addAll x g xs
    let r := a.grp.journaled j
    let g := { r.1 with reads := (r.1.reads ++ j.reads).eraseDups }
    let s : State := { s with acc := a.acc, grp := Tab.put s.grp (grpKey x j.d.accGroup) g }
    let s := (j.termJets x).foldl (fun (s : State) y => { s with grp := Tab.modify s.grp (grpKey y j.d.accGroup) fun g => g.terms n }) s
    let lapsed := (j.termJets x).any fun y => (s.group? y j.d.accGroup).any (·.lapsed)
    let s := if r.2 then s.bump (rk .SP_UNJOURNALED) else s
    let s := s.modJob j.jid fun j =>
      (((j.tally x 0 a.clamps).mark flSat (decide (a.clamps ≠ 0))).mark flNonfinite a.bad).mark flLapsed lapsed
    (s, if a.clash then some (stScaleDomain, 0) else none)

/-- Columns of the broad operand's rows over a K range; flushed elements are counted where no earlier output tile or jet took
them. -/
def State.rowLines (s : State) (j : Job) (row0 rows col0 : Nat) (ks : List (Nat × Nat)) : List Column × Nat :=
  let o := j.broadOp
  let W := o.fmt.convW .broad j.d.serialBits j.d.broadPasses
  let cs := (List.range rows).map fun r => s.cellsOf j.who o W (row0 + r) ks
  (cs.map Prod.fst, if col0 = 0 then (cs.map Prod.snd).sum else 0)

/-- Every entry of a weight tile's rows and columns with its sums. -/
def tileSums (log : Bool) (tree : Nat) (rows cols : List Column) : List (Nat × Nat × List Sum) :=
  ((List.range rows.length).zip rows).flatMap fun r =>
    ((List.range cols.length).zip cols).map fun c => (r.1, c.1, columnSums log tree c.2 r.2)

/-- A weight tile's rows run on jet `x`: the activation rows are read and the sums added (R85, R298). -/
def State.addTile (s : State) (j : Job) (x : Nat) (l : TileLoad) (cols : List Column) : State × Option Err :=
  match s.readSpans j.who (s.opSpansOn j.who j.broadOp l.row0 l.rows l.ks) (x % 4) with
  | (s, some e) => (s, some e)
  | (s, none) =>
    let a := s.rowLines j l.row0 l.rows l.col0 l.ks
    (s.modJob j.jid fun j => j.tally x a.2 0).addSums j x (l.terms j) (tileSums j.d.log j.d.tree a.1 cols)

/-! ### Spans on an engine -/

/-- Columns of the serial operand over K ranges expanded to dense (R163, R169), with the elements that alignment flushed; those are
counted with the first row tile. -/
def State.serialCols (s : State) (j : Job) (l : TileLoad) (ks : List (Nat × Nat)) : List Column × Nat :=
  let o := j.serialOp
  let W := o.fmt.convW .serial j.d.serialBits j.d.broadPasses
  let cs := (List.range l.cols).map fun c => o.lanesOn W ((List.range o.len).zip (s.opRow j.who o (l.col0 + c))) ks
  (cs.map Prod.fst, if l.row0 = 0 then (cs.map Prod.snd).sum else 0)

/-- The bits of an operand's row over K ranges. -/
def State.bitsOn (s : State) (j : Job) (o : Operand) (r : Nat) (ks : List (Nat × Nat)) : List Bool :=
  let bs := s.opBits j.who o r
  ks.flatMap fun k => (bs.drop k.1).take k.2

/-- A span given to an engine for jet `x`, not loaded yet. -/
def EngSpan.waiting (ts : List TileLoad) (x : Nat) (forced : Bool) : EngSpan := ⟨ts, x, forced, false, [], 0, [], [], 0⟩

/-- A span's weights loaded into a store: expanded to dense, with their bitmaps, L_g and t_pair (R169). -/
def State.loadSpan (s : State) (j : Job) (sp : EngSpan) : EngSpan :=
  match sp.tiles with
  | [] => { sp with loaded := true }
  | l :: _ =>
    let ks := ksOf sp.tiles
    let c := s.serialCols j l ks
    let live := (List.range 8).map fun g => livePlanes j.d.serial.isSigned (groupInts c.1 g)
    { sp with
      loaded := true, live := live, tPair := max 1 (live.foldl max 0), cols := c.1, flushed := c.2
      bits := (List.range l.cols).map fun c => s.bitsOn j j.serialOp (l.col0 + c) ks }

/-- One row's finish times of the eight groups (R172): the running list of rows' finish times, newest first. -/
def spanRow (fin : List (List Nat)) (r : Nat) (t : List Nat) : List Nat × Nat :=
  let prev := fin.headD (List.replicate 8 0)
  let gate := match fin[4]? with | some x => x.foldl max 0 | none => 0
  let out := (List.range 8).map fun g => max (max (prev.getD g 0) gate) (2 * r) + t.getD g 0
  let stall := ((List.range 8).map fun g => gate - max (prev.getD g 0) (2 * r)).sum
  (out, stall)

/-- a-cycles of a span and its skew stalls (R172). -/
def spanCycles (T : List (List Nat)) : Nat × Nat :=
  let x := ((List.range T.length).zip T).foldl (fun (a : List (List Nat) × Nat) rt =>
    let y := spanRow a.1 rt.1 rt.2
    (y.1 :: a.1, a.2 + y.2)) ([], 0)
  (5 + (x.1.headD []).foldl max 0, x.2)

/-- A row of the broad operand as an engine's activation feed takes it, over K ranges (R170). -/
def State.engineLine (s : State) (j : Job) (r : Nat) (ks : List (Nat × Nat)) : Column :=
  let o := j.broadOp
  let ls := o.fmt.convRow (o.fmt.convW .broad j.d.serialBits j.d.broadPasses) [] (s.opEngineRow j.who o r)
  let cs := (List.range ls.length).zip ls
  ks.flatMap fun k => (cs.drop k.1).take k.2

/-- The registers and counters of a span that runs on engine `e` (R170 to R172, R179): `rows` are the bits of its rows. SE_SPAN.q shows
the span length of the format pair, of a shorter last span too; SE_SPAN, serving and forced keep the last span's values while the engine
is idle (log 33). -/
def State.countSpan (s : State) (e : Nat) (j : Job) (sp : EngSpan) (rows : List (List Bool)) : State :=
  let u := s.physE e
  let m (a c : List Bool) : Nat := ((a.zip c).filter fun b => b.1 && b.2).length
  let ms := rows.map fun a => sp.bits.map (m a)
  let T := ms.map fun r => (List.range 8).map fun g =>
    max 1 (sp.tPair * (((r.drop (16 * g)).take 16).map fun x => ceilDiv x 32).foldl max 0)
  let pairs := (ms.map List.sum).sum
  let cyc := spanCycles T
  let pack := ((List.range 8).map fun g => sp.live.getD g 0 * 2 ^ (5 * g)).sum
  let s := s.setReg (rk .SE_SPAN u) (BitVec.ofNat 64 (pack + sp.tPair * 2 ^ 40 + j.d.spanLen * 2 ^ 44))
  let s := s.setFld (rk .SE_STATUS u) 3 2 (sp.jet % 2 + 2 * flagNat sp.forced)
  (((s.bump (rk .SE_MATCHED_PAIRS u) pairs).bump (rk .SE_LANE_BUSY_CYCLES u) (pairs * sp.tPair)).bump
    (rk .SE_RUN_CYCLES u) cyc.1).bump (rk .SE_SKEW_STALLS u) cyc.2

/-- A span's rows run on engine `e`: they are read, matched, and their sums added to its jet's group (R167, R170, R171). -/
def State.addSpan (s : State) (j : Job) (e : Nat) (sp : EngSpan) : State × Option Err :=
  match sp.tiles with
  | [] => (s, none)
  | l :: _ =>
    let ks := ksOf sp.tiles
    match s.readSpans j.who (s.opSpansOn j.who j.broadOp l.row0 l.rows ks) (sp.jet % 4) with
    | (s, some x) => (s, some x)
    | (s, none) =>
      let bits := (List.range l.rows).map fun r => s.bitsOn j j.broadOp (l.row0 + r) ks
      let rows := (List.range l.rows).map fun r => s.engineLine j (l.row0 + r) ks
      let fl := (s.rowLines j l.row0 l.rows l.col0 ks).2
      let xs := ((List.range rows.length).zip (rows.zip bits)).flatMap fun r =>
        ((List.range sp.cols.length).zip (sp.cols.zip sp.bits)).map fun c =>
          (r.1, c.1, engineSums j.d.log j.d.tree c.2.1 r.2.1 c.2.2 r.2.2)
      ((s.countSpan e j sp bits).modJob j.jid fun j => j.tally sp.jet (sp.flushed + fl) 0).addSums j sp.jet (sp.tiles.map (TileLoad.terms · j)).sum xs

/-! ### Issue order on a jet -/

/-- Is a descriptor in flight of the radio class? -/
def State.isRadio (s : State) (jid : Nat) : Bool :=
  match s.job? jid with
  | some j => j.cls = 0
  | none => false

/-- Do two weight tiles belong to one K-tile (R294, R298)? -/
def TileLoad.same (a b : TileLoad) : Bool := a.jid = b.jid && a.ot = b.ot && a.kt = b.kt

/-- Has a K-tile been issued: a weight tile of it stands in a plane set of its basin (R303, R304)? -/
def State.issuedTile (s : State) (x : Nat) (l : TileLoad) : Bool :=
  (lockJets x).any fun y =>
    let js := s.setsOf y
    js.active.any (fun t => t.load.same l) || js.shadow.any fun t => t.load.same l

/-- Is a tile one that a radio-class tile goes behind: it is radio-class itself, or part of a lock-step K-tile that has been issued
(R303)? -/
def State.keeps (s : State) (x : Nat) (t : TileLoad) : Bool := s.isRadio t.jid || (t.lock && s.issuedTile x t)

/-- Spans queued on a jet. A radio-class descriptor's go ahead of the non-radio tiles not yet issued, which are set aside
(R303). -/
def State.pushSpans (s : State) (x : Nat) (radio : Bool) (ls : List (List TileLoad)) : State :=
  let js := s.setsOf x
  if ls.isEmpty then s
  else if !radio then s.putSets x { js with spans := js.spans ++ ls }
  else
    let all := js.loads ++ js.paused
    let stays (l : List TileLoad) : Bool := l.any (s.keeps x)
    s.putSets x { js with
      loads := all.filter (s.keeps x), paused := all.filter fun t => !s.keeps x t
      spans := js.spans.filter stays ++ ls ++ js.spans.filter fun l => !stays l }

/-- Has a jet radio-class tiles of a lock-step descriptor to take up, to load or to swap in? -/
def State.radioLock (s : State) (js : JetSets) : Bool :=
  let mine (t : TileLoad) : Bool := t.lock && s.isRadio t.jid
  js.loads.any mine || (js.spans.any fun l => l.any mine) || js.shadow.any fun t => mine t.load

/-- Does an engine still load a span for jet `x`? -/
def State.engineLoads (s : State) (x : Nat) : Bool :=
  match engineOf x with
  | none => false
  | some e =>
    let es := s.storesOf e
    (es.shadow.any fun a => a.jet = x && !a.loaded) || es.waiting.any fun a => a.jet = x

/-- Has a descriptor output tiles whose weight tiles jet `x` has still to take up? -/
def Job.more (j : Job) (x : Nat) : Bool :=
  j.d.opcode = opMatmul && j.phase = .draining && j.jets.contains x && decide (Tab.getD j.queued x 0 < j.tileCount)

/-- Output tiles that stand open at once: QUAD on a basin runs one on each jet (R298). -/
def Job.abreast (j : Job) : Nat := if isBasinUnit j.unit && j.d.shape = 4 then 4 else 1

/-- The output tile that jet `x` of a descriptor runs: the lowest not drained; of a QUAD on a basin, of those that are its own (R295,
R298). -/
def Job.tileOn (j : Job) (x : Nat) : Nat :=
  if j.abreast = 4 then
    let q := j.tile + (x % 4 + 4 - j.tile % 4) % 4
    (((List.range (j.drained.length + 1)).map (q + 4 * ·)).find? fun t => !j.drained.contains t).getD q
  else j.tile

/-- The output tiles that stand open, lowest first. -/
def Job.openTiles (j : Job) : List Nat :=
  if j.abreast = 4 then
    let ts := (List.range 4).map j.tileOn
    (List.range j.tileCount).filter ts.contains
  else [j.tile]

/-- Output tile `q` has drained. -/
def Job.drainedTile (j : Job) (q : Nat) : Job :=
  if q ≠ j.tile then { j with drained := q :: j.drained }
  else
    let t := (((List.range (j.drained.length + 1)).map (q + 1 + ·)).find? fun t => !j.drained.contains t).getD (q + 1)
    { j with tile := t, drained := j.drained.filter (t < ·) }

/-- Does a jet still have tiles of a descriptor to load or to swap in? -/
def JetSets.holds (js : JetSets) (jid : Nat) : Bool :=
  (js.loads.any fun l => l.jid = jid) || (js.paused.any fun l => l.jid = jid) || (js.spans.any fun l => l.any fun t => t.jid = jid) ||
    js.shadow.any fun t => t.load.jid = jid

/-- Has a jet nothing to take up, to load or to swap in? -/
def JetSets.free (js : JetSets) : Bool := js.spans.isEmpty && js.loads.isEmpty && js.shadow.isNone && js.paused.isEmpty

/-- The jets that take up a descriptor's output tile with jet `x`: all of its basin in lock-step (R295). -/
def Job.abreastOf (j : Job) (x : Nat) : List Nat := if isBasinUnit j.unit && lockShape j.d.shape then unitJets j.unit else [x]

/-- The tiles that a jet has to take up, to load or to swap in. -/
def JetSets.ahead (js : JetSets) : List TileLoad := js.loads ++ js.paused ++ js.spans.flatten ++ (js.shadow.map (·.load)).toList

/-- The next number in the order in which tiles are queued on a basin. -/
def State.nextSeq (s : State) (x : Nat) : Nat :=
  ((lockJets x).map fun y => ((s.setsOf y).ahead.map (·.seq)).foldl max 0).foldl max 0 + 1

/-- The descriptor whose output tile jet `x` takes up next: the first radio-class one that has one, and only then the first of the others
(R303, R305). -/
def State.nextOn (s : State) (x : Nat) : Option Job :=
  match s.jobs.find? fun j => j.more x && j.cls = 0 with
  | some j => some j
  | none => s.jobs.find? fun j => j.more x

/-- Jet `x`'s next output tile queued once all tiles of the last one have loaded: the next K-tile's weights load while a K-tile runs, also
across output tiles (R298). A lock-step tile is queued on the jets of its basin together (R295). -/
def State.queueNext (s : State) (x : Nat) : State :=
  match s.nextOn x with
  | none => s
  | some j =>
    let xs := j.abreastOf x
    if !xs.all fun y => if j.cls = 0 then !(s.setsOf y).holds j.jid else (s.setsOf y).free then s
    else
      let q := Tab.getD j.queued x 0
      let t := j.tileAt q
      let n := s.nextSeq x
      let s := s.putJob { j with queued := xs.foldl (fun l y => Tab.put l y (q + j.abreast)) j.queued }
      xs.foldl (fun s y => s.pushSpans y (j.cls = 0) (((j.parts q t.2.2.1 t.2.2.2).filter fun p => p.jet = y).flatMap fun p => j.spansOf q p n)) s

/-- Does a radio-class span stand first among a jet's spans? -/
def State.radioAhead (s : State) (js : JetSets) : Bool := (js.spans.head?.any fun sp => sp.any fun t => s.isRadio t.jid)

/-- Does a jet take up tiles that were set aside: no radio span is ahead of them (R305)? -/
def State.resumes (s : State) (js : JetSets) : Bool := !js.paused.isEmpty && !s.radioAhead js

/-- Must a jet set its loads aside: a radio span waits, and they are non-radio tiles not yet issued (R303)? -/
def State.yields (s : State) (x : Nat) (js : JetSets) : Bool := s.radioAhead js && js.loads.head?.any fun l => !s.keeps x l

/-- Jet `x`'s first undecided span goes where R164 sends it: its headers are read, and it runs on the dense jet, which loads its tiles
next, or on the engine. An invalid tile ends the descriptor (R175). The flag says that the next span may follow at once. -/
def State.feedSpan (s : State) (x : Nat) (sp : List TileLoad) (rest : List (List TileLoad)) : State × Bool :=
  let js := s.setsOf x
  match sp.head?.bind fun l => s.job? l.jid with
  | none => (s.putSets x { js with spans := rest }, true)
  | some j =>
    if j.d.opcode ≠ opMatmul then (s.putSets x { js with loads := sp, spans := rest }, false)
    else
      let two := s.joinS24 j sp rest
      let n := 1 + (rest.length - two.2.length)
      let sp := two.1
      let rest := two.2
      let hs : List Span := sp.flatMap fun l =>
        s.hdrSpans j.who j.serialOp l.col0 l.cols l.ks ++ s.hdrSpans j.who j.broadOp l.row0 l.rows l.ks
      match s.readSpans j.who hs with
      | (s, some e) => (s.failJob j e.1 e.2, true)
      | (s, none) =>
        match s.chooseEngine j x sp, engineOf x with
        | .invalid d, _ => (s.failJob j stTileInvalid d, true)
        | .dense declined busy thin, _ =>
          ((((List.range n).foldl (fun s _ => s.countDense x declined busy thin) s).modJob j.jid fun j => j.mark flDeclined declined).putSets x
            { js with loads := s.mergeS24 j sp, spans := rest }, false)
        | .engine, none => (s, false)
        | .engine, some e =>
          if s.engineBusy e then (s, false)
          else
            let es := s.storesOf e
            ((s.putSets x { js with spans := rest }).putStores e
              { es with waiting := es.waiting ++ [EngSpan.waiting sp x j.d.forced] }, true)

/-- The spans of jet `x` whose first weight load is due are decided, one after another (R162, R164). -/
def State.feed (s : State) (x : Nat) : Nat → State
  | 0 => s
  | fuel + 1 =>
    let s := s.queueNext x
    let js := s.setsOf x
    if js.shadow.isSome then s
    else if s.yields x js then (s.putSets x { js with loads := [], paused := js.loads ++ js.paused }).feed x fuel
    else if !js.loads.isEmpty || s.engineLoads x then s
    else if s.resumes js then s.putSets x { js with loads := js.paused, paused := [] }
    else
      match js.spans with
      | [] => if js.paused.isEmpty && s.jobs.any fun j => j.more x then s.feed x fuel else s
      | sp :: rest =>
        let r := s.feedSpan x sp rest
        if r.2 then r.1.feed x fuel else r.1

/-- Output tile `q` opens its group on the jets its shape uses (R97 to R99). -/
def State.openTile (s : State) (j : Job) (q : Nat) : State :=
  let t := j.tileAt q
  (j.parts q t.2.2.1 t.2.2.2).foldl (fun s p =>
    s.openOn p.jet j.d.accGroup (j.openGroup j.d.shape p.cols p.rows (j.cls = 0))) s

/-- A continuing descriptor takes up its group: PRECISION_MISMATCH where the widths differ from the last descriptor's
(R291 bit 6), and the closing drain is due if it ends the group. -/
def State.joinGroup (s : State) (j : Job) : State × Job :=
  j.jets.foldl (fun r x =>
    match r.1.group? x j.d.accGroup with
    | none => r
    | some g =>
      let d := j.d
      let diff := g.serialFmt ≠ d.serialFmt || g.serialBits ≠ d.serialBits || g.broadFmt ≠ d.broadFmt ||
        g.broadBits ≠ d.broadBits || g.broadPasses ≠ d.broadPasses
      let g := { g with closing := d.accEnd, serialFmt := d.serialFmt, serialBits := d.serialBits, broadFmt := d.broadFmt
                        broadBits := d.broadBits, broadPasses := d.broadPasses }
      ({ r.1 with grp := Tab.put r.1.grp (grpKey x d.accGroup) g }, r.2.mark flPrecision diff)) (s, j)

/-- The output of a descriptor that drains groups: its layout (R112, R157, R158). -/
def Job.outPlan (j : Job) : Out := j.d.outPlan j.d.out j.bm j.bn j.d.tileDims.2 j.blk.om

/-- Every jet of a descriptor takes up what is due on it. -/
def State.feedAll (s : State) (j : Job) : State := j.jets.foldl (fun s x => s.feed x 64) s

/-- Does a jet or an engine still hold a tile or span of output tile `q` of a descriptor that has not run, or has a jet still to take
them up? -/
def State.loading (s : State) (jid q : Nat) : Bool :=
  ((s.job? jid).any fun j => j.d.opcode = opMatmul && j.jets.any fun y => decide (Tab.getD j.queued y 0 ≤ q)) ||
  (s.jets.any fun e => (e.2.loads.any fun l => l.jid = jid && l.ot = q) || (e.2.paused.any fun l => l.jid = jid && l.ot = q) ||
    (e.2.shadow.any fun t => t.load.jid = jid && t.load.ot = q) ||
    e.2.spans.any fun sp => sp.any fun l => l.jid = jid && l.ot = q) ||
  s.engines.any fun e => (e.2.shadow.any fun a => a.tiles.any fun l => l.jid = jid && l.ot = q) ||
    e.2.waiting.any fun a => a.tiles.any fun l => l.jid = jid && l.ot = q

/-- A descriptor that ends no group is done once its last weight tile has swapped in; its rows run out (log 33). -/
def State.afterSwap (s : State) (jid : Nat) : State :=
  s.whenJob jid (fun j => j.phase = .draining && j.d.opcode = opMatmul && !j.d.accEnd && !s.loading jid j.tile) fun j =>
    (j.jets.foldl (fun s x => (s.retireOf x j.jid j.tile).spanOver x) s).endJob { j with reads := [] } 0 0

/-- The slots that a descriptor has read, held by its open groups until they close; also where K = 0 adds no term (R259). -/
def State.holdReads (s : State) (j : Job) : State :=
  j.jets.foldl (fun (s : State) x =>
    { s with grp := Tab.modify s.grp (grpKey x j.d.accGroup) fun g => { g with reads := (g.reads ++ j.reads).eraseDups } }) s

/-- MATMUL's effect once its tokens are there: its codebook is read and its jets take up their first weight tiles. A descriptor
that neither drains nor has a tile to load is done. -/
def State.startMatmul (s : State) (j : Job) : State :=
  match s.readBooks j [(j.d.serial = .code4, j.d.wSrc)] with
  | (s, j, some e) => s.failJob j e.1 e.2
  | (s, j, none) =>
    let j := { j with
      phase := .draining
      queued := ((List.range j.jets.length).zip j.jets).map fun x => (x.2, if j.abreast = 4 then x.1 else 0) }
    if j.bk = 0 && !j.d.accEnd then (s.holdReads j).endJob { j with reads := [] } 0 0
    else ((s.putJob j).feedAll j).afterSwap j.jid

/-- The addresses MATMUL or CONVERT reads through, with their bytes; a directory takes the place of a plain tensor, but a
codebook stays at op.w_src (R160). -/
def Job.tensorReads (j : Job) : List (Nat × Nat) :=
  let b := j.blk
  (if b.aDir = 0 || !j.d.broad.tileable then [(56, j.d.aSrc)] else []) ++
  (if j.d.readsSerial && (b.wDir = 0 || j.d.serial = .code4 || !j.d.serial.tileable) then [(64, j.d.wSrc)] else []) ++
  (if j.d.metaSrc = 0 then [] else [(72, j.d.metaSrc)])

/-- The address fields of a sparse operand block (R159, R274). -/
def Job.sparseFlds (j : Job) : List Fld :=
  let b := j.blk
  if j.d.metaSrc = 0 then [] else
    [⟨0, b.aDir, true, true⟩, ⟨8, b.wDir, j.d.readsSerial, true⟩, ⟨16, b.om.dir, false, true⟩] ++
      (if b.om.dir = 0 then [] else [⟨24, b.om.bmp, false, true⟩])

/-- Step 9 for opcodes that take a sparse operand block. -/
def State.sparseCheck (s : State) (j : Job) : Option Err :=
  s.blockCheck j (if j.d.metaSrc = 0 then [] else sparseBad j.block) j.tensorReads j.sparseFlds

/-- The addresses such a descriptor writes through. -/
def Job.tensorWrites (j : Job) : List Nat :=
  let o := j.outPlan
  [j.d.outDst] ++ (if o.tiled then [o.dir.1, o.bmp.1] else [])

/-- MATMUL as issue runs it; a write slot's token is claimed at the drain. -/
def matmulOp : Op where
  format := fun _ _ => none
  blockLen := fun _ => 64
  check := fun s j => (s, s.sparseCheck j)
  noop := fun j => j.bm = 0 || j.bn = 0
  acc := true
  shape := fun j => j.d.shape
  terms := fun j => j.bk
  last := fun s _ => (s, none)
  reads := fun j => j.tensorReads.map Prod.snd ++ (j.sparseFlds.filter (·.reads)).map (·.addr)
  writes := fun _ => []
  opens := fun s j =>
    if j.d.accBegin then ((List.range (min j.abreast j.tileCount)).foldl (fun s q => s.openTile j q) s, j) else s.joinGroup j
  run := State.startMatmul

/-- MATMUL (R298). -/
def execMatmul (jid stalls : Nat) (s : State) : Res := .next (s.issueRow ⟨jid, stalls⟩ (fun d => d.opcode = opMatmul) matmulOp)

end Sys2Proof.Machine
end

