-- ==== Sys2Proof/Machine/Drain.lean ====
section
/-! DEFINITION. Draining a tile to memory: the Drizzle offset, writes, counts, flags and Halo samples (R105, R183 to R189,
R215, R216, R219), the drain of an accumulation group (R88, R92, R104), and DRAIN (R115, R283). -/

namespace Sys2Proof.Machine

/-! ### Halo samples -/

/-- Registers of the jets of a logical terrace, its reserve jet last. -/
def State.terraceJets (s : State) (t : Nat) : List Nat :=
  (List.range 16).map (fun i => s.physJ (16 * t + i)) ++ [s.physJ (560 + t)]

/-- The debug view of a terrace is open while any of its jets is halted (R347). -/
def State.viewOpen (s : State) (t : Nat) : Bool := (s.terraceJets t).any fun u => s.fld (rk .JT_STATUS u) 0 2 = 2

/-- May Halo sample: its rate is set and it is not disabled (R215, R225)? -/
def State.haloOn (s : State) (d : Desc) : Bool := d.haloRate ≠ 0 && !s.bit (rk .HL_CTRL) 0

/-- Is counter `c` of a descriptor's seed drawn for a sample (R214, R215)? -/
def Desc.drawn (d : Desc) (c : Nat) : Bool :=
  srand (2 ^ 64 - 1 - d.seed) c % 2 ^ (d.haloRate - 1) = 0

/-- A sample queued, or discarded and counted (R219); the flag says it was taken. -/
def State.offerSample (s : State) (x : HaloSample) : State × Bool :=
  let t := x.basin / 4
  let q := Tab.getD s.haloQ t []
  if s.spared t || s.viewOpen t then (s.bump (rk .HL_DROPPED 0 t), false)
  else if 16 ≤ q.length then (s.bump (rk .HL_QUEUE_DROPPED 0 t), false)
  else
    (({ s with haloQ := Tab.put s.haloQ t (q ++ [x]) }).setReg (rk .HL_PENDING 0 t) (BitVec.ofNat 64 (q.length + 1)), true)

/-- Does an operand lie in device memory: a plain tensor by its address, a tiled one by the data of its tiles (R215)? -/
def State.inMemory (s : State) (w : Who) (o : Operand) : Bool :=
  if o.dir = 0 then !isSlotRef o.ref else (s.opHdrs w o 0 o.rows 0 o.len).all fun h => !isSlotRef h.2.2.data

/-- Are the operands of a MATMUL in device memory, not in slots (R215)? -/
def State.sampleable (s : State) (j : Job) : Bool := s.inMemory j.who j.broadOp && s.inMemory j.who j.serialOp

/-- The columns of segment `t` of `n` columns among codes written from column `first` on; the others are left out. -/
def segCodes (n t first : Nat) (cs : List (Nat × Nat × Bool)) : List (Nat × Nat × Bool) :=
  (List.range (min 128 (n - 128 * t))).map fun i =>
    if first ≤ 128 * t + i then cs.getD (128 * t + i - first) (0, 0, true) else (0, 0, true)

/-- The columns of a segment that the drain of another output tile writes join its sample, if it was taken. -/
def State.joinSample (s : State) (j : Job) (m t : Nat) (cs : List (Nat × Nat × Bool)) : State :=
  { s with haloQ := Tab.modify s.haloQ (basinOf j.unit / 4) fun q => q.map fun x =>
      if x.ring = j.ring ∧ x.seq = j.seq ∧ x.m = m ∧ x.j = t then
        { x with codes := (x.codes.zip cs).map fun c => if c.2.2.2 then c.1 else c.2 } else x }

/-- The samples of the drained row segments of a MATMUL, of an output tile with columns from `n0` to `n1 - 1` (R215, R216). -/
def State.sampleSegs (s : State) (j : Job) (n n0 n1 : Nat) (segs : List (Nat × Nat × List (Nat × Nat × Bool))) : State × Job :=
  if j.silent || j.d.opcode ≠ opMatmul || !s.haloOn j.d || !s.sampleable j then (s, j)
  else
    segs.foldl (fun r g =>
      (List.range (ceilDiv n 128)).foldl (fun (r : State × Job) t =>
        let cs := segCodes n t g.2.1 g.2.2
        if !j.d.drawn (g.1 * 2 ^ 17 + t) then r
        else if 128 * t < n0 || n1 ≤ 128 * t then
          (if g.2.1 < 128 * t + 128 && 128 * t < g.2.1 + g.2.2.length then r.1.joinSample j g.1 t cs else r.1, r.2)
        else
          let a := r.1.offerSample ⟨j.ring, j.seq, j.d, j.bm, j.bn, j.bk, basinOf j.unit, g.1, t, cs, [], j.block⟩
          (a.1, r.2.mark flHalo a.2)) r) (s, j)

/-! ### One drained tile -/

/-- The governor offset g of an output tile (R187). -/
def State.offset (s : State) (q : Nat) (d : Desc) : Nat :=
  if d.drizzleBand = 0 || s.bit (rk .DZ_CTRL) 0 then 0
  else d.drizzleBand * s.fld (rk .DZ_PRESSURE 0 (q / 4)) 0 9 / 256

/-- Does a write go to another member that no route reaches (R409)? -/
def State.peerBlocked (s : State) (w : Nat × Nat × List Byte) : Bool :=
  s.casc.isSome && (List.range w.2.2.length).any fun i =>
    if isSlotRef w.1 then (s.slotBasin w.1).isNone && !s.reachable (slotUnit w.1 / 2 ^ 16)
    else match s.place w.1 (w.2.1 + i) with
      | .peer m _ | .away m _ => !s.reachable m
      | _ => false

/-- Does a write reach host memory that the device cannot reach now (R380), or a member that it cannot reach (R409)? -/
def State.hostBlocked (s : State) (ws : List (Nat × Nat × List Byte)) : Bool :=
  (!s.bit (rk .HI_LINK) 10 && ws.any fun w => (List.range w.2.2.length).any fun i =>
    match s.place w.1 (w.2.1 + i) with
    | .host _ => true
    | _ => false) || ws.any s.peerBlocked

/-- A descriptor's counts and Drizzle bounds after a drained tile; a replay of posted work counts nothing (R453). -/
def Job.counted (j : Job) (r : Drained) (g : Nat) (dz : Bool) : Job :=
  let lo := if dz then g else 0
  let j := (j.mark flSat r.sat).mark flNonfinite r.bad
  { j with
    counts := j.counts.plus r.counts
    dzLo := if j.dzAny then min j.dzLo lo else lo
    dzHi := max j.dzHi lo
    dzAny := true
    carry := r.carry }

/-- One output tile through steps 3 to 9 of R105, written, counted and sampled. -/
def State.drainOut (s : State) (j : Job) (o : Out) (t : TileIn) : State × Job × Option Err :=
  let g := s.offset (basinOf j.unit) j.d
  let dz := o.fmt.drizzles
  let r := drainTile o { t with thr := min (j.d.drizzleT + g) 65535, carry := j.carry }
  if s.hostBlocked r.writes then (s, j, some (stLink, 0))
  else
    let s := s.writeAll j.who r.writes
    let s := if dz && !j.silent then s.bump (rk .DZ_ZEROED) r.zeroed else s
    let s := if dz && !j.silent && decide (g ≠ 0) then s.bump (rk .DZ_OFFSET_TILES) else s
    let a := s.sampleSegs (j.counted r g dz) o.n t.n0 (t.n0 + ((t.vals.head?.map List.length).getD 0)) r.segs
    (a.1, a.2, none)

/-! ### Values of a group -/

/-- The value of entry (r, c) of a part's group with its clamp count, before any merge. -/
def State.partValue (s : State) (g : Group) (x r c : Nat) : Num := entryValue g.kind g.exp (s.accAt x (g.row0 + r) c)

/-- The exponent that a basin merge uses; none where two groups of the block domain differ (R92). -/
def mergeExp (gs : List Group) : Option Int :=
  match gs.filter fun g => g.domain = 2 && g.eSet with
  | [] => some ((gs.head?.map Group.exp).getD 0)
  | g :: r => if r.all fun h => h.e = g.e then some g.e else none

/-- The merged value of an entry of a COLUMN group (R85, R92), and INT32 clamps. -/
def State.mergedValue (s : State) (g : Group) (e : Int) (xs : List Nat) (r c : Nat) : Num × Nat :=
  let v (i : Nat) : Nat := s.accAt (xs.getD i 0) (g.row0 + r) c
  let a := mergeEntry g.kind (v 0) (v 1)
  let b := mergeEntry g.kind (v 2) (v 3)
  let m := mergeEntry g.kind a.1 b.1
  (entryValue g.kind e m.1, flagNat a.2 + flagNat b.2 + flagNat m.2)

/-- The values of a tile of `m` rows and `n` columns that parts hold in group `gid`, with INT32 merge clamps. -/
def State.tileValues (s : State) (gid : Nat) (g : Group) (e : Int) (ps : List Part) (merge : Bool) (m n : Nat) :
    List (List Num) × Nat :=
  if merge then
    let xs := ps.map (·.jet)
    let vs := (List.range m).map fun r => (List.range n).map fun c => s.mergedValue g e xs r c
    (vs.map fun r => r.map Prod.fst, (vs.map fun r => (r.map Prod.snd).sum).sum)
  else
    ((List.range m).map fun r => (List.range n).map fun c =>
      match ps.find? fun p =>
          decide (p.row ≤ r) && decide (r < p.row + p.rows) && decide (p.col ≤ c) && decide (c < p.col + p.cols) with
      | some p => s.partValue ((s.group? p.jet gid).getD g) p.jet (r - p.row) (c - p.col)
      | none => Num.zero, 0)

/-- A rectangle of an output: first row and column, rows and columns. -/
abbrev Rect := Nat × Nat × Nat × Nat

/-- The drain of the parts of group `gid` into a rectangle of the output, steps 1 to 9 of R105; `fill` for a DRAIN, whose records go out
whole. -/
def State.drainParts (s : State) (j : Job) (gid : Nat) (ps : List Part) (merge : Bool) (o : Out) (t : Rect) (fill : Bool) :
    State × Job × Option Err :=
  let gs := ps.filterMap fun p => s.group? p.jet gid
  match gs.head?, (if merge then mergeExp gs else some 0) with
  | none, _ => (s, j, none)
  | some _, none => (s, j, some (stScaleDomain, 0))
  | some g, some e =>
    let q := basinOf j.unit
    match s.prmRead q j.d o.n with
    | (s, some x) => (s, j, some x)
    | (s, none) =>
      let s := s.readAcc fun k => ps.any fun p => ((s.group? p.jet gid).any fun g => inRows p.jet g.row0 p.rows k) && decide (k % 128 < p.cols)
      let v := s.tileValues gid g e ps merge t.2.2.1 t.2.2.2
      let sat := decide (v.2 ≠ 0) || gs.any (·.sat)
      let j := (j.mark flSat sat).mark flLapsed (gs.any (·.lapsed))
      let j := { j with counts := { j.counts with accSat := j.counts.accSat + v.2 } }
      s.drainOut j o
        { d := j.d, exact := decide (g.kind = 0), prm := s.prm q j.d o.n
          weir := if j.d.scaleMode = 3 then some j.weirX else none
          thr := 0, empty := decide (g.nTotal = 0), m0 := t.1, n0 := t.2.1, fill := fill, carry := [], vals := v.1 }

/-! ### The closing drain -/

/-- Slots emptied at the end of their use (R259). -/
def State.emptyAll (s : State) (cs : List (Nat × Nat)) : State := cs.foldl (fun s c => s.slotEmpty c.1 c.2) s

/-- The slots that the descriptors of a job's group have read. -/
def State.groupReads (s : State) (j : Job) : List (Nat × Nat) :=
  (j.reads ++ j.jets.flatMap fun x => match s.group? x j.d.accGroup with | some g => g.reads | none => []).eraseDups

/-- The lowest open output tile of a descriptor whose weight tiles have all run (R298). -/
def State.dueTile (s : State) (j : Job) : Option Nat := j.openTiles.find? fun q => !s.loading j.jid q

/-- The place, rows and columns of output tile `q` as it drains: a group that the descriptor continues drains the rows of its
opening (R97). -/
def State.drainRect (s : State) (j : Job) (q : Nat) : Rect :=
  let t := j.tileAt q
  if j.d.accBegin then t
  else match j.jets.head?.bind fun x => s.group? x j.d.accGroup with
    | some g => (t.1, t.2.1, min j.d.tileDims.1 g.mTotal, t.2.2.2)
    | none => t

/-- The layout of the output of a closing drain; M is the opening descriptor's where the group is continued (R97, R112). -/
def State.closePlan (s : State) (j : Job) : Out :=
  if j.d.accBegin then j.outPlan
  else match j.jets.head?.bind fun x => s.group? x j.d.accGroup with
    | some g => j.d.outPlan j.d.out g.mTotal j.bn j.d.tileDims.2 j.blk.om
    | none => j.outPlan

/-- The drain of output tile `q`; then the next one of its jets opens, or the descriptor is done (R99, R104, R259, R298). -/
def State.drainTileStep (s : State) (j : Job) (q : Nat) : State :=
  let t := s.drainRect j q
  let ps := j.parts q t.2.2.1 t.2.2.2
  let s := ps.foldl (fun s p => (s.retireOf p.jet j.jid q).spanOver p.jet) s
  match s.drainParts j j.d.accGroup ps (j.d.shape = 2 && decide (ps.length = 4)) (s.closePlan j) t false with
  | (s, j, some e) => s.failJob j e.1 e.2
  | (s, j, none) =>
    let rd := s.groupReads j
    let s := ps.foldl (fun s p => s.shut p.jet j.d.accGroup) s
    let j := { j with tried := j.tried.filter fun e => !ps.any fun p => p.jet = e.1 }
    let j := j.drainedTile q
    if j.tile < j.tileCount then
      let j := { j with reads := rd, phase := .draining }
      let s := s.putJob j
      (if q + j.abreast < j.tileCount then s.openTile j (q + j.abreast) else s).feedAll j
    else (s.emptyAll rd).succeed { j with reads := [] }

/-- The drain of the lowest output tile that is due. -/
def State.drainStep (s : State) (j : Job) : State := s.drainTileStep j ((s.dueTile j).getD j.tile)

/-- The drain waits for the token of the slot it writes, then runs (R258). -/
def State.tryDrain (s : State) (j : Job) : State :=
  match s.takeTokens j [] (s.slotsOf j.tensorWrites) with
  | (s, j, some c) => s.waitToken j .drainWait (some c)
  | (s, j, none) => s.drainStep { j with phase := .draining, waitOn := none }

/-! ### DRAIN -/

/-- The place of a jet's part of an output in the shape that opened the group (R283, R294): row and column offset. -/
def partPlace (shape x : Nat) : Nat × Nat :=
  if shape = 1 ∨ shape = 5 then (0, 128 * (x % 4))
  else if shape = 3 then (256 * (x % 4 / 2), 128 * (x % 4 % 2))
  else (0, 0)

/-- The layout of a DRAIN of a group: the opening descriptor's M and N, and the opening shape's tile width. -/
def Job.drainPlan (j : Job) (g : Group) : Out :=
  j.d.outPlan j.d.out g.mTotal g.n ({ j.d with shape := g.shape } : Desc).tileDims.2 OutMeta.default

/-- One jet's part of an open group drained at its place; every record that holds one of its columns is written (R283, log
30). -/
def State.drainJet (s : State) (j : Job) (x : Nat) : State × Job × Option Err :=
  match s.group? x j.d.accGroup with
  | none => (s, j, none)
  | some g =>
    let p := partPlace g.shape x
    s.drainParts j j.d.accGroup [⟨x, 0, g.live, 0, g.cols, none⟩] false (j.drainPlan g) (p.1, p.2, g.live, g.cols) true

/-- Jets drained one after another. -/
def State.drainJets (s : State) (j : Job) : List Nat → State × Job × Option Err
  | [] => (s, j, none)
  | x :: r =>
    match s.drainJet j x with
    | (s, j, some e) => (s, j, some e)
    | (s, j, none) => s.drainJets j r

/-- The parts of a group that all four jets of a basin hold. -/
def wholeParts (g : Group) (js : List Nat) : List Part :=
  ({ Job.fresh 0 0 0 0 none (Desc.ofBytes []) [] with
      unit := 0x200 + js.headD 0 / 4, d := { Desc.ofBytes [] with shape := g.shape } } : Job).parts 0 g.mTotal g.n

/-- DRAIN's effect: the open group's live rows, written as a partial output; the group stays as it is (R115). -/
def State.runDrain (s : State) (j : Job) : State :=
  let js := unitJets j.unit
  let j := j.mark flPartial true
  let open' := js.filter fun x => (s.open? x j.d.accGroup).isSome
  let r :=
    match open'.head?.bind fun x => s.group? x j.d.accGroup with
    | none => (s, j, none)
    | some g =>
      if js.length = 4 ∧ open'.length = 4 ∧ (g.shape = 1 ∨ g.shape = 2 ∨ g.shape = 3 ∨ g.shape = 5) then
        s.drainParts j j.d.accGroup (wholeParts g js) (g.shape = 2) (j.drainPlan g) (0, 0, g.mTotal, g.n) true
      else s.drainJets j open'
  match r with
  | (s, j, some e) => s.failJob j e.1 e.2
  | (s, j, none) => s.succeed j

/-- DRAIN as issue runs it. Its output goes where the group's layout puts it, so it claims the slot of op.out_dst. -/
def drainOp : Op :=
  { Op.plain (fun _ => false) (fun _ => []) (fun j => [j.d.outDst]) State.runDrain with acc := true }

/-- DRAIN (R115). -/
def execDrain (run : IssueRun) (s : State) : Res := .next (s.issueRow run (fun d => d.opcode = opDrain) drainOp)

end Sys2Proof.Machine
end

