-- ==== Sys2Proof/Machine/Kernels.lean ====
section
/-! DEFINITION. What the opcodes with products of their own share: FP32C sums of lanes, align_block over FP32 values, and the
weight tiles that their products hold in the jets (R41, R85, R90, R93, R294, R298). -/

namespace Sys2Proof.Machine

/-- A finite FP32 encoding as a value, 0 where it is not finite. -/
def clean32 (x : Nat) : Num := if finite32 x then ofFp32 x else Num.zero

/-- An FP32C entry after the group sums of a column and a row, in ascending K (R85, R90). -/
def dotInto (log : Bool) (tree x : Nat) (w a : List Lane) : Nat :=
  (groupSums log tree w a).foldl addEntry32c x

/-- Does a pair of a column and a row bring a non-finite element (R91)? -/
def dotBad (w a : List Lane) : Bool := (w.zip a).any fun p => p.1.bad || p.2.bad

/-- The FP32 value of an FP32C entry: s + c rounded once, or s if it is not finite. -/
def entry32 (x : Nat) : Nat := fp32 (pairValue (x % 2 ^ 32) (x / 2 ^ 32))

/-- A row of FP32 values as lanes of width `W` under align_block (R41); `keep` marks the values that take part, and any
other is 0. What the alignment turns to 0 is counted nowhere (log 29). -/
def alignRow (W : Nat) (keep : List Bool) (xs : List Nat) : List Lane :=
  let a := alignBlock ((xs.zip keep).map fun p => if p.2 then clean32 p.1 else Num.zero) W
  a.1.map fun n => ⟨n, a.2, false⟩

/-- Rows of an operand as lanes of a role, with the elements that alignment flushed (R43, R206). -/
def State.laneRow (s : State) (j : Job) (role : Role) (o : Operand) (bits passes r : Nat) : List Lane × Nat :=
  let es := s.opRow j.who o r
  let ls := o.fmt.convRow (o.fmt.convW role bits passes) o.book es
  (ls, o.fmt.flushed o.book es ls)

/-! ### Weight tiles of a product -/

/-- The tiles of a product of `rows` rows over `n` columns of `K` integers on each jet of a basin, in lock-step as a SPRAY or SLIVER
MATMUL runs it: output tiles of 512 columns, K-tiles of `128 · p` indices (R294, R298). `kt` numbers its K-tiles. -/
def Job.productTiles (j : Job) (kind : TileKind) (kt n K p rows : Nat) : List (Nat × List TileLoad) :=
  let w := 128 * p
  ((List.range (unitJets j.unit).length).zip (unitJets j.unit)).map fun x =>
    (x.2, (List.range (ceilDiv n 512)).flatMap fun o => (List.range (ceilDiv K w)).filterMap fun t =>
      let c0 := 512 * o + 128 * x.1
      if c0 < n then
        some ⟨j.jid, j.d, kind, 0, kt + o * ceilDiv K w + t, c0, min 128 (n - c0), [(t * w, min w (K - t * w))], 0, rows, true, none, 0⟩
      else none)

/-- Weight tiles queued on jets, and what is due on them taken up. -/
def State.pushTiles (s : State) (j : Job) (ts : List (Nat × List TileLoad)) : State :=
  let n := (ts.map fun x => s.nextSeq x.1).foldl max 0
  (ts.foldl (fun s x => s.pushSpans x.1 (j.cls = 0) (x.2.map fun l => [{ l with seq := n }])) s).feedAll j

/-- The group of an opcode whose products' terms it has taken in, on the jets of its basin (R93, R95). -/
def State.takeTerms (s : State) (j : Job) (n : Nat) : State × Job :=
  ((unitJets j.unit).foldl (fun (s : State) x => { s with grp := Tab.modify s.grp (grpKey x j.d.accGroup) fun g => g.terms n }) s,
    j.mark flLapsed (decide (2 ^ 22 < n)))

/-- The group of an opcode closed on every jet of its basin. -/
def State.shutAll (s : State) (j : Job) : State := (unitJets j.unit).foldl (fun s x => s.shut x j.d.accGroup) s

/-- Is a pair of a format byte and a bits byte one that R32 permits in the serial role beside a broad operand: LOG4 beside LOG4 only, and
no STREAM? -/
def serialPair (broad : Fmt) (fmt bits : Nat) : Bool :=
  match Fmt.ofCode .serial (fmt % 16) bits with
  | none => false
  | some f => (f ≠ .log4 || broad = .log4) && !f.isStream

end Sys2Proof.Machine
end

