-- ==== Sys2Proof/Machine/Barrier.lean ====
section
/-! DEFINITION. BARRIER: leaving its ring, rounds, arrivals and timeouts (R285, R286). -/

namespace Sys2Proof.Machine

/-- Has every descriptor that a BARRIER's ring dispatched before it completed? One carried here over Rill waited at its
own module. -/
def State.fenced (s : State) (j : Job) : Bool :=
  j.origin.isSome || !s.jobs.any fun x => x.ring = j.ring && x.origin = none && decide (x.jid < j.jid) && x.phase ≠ .done

/-- BARRIER as issue runs it: it goes to its round. -/
def barrierOp : Op :=
  Op.plain (fun j => j.bn = 0) (fun _ => []) (fun _ => []) fun s j => s.putJob { j with phase := .barrierSent }

/-- BARRIER (R277, R285): once its ring's earlier descriptors have completed, it issues at its target device, or is carried
to the member it targets. -/
def execBarrier (jid : Nat) (s : State) : Res :=
  .next (s.whenJob jid (fun j => j.d.opcode = opBarrier && s.issueDue j && s.fenced j) fun j =>
    let m := j.d.target / 2 ^ 16
    if s.isHere m then s.issueAs j barrierOp
    else if s.reachable m then (s.putJob { j with phase := .away, member := some m }).linkDescriptor j m
    else s.endJob j stLink 0)

/-- The barrier id (R285). -/
def Job.barrierId (j : Job) : Nat := j.d.seed % 2 ^ 16

/-- Has an arrival joined its round? -/
def State.inRound (s : State) (j : Job) : Bool :=
  match Tab.find? s.rounds j.barrierId with
  | some r => r.arrivals.contains j.jid
  | none => false

/-- An arrival joins a round; the P-th completes them all and closes it. -/
def State.joinRound (s : State) (j : Job) (r : Round) : State :=
  let r := { r with arrivals := r.arrivals ++ [j.jid] }
  let s := s.putJob { j with phase := .barrierArrived, waitFrom := if j.phase = .barrierSent then s.tk else j.waitFrom }
  if r.p ≤ r.arrivals.length then
    r.arrivals.foldl (fun s k => s.whenJob k (fun _ => true) fun x => s.succeed x)
      { s with rounds := Tab.del s.rounds j.barrierId }
  else { s with rounds := Tab.put s.rounds j.barrierId r }

/-- BARRIER_ARRIVAL (R286): the arrival joins the open round of its id, or opens one; with 1,024 rounds open it waits, and
is due again once a round has closed. -/
def execBarrierArrival (jid : Nat) (s : State) : Res :=
  .next (s.whenJob jid (fun j => j.phase = .barrierSent || (j.phase = .barrierArrived && !s.inRound j)) fun j =>
    match Tab.find? s.rounds j.barrierId with
    | some r => s.joinRound j r
    | none =>
      if s.rounds.length < 1024 then s.joinRound j ⟨j.bn, []⟩
      else s.putJob { j with phase := .barrierArrived, waitFrom := if j.phase = .barrierSent then s.tk else j.waitFrom })

/-- BARRIER_TIMEOUT (R286): op.k µs have passed since the arrival; it leaves its round, which counts one arrival fewer. -/
def execBarrierTimeout (jid : Nat) (s : State) : Res :=
  .next (s.whenJob jid
    (fun j => j.phase = .barrierArrived && j.bk ≠ 0 && decide (33000 * j.bk ≤ s.tk - j.waitFrom)) fun j =>
    ({ s with rounds := Tab.modify s.rounds j.barrierId fun r => { r with arrivals := r.arrivals.filter (· ≠ jid) } }).failJob j
      stBarrier 0)

end Sys2Proof.Machine
end

