-- ==== Sys2Proof/Machine/Basad.lean ====
section
/-! DEFINITION. EMU_BASAD: the generators, the stream product, the conversions, and the three kinds of descriptor (R226 to
R240). -/

namespace Sys2Proof.Machine

/-- `step_a` of R228. -/
def stepA (s : Nat) : Nat :=
  (2 * s + (bitsOf s 15 1 + bitsOf s 13 1 + bitsOf s 12 1 + bitsOf s 10 1) % 2) % 2 ^ 16

/-- `step_w` of R228. -/
def stepW (s : Nat) : Nat :=
  (2 * s + (bitsOf s 15 1 + bitsOf s 14 1 + bitsOf s 12 1 + bitsOf s 3 1) % 2) % 2 ^ 16

/-- `step_s` of R228. -/
def stepS (s : Nat) : Nat := (2 * s + (bitsOf s 16 1 + bitsOf s 13 1) % 2) % 2 ^ 17

/-- The seeds of R229. -/
def seedA (p : Profile) (k : Nat) : Nat := (p.baseA + 0x3D05 * k) % 65535 + 1
/-- Seed of the serial stream of K index `k`. -/
def seedW (p : Profile) (k : Nat) : Nat := (p.baseW + 0x5A31 * k) % 65535 + 1
/-- Seed of the selection of output column `j`. -/
def seedS (p : Profile) (j : Nat) : Nat := (p.baseS + 0x1F35 * j) % 131071 + 1

/-- The running state of a stream product: the generators and the ones counted. -/
structure Dot where
  a : List Nat
  w : List Nat
  s : Nat
  ones : Nat
  deriving DecidableEq, Repr

/-- One cycle of `basad_dot` (R230). -/
def Dot.cycle (p : Profile) (b : Nat) (ar wc : List Nat) (x : Dot) : Dot :=
  let i := x.s * ar.length / 2 ^ 17
  let xa := decide (x.a.getD i 0 / 2 ^ (16 - b) < ar.getD i 0)
  let xw := decide (x.w.getD i 0 / 2 ^ (16 - b) < wc.getD i 0)
  let one := if p.unipolar then xa && xw else xa == xw
  ⟨x.a.map stepA, x.w.map stepW, stepS x.s, x.ones + flagNat one⟩

/-- The ones counted over 2^b cycles for output column `j` (R230); none are counted where K is 0 (R235). -/
def dotOnes (p : Profile) (b j : Nat) (ar wc : List Nat) : Nat :=
  if ar.isEmpty then 0
  else
    ((List.range (2 ^ b)).foldl (fun (x : Dot) _ => x.cycle p b ar wc)
      ⟨(List.range ar.length).map (seedA p), (List.range ar.length).map (seedW p), seedS p j, 0⟩).ones

/-- The output code and whether it was clamped (R230, R231). -/
def basadDot (p : Profile) (b j : Nat) (ar wc : List Nat) : Nat × Bool :=
  let n := dotOnes p b j ar wc
  (min n (2 ^ b - 1), decide (2 ^ b ≤ n))

/-- The value of a STREAM code (R227). -/
def streamValue (p : Profile) (b c : Nat) : Num :=
  if p.unipolar then Num.ofInt c (-b) else Num.ofInt (2 * (c : Int) - 2 ^ b) (-b)

/-- Is a STREAM code zero for monitor counting (R227)? -/
def streamZero (p : Profile) (b c : Nat) : Bool := if p.unipolar then c = 0 else c = 2 ^ (b - 1)

/-! ### Checks -/

/-- Row 4 of R235: is the conversion a row of the table of R233? -/
def Desc.convRowOk (d : Desc) (p : Profile) : Bool :=
  let b := d.broadBits
  let wide := decide (4 ≤ b) && decide (b ≤ 10)
  wide && (if d.rowfn = 1 then d.broadFmt = (if p.unipolar then 1 else 0) && d.outFmt = 0xC0
    else d.broadFmt = 12 && (d.outFmt = 0xD0 || d.outFmt = (if p.unipolar then 0x10 else 0) + b - 1))

/-- R235 from its second row, in table order. -/
def Job.emuCheck (j : Job) : Option Err :=
  let d := j.d
  if d.shape ≠ 4 then some (stShape, 0)
  else if d.rowfn = 0 ∧ (d.serialFmt ≠ 12 ∨ d.broadFmt ≠ 12 ∨ d.serialBits ≠ d.broadBits ∨ d.outFmt ≠ 0xC0) then
    some (stFormat, 0)
  else if d.rowfn ≠ 0 ∧ !d.convRowOk j.profile then some (stFormat, 0)
  else if d.scaleMode ≠ 0 ∨ d.eltfn ≠ 0 ∨ d.reduce ≠ 0 then some (stFormat, 0)
  else if d.rowfn = 0 ∧ (65536 < j.bk ∨ (unitKind (d.target % 2 ^ 16) = some .jet ∧ 256 < j.bm)) then some (stRange, 3)
  else none

/-- Step 9 of an EMU_BASAD: slot references on another basin (R276), then R235. -/
def State.emuStep9 (s : State) (j : Job) : State × Option Err :=
  match s.blockCheck j [] ([(56, j.d.aSrc)] ++ if j.d.isDot then [(64, j.d.wSrc)] else []) [] with
  | some e => (s, some e)
  | none => (s, j.emuCheck)

/-! ### The three kinds -/

/-- Codes of row `r` of a plain operand. -/
def State.codes (s : State) (j : Job) (o : Operand) (r : Nat) : List Nat := (s.opRow j.who o r).map fun e => e.1.getD 0

/-- Plain output rows of packed codes, each padded to its pitch (R34, R234). -/
def plainRows (dst : Nat) (f : Fmt) (rows : List (List Nat)) : List (Nat × Nat × List Byte) :=
  ((List.range rows.length).zip rows).map fun r =>
    let b := packBits f.width r.2
    let p := f.pitch r.2.length
    (dst, r.1 * p, b ++ List.replicate (p - b.length) 0)

/-- An EMU_BASAD's writes made and counted for jet `x` (R231, R235, R453); an error that ends it. -/
def State.emuWrite (s : State) (j : Job) (x : Nat) (ws : List (Nat × Nat × List Byte)) (elements zeros sat : Nat) : State × Job × Option Err :=
  if s.hostBlocked ws then (s, j, some (stLink, 0))
  else
    let j := j.mark flSat (decide (sat ≠ 0))
    (s.writeAll j.who ws,
      { j with tried := Tab.del j.tried x }.trial x { Counts.zero with elements := elements, zeros := zeros, satOut := sat }, none)

/-- The end of an EMU_BASAD that runs as one. -/
def State.emuDone (s : State) (j : Job) (ws : List (Nat × Nat × List Byte)) (elements zeros sat : Nat) : State :=
  match s.emuWrite j 0 ws elements zeros sat with
  | (s, j, some e) => s.failJob j e.1 e.2
  | (s, j, none) => s.succeed j

/-- The bytes that codes from column `c0` of an output row of `n` fill; the row's last ones are padded to its pitch (R34, R234). -/
def codeWrite (dst : Nat) (f : Fmt) (row c0 n : Nat) (cs : List Nat) : Nat × Nat × List Byte :=
  let b := packBits f.width cs
  let pad := if n ≤ c0 + cs.length then f.pitch n - c0 * f.width / 8 - b.length else 0
  (dst, row * f.pitch n + c0 * f.width / 8, b ++ List.replicate pad 0)

/-- One output tile of a DOT on its jet, from its operands in the pools or memory: its codes written and counted (R230). -/
def State.dotTile (s : State) (j : Job) (q x : Nat) : State × Job × Option Err :=
  let d := j.d
  let b := d.broadBits
  let t := j.tileAt q
  let ao := Operand.of d.broad d.aSrc 0 0 j.bm j.bk
  let wo := Operand.of d.serial d.wSrc 0 0 j.bn j.bk
  match s.readSpans j.who (s.opSpans j.who ao t.1 t.2.2.1 0 j.bk) (x % 4) with
  | (s, some e) => (s, j, some e)
  | (s, none) =>
    let ws := (List.range t.2.2.2).map fun c => s.codes j wo (t.2.1 + c)
    let out := (List.range t.2.2.1).map fun m =>
      let a := s.codes j ao (t.1 + m)
      (t.1 + m, ((List.range t.2.2.2).zip ws).map fun c => basadDot j.profile b (t.2.1 + c.1) a c.2)
    let all := out.flatMap Prod.snd
    s.emuWrite j x (out.map fun r => codeWrite d.outDst (.stream b) r.1 t.2.1 j.bn (r.2.map Prod.fst)) all.length
      (all.filter fun c => streamZero j.profile b c.1).length (all.filter Prod.snd).length

/-- DOT's effect once its tokens are there: one tile for each output tile, on its jet, in order (R298; log 31). -/
def State.startDot (s : State) (j : Job) : State :=
  let d := j.d
  let js := j.jets
  let ts := js.map fun x => (x, (List.range j.tileCount).filterMap fun q =>
    let t := j.tileAt q
    if js.getD (q % js.length) 0 = x then
      some (⟨j.jid, d, .other d.serialFmt d.serialBits d.wSrc j.bk d.broadPasses 0, q, q, t.2.1, t.2.2.2, [(0, j.bk)], t.1, t.2.2.1,
        false, none, 0⟩ : TileLoad)
    else none)
  let j := { j with phase := .draining }
  (s.putJob j).pushTiles j ts

/-- Code of a converted element (R233). -/
def convertCode (d : Desc) (p : Profile) (c : Nat) : Nat :=
  let b := d.broadBits
  if d.outFmt = 0xD0 then fp32 (streamValue p b c)
  else if p.unipolar then c
  else (c + 2 ^ (b - 1)) % 2 ^ b

/-- A conversion's effect: op.m rows of op.k elements (R233). -/
def State.runStream (s : State) (j : Job) : State :=
  let d := j.d
  let b := d.broadBits
  let o := s.operand j.who d.broad d.aSrc 0 0 j.bm j.bk
  match s.readSpans j.who (s.opSpans j.who o 0 j.bm 0 j.bk) with
  | (s, some e) => s.failJob j e.1 e.2
  | (s, none) =>
    let f : Fmt := if d.rowfn = 1 then .stream b else d.out
    let rows := (List.range j.bm).map fun m => (s.codes j o m).map (convertCode d j.profile)
    let zero (c : Nat) : Bool := if d.rowfn = 1 then streamZero j.profile b c else f.zeroCode c
    s.emuDone j (plainRows d.outDst f rows) rows.flatten.length (rows.flatten.filter zero).length 0

/-- DOT as issue runs it. -/
def dotOp : Op :=
  { Op.plain (fun j => j.bm = 0 || j.bn = 0) (fun j => [j.d.aSrc, j.d.wSrc]) (fun j => [j.d.outDst]) State.startDot with
    check := State.emuStep9 }

/-- A conversion as issue runs it; N does not enter (R281). -/
def streamOp : Op :=
  { Op.plain (fun j => j.bm = 0 || j.bk = 0) (fun j => [j.d.aSrc]) (fun j => [j.d.outDst]) State.runStream with
    check := State.emuStep9 }

/-- DOT (R230). -/
def execDot (run : IssueRun) (s : State) : Res := .next (s.issueRow run (fun d => d.opcode = opEmu && d.rowfn = 0) dotOp)

/-- TO_STREAM (R233). -/
def execToStream (run : IssueRun) (s : State) : Res :=
  .next (s.issueRow run (fun d => d.opcode = opEmu && d.rowfn = 1) streamOp)

/-- FROM_STREAM (R233). -/
def execFromStream (run : IssueRun) (s : State) : Res :=
  .next (s.issueRow run (fun d => d.opcode = opEmu && d.rowfn = 2) streamOp)

end Sys2Proof.Machine
end

