-- ==== Sys2Proof/Machine/CheckNode.lean ====
section
/-! DEFINITION. CHECKNODE: min-sum check-node messages and their row records (R138 to R142). -/

namespace Sys2Proof.Machine

/-- R138, apart from the fields R140 reserves. -/
def Job.nodeCheck (j : Job) : Option Err :=
  let d := j.d
  let out := match d.out with | .int w => decide (2 ≤ w) | _ => false
  if d.broadFmt = 0 && decide (2 ≤ d.broadBits) && decide (d.broadBits ≤ 10) && decide (1 ≤ j.bn) && decide (j.bn ≤ 128) &&
      d.shape = 4 && d.accKind = 0 && d.reduce = 4 && out && d.accBegin && d.accEnd then none
  else some (stFormat, 0)

/-- Step 9 of a CHECKNODE. -/
def State.nodeStep9 (s : State) (j : Job) : State × Option Err :=
  match s.blockCheck j [] [(56, j.d.aSrc), (64, j.d.wSrc), (72, j.d.metaSrc)] [] with
  | some e => (s, some e)
  | none => (s, j.nodeCheck)

/-- A row's degree from its byte (R138). -/
def degreeOf (n b : Nat) : Nat := if b = 0 then n else min b n

/-- What the drain finds in a row (R139): min1, idx1, min2 (none where the degree is 1) and S. -/
structure NodeRow where
  min1 : Nat
  idx1 : Nat
  min2 : Option Nat
  sign : Bool
  deriving DecidableEq, Repr

/-- The least of (index, magnitude) pairs, ties to the lower index. -/
def leastOf (l : List (Nat × Nat)) : Option (Nat × Nat) :=
  l.foldl (fun m x => match m with | none => some x | some b => if x.2 < b.2 then some x else some b) none

/-- R139 over the `d` entries of a row. -/
def nodeRow (vs : List Int) : NodeRow :=
  let a := (List.range vs.length).zip (vs.map fun v => min v.natAbs (2 ^ 31 - 1))
  let m := (leastOf a).getD (0, 0)
  { min1 := m.2
    idx1 := m.1
    min2 := (leastOf (a.filter fun x => x.1 ≠ m.1)).map Prod.snd
    sign := decide ((vs.filter fun v => decide (v < 0)).length % 2 = 1) }

/-- The corrected magnitude (R140). -/
def correct (d : Desc) (mag : Nat) : Nat :=
  if d.scaleMode = 1 then mag - d.scaleValue else if d.scaleMode = 2 then rne (mag * d.scaleValue) 16 else mag

/-- The messages of a row (R140): `vs` its first d entries, `n` the columns, `w` the output width. -/
def nodeMessages (d : Desc) (w n : Nat) (vs : List Int) : List Int :=
  let r := nodeRow vs
  (List.range n).map fun c =>
    match vs[c]? with
    | none => 0
    | some v =>
      let mag : Nat := match r.min2 with
        | none => 2 ^ (w - 1) - 1
        | some m2 => correct d (if c = r.idx1 then m2 else r.min1)
      if xor r.sign (decide (v < 0)) then -(mag : Int) else mag

/-- The row record (R141). -/
def nodeRecord (vs : List Int) : List Byte :=
  let r := nodeRow vs
  leBytes 2 (min r.min1 65535) ++ leBytes 2 (match r.min2 with | none => 0xFFFF | some m => min m 65535) ++
  leBytes 1 (r.idx1 + 128 * flagNat r.sign) ++ leBytes 1 (vs.length - 1) ++ leBytes 2 0

/-- The descriptor as its drain reads it: CHECKNODE reads neither an elementwise function nor Drizzle (R138, R283). -/
def Desc.nodeDesc (d : Desc) : Desc := { d with eltfn := 0, drizzleT := 0, drizzleBand := 0 }

/-- The output's layout. -/
def Job.nodePlan (j : Job) : Out := j.d.nodeDesc.outPlan j.d.out j.bm j.bn 128 OutMeta.default

/-- The entries v = x − y of a row (R139). -/
def State.nodeValues (s : State) (j : Job) (m : Nat) : List Int :=
  let rd (a : Nat) : List Int :=
    ((s.laneRow j .broad (Operand.of j.d.broad a 0 0 j.bm j.bn) 0 1 m).1).map (·.n)
  let x := rd j.d.aSrc
  if j.d.wSrc = 0 then x else (x.zip (rd j.d.wSrc)).map fun p => p.1 - p.2

/-- A row's degree. -/
def State.nodeDegree (s : State) (j : Job) (m : Nat) : Nat :=
  degreeOf j.bn (if j.d.metaSrc = 0 then 0 else fieldAt (s.peek j.who j.d.metaSrc m 1) 0 1)

/-- Spans read for rows from `m0`: both message tensors and the degree bytes. -/
def State.nodeSpans (s : State) (j : Job) (m0 rows : Nat) : List Span :=
  let t (a : Nat) : List Span :=
    if a = 0 then [] else s.opSpans j.who (Operand.of j.d.broad a 0 0 j.bm j.bn) m0 rows 0 j.bn
  t j.d.aSrc ++ t j.d.wSrc ++ (if j.d.metaSrc = 0 then [] else [⟨j.d.metaSrc, m0, rows⟩])

/-- Jet of output tile `q`. -/
def Job.nodeJet (j : Job) (q : Nat) : Nat := (unitJets j.unit).getD (if isBasinUnit j.unit then q % 4 else 0) 0

/-- Output tile `q` on its jet: entries, lane counters, messages and records (R139 to R142). -/
def State.nodeTile (s : State) (j : Job) (q : Nat) : State × Job × List (Nat × Nat × List Byte) :=
  let t := j.tileAt q
  let o := j.nodePlan
  let x := j.nodeJet q
  let w := o.fmt.width
  let rows := (List.range t.2.2.1).map fun r =>
    let vs := s.nodeValues j (t.1 + r)
    (r, vs, vs.take (s.nodeDegree j (t.1 + r)))
  let outs := rows.map fun r =>
    let ms := nodeMessages j.d w j.bn r.2.2
    let cs := ms.map fun m => (((o.fmt.encElem (Num.ofInt m) false, 0, 0) : Coded), false)
    ((⟨t.1 + r.1, 0, cs, cs.map fun _ => true, [], 0, 0, []⟩ : RowOut), amax32 (ms.map fun m => Num.ofInt m))
  let recs := rows.map fun r => (o.dst, o.recAt + 8 * (t.1 + r.1), nodeRecord r.2.2)
  let g32 := chunks 32 (outs.length + 1) (outs.map Prod.fst)
  let metas := if o.tiled then ((List.range g32.length).zip g32).flatMap fun g => tileWrites o g.2 (t.1 / 32 + g.1) 0 else []
  let cnt := countCoded o.fmt (outs.flatMap fun r => r.1.cs)
  let u := s.physJ x
  let per := if j.d.wSrc = 0 then 1 else 2
  let live := rows.length * per * ceilDiv j.bn 16
  let s := s.bump (rk .JT_ROW_CYCLES u) (rows.length * per)
  let s := (s.bump (rk .JT_GROUP_LIVE_CYCLES u) live).bump (rk .JT_GROUP_GATED_CYCLES u) (8 * rows.length * per - live)
  let entries := rows.flatMap fun r =>
    ((List.range r.2.1.length).zip r.2.1).map fun c => (accKey x (j.d.accRow0 + r.1) c.1, bitsOfInt c.2 32)
  let s : State := { s with acc := accPuts s.acc entries }
  let j := { j.mark flSat (decide (cnt.satOut ≠ 0)) with
    counts := j.counts.plus { cnt with amax := (outs.map Prod.snd).foldl max 0 } }
  (s, j, (outs.flatMap fun r => r.1.write o) ++ metas ++ recs)

/-- Output tile `q` opens its group on its jet (R98, R99). -/
def State.openNode (s : State) (j : Job) (q : Nat) : State :=
  s.openOn (j.nodeJet q) j.d.accGroup { j.openGroup 4 j.bn (j.tileAt q).2.2.1 (j.cls = 0) with domain := 0 }

/-- CHECKNODE's drain of the lowest output tile still open (R104, R139): it is read, drained and written; then the next tile of its
jet opens, or the descriptor is done. -/
def State.nodeStep (s : State) (j : Job) : State :=
  let t := j.tileAt j.tile
  match s.readSpans j.who (s.nodeSpans j t.1 t.2.2.1) (j.nodeJet j.tile % 4) with
  | (s, some e) => s.failJob j e.1 e.2
  | (s, none) =>
    let r := s.nodeTile j j.tile
    if r.1.hostBlocked r.2.2 then r.1.failJob j stLink 0
    else
      let s := (r.1.writeAll j.who r.2.2).shut (j.nodeJet j.tile) j.d.accGroup
      let j := r.2.1
      if j.tile + 1 < j.tileCount then
        let q := j.tile + j.abreast
        (if q < j.tileCount then s.openNode j q else s).putJob { j with tile := j.tile + 1 }
      else (s.emptyAll j.reads).succeed { j with reads := [] }

/-- The addresses that CHECKNODE writes through. -/
def Job.nodeWrites (j : Job) : List Nat :=
  [j.d.outDst] ++ (if j.nodePlan.tiled then [j.nodePlan.dir.1, j.nodePlan.bmp.1] else [])

/-- CHECKNODE as issue runs it. -/
def nodeOp : Op where
  format := fun _ _ => none
  blockLen := fun _ => 0
  check := State.nodeStep9
  noop := fun j => j.bm = 0 || j.bn = 0
  acc := true
  shape := fun j => j.d.shape
  terms := fun _ => 0
  last := fun s _ => (s, none)
  reads := fun j => [j.d.aSrc, j.d.wSrc, j.d.metaSrc]
  writes := Job.nodeWrites
  opens := fun s j => ((List.range (min j.abreast j.tileCount)).foldl (fun s q => s.openNode j q) s, j)
  run := fun s j => s.putJob { j with phase := .draining }

/-- CHECKNODE (R139). -/
def execChecknode (run : IssueRun) (s : State) : Res := .next (s.issueRow run (fun d => d.opcode = opCheck) nodeOp)

end Sys2Proof.Machine
end

