-- ==== Sys2Proof/Machine/Data.lean ====
section
/-! DEFINITION. CONVERT (R284) and GATHER in both modes (R194, R195). -/

namespace Sys2Proof.Machine

/-! ### CONVERT -/

/-- CONVERT's input: M rows of N elements (R284). -/
def State.convOperand (s : State) (j : Job) : Operand :=
  s.operand j.who j.d.broad j.d.aSrc j.blk.aDir j.blk.aStride j.bm j.bn

/-- CONVERT's output: its output tiles are 512 columns wide. -/
def Job.convPlan (j : Job) : Out := j.d.outPlan j.d.out j.bm j.bn 512 j.blk.om

/-- Output tile `q` of a CONVERT: its headers read and checked (R175), its input read, then the drain path. -/
def State.convTile (s : State) (j : Job) (q : Nat) : State × Job × Option Err :=
  let o := s.convOperand j
  let n0 := 512 * q
  let n := min 512 (j.bn - n0)
  match s.readSpans j.who (s.hdrSpans j.who o 0 j.bm [(n0, n)]) with
  | (s, some e) => (s, j, some e)
  | (s, none) =>
    match (s.opHdrs j.who o 0 j.bm n0 n).find? fun h => h.2.2.invalid with
    | some h => (s, j, some (stTileInvalid, tileDetail h.1 h.2.1))
    | none =>
      match s.readSpans j.who (s.opSpans j.who o 0 j.bm n0 n) with
      | (s, some e) => (s, j, some e)
      | (s, none) =>
        match s.prmRead (basinOf j.unit) j.d j.bn with
        | (s, some e) => (s, j, some e)
        | (s, none) =>
          let vals := (List.range j.bm).map fun m => (((s.opRow j.who o m).drop n0).take n).map (o.fmt.value o.book)
          s.drainOut j j.convPlan
            { d := j.d, exact := true, prm := s.prm (basinOf j.unit) j.d j.bn
              weir := if j.d.scaleMode = 3 then some j.weirX else none
              thr := 0, empty := false, m0 := 0, n0 := n0, fill := false, carry := [], vals := vals }

/-- Output tiles in ascending order, up to the first error. -/
def State.convTiles (s : State) (j : Job) : List Nat → State
  | [] => s.succeed j
  | q :: r =>
    match s.convTile j q with
    | (s, j, some e) => s.failJob j e.1 e.2
    | (s, j, none) => s.convTiles j r

/-- The addresses that CONVERT writes through. -/
def Job.convWrites (j : Job) : List Nat :=
  [j.d.outDst] ++ (if j.convPlan.tiled then [j.convPlan.dir.1, j.convPlan.bmp.1] else [])

/-- CONVERT as issue runs it. -/
def convertOp : Op :=
  { Op.plain (fun j => j.bm = 0 || j.bn = 0)
      (fun j => j.tensorReads.map Prod.snd ++ (j.sparseFlds.filter (·.reads)).map (·.addr)) Job.convWrites
      (fun s j => s.convTiles j (List.range (ceilDiv j.bn 512))) with
    blockLen := fun _ => 64, check := fun s j => (s, s.sparseCheck j) }

/-- CONVERT (R284). -/
def execConvert (run : IssueRun) (s : State) : Res := .next (s.issueRow run (fun d => d.opcode = opConvert) convertOp)

/-! ### GATHER -/

/-- The index count of the list whose first 64 bytes were read at issue. -/
def Job.idxCount (j : Job) : Nat := fieldAt j.block 0 4

/-- The indices of the list at op.meta_src (R194). -/
def State.indices (s : State) (j : Job) : List Nat :=
  let bs := s.peek j.who j.d.metaSrc 64 (4 * j.idxCount)
  (List.range j.idxCount).map fun i => fieldAt bs (4 * i) 4

/-- The source of a GATHER. -/
def State.gatherSrc (s : State) (j : Job) : Operand := s.operand j.who j.d.serial j.d.aSrc 0 0 j.bm j.bk

/-- COLUMNS takes no MX or BFP-ORAN format (R195). -/
def Desc.gatherFormat (d : Desc) : Option Err :=
  if d.rowfn = 1 ∧ (d.serial.isMx ∨ d.serial.isBfp) then some (stFormat, 0) else none

/-- A row of packed codes, padded to its pitch with 0 (R34). -/
def packedRow (f : Fmt) (cs : List Nat) : List Byte :=
  let b := packBits f.width cs
  b ++ List.replicate (f.pitch cs.length - b.length) 0

/-- Source row `i` as it is written (R34, R39, R44): its codes and scales or exponents, what lies beyond K as an output row has
it; zeros at or beyond op.m, of an MX format under scale bytes of 0x7F (log 30). -/
def State.gatherRow (s : State) (j : Job) (o : Operand) (i : Nat) : List Byte :=
  let zero : Elt := (some 0, if o.fmt.isMx then 0x7F else 0)
  let es := if j.bm ≤ i then List.replicate j.bk zero else s.opRow j.who o i
  let b := rowImage o.fmt (es.map fun e => ((⟨e.1.getD 0, .plain, true⟩, e.2, 0) : Coded))
  b ++ List.replicate (o.fmt.pitch j.bk - b.length) 0

/-- The rows of a GATHER's output (R195). -/
def State.gatherOut (s : State) (j : Job) (o : Operand) (ix : List Nat) : List (List Byte) :=
  if j.d.rowfn = 0 then ix.map (s.gatherRow j o)
  else
    let cols := ix.map fun i => if j.bm ≤ i then [] else (s.opRow j.who o i).map fun e => e.1.getD 0
    (List.range j.bk).map fun r => packedRow o.fmt (cols.map fun c => c.getD r 0)

/-- GATHER's effect: the codebook of a CODE4 source, then the output rows. -/
def State.runGather (s : State) (j : Job) : State :=
  match s.readSpan j.who ⟨j.d.metaSrc, 64, 4 * j.idxCount⟩ with
  | (s, some e) => s.failJob j e.1 e.2
  | (s, none) =>
    let o := s.gatherSrc j
    let ix := s.indices j
    let head : List Span := if o.skip = 0 then [] else [⟨o.ref, 0, o.skip⟩]
    match s.readSpans j.who (head ++ (ix.filter (· < j.bm)).flatMap fun i => s.opSpans j.who o i 1 0 j.bk) with
    | (s, some e) => s.failJob j e.1 e.2
    | (s, none) =>
      let rows := s.gatherOut j o ix
      let book := if o.skip = 0 then [] else [(j.d.outDst, 0, s.peek j.who o.ref 0 o.skip)]
      let ws := book ++ ((List.range rows.length).zip rows).map fun r => (j.d.outDst, o.skip + r.1 * r.2.length, r.2)
      if s.hostBlocked ws then s.failJob j stLink 0 else (s.writeAll j.who ws).succeed j

/-- GATHER as issue runs it; K = 0 or an empty list is a NOOP (R281). -/
def gatherOp : Op :=
  { Op.plain (fun j => j.bk = 0 || j.idxCount = 0) (fun j => [j.d.aSrc, j.d.metaSrc]) (fun j => [j.d.outDst])
      State.runGather with
    format := fun _ j => j.d.gatherFormat
    blockLen := fun _ => 64
    check := fun s j => (s, s.blockCheck j [] [(56, j.d.aSrc), (72, j.d.metaSrc)] []) }

/-- GATHER_ROWS (R195). -/
def execGatherRows (run : IssueRun) (s : State) : Res :=
  .next (s.issueRow run (fun d => d.opcode = opGather && d.rowfn = 0) gatherOp)

/-- GATHER_COLUMNS (R195). -/
def execGatherColumns (run : IssueRun) (s : State) : Res :=
  .next (s.issueRow run (fun d => d.opcode = opGather && d.rowfn = 1) gatherOp)

end Sys2Proof.Machine
end

