-- ==== Sys2Proof/Machine/Fused.lean ====
section
/-! DEFINITION. FUSED_PAIR and REDUCE: key blocks, row functions, row states and their merge, normalised and shard output
(R119 to R137). -/

namespace Sys2Proof.Machine

/-! ### The pair block -/

/-- The pair block (R121). -/
structure PairBlk where
  vSrc : Nat
  stateDst : Nat
  selSrc : Nat
  keys : Nat
  scale : Nat
  q0 : Nat
  k0 : Nat
  window : Nat
  vFmt : Nat
  vBits : Nat
  pBits : Nat
  mask : Nat
  topk : Nat
  qShift : Nat
  deriving DecidableEq, Repr

/-- The pair block that bytes spell. -/
def PairBlk.ofBytes (bs : List Byte) : PairBlk where
  vSrc := fieldAt bs 0 8
  stateDst := fieldAt bs 8 8
  selSrc := fieldAt bs 16 8
  keys := fieldAt bs 24 4
  scale := fieldAt bs 28 4
  q0 := fieldAt bs 32 4
  k0 := fieldAt bs 36 4
  window := fieldAt bs 40 4
  vFmt := fieldAt bs 44 1
  vBits := fieldAt bs 45 1
  pBits := fieldAt bs 46 1
  mask := fieldAt bs 47 1
  topk := fieldAt bs 48 1
  qShift := fieldAt bs 49 1

/-- The pair block of a descriptor. -/
def Job.pair (j : Job) : PairBlk := PairBlk.ofBytes j.block

/-- V's format. -/
def PairBlk.v (b : PairBlk) : Fmt := (Fmt.ofCode .serial (b.vFmt % 16) b.vBits).getD (.int 8)

/-- P's format: UINT under the softmax functions, INT under the others (R120). -/
def Desc.pFmt (d : Desc) (b : PairBlk) : Fmt := if d.rowfn = 1 ∨ d.rowfn = 3 then .uint b.pBits else .int b.pBits

/-- Passes of the second product (R122). -/
def PairBlk.passes (b : PairBlk) : Nat := if 10 < b.pBits then 2 else 1

/-- Keys of a key block (R123). -/
def PairBlk.width (b : PairBlk) : Nat := 128 * packOfWidth b.pBits

/-- Key blocks of a fused pair. -/
def PairBlk.blocks (b : PairBlk) : Nat := ceilDiv b.keys b.width

/-- A pair-block field holds a value that R121 does not list; a reserved byte must be 0. -/
def Job.pairBad (j : Job) : Bool :=
  let b := j.pair
  decide (4194304 < b.keys) || decide (16 ≤ b.vFmt) || decide (b.pBits < 2) || decide (16 < b.pBits) ||
  decide (2 < b.mask) || (b.mask = 2 && b.window = 0) || decide (8 < b.qShift) ||
  (j.d.rowfn = 3 && (b.topk = 0 || decide (b.width < b.topk))) ||
  !(nonzeroBytes j.block ((List.range 14).map (50 + ·))).isEmpty

/-- The conditions of shard mode (R122, R134). -/
def Desc.shardOk (d : Desc) : Bool := d.outFmt = 0xD0 && d.eltfn = 0 && d.scaleMode = 0 && d.reduce = 0

/-- R122 and R123, in their order. -/
def Job.pairCheck (j : Job) : Option Err :=
  let d := j.d
  let b := j.pair
  let blockOk (f : Fmt) : Bool := f.block = 0 || f.block % d.tree = 0
  if !(d.shape = 1 || d.shape = 5) || decide (128 < j.bn) || j.pairBad ||
      !serialPair (.int 8) b.vFmt b.vBits ||
      (b.stateDst ≠ 0 && (d.rowfn = 0 || d.rowfn = 2 || !d.shardOk)) || d.reduce = 4 then some (stPair, 0)
  else if d.accKind ≠ 1 || decide (16 < b.v.planes b.vBits * packOfWidth b.pBits) || !d.planesOk || !d.treeOk ||
      !blockOk b.v then some (stFormat, 0)
  else if !d.accBegin || !d.accEnd then some (stAccState, 0)
  else if (d.shape = 5 && decide (32 < j.bm)) || decide (256 < j.accRows) || decide (256 < d.accRow0 + j.accRows) then
    some (stAccRange, 0)
  else none

/-- Address fields of the pair block. -/
def Job.pairFlds (j : Job) : List Fld :=
  [⟨0, j.pair.vSrc, true, true⟩, ⟨8, j.pair.stateDst, false, true⟩, ⟨16, j.pair.selSrc, true, true⟩]

/-- Step 9 of a FUSED_PAIR. -/
def State.fusedCheck (s : State) (j : Job) : State × Option Err :=
  match s.blockCheck j [] [(56, j.d.aSrc), (64, j.d.wSrc), (72, j.d.metaSrc)] j.pairFlds with
  | some e => (s, some e)
  | none => (s, j.pairCheck)

/-! ### Row states -/

/-- A row's state when the group opens. -/
def RowState.start (n : Nat) : RowState := ⟨none, 0, List.replicate n 0, 0, false⟩

/-- Both words of an FP32C entry times `2 ^ k`, `k ≤ 0`. Below 2^−400 every FP32 value gives 0. -/
def scaleEntry (k : Int) (x : Nat) : Nat :=
  let k := max k (-400)
  fp32 (Num.shift (ofFp32 (x % 2 ^ 32)) k) + 2 ^ 32 * fp32 (Num.shift (ofFp32 (x / 2 ^ 32)) k)

/-- `scale_row` of R126. -/
def RowState.scale (r : RowState) (k : Int) : RowState := { r with l := scaleEntry k r.l, o := r.o.map (scaleEntry k) }

/-- A row state brought to a reference not below its own. -/
def RowState.raiseTo (r : RowState) (m : Option Int) : RowState :=
  match r.mref, m with
  | some a, some b => if a < b then r.scale (a - b) else r
  | _, _ => r

/-- The greater of two references. -/
def maxRef (a b : Option Int) : Option Int :=
  match a, b with
  | none, x => x
  | x, none => x
  | some x, some y => some (max x y)

/-- The least integer at or above a finite value. -/
def ceilNum (x : Num) : Int := -(Num.floor (Num.neg x))

/-- An FP32C entry merged with another (R92). -/
def mergePair (a b : Nat) : Nat :=
  let p := mergeFp32c (a % 2 ^ 32, a / 2 ^ 32) (b % 2 ^ 32, b / 2 ^ 32)
  p.1 + 2 ^ 32 * p.2

/-- `merge_triple` of R130. -/
def RowState.merge (a b : RowState) : RowState :=
  let m := maxRef a.mref b.mref
  let x := a.raiseTo m
  let y := b.raiseTo m
  { mref := m
    l := mergePair x.l y.l
    o := (x.o.zip y.o).map fun p => mergePair p.1 p.2
    n := min (a.n + b.n) (2 ^ 32 - 1)
    nan := a.nan || b.nan }

/-! ### Row functions -/

/-- The P row of one row of one key block: lanes, and how many values were clamped (R128). -/
structure PRow where
  lanes : List Lane
  clamps : Nat
  deriving DecidableEq, Repr

/-- ROW_SOFTMAX_ONLINE over one row of a key block (R126). -/
def softmaxRow (st : RowState) (xs : List Nat) (keep : List Bool) (w : Nat) : RowState × PRow :=
  let live := ((xs.zip keep).filter Prod.snd).map Prod.fst
  let st := { st with nan := st.nan || live.any fun x => match ofFp32 x with | .nan => true | .inf s => !s | _ => false }
  let fin := live.filter finite32
  let top := fin.foldl (fun (m : Option Int) x => maxRef m (some (ceilNum (ofFp32 x)))) none
  match maxRef st.mref top with
  | none => (st, ⟨xs.map fun _ => ⟨0, some 0, false⟩, 0⟩)
  | some m =>
    let st := { st.raiseTo (some m) with mref := some m }
    let ps := (xs.zip keep).map fun p =>
      if p.2 && finite32 p.1 then exp2q (ofFp32 (fp32 (Num.sub (ofFp32 p.1) (Num.ofInt m)))) w else 0
    let l := addFp32c (st.l % 2 ^ 32) (st.l / 2 ^ 32) (Num.ofInt (ps.sum : Nat))
    ({ st with l := l.1 + 2 ^ 32 * l.2 }, ⟨ps.map fun (p : Nat) => ⟨(p : Int), some 0, false⟩, 0⟩)

/-- The keys that ROW_TOPK_MASK keeps in a row of a key block (R127). -/
def topkKeep (xs : List Nat) (keep : List Bool) (k : Nat) : List Bool :=
  let n := xs.length
  let v (i : Nat) : Num := ofFp32 (xs.getD i 0)
  let before (i j : Nat) : Bool :=
    if beats true (v i) (v j) then true else if beats true (v j) (v i) then false else decide (i < j)
  (List.range n).map fun i => keep.getD i false &&
    decide (((List.range n).filter fun j => j ≠ i && keep.getD j false && before j i).length < k)

/-- op.rowfn on one row of a key block: the state after it and P (R120, R126 to R128). -/
def rowFunction (rowfn : Nat) (b : PairBlk) (st : RowState) (xs : List Nat) (keep : List Bool) : RowState × PRow :=
  let w := b.pBits
  let poison := (xs.zip keep).any fun p => p.2 && !finite32 p.1
  if rowfn = 1 then softmaxRow st xs keep w
  else if rowfn = 3 then softmaxRow st xs (topkKeep xs keep b.topk) w
  else if rowfn = 2 then ({ st with nan := st.nan || poison }, ⟨alignRow w keep xs, 0⟩)
  else
    let q := (xs.zip keep).map fun p =>
      let r := if p.2 then (clean32 p.1).round else 0
      (satI r (-(2 ^ (w - 1))) (2 ^ (w - 1) - 1), r)
    ({ st with nan := st.nan || poison }, ⟨q.map fun p => ⟨p.1, some 0, false⟩, (q.filter fun p => p.1 ≠ p.2).length⟩)

/-! ### Key blocks -/

/-- Is key `k` kept for query row `m` (R124)? `sel` is the selection bitmap. -/
def PairBlk.keeps (b : PairBlk) (sel : List Byte) (m k : Nat) : Bool :=
  let pm := b.q0 + m / 2 ^ b.qShift
  let pk := b.k0 + k
  decide (k < b.keys) && !((b.mask = 1 || b.mask = 2) && decide (pm < pk)) && !(b.mask = 2 && decide (pk + b.window ≤ pm)) &&
  (b.selSrc = 0 || bitOf (fieldAt sel (k / b.width / 8) 1) (k / b.width % 8))

/-- The selection bitmap, as the descriptor has read it (R124). -/
def Job.selBytes (j : Job) : List Byte := (j.book 2).map fun x => BitVec.ofInt 8 x

/-- First key and keys of a key block. -/
def PairBlk.range (b : PairBlk) (i : Nat) : Nat × Nat := (i * b.width, min b.width (b.keys - i * b.width))

/-- Does a key block keep a key for some row? -/
def PairBlk.runs (b : PairBlk) (sel : List Byte) (M i : Nat) : Bool :=
  let r := b.range i
  (List.range M).any fun m => (List.range r.2).any fun k => b.keeps sel m (r.1 + k)

/-- Q (R119). -/
def Job.qOp (j : Job) : Operand := Operand.of j.d.broad j.d.aSrc 0 0 j.bm j.bk

/-- Kᵀ: a row for each key. -/
def Job.kOp (j : Job) : Operand := { Operand.of j.d.serial j.d.wSrc 0 0 j.pair.keys j.bk with book := j.book 0 }

/-- V, stored by output column: a row of keys each. -/
def Job.vOp (j : Job) : Operand := { Operand.of j.pair.v j.pair.vSrc 0 0 j.bn j.pair.keys with book := j.book 1 }

/-- A jet at the start of a fused pair. -/
def FusedJet.start (m n : Nat) : FusedJet := ⟨List.replicate m (RowState.start n), [], 0, 0, false, []⟩

/-- What a jet holds of a fused pair. -/
def Job.fusedOn (j : Job) (x : Nat) : FusedJet := (Tab.find? j.fused x).getD (FusedJet.start j.bm j.bn)

/-- The weight tiles of a key block on its jet: the Kᵀ tiles of its halves in ascending K, then its V tile (R123, R136). -/
def Job.blockTiles (j : Job) (i : Nat) : List TileLoad :=
  let b := j.pair
  let r := b.range i
  let w := 128 * j.d.pack
  ((List.range (packOfWidth b.pBits)).flatMap fun h =>
    if r.2 ≤ 128 * h then []
    else (List.range (ceilDiv j.bk w)).map fun t =>
      (⟨j.jid, j.d, .keys h, 0, i, r.1 + 128 * h, min 128 (r.2 - 128 * h), [(t * w, min w (j.bk - t * w))], 0, j.bm, false,
        none, 0⟩ : TileLoad)) ++
  [⟨j.jid, j.d, .values, 0, i, 0, j.bn, [r], 0, j.bm, false, none, 0⟩]

/-- The tiles of the key blocks that run, jet by jet: block i on jet i mod 4, in ascending order (R123, R124). -/
def Job.fusedTiles (j : Job) : List (Nat × List TileLoad) :=
  let b := j.pair
  let run := (List.range b.blocks).filter (b.runs j.selBytes j.bm)
  ((List.range 4).zip (unitJets j.unit)).map fun x => (x.2, (run.filter fun i => i % 4 = x.1).flatMap j.blockTiles)

/-! ### The P slots -/

/-- Number of the P slot of jet `x` for key block `i`, in a half of the internal slots: two for each jet, in turn (R135, R244). -/
def pSlot (half x i : Nat) : Nat := 48 + 8 * half + 2 * (x % 4) + i / 4 % 2

/-- The P slot of a fused pair as a slot reference (R273). -/
def Job.pRef (j : Job) (x i : Nat) : Nat := 2 ^ 63 + hereHandle (0x200 + x / 4) * 2 ^ 32 + pSlot j.pHalf x i * 2 ^ 24

/-- Eight internal slots of a basin placed from pool unit `base` on, `n` units each. -/
def State.placeSlots (s : State) (q half base n : Nat) : State :=
  (List.range 8).foldl (fun s i =>
    let k := s.slotKey q (48 + 8 * half + i)
    (s.setFld k 0 15 (base + n * i)).setFld k 16 15 (n - 1)) s

/-- The sequencer places the P slots of a fused pair in the internal region, `R × 256` bytes each: those of the first half from its
start, those of the second up to its end. The other half's slots lie in the region too, one unit each where no pair holds them
(R135, R244, R256; log 29). -/
def State.placeP (s : State) (q half R : Nat) (alone : Bool) : State :=
  let s := s.placeSlots q half (if half = 0 then 0x6C00 else 0x7000 - 8 * R) R
  if alone then s.placeSlots q (1 - half) (if half = 0 then 0x7000 - 8 else 0x6C00) 1 else s

/-- The half of the internal slots that a fused pair takes, and whether no other pair holds the other one. -/
def State.pHalfFor (s : State) (j : Job) : Nat × Bool :=
  let held := (s.jobs.filter fun x => x.jid ≠ j.jid && x.holdsP (basinOf j.unit)).map (·.pHalf)
  (if held.contains 0 then 1 else 0, held.isEmpty)

/-- Bytes of a row of P: its elements packed at their width (R135, log 29). -/
def pBytes (w : Nat) (ls : List Lane) : List Byte := packBits w (ls.map fun l => bitsOfInt l.n w)

/-- Row `m` of P as it lies in its slot. -/
def State.pRow (s : State) (j : Job) (x i m : Nat) (e : Option Int) : List Lane :=
  let b := j.pair
  let n := (b.range i).2
  let bs := s.peek j.who (j.pRef x i) (256 * m) (ceilDiv (n * b.pBits) 8)
  (List.range n).map fun k =>
    let c := bitsOf (leNat bs) (k * b.pBits) b.pBits
    ⟨if (j.d.pFmt b).isSigned then signed c b.pBits else c, e, false⟩

/-! ### Tiles of a key block -/

/-- The scores of one row after a Kᵀ tile of half `h`; its first K-tile starts from 0. -/
def scoreRow (d : Desc) (h : Nat) (l : TileLoad) (n : Nat) (cols : List Column) (q : Column) (old : List Nat) : List Nat :=
  (List.range n).map fun i =>
    match (if 128 * h ≤ i then cols[i - 128 * h]? else none) with
    | none => old.getD i 0
    | some c => (columnSums d.log d.tree c q).foldl addEntry32c (if l.ks.any (·.1 = 0) then 0 else old.getD i 0)

/-- op.rowfn over a block's scores: the row states, the clamps and the rows of P (R125 to R128). -/
def FusedJet.rowFns (f : FusedJet) (j : Job) (i : Nat) : FusedJet × List (List Lane) :=
  let b := j.pair
  let r := b.range i
  let out := ((List.range f.rows.length).zip f.rows).map fun m =>
    let xs := (List.range r.2).map fun c =>
      let e := (f.scores.getD m.1 []).getD c 0
      fp32 (Num.mul (pairValue (e % 2 ^ 32) (e / 2 ^ 32)) (ofFp32 b.scale))
    rowFunction j.d.rowfn b m.2 xs ((List.range r.2).map fun k => b.keeps j.selBytes m.1 (r.1 + k))
  ({ f with
      rows := out.map Prod.fst
      clamps := f.clamps + (out.map fun x => x.2.clamps).sum
      pExp := out.map fun x => match x.2.lanes with | [] => some 0 | l :: _ => l.e },
    out.map fun x => x.2.lanes)

/-- A block's P formed and stored in its slot (R125, R135). -/
def State.formP (s : State) (j : Job) (x i : Nat) (f : FusedJet) : State × FusedJet :=
  let r := f.rowFns j i
  (s.writeAll j.who (((List.range r.2.length).zip r.2).map fun m => (j.pRef x i, 256 * m.1, pBytes j.pair.pBits m.2)), r.1)

/-- The accumulator entries of a jet: the scores of its block, then O (R123). -/
def FusedJet.entries (f : FusedJet) (j : Job) (x : Nat) : List (Nat × Nat) :=
  let pP := packOfWidth j.pair.pBits
  let at' (r0 : Nat) (rows : List (List Nat)) : List (Nat × Nat) :=
    ((List.range rows.length).zip rows).flatMap fun r =>
      ((List.range r.2.length).zip r.2).map fun c => (accKey x (j.d.accRow0 + r0 + r.1) c.1, c.2)
  ((List.range pP).flatMap fun h => at' (h * j.bm) (f.scores.map fun r => (r.drop (128 * h)).take 128)) ++
    at' (pP * j.bm) (f.rows.map (·.o))

/-- What a jet holds of a fused pair replaced, in its accumulators as well. -/
def State.putFused (s : State) (j : Job) (x : Nat) (f : FusedJet) : State :=
  let s : State := { s with acc := accPuts s.acc (f.entries j x) }
  s.modJob j.jid fun j => { j with fused := Tab.put j.fused x f }

/-- Rows of Q against a Kᵀ tile; after the block's last one its P is formed (R125). Elements of Q that alignment flushed count with the
first block that the jet of key 0 runs, once for the descriptor. -/
def State.runKeys (s : State) (j : Job) (x h : Nat) (l : TileLoad) (cols : List Column) : State × Option Err :=
  match s.readSpans j.who (s.opSpansOn j.who j.qOp 0 j.bm l.ks) (x % 4) with
  | (s, some e) => (s, some e)
  | (s, none) =>
    let b := j.pair
    let n := (b.range l.kt).2
    let W := j.qOp.fmt.convW .broad j.d.serialBits j.d.broadPasses
    let q := (List.range j.bm).map fun m => s.cellsOf j.who j.qOp W m l.ks
    let f := j.fusedOn x
    let first := h = 0 && ((List.range l.kt).all fun i => !b.runs j.selBytes j.bm i)
    let f := { f with
      scores := ((List.range j.bm).zip q).map fun m => scoreRow j.d h l n cols m.2.1 (f.scores.getD m.1 [])
      flushed := f.flushed + if first then (q.map Prod.snd).sum else 0
      bad := f.bad || (cols.any fun c => c.any (·.2.bad)) || q.any fun r => r.1.any (·.2.bad) }
    let last := decide (n ≤ 128 * (h + 1)) && l.ks.any fun k => decide (j.bk ≤ k.1 + k.2)
    let r := if last then s.formP j x l.kt f else (s, f)
    (r.1.putFused j x r.2, none)

/-- Rows of P, read from their slot, against a V tile: the sums go to O; a row that a non-finite score has marked takes the mark in
each of its entries (R91, R126, R128, R135). -/
def State.runValues (s : State) (j : Job) (x : Nat) (l : TileLoad) (cols : List Column) : State × Option Err :=
  let f := j.fusedOn x
  let r := if f.pExp.isEmpty then s.formP j x l.kt f else (s, f)
  let len := ceilDiv ((j.pair.range l.kt).2 * j.pair.pBits) 8
  match r.1.readSpans j.who ((List.range j.bm).map fun m => ⟨j.pRef x l.kt, 256 * m, len⟩) (x % 4) with
  | (s, some e) => (s, some e)
  | (s, none) =>
    let vs := cols.map fun c => c.map Prod.snd
    let rows := ((List.range r.2.rows.length).zip r.2.rows).map fun m =>
      let p := s.pRow j x l.kt m.1 (r.2.pExp.getD m.1 none)
      { m.2 with o := if m.2.nan then m.2.o.map fun _ => nan32 else (m.2.o.zip vs).map fun c => dotInto false j.d.tree c.1 c.2 p }
    (s.putFused j x { r.2 with rows := rows, pExp := [], bad := r.2.bad || vs.any fun c => c.any (·.bad) }, none)

/-! ### Output -/

/-- A row state as shard mode writes it (R131). -/
def RowState.bytes (r : RowState) : List Byte :=
  let m := if r.nan then nan32 else match r.mref with | none => 0xFF800000 | some x => fp32 (Num.ofInt x)
  leBytes 4 m ++ leBytes 8 r.l ++ leBytes 4 r.n

/-- Value of an FP32C entry (R90). -/
def entryNum (x : Nat) : Num := pairValue (x % 2 ^ 32) (x / 2 ^ 32)

/-- The value v of an output of a row (R131). -/
def RowState.value (softmax : Bool) (r : RowState) (x : Nat) : Num :=
  if r.nan then .nan
  else if !softmax then entryNum x
  else if !(entryNum x).isFin then .nan
  else if (entryNum r.l).isZero then Num.zero
  else Num.div (entryNum x) (entryNum r.l)

/-- Counts of a shard output: each element is an FP32C pair (R131, R206). -/
def shardCounts (rows : List RowState) : Counts :=
  let vs := rows.flatMap fun r => r.o.map entryNum
  { Counts.zero with
    elements := vs.length
    zeros := (vs.filter Num.isZero).length
    nonfinite := (vs.filter fun v => !v.isFin).length
    amax := amax32 vs }

/-- The drain of merged row states: normalised output, or shard triples with their states (R131). -/
def State.drainRows (s : State) (j : Job) (softmax : Bool) (stateDst : Nat) (rows : List RowState) : State × Job × Option Err :=
  let j := j.mark flLapsed (rows.any fun r => decide (2 ^ 22 < r.n))
  if stateDst = 0 then
    match s.prmRead (basinOf j.unit) j.d j.bn with
    | (s, some e) => (s, j, some e)
    | (s, none) =>
      s.drainOut j (j.d.outPlan j.d.out j.bm j.bn 512 OutMeta.default)
        { d := j.d, exact := false, prm := s.prm (basinOf j.unit) j.d j.bn
          weir := if j.d.scaleMode = 3 then some j.weirX else none
          thr := 0, empty := rows.all fun r => r.n = 0, m0 := 0, n0 := 0, fill := true, carry := []
          vals := rows.map fun r => r.o.map (r.value softmax) }
  else
    let ix := (List.range rows.length).zip rows
    let ws := ix.flatMap fun r =>
      [(j.d.outDst, r.1 * roundUp (8 * j.bn) 64, r.2.o.flatMap (leBytes 8)), (stateDst, 16 * r.1, r.2.bytes)]
    if s.hostBlocked ws then (s, j, some (stLink, 0))
    else
      let j := j.mark flNonfinite (rows.any fun r => r.nan || r.o.any fun x => !(entryNum x).isFin)
      (s.writeAll j.who ws, { j with counts := j.counts.plus (shardCounts rows) }, none)

/-- The addresses that such a drain writes through. -/
def Job.rowWrites (j : Job) (stateDst : Nat) : List Nat :=
  if stateDst = 0 then
    let o := j.d.outPlan j.d.out j.bm j.bn 512 OutMeta.default
    [j.d.outDst] ++ (if o.tiled then [o.dir.1, o.bmp.1] else [])
  else [j.d.outDst, stateDst]

/-! ### FUSED_PAIR -/

/-- FUSED_PAIR's effect once its tokens are there: its codebooks and its selection bitmap are read, its P slots placed, and its jets
take up the tiles of the key blocks that run (R123, R124, R135). -/
def State.startFused (s : State) (j : Job) : State :=
  let b := j.pair
  match s.readBooks j [(j.d.serial = .code4, j.d.wSrc), (b.v = .code4, b.vSrc)] with
  | (s, j, some e) => s.failJob j e.1 e.2
  | (s, j, none) =>
    let n := ceilDiv b.blocks 8
    match s.readSpans j.who (if b.selSrc = 0 then [] else [⟨b.selSrc, 0, n⟩]) with
    | (s, some e) => s.failJob j e.1 e.2
    | (s, none) =>
      let sel := if b.selSrc = 0 then [] else s.peek j.who b.selSrc 0 n
      let j := { j with
        phase := .draining, fused := [], books := j.books ++ [sel.map fun x => (x.toNat : Int)] }
      ((s.placeP (basinOf j.unit) j.pHalf j.bm (s.pHalfFor j).2).putJob j).pushTiles j j.fusedTiles

/-- The end of a FUSED_PAIR: the basin's jets are merged, and the result is drained and counted (R130, R131). -/
def State.fusedStep (s : State) (j : Job) : State :=
  let b := j.pair
  let js := unitJets j.unit
  let f (i : Nat) : FusedJet := j.fusedOn (js.getD i 0)
  let get (i m : Nat) : RowState := (f i).rows.getD m (RowState.start j.bn)
  let rows := (List.range j.bm).map fun m =>
    { ((get 0 m).merge (get 1 m)).merge ((get 2 m).merge (get 3 m)) with n := min b.keys (2 ^ 32 - 1) }
  let all := (List.range 4).map f
  let j := (j.mark flNonfinite (all.any (·.bad))).flushIn (all.map (·.flushed)).sum
  let j := { j with counts := { j.counts with satOut := j.counts.satOut + (all.map (·.clamps)).sum } }
  let s := js.foldl (fun s x => s.retireOf x j.jid 0) s
  match (s.takeTerms j b.keys).1.drainRows j (j.d.rowfn = 1 || j.d.rowfn = 3) b.stateDst rows with
  | (s, j, some e) => s.failJob j e.1 e.2
  | (s, j, none) => ((s.shutAll j).emptyAll j.reads).succeed { j with reads := [] }

/-- FUSED_PAIR's group on its four jets. -/
def State.openFused (s : State) (j : Job) : State × Job :=
  ((unitJets j.unit).foldl (fun s x => s.openOn x j.d.accGroup (j.openGroup j.d.shape j.bn j.bm (j.cls = 0))) s,
    { j with pHalf := (s.pHalfFor j).1 })

/-- FUSED_PAIR as issue runs it. -/
def fusedOp : Op where
  format := fun _ _ => none
  blockLen := fun _ => 64
  check := State.fusedCheck
  noop := fun j => j.bm = 0 || j.bn = 0
  acc := true
  shape := fun j => j.d.shape
  terms := fun j => j.pair.keys
  last := fun s _ => (s, none)
  reads := fun j => [j.d.aSrc, j.d.wSrc, j.d.metaSrc, j.pair.vSrc, j.pair.selSrc]
  writes := fun j => j.rowWrites j.pair.stateDst
  opens := State.openFused
  run := State.startFused

/-- FUSED_PAIR (R119). -/
def execFusedPair (run : IssueRun) (s : State) : Res := .next (s.issueRow run (fun d => d.opcode = opFused) fusedOp)

/-! ### REDUCE -/

/-- The entries of a REDUCE list: output and state address of each shard (R133). -/
def Job.shards (j : Job) : List (Nat × Nat) :=
  (List.range j.bk).map fun i => (fieldAt j.block (32 * i) 8, fieldAt j.block (32 * i + 8) 8)

/-- state_dst of the result. -/
def Job.reduceDst (j : Job) : Nat := fieldAt j.block 16 8

/-- Reserved bytes of the list that are not 0. -/
def Job.shardBad (j : Job) : List Nat :=
  nonzeroBytes j.block ((List.range j.bk).flatMap fun i =>
    (if i = 0 then [] else (List.range 8).map (32 * i + 16 + ·)) ++ (List.range 8).map (32 * i + 24 + ·))

/-- Address fields of the list. -/
def Job.shardFlds (j : Job) : List Fld :=
  ((List.range j.bk).zip j.shards).flatMap fun x =>
    [⟨32 * x.1, x.2.1, true, true⟩, ⟨32 * x.1 + 8, x.2.2, true, true⟩] ++
      (if x.1 = 0 then [⟨16, j.reduceDst, false, true⟩] else [])

/-- R134. -/
def Job.reduceCheck (j : Job) : Option Err :=
  let d := j.d
  if d.rowfn = 0 ∨ d.rowfn = 2 ∨ d.reduce = 4 ∨ (j.reduceDst ≠ 0 ∧ !d.shardOk) ∨ 128 < j.bn then some (stPair, 0) else none

/-- Step 9 of a REDUCE. -/
def State.reduceStep9 (s : State) (j : Job) : State × Option Err :=
  match s.blockCheck j j.shardBad [(72, j.d.metaSrc)] j.shardFlds with
  | some e => (s, some e)
  | none => (s, j.reduceCheck)

/-- The spans of a shard's states, and of its outputs. -/
def Job.stateSpans (j : Job) : List Span := j.shards.map fun x => ⟨x.2, 0, 16 * j.bm⟩
/-- Spans of the shards' outputs: `op.m` rows of `op.n` pairs, each on a 64-byte boundary. -/
def Job.shardSpans (j : Job) : List Span :=
  j.shards.flatMap fun x => (List.range j.bm).map fun m => ⟨x.1, m * roundUp (8 * j.bn) 64, 8 * j.bn⟩

/-- Row `m`'s state of a shard as it lies in memory (R131). -/
def State.shardRow (s : State) (j : Job) (x : Nat × Nat) (m : Nat) : RowState :=
  let st := s.peek j.who x.2 (16 * m) 16
  let o := s.peek j.who x.1 (m * roundUp (8 * j.bn) 64) (8 * j.bn)
  let r := ofFp32 (fieldAt st 0 4)
  { mref := match r with | .fin _ _ _ => some (Num.floor r) | _ => none
    l := fieldAt st 4 8
    o := (List.range j.bn).map fun c => fieldAt o (8 * c) 8
    n := fieldAt st 12 4
    nan := r.isNan }

/-- Step 12 of a REDUCE (R133): the shards' term counts, read at issue, against the bound. -/
def State.reduceLast (s : State) (j : Job) : State × Option Err :=
  if j.d.strict then
    match s.readSpans j.who j.stateSpans with
    | (s, some e) => (s, some e)
    | (s, none) =>
      if (List.range j.bm).any fun m =>
          decide (2 ^ 22 < (j.shards.map fun x => fieldAt (s.peek j.who x.2 (16 * m + 12) 4) 0 4).sum) then
        (s, some (stBound, 0))
      else (s, none)
  else (s, none)

/-- REDUCE's effect: the shards folded in list order, then drained (R133). -/
def State.runReduce (s : State) (j : Job) : State :=
  match s.readSpans j.who (j.stateSpans ++ j.shardSpans) with
  | (s, some e) => s.failJob j e.1 e.2
  | (s, none) =>
    let rows := (List.range j.bm).map fun m =>
      match j.shards with
      | [] => RowState.start j.bn
      | x :: r => r.foldl (fun a y => a.merge (s.shardRow j y m)) (s.shardRow j x m)
    match s.drainRows j true j.reduceDst rows with
    | (s, j, some e) => s.failJob j e.1 e.2
    | (s, j, none) => s.succeed j

/-- REDUCE as issue runs it. -/
def reduceOp : Op where
  format := fun _ _ => none
  blockLen := fun j => 32 * j.bk
  check := State.reduceStep9
  noop := fun j => j.bm = 0 || j.bn = 0
  acc := false
  shape := fun j => j.d.shape
  terms := fun _ => 0
  last := State.reduceLast
  reads := fun j => [j.d.metaSrc] ++ j.shards.flatMap fun x => [x.1, x.2]
  writes := fun j => j.rowWrites j.reduceDst
  opens := fun s j => (s, j)
  run := State.runReduce

/-- REDUCE (R133). -/
def execReduce (run : IssueRun) (s : State) : Res := .next (s.issueRow run (fun d => d.opcode = opReduce) reduceOp)

end Sys2Proof.Machine
end

