-- ==== Sys2Proof/Machine/Reshard.lean ====
section
/-! DEFINITION. RESHARD: its plan, the checks of it, and its COPY and TILED entries (R339 to R341). -/

namespace Sys2Proof.Machine

/-- An entry of a reshard plan. -/
structure ReEntry where
  tiled : Bool
  src : Nat
  dst : Nat
  /-- COPY: bytes to copy. TILED: first tile row, and headers per tile row from bit 32. -/
  size : Nat
  rows : Nat
  deriving DecidableEq, Repr

/-- Number of entries, plan and phase of the header. -/
def Job.planHead (j : Job) : Nat × Nat × Nat := (fieldAt j.block 0 4, fieldAt j.block 4 1, fieldAt j.block 5 1)

/-- The bytes of the whole plan. -/
def State.planBytes (s : State) (j : Job) : List Byte := s.peek j.who j.d.metaSrc 0 (64 + 64 * j.planHead.1)

/-- Entry `e` of a plan's bytes. -/
def ReEntry.ofBytes (bs : List Byte) (e : Nat) : ReEntry :=
  let o := 64 + 64 * e
  ⟨fieldAt bs o 1 = 1, fieldAt bs (o + 8) 8, fieldAt bs (o + 16) 8, fieldAt bs (o + 24) 8, fieldAt bs (o + 32) 4⟩

/-- The entries of a RESHARD. -/
def State.entries (s : State) (j : Job) : List ReEntry :=
  let bs := s.planBytes j
  (List.range j.planHead.1).map (ReEntry.ofBytes bs)

/-- Bytes of a header with a value the table does not list: the count, a plan that is not defined, a phase at or beyond its
P, and reserved bytes. -/
def State.headBad (s : State) (j : Job) : List Nat :=
  let h := j.planHead
  (if h.1 = 0 ∨ 4096 < h.1 then [0] else []) ++
  (match (if h.2.1 = 0 then none else some (Tab.find? s.plans h.2.1)) with
    | none => []
    | some none => [4]
    | some (some p) => if p.p ≤ h.2.2 then [5] else []) ++
  nonzeroBytes j.block ((List.range 58).map (6 + ·))

/-- Reserved kinds and bytes of the entries. -/
def entryBad (bs : List Byte) (n : Nat) : List Nat :=
  (List.range n).flatMap fun e =>
    let o := 64 + 64 * e
    (if 2 ≤ fieldAt bs o 1 then [o] else []) ++
    nonzeroBytes bs ((List.range 7).map (o + 1 + ·) ++
      (if fieldAt bs o 1 = 0 then (List.range 4).map (o + 32 + ·) else []) ++ (List.range 28).map (o + 36 + ·))

/-- The address fields of the entries; COPY's may name any byte (R274). -/
def entryFlds (es : List ReEntry) : List Fld :=
  ((List.range es.length).zip es).flatMap fun e =>
    [⟨64 + 64 * e.1 + 8, e.2.src, true, e.2.tiled⟩, ⟨64 + 64 * e.1 + 16, e.2.dst, false, e.2.tiled⟩]

/-- The detail of a block's error holds eight bits of the byte's offset (R292). -/
def blockDetail (e : Err) : Err := if 256 ≤ e.2 then (e.1, 256 + (e.2 - 256) % 256) else e

/-- Step 9 of a RESHARD. -/
def State.reshardStep9 (s : State) (j : Job) : State × Option Err :=
  match s.headBad j with
  | b :: r => (s, (minOf (b :: r)).map fun b => (stField, 256 + b))
  | [] =>
    match s.readSpan j.who ⟨j.d.metaSrc, 64, 64 * j.planHead.1⟩ with
    | (s, some e) => (s, some e)
    | (s, none) =>
      (s, (s.blockCheck j (entryBad (s.planBytes j) j.planHead.1) [(72, j.d.metaSrc)] (entryFlds (s.entries j))).map blockDetail)

/-! ### Entries -/

/-- The tiles of a TILED entry in directory order: place in the directory and header bytes (R340). -/
def State.moved (s : State) (j : Job) (e : ReEntry) : List (Nat × List Byte) :=
  let i0 := e.size % 2 ^ 32
  let n := e.size / 2 ^ 32
  (List.range (e.rows * n)).map fun t => (t, s.peek j.who e.src (64 * (i0 * n + t)) 64)

/-- The writes of a TILED entry: directory, data on 64-byte boundaries, bitmaps. -/
def State.tiledWrites (s : State) (j : Job) (e : ReEntry) : List (Nat × Nat × List Byte) :=
  let ts := s.moved j e
  let n := e.size / 2 ^ 32
  let dirLen := 64 * (e.rows * n)
  let sizes := ts.map fun t => roundUp (Hdr.ofBytes t.2).dataBytes 64
  let dataAt (t : Nat) : Nat := dirLen + (sizes.take t).sum
  let bmp0 := dirLen + sizes.sum
  let has (t : Nat × List Byte) : Bool := (Hdr.ofBytes t.2).bitmap ≠ 0
  let bmpAt (t : Nat) : Nat := bmp0 + 512 * ((ts.take t).filter has).length
  let hdrs := ts.map fun t =>
    (e.dst, 64 * t.1,
      leBytes 8 (addrPlus e.dst (dataAt t.1)) ++ (if has t then leBytes 8 (addrPlus e.dst (bmpAt t.1)) else leBytes 8 0) ++
      (t.2.drop 16).take 16 ++ leBytes 4 (t.1 / max n 1) ++ t.2.drop 36)
  let datas := ts.map fun t => let h := Hdr.ofBytes t.2; (e.dst, dataAt t.1, s.peek j.who h.data 0 h.dataBytes)
  let bmps := (ts.filter has).map fun t => (e.dst, bmpAt t.1, s.peek j.who (Hdr.ofBytes t.2).bitmap 0 512)
  hdrs ++ datas ++ bmps

/-- The spans that an entry reads. -/
def State.entrySpans (s : State) (j : Job) (e : ReEntry) : List Span :=
  if e.tiled then
    [⟨e.src, 64 * ((e.size % 2 ^ 32) * (e.size / 2 ^ 32)), 64 * (e.rows * (e.size / 2 ^ 32))⟩] ++
      (s.moved j e).flatMap fun t =>
        let h := Hdr.ofBytes t.2
        [⟨h.data, 0, h.dataBytes⟩] ++ (if h.bitmap = 0 then [] else [⟨h.bitmap, 0, 512⟩])
  else [⟨e.src, 0, e.size⟩]

/-- The writes of an entry. -/
def State.entryWrites (s : State) (j : Job) (e : ReEntry) : List (Nat × Nat × List Byte) :=
  if e.tiled then s.tiledWrites j e else [(e.dst, 0, s.peek j.who e.src 0 e.size)]

/-- Entries in order, up to the first failure (R341). -/
def State.runEntries (s : State) (j : Job) : List ReEntry → State
  | [] => s.succeed j
  | e :: r =>
    match s.readSpans j.who (s.entrySpans j e) with
    | (s, some x) => s.failJob j x.1 x.2
    | (s, none) =>
      let ws := s.entryWrites j e
      if s.hostBlocked ws then s.failJob j stLink 0 else (s.writeAll j.who ws).runEntries j r

/-- RESHARD as issue runs it. The claims of its destination slots are taken from the plan in memory at issue. -/
def reshardOp (s : State) : Op :=
  { Op.plain (fun _ => false) (fun _ => []) (fun j => (s.entries j).map (·.dst)) (fun s j => s.runEntries j (s.entries j)) with
    blockLen := fun _ => 64, check := State.reshardStep9 }

/-- RESHARD (R340). -/
def execReshard (jid : Nat) (s : State) : Res := .next (s.issueRow ⟨jid, 0⟩ (fun d => d.opcode = opReshard) (reshardOp s))

end Sys2Proof.Machine
end

