-- ==== Sys2Proof/Machine/Select.lean ====
section
/-! DEFINITION. FORECAST and HAZE_SELECT: their blocks and checks, scores, selections and samples (R191 to R200, R203). -/

namespace Sys2Proof.Machine

/-! ### Scores and selections -/

/-- Does score `a` of index `i` rank before score `b` of index `k`: NaN first, then greater, ties to the lower index
(R191, R193, R197, R198)? -/
def ranksBefore (a : Num) (i : Nat) (b : Num) (k : Nat) : Bool :=
  if beats true a b then true else if beats true b a then false else decide (i < k)

/-- The greatest of scores under that order; −∞ of none. -/
def topScore (l : List Num) : Num := l.foldl (fun m x => if beats true x m then x else m) (.inf true)

/-- The `k` places of greatest score among candidates, in ascending order. -/
def pickTop (scores : List Num) (cand : List Nat) (k : Nat) : List Nat :=
  let v (i : Nat) : Num := scores.getD i Num.zero
  cand.filter fun i => decide ((cand.filter fun h => h ≠ i && ranksBefore (v h) h (v i) i).length < k)

/-- An index list (R194). -/
def indexList (size : Nat) (ix : List Nat) : List Byte :=
  leBytes 4 ix.length ++ leBytes 4 size ++ List.replicate 56 0 ++ ix.flatMap (leBytes 4)

/-- A selection bitmap of `n` bits. -/
def selectBitmap (n : Nat) (ix : List Nat) : List Byte :=
  (List.range (ceilDiv n 8)).map fun b =>
    BitVec.ofNat 8 (((List.range 8).map fun i => if ix.contains (8 * b + i) then 2 ^ i else 0).sum)

/-- R192's and R199's condition on the serial format and accumulator. -/
def Desc.narrowOk (d : Desc) : Bool :=
  (d.serialFmt = 0 || d.serialFmt = 1) && (d.serialBits = 1 || d.serialBits = 2) && d.accKind = 1

/-- The samples of a selection's rows, each with the whole selection (R200, R203, R215). -/
def State.sampleRows (s : State) (j : Job) (exact dropped : Nat) (reg : RegName) (picked : List Nat) : State × Job :=
  if exact = 0 || j.silent || !s.haloOn j.d then (s, j)
  else
    (List.range j.bm).foldl (fun (r : State × Job) m =>
      if !j.d.drawn m then r
      else
        let q := basinOf j.unit
        let gone := r.1.spared (q / 4) || r.1.viewOpen (q / 4)
        let a := r.1.offerSample ⟨j.ring, j.seq, j.d, j.bm, j.bn, j.bk, q, m, 0, [], picked, j.block⟩
        (if gone then a.1.bump (rk reg 0 dropped) else a.1, r.2.mark flHalo a.2)) (s, j)

/-- The group of a selecting opcode on the four jets of its basin. -/
def State.openAll (s : State) (j : Job) : State × Job :=
  ((unitJets j.unit).foldl (fun s x => s.openOn x j.d.accGroup (j.openGroup j.d.shape (min j.bn 128) j.bm (j.cls = 0))) s, j)

/-- Entries of the last output tile of 512 columns left on the jets of the shape, rows from `r0`. -/
def leftEntries (j : Job) (r0 : Nat) (rows : List (List Nat)) : List (Nat × Nat) :=
  ((List.range rows.length).zip rows).flatMap fun r =>
    let last := (r.2.length - 1) / 512 * 512
    ((List.range (r.2.length - last)).zip (r.2.drop last)).map fun c =>
      (accKey ((unitJets j.unit).getD (c.1 / 128) 0) (r0 + r.1) (c.1 % 128), c.2)

/-! ### FORECAST -/

/-- The Forecast block (R191). -/
structure ForecastBlk where
  vSrc : Nat
  bmpDst : Nat
  w1Src : Nat
  sel : Nat
  tau : Nat
  mode : Nat
  r : Nat
  hBits : Nat
  tracker : Nat
  w1Fmt : Nat
  w1Bits : Nat
  deriving DecidableEq, Repr

/-- The Forecast block that bytes spell. -/
def ForecastBlk.ofBytes (bs : List Byte) : ForecastBlk :=
  ⟨fieldAt bs 0 8, fieldAt bs 8 8, fieldAt bs 16 8, fieldAt bs 24 4, fieldAt bs 28 4, fieldAt bs 32 1, fieldAt bs 33 1,
   fieldAt bs 34 1, fieldAt bs 35 1, fieldAt bs 36 1, fieldAt bs 37 1⟩

/-- A field of the block holds a value that the table does not list, or w1_src has no permitted format (R192). -/
def forecastBad (broad : Fmt) (bs : List Byte) : Bool :=
  let b := ForecastBlk.ofBytes bs
  (b.mode = 0 && (b.sel = 0 || decide (2 ^ 24 ≤ b.sel))) || decide (2 ≤ b.mode) || b.r = 0 || decide (128 < b.r) ||
  decide (b.hBits < 2) || decide (8 < b.hBits) || decide (64 ≤ b.tracker) || decide (16 ≤ b.w1Fmt) ||
  !(nonzeroBytes bs ((List.range 26).map (38 + ·))).isEmpty || (b.w1Src ≠ 0 && !serialPair broad b.w1Fmt b.w1Bits)

/-- R192, in its order. -/
def Job.forecastCheck (j : Job) : Option Err :=
  let d := j.d
  if j.cls ≠ 1 then some (stRingClass, 0)
  else if !(d.shape = 5 || d.shape = 1) || forecastBad d.broad j.block then some (stMeta, 0)
  else if !d.narrowOk then some (stFormat, 0)
  else if !d.accBegin || !d.accEnd then some (stAccState, 0)
  else if 256 < d.accRow0 + 2 * j.bm then some (stAccRange, 0)
  else none

/-- Step 9 of a FORECAST. -/
def State.forecastStep9 (s : State) (j : Job) : State × Option Err :=
  let b := ForecastBlk.ofBytes j.block
  match s.blockCheck j [] [(56, j.d.aSrc), (64, j.d.wSrc), (72, j.d.metaSrc)]
      [⟨0, b.vSrc, true, true⟩, ⟨8, b.bmpDst, false, true⟩, ⟨16, b.w1Src, true, true⟩] with
  | some e => (s, some e)
  | none => (s, j.forecastCheck)

/-- What FORECAST's products give: entries of h and of z, scores, flushed inputs, and whether a non-finite element was met
(R191). A non-finite h marks its row of z (R91). -/
structure Predicted where
  h : List (List Nat)
  z : List (List Nat)
  scores : List Num
  flushed : Nat
  bad : Bool
  deriving DecidableEq, Repr

/-- Both products of a FORECAST. -/
def State.predict (s : State) (j : Job) : Predicted :=
  let d := j.d
  let b := ForecastBlk.ofBytes j.block
  let xs := (List.range j.bm).map fun m =>
    s.laneRow j .broad (s.operand j.who d.broad d.aSrc 0 0 j.bm j.bk) d.serialBits d.broadPasses m
  let us := (List.range b.r).map fun c =>
    s.laneRow j .serial (s.operand j.who d.serial d.wSrc 0 0 b.r j.bk) d.serialBits d.broadPasses c
  let vs := (List.range j.bn).map fun c =>
    s.laneRow j .serial (s.operand j.who d.serial b.vSrc 0 0 j.bn b.r) d.serialBits 1 c
  let h := xs.map fun x => us.map fun u => dotInto d.log d.tree 0 u.1 x.1
  let hl := h.map fun r =>
    let vals := r.map fun e => pairValue (e % 2 ^ 32) (e / 2 ^ 32)
    let poison := vals.any fun v => !v.isFin
    let a := alignBlock (vals.map fun v => if v.isFin then v else Num.zero) b.hBits
    (a.1.map fun n => (⟨n, a.2, poison⟩ : Lane))
  let z := hl.map fun r => vs.map fun v => dotInto false d.tree 0 v.1 r
  { h := h
    z := z
    scores := (List.range j.bn).map fun c => topScore (z.map fun r => ofFp32 (entry32 (r.getD c 0)))
    flushed := (xs.map Prod.snd).sum + (us.map Prod.snd).sum + (vs.map Prod.snd).sum
    bad := (xs.any fun x => us.any fun u => dotBad u.1 x.1) || (hl.any fun r => r.any (·.bad)) ||
      z.any fun r => r.any fun e => !(pairValue (e % 2 ^ 32) (e / 2 ^ 32)).isFin }

/-- FORECAST's selection (R193). -/
def ForecastBlk.select (b : ForecastBlk) (scores : List Num) : List Nat :=
  if b.mode = 0 then pickTop scores (List.range scores.length) b.sel
  else (List.range scores.length).filter fun i =>
    let v := scores.getD i Num.zero
    v.isNan || Num.le (ofFp32 b.sel) v

/-- FORECAST's effect once its tokens are there: the jets take up the tiles of U, then of V (R191, R193). -/
def State.startForecast (s : State) (j : Job) : State :=
  let d := j.d
  let b := ForecastBlk.ofBytes j.block
  let kinds := (TileKind.other d.serialFmt d.serialBits d.wSrc j.bk d.broadPasses (formOf d.serial d.broad),
    TileKind.other d.serialFmt d.serialBits b.vSrc b.r 1 (formOf d.serial (.int b.hBits)))
  let u := j.productTiles kinds.1 0 b.r j.bk d.pack j.bm
  let v := j.productTiles kinds.2 (ceilDiv b.r 512 * ceilDiv j.bk (128 * d.pack)) j.bn b.r (packOfWidth b.hBits) j.bm
  let j := { j with phase := .draining }
  (s.putJob j).pushTiles j ((u.zip v).map fun x => (x.1.1, x.1.2 ++ x.2.2))

/-- The end of a selecting opcode: its outputs are written, its group closes and its rows are sampled (R198, R200, R259). -/
def State.selected (s : State) (j : Job) (ws : List (Nat × Nat × List Byte)) (entries : List (Nat × Nat)) (bad : Bool) (flushed : Nat)
    (exact tracker : Nat) (reg : RegName) (ix : List Nat) : State :=
  if s.hostBlocked ws then s.failJob j stLink 0
  else
    let s := (unitJets j.unit).foldl (fun s x => s.retireOf x j.jid 0) s
    let s : State := { s with acc := accPuts s.acc entries }
    let t := s.takeTerms ((j.mark flNonfinite bad).flushIn flushed) j.bk
    let r := ((t.1.writeAll j.who ws).shutAll j).sampleRows t.2 exact tracker reg ix
    (r.1.emptyAll r.2.reads).succeed { r.2 with reads := [] }

/-- The end of a FORECAST: its products, its scores and its selection (R191, R193). -/
def State.forecastStep (s : State) (j : Job) : State :=
  let d := j.d
  let b := ForecastBlk.ofBytes j.block
  match s.readSpans j.who (s.opSpans j.who (Operand.of d.broad d.aSrc 0 0 j.bm j.bk) 0 j.bm 0 j.bk) 0 with
  | (s, some e) => s.failJob j e.1 e.2
  | (s, none) =>
    let p := s.predict j
    let ix := b.select p.scores
    s.selected j ([(d.outDst, 0, indexList j.bn ix)] ++ if b.bmpDst = 0 then [] else [(b.bmpDst, 0, selectBitmap j.bn ix)])
      (leftEntries j d.accRow0 p.h ++ leftEntries j (d.accRow0 + j.bm) p.z) p.bad p.flushed b.w1Src b.tracker .FC_TRK_DROPPED ix

/-- FORECAST as issue runs it. -/
def forecastOp : Op where
  format := fun _ _ => none
  blockLen := fun _ => 64
  check := State.forecastStep9
  noop := fun j => j.bm = 0 || j.bn = 0
  acc := true
  shape := fun j => j.d.shape
  terms := fun j => j.bk
  last := fun s _ => (s, none)
  reads := fun j => [j.d.aSrc, j.d.wSrc, j.d.metaSrc, (ForecastBlk.ofBytes j.block).vSrc]
  writes := fun j => [j.d.outDst, (ForecastBlk.ofBytes j.block).bmpDst]
  opens := State.openAll
  run := State.startForecast

/-- FORECAST (R191). -/
def execForecast (run : IssueRun) (s : State) : Res := .next (s.issueRow run (fun d => d.opcode = opForecast) forecastOp)

/-! ### HAZE_SELECT -/

/-- The Haze block (R197). -/
structure HazeBlk where
  exact : Nat
  k : Nat
  first : Nat
  last : Nat
  mode : Nat
  blockLog : Nat
  fn : Nat
  tracker : Nat
  fmt : Nat
  bits : Nat
  deriving DecidableEq, Repr

/-- The Haze block that bytes spell. -/
def HazeBlk.ofBytes (bs : List Byte) : HazeBlk :=
  ⟨fieldAt bs 0 8, fieldAt bs 8 4, fieldAt bs 12 4, fieldAt bs 16 4, fieldAt bs 20 1, fieldAt bs 21 1, fieldAt bs 22 1,
   fieldAt bs 23 1, fieldAt bs 24 1, fieldAt bs 25 1⟩

/-- A field of the block holds a value that the table does not list (R199). Where exact_src is not 0, exact_fmt and exact_bits are held to
the serial pairings of R32 as w1_fmt and w1_bits are (R192; log 29). -/
def hazeBad (broad : Fmt) (bs : List Byte) : Bool :=
  let b := HazeBlk.ofBytes bs
  b.k = 0 || decide (2 ^ 24 ≤ b.k) || decide (2 ≤ b.mode) || (b.mode = 0 && decide (2 ≤ b.blockLog)) ||
  (b.mode = 1 && b.blockLog ≠ 0) || decide (2 ≤ b.fn) || decide (64 ≤ b.tracker) || decide (16 ≤ b.fmt) ||
  !(nonzeroBytes bs ((List.range 38).map (26 + ·))).isEmpty || (b.exact ≠ 0 && !serialPair broad b.fmt b.bits)

/-- R199, in the order of R192. -/
def Job.hazeCheck (j : Job) : Option Err :=
  let d := j.d
  if j.cls = 2 ∨ j.cls = 3 then some (stRingClass, 0)
  else if !(d.shape = 5 || d.shape = 1) || hazeBad d.broad j.block then some (stMeta, 0)
  else if !d.narrowOk then some (stFormat, 0)
  else if !d.accBegin || !d.accEnd then some (stAccState, 0)
  else if 256 < d.accRow0 + j.bm then some (stAccRange, 0)
  else none

/-- Step 9 of a HAZE_SELECT. -/
def State.hazeStep9 (s : State) (j : Job) : State × Option Err :=
  match s.blockCheck j [] [(56, j.d.aSrc), (64, j.d.wSrc), (72, j.d.metaSrc)] [⟨0, (HazeBlk.ofBytes j.block).exact, true, true⟩] with
  | some e => (s, some e)
  | none => (s, j.hazeCheck)

/-- Keys or columns of one candidate, and the number of candidates. -/
def HazeBlk.unit (b : HazeBlk) : Nat := if b.mode = 0 then 128 * 2 ^ b.blockLog else 1
/-- Blocks or columns of an `n`-wide selection. -/
def HazeBlk.count (b : HazeBlk) (n : Nat) : Nat := ceilDiv n b.unit

/-- Candidate scores from the S values of rows (R197). -/
def HazeBlk.scores (b : HazeBlk) (n : Nat) (S : List (List Num)) : List Num :=
  (List.range (b.count n)).map fun i =>
    topScore (S.flatMap fun r => ((r.drop (i * b.unit)).take b.unit).map fun v => if b.fn = 1 then v.abs else v)

/-- Candidates that are always selected, and the others, of `c` (R198). -/
def HazeBlk.always (b : HazeBlk) (c i : Nat) : Bool := decide (i < b.first) || decide (c ≤ i + b.last)

/-- HAZE_SELECT's selection (R198). -/
def HazeBlk.select (b : HazeBlk) (scores : List Num) : List Nat :=
  let c := scores.length
  let rest := (List.range c).filter fun i => !b.always c i
  let top := pickTop scores rest b.k
  (List.range c).filter fun i => b.always c i || top.contains i

/-- HAZE_SELECT's effect once its tokens are there: the jets take up the tiles of Bᵀ (R197). -/
def State.startHaze (s : State) (j : Job) : State :=
  let d := j.d
  let k := TileKind.other d.serialFmt d.serialBits d.wSrc j.bk d.broadPasses (formOf d.serial d.broad)
  let j := { j with phase := .draining }
  (s.putJob j).pushTiles j (j.productTiles k 0 j.bn j.bk d.pack j.bm)

/-- The end of a HAZE_SELECT: its scores and its selection (R197, R198). -/
def State.hazeStep (s : State) (j : Job) : State :=
  let d := j.d
  let b := HazeBlk.ofBytes j.block
  let ao := Operand.of d.broad d.aSrc 0 0 j.bm j.bk
  let wo := Operand.of d.serial d.wSrc 0 0 j.bn j.bk
  match s.readSpans j.who (s.opSpans j.who ao 0 j.bm 0 j.bk) 0 with
  | (s, some e) => s.failJob j e.1 e.2
  | (s, none) =>
    let as := (List.range j.bm).map fun m => s.laneRow j .broad ao d.serialBits d.broadPasses m
    let ws := (List.range j.bn).map fun c => s.laneRow j .serial wo d.serialBits d.broadPasses c
    let S := as.map fun a => ws.map fun w => dotInto d.log d.tree 0 w.1 a.1
    let vals := S.map fun r => r.map fun e => pairValue (e % 2 ^ 32) (e / 2 ^ 32)
    let ix := b.select (b.scores j.bn vals)
    let out := if b.mode = 0 then selectBitmap (b.count j.bn) ix else indexList j.bn ix
    s.selected j [(d.outDst, 0, out)] (leftEntries j d.accRow0 S)
      ((as.any fun a => ws.any fun w => dotBad w.1 a.1) || vals.any fun r => r.any fun v => !v.isFin)
      ((as.map Prod.snd).sum + (ws.map Prod.snd).sum) b.exact b.tracker .HZ_TRK_DROPPED ix

/-- HAZE_SELECT as issue runs it. -/
def hazeOp : Op where
  format := fun _ _ => none
  blockLen := fun _ => 64
  check := State.hazeStep9
  noop := fun j => j.bm = 0 || j.bn = 0
  acc := true
  shape := fun j => j.d.shape
  terms := fun j => j.bk
  last := fun s _ => (s, none)
  reads := fun j => [j.d.aSrc, j.d.wSrc, j.d.metaSrc]
  writes := fun j => [j.d.outDst]
  opens := State.openAll
  run := State.startHaze

/-- HAZE_SELECT (R197). -/
def execHazeSelect (run : IssueRun) (s : State) : Res := .next (s.issueRow run (fun d => d.opcode = opHaze) hazeOp)

end Sys2Proof.Machine
end

