-- ==== Sys2Proof/Machine/Update.lean ====
section
/-! DEFINITION. UPDATE: an FP32 tensor added in place to narrow weights, with a remainder tensor or stochastic rounding
(R174, R217, R220 to R223). -/

namespace Sys2Proof.Machine

/-! ### One element -/

/-- The greatest magnitude code not above `n / d`. -/
def BinFmt.floorCode (f : BinFmt) (n d : Nat) : Nat :=
  if n = 0 then 0
  else
    let e := max (ilog2 n d) f.emin
    let p := scale2 n d (f.mant - e)
    (e - f.emin).toNat * 2 ^ f.mant + p.1 / p.2

/-- The magnitude of a code as a value of a sign. -/
def BinFmt.val (f : BinFmt) (s : Bool) (c : Nat) : Num := let p := f.mag c; .fin s p.1 p.2

/-- ulp of a magnitude code: the distance to the next greater finite magnitude, to the next smaller for the largest
(R217). -/
def BinFmt.ulp (f : BinFmt) (c : Nat) : Num :=
  if c < f.maxCode then Num.sub (f.val false (c + 1)) (f.val false c) else Num.sub (f.val false c) (f.val false (c - 1))

/-- What becomes of one element (R222): the code written, the remainder, the value written, which step_amax takes (log 30), and
how it is counted. -/
structure Upd where
  code : Nat
  rem : Int
  written : Num
  sat : Bool
  bad : Bool
  flush : Bool
  deriving DecidableEq, Repr

/-- The remainder after an update, from x − q in units of ulp(q). -/
def remOf (dx ulp : Num) : Int := satI (Num.round (Num.div (Num.shift dx 8) ulp)) (-128) 127

/-- Exponent of the unit of an integer-like weight format: 1, or 2^-6 of the block's scale for MXINT8. -/
def Fmt.unitExp (f : Fmt) (sc : Nat) : Int := match f with | .mxint8 => (sc : Int) - 133 | _ => 0

/-- Least and greatest integer code value of an integer-like weight format. -/
def Fmt.intRange (f : Fmt) : Int × Int :=
  match f with
  | .uint w => (0, 2 ^ w - 1)
  | .mxint8 => (-128, 127)
  | g => (-(2 ^ (g.width - 1)), 2 ^ (g.width - 1) - 1)

/-- Stochastic choice between neighbours (R222): is the upper one taken? -/
def takesUpper (x lo hi : Num) (r : Nat) : Bool :=
  Num.lt (Num.mul (Num.ofInt r) (Num.sub hi lo)) (Num.shift (Num.sub x lo) 32)

/-- An element of an integer-like format; `x` in units of the block's step. -/
def updInt (f : Fmt) (x : Num) (rnd : Bool) (r : Nat) : Int × Bool :=
  let lo := f.intRange.1
  let hi := f.intRange.2
  if Num.lt x (Num.ofInt lo) then (lo, true)
  else if Num.lt (Num.ofInt hi) x then (hi, true)
  else if rnd then
    let a := x.floor
    if Num.le x (Num.ofInt a) then (a, false)
    else (if takesUpper x (Num.ofInt a) (Num.ofInt (a + 1)) r then a + 1 else a, false)
  else (x.round, false)

/-- An element of a binary format; `x` in the block's scale. The answer is sign, magnitude code and whether it saturated. -/
def updBin (b : BinFmt) (x : Num) (rnd : Bool) (r : Nat) : Bool × Nat × Bool :=
  match x with
  | .fin s n d =>
    let mx := b.mag b.maxCode
    if mx.1 * d < n * mx.2 then (s, b.maxCode, true)
    else if rnd then
      let c := b.floorCode n d
      let m := b.mag c
      if m.1 * d = n * m.2 then (s, c, false)
      else if s then
        -- lo is the greater magnitude
        (s, if takesUpper x (b.val true (c + 1)) (b.val true c) r then c else c + 1, false)
      else (s, if takesUpper x (b.val false c) (b.val false (c + 1)) r then c + 1 else c, false)
    else (s, b.near n d, false)
  | _ => (false, 0, false)

/-- `update` of R222 for an element of code `c` under scale byte `sc`; `rem` is 0 where there is no remainder tensor. -/
def updElem (f : Fmt) (sc c : Nat) (u : Num) (rem : Int) (rnd : Bool) (r : Nat) : Upd :=
  let wv := f.value [] (some c, sc)
  if !wv.isFin || !u.isFin then ⟨c, rem, wv, false, true, false⟩
  else
    match f.bin with
    | none =>
      let e := f.unitExp sc
      let x := Num.add (Num.add wv u) (Num.shift (Num.ofInt rem) (e - 8))
      let q := updInt f (Num.shift x (-e)) rnd r
      let code := bitsOfInt q.1 f.width
      ⟨code, remOf (Num.sub (Num.shift x (-e)) (Num.ofInt q.1)) (Num.ofInt 1), Num.shift (Num.ofInt q.1) e, q.2, false, !x.isZero && q.1 = 0⟩
    | some b =>
      let e := f.blockExp sc
      let w0 := c % 2 ^ (f.width - 1)
      let x := Num.add (Num.add wv u) (Num.shift (Num.mul (Num.ofInt rem) (b.ulp w0)) (e - 8))
      let xs := Num.shift x (-e)
      let q := updBin b xs rnd r
      ⟨signBit q.1 f.width + q.2.1, remOf (Num.sub xs (b.val q.1 q.2.1)) (b.ulp q.2.1), Num.shift (b.val q.1 q.2.1) e, q.2.2, false,
        !x.isZero && q.2.1 = 0⟩

/-! ### The descriptor -/

/-- The update block (R220). -/
structure UpdBlk where
  wDir : Nat
  rem : Nat
  stride : Nat
  deriving DecidableEq, Repr

/-- The update block of a descriptor. -/
def Job.upd (j : Job) : UpdBlk := ⟨fieldAt j.block 0 8, fieldAt j.block 8 8, fieldAt j.block 16 4⟩

/-- The weight format; op.serial_bits is ignored for MXFP8, FP16 and BF16 (R220). -/
def Desc.weight (d : Desc) : Fmt :=
  let c := d.serialFmt
  (Fmt.ofCode .serial c (if c = 6 ∨ c = 7 ∨ c = 10 ∨ c = 11 then 8 else d.serialBits)).getD (.int 8)

/-- A weight format that UPDATE permits (R220). -/
def Fmt.updatable : Fmt → Bool
  | .int w | .uint w => decide (2 ≤ w)
  | .fp16 | .bf16 => true
  | f => f.isMx

/-- Headers per tile row of the weights. -/
def Job.updStride (j : Job) : Nat := if j.upd.stride = 0 then ceilDiv j.bn 128 else j.upd.stride

/-- The weight tiles (i, j) of a tiled UPDATE. -/
def Job.updTiles (j : Job) : List (Nat × Nat) :=
  if j.upd.wDir = 0 then []
  else (List.range (ceilDiv j.bm 32)).flatMap fun a => (List.range (ceilDiv j.bn 128)).map fun b => (a, b)

/-- The header of a weight tile. -/
def State.updHdr (s : State) (j : Job) (t : Nat × Nat) : Hdr := s.hdrAt j.who j.upd.wDir j.updStride t.1 t.2

/-- The descriptor's reading fields (R276). -/
def Job.updOwn (j : Job) : List (Nat × Nat) :=
  [(56, j.d.aSrc)] ++ (if j.upd.wDir = 0 then [(64, j.d.wSrc)] else []) ++ [(72, j.d.metaSrc)]

/-- Step 9 of an UPDATE: its block, then R221. -/
def State.updStep9 (s : State) (j : Job) : State × Option Err :=
  match s.blockCheck j (nonzeroBytes j.block ((List.range 44).map (20 + ·))) j.updOwn
      [⟨0, j.upd.wDir, true, true⟩, ⟨8, j.upd.rem, true, true⟩] with
  | some e => (s, some e)
  | none =>
    if !j.d.weight.updatable || decide (2 ≤ j.d.scaleMode) || (j.d.round = 1 && j.upd.rem ≠ 0) then (s, some (stFormat, 0))
    else
      match s.readSpans j.who (j.updTiles.map fun t => ⟨j.upd.wDir, 64 * (t.1 * j.updStride + t.2), 64⟩) with
      | (s, some e) => (s, some e)
      | (s, none) =>
        match j.updTiles.find? fun t => let h := s.updHdr j t; h.invalid || h.enc = 1 || h.enc = 2 with
        | some t => (s, some (stTileRejected, tileDetail t.1 t.2))
        | none => (s, none)

/-- A run of bytes that holds elements of row `row` of W: where it lies, and for each element its bit, column and scale
byte. -/
structure URow where
  ref : Nat
  off : Nat
  len : Nat
  row : Nat
  elts : List (Nat × Nat × Nat)
  deriving DecidableEq, Repr

/-- Elements of a row image from column `k0`, `n` of them. -/
def imageElts (f : Fmt) (bs : List Byte) (k0 n : Nat) : List (Nat × Nat × Nat) :=
  (List.range n).map fun k =>
    let p := f.place k
    (p.1, k0 + k, match p.2 with | some b => fieldAt bs b 1 | none => 0)

/-- The rows of a tile that hold elements (R174): all of a RAW tile's, the kept positions of an S24 tile's. -/
def State.tileURows (s : State) (j : Job) (t : Nat × Nat) (h : Hdr) : List URow :=
  let f := j.d.weight
  let m := min h.rows (min 32 (j.bm - 32 * t.1))
  let n := min h.cols (min 128 (j.bn - 128 * t.2))
  (List.range m).map fun r =>
    if h.enc = 3 then
      let sc := if f.isMx then 4 else 0
      let pos := s.peek j.who h.data (h.rows * sc + 16 * r) 16
      let scales := s.peek j.who h.data (4 * r) 4
      let elts := (List.range 64).map fun x =>
        let nib := bitsOf (fieldAt pos (x / 4) 1) (4 * (x / 2 % 2)) 4
        let k := 4 * (x / 2) + (if x % 2 = 0 then nib % 4 else nib / 4)
        (f.width * x, k, if f.isMx then fieldAt scales (k / 32) 1 else 0)
      ⟨h.data, h.rows * (sc + 16) + 8 * f.width * r, 8 * f.width, 32 * t.1 + r,
        (elts.filter fun e => decide (e.2.1 < n)).map fun e => (e.1, 128 * t.2 + e.2.1, e.2.2)⟩
    else
      let len := if f.isMx then f.recordBytes else ceilDiv (n * f.width) 8
      ⟨h.data, r * h.rowStride, len, 32 * t.1 + r,
        imageElts f (s.peek j.who h.data (r * h.rowStride) len) (128 * t.2) n⟩

/-- The rows of plain weights. -/
def State.plainURows (s : State) (j : Job) : List URow :=
  let f := j.d.weight
  (List.range j.bm).map fun i =>
    ⟨j.d.wSrc, i * f.pitch j.bn, f.rowBytes j.bn, i,
      imageElts f (s.peek j.who j.d.wSrc (i * f.pitch j.bn) (f.rowBytes j.bn)) 0 j.bn⟩

/-- U's element (i, k), scaled (R220). -/
def State.updU (s : State) (j : Job) (i k : Nat) : Num :=
  let v := ofFp32 (fieldAt (s.peek j.who j.d.aSrc (i * Fmt.fp32.pitch j.bn + 4 * k) 4) 0 4)
  if j.d.scaleMode = 1 then Num.shift v (signed j.d.scaleValue 8) else v

/-- Offset of the remainder of element (i, k). -/
def Job.remOff (j : Job) (i k : Nat) : Nat := i * roundUp j.bn 64 + k

/-- A row's elements updated. -/
def State.updRow (s : State) (j : Job) (r : URow) : List (Nat × Nat × Upd) :=
  let x := leNat (s.peek j.who r.ref r.off r.len)
  r.elts.map fun e =>
    let rem := if j.upd.rem = 0 then 0 else signed (fieldAt (s.peek j.who j.upd.rem (j.remOff r.row e.2.1) 1) 0 1) 8
    (e.1, e.2.1, updElem j.d.weight e.2.2 (bitsOf x e.1 j.d.weight.width) (s.updU j r.row e.2.1) rem (j.d.round = 1)
      (srand j.d.seed (r.row * j.bn + e.2.1)))

/-- The writes of an updated row: its bytes, then its remainders. -/
def State.updWrites (s : State) (j : Job) (r : URow) (us : List (Nat × Nat × Upd)) : List (Nat × Nat × List Byte) :=
  let w := j.d.weight.width
  let x := us.foldl (fun x u => x - bitsOf x u.1 w * 2 ^ u.1 + u.2.2.code * 2 ^ u.1) (leNat (s.peek j.who r.ref r.off r.len))
  [(r.ref, r.off, leBytes r.len x)] ++
    (if j.upd.rem = 0 then [] else us.map fun u => (j.upd.rem, j.remOff r.row u.2.1, [BitVec.ofNat 8 (bitsOfInt u.2.2.rem 8)]))

/-- The bitmap and header of a tile that has a bitmap, after its update (R223). -/
def State.updMeta (s : State) (j : Job) (t : Nat × Nat) (h : Hdr) (rows : List (List (Nat × Nat × Upd))) :
    List (Nat × Nat × List Byte) :=
  if h.bitmap = 0 then []
  else
    let marks := rows.map fun us => (List.range 128).map fun k =>
      us.any fun u => u.2.1 = 128 * t.2 + k && !j.d.weight.zeroCode u.2.2.code
    let density := (marks.map fun m => (m.filter id).length).sum
    let o := 64 * (t.1 * j.updStride + t.2)
    let hd := s.peek j.who j.upd.wDir o 64
    [(h.bitmap, 0, bitmapBytes marks), (j.upd.wDir, o, hd.take 30 ++ leBytes 2 density ++ hd.drop 32)]

/-- Counts of updated elements, each in at most one of three counters (R56, R206, R222). -/
def updCounts (f : Fmt) (us : List Upd) : Counts where
  elements := us.length
  zeros := (us.filter fun u => f.zeroCode u.code).length
  satOut := (us.filter (·.sat)).length
  flushOut := (us.filter fun u => u.flush && !u.sat && !u.bad).length
  nonfinite := (us.filter (·.bad)).length
  flushIn := 0
  accSat := 0
  amax := amax32 (us.map (·.written))

/-- Spans that an UPDATE reads. -/
def State.updSpans (s : State) (j : Job) : List Span :=
  let rows := if j.upd.wDir = 0 then s.plainURows j else j.updTiles.flatMap fun t => s.tileURows j t (s.updHdr j t)
  (List.range j.bm).map (fun i => ⟨j.d.aSrc, i * Fmt.fp32.pitch j.bn, 4 * j.bn⟩) ++
  (if j.upd.rem = 0 then [] else (List.range j.bm).map fun i => ⟨j.upd.rem, j.remOff i 0, j.bn⟩) ++
  rows.map fun r => ⟨r.ref, r.off, r.len⟩

/-- UPDATE's effect (R222, R223). -/
def State.runUpdate (s : State) (j : Job) : State :=
  match s.readSpans j.who (s.updSpans j) with
  | (s, some e) => s.failJob j e.1 e.2
  | (s, none) =>
    let parts : List (List (Nat × Nat × List Byte) × List Upd) :=
      if j.upd.wDir = 0 then
        (s.plainURows j).map fun r => let us := s.updRow j r; (s.updWrites j r us, us.map fun u => u.2.2)
      else
        j.updTiles.map fun t =>
          let h := s.updHdr j t
          let rows := (s.tileURows j t h).map fun r => (r, s.updRow j r)
          ((rows.flatMap fun r => s.updWrites j r.1 r.2) ++ s.updMeta j t h (rows.map Prod.snd),
            rows.flatMap fun r => r.2.map fun u => u.2.2)
    let ws := parts.flatMap Prod.fst
    let c := updCounts j.d.weight (parts.flatMap Prod.snd)
    if s.hostBlocked ws then s.failJob j stLink 0
    else
      let j := (j.mark flSat (decide (c.satOut ≠ 0))).mark flNonfinite (decide (c.nonfinite ≠ 0))
      (s.writeAll j.who ws).succeed { j with counts := j.counts.plus c }

/-- UPDATE as issue runs it. Its weights, their directory and the remainder act on no token (R275). -/
def updateOp : Op :=
  { Op.plain (fun j => j.bm = 0 || j.bn = 0) (fun j => [j.d.aSrc, j.d.metaSrc]) (fun _ => []) State.runUpdate with
    blockLen := fun _ => 64, check := State.updStep9 }

/-- UPDATE (R222). -/
def execUpdate (run : IssueRun) (s : State) : Res := .next (s.issueRow run (fun d => d.opcode = opUpdate) updateOp)

end Sys2Proof.Machine
end

