-- ==== Sys2Proof/Machine/Issue.lean ====
section
/-! DEFINITION. The end and the timeout of a wait for a slot token (R258 to R262). -/

namespace Sys2Proof.Machine

/-- What an opcode brings to issue. -/
def opOf (s : State) (d : Desc) : Op :=
  if d.opcode = opMatmul then matmulOp
  else if d.opcode = opFused then fusedOp
  else if d.opcode = opCheck then nodeOp
  else if d.opcode = opReduce then reduceOp
  else if d.opcode = opUpdate then updateOp
  else if d.opcode = opConvert then convertOp
  else if d.opcode = opGather then gatherOp
  else if d.opcode = opHaze then hazeOp
  else if d.opcode = opForecast then forecastOp
  else if d.opcode = opEmu then (if d.rowfn = 0 then dotOp else streamOp)
  else if d.opcode = opDrain then drainOp
  else if d.opcode = opReshard then reshardOp s
  else barrierOp

/-- Does a waiting descriptor still wait to read its block? -/
def State.awaitsBlock (s : State) (j : Job) : Bool :=
  j.phase = .waiting && j.d.metaSrc ≠ 0 && j.block.isEmpty && (opOf s j.d).blockLen j ≠ 0 && j.d.addrs.any (fun x => x.1 = 72)

/-- The slots whose tokens a waiting descriptor needs: those it must find FULL and those it must find EMPTY. -/
def State.waitsOn (s : State) (j : Job) : List (Nat × Nat) × List (Nat × Nat) :=
  let o := opOf s j.d
  if j.phase = .drainWait then ([], s.slotsOf j.tensorWrites)
  else if s.awaitsBlock j then (s.slotsOf [j.d.metaSrc], [])
  else (s.readSlots j o, s.slotsOf (o.writes j))

/-- The token that a descriptor lacks first, as things stand. -/
def State.missing (s : State) (j : Job) : Option (Nat × Nat) := s.lacking j (s.waitsOn j).1 (s.waitsOn j).2

/-- Does a descriptor wait on a token? -/
def Job.waits (j : Job) : Bool := (j.phase = .waiting || j.phase = .drainWait) && j.waitOn.isSome

/-- SLOT_WAIT_END (R258, R259): the token that the descriptor waits on is there; it claims the slot if it writes it, and waits on
the next or proceeds. -/
def execSlotWaitEnd (run : IssueRun) (s : State) : Res :=
  .next (s.whenJob run.jid (fun j => j.waits && s.missing j ≠ j.waitOn && !(s.awaitsBlock j && j.d.usesGroup && s.accBusy { j with bm := (s.bounds j).1 }))
    fun j =>
      let s := s.stall (basinOf j.unit) run.stalls
      if j.phase = .drainWait then s.tryDrain j
      else if s.awaitsBlock j then s.issueBlock j (opOf s j.d)
      else s.proceed j (opOf s j.d))

/-- e of R261 for a descriptor that waits on a slot of basin `q`: below 10 acts as 10, above 24 as 24 (R271). -/
def State.watchdog (s : State) (q cls : Nat) : Nat :=
  let k := rk .BS_SLOT_WDOG (s.physB q)
  min (max (if cls = 0 then s.fld k 8 5 else s.fld k 0 5) 10) 24

/-- SLOT_TIMEOUT (R261, R262): the wait has lasted 2^e b-cycles and the token is still not there. -/
def execSlotTimeout (jid : Nat) (s : State) : Res :=
  .next (s.whenJob jid (fun j => j.waits && s.missing j = j.waitOn) fun j =>
    match j.waitOn with
    | none => s
    | some c =>
      if 20 * 2 ^ s.watchdog c.1 j.cls ≤ s.tk - j.waitFrom then
        (s.bump (rk .BS_SLOT_TIMEOUTS (s.physB c.1))).failJob j stSlotTimeout (0x200 + c.1 + 2 ^ 16 * c.2)
      else s)

end Sys2Proof.Machine
end

