-- ==== Sys2Proof/Machine/Completion.lean ====
section
/-! DEFINITION. Completion records posted, their monitor counts, MSI-X moderation, and the teardown of rings as their
descriptors end (R206, R207, R290 to R293, R341, R353 to R357). -/

namespace Sys2Proof.Machine

/-! ### Monitor slots -/

/-- A monitor slot as a reset leaves it. -/
def MonSlot.zero : MonSlot := ⟨0, 0, 0, 0, 0, 0, 0, 0, 0, 0, 0, []⟩

/-- A monitor slot. -/
def State.slotMon (s : State) (n : Nat) : MonSlot := Tab.getD s.mon n MonSlot.zero

/-- A descriptor's counts added to a slot, each counter saturating (R11, R207). -/
def MonSlot.plus (m : MonSlot) (c : Counts) : MonSlot :=
  { m with
    elements := satAdd 64 m.elements c.elements
    zeros := satAdd 64 m.zeros c.zeros
    satOut := satAdd 64 m.satOut c.satOut
    flushOut := satAdd 64 m.flushOut c.flushOut
    nonfinite := satAdd 32 m.nonfinite c.nonfinite
    flushIn := satAdd 32 m.flushIn c.flushIn
    accSat := satAdd 32 m.accSat c.accSat
    stepAmax := max m.stepAmax c.amax }

/-- A descriptor's counts added to its slot as one step, with step_sat (R207, R209). -/
def State.addCounts (s : State) (n : Nat) (c : Counts) : State :=
  let s := { s with mon := Tab.put s.mon n ((s.slotMon n).plus c) }
  if c.satOut = 0 then s else s.setFld (rk .WR_SLOT_SCALE 0 n) 15 1 1

/-! ### Completion rings -/

/-- Vector of a completion ring sent (R357). -/
def State.sendVector (s : State) (c : Nat) (q : Cq) : State :=
  ({ s with cqs := Tab.put s.cqs c { q with since := 0 } }).send (.vector q.vector)

/-- A record written to a completion ring: its place, its phase, and the vector once max(n, 1) records have been posted
since it was last sent (R354, R357). `bytes` gives the record for a phase. -/
def State.recordTo (s : State) (c : Nat) (q : Cq) (bytes : Nat → List Byte) : State :=
  let i := q.posted
  let q := { q with posted := i + 1, since := q.since + 1 }
  let a := q.place.base + 32 * (i % 2 ^ q.place.z)
  let bs := bytes (if i / 2 ^ q.place.z % 2 = 0 then 1 else 0)
  let s := if q.place.device then s.writeDev queueWho a bs else s.send (.write a bs)
  if max q.n 1 ≤ q.since then s.sendVector c q else { s with cqs := Tab.put s.cqs c q }

/-- The device index of this module in its cascade. -/
def State.ownIndex (s : State) : Nat := match s.casc with | some c => c.own | none => 0xFF

/-! ### Teardown -/

/-- Does a RING_TEARDOWN of the ring run in a mailbox? -/
def State.tearing (s : State) (k : Nat) : Bool :=
  s.mbRun.any fun e => match e.2 with
    | .ringTeardown r _ _ => r = k
    | _ => false

/-- Is a descriptor taken from the ring still without its record? -/
def State.ringUsed (s : State) (k : Nat) : Bool := s.jobs.any fun j => j.ring = k && j.origin = none

/-- A ring that an FLR tears down ceases with the last record of its descriptors (R353, R433); one that RING_TEARDOWN tears
down ceases as the command completes. -/
def State.ringGone (s : State) (k : Nat) : State :=
  match Tab.find? s.rings k with
  | some r => if r.closing && !s.tearing k && !s.ringUsed k then { s with rings := Tab.del s.rings k } else s
  | none => s

/-- QE_STATUS in line with the rings that exist. -/
def State.showRings (s : State) : State :=
  s.setReg (rk .QE_STATUS) (BitVec.ofNat 64 (s.rings.length + 2 ^ 17 * s.cqs.length + 2 ^ 30 * flagNat s.evRing.isSome))

/-! ### Posting -/

/-- Does the record of `x` go before that of `y`, of the same completion ring: it became ready in an earlier cycle of the queue
engine (15 ticks, R420), or in the same one from a lower ring or with a lower seq (R293)? -/
def Job.postsBefore (x y : Job) : Bool :=
  if x.ended / 15 ≠ y.ended / 15 then decide (x.ended < y.ended)
  else if x.ring ≠ y.ring then decide (x.ring < y.ring)
  else decide (x.seq < y.seq)

/-- Is the record of a descriptor next to be posted: it has ended, no record that goes before it waits for the same completion
ring, the ring has room, and no snapshot holds records (R293, R355, R415, R499)? -/
def State.postDue (s : State) (j : Job) : Bool :=
  j.phase = .done && !s.holdPost && !s.snapshotBegun &&
  (!s.jobs.any fun x => x.phase = .done && x.origin = j.origin && x.d.cq = j.d.cq && x.postsBefore j) &&
  (j.origin.isSome || match Tab.find? s.cqs j.d.cq with
    | some q => s.cqRoom j.d.cq q
    | none => true)

/-- The plan's phase that a RESHARD selects at its completion (R341). -/
def State.replan (s : State) (j : Job) : State :=
  if j.d.opcode = opReshard ∧ j.status = 0 ∧ j.planHead.2.1 ≠ 0 then
    { s with plans := Tab.modify s.plans j.planHead.2.1 fun p => { p with phase := j.planHead.2.2 } }
  else s

/-- The flags of a record as it is posted: DEADLINE_MISSED is judged now (R291). -/
def State.lateFlags (s : State) (cls deadline flags : Nat) : Nat :=
  if cls = 0 ∧ deadline ≠ 0 ∧ deadline < s.now then flags ||| 2 ^ flDeadline else flags

/-- The record that another member sent, with the flags of the module that posts it and its ring's phase (R16, R290). -/
def remoteRecord (bs : List Byte) (flags phase : Nat) : List Byte :=
  bs.take 2 ++ leBytes 2 flags ++ (bs.drop 4).take 27 ++ leBytes 1 (128 * phase)

/-- A completion record posted (R290, R293): counts and step_amax are added, the slots it read are emptied, and the record
goes to its completion ring, or over Rill to the member that submitted the descriptor, as it came where another member recorded it (R16). A record whose completion ring
has ceased is discarded (R356). -/
def State.postRecord (s : State) (j : Job) : State :=
  let s := if j.counts = Counts.zero then s else s.addCounts j.d.slot j.counts
  let s := if j.status = 0 then s.emptyAll j.reads else s
  let s := match j.origin with
    | some m =>
      s.sendAs (s.linkClass (j.jid + 1) (.record m [])) (.record m
        (if bitOf j.flags flRemote then remoteRecord j.block j.flags 0 else j.record s.tk s.ownIndex j.flags 0)) 0
    | none => s
  let s := (s.replan j).dropJob j.jid
  let s := if j.status = stCancelled then s.bump (rk .QE_CANCELLED) else s
  let s :=
    match j.origin with
    | some _ => s
    | none =>
      match Tab.find? s.cqs j.d.cq with
      | some q =>
        let fl := s.lateFlags j.cls j.d.deadline j.flags
        s.recordTo j.d.cq q (if bitOf j.flags flRemote then remoteRecord j.block fl else j.record s.tk 0xFF fl)
      | none => s
  (s.ringGone j.ring).showRings

/-- COMPLETION_RECORD_POST (R293). -/
def execCompletionRecordPost (jid : Nat) (s : State) : Res := .next (s.whenJob jid s.postDue s.postRecord)

/-- MSIX_TIMER (R357): t µs have passed since the first record posted since the vector was last sent. -/
def execMsixTimer (cq : Nat) (s : State) : Res :=
  match Tab.find? s.cqs cq with
  | some q => if q.since ≠ 0 ∧ q.t ≠ 0 then .next (s.sendVector cq q) else .next s
  | none => .next s

end Sys2Proof.Machine
end

