-- ==== Sys2Proof/Machine/Halo.lean ====
section
/-! DEFINITION. Halo's comparisons: exact references, ulps and relative error of a sampled segment (R216 to R218), and the
recall trackers of Forecast and Haze (R200 to R204). -/

namespace Sys2Proof.Machine

/-! ### Exact values -/

/-- Exact product of two elements: LOG4 pairs as R37 gives, others by their values (R216). -/
def exactMul (f g : Fmt) (fb gb : List Int) (a b : Elt) : Num :=
  if f = .log4 ∧ g = .log4 then Num.ofInt (log4Mul (a.1.getD 0) (b.1.getD 0)) (-7)
  else Num.mul (f.value fb a) (g.value gb b)

/-- The exact sum of the products of a row and a column (R216). -/
def exactDot (f g : Fmt) (fb gb : List Int) (a b : List Elt) : Num :=
  (a.zip b).foldl (fun t p => Num.add t (exactMul f g fb gb p.1 p.2)) Num.zero

/-- The PWL function formed exactly (R108, R216). -/
def pwlExact (p : Prm) (y : Num) : Num :=
  let u := Num.shift (Num.sub y p.lo) (-p.d)
  let f (i : Nat) : Num := p.f.getD i Num.zero
  if u.isNan then .nan
  else if Num.le u Num.zero then f 0
  else if Num.le (Num.ofInt 64) u then f 64
  else
    let i := u.floor.toNat
    let r := Num.sub u (Num.ofInt i)
    if r.isZero then f i else Num.add (f i) (Num.mul r (Num.sub (f (i + 1)) (f i)))

/-- Steps 3 and 4 of R105 applied exactly to column `c` (R216). -/
def exactSteps (d : Desc) (p : Prm) (c : Nat) (v : Num) : Num :=
  let y :=
    if d.scaleMode = 2 then
      let x := p.sc.getD c (Num.zero, Num.zero)
      Num.add (Num.mul v x.1) x.2
    else if d.scaleMode = 1 then Num.shift v (signed d.scaleValue 8) else v
  if d.eltfn % 4 = 2 then pwlExact p y else eltStep d p y

/-! ### Comparison -/

/-- FP32 of the square root of `n / d`, rounded once to nearest even; ∞ beyond the range. -/
def sqrt32 (n d : Nat) : Nat :=
  let val (c : Nat) : Nat × Nat := binFp32.mag c
  let below (p : Nat × Nat) : Bool := decide (p.1 * p.1 * d ≤ n * p.2 * p.2)
  let c := (List.range 31).foldl (fun c i => let t := c + 2 ^ (30 - i); if t ≤ 0x7F7FFFFF ∧ below (val t) then t else c) 0
  -- twice the midpoint between c and the next code
  let a := val c
  let b := val (c + 1)
  let m := (a.1 * b.2 + b.1 * a.2, 2 * a.2 * b.2)
  let l := m.1 * m.1 * d
  let r := n * m.2 * m.2
  if l < r ∨ (l = r ∧ c % 2 = 1) then c + 1 else c

/-- `d_c` of R217 for a written value with its ulp and a reference. A NaN against an infinity is stated by no rule
(log 24). -/
def ulpsApart (q u r : Num) : Nat :=
  match q, r with
  | .nan, .nan => 0
  | .inf a, .inf b => if a = b then 0 else 2 ^ 32 - 1
  | .nan, .inf b => (Config.haloMixed true b).toNat
  | .inf a, .nan => (Config.haloMixed false a).toNat
  | .fin _ _ _, .fin _ _ _ => min ((Num.div (Num.sub q r).abs u).floor.toNat) (2 ^ 32 - 1)
  | _, _ => 2 ^ 32 - 1

/-- D and rel of a sample's columns (R217). -/
def compareRow (cs : List (Num × Num × Num)) : Nat × Nat :=
  let ds := cs.map fun c => ulpsApart c.1 c.2.1 c.2.2
  let sq (x : Num) : Num := Num.mul x x
  let num := cs.foldl (fun t c => Num.add t (sq (Num.sub c.1 c.2.2))) Num.zero
  let den := cs.foldl (fun t c => Num.add t (sq c.2.2)) Num.zero
  let rel :=
    if ds.any (· = 2 ^ 32 - 1) then 0x7F800000
    else
      match num, den with
      | .fin _ a b, .fin _ c e => if c = 0 then (if a = 0 then 0 else 0x7F800000) else sqrt32 (a * e) (b * c)
      | x, y => fp32 (Num.div x y)
  (ds.foldl max 0, rel)

/-- Thresholds of a slot's halo_class exceeded; a field of 0 never is (R217). -/
def State.overThresh (s : State) (slot D rel : Nat) : Bool :=
  let k := rk .HL_THRESH 0 (s.fld (rk .WR_SLOT_CFG 0 slot) 12 2)
  let l2 := s.fld k 0 32
  let ul := s.fld k 32 32
  (ul ≠ 0 && decide (ul < D)) || (l2 ≠ 0 && Num.lt (ofFp32 l2) (ofFp32 rel))

/-- The descriptor of a sample, as far as its operands go. -/
def HaloSample.job (x : HaloSample) : Job :=
  { Job.fresh 0 x.ring x.seq 0 none x.d [] with unit := 0x200 + x.basin, bm := x.bm, bn := x.bn, bk := x.bk, block := x.block }

/-- The reserve jet's reads for a sample, made for no descriptor in flight. -/
def HaloSample.who (x : HaloSample) : Who := { x.job.who with op := 0 }

/-- The descriptor of a MATMUL's sample with its codebook. -/
def State.sampleJob (s : State) (x : HaloSample) : Job :=
  { x.job with books := if x.d.serial = .code4 then [s.codebook x.who x.d.wSrc] else [] }

/-- The written value, its ulp and the reference of each column of a segment that the comparison takes (R216, R217). -/
def State.segColumns (s : State) (x : HaloSample) : List (Num × Num × Num) :=
  let j := s.sampleJob x
  let d := x.d
  let a := s.opRow x.who j.broadOp x.m
  let p := s.prm x.basin d x.bn
  let f := d.out
  (((List.range x.codes.length).zip x.codes).filter fun c => !c.2.2.2).map fun c =>
    let n := 128 * x.j + c.1
    let e : Elt := (some c.2.1, c.2.2.1)
    let v := exactDot d.broad d.serial j.broadOp.book j.serialOp.book a (s.opRow x.who j.serialOp n)
    (f.value [] e, Num.shift (f.ulp c.2.1) (f.blockExp c.2.2.1), ofFp32 (fp32Sat (exactSteps d p n v)).1)

/-- A compared segment counted in its slot, with an event where it exceeds its thresholds (R218). -/
def State.haloCount (s : State) (t : Nat) (x : HaloSample) : State :=
  let r := compareRow (s.segColumns x)
  let past := s.overThresh x.d.slot r.1 r.2
  let m := s.slotMon x.d.slot
  let m := { m with
    haloSamples := satAdd 32 m.haloSamples 1
    haloOver := satAdd 32 m.haloOver (flagNat past)
    haloMaxUlps := max m.haloMaxUlps r.1 }
  let s := { s with mon := Tab.put s.mon x.d.slot m }
  if past then
    s.raise 0x30 (hereHandle (0x100 + t))
      (payload [(24, 2, x.d.slot), (26, 2, x.ring), (28, 4, x.seq), (32, 4, x.m), (36, 2, x.j), (38, 4, r.1), (42, 4, r.2)])
  else s

/-! ### Recall trackers -/

/-- The registers of a tracker: configuration, status, hits, truth, open count, samples. -/
structure TrkRegs where
  cfg : RegName
  stat : RegName
  hits : RegName
  truth : RegName
  openN : RegName
  samples : RegName
  event : Nat
  deriving DecidableEq, Repr

/-- Forecast's trackers. -/
def fcTrk : TrkRegs := ⟨.FC_TRK_CFG, .FC_TRK_STAT, .FC_TRK_HITS, .FC_TRK_TRUTH, .FC_TRK_OPEN, .FC_TRK_SAMPLES, 0x31⟩
/-- Haze's trackers. -/
def hzTrk : TrkRegs := ⟨.HZ_TRK_CFG, .HZ_TRK_STAT, .HZ_TRK_HITS, .HZ_TRK_TRUTH, .HZ_TRK_OPEN, .HZ_TRK_SAMPLES, 0x32⟩

/-- A tracker's window closed (R201). -/
def State.trkClose (s : State) (k : TrkRegs) (n hits truth : Nat) : State :=
  let rcl := if truth = 0 then 65536 else 65536 * hits / truth
  let s := (((s.setReg (rk k.hits 0 n) 0).setReg (rk k.truth 0 n) 0).setReg (rk k.openN 0 n) 0).setFld (rk k.stat 0 n) 0 18
    (rcl + 2 ^ 17)
  if rcl < s.fld (rk k.cfg 0 n) 0 17 then
    (s.setFld (rk k.stat 0 n) 18 1 1).raise k.event devHandle (payload [(24, 1, n), (28, 4, rcl)])
  else s

/-- A sample taken into a tracker (R200 to R202). -/
def State.trkSample (s : State) (k : TrkRegs) (n hits truth : Nat) : State :=
  let s := ((s.bump (rk k.samples 0 n)).bump (rk k.hits 0 n) hits).bump (rk k.truth 0 n) truth
  let cnt := s.fld (rk k.openN 0 n) 0 15 + 1
  let w := s.fld (rk k.cfg 0 n) 17 15
  if (if w = 0 then 1024 else w) ≤ cnt then s.trkClose k n (s.reg (rk k.hits 0 n)).toNat (s.reg (rk k.truth 0 n)).toNat
  else s.setReg (rk k.openN 0 n) (BitVec.ofNat 64 cnt)

/-- The exact products of row `m` of a sample with the rows of its exact operand. -/
def State.exactRow (s : State) (x : HaloSample) (fmt bits src : Nat) : List Num :=
  let f := (Fmt.ofCode .serial (fmt % 16) bits).getD (.int 8)
  let ao := s.operand x.who x.d.broad x.d.aSrc 0 0 x.bm x.bk
  let wo := s.operand x.who f src 0 0 x.bn x.bk
  let a := s.opRow x.who ao x.m
  (List.range x.bn).map fun n => exactDot x.d.broad f ao.book wo.book a (s.opRow x.who wo n)

/-- A sampled row of a FORECAST (R200). -/
def State.forecastSample (s : State) (x : HaloSample) : State :=
  let b := ForecastBlk.ofBytes x.block
  let z := s.exactRow x b.w1Fmt b.w1Bits b.w1Src
  let truth := (List.range x.bn).filter fun i => Num.lt (ofFp32 b.tau) (z.getD i Num.zero)
  s.trkSample fcTrk b.tracker (truth.filter x.picked.contains).length truth.length

/-- A sampled row of a HAZE_SELECT (R200). -/
def State.hazeSample (s : State) (x : HaloSample) : State :=
  let b := HazeBlk.ofBytes x.block
  let sc := b.scores x.bn [s.exactRow x b.fmt b.bits b.exact]
  let cand := (List.range (b.count x.bn)).filter fun i => !b.always (b.count x.bn) i
  let truth := pickTop sc cand b.k
  s.trkSample hzTrk b.tracker (truth.filter x.picked.contains).length truth.length

/-! ### The queue -/

/-- Is a sample's descriptor still without its record (R216)? -/
def State.inFlight (s : State) (x : HaloSample) : Bool := s.jobs.any fun j => j.ring = x.ring && j.seq = x.seq

/-- The spans a sample's reference reads. -/
def State.sampleSpans (s : State) (x : HaloSample) : List Span :=
  if x.d.opcode = opMatmul then
    let j := s.sampleJob x
    (if x.d.serial = .code4 then [⟨x.d.wSrc, 0, 64⟩] else []) ++
      s.opSpans x.who j.broadOp x.m 1 0 x.bk ++ s.opSpans x.who j.serialOp (128 * x.j) x.codes.length 0 x.bk
  else
    let e := if x.d.opcode = opForecast then
        let b := ForecastBlk.ofBytes x.block
        (b.w1Fmt, b.w1Bits, b.w1Src)
      else
        let b := HazeBlk.ofBytes x.block
        (b.fmt, b.bits, b.exact)
    let f := (Fmt.ofCode .serial (e.1 % 16) e.2.1).getD (.int 8)
    s.opSpans x.who (s.operand x.who x.d.broad x.d.aSrc 0 0 x.bm x.bk) x.m 1 0 x.bk ++
      s.opSpans x.who (s.operand x.who f e.2.2 0 0 x.bn x.bk) 0 x.bn 0 x.bk

/-- HALO_COMPARISON (R216 to R219): the oldest queued sample of the terrace whose descriptor has posted its record is
compared; none while the debug view has suspended Halo (R28), or a snapshot holds the monitor counts (R415). -/
def execHaloComparison (terrace : Nat) (s : State) : Res :=
  let q := Tab.getD s.haloQ terrace []
  match q.find? fun x => !s.inFlight x with
  | none => .next s
  | some x =>
    if s.viewOpen terrace ∨ s.spared terrace ∨ s.holdPost then .next s
    else
      let q := q.erase x
      let s := { s with haloQ := if q.isEmpty then Tab.del s.haloQ terrace else Tab.put s.haloQ terrace q }
      let s := s.setReg (rk .HL_PENDING 0 terrace) (BitVec.ofNat 64 q.length)
      let s := (s.readSpans x.who (s.sampleSpans x)).1
      .next (if x.d.opcode = opMatmul then s.haloCount terrace x
        else if x.d.opcode = opForecast then s.forecastSample x else s.hazeSample x)

end Sys2Proof.Machine
end

