-- ==== Sys2Proof/Machine/HostIf.lean ====
section
/-! DEFINITION. The host link and the reads of registers: inbound writes and reads through BAR2, link state, SMBus, the
debug space, and reads of BAR0 and BAR4 with their RC counters (R6, R7, R10, R117, R118, R248, R270, R347, R349, R375 to R383). -/

namespace Sys2Proof.Machine

/-! ### Inbound traffic -/

/-- POOL_WRITE_REQUEST (R247 to R250): a remote request at the arbiter of a logical basin. -/
def execPoolWriteRequest (basin addr cls : Nat) (writer : BitVec 24) (data : List Byte) (s : State) : Res :=
  .next (s.poolRequest basin addr cls writer.toNat data)

/-- The host link as a requester: writer class HOST, no basin (R246). -/
def hostWho : Who := ⟨none, 2, devHandle, false, 0⟩

/-- The device address that a BAR2 offset reaches (R375). -/
def State.bar2 (s : State) (x : Nat) : Nat := (s.fld (rk .HI_BAR2_BASE) 30 26 * 2 ^ 30 + x) % 2 ^ 56

/-- Does a request of the host arrive: the link is up and the offset lies in the window? -/
def State.inbound (s : State) (x n : Nat) : Bool := s.bit (rk .HI_LINK) 10 && decide (x + n ≤ 2 ^ 36)

/-- HOST_WRITE (R375, R376). -/
def execHostWrite (offset : Nat) (data : List Byte) (s : State) : Res :=
  if s.inbound offset data.length then .next (s.writeDev hostWho (s.bar2 offset) data) else .next s

/-- HOST_READ (R375 to R379): the pool aperture and unmapped addresses read 0; every uncorrectable codeword is counted, and poisons
the completion. -/
def execHostRead (offset len : Nat) (s : State) : Res :=
  if s.inbound offset len then
    let a := s.bar2 offset
    let bs := s.peek hostWho a 0 len
    let r := s.readEach hostWho a len
    let bad := r.2.any fun e => e.1 = stDramEcc
    let s := if bad then r.1.bump (rk .HI_POISON_SENT) else r.1
    .next { s with readData := ⟨bs, bad, true⟩ }
  else .next s

/-! ### Link state -/

/-- The host link leaves data-link-up (R380). -/
def State.linkDown (s : State) : State :=
  let s := (s.setFld (rk .HI_LINK) 10 1 0).bump (rk .HI_LINK_DOWNS)
  ((s.setOwn 8 false).settle).raise 0x100 devHandle (payload [])

/-- HOST_LINK_DOWN: the link leaves data-link-up. -/
def execHostLinkDown (s : State) : Res := if s.bit (rk .HI_LINK) 10 then .next s.linkDown else .next s

/-- HOST_LINK_UP (R380): what waited goes first. The link does not train while HST_PERST_L is asserted. -/
def execHostLinkUp (rate width : Nat) (flit : Bool) (s : State) : Res :=
  if s.bit (rk .HI_LINK) 10 ∨ s.perst ∨ !s.powerGood then .next s
  else
    let s := s.setReg (rk .HI_LINK) (BitVec.ofNat 64 (rate % 16 + 2 ^ 4 * (width % 32) + 2 ^ 9 * flagNat flit + 2 ^ 10))
    let s := (s.setFld (rk .PCI_LINK_CTRL) 16 4 rate).setFld (rk .PCI_LINK_CTRL) 20 6 width
    let s := s.setFld (rk .PCI_LINK_CTRL2) 26 1 (flagNat flit)
    .next (((s.flushWait.setOwn 8 true).settle).raise 0x101 devHandle (payload [(24, 1, rate), (25, 1, width)]))

/-- D3HOT (R434). -/
def execD3hot (s : State) : Res := .next { s.setFld (rk .PCI_PM_CTRL) 0 2 3 with d3 := true }

/-- D0 (R434): everything that waited is posted. -/
def execD0 (s : State) : Res := .next ({ s.setFld (rk .PCI_PM_CTRL) 0 2 0 with d3 := false }).flushWait

/-- A sensor's latest reading; 0x8000 before the first sample (R467). -/
def State.sensor (s : State) (i : Nat) : BitVec 16 := Tab.getD s.sensors i 0x8000#16

/-- Input power is present, so Nimbus has power (R495, R503). -/
def State.powered (s : State) : Bool := s.powerGood || s.tripped

/-- SMBus status word (R383). -/
def State.smbStatus (s : State) : BitVec 16 :=
  BitVec.ofNat 16 (flagNat s.powerGood + 2 * flagNat s.nimbus + 4 * flagNat s.zenith + 8 * flagNat (s.bit (rk .PW_STATUS) 3) +
    16 * flagNat s.tripped + 32 * flagNat (s.bit (rk .NB_STATUS) 3))

/-- SMBUS_READ_WORD (R383); it answers after a trip too (R503). -/
def execSmbusReadWord (code : BitVec 8) (s : State) : Res :=
  let c := code.toNat
  let ack (w : BitVec 16) : Res := .next { s with readData := ⟨leBytes 2 w.toNat, false, true⟩ }
  if !s.powered then .next { s with readData := ⟨[], false, false⟩ }
  else if c < 0x78 then ack (s.sensor c)
  else if c = 0x80 then ack s.smbStatus
  else if c = 0x81 then ack Config.moduleRevision
  else .next { s with readData := ⟨[], false, false⟩ }

/-! ### Debug -/

/-- BAR4 is there and debug is unlocked (R347). -/
def State.bar4On (s : State) : Bool := s.bar4 && s.debugOn

/-- The logical terrace that a physical jet serves a jet of (R18). -/
def State.logicalTof (s : State) (u : Nat) : Option Nat := (List.range 35).find? fun t => s.physT t = u / 17

/-- DEBUG_HALT (R117, R347): the jet that HI_DBG_SEL names halts if the host holds DEBUG_VIEW of its terrace. -/
def execDebugHalt (s : State) : Res :=
  let u := s.fld (rk .HI_DBG_SEL) 0 10
  match s.logicalTof u with
  | some t =>
    if s.bar4On && decide (u < 595) && s.holder (resView t) = 1 && s.fld (rk .JT_STATUS u) 0 2 ≠ 3 then
      .next ((s.setFld (rk .JT_STATUS u) 0 2 2).setFld (rk .HI_DBG_HALT) 0 1 1).showHalt
    else .next s
  | none => .next s

/-- DEBUG_RESUME (R347): a write of 0. -/
def execDebugResume (s : State) : Res :=
  if s.bar4On then .next ((s.setFld (rk .HI_DBG_HALT) 0 1 0).resumeU (s.fld (rk .HI_DBG_SEL) 0 10)).showHalt else .next s

/-- ECC_INJECT_ARM (R271): a write of BS_ECC_INJECT of a physical basin; arm is ignored while debug is locked. -/
def execEccInjectArm (basin : Nat) (value : BitVec 64) (s : State) : Res :=
  let k := rk .BS_ECC_INJECT basin
  let v := value.toNat
  let s := ((s.setFld k 0 23 v).setFld k 24 8 (v / 2 ^ 24)).setFld k 32 1 (v / 2 ^ 32)
  .next (if s.debugOn && bitOf v 33 then s.setFld k 33 1 1 else s)

/-! ### Reads of BAR0 and BAR4 -/

/-- Bytes of a register as an access of `n` bytes reads it; 0 where the width is not the register's (R6). BS_DBG_BOUNDS and
BS_ECC_INJECT.arm read 0 while debug is locked (R271). -/
def State.regRead (s : State) (k : RegKey) (n : Nat) : Nat :=
  let r := regRow k.name
  if n ≠ (if r.wide then 8 else 4) then 0
  else
    (r.fields.map fun f =>
      let hide : Bool := f.acc = .wo || (!s.debugOn && (k.name = .BS_DBG_BOUNDS || (k.name = .BS_ECC_INJECT && f.lo = 33)))
      if hide then 0 else bitsOf (s.reg k).toNat f.lo f.w * 2 ^ f.lo).sum

/-- RC fields of a register cleared by a read of its width (R7, R10). -/
def State.regClear (s : State) (k : RegKey) (n : Nat) : State :=
  let r := regRow k.name
  if n = (if r.wide then 8 else 4) && r.fields.any fun f => f.acc = .rc then
    r.fields.foldl (fun s f => if f.acc = .rc then s.setFld k f.lo f.w 0 else s) s
  else s

/-- The group record of a jet as the debug window lays it out; no drain is under way between two commands, so draining reads 0
(R118, log 30). -/
def Group.words (g : Group) : Nat × Nat :=
  (1 + 4 * (g.domain % 4) + 2 ^ 4 * (g.row0 % 256) + 2 ^ 12 * (g.rows % 512) +
      2 ^ 21 * (g.cols % 256) + 2 ^ 29 * flagNat g.sat + 2 ^ 30 * flagNat g.lapsed + 2 ^ 31 * flagNat g.nonfinite +
      2 ^ 32 * bitsOfInt g.e 10 + 2 ^ 42 * flagNat g.eSet + 2 ^ 43 * (g.shape % 8),
    g.nTotal % 2 ^ 32 + 2 ^ 32 * (g.live % 512))

/-- The logical jet that a physical jet serves; none: it serves none. -/
def State.servedBy (s : State) (u : Nat) : Option Nat := (List.range 595).find? fun x => s.physJ x = u

/-- The jet whose debug window HI_DBG_SEL opens: the one that a halted physical jet serves (R117). -/
def State.viewJet (s : State) : Option Nat :=
  let u := s.fld (rk .HI_DBG_SEL) 0 10
  if s.haltedU u then s.servedBy u else none

/-- A word of the debug window read is a read of its accumulator entry: a one-bit error is corrected and counted (R444). -/
def State.viewRead (s : State) (o : Nat) : State :=
  match s.viewJet with
  | none => s
  | some x => if o < 0x40000 then s.readAcc fun k => k = accKey x (o / 1024) (o / 8 % 128) else s

/-- A 64-bit word of the debug window of the jet that HI_DBG_SEL names; 0 unless it is halted (R117, R118). -/
def State.debugWord (s : State) (o : Nat) : Nat :=
  match s.viewJet with
  | none => 0
  | some x =>
    if o < 0x40000 then s.accAt x (o / 1024) (o / 8 % 128)
    else if o < 0x40080 then
      match s.group? x ((o - 0x40000) / 16) with
      | some g => if o / 8 % 2 = 0 then g.words.1 else g.words.2
      | none => 0
    else 0

/-- The logical basin that a physical basin serves. -/
def State.basinServed (s : State) (u : Nat) : Option Nat := (List.range 140).find? fun q => s.physB q = u

/-- A word as a debug read finds it, with the errors its check shows: bits in error are read as they are stored (R270). -/
def State.debugPool (s : State) (x n : Nat) : State × Nat :=
  let u := s.fld (rk .HI_DBG_SEL) 16 8
  match s.basinServed u with
  | none => (s, 0)
  | some q =>
    let m := Tab.getD s.poolErr ((poolBase q + x) / 32) 0
    let chk := if m = 0 then 0 else if 2 ^ 256 ≤ m then 3 else if oneBit m then 1 else 2
    let v := leNat (Mem.read s.dev (poolBase q + x) n)
    (s.setFld (rk .BS_DBG_STATUS u) 0 2 chk, v ^^^ (m / 2 ^ (8 * (x % 32)) % 2 ^ (8 * n)))

/-- A read of `n` bytes of BAR0, of BAR4 from offset 0x400_0000 on, of the management link's BAR0 from 0x500_0000 on, or of the
configuration space of the host link from 0x600_0000 and of the management link from 0x700_0000 on (log 25): the value and
the state after it. -/
def State.barRead (s : State) (off n : Nat) : State × Nat :=
  if off < 0x80000 then
    (s, match Tab.find? s.rings (off / 8) with | some r => if off % 8 = 0 then r.head else 0 | none => 0)
  else if 0x100000 ≤ off ∧ off < 0x140000 then (s, leNat (Mem.read s.mbox (off - 0x100000) n))
  else if off < 0x4000000 then
    match regAt 0 off with
    | some k => (s.regClear k n, s.regRead k n)
    | none => (s, 0)
  else if 0x7000000 ≤ off then
    (s, match regAt 9 (off - 0x7000000) with | some k => s.regRead k n | none => 0)
  else if 0x6000000 ≤ off then
    (s, match regAt 8 (off - 0x6000000) with | some k => s.regRead k n | none => 0)
  else if 0x5000000 ≤ off then
    let o := off - 0x5000000
    if o < 0x8000 then (s, leNat (Mem.read s.mbox (64 * 4096 + o) n))
    else
      match regInBlock .mgt 0 o with
      | some k => (s, s.regRead k n)
      | none => (s, 0)
  else
    let o := off - 0x4000000
    if !s.bar4On then (s, 0)
    else if o < 0x80000 then (s.viewRead o, s.debugWord (o / 8 * 8) / 2 ^ (8 * (o % 8)) % 2 ^ (8 * n))
    else if 0x800000 ≤ o ∧ o < 0x1000000 then s.debugPool (o - 0x800000) n
    else
      match regAt 4 o with
      | some k => (s, s.regRead k n)
      | none => (s, 0)

/-- RC_COUNTER_READ (R6, R7, R10): a read of a BAR0 or BAR4 offset; an RC counter is returned and cleared. -/
def execRcCounterRead (offset bytes : Nat) (s : State) : Res :=
  let r := s.barRead offset bytes
  .next { r.1 with readData := ⟨leBytes bytes r.2, false, true⟩ }

end Sys2Proof.Machine
end

