-- ==== Sys2Proof/Machine/Weir.lean ====
section
/-! DEFINITION. Weir's step closes (R210, R212, R213, R224) and the monitor slot records of snapshots and restores
(R208, R209). -/

namespace Sys2Proof.Machine

/-! ### Step closes -/

/-- WR_STATUS.closing and queued in line with the queue: the first close runs, the others wait (R213). -/
def State.showWeir (s : State) : State :=
  (s.setFld (rk .WR_STATUS) 0 1 (flagNat !s.weirQ.isEmpty)).setFld (rk .WR_STATUS) 2 5 (s.weirQ.length - 1)

/-- The step of a slot cut: step_amax and step_sat are taken and begin again (R210, R213). -/
def State.cutSlot (s : State) (n : Nat) : State :=
  let k := rk .WR_SLOT_SCALE 0 n
  let s := if (s.slotMon n).stepAmax = 0 then s else { s with mon := Tab.put s.mon n { s.slotMon n with stepAmax := 0 } }
  if s.bit k 15 then s.setFld k 15 1 0 else s

/-- The close of a range as a write of WR_STEP forms it: what the slots with a finite nonzero output hold at the write. -/
def State.weirCut (s : State) (first last : Nat) : WeirClose where
  seq := s.weirSeq
  first := first
  last := last
  cut := ((s.mon.filter fun e => decide (first ≤ e.1) && decide (e.1 ≤ last) && e.2.stepAmax ≠ 0)).map fun e =>
    (e.1, e.2.stepAmax, s.bit (rk .WR_SLOT_SCALE 0 e.1) 15)
  sets := []

/-- Slots of a range whose step holds something. -/
def State.stepSlots (s : State) (first last : Nat) : List Nat :=
  (List.range (last + 1 - first)).map (first + ·) |>.filter fun n =>
    (s.slotMon n).stepAmax ≠ 0 || s.bit (rk .WR_SLOT_SCALE 0 n) 15

/-- CLOSE_STEP (R210, R213): starts the close, queues it behind others, or finds sixteen waiting. -/
def execCloseStep (value : BitVec 32) (s : State) : Res :=
  let first := bitsOf value.toNat 0 12
  let last := min (first + bitsOf value.toNat 12 12) 4095
  if 17 ≤ s.weirQ.length then .next (s.setFld (rk .WR_STATUS) 1 1 1)
  else
    let c := s.weirCut first last
    let s := (s.stepSlots first last).foldl State.cutSlot s
    .next ({ s with weirQ := s.weirQ ++ [c], weirSeq := s.weirSeq + 1 }).showWeir

/-- EMAX of R210 for a slot's weir_fmt; none where the slot names no format. -/
def weirEmax (f : Nat) : Option Int :=
  match f with
  | 1 => some 2
  | 2 => some 4
  | 3 => some 2
  | 4 => some 8
  | 5 => some 15
  | 6 => some 0
  | _ => none

/-- The history of a slot after a close (R210). -/
def histAfter (hist : List Nat) (e8 : Nat) (sat : Bool) (H : Nat) : List Nat :=
  if sat then [e8] else let l := hist ++ [e8]; l.drop (l.length - H)

/-- The scale byte of a slot after a close (R210). -/
def scaleAfter (x : Nat) (hist : List Nat) (h : Nat) (emax : Int) (sat : Bool) : Nat :=
  let xh := (satI (((hist.foldl max 0 + h : Nat) : Int) - emax) 0 254).toNat
  if sat then min (max (x + 1) xh) 254 else xh

/-- `close_step` of R210 on the step cut from a slot. -/
def State.closeSlot (s : State) (n amax : Nat) (sat : Bool) : State :=
  let cfg := rk .WR_SLOT_CFG 0 n
  let k := rk .WR_SLOT_SCALE 0 n
  let e8 := (satI ((ofFp32 amax).log2 + 127) 0 255).toNat
  let m := s.slotMon n
  let hist := histAfter m.hist e8 sat (s.fld cfg 0 6 + 1)
  let s := { s with mon := Tab.put s.mon n { m with hist := hist } }
  let s := s.setFld k 8 7 hist.length
  match weirEmax (s.fld cfg 9 3) with
  | some emax => s.setFld k 0 8 (scaleAfter (s.fld k 0 8) hist (s.fld cfg 6 3) emax sat)
  | none => s

/-- The close in progress takes effect in ascending slot order, then the writes of x that arrived meanwhile; the next close
starts (R210, R212, R213). -/
def State.endClose (s : State) : State :=
  match s.weirQ with
  | [] => s
  | c :: r =>
    let s := c.cut.foldl (fun s x => s.closeSlot x.1 x.2.1 x.2.2) s
    let s := c.sets.foldl (fun s x => s.setFld (rk .WR_SLOT_SCALE 0 x.1) 0 8 x.2) s
    ({ s with weirQ := r }).showWeir

/-- STEP_CLOSE_END (R210, R212, R213). -/
def execStepCloseEnd (s : State) : Res := .next s.endClose

/-- A write of WR_SLOT_SCALE.x: held to the end of a close in progress that covers the slot (R212). -/
def State.writeScale (s : State) (n x : Nat) : State :=
  match s.weirQ with
  | c :: r =>
    if c.first ≤ n ∧ n ≤ c.last then { s with weirQ := { c with sets := c.sets ++ [(n, x % 256)] } :: r }
    else s.setFld (rk .WR_SLOT_SCALE 0 n) 0 8 x
  | [] => s.setFld (rk .WR_SLOT_SCALE 0 n) 0 8 x

/-- Does one of the first `mark` closes written still cover a slot of a range (R209)? -/
def State.closeCovers (s : State) (first count : Nat) (mark : Nat := 2 ^ 64) : Bool :=
  s.weirQ.any fun c => decide (c.seq < mark) && decide (c.first < first + count) && decide (first ≤ c.last)

/-- The closes written earlier that cover a slot of a range, ended with those before them (R209). -/
def State.endCloses (s : State) (first count : Nat) : Nat → State
  | 0 => s
  | fuel + 1 => if s.closeCovers first count then s.endClose.endCloses first count fuel else s

/-! ### Monitor slot records -/

/-- The open step of a slot, step_amax and step_sat, as it stands where closes from number `mark` on have taken no effect yet: what
their cuts hold is part of it (R209, log 32). -/
def State.stepAt (s : State) (n mark : Nat) : Nat × Bool :=
  ((s.weirQ.filter fun c => decide (mark ≤ c.seq)).flatMap (·.cut)).foldl
    (fun a c => if c.1 = n then (max a.1 c.2.1, a.2 || c.2.2) else a) ((s.slotMon n).stepAmax, s.bit (rk .WR_SLOT_SCALE 0 n) 15)

/-- The 128 bytes of a slot's record (R209). -/
def State.monRecord (s : State) (n : Nat) (mark : Nat := 2 ^ 64) : List Byte :=
  let m := s.slotMon n
  let st := s.stepAt n mark
  let k := rk .WR_SLOT_SCALE 0 n
  leBytes 8 m.elements ++ leBytes 8 m.zeros ++ leBytes 8 m.satOut ++ leBytes 8 m.flushOut ++ leBytes 4 m.nonfinite ++
  leBytes 4 m.flushIn ++ leBytes 4 m.accSat ++ leBytes 4 st.1 ++ leBytes 4 m.haloSamples ++ leBytes 4 m.haloOver ++
  leBytes 4 m.haloMaxUlps ++ leBytes 1 (s.fld k 0 8) ++ leBytes 1 m.hist.length ++ leBytes 1 (flagNat st.2) ++ leBytes 1 0 ++
  (List.range 64).flatMap fun i => leBytes 1 (m.hist.getD i 0)

/-- The records of a range, in ascending slot order. -/
def State.monRecords (s : State) (first count : Nat) (mark : Nat := 2 ^ 64) : List Byte :=
  (List.range count).flatMap fun i => s.monRecord (first + i) mark

/-- What the clear option sets to 0 (R208). -/
def MonSlot.cleared (m : MonSlot) : MonSlot := { MonSlot.zero with stepAmax := m.stepAmax, hist := m.hist }

/-- The counters of a range cleared (R208). -/
def State.monClear (s : State) (first count : Nat) : State :=
  { s with mon := (s.mon.map fun e => if first ≤ e.1 ∧ e.1 < first + count then (e.1, e.2.cleared) else e).filter fun e =>
      e.2 ≠ MonSlot.zero }

/-- The first byte of a record that a snapshot could not have written (R209). -/
def recordFault (bs : List Byte) : Option Nat :=
  let amax := fieldAt bs 44 4
  let len := fieldAt bs 61 1
  if !(finite32 amax && decide (amax < 2 ^ 31)) then some 44
  else if 64 < len then some 61
  else if 2 ≤ fieldAt bs 62 1 then some 62
  else if fieldAt bs 63 1 ≠ 0 then some 63
  else ((List.range 64).find? fun i => decide (len ≤ i) && fieldAt bs (64 + i) 1 ≠ 0).map (64 + ·)

/-- Byte offset of the first offending byte of `count` records. -/
def recordsFault (bs : List Byte) (count : Nat) : Option Nat :=
  (List.range count).findSome? fun i => (recordFault (bs.drop (128 * i))).map (128 * i + ·)

/-- A slot set from its record (R209). -/
def State.monSet (s : State) (n : Nat) (bs : List Byte) : State :=
  let len := fieldAt bs 61 1
  let m : MonSlot :=
    { elements := fieldAt bs 0 8, zeros := fieldAt bs 8 8, satOut := fieldAt bs 16 8, flushOut := fieldAt bs 24 8
      nonfinite := fieldAt bs 32 4, flushIn := fieldAt bs 36 4, accSat := fieldAt bs 40 4, stepAmax := fieldAt bs 44 4
      haloSamples := fieldAt bs 48 4, haloOver := fieldAt bs 52 4, haloMaxUlps := fieldAt bs 56 4
      hist := (List.range len).map fun i => fieldAt bs (64 + i) 1 }
  ({ s with mon := if m = MonSlot.zero then Tab.del s.mon n else Tab.put s.mon n m }).setReg (rk .WR_SLOT_SCALE 0 n)
    (BitVec.ofNat 64 (fieldAt bs 60 1 + 2 ^ 8 * len + 2 ^ 15 * (fieldAt bs 62 1 % 2)))

/-- A range set from its records, as one step. -/
def State.monSetAll (s : State) (first count : Nat) (bs : List Byte) : State :=
  (List.range count).foldl (fun s i => s.monSet (first + i) ((bs.drop (128 * i)).take 128)) s

end Sys2Proof.Machine
end

