-- ==== Sys2Proof/Machine/Nimbus.lean ====
section
/-! DEFINITION. Nimbus's flash, logs and lifetime record (R466 to R478). -/

namespace Sys2Proof.Machine

/-- The radio-time counter has been set (TM_STATUS.time_set). -/
def State.timeSet (s : State) : Bool := s.bit (rk .TM_STATUS) 4

/-! ### Erase blocks: 0 to 255 the log region, 256 to 319 the record region (R472, R473) -/

/-- Blocks of a region that are not retired. -/
def State.blocksLeft (s : State) (base n : Nat) : Nat := ((List.range n).filter fun i => !s.worn.contains (base + i)).length

/-- The next block of a region in rotation, from a place on; none if every block is retired. -/
def State.nextBlock (s : State) (base n cur : Nat) : Option Nat :=
  ((List.range n).map fun i => base + (cur + i) % n).find? fun b => !s.worn.contains b

/-- A block erased: counted, reported at 90,000 erases and retired at 100,000 (R473). -/
def State.eraseBlock (s : State) (b : Nat) : State :=
  let n := Tab.getD s.blockErases b 0 + 1
  let s := { s.bump (rk .NB_FLASH_ERASES) with
    blockErases := Tab.put s.blockErases b n
    worn := if 100000 ≤ n then setIns s.worn b else s.worn }
  if n = 90000 then
    s.raise 0x505 devHandle (payload [(24, 1, if b < 256 then 0 else 1),
      (25, 1, if b < 256 then s.blocksLeft 0 256 else s.blocksLeft 256 64)])
  else s

/-- The next block of a region erased to be written, from a place on: one that its erase retires gives way to the block after it
(R473). -/
def State.freshBlock (s : State) (base n : Nat) : Nat → Nat → State × Option Nat
  | 0, _ => (s, none)
  | fuel + 1, cur =>
    match s.nextBlock base n cur with
    | none => (s, none)
    | some b =>
      let s := s.eraseBlock b
      if s.worn.contains b then s.freshBlock base n fuel (b - base + 1) else (s, some b)

/-- Place in the rotation of the record region. -/
def curRecord : Nat := 100
/-- Place in the rotation of the log region. -/
def curLog : Nat := 101

/-! ### The lifetime record -/

/-- The record saved as a new copy, with its digest, in the next block of its region (R475, R476). -/
def State.lifeSave (s : State) : State :=
  match s.freshBlock 256 64 64 (Tab.getD s.cursors curRecord 0) with
  | (s, none) => s
  | (s, some b) =>
    let l := { s.life with
      saves := satAdd 32 s.life.saves 1
      lastTod := if s.timeSet then s.now else s.life.lastTod }
    { s.bump (rk .NB_LIFETIME_SAVES) with
      life := l, copies := Tab.put s.copies (b - 256) ⟨l, true⟩, cursors := Tab.put s.cursors curRecord ((b - 256 + 1) % 64) }

/-- The SM3 digest of the device identity public key (R476, R487, R488). -/
def identityDigest : List Byte := fixLen 32 (Config.sm3 Config.identityKey)

/-- The bytes of the record (R476, R477). -/
def Life.bytes (l : Life) : List Byte :=
  let c := l.map.length
  leBytes 2 1 ++ leBytes 2 (520 + 8 * c) ++ leBytes 4 l.saves ++ identityDigest ++ leBytes 8 l.lastTod ++
  leBytes 4 l.poweredS ++ leBytes 12 0 ++ leBytes 4 l.powerCycles ++ leBytes 4 l.deviceResets ++ leBytes 4 l.fatal ++
  leBytes 4 l.fwConfirmed ++ ((l.logicBins ++ l.dramBins ++ l.voltBins).flatMap (leBytes 4)) ++ leBytes 4 l.overV ++
  leBytes 4 l.underV ++ l.dramWritten.flatMap (leBytes 8) ++
  ((List.range 16).flatMap fun p => leBytes 2 (l.rillFaults.getD p 0) ++ leBytes 2 (l.rillDowns.getD p 0) ++
    leBytes 4 (l.rillCrc.getD p 0)) ++
  leBytes 4 l.columns ++ leBytes 2 l.jets ++ leBytes 2 l.engines ++ leBytes 1 l.terraces ++ leBytes 1 l.dies ++
  leBytes 1 l.stacksLost ++ leBytes 1 0 ++ leBytes 4 l.poolRows ++ leBytes 4 l.dramRows ++ leBytes 4 l.unitFaults ++
  leBytes 4 l.unlocks ++ leBytes 52 0 ++ leBytes 4 c ++ leBytes 4 0 ++
  l.map.flatMap fun r => leBytes 1 r.kind ++ leBytes 1 0 ++ leBytes 2 r.unit ++ leBytes 2 r.loc ++ leBytes 2 r.days

/-- Adds 1 to a counter of a list, saturating at `w` bits. -/
def addAt (w : Nat) (l : List Nat) (i : Nat) : List Nat := l.modify i fun x => satAdd w x 1

/-- The bin of a value: how many of the rising bounds it has reached. -/
def binOf (bounds : List Int) (x : Int) : Nat := (bounds.filter fun b => decide (b ≤ x)).length

/-- Bounds of the logic bins, in 0.125 °C. -/
def logicBounds : List Int := [240, 400, 560, 680, 760, 800, 920]
/-- Bounds of the DRAM bins. -/
def dramBounds : List Int := [240, 400, 560, 640, 680, 720, 760]
/-- Bounds of the input-voltage bins, in 10 mV. -/
def voltBounds : List Int := [4000, 4800, 5200, 5600, 6000]

/-- The hottest of `n` thermal points from `i`. -/
def State.hottest (s : State) (i n : Nat) : Int :=
  (List.range n).foldl (fun (m : Int) k => max m (s.sensor (i + k)).toInt) (-32768)

/-- LIFETIME_SECOND (R474): powered seconds and one bin of each kind; a rail 0 never sampled counts in no voltage bin
(log 9). -/
def execLifetimeSecond (s : State) : Res :=
  if !s.powered then .next s
  else
    let l := s.life
    let v := s.sensor 96
    let l := { l with
      poweredS := satAdd 32 l.poweredS 1
      logicBins := addAt 32 l.logicBins (binOf logicBounds (s.hottest 0 70))
      dramBins := addAt 32 l.dramBins (binOf dramBounds (s.hottest 70 16))
      voltBins := if v = 0x8000#16 then l.voltBins else addAt 32 l.voltBins (binOf voltBounds (v.toNat : Int)) }
    let on := satAdd 32 (s.fld (rk .NB_POWERED) 0 32) 1
    .next ({ s.setReg (rk .NB_POWERED) (BitVec.ofNat 64 (on + 2 ^ 32 * l.poweredS)) with life := l } : State).showSuspects

/-- LIFETIME_RECORD_SAVE (R475): 900 s of powered time have passed, or the repair map has changed. -/
def execLifetimeRecordSave (s : State) : Res := if s.nimbus then .next s.lifeSave else .next s

/-- LIFETIME_SAVE (R475): a write of NB_LIFETIME_SAVE. -/
def execLifetimeSave (value : BitVec 32) (s : State) : Res :=
  if s.powered && bitOf value.toNat 0 then .next s.lifeSave else .next s

/-! ### Logs -/

/-- The block that the next flash log entry needs, erased if every block is full; the log keeps what the blocks that remain hold
(R469, R473). -/
def State.logBlock (s : State) : State :=
  let full := decide (1024 * s.blocksLeft 0 256 ≤ s.flashLog.length)
  let cur := Tab.getD s.cursors curLog 0
  match (if full then s.freshBlock 0 256 256 cur else (s, s.nextBlock 0 256 cur)) with
  | (s, none) => s
  | (s, some b) =>
    { s with
      flashLog := if full then s.flashLog.drop (s.flashLog.length - 1024 * (s.blocksLeft 0 256 - 1)) else s.flashLog
      cursors := Tab.put s.cursors curLog ((b + 1) % 256) }

/-- The oldest entry that waits for the flash log written, under the next number since manufacture (R469). -/
def State.flashWrite (s : State) : State :=
  match s.flashPend with
  | [] => s
  | e :: r =>
    let n := (s.reg (rk .NB_LOG_FLASH)).toNat
    let s := { s with flashPend := r }
    let s := if n % 1024 = 0 then s.logBlock else s
    if s.blocksLeft 0 256 = 0 then s
    else { s.bump (rk .NB_LOG_FLASH) with flashLog := s.flashLog ++ [{ e with num := n }] }

/-- Every entry that waits written; an erase can raise one more event, which waits for its own write. -/
def State.flashAll (s : State) : State := (List.range s.flashPend.length).foldl (fun s _ => s.flashWrite) s

/-- FLASH_LOG_WRITE (R469). -/
def execFlashLogWrite (s : State) : Res := if s.powered then .next s.flashWrite else .next s

/-- The 64 bytes of a log entry (R470). -/
def LogEntry.bytes (e : LogEntry) : List Byte :=
  leBytes 2 e.code ++ leBytes 2 e.cycles ++ leBytes 4 e.seq ++ leBytes 8 e.time ++ leBytes 3 e.unit ++ leBytes 5 e.ms ++
  e.payload ++ leBytes 1 0

end Sys2Proof.Machine
end

