-- ==== Sys2Proof/Machine/Repair.lean ====
section
/-! DEFINITION. The repair map applied, the identities that units show, and the space of the stacks (R18, R310, R311, R329,
R438, R450, R464, R465, R477). -/

namespace Sys2Proof.Machine

/-! ### Identities -/

/-- The logical terrace that a physical one serves. -/
def State.logicalT (s : State) (p : Nat) : Nat := ((List.range 35).find? fun t => s.physT t = p).getD p

/-- Local handle that physical jet `u` serves; 0 where it serves none (R79). -/
def State.servedHandle (s : State) (u : Nat) : Nat :=
  let t := s.logicalT (u / 17)
  if (Tab.find? s.jmap u).isSome then 0
  else if u % 17 = 16 then
    match List.find? (fun e => e.2 = u) s.jmap with
    | some e => 0x400 + 16 * t + e.1 % 17
    | none => 0xC00 + t
  else 0x400 + 16 * t + u % 17

/-- The identities, out-of-service states and home of a physical terrace's units shown (R79, R179, R271, R311, R465). -/
def State.showIds (s : State) (p : Nat) : State :=
  let t := s.logicalT p
  let s := (List.range 17).foldl (fun s i =>
    let u := 17 * p + i
    let s := s.show (rk .JT_ID u) (s.servedHandle u + 2 ^ 16 * u)
    if (Tab.find? s.jmap u).isSome then s.setFld (rk .JT_STATUS u) 0 2 3 else s) s
  let s := (List.range 8).foldl (fun s i =>
    let u := 8 * p + i
    let out := s.emap.contains u
    let s := s.show (rk .SE_ID u) ((if out then 0 else 0x800 + 8 * t + i) + 2 ^ 16 * u)
    if out then s.setFld (rk .SE_STATUS u) 0 2 3 else s) s
  let s := (List.range 4).foldl (fun s i => s.show (rk .BS_ID (4 * p + i)) (0x200 + 4 * t + i + 2 ^ 16 * (4 * p + i))) s
  let s := s.show (rk .PL_TERRACE_HOME 0 t) (stackAbove p + 2 ^ 4 * p)
  match List.find? (fun e => e.2 = 17 * p + 16) s.jmap with
  | some e => s.setFld (rk .TR_RESERVE p) 1 4 (e.1 % 17)
  | none => s

/-! ### The repair map -/

/-- Units of a kind in the repair map. -/
def State.mapped (s : State) (kind : Nat) : List Nat := (s.life.map.filter fun e => e.kind = kind).map (·.unit)

/-- Is a physical terrace out of service? -/
def State.deadT (s : State) (p : Nat) : Bool := (s.mapped 4).contains p

/-- A failed physical jet: the reserve jet of its terrace takes its place unless it is in use or failed itself. -/
def jetOut (t : Tab Nat) (u : Nat) : Tab Nat :=
  let r := 17 * (u / 17) + 16
  if u = r ∨ (Tab.find? t r).isSome ∨ t.any (fun e => e.2 = r) then Tab.put t u 595 else Tab.put t u r

/-- The repair map applied to every unit before it reports ready: columns, jets, engines, terraces and dies (R450). Logical
terraces whose own terrace is out wait for a reserve (R456). -/
def State.applyMap (s : State) : State :=
  let s := { s with
    lmap := []
    jmap := (s.mapped 1).foldl jetOut []
    emap := (s.mapped 2).eraseDups
    spareCols := (s.mapped 0).foldl (fun t u => Tab.put t u (Tab.getD t u 0 + 1)) []
    suspects := []
    failing := ((List.range 32).filter s.deadT).map fun t => (t, 0) }
  let s := (s.life.map.filter fun e => e.kind = 5).foldl (fun s e => s.setFld (rk .DM_STATUS e.unit) (3 + e.loc % 5) 1 1) s
  let s := (List.range 16).foldl (fun s st =>
    if 2 ≤ ((List.range 5).filter (bitOf (s.diesOut st) ·)).length then s.setFld (rk .DM_STATUS st) 20 1 1 else s) s
  let s := s.jmap.foldl (fun s e => if e.2 = 595 then s else s.setHolder (resJet (e.1 / 17)) 3) s
  let s := (s.mapped 0).eraseDups.foldl State.showColumns s
  ((((List.map (fun e => e.1 / 17) s.jmap)) ++ s.emap.map (· / 8)).eraseDups).foldl State.showIds s

/-- Units that a terrace's map entries leave out of bring-up: a terrace out of service, or a reserve that serves another. -/
def State.terraceOut (s : State) (t : Nat) : Bool := s.deadT (s.physT t) || (Tab.find? s.lmap t).isSome

/-! ### Space -/

/-- Bytes of a stack that can be allocated (R310). -/
def stackBytes : Nat := 16320 * 2 ^ 20

/-- Bytes that an allocation of `size` bytes over `n` stacks puts on the one at place `k` of its list (R328). -/
def shareOf (size n f k : Nat) : Nat :=
  let units := size / 4096
  let first := (k + n - f % n) % n
  (if first < units then (units - first - 1) / n + 1 else 0) * 4096

/-- Bytes of an allocation on a stack; a lost one holds its space until it is freed (R330). -/
def Alloc.on (x : Alloc) (st : Nat) : Nat :=
  let n := x.stackList.length
  let share := (((List.range n).zip x.stackList).map fun e => if e.2 = st then shareOf x.size n x.f e.1 else 0).sum
  match x.lies with
  | .onStacks | .lost => share
  | .host _ | .peer _ => 0

/-- Bytes of a stack free for allocation; a stack that is not ready has none. -/
def State.freeOn (s : State) (st : Nat) : Nat :=
  if s.stackReady st then stackBytes - (s.allocs.map fun x => x.on st).sum else 0

/-- PL_FREE and PL_STATUS.allocations in line with the allocations. -/
def State.showSpace (s : State) : State :=
  let s := (List.range 16).foldl (fun s st => s.show (rk .PL_FREE 0 st) (s.freeOn st)) s
  s.setFld (rk .PL_STATUS) 1 17 s.allocs.length

end Sys2Proof.Machine
end

