-- ==== Sys2Proof/Machine/Reset.lean ====
section
/-! DEFINITION. Power-on and device resets, bring-up, firmware boot and compute resets (R420, R423, R429, R431 to R437, R462,
R475, R480, R481, R483, R484, R489, R493, R495, R503, R506). -/

namespace Sys2Proof.Machine

/-! ### Firmware slots (R479, R480, R492) -/

/-- The image of slot A (false) or B (true). -/
def State.slotImage (s : State) (b : Bool) : Option Image := if b then s.slotB else s.slotA

/-- The fused anti-rollback level. -/
def State.fused (s : State) : Nat := s.fld (rk .SC_STATUS) 6 7

/-- The active slot. -/
def State.activeB (s : State) : Bool := s.bit (rk .SC_STATUS) 2

/-- A trial is pending. -/
def State.trialPending (s : State) : Bool := s.bit (rk .SC_STATUS) 3

/-- The slot whose firmware runs. -/
def State.runningB (s : State) : Bool := if s.trialRun then !s.activeB else s.activeB

/-- Is a slot's image bootable? -/
def State.bootable (s : State) (b : Bool) : Bool :=
  match s.slotImage b with
  | some i => i.verifies && decide (s.fused ≤ i.level)
  | none => false

/-- Level of a slot's image; 0 without one. -/
def State.slotLevel (s : State) (b : Bool) : Nat := match s.slotImage b with | some i => i.level | none => 0

/-- SC_STATUS's slot fields and SC_UNLOCKS in line with the slots and the record. -/
def State.showSc (s : State) : State :=
  let k := rk .SC_STATUS
  let s := (s.setFld k 4 1 (flagNat (s.bootable false))).setFld k 5 1 (flagNat (s.bootable true))
  let s := (s.setFld k 13 7 (s.slotLevel false)).setFld k 20 7 (s.slotLevel true)
  s.setReg (rk .SC_UNLOCKS) (BitVec.ofNat 64 s.life.unlocks)

/-- A slot replaced. -/
def State.setSlot (s : State) (b : Bool) (i : Option Image) : State :=
  (if b then { s with slotB := i } else { s with slotA := i }).showSc

/-- The trial given up: its slot is invalid, the active slot boots (R483). -/
def State.rollback (s : State) (reason : Nat) : State :=
  let b := !s.activeB
  let s := ({ s with trialRun := false, staged := none }.setFld (rk .SC_STATUS) 3 1 0).setSlot b none
  s.raise 0x502 devHandle (payload [(24, 1, flagNat b), (25, 1, flagNat !b), (26, 1, reason)])

/-- The boot ROM enters recovery where no slot is bootable: Nimbus's stage 1 does not run (R481). -/
def State.recover (s : State) : State :=
  if s.bootable s.activeB || s.bootable !s.activeB then s
  else ({ s with trialRun := false }.setOwn 0 false).setFld (rk .NB_STATUS) 1 1 1

/-- A pending trial boots, or is given up where its slot is not bootable (R483). -/
def State.bootTrial (s : State) : State :=
  if s.trialPending && !s.trialRun then
    if s.bootable !s.activeB then { s with trialRun := true } else s.rollback 0
  else s

/-- The boot ROM's choice (R480): the trial slot, else the active slot, else the other; false where none is bootable
(R481). -/
def State.bootChoice (s : State) : State × Bool :=
  let s := s.bootTrial
  if s.trialRun || s.bootable s.activeB then (s, true)
  else if s.bootable !s.activeB then (s.setFld (rk .SC_STATUS) 2 1 (flagNat !s.activeB), true)
  else (s, false)

/-! ### What a reset of the die keeps -/

/-- Registers of the Nimbus domain and of the management link (R431, R442). -/
def keptReg (k : RegKey) : Bool :=
  match (regRow k.name).blk with
  | .nb | .sc | .pw | .mgt | .mcf => true
  | _ => k.name = .CK_RESET_CAUSE || k.name = .CK_BRINGUP_CFG || k.name = .CK_DEVICE_RESETS || k.name = .CK_STATUS

/-- READY_MAP as a reset leaves it: the bits that hold, without events, at generation 0 (log 10). -/
def State.quietReady (s : State) : State :=
  let s := readyWords.foldl (fun s x => s.show (rk x.1) (s.readyWord x.2.1 x.2.2)) s
  s.setFld (rk .NB_STATUS) 0 1 (flagNat s.nimbus)

/-- Every domain but those of Nimbus, the boot clock and the management link reset, and bring-up about to start (R431,
R435, R436, R506). `up` names the functions still ready. -/
def State.dieReset (s : State) (up : List Nat) : State :=
  let spares := (List.range 16).map fun st => s.fld (rk .DM_STATUS st) 8 12
  let done := s.fld (rk .MB_COMPLETED) 56 8
  let busy := s.fld (rk .MB_PENDING) 56 8
  let wave := s.fld (rk .CK_BRINGUP_CFG) 0 2
  let r : State := { State.reset with
    pending := s.pending
    tk := s.tk
    nextJid := s.nextJid
    regs := s.regs.filter fun e => keptReg e.1
    host := s.host
    site := s.site
    mbox := s.mbox.filter fun c => decide (56 * 4096 ≤ c.1)
    mbReq := s.mbReq.filter fun c => decide (56 * 4096 ≤ c.1)
    mbGone := s.mbGone.filter fun mb => decide (56 ≤ mb)
    mbMark := s.mbMark.filter fun e => decide (56 ≤ e.1)
    mbRun := s.mbRun.filter fun e => decide (56 ≤ e.1 % 1000)
    up := up
    readData := s.readData
    cursors := s.cursors.filter fun e => decide (curRecord ≤ e.1)
    holders := s.holders.filter fun e => e.2 = 2 || e.2 = 5
    uCut := s.uCut
    pwrAlert := s.pwrAlert
    perst := s.perst
    tripped := s.tripped
    switchOpen := s.switchOpen
    powerGood := s.powerGood
    snapshotBegun := s.snapshotBegun
    dispatchHeld := s.snapshotBegun
    overSample := s.overSample
    tripNow := s.tripNow
    tripStays := s.tripStays
    lastVolt := s.lastVolt
    bistWave := 2 ^ min wave 2
    upSince := s.tk
    dieLog := s.dieLog
    flashPend := s.flashPend
    flashLog := s.flashLog
    blockErases := s.blockErases
    worn := s.worn
    life := s.life
    copies := s.copies
    sensors := s.sensors
    slotA := s.slotA
    slotB := s.slotB
    staged := s.staged
    trialRun := s.trialRun
    fuse := s.fuse
    cold := s.cold
    readyAt := s.tk
    bar4 := s.debugOn
    draws := s.draws }
  let r := ((List.range 16).zip spares).foldl (fun r e =>
    if e.2 = 2048 then r else r.setFld (rk .DM_STATUS e.1) 8 12 e.2) r
  let r := if done = 0 then r else r.setFld (rk .MB_COMPLETED) 56 8 done
  let r := if busy = 0 then r else r.setFld (rk .MB_PENDING) 56 8 busy
  let r := r.setFld (rk .CK_BRINGUP_STATUS) 17 15 32767
  r.applyMap.quietReady

/-! ### Crossings -/

/-- Items and events discarded at crossings by a reset: counted, with one event (R429). -/
def State.flushed (s : State) (kind unit : Nat) : State :=
  let n := (Config.flushed s.draws kind).toNat
  let s : State := { s with draws := s.draws + 1 }
  if n = 0 then s
  else (s.bump (rk .CK_CDC_FLUSHED) n).raise 0x301 unit (payload [(24, 1, kind), (28, 4, n)])

/-! ### Device resets -/

/-- EV_RESET_DONE (R441). -/
def State.resetDone (s : State) (kind : Nat) : State :=
  s.raise 0x300 devHandle (payload [(24, 1, kind), (25, 1, s.fld (rk .CK_RESET_CAUSE) 0 3)])

/-- The effective shares with u_cap at 256 again (R498). -/
def State.showShares (s : State) : State :=
  let s := s.setFld (rk .PW_STATUS) 2 1 (flagNat (decide (s.uCap < 256)))
  let s := s.setFld (rk .PW_STATUS) 3 1 (flagNat ((List.range 35).any fun t => decide (s.fld (rk .PW_SHARE 0 t) 9 9 < 256)))
  (List.range 35).foldl (fun s t =>
    let ut := s.fld (rk .PW_SHARE 0 t) 9 9
    s.show (rk .PW_SHARE 0 t) (min (min s.uCap s.uCut) ut + 2 ^ 9 * ut)) s

/-! ### Mailbox commands: start and answer (R359) -/

/-- Base of a mailbox: 0 to 63 the host's, 64 to 71 the management link's (R358, R382). -/
def mbBase (mb : Nat) : Nat := 4096 * mb

/-- Field of `n` bytes at byte `o` of a mailbox as its command's start has read it (R359). -/
def State.mbField (s : State) (mb o n : Nat) : Nat := leNat (Mem.read s.mbReq (mbBase mb + o) n)

/-- A command of a mailbox has started and not ended. -/
def State.inProgress (s : State) (mb : Nat) : Bool := bitOf (s.mbField mb 16 1) 0

/-- The go bit of a mailbox. -/
def State.mbGo (s : State) (mb : Nat) : Bool := bitOf (Mem.get s.mbox (mbBase mb + 16)).toNat 0

/-- The command codes that are not reserved (R362). -/
def mbCodes : List Nat :=
  [1, 2, 3, 4, 5, 6, 7, 0x10, 0x11, 0x12, 0x13, 0x14, 0x15, 0x20, 0x21, 0x22, 0x30, 0x31, 0x40, 0x41, 0x50] ++
    [0x100, 0x101, 0x102, 0x103, 0x104, 0x110, 0x111, 0x112, 0x113, 0x114]

/-- The end of a command in a mailbox: the 2-byte status, detail and response length in the header, go cleared and done set in
one write, and the bit of MB_COMPLETED, or of MGT_MB_COMPLETED, with the link's vector where irq was set at the start (R359, R368,
R382); while the link is down or MSI-X is not enabled no vector is sent (R506). -/
def State.mbFinish (s : State) (mb status detail : Nat) (resp : List Byte) : State :=
  let b := mbBase mb
  let irq := bitOf (s.mbField mb 16 1) 2
  let flags := (Mem.get s.mbox (b + 16)).toNat
  let m := Mem.write s.mbox (b + 64) resp
  let m := Mem.write m (b + 2) (leBytes 2 status)
  let m := Mem.write m (b + 8) (leBytes 4 detail)
  let m := Mem.write m (b + 14) (leBytes 2 resp.length)
  let m := Mem.put m (b + 16) (BitVec.ofNat 8 (flags / 4 * 4 + 2))
  let s := { s with mbox := m, mbReq := Mem.erase s.mbReq b 4096, mbRun := Tab.del s.mbRun mb, mbMark := Tab.del s.mbMark mb }
  if mb < 64 then
    let s := (s.setFld (rk .MB_COMPLETED) mb 1 1).setFld (rk .MB_PENDING) mb 1 0
    if irq && s.bit (rk .HI_LINK) 10 && s.msixOn then s.send (.vector 2046) else s
  else
    let s := s.setFld (rk .MGT_MB_COMPLETED) (mb - 64) 1 1
    if irq then s.mgtVector else s

/-- The start of a command: header and request are read once (R359). A reserved code ends at once with FIELD_RESERVED (R360),
every other waits for its own row. -/
def State.mbStart (s : State) (mb : Nat) : State :=
  let b := mbBase mb
  let s := { s with
    mbReq := Mem.puts (Mem.erase s.mbReq b 4096) (Mem.moved s.mbox b 4096 b)
    mbMark := Tab.put s.mbMark mb (s.weirSeq, (s.reg (rk .NB_LOG_DIE)).toNat, (s.reg (rk .NB_LOG_FLASH)).toNat) }
  if mbCodes.contains (s.mbField mb 0 2) then s else s.mbFinish mb 0x2 0 []

/-- A command ended with its answer. That of a command which an FLR has overtaken is discarded, and the one that has been put
into its mailbox since then starts (R433). -/
def State.mbAnswer (s : State) (mb status detail : Nat) (resp : List Byte) : State :=
  if s.mbGone.contains mb then
    let s : State := { s with
      mbReq := Mem.erase s.mbReq (mbBase mb) 4096, mbGone := s.mbGone.filter (· ≠ mb), mbRun := Tab.del s.mbRun mb
      mbMark := Tab.del s.mbMark mb }
    if s.mbGo mb then s.mbStart mb else s
  else s.mbFinish mb status detail resp

/-- Nimbus commands in progress end with NOT_READY as stage 1 restarts; those that an FLR has left without an answer end without
one (R433, R506). -/
def State.endNimbus (s : State) : State :=
  let s := { s with mbRun := s.mbRun.filter fun e => decide (e.1 < 1000) }
  (((List.range 16).map (56 + ·)).filter s.inProgress).foldl (fun s mb => s.mbAnswer mb 0x11 0 []) s

/-- A device reset (R431): Nimbus saves the record before those it applies itself (R475). -/
def State.deviceReset (s : State) (cause : Nat) : State :=
  let s := if 3 ≤ cause ∧ cause ≤ 5 then s.lifeSave else s
  let s := (s.setFld (rk .SC_STATUS) 1 1 (flagNat s.debugOn)).setFld (rk .CK_RESET_CAUSE) 0 3 cause
  let s := s.bump (rk .CK_DEVICE_RESETS)
  let s := if cause = 4 then s.setFld (rk .CK_STATUS) 0 1 0 else s
  let s := { s.setFld (rk .CK_STATUS) 1 1 (flagNat (s.bit (rk .CK_STATUS) 0)) with life := { s.life with deviceResets := satAdd 32 s.life.deviceResets 1 } }
  let s := (s.dieReset (if cause = 3 then [] else s.up.filter fun i => i = 0 || i = 9)).showShares
  let s := if cause = 3 then (s.endNimbus.setFld (rk .NB_STATUS) 2 1 0).setFld (rk .NB_STATUS) 1 1 0 else s.bootTrial.recover.quietReady
  let s := s.flushed 1 devHandle
  if cause = 1 ∨ cause = 3 then s else s.resetDone 1

/-- HOT_RESET (R431): cause 2. -/
def execHotReset (s : State) : Res := if s.powerGood then .next (s.deviceReset 2) else .next s

/-- A CK_RESET write's kind, where its confirm byte is right (R442). -/
def resetKind (v : BitVec 32) : Nat := if bitsOf v.toNat 8 8 = 0xA5 then bitsOf v.toNat 0 2 else 0

/-- DEVICE_RESET (R431): cause 6. -/
def execDeviceReset (value : BitVec 32) (s : State) : Res :=
  if s.powerGood ∧ resetKind value = 2 then .next (s.deviceReset 6) else .next s

/-- A fault recorded as Fatal: the log written to flash, the count and SMBus bit 5 (R462, R469, R491). -/
def State.fatal (s : State) : State :=
  ({ s with life := { s.life with fatal := satAdd 32 s.life.fatal 1 } }.setFld (rk .NB_STATUS) 3 1 1).flashAll

/-- ROOT_LOCK_LOSS (R423). -/
def execRootLockLoss (s : State) : Res :=
  if s.powerGood ∧ s.bit (rk .CK_STATUS) 0 then
    .next ((s.raise 0x303 devHandle (payload [(24, 1, 0)])).fatal.deviceReset 4)
  else .next s

/-- FATAL_FAULT (R462). -/
def execFatalFault (unitClass cause : Nat) (s : State) : Res :=
  if s.powerGood then
    .next ((s.raise 0x406 devHandle (payload [(24, 1, unitClass), (28, 4, cause)])).fatal.deviceReset 5)
  else .next s

/-! ### Power-on -/

/-- The copy with the greatest save count whose digest verifies; a new record where there is none (R475). -/
def State.newestCopy (s : State) : Life :=
  ((s.copies.filter fun c => c.2.verifies).foldl (fun (m : Option Life) c => match m with
    | some l => if l.saves < c.2.life.saves then some c.2.life else some l
    | none => some c.2.life) none).getD Life.zero

/-- A power-on reset (R431): kept are the flash with its log, record and images, the fuses, the spare rows of the stacks and
what lies outside the module. -/
def State.powerOn (s : State) (slotId : Nat) : State :=
  let sc := (s.reg (rk .SC_STATUS)).toNat
  let keep := bitOf sc 2
  let s := { s with
    tk := 0
    life := s.newestCopy
    cold := true
    dieLog := []
    flashPend := []
    sensors := []
    holders := []
    mbox := []
    mbReq := []
    mbGone := []
    mbMark := []
    mbRun := []
    uCut := 256
    pwrAlert := false
    tripped := false
    switchOpen := false
    powerGood := true
    snapshotBegun := false
    overSample := false
    tripNow := false
    tripStays := false
    lastVolt := none
    d3 := false
    trialRun := false
    regs := s.regs.filter fun e => e.1.name = RegName.DM_STATUS || e.1.name = RegName.NB_LOG_FLASH }
  let s := s.setReg (rk .SC_STATUS) (BitVec.ofNat 64 (4 * flagNat keep + 8 * flagNat (bitOf sc 3) + 2 ^ 6 * bitsOf sc 6 7))
  let s := { s.dieReset [] with bar4 := false }
  let s := (s.setFld (rk .PW_STATUS) 5 3 slotId).setReg (rk .NB_POWERED) (BitVec.ofNat 64 (2 ^ 32 * s.life.poweredS))
  s.showSc

/-- INPUT_POWER_GOOD (R495, R503): a trip that fell due with a brownout snapshot in one sample stands after the input returns; any
other has ended as the input was removed. -/
def execInputPowerGood (slotId : Nat) (s : State) : Res :=
  if s.powerGood then .next s
  else if s.tripped && s.tripStays then
    .next { (s.setFld (rk .PW_STATUS) 0 2 0) with pwrAlert := false, uCut := 256, tripStays := false }
  else .next (s.powerOn slotId)

/-! ### The last steps of the brownout ladder (R499, R503) -/

/-- A brownout's trigger stands: the warn or release step, or an open input switch (R499, R500). -/
def State.brownout (s : State) : Bool := s.fld (rk .PW_STATUS) 0 2 ≠ 0 || s.switchOpen

/-- The consistent snapshot: dispatch, issue and records stop, and Nimbus saves the record and its pending entries. A trip that the
last sample has raised fell due with the brownout, and stands after it (R503). -/
def State.snapshotNow (s : State) : State :=
  let s := { s with snapshotBegun := true, dispatchHeld := true, holdPost := true, tripStays := s.tripNow && s.brownout }
  ((s.raise 0x602 devHandle (payload [(24, 8, s.now)])).lifeSave).flashAll

/-- The orderly stop once the saves are done, those of entries since the snapshot among them (R504): the host link goes down and the
rails switch off; after a trip Nimbus, the management link and SMBus run on. -/
def State.stopRails (s : State) : State :=
  let s := s.flashAll
  let s := if s.bit (rk .HI_LINK) 10 then s.linkDown else s
  let s := { (s.setFld (rk .CK_STATUS) 0 2 0) with powerGood := false, snapshotBegun := false }
  s.dieReset (if s.tripped then s.up.filter fun i => i = 0 || i = 9 else [])

/-- What is left of the ladder run to its end: no step of it is skipped (R499). -/
def State.endLadder (s : State) : State :=
  if !s.powerGood then s else (if s.snapshotBegun then s else s.snapshotNow).stopRails

/-- ROOT_PLL_LOCK (R420, R435); the timing PLL is taken to lock to the oscillator with it (R394, log 36). -/
def execRootPllLock (s : State) : Res :=
  if s.powerGood then .next ((s.setFld (rk .CK_STATUS) 0 2 3).settle) else .next s

/-- The boot that a power-on reset begins, counted and saved once (R475). -/
def State.countBoot (s : State) : State :=
  if s.cold then { s with cold := false, life := { s.life with powerCycles := satAdd 32 s.life.powerCycles 1 } }.lifeSave else s

/-- NIMBUS_READY (R435, R475, R480, R481): after a power-on, or after a device reset with cause 3; into recovery where no slot is
bootable. -/
def execNimbusReady (s : State) : Res :=
  if !s.powerGood || s.own 0 then .next s
  else
    let cold := s.fld (rk .CK_RESET_CAUSE) 0 3 = 0
    let r := s.countBoot.bootChoice
    let s := r.1
    if !r.2 then .next (s.setFld (rk .NB_STATUS) 1 1 1)
    else
      let s := s.setFld (rk .NB_STATUS) 1 1 0
      .next (((s.setOwn 0 true).setOwn 9 true).settle.resetDone (if cold then 0 else 1))

/-- HST_PERST_L_ASSERT (R431, R503): a trip ends where every logic point reads below 85.0 °C, its snapshot and stop having run. -/
def execHstPerstLAssert (s : State) : Res :=
  let s := { s with perst := true }
  if s.tripped ∧ s.hottest 0 70 < 680 then
    let s := s.endLadder
    .next ({ s.powerOn (s.fld (rk .PW_STATUS) 5 3) with perst := true })
  else if s.powerGood then .next (s.deviceReset 1)
  else .next s

/-- HST_PERST_L_RELEASE (R435). -/
def execHstPerstLRelease (s : State) : Res :=
  if !s.perst then .next s
  else
    let s := { s with perst := false }
    .next (if s.powerGood ∧ s.fld (rk .CK_RESET_CAUSE) 0 3 = 1 then s.resetDone 1 else s)

/-- MGT_PERST_L_ASSERT (R382, R493): the management link resets with its configuration space, and is ready again as Nimbus is
(log 11). -/
def execMgtPerstLAssert (s : State) : Res :=
  let s : State := { s with regs := s.regs.filter fun e => (regRow e.1.name).blk ≠ .mcf }
  if s.own 9 then .next ((s.setOwn 9 false).settle.setOwn 9 true).settle else .next s

/-! ### Bring-up -/

/-- May bring-up go on: Nimbus is ready, the fixed clocks run and no reset is held (R435)? -/
def State.bringing (s : State) : Bool := s.nimbus && s.bit (rk .CK_STATUS) 0 && !s.perst && s.powerGood && !s.snapshotBegun

/-- A stack's training has failed. -/
def State.stackFailed (s : State) (st : Nat) : Bool := s.own (600 + st) || s.bit (rk .DM_STATUS st) 20

/-- The clock noted where a step of bring-up from `old` has set a READY_MAP bit (R442). -/
def State.readyNow (s old : State) : State :=
  if (readyWords.any fun x => (s.reg (rk x.1)).toNat &&& (2 ^ 64 - 1 - (old.reg (rk x.1)).toNat) ≠ 0) then
    { s with readyAt := s.tk } else s

/-- CK_BRINGUP_STATUS.last_ready_ms once every BIST has ended and every stack has trained or failed: the time of the last bit that
was set, `old` the state before the step that may have set one (R442). -/
def State.noteReady (s old : State) : State :=
  let k := rk .CK_BRINGUP_STATUS
  let s := s.readyNow old
  if s.fld k 17 15 = 32767 ∧ s.fld k 0 6 = 35 ∧ s.zenith ∧ (List.range 16).all (fun i => s.own (64 + i) || s.stackFailed i) then
    s.setFld k 17 15 (min ((s.readyAt - s.upSince) / 33000000) 32766)
  else s

/-- ZENITH_READY (R435, R483, R484): a trial is confirmed, and its fuses begin to be blown (log 45). -/
def execZenithReady (s : State) : Res :=
  if !s.bringing || s.own 1 then .next s
  else
    let s := ((s.setOwn 1 true).settle.showSpace).noteReady s
    if !s.trialRun then .next s
    else
      let b := !s.activeB
      let lv := s.slotLevel b
      let old := s.fused
      let k := rk .SC_STATUS
      let s := ({ s with trialRun := false, staged := none, life := { s.life with fwConfirmed := satAdd 32 s.life.fwConfirmed 1 } }.setFld
        k 2 1 (flagNat b)).setFld k 3 1 0
      let s := (s.raise 0x501 devHandle (payload [(24, 1, flagNat b), (25, 1, lv), (26, 1, old)])).lifeSave
      .next { s.showSc with fuse := if old < min lv 64 then some (b, old) else none }

/-- One fuse blown for a confirmed slot whose image level is still ahead, as long as Zenith runs from that slot; the last of them
raises EV_FUSE_ADVANCED (R484, log 45). -/
def State.blowFuse (s : State) : State :=
  match s.fuse with
  | none => s
  | some (b, old) =>
    let lv := min (s.slotLevel b) 64
    if !s.zenith || s.trialRun || s.activeB ≠ b then s
    else if lv ≤ s.fused then { s with fuse := none }
    else
      let t := (s.setFld (rk .SC_STATUS) 6 7 (s.fused + 1)).showSc
      if s.fused + 1 < lv then t else { t with fuse := none }.raise 0x503 devHandle (payload [(24, 1, old), (25, 1, lv)])

/-- FW_TRIAL_TIMEOUT (R481, R483): the previous active slot boots, or the boot ROM enters recovery. -/
def execFwTrialTimeout (s : State) : Res :=
  if s.trialRun && s.nimbus && !s.own 1 then .next (s.rollback 1).recover.settle else .next s

/-- STACK_TRAINED (R435). -/
def execStackTrained (stack : Nat) (s : State) : Res :=
  if s.bringing && !s.own (64 + stack) && !s.stackFailed stack then
    .next (((s.setOwn (64 + stack) true).settle.showSpace).noteReady s)
  else .next s

/-- STACK_TRAINING_TIMEOUT (R437). -/
def execStackTrainingTimeout (stack element : Nat) (s : State) : Res :=
  if s.bringing && !s.own (64 + stack) && !s.stackFailed stack then
    let k := rk .CK_BRINGUP_STATUS
    let s := (s.setOwn (600 + stack) true).setFld k 12 5 (s.fld k 12 5 + 1)
    .next ((s.raise 0x302 devHandle (payload [(24, 1, 1), (25, 1, stack), (28, 4, element)])).noteReady s)
  else .next s

/-- Does a reserve terrace still have its BIST before it? -/
def State.reserveUnderBist (s : State) : Bool := decide (s.bistNext < 35)

/-- A logical terrace begins to wait for a reserve (R456). -/
def State.beginWait (s : State) (t : Nat) : State :=
  let s := { s with failing := Tab.put s.failing t 0 }
  if s.readyReserve.isNone && !s.reserveUnderBist then
    s.raise 0x403 (hereHandle (0x100 + t)) (payload [(24, 1, 3)])
  else s

/-- One terrace's BIST ended: it and its basins report ready, or it failed with an element (R437, R456). -/
def State.bistOne (s : State) (t : Nat) (failed : List (Nat × Nat)) : State :=
  let k := rk .CK_BRINGUP_STATUS
  let s := { s.setFld k 0 6 (t + 1) with bistNext := t + 1 }
  match failed.find? fun f => f.1 = t with
  | some f =>
    let s := (s.setFld k 6 6 (s.fld k 6 6 + 1)).raise 0x302 (hereHandle (0x100 + t)) (payload [(24, 1, 0), (28, 4, f.2)])
    if t < 32 ∧ (Tab.find? s.failing t).isNone then (s.mapAdd 4 (s.physT t) 0).beginWait t else s
  | none => if s.terraceOut t then s else s.setTerrace t true

/-- BIST_WAVE_END (R436): the wave of 1, 2 or 4 terraces taken at the start of bring-up. -/
def execBistWaveEnd (failed : List (Nat × Nat)) (s : State) : Res :=
  if !s.bringing || !s.reserveUnderBist then .next s
  else
    let wave := (List.range s.bistWave).map (s.bistNext + ·) |>.filter (· < 35)
    .next ((wave.foldl (fun s t => s.bistOne t failed) s).settle.noteReady s)

/-! ### Compute reset -/

/-- The internal region of every basin holds nothing any more (R244, R432). -/
def State.clearInternal (s : State) : State :=
  { s with dev := s.dev.filter fun c =>
      !(decide (poolBase 0 ≤ c.1) && decide (c.1 < poolBase 140) && decide (0x6C0000 ≤ c.1 % 0x800000) &&
        decide (c.1 % 0x800000 < 0x700000)) }

/-- The registers of a physical basin's slots, and of its jets and engines, as a compute reset leaves them (R432). -/
def State.computeBasin (s : State) (u : Nat) : State :=
  let s := (List.range 48).foldl (fun s n => if s.fld (rk .BS_SLOT u n) 32 2 = 0 then s else s.setFld (rk .BS_SLOT u n) 32 2 0) s
  (List.range 16).foldl (fun s i => s.show (rk .BS_SLOT u (48 + i)) (2 ^ 34)) s

/-- A jet idle, with nothing in its sets; one out of service stays so. -/
def State.computeJet (s : State) (u : Nat) : State :=
  let k := rk .JT_STATUS u
  if s.fld k 0 4 = 0 then s
  else if s.fld k 0 2 = 3 then (s.setFld k 2 2 0) else s.setFld k 0 4 0

/-- An engine idle, with nothing in its stores; one out of service stays so. -/
def State.computeEngine (s : State) (u : Nat) : State :=
  let k := rk .SE_STATUS u
  if s.fld k 0 3 = 0 then s
  else if 2 ≤ s.fld k 0 2 then s.setFld k 2 1 0 else s.setFld k 0 3 0

/-- COMPUTE_RESET's steps up to the release of reset (R432): dispatch stops, terraces and basins leave the ready state, every
descriptor taken that has not completed ends with CANCELLED, and groups, tokens, internal slots and Halo queues are
cleared. One that was carried to another member ends here as the others do (log 12). -/
def State.computeReset (s : State) : State :=
  let s := { s with resetting := true, dispatchHeld := true }
  let s := s.settle.bump (rk .CK_COMPUTE_RESETS)
  let s := s.flushed 3 devHandle
  let live := s.jobs.filter fun j => j.phase ≠ .done
  let s := live.foldl (fun s j => (s.giveBack j.claimed (j.jid + 1)).endJob { j with claimed := [], reads := [] } stCancelled 0) s
  let s := { s with
    rounds := [], acc := [], accErr := [], reruns := [], grp := [], jets := [], engines := [], stallDue := [], haloQ := []
    grids := s.grids.map fun e => (e.1, { e.2 with claim := none }) }
  let s := (List.range 35).foldl (fun s t => s.show (rk .HL_PENDING 0 t) 0) s
  let s := (List.range 140).foldl State.computeBasin s
  let s := (List.range 595).foldl State.computeJet s
  ((List.range 280).foldl State.computeEngine s).clearInternal

/-- COMPUTE_RESET (R432): a CK_RESET write of kind 1. -/
def execComputeReset (value : BitVec 32) (s : State) : Res :=
  if s.powerGood && s.bit (rk .CK_STATUS) 0 && resetKind value = 1 then .next s.computeReset else .next s

end Sys2Proof.Machine
end

