-- ==== Sys2Proof/Machine/Clock.lean ====
section
/-! DEFINITION. What the clock does on an idle step (log 2): radio time, its slew and ticks (R394, R396, R397), and each
basin's issue credit, frame beat and slot-wait count in every b-cycle (R261, R266, R497). -/

namespace Sys2Proof.Machine

/-! ### Frames, slots and symbols (R389, R397) -/

/-- Fields of TM_TICK_CFG: numerology (5 to 7 act as 4) and frame offset. -/
def tickMu (w : Word) : Nat := min (bitsOf w.toNat 0 3) 4
/-- The frame offset; larger values act as 9,999,999. -/
def tickOffset (w : Word) : Nat := min (bitsOf w.toNat 8 24) 9999999

/-- ns from the frame start to the start of a symbol (R389). -/
def symStart (mu subframe slot sym : Nat) : Nat :=
  1000000 * subframe + slot * (1000000 / 2 ^ mu) + sym * 1000000 / (14 * 2 ^ mu)

/-- ns into the frame at time `t`. -/
def intoFrame (off t : Nat) : Nat := (t + 10000000 - off) % 10000000

/-- The frame, subframe, slot and symbol at radio time `t`. -/
def slotAt (w : Word) (t : Nat) : Nat × Nat × Nat × Nat :=
  let mu := tickMu w
  let off := tickOffset w
  let n := (t + 10000000 - off) / 10000000 + 255
  let x := intoFrame off t
  let sf := x / 1000000
  let sl := min (x % 1000000 / (1000000 / 2 ^ mu)) (2 ^ mu - 1)
  let sy := ((List.range 14).filter fun i => symStart mu sf sl i ≤ x).length - 1
  (n % 256, sf, sl, sy)

/-- TM_SLOT in line with the counter. -/
def State.showSlot (s : State) : State :=
  let p := slotAt s.tickCfg s.now
  s.setReg (rk .TM_SLOT) (BitVec.ofNat 64 (p.2.2.2 + 2 ^ 4 * p.2.2.1 + 2 ^ 10 * p.2.1 + 2 ^ 14 * p.1))

/-- The number of the frame at time `t`, less one. -/
def frameOf (off t : Nat) : Nat := (t + 10000000 - off) / 10000000

/-- A frame start since the counter read `old` takes up a TM_TICK_CFG written before it. -/
def State.frameStart (s : State) (old : Nat) : State :=
  let off := tickOffset s.tickCfg
  if frameOf off old ≠ frameOf off s.now then { s with tickCfg := s.reg (rk .TM_TICK_CFG) } else s

/-- One ns of radio time: the counter is 0 until the first TIME_SET, and takes one ns of slew each 10 µs (R394, R396). -/
def State.radioNs (s : State) : State :=
  if s.bit (rk .TM_STATUS) 4 then
    let d : Int := if s.tk % 330000 = 0 then (if 0 < s.slew then 1 else if s.slew < 0 then -1 else 0) else 0
    let t := ((s.now : Int) + 1 + d).toNat
    (({ s with slew := s.slew - d }).setReg (rk .TM_NOW) (BitVec.ofNat 64 t)).frameStart s.now |>.showSlot
  else s

/-! ### Basins -/

/-- The effective share of a logical terrace (R498). -/
def State.share (s : State) (t : Nat) : Nat := s.fld (rk .PW_SHARE 0 t) 0 9

/-- Does a descriptor that waits on a slot token wait in a basin: the one whose unit runs it, or for a RESHARD, which the device runs,
the one whose slot it waits on (R261, R271)? -/
def Job.waitsIn (j : Job) (q : Nat) : Bool :=
  if j.unit = 1 then (match j.waitOn with | some c => c.1 = q | none => false) else basinOf j.unit = q

/-- One b-cycle of a basin: the share is added to its credit, and it is withheld (R497), or runs and may stall (R267); its frame
counter advances or holds (R266). A stall that falls due in a withheld b-cycle follows in the next that runs (log 33). -/
def State.basinCycle (s : State) (q : Nat) : State :=
  let u := s.physB q
  let c := Tab.getD s.credit q 0 + s.share (q / 4)
  let wait := s.jobs.any fun j => (j.phase = .waiting || j.phase = .drainWait) && j.waitsIn q
  let s := if wait then s.bump (rk .BS_SLOT_WAIT_CYCLES u) else s
  let due := Tab.getD s.stallDue q 0
  if c < 256 then
    ((({ s with credit := Tab.put s.credit q c }).setFld (rk .BS_FRAME u) 5 1 1).bump (rk .PW_WITHHELD_CYCLES)).markBasin q
      flGov
  else
    let s : State := { s with credit := Tab.put s.credit q (c - 256) }
    if due ≠ 0 then
      ({ s with stallDue := if due = 1 then Tab.del s.stallDue q else Tab.put s.stallDue q (due - 1) }.setFld
        (rk .BS_FRAME u) 5 1 1).bump (rk .BS_SLIP_COUNT u)
    else s.setReg (rk .BS_FRAME u) (BitVec.ofNat 64 ((s.fld (rk .BS_FRAME u) 0 5 + 1) % 32))

/-- d-cycles withheld from throttled stacks: every second one (R319). -/
def State.throttleCycle (s : State) : State :=
  (List.range 16).foldl (fun s st => if s.bit (rk .DM_STATUS st) 2 then s.bump (rk .DM_THROTTLE_CYCLES st) else s) s

/-- One tick of 1/33 ns: radio time and one fuse each ns (R484, log 45), and every basin each b-cycle while the fixed clocks run. -/
def State.clockTick (s : State) : State :=
  let s := { s with tk := s.tk + 1 }
  let s := if s.tk % 33 = 0 then s.radioNs.blowFuse else s
  let s := if s.tk % 60 = 0 ∧ s.bit (rk .CK_STATUS) 0 then s.throttleCycle else s
  if s.tk % 20 = 0 ∧ s.bit (rk .CK_STATUS) 0 then (List.range 140).foldl State.basinCycle s else s

end Sys2Proof.Machine
end

