-- ==== Sys2Proof/Machine/JetEvents.lean ====
section
/-! DEFINITION. Weight tiles and spans on the jets and the engines: load, swap and radio preemption, the drain of a closing group,
and the registers they change (R62 to R75, R79 to R81, R104, R105, R265 to R269, R295, R296, R303 to R308). -/

namespace Sys2Proof.Machine

/-! ### Load -/

/-- What a weight tile is read from: the operand, its lane width, its format with the bits field, passes and product form. -/
structure TileSrc where
  op : Operand
  w : Nat
  fmt : Fmt
  bits : Nat
  passes : Nat
  form : Nat
  deriving DecidableEq, Repr

/-- The source of a weight tile of a descriptor. -/
def Job.tileSrc (j : Job) (l : TileLoad) : TileSrc :=
  let d := j.d
  let serial (o : Operand) : TileSrc :=
    ⟨o, o.fmt.convW .serial d.serialBits d.broadPasses, d.serial, d.serialBits, d.broadPasses, formOf d.serial d.broad⟩
  match l.kind with
  | .weights => serial j.serialOp
  | .keys _ => serial j.kOp
  | .values =>
    let b := j.pair
    ⟨j.vOp, b.v.convW .serial b.vBits b.passes, b.v, b.vBits, b.passes, formOf b.v (d.pFmt b)⟩
  | .other f b src len p form =>
    let g := (Fmt.ofCode .serial f b).getD (.int 8)
    ⟨Operand.of g src 0 0 0 len, g.convW .serial b p, g, b, p, form⟩

/-- Row time of a weight tile (R64); with plane skipping off it is passes × s (R80). -/
def TileSrc.rowTime (x : TileSrc) (skipOff : Bool) (live : List Nat) : Nat :=
  if x.form = 2 then 2 else if x.form = 3 then 1
  else if skipOff then x.passes * x.fmt.planes x.bits
  else x.passes * max 1 (live.foldl max 0)

/-- A weight tile as it stands complete in the shadow set of jet `x` (R62, R64, R69, R80). A DOT's takes 64 · b a-cycles for
each K-tile of a row (R240). -/
def State.loadedTile (s : State) (j : Job) (x : Nat) (l : TileLoad) : LoadedTile :=
  let src := j.tileSrc l
  let cs := (List.range l.cols).map fun c => s.cellsOf j.who src.op src.w (l.col0 + c) l.ks
  let cols := cs.map Prod.fst
  let off := s.bit (rk .JT_CTRL (s.physJ x)) 0
  let z := if l.kind = .weights then s.s24State j l else 0
  let live := if src.fmt.isStream then List.replicate 8 src.bits else liveOf src.form src.fmt src.bits off (z = 1) cols
  let t := src.rowTime off live
  { load := l, live := live, tRow := t, form := src.form, s24 := z, twoPass := src.passes = 2, cols := cols
    flushed := if l.row0 = 0 then (cs.map Prod.snd).sum else 0
    tB := if l.d.isDot then 64 * src.bits * ceilDiv j.bk (128 * j.d.pack) else t
    chunk := 64, done := (l.ran.map Prod.fst).getD 0 }

/-- A completed tile load counted, with the planes it skips (R79). -/
def State.countLoad (s : State) (j : Job) (x : Nat) (t : LoadedTile) : State :=
  let src := j.tileSrc t.load
  let skipped := if t.form = 2 ∨ t.form = 3 then 0 else (t.live.map fun n => src.fmt.planes src.bits - n).sum
  (s.bump (rk .JT_TILES_LOADED (s.physJ x))).bump (rk .JT_PLANES_SKIPPED (s.physJ x)) skipped

/-- A tile that the 2:4 front end runs counted (R79). -/
def State.countS24 (s : State) (x : Nat) (t : LoadedTile) : State := if t.s24 ≠ 0 then s.bump (rk .JT_S24_TILES (s.physJ x)) else s

/-- Bit errors that arise in narrow words of a basin's pools: each word's address, and whether more than one of its bits is in error
(R265, R269). -/
def State.upset (s : State) (q : Nat) (errs : List (Nat × Bool)) : State :=
  errs.foldl (fun (s : State) e => { s with poolErr := Tab.put s.poolErr ((poolBase q + e.1) / 32) (if e.2 then 3 else 1) }) s

/-- A jet's basin. -/
def jetBasin (x : Nat) : Nat := if x < 560 then x / 4 else 4 * (x - 560)

/-- Does a weight tile come before another of its descriptor in issue order (R298)? -/
def TileLoad.before (a b : TileLoad) : Bool := a.jid = b.jid && (decide (a.ot < b.ot) || a.ot = b.ot && decide (a.kt < b.kt))

/-- Is it a weight tile's turn to load on jet `x`? A lock-step K-tile that has not been issued waits while radio-class lock-step work stands
on its basin (R303), and until no other jet has an earlier one still to load: the jets issue K-tiles in one order (R295). -/
def State.loadTurn (s : State) (x : Nat) (l : TileLoad) : Bool :=
  !l.lock || s.keeps x l || (lockJets x).all fun y =>
    let js := s.setsOf y
    !s.radioLock js && (y = x || !(js.loads ++ js.paused ++ js.spans.flatten).any fun t =>
      t.lock && !s.isRadio t.jid && (decide (t.seq < l.seq) || t.seq = l.seq && t.before l))

/-- The next weight tile of jet `x` loads into the shadow set; an uncorrectable word ends its descriptor (R69, R269). -/
def State.loadOn (s : State) (x : Nat) (l : TileLoad) (rest : List TileLoad) : State :=
  s.whenJob l.jid (fun _ => true) fun j =>
    match s.readSpans j.who (s.opSpansOn j.who (j.tileSrc l).op l.col0 l.cols l.ks) (x % 4) with
    | (s, some e) => s.failJob j e.1 e.2
    | (s, none) =>
      let t := s.loadedTile j x l
      (s.countLoad j x t).putSets x { s.setsOf x with shadow := some t, loads := rest }

/-- The next span of engine `e` loads into its shadow store (R169). -/
def State.loadOnEngine (s : State) (e : Nat) (sp : EngSpan) : State :=
  match sp.tiles with
  | [] => s
  | l :: _ =>
    s.whenJob l.jid (fun _ => true) fun j =>
      match s.readSpans j.who (s.opSpansOn j.who j.serialOp l.col0 l.cols (ksOf sp.tiles)) (4 + e % 2) with
      | (s, some x) => s.failJob j x.1 x.2
      | (s, none) =>
        (s.putStores e { s.storesOf e with shadow := some (s.loadSpan j sp) }).feed sp.jet 64

/-- WEIGHT_TILE_LOADED (R69, R169): what is due on the unit is taken up (log 33), and the beats of the next weight tile of a jet, or of the next span of an engine, are complete. `unit` is
a jet, or 595 and up the engines; `errs` are the bit errors that arose in words of its basin's pools, `stalls` its basin stalls
(R267). -/
def execWeightTileLoaded (unit : Nat) (errs : List (Nat × Bool)) (stalls : Nat) (s : State) : Res :=
  if unit < 595 then
    let t := s.feed unit 64
    match (t.setsOf unit).shadow, (t.setsOf unit).loads with
    | none, l :: rest =>
      if t.loadTurn unit l then .next (((t.upset (jetBasin unit) errs).stall (jetBasin unit) stalls).loadOn unit l rest) else .next t
    | _, _ => .next t
  else
    let e := unit - 595
    let t := (s.feed (2 * e) 64).feed (2 * e + 1) 64
    match (t.storesOf e).shadow with
    | some sp => if sp.loaded then .next t else .next (((t.upset (e / 2) errs).stall (e / 2) stalls).loadOnEngine e sp)
    | none => .next t

/-! ### Swap -/

/-- JT_LIVE_PLANES of a tile (R79). An L_g of 32, of an S24 tile of 16 planes with plane skipping off, shows as 0 in its five bits
(log 33). -/
def LoadedTile.word (t : LoadedTile) : Nat :=
  ((List.range 8).map fun g => t.live.getD g 0 % 32 * 2 ^ (5 * g)).sum + t.tRow % 64 * 2 ^ 40 + t.form * 2 ^ 46 +
    t.s24 * 2 ^ 48 + flagNat t.twoPass * 2 ^ 50

/-- Is the output tile of a weight tile open: the one before it on its jets has drained (R99, R298)? -/
def State.tileOpen (s : State) (l : TileLoad) : Bool :=
  match s.job? l.jid with
  | none => false
  | some j => j.d.opcode ≠ opMatmul || decide (l.ot ≤ j.tileOn l.ot)

/-- May jet `x` swap its shadow tile in: no earlier span of the descriptor is still to run for it (R85, R162)? -/
def State.jetTurn (s : State) (x : Nat) (l : TileLoad) : Bool :=
  s.tileOpen l && !s.halted x && match engineOf x with
    | none => true
    | some e =>
      let es := s.storesOf e
      let early (a : EngSpan) : Bool := a.jet = x && a.tiles.any fun t => t.before l
      !es.shadow.any early && !es.waiting.any early

/-- May an engine's shadow span swap in: it is loaded, and no earlier tile of the descriptor is still to swap in on its jet? -/
def State.engineTurn (s : State) (sp : EngSpan) : Bool :=
  sp.loaded && match sp.tiles with
    | [] => true
    | l :: _ =>
      let js := s.setsOf sp.jet
      s.tileOpen l && !s.halted sp.jet && !(js.loads ++ js.paused).any (fun t => t.before l) && !js.shadow.any fun t => t.load.before l

/-- Has a descriptor still a weight tile of output tile `q` to take up on jet `y`? -/
def State.toQueue (s : State) (jid y q : Nat) : Bool :=
  match s.job? jid with
  | none => false
  | some j => j.d.opcode = opMatmul && j.jets.contains y && decide (Tab.getD j.queued y 0 ≤ q)

/-- Is a lock-step swap due on jet `y`: its shadow set holds the K-tile, or none of it is still to load there (R295)? -/
def State.lockReady (s : State) (l : TileLoad) (y : Nat) : Bool :=
  let js := s.setsOf y
  match js.shadow.filter fun t => t.load.same l with
  | some t => s.jetTurn y t.load
  | none => !s.halted y && !s.toQueue l.jid y l.ot && !(js.loads ++ js.paused).any (·.same l) && !js.spans.any fun sp => sp.any (·.same l)

/-- The rows of a weight tile or the sums of a fused pair's formed, once (R85, R125, R230). -/
def State.formSums (s : State) (j : Job) (x : Nat) (t : LoadedTile) : State × Option Err :=
  let l := t.load
  match l.kind with
  | .weights => (s.modJob j.jid fun j => j.tally x t.flushed 0).addTile j x l t.cols
  | .keys h => s.runKeys { j with fused := Tab.put j.fused x { j.fusedOn x with flushed := (j.fusedOn x).flushed + t.flushed } } x h l t.cols
  | .values => s.runValues { j with fused := Tab.put j.fused x { j.fusedOn x with flushed := (j.fusedOn x).flushed + t.flushed } } x l t.cols
  | .other _ _ _ _ _ _ =>
    if j.d.isDot then
      let r := s.dotTile j l.ot x
      (r.1.putJob r.2.1, r.2.2)
    else (s, none)

/-- One jet of a swap: the tile that ran retires, the shadow tile becomes active, `tB` a-cycles a row, and its sums are formed; a
reloaded tile's are there already (R70, R72, R295, R308). -/
def State.swapIn (s : State) (x : Nat) (t : LoadedTile) (tB wait : Nat) : State :=
  let u := s.physJ x
  let s := if (s.setsOf x).active.isSome then s.bump (rk .JT_LOAD_WAIT_CYCLES u) wait else s
  let s := s.retire x
  let chunk := match t.load.ran with
    | some r => r.2
    | none => 2 ^ (6 - s.fld (rk .TR_ISSUE_CFG (s.physT (jetBasin x / 4))) 0 2)
  let s := if t.load.ran.isNone then s.countS24 x t else s
  let s := s.setReg (rk .JT_LIVE_PLANES u) (BitVec.ofNat 64 t.word)
  let tB := if t.load.d.isDot then t.tB else max tB t.tRow
  let s := (s.putSets x { s.setsOf x with active := some { t with tB := tB, chunk := chunk }, shadow := none }).quiet x
  if t.load.ran.isSome then s
  else
    s.whenJob t.load.jid (fun _ => true) fun j =>
      match s.formSums j x t with
      | (s, none) => s
      | (s, some e) => s.whenJob j.jid (fun _ => true) fun j => s.failJob j e.1 e.2

/-- A jet of a lock-step swap that has no tile of the K-tile: one whose columns or K range lie beyond N or K gates through every row it
is fed; one whose span runs on the engine feeds none (R167, R295, R296, R299). -/
def State.idleRows (s : State) (y tB : Nat) (l : TileLoad) : State :=
  let s := s.retire y
  let s := match (s.setsOf y).active with
    | some _ => s.putSets y { s.setsOf y with active := none }
    | none => s
  let u := s.physJ y
  let gate (n : Nat) : State := (s.bump (rk .JT_ROW_CYCLES u) (n * tB)).bump (rk .JT_GROUP_GATED_CYCLES u) (8 * n * tB)
  if l.ran.isSome then s
  else
    match s.job? l.jid with
    | none => s
    | some j =>
      if j.d.opcode ≠ opMatmul then gate l.rows
      else
        let q := j.tileAt l.ot
        match (j.parts l.ot q.2.2.1 q.2.2.2).find? fun p => p.jet = y with
        | none => s
        | some p => if (j.weightTiles p).any fun k => k.1 = l.kt then s else gate p.rows

/-- A DOT is done once its last tile has swapped in; its rows run out (log 31). -/
def State.afterDot (s : State) (jid : Nat) : State :=
  s.whenJob jid (fun j => j.phase = .draining && j.d.isDot && !s.jets.any fun e => e.2.holds jid) fun j =>
    (j.jets.foldl (fun s x =>
      match (s.setsOf x).active with
      | some t => if t.load.jid = jid then s.retire x else s
      | none => s) s).succeed j

/-- The jets `xs` swap together into the K-tile of `l`; each takes up what is due on it next. -/
def State.swapJets (s : State) (xs : List Nat) (l : TileLoad) (waits : List Nat) : State :=
  let tile (y : Nat) : Option LoadedTile := (s.setsOf y).shadow.filter fun t => t.load.same l
  let ts := xs.map fun y => (y, tile y)
  let tB := (ts.map fun y => match y.2 with | some t => t.tRow | none => 1).foldl max 1
  let s := ((List.range ts.length).zip ts).foldl (fun s y =>
    match y.2.2 with
    | some t => s.swapIn y.2.1 t tB (waits.getD y.1 0)
    | none => s.idleRows y.2.1 tB l) s
  ((xs.foldl (fun s y => s.feed y 64) s).afterSwap l.jid).afterDot l.jid

/-- SWAP (R70, R169): a complete shadow set moves into the active set; the jets of a lock-step tile swap together, once every one that has
a tile of the K-tile holds it (R295). `unit` is a jet, or 595 and up the engines. -/
def execSwap (unit : Nat) (w : SwapWait) (s : State) : Res :=
  if unit < 595 then
    match (s.setsOf unit).shadow with
    | none => .next s
    | some t =>
      let xs := if t.load.lock then lockJets unit else [unit]
      if s.jetTurn unit t.load && xs.all (s.lockReady t.load) then
        .next (((s.stall (jetBasin unit) w.stalls).upsetAcc w.upsets).swapJets xs t.load w.jets)
      else .next s
  else
    let e := unit - 595
    match (s.storesOf e).shadow with
    | none => .next s
    | some sp =>
      if s.engineTurn sp then
        let s := ((s.stall (e / 2) w.stalls).upsetAcc w.upsets).endSpan e
        let s := s.putStores e { s.storesOf e with active := some sp, shadow := none }
        .next (match sp.tiles with
          | [] => s
          | l :: _ => s.whenJob l.jid (fun _ => true) fun j =>
            match s.addSpan j e sp with
            | (s, some x) => s.whenJob j.jid (fun _ => true) fun j => s.failJob j x.1 x.2
            | (s, none) => (s.feed sp.jet 64).afterSwap j.jid)
      else .next s

/-! ### Drain -/

/-- Is the drain of an output tile of a descriptor due: every weight tile of it has run, and no jet of the descriptor is halted (R117)? -/
def State.drainDue (s : State) (j : Job) : Bool :=
  j.phase = .draining && j.d.readsAcc && j.d.accEnd && (s.dueTile j).isSome && !j.jets.any s.halted

/-- GROUP_DRAIN (R104, R105, R131, R139, R193, R197): due once every weight tile of the output tile has run; not while a jet of the
descriptor is halted (R117). -/
def execGroupDrain (r : DrainRun) (s : State) : Res :=
  let t := (s.job? r.jid).elim s fun j => if j.d.opcode = opMatmul && j.phase = .draining then s.feedAll j else s
  .next (t.whenJob r.jid t.drainDue fun j =>
    let s := (t.stall (basinOf j.unit) r.stalls).upsetAcc r.upsets
    if j.d.opcode = opMatmul then s.tryDrain j
    else if j.d.opcode = opCheck then s.nodeStep j
    else if j.d.opcode = opFused then s.fusedStep j
    else if j.d.opcode = opForecast then s.forecastStep j
    else s.hazeStep j)

/-! ### Preemption -/

/-- The chunk boundary of an active tile at or after `n` rows, or for EMU_BASAD `n` a-cycles of lane work: the rows done by then, and
a-cycles of lane work on rows that start again (R232, R304). -/
def LoadedTile.boundary (t : LoadedTile) (n : Nat) : Nat × Nat :=
  if t.load.d.isDot then
    let c := 32 * t.chunk
    let a := max 1 (ceilDiv n c) * c
    let per := max 1 t.tB
    if t.load.rows * per ≤ a then (t.load.rows, 0) else (max t.done (a / per), a % per)
  else (max t.done (min t.load.rows (ceilDiv n t.chunk * t.chunk)), 0)

/-- The non-radio descriptor whose tile occupies a jet's active set: some of its rows have not run. -/
def State.bulkOn (s : State) (x : Nat) : Option Nat :=
  match (s.setsOf x).active with
  | some t => if s.isRadio t.load.jid || decide (t.load.rows ≤ t.done) then none else some t.load.jid
  | none => none

/-- One jet of a preemption: its interrupted tile, a bulk tile of its shadow set and the bulk tiles still to load are set aside, to be
loaded in that order after the radio work (R72, R305, R308). -/
def State.preemptJet (s : State) (x n : Nat) : State :=
  let js := s.setsOf x
  let bulk (l : TileLoad) : Bool := !s.isRadio l.jid
  let cut : List TileLoad × State := match js.active with
    | some t =>
      if bulk t.load then
        let b := t.boundary n
        let s := s.runRows x t (b.1 - t.done)
        let u := s.physJ x
        let s := ((s.bump (rk .JT_ROW_CYCLES u) b.2).bump (rk .JT_GROUP_LIVE_CYCLES u) (8 * b.2))
        (if t.load.rows ≤ b.1 then [] else [{ t.load with ran := some (b.1, t.chunk) }], s)
      else ([], s)
    | none => ([], s)
  let shadow := js.shadow.filter fun t => bulk t.load
  cut.2.putSets x
    { active := js.active.filter fun t => !bulk t.load
      shadow := js.shadow.filter fun t => !bulk t.load
      loads := js.loads.filter fun l => !bulk l
      spans := js.spans
      paused := cut.1 ++ (shadow.map (·.load)).toList ++ js.loads.filter bulk ++ js.paused }

/-- The radio spans of a paused jet stand ahead of the bulk ones; JT_STATUS.preempted shows an interrupted tile (R308). -/
def State.radioFirst (s : State) (x : Nat) : State :=
  let s := if s.interrupted x then s.setFld (rk .JT_STATUS (s.physJ x)) 3 1 1 else s
  let js := s.setsOf x
  let mine (l : List TileLoad) : Bool := l.any fun t => s.isRadio t.jid
  s.putSets x { js with spans := js.spans.filter mine ++ js.spans.filter fun l => !mine l }

/-- PREEMPTION (R305, R308): a radio-class descriptor with a reserved group, issued and not yet run, takes the chunk boundary of the
non-radio work on its jets: the next one after where `i` finds each of them, in rows, for EMU_BASAD in a-cycles (R304). -/
def execPreemption (jid : Nat) (i : Interrupt) (s : State) : Res :=
  .next (s.whenJob jid
    (fun j => j.reserved && j.issued.isSome && j.phase = .draining && j.tile = 0 &&
      !j.jets.any fun x => (s.setsOf x).active.any fun t => t.load.jid = jid)
    fun j =>
      let q := basinOf j.unit
      let p := s.physT (q / 4)
      let lock := (lockJets (j.jets.headD 0)).any fun x => (s.setsOf x).active.any fun t => t.load.lock && (s.bulkOn x).isSome
      let xs := if lock then lockJets (j.jets.headD 0) else j.jets
      let cut := xs.filterMap s.bulkOn
      let s := s.setFld (rk .TR_PREEMPT_LAT p (q % 4)) 0 16 (min (max (s.fld (rk .TR_PREEMPT_LAT p (q % 4)) 0 16) i.latency) 65535)
      let s := if cut.isEmpty then s else s.bump (rk .TR_PREEMPTIONS p (q % 4))
      let s := ((List.range xs.length).zip xs).foldl (fun s x => s.preemptJet x.2 (if lock then i.done.headD 0 else i.done.getD x.1 0)) s
      let s := xs.foldl (fun s x => (s.radioFirst x).feed x 64) s
      { s with jobs := s.jobs.map fun x => x.mark flPreempted (cut.contains x.jid) })

end Sys2Proof.Machine
end

