-- ==== Sys2Proof/Machine/Sparing.lean ====
section
/-! DEFINITION. Unit faults: replays from the journals, columns, jets and engines spared, and terrace failover (R443 to R458,
R461, R463 to R465). -/

namespace Sys2Proof.Machine

/-! ### UNIT_FAULT -/

/-- A descriptor ends with UNIT_FAULT for a unit (R445, R463). -/
def State.unitFault (s : State) (j : Job) (unit : Nat) : State :=
  let s := { s.bump (rk .SP_UNIT_FAULTS) with life := { s.life with unitFaults := satAdd 32 s.life.unitFaults 1 } }
  (s.raise 0x404 unit (payload [(24, 2, j.ring), (28, 4, j.seq)])).failJob j stUnitFault unit

/-- Descriptors that ended with UNIT_FAULT one after another. -/
def State.unitFaults (s : State) (js : List Nat) (unit : Nat) : State :=
  js.foldl (fun s k => s.whenJob k (fun j => j.phase ≠ .done) fun j => s.unitFault j unit) s

/-! ### Replay (R451 to R455) -/

/-- The descriptor that runs in a group of a jet now. -/
def State.runningIn (s : State) (x gid : Nat) : Option Job :=
  s.jobs.find? fun j => j.d.usesGroup && j.d.opcode ≠ opDrain && (j.phase = .draining || j.phase = .drainWait) &&
    j.d.accGroup = gid && j.jets.contains x

/-- A group reopened as op.acc_begin does, its journal kept (R98, R452). -/
def State.reopen (s : State) (x gid : Nat) : State :=
  match s.group? x gid with
  | none => s
  | some g =>
    s.openOn x gid { g with nTotal := 0, sat := false, lapsed := false, nonfinite := false, e := 0, eSet := false }

/-- A journal entry as a descriptor again: it reads its block again (R452), under the bounds watch it was dispatched with (R263). -/
def State.replayJob (s : State) (e : Entry) (unit : Nat) : Job :=
  let j := { Job.fresh e.jid 0 0 0 none e.d [] with unit := unit, bm := e.bm, bn := e.bn, bk := e.bk, watch := e.watch }
  { j with block := if e.d.metaSrc = 0 then [] else s.peek j.who e.d.metaSrc 0 64 }

/-- A weight tile's load and rows on jet `x` again. -/
def State.replayTile (s : State) (j : Job) (x : Nat) (l : TileLoad) : State × Option Err :=
  match s.readSpans j.who (s.opSpansOn j.who (j.tileSrc l).op l.col0 l.cols l.ks) (x % 4) with
  | (s, some e) => (s, some e)
  | (s, none) =>
    let t := s.loadedTile j x l
    let s := (s.countLoad j x t).countS24 x t
    ((s.runRows x { t with tB := t.tRow } l.rows).addTile j x l t.cols)

/-- A span's load and rows on engine `e` again. -/
def State.replayOnEngine (s : State) (j : Job) (x e : Nat) (sp : List TileLoad) : State × Option Err :=
  match s.readSpans j.who (sp.flatMap fun l => s.opSpansOn j.who j.serialOp l.col0 l.cols l.ks) (4 + e % 2) with
  | (s, some a) => (s, some a)
  | (s, none) => (s.bump (rk .SE_SPANS_RUN (s.physE e))).addSpan j e (s.loadSpan j (EngSpan.waiting sp x j.d.forced))

/-- Weight tiles of one span again, one after another. -/
def State.replayTiles (s : State) (j : Job) (x : Nat) : List TileLoad → State × Option Err
  | [] => (s, none)
  | l :: r =>
    match s.replayTile j x l with
    | (s, some e) => (s, some e)
    | (s, none) => s.replayTiles j x r

/-- The spans of a jet's part again, in issue order (R85, R298). -/
def State.replaySpans (s : State) (j : Job) (x : Nat) : List (List TileLoad) → State × Option Err
  | [] => (s, none)
  | sp :: r =>
    match (match s.chooseEngine j x sp, engineOf x with
      | .engine, some e => s.replayOnEngine j x e sp
      | _, _ => s.replayTiles j x (s.mergeS24 j sp)) with
    | (s, some e) => (s, some e)
    | (s, none) => s.replaySpans j x r

/-- One journal entry's sums added to the groups of the jets `xs` again. The descriptors in flight are as they were (R453). -/
def State.replayEntry (s : State) (xs : List Nat) (unit : Nat) (e : Entry) : State × Option Err :=
  let j := s.replayJob e unit
  if j.d.opcode ≠ opMatmul then (s, none)
  else
    let js := s.jobs
    let t := j.tileAt 0
    match s.readBooks j [(j.d.serial = .code4, j.d.wSrc)] with
    | (s, _, some x) => (s, some x)
    | (s, j, none) =>
      let r := ((j.parts 0 t.2.2.1 t.2.2.2).filter fun p => xs.contains p.jet).foldl
        (fun (r : State × Option Err) p => if r.2.isSome then r else r.1.replaySpans j p.jet (s.pairSpans j (j.spansOf 0 p))) (s, none)
      ({ r.1 with jobs := js }, r.2)

/-- Journal entries one after another. -/
def State.replayEntries (s : State) (xs : List Nat) (unit : Nat) : List Entry → State × Option Err
  | [] => (s, none)
  | e :: r =>
    match s.replayEntry xs unit e with
    | (s, some x) => (s, some x)
    | (s, none) => s.replayEntries xs unit r

/-- The tiles and spans of a descriptor on the jets `xs` taken off, and off their engines. -/
def State.strip (s : State) (xs : List Nat) (jid : Nat) : State :=
  xs.foldl (fun s x =>
    let s := (s.putSets x ((s.setsOf x).without jid)).quiet x
    match engineOf x with
    | none => s
    | some e =>
      let es := s.storesOf e
      let keep (a : EngSpan) : Bool := !(a.jet = x && a.isOf jid)
      s.putStores e ⟨es.active.filter keep, es.shadow.filter keep, es.waiting.filter keep⟩) s

/-- The running MATMUL starts its output tile on the jets `xs` again: what it counted there is taken back, and its tiles load from
the first (R452, R453). -/
def State.restart (s : State) (j : Job) (xs : List Nat) : State :=
  let mine := xs.filter j.jets.contains
  let j := mine.foldl Job.untry { j with
    phase := .draining, waitOn := none, queued := mine.foldl (fun q x => Tab.put q x (j.tileOn x)) j.queued }
  let s := (s.putJob j).strip mine j.jid
  (mine.foldl (fun s x => s.feed x 64) s).afterSwap j.jid

/-- The descriptor that was running when the fault was detected runs again: a MATMUL its output tile, another opcode from its start,
a FUSED_PAIR from its first key block (R452, R453). -/
def State.rerun (s : State) (j : Job) (xs : List Nat) : State :=
  if j.d.opcode = opMatmul then s.restart j xs
  else
    let s := s.unload j.jid
    if j.d.opcode = opFused then s.startFused j
    else if j.d.opcode = opForecast then s.startForecast j
    else if j.d.opcode = opHaze then s.startHaze j
    else s.putJob { j with phase := .draining, waitOn := none }

/-- Group `gid` of jet `x`, on every jet of its basin for a lock-step shape, replayed from its journal (R451, R452). An
unjournaled group ends the descriptor that runs in it. An error of a replayed read ends the descriptor that runs in the group and
closes the group (log 13). -/
def State.replayGroup (s : State) (x gid : Nat) : State :=
  match s.group? x gid with
  | none => s
  | some g =>
    let lock := lockShape g.shape && decide (x < 560)
    let xs := if lock then lockJets x else [x]
    let unit := if lock then 0x200 + x / 4 else jetHandle x
    let live := s.runningIn x gid
    if g.unjournaled then
      let s := match live with
        | some j => s.unitFault j (hereHandle (jetHandle x))
        | none => s
      xs.foldl (fun s y => s.shut y gid) s
    else
      let s := xs.foldl (fun s y => s.reopen y gid) s
      match s.replayEntries xs unit (g.journal.filter fun e => !live.any fun j => j.jid = e.jid), live with
      | (s, some e), some j => s.failJob j e.1 e.2
      | (s, some _), none => xs.foldl (fun s y => s.shut y gid) s
      | (s, none), some j => s.rerun j xs
      | (s, none), none => s

/-- The open groups of a jet; one whose drain is in progress counts as open (R452). -/
def State.openGroups (s : State) (x : Nat) : List Nat := (List.range 8).filter fun g => (s.group? x g).isSome

/-- The DOT whose rows a jet was running: its output tile there starts again from its seeds (R232, R452). -/
def State.dotOn (s : State) (x : Nat) : Option Job :=
  match (s.setsOf x).active with
  | some t => if t.load.d.isDot && decide (t.done < t.load.rows) then (s.job? t.load.jid).filter (·.phase = .draining) else none
  | none => none

/-- That tile loads again, ahead of what the jet would load next; what it counted is taken back (R453). -/
def State.redoDot (s : State) (x : Nat) (j : Job) : State :=
  let js := s.setsOf x
  match js.active with
  | none => s
  | some t =>
    (s.putJob (j.untry x)).putSets x { js with
      active := none, shadow := none
      loads := { t.load with ran := none } :: (js.shadow.map (·.load)).toList ++ js.loads }

/-- The descriptors that a replay of a group runs again: those of its journal, and the one that runs in it (R463). -/
def State.rerunsOf (s : State) (x gid : Nat) : List Nat :=
  (((s.group? x gid).elim [] fun g => g.journal.map (·.jid)) ++ ((s.runningIn x gid).map (·.jid)).toList).eraseDups

/-- Every open group of a jet replayed, and a DOT's interrupted rows run again: counted and reported where anything runs again (R452,
R453, R463). The a-cycles re-run are a free value (log 13). -/
def State.replayOnce (s : State) (x cause : Nat) : State :=
  let gs := s.openGroups x
  let kept := gs.filter fun g => (s.group? x g).any fun r => !r.unjournaled
  let dot := s.dotOn x
  let live := kept.filterMap (s.runningIn x) ++ dot.toList
  let n := (kept.map fun g => (s.rerunsOf x g).length).sum + dot.toList.length
  let s := gs.foldl (fun s g => s.replayGroup x g) s
  let s := dot.elim s (s.redoDot x)
  if kept.isEmpty && dot.isNone then s
  else
    let cyc := (Config.rerun s.draws).toNat
    let s : State := { s with draws := s.draws + 1, reruns := s.reruns ++ live.map fun j => ⟨j.jid, x, cause⟩ }
    let s := (s.bump (rk .SP_REPLAYS)).bump (rk .SP_REPLAY_CYCLES) cyc
    s.raise 0x401 (hereHandle (jetHandle x)) (payload [(24, 1, cause), (25, 1, kept.length), (26, 2, n), (28, 4, cyc)])

/-- Does a descriptor still run again after a replay? -/
def State.rerunning (s : State) (r : Rerun) : Bool := (s.job? r.jid).any fun j => j.phase = .draining || j.phase = .drainWait

/-- A jet's replay. It stops a replay in the same basin whose descriptor has not run to its end yet, which then starts again from its
journals (R455). -/
def State.replay (s : State) (x cause : Nat) : State :=
  let was := s.reruns.filter s.rerunning
  let s : State := { s with reruns := was.filter fun r => r.jet ≠ x }
  let again := ((was.filter fun r => r.jet ≠ x && jetBasin r.jet = jetBasin x).map fun r => (r.jet, r.cause)).eraseDups
  again.foldl (fun (s : State) r =>
    if s.reruns.any fun y => y.jet = r.1 && s.rerunning y then
      ({ s with reruns := s.reruns.filter fun y => y.jet ≠ r.1 }).replayOnce r.1 r.2
    else s) (s.replayOnce x cause)

/-! ### Opcodes that are not replayed (R454) -/

/-- Opcodes that no replay runs again; of EMU_BASAD the conversions. -/
def Desc.unreplayed (d : Desc) : Bool :=
  d.among [opUpdate, opConvert, opGather, opReduce, opReshard] || (d.opcode = opEmu && !d.isDot)

/-- A fault of a unit ends the descriptors of those opcodes that are in flight on it; the writes they have made stand. -/
def State.endUnreplayed (s : State) (unit : Nat) (on : Job → Bool) : State :=
  s.unitFaults ((s.jobs.filter fun j => j.d.unreplayed && j.issued.isSome && j.phase = .waiting && on j).map (·.jid)) (hereHandle unit)

/-! ### Terrace failover (R456 to R458) -/

/-- The logical jets of a terrace hold nothing: a unit reset of its physical terrace. -/
def State.clearTerrace (s : State) (t : Nat) : State :=
  let mine (x : Nat) : Bool := (decide (x < 560) && decide (x / 16 = t)) || decide (x = 560 + t)
  let s : State := { s with
    acc := s.acc.filter fun e => !mine (e.1 / 32768)
    accErr := s.accErr.filter fun k => !mine (k / 32768)
    grp := s.grp.filter fun e => !mine (e.1 / 8)
    jets := s.jets.filter fun e => !mine e.1
    engines := s.engines.filter fun e => e.1 / 8 ≠ t
    stallDue := s.stallDue.filter fun e => e.1 / 4 ≠ t
    haloQ := Tab.del s.haloQ t }
  let js : List Nat := (560 + t) :: if t < 35 then (List.range 16).map (16 * t + ·) else []
  let s := js.foldl (fun s x => (s.showJet x).quiet x) s
  (List.range 8).foldl (fun s i => s.showEngine (8 * t + i)) s

/-- A Halo queue discarded as sparing takes the reserve jet, each sample counted, those of FORECAST and HAZE_SELECT in their
trackers too (R203, R219, R440, R461). -/
def State.dropSamples (s : State) (t : Nat) : State :=
  let q := Tab.getD s.haloQ t []
  if q.isEmpty then s
  else
    let s := q.foldl (fun (s : State) x =>
      if x.d.opcode = opForecast then s.bump (rk .FC_TRK_DROPPED 0 (ForecastBlk.ofBytes x.block).tracker)
      else if x.d.opcode = opHaze then s.bump (rk .HZ_TRK_DROPPED 0 (HazeBlk.ofBytes x.block).tracker)
      else s) s
    ({ s.bump (rk .HL_DROPPED 0 t) q.length with haloQ := Tab.del s.haloQ t }).show (rk .HL_PENDING 0 t) 0

/-- Descriptors that stand on a terrace's units and have not completed, in dispatch order. -/
def State.jobsOn (s : State) (t : Nat) : List Job :=
  s.jobs.filter fun j => j.phase ≠ .done && j.phase ≠ .away && j.unit ≠ 0 && j.unit ≠ 1 && basinOf j.unit / 4 = t

/-- A descriptor as it stood before it issued, its claims given back; GOV_ACTIVE and PREEMPTED stay (R458). -/
def Job.again (j : Job) : Job :=
  { j with phase := .dispatched, tile := 0, waitOn := none, books := [], queued := [], fused := [], tried := [], drained := [], dense := [], flags := j.flags &&& (2 ^ flGov + 2 ^ flPreempted), status := 0, detail := 0,
           counts := Counts.zero, dzLo := 0, dzHi := 0, dzAny := false, claimed := [], reads := [], carry := [], block := [] }

/-- A terrace's failover begins: it leaves the ready state, its physical terrace takes a unit reset and is recorded as out of
service, and it takes the lowest-numbered ready reserve or waits for one (R450, R456, R458). -/
def State.startFailover (s : State) (t : Nat) : State :=
  let s := (s.mapAdd 4 (s.physT t) 0).setTerrace t false
  let s := (s.dropSamples t).flushed 4 (hereHandle (0x100 + t))
  let js := s.jobsOn t
  let s := s.clearTerrace t
  if 32 ≤ t then (s.unitFaults (js.map (·.jid)) (hereHandle (0x100 + t))).settle
  else
    let s := s.refreshReady
    if s.readyReserve.isSome then
      let s := js.foldl (fun s j => (s.giveBack j.claimed).putJob j.again) s
      ({ s with failing := Tab.put s.failing t 0 }).settle
    else
      let s := s.beginWait t
      (s.unitFaults (js.map (·.jid)) (hereHandle (0x100 + t))).settle

/-- An entry of a provision list (R457): source, basin, first unit, units. -/
structure Provision where
  src : Nat
  basin : Nat
  base : Nat
  units : Nat
  deriving DecidableEq, Repr

/-- The 16 bytes of an entry; none where it is faulty. -/
def State.provision (s : State) (bs : List Byte) : Option Provision :=
  let e : Provision := ⟨fieldAt bs 0 8, fieldAt bs 8 1, fieldAt bs 10 2, fieldAt bs 12 2⟩
  let bad := fieldAt bs 9 1 ≠ 0 || fieldAt bs 14 2 ≠ 0 || 2 ^ 56 ≤ e.src || 4 ≤ e.basin || e.units = 0 || 32768 < e.units ||
    32768 < e.base + e.units ||
    (List.range e.units).any fun i => s.loc ((e.src + 256 * i) % 2 ^ 56) = .unmapped || s.loc ((e.src + 256 * i + 255) % 2 ^ 56) = .unmapped
  if bad then none else some e

/-- The provision list of a logical terrace; a faulty one is skipped whole (R457). -/
def State.provisions (s : State) (t : Nat) : List Provision :=
  let a := if t < 32 then s.fld (rk .SP_PROVISION 0 t) 0 56 else 0
  if a = 0 then []
  else
    let h := s.peek queueWho a 0 16
    let n := fieldAt h 0 2
    if 256 < n || (h.drop 2).any (· ≠ 0) || (List.range (n + 1)).any (fun i => s.loc ((a + 16 * i) % 2 ^ 56) = .unmapped) then []
    else
      let es := (List.range n).map fun i => s.provision (s.peek queueWho a (16 + 16 * i) 16)
      if es.all Option.isSome then es.filterMap id else []

/-- The reads of a provision list, and whether they failed: its first 16 bytes, then its entries (R457). -/
def State.readList (s : State) (t : Nat) : State × Bool :=
  let a := if t < 32 then s.fld (rk .SP_PROVISION 0 t) 0 56 else 0
  if a = 0 then (s, false)
  else
    let n := fieldAt (s.peek queueWho a 0 2) 0 2
    let r := s.readSpans queueWho (⟨a, 0, 16⟩ :: if n ≤ 256 then [⟨a, 16, 16 * n⟩] else [])
    (r.1, r.2.isSome)

/-- One provisioned range copied into the pools of the terrace (R458). -/
def State.provide (s : State) (t : Nat) (e : Provision) : State :=
  let q := 4 * t + e.basin
  let bs := s.peek queueWho e.src 0 (256 * e.units)
  let s := (s.readSpan queueWho ⟨e.src, 0, 256 * e.units⟩).1
  { s with dev := Mem.write s.dev (poolBase q + 256 * e.base) bs }

/-- Does a provisioned range of a basin hold units `b` to `b + n - 1`? -/
def covered (es : List Provision) (i b n : Nat) : Bool :=
  es.any fun e => e.basin = i && decide (e.base ≤ b) && decide (b + n ≤ e.base + e.units)

/-- The registers that a failover copies from one physical basin to another (R458). -/
def State.copyBasin (s : State) (u v : Nat) (full : Nat → Bool) : State :=
  let s := (List.range 16).foldl (fun s k => s.show (rk .BS_WIN v k) (s.reg (rk .BS_WIN u k)).toNat) s
  let s := (List.range 48).foldl (fun s n =>
    let w := s.reg (rk .BS_SLOT u n)
    let f := if full n then bitsOf w.toNat 32 1 else 0
    s.show (rk .BS_SLOT v n) (bitsOf w.toNat 0 32 + 2 ^ 32 * f)) s
  s.show (rk .BS_SLOT_WDOG v) (s.reg (rk .BS_SLOT_WDOG u)).toNat

/-- A counter of a jet or a sparse engine: it keeps its value when the unit goes out of service (R81, R180). -/
def RegName.unitCounter (n : RegName) : Bool :=
  ((regRow n).blk = .jt || (regRow n).blk = .se) && (regRow n).fields.any fun f => f.acc = .rc

/-- The registers of a physical terrace's units. -/
def unitOfTerrace (p : Nat) (k : RegKey) : Bool :=
  match (regRow k.name).blk with
  | .tr => k.unit = p
  | .bs => k.unit / 4 = p
  | .jt => k.unit / 17 = p
  | .se => k.unit / 8 = p
  | _ => false

/-- Does a span of a slot or of a pool of terrace `t` hold a byte that the provisioned ranges do not cover (R458)? A slot counts
whole. -/
def State.uncovered (s : State) (t : Nat) (es : List Provision) (a : Span) : Bool :=
  if isSlotRef a.ref then
    match s.slotBasin a.ref with
    | some q => q / 4 = t &&
        !covered es (q % 4) (s.fld (s.slotKey q (slotNum a.ref)) 0 15) (s.fld (s.slotKey q (slotNum a.ref)) 16 15 + 1)
    | none => false
  else
    let lo := a.ref % 2 ^ 56 + a.off
    (List.range ((lo + max 1 a.len - 1) / 256 - lo / 256 + 1)).any fun i =>
      match s.loc ((lo / 256 + i) * 256) with
      | .pool q x => q / 4 = t && !covered es (q % 4) (x / 256) 1
      | _ => false

/-- What a descriptor reads: its operand tensors whole with their headers, bitmaps and data, its block, and the first byte at each other
address that it or its block names (log 14). -/
def State.readsOf (s : State) (j : Job) : List Span :=
  let d := j.d
  let n := s.bounds j
  let j := { j with bm := n.1, bn := n.2.1, bk := n.2.2, block := if d.metaSrc = 0 then [] else s.peek j.who d.metaSrc 0 64 }
  (((d.addrs.filter fun a => a.1 ≠ 80).map Prod.snd ++ (opOf s d).reads j).filter (· ≠ 0)).map (⟨·, 0, 1⟩) ++
    (if d.metaSrc = 0 then [] else [⟨d.metaSrc, 0, 64⟩]) ++
    (if d.readsBounds && d.boundsSrc = 2 then [d.boundsSpan] else []) ++
    (if d.readsBroad then s.opSpans j.who (if d.among [opMatmul, opConvert] then j.broadOp else Operand.of d.broad d.aSrc 0 0 j.bm j.bk) 0 j.bm 0 j.bk
      else []) ++
    (if d.readsSerial then s.opSpans j.who (if d.among [opMatmul, opConvert] then j.serialOp else Operand.of d.serial d.wSrc 0 0 j.bn j.bk) 0 j.bn 0 j.bk
      else [])

/-- Must a descriptor end with UNIT_FAULT at a failover: it reads what is not provisioned, or continues a group (R458)? -/
def State.lostAt (s : State) (t : Nat) (es : List Provision) (j : Job) : Bool :=
  (j.d.usesGroup && (!j.d.accBegin || j.d.opcode = opDrain)) || (s.readsOf j).any (s.uncovered t es)

/-- The rings' next descriptors merged by deadline, 0 last, each ring's order kept (R30, R458). -/
def byDeadline : Nat → List Job → List Job
  | 0, _ => []
  | n + 1, js =>
    let key (j : Job) : Nat := if j.d.deadline = 0 then 2 ^ 64 else j.d.deadline
    let head (j : Job) : Bool := (js.find? fun x => x.ring = j.ring && x.origin = j.origin).any fun x => x.jid = j.jid
    match (js.filter head).foldl (fun (m : Option Job) j => if m.any fun x => decide (key x ≤ key j) then m else some j) none with
    | none => []
    | some j => j :: byDeadline n (js.filter fun x => x.jid ≠ j.jid)

/-- Radio-class descriptors first, by deadline, then the others in dispatch order (R458). -/
def rerunOrder (js : List Job) : List Job :=
  let radio := js.filter fun j => j.cls = 0
  byDeadline radio.length radio ++ js.filter fun j => j.cls ≠ 0

/-- A failover's end: registers, windows, slots and provisioned ranges are in place, the handles name the reserve, the bits
set and the descriptors re-run (R18, R458, R461). -/
def State.endFailover (s : State) (t r us : Nat) : State :=
  let old := s.physT t
  let new := s.physT r
  let read := s.readList t
  let es : List Provision := if read.2 then [] else s.provisions t
  let pools (c : Nat) : Bool := decide (poolBase (4 * t) ≤ c) && decide (c < poolBase (4 * t + 4)) ||
    decide (poolBase (4 * r) ≤ c) && decide (c < poolBase (4 * r + 4))
  let s := read.1
  let s := { s with
    dev := s.dev.filter fun c => !pools c.1
    poolErr := s.poolErr.filter fun e => !pools (32 * e.1) }
  let s := es.foldl (fun s e => s.provide t e) s
  let s := (List.range 4).foldl (fun s i => s.copyBasin (4 * old + i) (4 * new + i) fun n =>
    covered es i (s.fld (rk .BS_SLOT (4 * old + i) n) 0 15) (s.fld (rk .BS_SLOT (4 * old + i) n) 16 15 + 1)) s
  let s := (List.range 4).foldl (fun s i => s.show (rk .TR_RADIO_GROUPS new i) (s.reg (rk .TR_RADIO_GROUPS old i)).toNat) s
  let s := s.show (rk .TR_ISSUE_CFG new) (s.reg (rk .TR_ISSUE_CFG old)).toNat
  let s := { s with
    regs := s.regs.filter fun e => !unitOfTerrace old e.1 || e.1.name.unitCounter
    lmap := Tab.put (Tab.put s.lmap t new) r old
    failing := Tab.del s.failing t
    holders := Tab.del (Tab.del s.holders (resJet t)) (resJet r)
    life := { s.life with terraces := satAdd 8 s.life.terraces 1 } }
  let s := if s.jmap.any fun e => e.2 = 17 * new + 16 then s.setHolder (resJet t) 3 else s
  let s := ((List.range 16).foldl (fun s i => (s.showColumns (17 * old + i)).showColumns (17 * new + i)) ((s.showIds old).showIds new)).bump
    (rk .SP_FAILOVERS)
  let mine : List Job := s.jobsOn t
  let s := { s with jobs := (s.jobs.filter fun (j : Job) => !mine.any fun (x : Job) => x.jid = j.jid) ++ rerunOrder mine }
  let s := s.unitFaults ((mine.filter (s.lostAt t es)).map Job.jid) (hereHandle (0x100 + t))
  let s := (s.setTerrace t true).settle
  s.raise 0x402 (hereHandle (0x100 + t))
    (payload [(24, 2, old), (26, 2, new), (28, 4, (es.map fun (e : Provision) => 256 * e.units).sum), (32, 4, us)])

/-- FAILOVER_DONE (R458). -/
def execFailoverDone (terrace us : Nat) (s : State) : Res :=
  match Tab.find? s.failing terrace with
  | some r => if r = 0 then .next s else .next (s.endFailover terrace r us)
  | none => .next s

/-! ### Jets, engines and columns -/

/-- The terrace of a logical jet. -/
def jetTerrace (x : Nat) : Nat := if x < 560 then x / 16 else x - 560

/-- A jet that takes another's place holds no weights yet: the tile of the shadow set loads again. -/
def State.reloadSets (s : State) (x : Nat) : State :=
  let js := s.setsOf x
  match js.shadow with
  | none => s
  | some t => s.putSets x { js with shadow := none, loads := t.load :: js.loads }

/-- A jet out of service: its terrace's reserve jet takes its place and its groups replay, or the terrace fails over
(R440, R447, R461). -/
def State.spareJet (s : State) (x cause : Nat) : State :=
  let t := jetTerrace x
  let u := s.physJ x
  let r := 17 * s.physT t + 16
  if u = r ∨ (Tab.find? s.jmap r).isSome ∨ s.jmap.any (fun e => e.2 = r) then s.startFailover t
  else
    let s := if s.holder (resJet t) = 1 then
        s.unitFaults ((s.jobs.filter fun j => j.phase ≠ .done && j.phase ≠ .away && j.unit = 0xC00 + t).map (·.jid)) (hereHandle (0xC00 + t))
      else s
    let s := (s.dropSamples t).setHolder (resJet t) 3
    let s := (s.mapAdd 1 u 0).bump (rk .SP_JETS_SPARED)
    let s := { s with
      jmap := Tab.put s.jmap u r, life := { s.life with jets := satAdd 16 s.life.jets 1 }
      regs := s.regs.filter fun e => !((regRow e.1.name).blk = Blk.jt && e.1.unit = u && !e.1.name.unitCounter) }
    let s := (s.showIds (u / 17)).flushed 4 (hereHandle (jetHandle x))
    let s := s.raise 0x400 (hereHandle (jetHandle x)) (payload [(24, 1, 1), (26, 2, u), (28, 2, r), (30, 1, 0)])
    let s := s.endUnreplayed (jetHandle x) fun j => j.jets.contains x
    (s.settle.replay x cause).reloadSets x

/-- The physical column that logical column `c` of a physical jet uses now: itself, or the spare it moved to last. -/
def State.columnNow (s : State) (u c : Nat) : Nat :=
  let cs := ((s.life.map.filter fun e => e.kind = 0 && e.unit = u).map (·.loc))
  ((List.range cs.length).zip cs).foldl (fun m e => if e.2 = c then 128 + e.1 else m) c

/-- A column moved to a spare column, or its jet spared where none is left (R446). -/
def State.spareColumn (s : State) (x c : Nat) : State :=
  let u := s.physJ x
  let n := Tab.getD s.spareCols u 0
  let s := { s with suspects := Tab.del s.suspects (256 * u + c) }
  if 2 ≤ n then (s.showColumns u).spareJet x 0
  else
    let now := s.columnNow u c
    let s := (s.mapAdd 0 u c).bump (rk .SP_COLUMNS_SPARED)
    let s := { s with spareCols := Tab.put s.spareCols u (n + 1), life := { s.life with columns := satAdd 32 s.life.columns 1 } }
    let s := (s.showColumns u).raise 0x400 (hereHandle (jetHandle x))
      (payload [(24, 1, 0), (25, 1, c), (26, 2, now), (28, 2, 128 + n), (30, 1, 1 - n)])
    s.replay x 0

/-- Does a jet run a descriptor now? The one of its active tile, if it has one. -/
def State.jetRuns (s : State) (x : Nat) : Option Job :=
  match (s.setsOf x).active.bind fun t => s.job? t.load.jid with
  | some j => some j
  | none => s.jobs.find? fun j => (j.phase = .draining || j.phase = .drainWait) && j.jets.contains x

/-- Is a logical jet one of a ready terrace? -/
def State.jetLive (s : State) (x : Nat) : Bool := s.terraceReady (jetTerrace x)

/-- ACCUMULATOR_ECC_ERROR (R444, R447): an uncorrectable entry. -/
def execAccumulatorEccError (jet : Nat) (s : State) : Res :=
  if s.jetLive jet then .next (s.spareJet jet 1) else .next s

/-- The span that an engine was running goes to the dense jet when its descriptor runs again (R448). -/
def State.markDense (s : State) (sp : EngSpan) : State :=
  match sp.tiles with
  | [] => s
  | l :: _ => s.modJob l.jid fun j => { j with dense := j.dense ++ [(sp.jet, l.ot, l.kt)] }

/-- The stores of a logical engine after a fault: no span runs, and the others load again, on the partner or, with both engines of the
basin out, on the dense jets (R448). -/
def State.refill (s : State) (e : Nat) : State :=
  let es := s.storesOf e
  if s.engineUp e then
    s.putStores e { es with active := none, shadow := es.shadow.map fun sp => { sp with loaded := false } }
  else
    let s := s.putStores e ⟨none, none, []⟩
    (es.shadow.toList ++ es.waiting).reverse.foldl (fun s sp =>
      let js := s.setsOf sp.jet
      s.putSets sp.jet { js with spans := sp.tiles :: js.spans }) s

/-- A sparse engine out of service: its handle moves to its partner unless that is out too; the span it was running replays on the
dense jet, and so do the open groups of its home jet (R168, R448, R452, R454). -/
def State.spareEngine (s : State) (e cause : Nat) : State :=
  let u := s.physE e
  let v := partner u
  let mine := s.sharers e
  let ran := mine.filterMap fun f => (s.storesOf f).active
  let s := { s.mapAdd 2 u 0 with emap := s.emap ++ [u] }
  let s := if s.emap.contains v then s
    else
      let s := { s.bump (rk .SP_ENGINES_SPARED) with life := { s.life with engines := satAdd 16 s.life.engines 1 } }
      s.raise 0x400 (hereHandle (0x800 + e)) (payload [(24, 1, 2), (26, 2, u), (28, 2, v), (30, 1, 0)])
  let s := (s.showIds (u / 8)).flushed 4 (hereHandle (0x800 + e))
  let s := mine.foldl (fun (s : State) f => s.endUnreplayed (0x800 + f) fun j => j.unit = 0x800 + f) s
  let s := mine.foldl State.refill (ran.foldl State.markDense s)
  (mine.map (2 * ·) ++ ran.map EngSpan.jet).eraseDups.foldl (fun s x => s.replay x cause) s

/-- A fault of a logical engine that some engine serves. -/
def State.engineFault (s : State) (e cause : Nat) : State :=
  if s.terraceReady (e / 8) && s.engineUp e then s.spareEngine e cause else s

/-- SPARSE_ENGINE_FAULT (R448). -/
def execSparseEngineFault (engine : Nat) (s : State) : Res := .next (s.engineFault engine 2)

/-- RESIDUE_MISMATCH (R444, R446): a column of a logical jet, or one of a sparse engine, `unit` its handle from 0x800 on, whose fault is
that of the engine (R448, log 39). -/
def execResidueMismatch (unit column : Nat) (s : State) : Res :=
  if 0x800 ≤ unit then
    match (s.storesOf (unit - 0x800)).active with
    | none => .next s
    | some _ => .next ((s.bump (rk .SP_RESIDUE_ERRORS)).engineFault (unit - 0x800) 0)
  else
    match s.jetRuns unit with
    | none => .next s
    | some j =>
      let s := s.bump (rk .SP_RESIDUE_ERRORS)
      let u := s.physJ unit
      let key := 256 * u + column
      if j.cls = 0 || s.fld (rk .SP_CFG) 0 16 = 0 || (Tab.find? s.suspects key).any s.stillSuspect then .next (s.spareColumn unit column)
      else
        let s := { s with suspects := Tab.put s.suspects key s.life.poweredS }
        .next ((s.showColumns u).replay unit 0)

/-- PROGRESS_FAULT (R444, R447, R448, R456): of a jet, a sparse engine, a basin sequencer, or a terrace's router or a-clock
domain, by local handle. -/
def execProgressFault (unit : Nat) (s : State) : Res :=
  match unitKind unit with
  | some .jet => if s.jetLive (unit - 0x400) then .next (s.spareJet (unit - 0x400) 2) else .next s
  | some .reserve => if s.jetLive (560 + (unit - 0xC00)) then .next (s.spareJet (560 + (unit - 0xC00)) 2) else .next s
  | some .engine => .next (s.engineFault (unit - 0x800) 2)
  | some .basin => if s.basinReady (unit - 0x200) then .next (s.startFailover ((unit - 0x200) / 4)) else .next s
  | some .terrace => if s.terraceReady (unit - 0x100) then .next (s.startFailover (unit - 0x100)) else .next s
  | _ => .next s

end Sys2Proof.Machine
end

