-- ==== Sys2Proof/Machine/Power.lean ====
section
/-! DEFINITION. Sensors, telemetry ticks, the brownout ladder and thermal limits (R186, R319, R466, R467, R474, R495 to R505). -/

namespace Sys2Proof.Machine

/-! ### Telemetry ticks -/

/-- The power cap in W: PW_CAP.watts from 300 to 900. -/
def State.capWatts (s : State) : Nat := min (max (s.fld (rk .PW_CAP) 0 11) 300) 900

/-- The power cap's term after a tick with mean input power `p` in 0.5 W (R498). -/
def State.capStep (s : State) (p : Nat) : Nat :=
  let w := 2 * s.capWatts
  let h := 2 * s.fld (rk .PW_CAP) 16 8
  if w < p then max (s.uCap - 8) 16
  else if p + h < w then min (s.uCap + 2) 256
  else s.uCap

/-- The hottest thermal point of a physical terrace (R466). -/
def State.terraceTemp (s : State) (p : Nat) : Int := max (s.sensor (2 * p)).toInt (s.sensor (2 * p + 1)).toInt

/-- The thermal governor's tick for the logical terrace that a physical one serves (R503). -/
def State.thermalStep (s : State) (p : Nat) : State :=
  let t := s.logicalT p
  let k := rk .PW_SHARE 0 t
  let old := s.fld k 9 9
  let hot := s.terraceTemp p
  let new := if 800 ≤ hot then max (old - 8) 1 else if hot ≤ 776 then min (old + 2) 256 else old
  if new = old then s
  else
    let s := s.setFld k 9 9 new
    if old = 256 ∨ new = 256 then
      s.raise 0x603 (hereHandle (0x100 + t))
        (payload [(24, 1, new), (25, 1, flagNat (new = 256)), (26, 2, bitsOfInt hot 16)])
    else s

/-- One term of the Drizzle pressure: `256 · num ÷ den`, held from 0 to 256 (R186). -/
def pressureTerm (num den : Int) : Nat := (satI (256 * num / den) 0 256).toNat

/-- P_t of a logical terrace at a tick and whether P_T ≥ P_V, with input power `p` in 0.5 W (R186). -/
def State.pressure (s : State) (t p : Nat) : Nat × Bool :=
  let th := s.terraceTemp (s.physT t)
  let tl : Int := s.fld (rk .DZ_TEMP) 0 12
  let tu : Int := s.fld (rk .DZ_TEMP) 16 12
  let hd : Int := (2 * s.capWatts - p : Nat)
  let hl : Int := s.fld (rk .DZ_HEAD) 0 12
  let hu : Int := s.fld (rk .DZ_HEAD) 16 12
  let pt := if tl < tu then pressureTerm (th - tl) (tu - tl) else if tl ≤ th then 256 else 0
  let pv := if hl < hu then pressureTerm (hu - hd) (hu - hl) else if hd ≤ hl then 256 else 0
  (max pt pv, decide (pv ≤ pt))

/-- TELEMETRY_TICK (R186, R498, R499, R503): mean input in 10 mV and 0.5 W over the tick. -/
def execTelemetryTick (volts power : Nat) (s : State) : Res :=
  if !s.powerGood then .next s
  else
    let s := s.setReg (rk .PW_INPUT) (BitVec.ofNat 64 (volts % 65536 + 2 ^ 16 * (power % 65536)))
    let s := { s with uCap := s.capStep power }
    let s := if s.uCap < 256 then s.bump (rk .PW_CAP_TICKS) else s
    let s := if s.fld (rk .PW_STATUS) 0 2 = 2 then
        let u := min (s.uCut + 16) 256
        let s := { s with uCut := u }
        if u = 256 then { s.setFld (rk .PW_STATUS) 0 2 0 with pwrAlert := false } else s
      else s
    let s := (List.range 35).foldl State.thermalStep s
    let s := s.bump (rk .PW_THERMAL_TICKS) ((List.range 35).filter fun t => decide (s.fld (rk .PW_SHARE 0 t) 9 9 < 256)).length
    let s := s.showShares
    .next ((List.range 35).foldl (fun s t =>
      let x := s.pressure t power
      s.show (rk .DZ_PRESSURE 0 t) (x.1 + 2 ^ 9 * flagNat x.2)) s)

/-! ### Samples -/

/-- DM_TEMP, DM_STATUS.hot and DM_STATUS.throttled of a stack after a sample (R319). -/
def State.stackTemp (s : State) (st : Nat) : State :=
  let x := (s.sensor (70 + st)).toInt
  let k := rk .DM_STATUS st
  let s := s.show (rk .DM_TEMP st) (bitsOfInt x 12)
  let s := if 680 < x then s.setFld k 1 1 1 else if x ≤ 664 then s.setFld k 1 1 0 else s
  if 760 ≤ x then
    if s.bit k 2 then s
    else (s.setFld k 2 1 1).raise 0x24 devHandle (payload [(24, 1, st), (26, 2, bitsOfInt x 16)])
  else if x ≤ 744 then s.setFld k 2 1 0
  else s

/-- The first sensor at its trip limit: a logic point at 115.0 °C or a stack at 100.0 °C (R503). -/
def State.tripPoint (s : State) : Option Nat :=
  (List.range 86).find? fun i => decide ((if i < 70 then (920 : Int) else 800) ≤ (s.sensor i).toInt)

/-- Input excursions counted at a sample (R474). -/
def State.excursion (s : State) : State :=
  let v := (s.sensor 96).toNat
  let l := match s.lastVolt with
    | none => s.life
    | some o =>
      let l := if o ≤ 6000 ∧ 6000 < v then { s.life with overV := satAdd 32 s.life.overV 1 } else s.life
      if 4000 ≤ o ∧ v < 4000 then { l with underV := satAdd 32 l.underV 1 } else l
  { s with life := l, lastVolt := some v }

/-- SENSOR_SAMPLE (R467, R474, R503): every reading is replaced; two samples in a row at a limit trip the module. -/
def execSensorSample (readings : List (BitVec 16)) (s : State) : Res :=
  if !s.powered then .next s
  else
    let s := { s with sensors := (List.range readings.length).zip readings, tripNow := false }
    let s := s.excursion
    if !s.powerGood then .next s
    else
      let s := (List.range 16).foldl State.stackTemp s
      match s.tripPoint with
      | none => .next { s with overSample := false }
      | some i =>
        if s.overSample && !s.tripped then
          .next ({ s with tripped := true, tripNow := true }.raise 0x604 devHandle (payload [(24, 1, i), (26, 2, (s.sensor i).toNat)]))
        else .next { s with overSample := true }

/-! ### The brownout ladder (R499, R500) -/

/-- u_cut from the warn step on: PW_CFG.cut_share from 8 to 32 where cut_enable is 1, else as it was. -/
def State.cutShare (s : State) : Nat :=
  if s.bit (rk .PW_CFG) 0 then min (max (s.fld (rk .PW_CFG) 8 8) 8) 32 else s.uCut

/-- POWER_WARN (R499): the input in 0.1 V leaves 40 to 60 V. -/
def execPowerWarn (volts : Nat) (high : Bool) (s : State) : Res :=
  let out := if high then decide (600 < volts) else decide (volts < 400)
  if !s.powerGood || s.snapshotBegun || s.fld (rk .PW_STATUS) 0 2 = 1 || !out then .next s
  else
    let s := { (s.setFld (rk .PW_STATUS) 0 2 1).bump (rk .PW_WARNS) with pwrAlert := true, uCut := s.cutShare }
    .next (s.showShares.raise 0x600 devHandle (payload [(24, 2, volts), (26, 1, flagNat high)]))

/-- POWER_RESTORED (R499): after `us` µs in the warn step the release begins; with u_cut at 256 it ends at once. -/
def execPowerRestored (us : Nat) (s : State) : Res :=
  if s.fld (rk .PW_STATUS) 0 2 ≠ 1 || s.snapshotBegun then .next s
  else
    let s := s.bump (rk .PW_RIDE_THROUGHS)
    let s := if s.uCut = 256 then { s.setFld (rk .PW_STATUS) 0 2 0 with pwrAlert := false } else s.setFld (rk .PW_STATUS) 0 2 2
    .next (s.raise 0x601 devHandle (payload [(24, 4, us)]))

/-- An input that opens the switch: above 72 V, or above 60 V for longer than 10 ms (R500); volts in 0.1 V. -/
def overvolt (peak us : Nat) : Bool := decide (720 < peak) || (decide (600 < peak) && decide (10000 < us))

/-- OVERVOLTAGE (R500): the input switch opens. -/
def execOvervoltage (peak us : Nat) (s : State) : Res :=
  if !s.powerGood || s.switchOpen || !overvolt peak us then .next s
  else
    let s := { s.setFld (rk .PW_STATUS) 4 1 1 with switchOpen := true }
    .next (s.raise 0x605 devHandle (payload [(24, 2, peak), (26, 4, us)]))

/-- SWITCH_CLOSE (R500). -/
def execSwitchClose (s : State) : Res :=
  if s.switchOpen then .next { s.setFld (rk .PW_STATUS) 4 1 0 with switchOpen := false } else .next s

/-- CONSISTENT_SNAPSHOT (R499, R503): due in the warn step or with the input switch open, as the store falls to its reserve,
and after a trip. -/
def execConsistentSnapshot (s : State) : Res :=
  if s.powerGood && !s.snapshotBegun && (s.brownout || s.tripped) then .next s.snapshotNow else .next s

/-- ORDERLY_STOP (R495, R499, R503). -/
def execOrderlyStop (s : State) : Res := if s.powerGood && s.snapshotBegun then .next s.stopRails else .next s

/-! ### Pins -/

/-- SB_FAULT_L is asserted: a latched fault or a standing trip (R493). -/
def State.sbFault (s : State) : Bool := s.bit (rk .NB_STATUS) 3 || s.tripped

/-- SB_PWR_ALERT_L is asserted: from the warn step until its release (R493, R499). -/
def State.sbPowerAlert (s : State) : Bool := s.pwrAlert

end Sys2Proof.Machine
end

