-- ==== Sys2Proof/Machine/Space.lean ====
section
/-! DEFINITION. The placement engine's space: hints, the stacks chosen, spill space, spills and fills, pool homes, and the
patrol of the stacks with the loss of dies and stacks (R310 to R318, R325 to R338). -/

namespace Sys2Proof.Machine

/-! ### Hints -/

/-- A placement hint's fields (R326). -/
def Hint.ofBytes (bs : List Byte) : Hint where
  mode := fieldAt bs 0 1
  spill := fieldAt bs 1 1
  prio := fieldAt bs 2 1
  plan := fieldAt bs 3 1
  stackMask := fieldAt bs 4 2
  shard := fieldAt bs 6 2
  consumer := fieldAt bs 8 3
  pool := fieldAt bs 12 1
  poolBytes := fieldAt bs 16 4

/-- Offsets of the reserved values of a hint's bytes, ascending (R326); bytes 8 to 11 are ignored under a plan (R327). -/
def hintBad (bs : List Byte) : List Nat :=
  let b (c : Bool) (o : Nat) : List Nat := if c then [o] else []
  b (decide (3 ≤ fieldAt bs 0 1)) 0 ++ b (decide (4 ≤ fieldAt bs 1 1)) 1 ++ b (decide (8 ≤ fieldAt bs 2 1)) 2 ++
  b (decide (16 ≤ fieldAt bs 3 1)) 3 ++ b (fieldAt bs 3 1 = 0 && fieldAt bs 11 1 ≠ 0) 11 ++
  b (decide (3 ≤ fieldAt bs 12 1)) 12 ++ (([13, 14, 15] ++ (List.range 12).map (20 + ·)).filter fun i => fieldAt bs i 1 ≠ 0)

/-- Offset of a hint's field that breaks a condition of R326. -/
def Hint.limit (h : Hint) : Option Nat :=
  if h.mode = 2 ∧ h.stackMask = 0 then some 4
  else if h.poolBytes % 256 ≠ 0 ∨ (h.pool ≠ 0 ∧ h.poolBytes < 256) then some 16
  else none

/-- Does a hint use its consumer (R327, R331)? -/
def Hint.usesConsumer (h : Hint) : Bool := h.mode = 1 || h.pool ≠ 0

/-! ### Units of a consumer -/

/-- The ready terraces of a unit of this device. -/
def State.terracesOf (s : State) : Nat → Nat → List Nat
  | 0, _ => []
  | fuel + 1, h =>
    let l := h % 2 ^ 16
    if !s.isHere (h / 2 ^ 16) then []
    else match unitKind l with
      | none => []
      | some .device => (List.range 35).filter s.terraceReady
      | some .terrace => [l - 0x100].filter s.terraceReady
      | some .group => (Tab.getD s.groups l []).flatMap fun m => s.terracesOf fuel m
      | some _ => [basinOf l / 4].filter s.terraceReady

/-- The ready basins of a unit of this device, in ascending order (R331). -/
def State.basinsOf (s : State) : Nat → Nat → List Nat
  | 0, _ => []
  | fuel + 1, h =>
    let l := h % 2 ^ 16
    if !s.isHere (h / 2 ^ 16) then []
    else match unitKind l with
      | none => []
      | some .device => (List.range 140).filter s.basinReady
      | some .terrace => ((List.range 4).map (4 * (l - 0x100) + ·)).filter s.basinReady
      | some .group => (Tab.getD s.groups l []).flatMap fun m => s.basinsOf fuel m
      | some _ => [basinOf l].filter s.basinReady

/-- The consumer's home stacks (R311, R327), in ascending order. -/
def State.homeStacks (s : State) (cons : Nat) : List Nat :=
  (s.terracesOf treeDepth cons).foldl (fun l t => setIns l (stackAbove (s.physT t))) []

/-- The stacks a hint chooses (R327). -/
def State.chosen (s : State) (h : Hint) (cons : Nat) : List Nat :=
  let ready := (List.range 16).filter s.stackReady
  if h.mode = 1 then (s.homeStacks cons).filter s.stackReady
  else if h.mode = 0 ∧ h.stackMask = 0 then ready
  else ready.filter (bitOf h.stackMask ·)

/-- Have the stacks of a list room for `size` bytes from place `f` (R328)? -/
def State.roomOn (s : State) (ls : List Nat) (size f : Nat) : Bool :=
  !ls.isEmpty && ((List.range ls.length).zip ls).all fun e => decide (shareOf size ls.length f e.1 ≤ s.freeOn e.2)

/-- Have they room from some place of the interleave? -/
def State.roomAny (s : State) (ls : List Nat) (size : Nat) : Bool := (List.range ls.length).any fun f => s.roomOn ls size f

/-- The nearest other ready stack with room, for AFFINITY with one home stack (R329 step 1). -/
def State.nearStack (s : State) (cons size : Nat) (ls : List Nat) : Option Nat :=
  match s.terracesOf treeDepth cons, ls with
  | t :: _, [home] =>
    let p := s.physT t
    ((List.range 16).filter fun st => st ≠ home && s.stackReady st && s.roomOn [st] size 0).foldl
      (fun m st => match m with
        | none => some st
        | some b => if hops (attachT st) p < hops (attachT b) p then some st else some b) none
  | _, _ => none

/-! ### Spill space (R333) -/

/-- Host ranges that spilled allocations fill. -/
def State.hostUsed (s : State) : List (Nat × Nat) :=
  s.allocs.filterMap fun x => match x.lies with | .host a => some (a, x.size) | _ => none

/-- Is a host range granted and free? -/
def State.hostFits (s : State) (a size : Nat) : Bool :=
  (s.grants.any fun g => decide (g.1 ≤ a) && decide (a + size ≤ g.1 + g.2)) &&
  s.hostUsed.all fun u => decide (a + size ≤ u.1) || decide (u.1 + u.2 ≤ a)

/-- The first place of the granted memory that holds `size` bytes. -/
def State.hostRun (s : State) (size : Nat) : Option Nat :=
  (s.grants.map Prod.fst ++ s.hostUsed.map fun u => u.1 + u.2).find? fun a => s.hostFits a size

/-- A place in spill space: a host bus address, or 2^56 and a peer's index. -/
abbrev Dest := Nat

/-- Does a hint's spill field permit host memory? -/
def Hint.hostOk (h : Hint) : Bool := decide (h.spill ≤ 1)
/-- Does it permit a peer? -/
def Hint.peerOk (h : Hint) : Bool := h.spill = 0 || h.spill = 2

/-- Is a place in spill space one that an allocation may take: granted host memory, which is preferred, or a member of the
cascade (R333)? -/
def State.destOk (s : State) (h : Hint) (size : Nat) (d : Dest) : Bool :=
  if d < 2 ^ 56 then h.hostOk && s.hostFits d size
  else h.peerOk && s.isPeer (d - 2 ^ 56) && s.reachable (d - 2 ^ 56) && !(h.hostOk && (s.hostRun size).isSome)

/-- Where a place lies. -/
def Dest.lies (d : Dest) : Lies := if d < 2 ^ 56 then .host d else .peer (d - 2 ^ 56)

/-- Allocations that a new one of priority `p` may push from its stacks, least recently accessed first (R329 step 2). -/
def State.victims (s : State) (p : Nat) (ls : List Nat) : List Alloc :=
  let ins (l : List Alloc) (x : Alloc) : List Alloc :=
    (l.takeWhile fun y => decide (y.lastUse ≤ x.lastUse)) ++ x :: l.dropWhile fun y => decide (y.lastUse ≤ x.lastUse)
  (s.allocs.filter fun x => x.lies = .onStacks && decide (x.hint.prio < p) && x.hint.spill ≠ 3 && ls.any fun st => x.on st ≠ 0).foldl ins []

/-- An allocation moved in the table. -/
def State.moveAlloc (s : State) (base : Nat) (l : Lies) (stacks' : List Nat) : State :=
  { s with allocs := s.allocs.map fun x =>
      if x.base = base then { x with lies := l, stackList := if stacks'.isEmpty then x.stackList else stacks' } else x }

/-- A place in spill space that a victim may take now: granted host memory over a link that is up, or the first member that a
route reaches, whose room this device does not know (R333, log 15). -/
def State.spillPlace (s : State) (v : Alloc) : Option Dest :=
  match if v.hint.hostOk && s.hostOpen then s.hostRun v.size else none with
  | some a => some a
  | none =>
    if v.hint.peerOk then ((List.range 255).find? fun i => s.isPeer i && s.reachable i).map (2 ^ 56 + ·) else none

/-- Would spilling victims in order make room (R329 step 2)? One that has no place to go stays. -/
def State.spillMakesRoom (s : State) (ls : List Nat) (size : Nat) : List Alloc → Bool
  | [] => s.roomAny ls size
  | v :: r =>
    s.roomAny ls size ||
    match s.spillPlace v with
    | some d => (s.moveAlloc v.base (Dest.lies d) []).spillMakesRoom ls size r
    | none => s.spillMakesRoom ls size r

/-! ### Moves (R334) -/

/-- The bytes of an allocation on each stack counted as read there, as a spill copies them (DM_READ_BYTES). -/
def State.copiedOut (s : State) (x : Alloc) : State :=
  (List.range 16).foldl (fun s st => if x.on st = 0 then s else s.bump (rk .DM_READ_BYTES st) (x.on st)) s

/-- The bytes of an allocation on each stack counted as written there, as a fill copies them (DM_WRITE_BYTES, R475). -/
def State.copiedIn (s : State) (x : Alloc) : State :=
  (List.range 16).foldl (fun s st => if x.on st = 0 then s else
    { s.bump (rk .DM_WRITE_BYTES st) (x.on st) with
      life := { s.life with dramWritten := s.life.dramWritten.modify st fun n => satAdd 64 n (x.on st) } }) s

/-- EV_SPILL with the counts of a spill (R334). -/
def State.spilled (s : State) (x : Alloc) (d : Dest) : State :=
  let s := (s.bump (rk .PL_SPILLS)).bump (rk .PL_SPILL_BYTES) x.size
  s.raise 0x26 devHandle (payload [(24, 8, x.base), (32, 8, x.size), (40, 1, flagNat (2 ^ 56 ≤ d)), (41, 1, d - 2 ^ 56)])

/-- The codewords of an allocation that are in error, as (stack, device address, symbol errors). -/
def State.errorsOf (s : State) (x : Alloc) : List (Nat × Nat × List (Nat × Nat)) :=
  (s.dramErr.map fun e => (e.1 / 2 ^ 34, 64 * (e.1 % 2 ^ 34), e.2)).filter fun e =>
    decide (x.base ≤ e.2.1) && decide (e.2.1 < x.base + x.size) && x.stackOf e.2.1 = e.1

/-- The copy's reads of an allocation on the stacks: codewords that can be corrected are (R314), and what the copy takes from one that
cannot be is a free value (log 15). -/
def State.readOut (s : State) (x : Alloc) : State :=
  (s.errorsOf x).foldl (fun s e =>
    if s.codewordOk e.1 e.2.2 then (s.dieShown e.1 e.2.1 e.2.2).dramCorrected e.1 e.2.1
    else { s with
      dev := Mem.write s.dev e.2.1 ((List.range 64).map fun k => Config.spoiledByte (e.2.1 + k) s.draws)
      draws := s.draws + 1 }) (s.copiedOut x)

/-- The bytes of an allocation go to its place in spill space and it switches there in one step (R334). What lies on a peer is kept at
its own address as well, where its reads and writes in place find it (R335). -/
def State.spillTo (s : State) (x : Alloc) (d : Dest) : State :=
  let s := s.readOut x
  let t : State :=
    if d < 2 ^ 56 then { s with
      host := Mem.puts (Mem.erase s.host d x.size) (Mem.moved s.dev x.base x.size d), dev := Mem.erase s.dev x.base x.size }
    else s.sendLink (.write (d - 2 ^ 56) x.base (Mem.read s.dev x.base x.size))
  ((({ t with fillDue := false }).moveAlloc x.base (Dest.lies d) []).spilled x d).showSpace

/-- A request for space that waits for a spill: its priority, stacks, size (R329 step 2). -/
abbrev Want := Nat × List Nat × Nat

/-- SPILL's effect: the allocation is the next victim of a waiting request, and its place is one that it may take. -/
def State.spillOne (s : State) (ws : List Want) (base : Nat) (d : Dest) : State :=
  match s.allocs.find? fun x => x.base = base with
  | none => s
  | some x =>
    let due := ws.any fun w => match (s.victims w.1 w.2.1).find? fun v => (s.spillPlace v).isSome with
      | some v => v.base = base
      | none => false
    let reach := if d < 2 ^ 56 then s.hostOpen else true
    if due && x.lies = .onStacks && s.destOk x.hint x.size d && reach then s.spillTo x d else s

/-! ### Consumers of a plan (R337, R338) -/

/-- The consumer that a plan's current phase gives a shard. -/
def State.planConsumer (s : State) (c shard : Nat) : Option Nat :=
  match Tab.find? s.plans c with
  | some p => if shard < p.s then p.entries[p.phase * p.s + shard]? else none
  | none => none

/-- The consumer that placement uses. -/
def State.consumerOf (s : State) (h : Hint) : Option Nat := if h.plan = 0 then some h.consumer else s.planConsumer h.plan h.shard

/-- Spilled allocations in the order of filling: highest priority first, then most recently accessed (R336). -/
def State.fillOrder (s : State) : List Alloc :=
  let after (x y : Alloc) : Bool := decide (y.hint.prio < x.hint.prio) || (x.hint.prio = y.hint.prio && decide (y.lastUse ≤ x.lastUse))
  let ins (l : List Alloc) (x : Alloc) : List Alloc := (l.takeWhile fun y => after y x) ++ x :: l.dropWhile fun y => after y x
  (s.allocs.filter fun x => match x.lies with | .host _ => true | .peer _ => true | _ => false).foldl ins []

/-- The stacks on which a spilled allocation finds room again. -/
def State.fillStacks (s : State) (x : Alloc) : Option (List Nat) :=
  let ls := s.chosen x.hint x.cons
  if s.roomOn ls x.size (x.f % max ls.length 1) then some ls else none

/-- A spilled allocation's bytes come back and it switches to the stacks; its place f in the interleave stays (log 15). -/
def State.fillOn (s : State) (x : Alloc) (ls : List Nat) : State :=
  let y : Alloc := { x with lies := .onStacks, stackList := ls, f := x.f % max ls.length 1 }
  let s := match x.lies with
    | .peer i => s.sendLink (.read i x.base x.size)
    | _ => s
  let s : State := { s with
    dev := match x.lies with
      | .host a => Mem.puts (Mem.erase s.dev x.base x.size) (Mem.moved s.host a x.size x.base)
      | _ => s.dev
    dramErr := (s.errorsOf y).foldl (fun t e => Tab.del t (codeKey e.1 e.2.1)) s.dramErr
    fillDue := true
    allocs := s.allocs.map fun z => if z.base = x.base then y else z }
  ((s.copiedIn y).bump (rk .PL_FILLS)).showSpace

/-- Can an allocation's bytes come back over the link it lies behind? -/
def State.fillReach (s : State) (x : Alloc) : Bool :=
  match x.lies with
  | .host _ => s.hostOpen
  | .peer i => s.reachable i
  | _ => false

/-- FILL (R336): with auto_fill, after a free or a fill, the first spilled allocation in order that finds room comes back. -/
def execFill (base : Nat) (s : State) : Res :=
  if !s.bit (rk .PL_CFG) 0 || !s.placement || !s.fillDue then .next s
  else
    match s.fillOrder.find? fun x => (s.fillStacks x).isSome && s.fillReach x with
    | none => .next s
    | some x =>
      match s.fillStacks x with
      | some ls => if x.base = base then .next (s.fillOn x ls) else .next s
      | none => .next s

/-! ### Pool homes (R331) -/

/-- Units of a pool: first and one past the last, the internal region left out (R242, R244). -/
def poolUnits (pool : Nat) : Nat × Nat := if pool = 1 then (0, 0x4000) else (0x4000, 0x6C00)

/-- Units of the home region of a pool; none where the region is off or empty. -/
def State.homeRegion (s : State) (pool : Nat) : Nat × Nat :=
  let k := rk (if pool = 1 then .PL_HOME_W else .PL_HOME_A)
  let p := poolUnits pool
  if s.bit k 31 then (max (s.fld k 0 15) p.1, min (s.fld k 16 15 + 1) p.2) else (0, 0)

/-- Is a unit of a basin free for a home? -/
def State.homeFree (s : State) (q u : Nat) : Bool :=
  s.allocs.all fun x => match x.home with
    | some (b, first, n, _) => b ≠ q || decide (u < first) || decide (first + n ≤ u)
    | none => true

/-- Free units of a basin's home region, ascending. -/
def State.homeUnits (s : State) (q pool : Nat) : List Nat :=
  let r := s.homeRegion pool
  ((List.range (r.2 - r.1)).map (r.1 + ·)).filter (s.homeFree q)

/-- The lowest run of `n` free units. -/
def State.homeRun (s : State) (q pool n : Nat) : Option Nat :=
  let r := s.homeRegion pool
  (s.homeUnits q pool).find? fun u => decide (u + n ≤ r.2) && (List.range n).all fun i => s.homeFree q (u + i)

/-- The lowest free window of a basin among 12 to 15. -/
def State.homeWindow (s : State) (q : Nat) : Option Nat :=
  [12, 13, 14, 15].find? fun k => !s.bit (rk .BS_WIN (s.physB q) k) 40

/-- The basin, first unit, units and window of a home for a consumer; none where no basin has room and a window. -/
def State.findHome (s : State) (cons pool bytes : Nat) : Option (Nat × Nat × Nat × Nat) :=
  let n := bytes / 256
  let fits (q : Nat) : Option (Nat × Nat × Nat × Nat) :=
    match s.homeRun q pool n, s.homeWindow q with
    | some u, some w => some (q, u, n, w)
    | _, _ => none
  let qs := (s.basinsOf treeDepth cons).foldl setIns []
  qs.foldl (fun m q =>
    match fits q, m with
    | none, _ => m
    | some x, none => some x
    | some x, some b => if (s.homeUnits b.1 pool).length < (s.homeUnits q pool).length then some x else some b) none

/-- A home's window opened with mask 0x3F (R251, R331). -/
def State.openHome (s : State) (h : Nat × Nat × Nat × Nat) : State :=
  s.setReg (rk .BS_WIN (s.physB h.1) h.2.2.2)
    (BitVec.ofNat 64 (h.2.1 + 2 ^ 16 * (h.2.1 + h.2.2.1 - 1) + 2 ^ 32 * 0x3F + 2 ^ 40 + 2 ^ 41))

/-- A home's window closed. -/
def State.closeHome (s : State) (h : Nat × Nat × Nat × Nat) : State :=
  s.setReg (rk .BS_WIN (s.physB h.1) h.2.2.2) (BitVec.ofNat 64 (2 ^ 41))

/-- Aperture address of a home (R321). -/
def homeAddr (h : Nat × Nat × Nat × Nat) : Nat := poolBase h.1 + 256 * h.2.1

/-! ### The patrol (R314 to R318) -/

/-- Every allocation with a byte on a stack is lost, and the stack leaves the ready state (R318). -/
def State.loseStack (s : State) (st : Nat) : State :=
  let s := (s.setFld (rk .DM_STATUS st) 20 1 1).setOwn (64 + st) false
  let s : State := { s with
    allocs := s.allocs.map fun x => if x.lies = .onStacks ∧ x.on st ≠ 0 then { x with lies := .lost } else x
    life := { s.life with stacksLost := satAdd 8 s.life.stacksLost 1 } }
  (s.settle.showSpace).raise 0x23 devHandle (payload [(24, 1, st)])

/-- A die that showed errors in more than 64 codewords: retired, or the stack is lost with a second (R316, R318). -/
def State.dieFails (s : State) (st d : Nat) : State :=
  let out := s.diesOut st
  if bitOf out d then s
  else
    let s := (s.mapAdd 5 st d).setFld (rk .DM_STATUS st) (3 + d) 1 1
    if out = 0 then
      { s with life := { s.life with dies := satAdd 8 s.life.dies 1 } }.raise 0x22 devHandle (payload [(24, 1, st), (25, 1, d)])
    else s.loseStack st

/-- Symbol errors of a codeword with more added: per die. -/
def addErrors (es : List (Nat × Nat)) (d n : Nat) : List (Nat × Nat) :=
  if es.any fun e => e.1 = d then es.map fun e => if e.1 = d then (d, e.2 + n) else e else es ++ [(d, n)]

/-- A codeword read by the patrol: corrected where it can be; its errors are shown. -/
def State.patrolWord (s : State) (st a : Nat) (es : List (Nat × Nat)) : State :=
  let s := s.dieShown st a es
  if s.codewordOk st es then s.dramCorrected st a else s

/-- The dies of a stack that showed errors in more than 64 codewords of the patrol period (R316). -/
def State.badDies (s : State) (st : Nat) : List Nat :=
  (List.range 5).filter fun d => decide (64 < (Tab.getD s.dieSeen (5 * st + d) []).length)

/-- DRAM_PATROL (R314 to R316): a pass over every codeword of a stack; `errors` are the symbol errors present since the last pass, as
(device address, die, symbols). The counts of the patrol period begin again. -/
def execDramPatrol (stack : Nat) (errors : List (Nat × Nat × Nat)) (s : State) : Res :=
  if !s.stackReady stack || s.fld (rk .DM_CFG stack) 4 8 = 0 then .next s
  else
    let new := errors.filter fun e => decide (e.1 < 2 ^ 40) && decide (e.2.1 < 5) && decide (0 < e.2.2)
    let s : State := { s with dramErr := new.foldl (fun t e =>
      Tab.put t (codeKey stack e.1) (addErrors (Tab.getD t (codeKey stack e.1) []) e.2.1 e.2.2)) s.dramErr }
    let s := (s.dramErr.filter fun e => e.1 / 2 ^ 34 = stack).foldl (fun s w => s.patrolWord stack (64 * (w.1 % 2 ^ 34)) w.2) s
    let s := s.bump (rk .DM_SCRUB_PASSES stack)
    let bad := s.badDies stack
    let s : State := { s with
      rowCorr := s.rowCorr.filter fun e => !(e.1 % 2 = 0 && e.1 / 2 / 2 ^ 27 = stack)
      dieSeen := s.dieSeen.filter fun e => e.1 / 5 ≠ stack }
    .next (bad.foldl (fun s d => s.dieFails stack d) s)

end Sys2Proof.Machine
end

