-- ==== Sys2Proof/Machine/Mailbox.lean ====
section
/-! DEFINITION. Mailboxes: when a command is due, the checks that every command passes, and answers (R358 to R362, R366, R382,
R481). -/

namespace Sys2Proof.Machine

/-- Field of `n` bytes at byte `o` of a mailbox's payload, as read at the start of its command. -/
def State.pay (s : State) (mb o n : Nat) : Nat := s.mbField mb (64 + o) n

/-- Bytes of a mailbox's payload, as read at the start of its command. -/
def State.payBytes (s : State) (mb o n : Nat) : List Byte := Mem.read s.mbReq (mbBase mb + 64 + o) n

/-- A mailbox whose command has been read and does not run yet. -/
def State.mbWaits (s : State) (mb : Nat) : Bool := s.inProgress mb && (Tab.find? s.mbRun mb).isNone

/-! ### Status codes (R361) -/

/-- SUCCESS. -/
def msOk : Nat := 0
/-- FEATURE_NOT_NEGOTIATED. -/
def msFeature : Nat := 0x1
/-- FIELD_RESERVED. -/
def msField : Nat := 0x2
/-- ADDR_INVALID. -/
def msAddr : Nat := 0x3
/-- TARGET_INVALID. -/
def msTarget : Nat := 0x4
/-- WRONG_MAILBOX. -/
def msWrong : Nat := 0x10
/-- NOT_READY. -/
def msNotReady : Nat := 0x11
/-- BAD_LENGTH. -/
def msLength : Nat := 0x12
/-- BUSY. -/
def msBusy : Nat := 0x13
/-- HELD. -/
def msHeld : Nat := 0x14
/-- NO_SPACE. -/
def msNoSpace : Nat := 0x15
/-- LIMIT. -/
def msLimit : Nat := 0x16
/-- NOT_FOUND. -/
def msNotFound : Nat := 0x17
/-- GROUP_DEPTH. -/
def msDepth : Nat := 0x18
/-- GROUP_CYCLE. -/
def msCycle : Nat := 0x19
/-- AUTH_FAILED. -/
def msAuth : Nat := 0x1A
/-- ROLLBACK_REFUSED. -/
def msRollback : Nat := 0x1B
/-- DEBUG_LOCKED. -/
def msDebug : Nat := 0x1C

/-! ### Commands -/

/-- A command of the table (R362): code, feature bit, request length, the payload bytes that the table names, and the offsets
of reserved values among them. -/
structure Cmd where
  code : Nat
  feat : Nat
  len : State → Nat → Nat
  named : State → Nat → List (Nat × Nat)
  bad : State → Nat → List Nat

/-- A command of fixed length without reserved values. -/
def Cmd.fixed (code feat len : Nat) (named : List (Nat × Nat)) : Cmd :=
  ⟨code, feat, fun _ _ => len, fun _ _ => named, fun _ _ => []⟩

/-- Offsets, in the mailbox, of reserved header values that are not 0. -/
def State.headerBad (s : State) (mb : Nat) : List Nat :=
  (if 8 ≤ s.mbField mb 16 1 then [16] else []) ++ ((List.range 47).map (17 + ·)).filter fun o => s.mbField mb o 1 ≠ 0

/-- Offsets, in the payload's 4,032 bytes, of unnamed bytes that are not 0 (R358, R362). -/
def State.strayBytes (s : State) (mb len : Nat) (named : List (Nat × Nat)) : List Nat :=
  (List.range (min len 4032)).filter fun o =>
    !(named.any fun r => decide (r.1 ≤ o) && decide (o < r.1 + r.2)) && s.pay mb o 1 ≠ 0

/-- The least of a list of offsets. -/
def firstBad (l : List Nat) : Option Nat := l.foldl (fun m x => match m with | none => some x | some y => some (min x y)) none

/-- Is a command one of Nimbus's (R362)? -/
def nimbusCmd (code : Nat) : Bool := decide (0x100 ≤ code)

/-- Is the processor that serves a command ready (R360, R481)? -/
def State.servant (s : State) (mb code : Nat) : Bool :=
  if nimbusCmd code then
    s.nimbus || (s.powerGood && s.bit (rk .NB_STATUS) 1 && (mb = 56 || mb = 64) && (code = 0x110 || code = 0x111))
  else s.zenith

/-- Steps 1 to 7 of R360. -/
def State.mbRefuse (s : State) (mb : Nat) (c : Cmd) : Option Err :=
  match firstBad (s.headerBad mb) with
  | some o => some (msField, o)
  | none =>
    if nimbusCmd c.code ≠ decide (56 ≤ mb) then some (msWrong, 0)
    else if !s.servant mb c.code then some (msNotReady, 0)
    else if !nimbusCmd c.code && c.code ≠ 1 && !s.helloDone then some (msFeature, 0)
    else if !nimbusCmd c.code && c.code ≠ 1 && !bitOf s.feat c.feat then some (msFeature, c.feat)
    else if s.mbField mb 12 2 ≠ c.len s mb then some (msLength, c.len s mb)
    else
      match firstBad (s.strayBytes mb (c.len s mb) (c.named s mb) ++ c.bad s mb) with
      | some o => some (msField, 64 + o)
      | none => none

/-- What a command's own step gives: its state and, where it ends at once, status, detail and response. -/
abbrev Ended := State × Option (Nat × Nat × List Byte)

/-- A command ended with a failure: no effect (R360). -/
def State.fails (s : State) (status detail : Nat) : Ended := (s, some (status, detail, []))

/-- A command ended with success. -/
def State.ends (s : State) (resp : List Byte := []) : Ended := (s, some (msOk, 0, resp))

/-- A command that takes time: it has started and MAILBOX_COMPLETION ends it. -/
def State.starts (s : State) (mb : Nat) (r : MbRun) : Ended := ({ s with mbRun := Tab.put s.mbRun mb r }, none)

/-- A row of the command table: where its command waits in the mailbox, the checks of R360, then its own step. `mine` tells
the rows of one code apart. -/
def State.mbRow (s : State) (mb : Nat) (c : Cmd) (mine : Bool) (f : State → Ended) : State :=
  if s.mbWaits mb && s.mbField mb 0 2 = c.code && mine then
    match s.mbRefuse mb c with
    | some e => s.mbAnswer mb e.1 e.2 []
    | none =>
      match f s with
      | (t, some a) => t.mbAnswer mb a.1 a.2.1 a.2.2
      | (t, none) => t
  else s

/-! ### Addresses -/

/-- The memory that a "host" address of a command names: the host's, or the site controller's (R362, R382). -/
def State.hostMem (s : State) (mb : Nat) : Mem := if mb < 64 then s.host else s.site

/-- Bytes written to a "host" address of a command. -/
def State.hostPut (s : State) (mb a : Nat) (bs : List Byte) : State :=
  if mb < 64 then s.send (.write a bs) else { s with site := Mem.write s.site a bs }

/-- Is a device address mapped over `n` bytes: no byte of it unmapped (R323)? -/
def State.mappedRange (s : State) (a n : Nat) : Bool :=
  decide (a < 2 ^ 56) && (pieces 64 a n).all fun p => s.loc p.1 ≠ .unmapped && s.loc (p.1 + p.2 - 1) ≠ .unmapped

/-- Offset, in the payload, of a reserved bit set in the device address at `o` (R274). -/
def State.payAddrBad (s : State) (mb o : Nat) : List Nat :=
  let x := addrReserved (s.pay mb o 8)
  if x = 0 then [] else [o + lowByte x]

/-- Does a device address of a command, of either form, reach `n` bytes that are all mapped (R273, R274, R361)? -/
def State.reaches (s : State) (a n : Nat) (aligned : Bool := false) : Bool :=
  s.addrOk a aligned && (isSlotRef a || s.mappedRange a n)

/-- Is a ring's base valid: on a 4 KiB boundary and, in device memory, mapped (R348, R354, R361)? -/
def State.baseOk (s : State) (device : Bool) (base n : Nat) : Bool :=
  base % 4096 = 0 && (!device || s.mappedRange base n)

end Sys2Proof.Machine
end

