-- ==== Sys2Proof/Machine/MbRings.lean ====
section
/-! DEFINITION. Mailbox commands of HELLO, rings and groups (R22, R23, R348, R353, R354, R356, R362, R364, R365, R370). -/

namespace Sys2Proof.Machine

/-! ### HELLO (R365, R366) -/

/-- The feature word that this release advertises. -/
def featAdvertised : Nat := 0xFFF

/-- The release and build of the running image's header (R479). -/
def State.firmware (s : State) : Nat × Nat :=
  match s.slotImage s.runningB with
  | some i => (i.release, i.build)
  | none => (0, 0)

/-- HELLO's table row. -/
def cmdHello : Cmd :=
  { Cmd.fixed 1 0 64 [(0, 2), (4, 4), (8, 16)] with bad := fun s mb => if s.pay mb 0 2 = 5 then [] else [0] }

/-- HELLO (R365). -/
def execHello (mb : Nat) (s : State) : Res :=
  .next (s.mbRow mb cmdHello true fun s =>
    if !s.rings.isEmpty || !s.cqs.isEmpty then s.fails msBusy 0
    else
      let f := (s.pay mb 8 16 &&& featAdvertised) ||| 1
      State.ends { s with feat := f, helloDone := true }
        (leBytes 2 5 ++ leBytes 2 s.firmware.1 ++ leBytes 4 s.firmware.2 ++ leBytes 16 featAdvertised ++ leBytes 16 f ++
          leBytes 4 65536 ++ leBytes 2 4096 ++ leBytes 2 2048 ++ leBytes 1 32 ++ leBytes 15 0))

/-! ### Rings -/

/-- RING_SETUP's table row. -/
def cmdRingSetup : Cmd :=
  { Cmd.fixed 2 0 16 [(0, 6), (8, 8)] with bad := fun s mb =>
      (if s.pay mb 2 1 < 4 then [] else [2]) ++ (if s.pay mb 5 1 < 2 then [] else [5]) ++
        (if s.pay mb 5 1 = 1 then s.payAddrBad mb 8 else []) }

/-- RING_SETUP (R348). -/
def execRingSetup (mb : Nat) (s : State) : Res :=
  .next (s.mbRow mb cmdRingSetup true fun s =>
    let k := s.pay mb 0 2
    let z := s.pay mb 4 1
    let dev := s.pay mb 5 1 = 1
    let base := s.pay mb 8 8
    if s.pay mb 3 1 = 0 then s.fails msLimit 67
    else if z < 4 || 16 < z then s.fails msLimit 68
    else if !s.baseOk dev base (128 * 2 ^ z) then s.fails msAddr 72
    else if (Tab.find? s.rings k).isSome then s.fails msBusy 0
    else
      let r : Ring := ⟨s.pay mb 2 1, s.pay mb 3 1, ⟨dev, base, z⟩, 0, 0, 0, false, false⟩
      State.ends ({ s with rings := Tab.put s.rings k r }).showRings)

/-- A descriptor that a teardown of its ring cancels: one not yet issued, or a BARRIER that has left its ring and not
completed (R353). -/
def Job.cancels (j : Job) (k : Nat) : Bool :=
  j.ring = k && j.origin = none && j.phase ≠ .done && j.phase ≠ .away &&
    (j.issued.isNone || j.phase = .barrierSent || j.phase = .barrierArrived)

/-- A ring torn down: its unissued descriptors end with CANCELLED, a BARRIER leaves its round (R353). -/
def State.closeRing (s : State) (k : Nat) : State × Nat :=
  let js := s.jobs.filter fun j => j.cancels k
  let s := { s with rings := Tab.modify s.rings k fun r => { r with closing := true } }
  (js.foldl (fun s j =>
    ({ s with rounds := Tab.modify s.rounds j.barrierId fun r => { r with arrivals := r.arrivals.filter (· ≠ j.jid) } }).failJob
      j stCancelled 0) s, js.length)

/-- RING_TEARDOWN (R353). -/
def execRingTeardown (mb : Nat) (s : State) : Res :=
  .next (s.mbRow mb (Cmd.fixed 3 0 4 [(0, 2)]) true fun s =>
    let k := s.pay mb 0 2
    match Tab.find? s.rings k with
    | none => s.fails msNotFound 0
    | some r =>
      if r.closing then s.fails msBusy 0
      else
        let c := s.closeRing k
        c.1.starts mb (.ringTeardown k c.2 ((r.tail + 2 ^ 32 - r.head) % 2 ^ 32)))

/-- CQ_SETUP's table row. -/
def cmdCqSetup : Cmd :=
  { Cmd.fixed 4 0 24 [(0, 16)] with bad := fun s mb =>
      (if s.pay mb 3 1 < 2 then [] else [3]) ++ if s.pay mb 3 1 = 1 then s.payAddrBad mb 8 else [] }

/-- CQ_SETUP (R354, R355). -/
def execCqSetup (mb : Nat) (s : State) : Res :=
  .next (s.mbRow mb cmdCqSetup true fun s =>
    let c := s.pay mb 0 2
    let z := s.pay mb 2 1
    let dev := s.pay mb 3 1 = 1
    let base := s.pay mb 8 8
    if 4096 ≤ c then s.fails msLimit 64
    else if z < 4 || 16 < z then s.fails msLimit 66
    else if 2046 ≤ s.pay mb 4 2 then s.fails msLimit 68
    else if !s.baseOk dev base (32 * 2 ^ z) then s.fails msAddr 72
    else if (Tab.find? s.cqs c).isSome then s.fails msBusy 0
    else
      let q : Cq := ⟨⟨dev, base, z⟩, s.pay mb 4 2, s.pay mb 6 1, s.pay mb 7 1, 0, 0, false⟩
      State.ends (({ s with cqs := Tab.put s.cqs c q }).setReg (rk .QE_CQ_HEAD 0 c) 0).showRings)

/-- CQ_TEARDOWN (R356): from its start the ring is absent for dispatch. -/
def execCqTeardown (mb : Nat) (s : State) : Res :=
  .next (s.mbRow mb (Cmd.fixed 5 0 4 [(0, 2)]) true fun s =>
    let c := s.pay mb 0 2
    match s.liveCq c with
    | none => s.fails msNotFound 0
    | some q => State.starts { s with cqs := Tab.put s.cqs c { q with closing := true } } mb (.cqTeardown c))

/-! ### The event ring -/

/-- EVENT_SETUP's table row. -/
def cmdEvent : Cmd :=
  { Cmd.fixed 6 0 16 [(0, 2), (8, 8)] with bad := fun s mb =>
      (if s.pay mb 1 1 < 2 then [] else [1]) ++ if s.pay mb 0 1 ≠ 0 && s.pay mb 1 1 = 1 then s.payAddrBad mb 8 else [] }

/-- EVENT_SETUP (R370). -/
def execEventSetup (mb : Nat) (s : State) : Res :=
  .next (s.mbRow mb cmdEvent (s.pay mb 0 1 ≠ 0) fun s =>
    let z := s.pay mb 0 1
    let dev := s.pay mb 1 1 = 1
    let base := s.pay mb 8 8
    if z < 4 || 16 < z then s.fails msLimit 64
    else if !s.baseOk dev base (64 * 2 ^ z) then s.fails msAddr 72
    else State.ends ((({ s with evRing := some ⟨⟨dev, base, z⟩, 0⟩ }).setReg (rk .QE_EV_HEAD) 0).showRings).lostPost)

/-- EVENT_TEARDOWN (R370): EVENT_SETUP with z = 0. -/
def execEventTeardown (mb : Nat) (s : State) : Res :=
  .next (s.mbRow mb cmdEvent (s.pay mb 0 1 = 0) fun s => State.ends ({ s with evRing := none }).showRings)

/-! ### Groups (R22, R364) -/

/-- A handle with this device's own cascade index written as 0xFF (R15). -/
def State.canonical (s : State) (h : Nat) : Nat := if s.isHere (h / 2 ^ 16) then hereHandle (h % 2 ^ 16) else h

/-- Is a handle valid under R14 and R15? A group of a peer is known to that peer only. -/
def State.handleOk (s : State) (h : Nat) : Bool :=
  let l := h % 2 ^ 16
  let i := h / 2 ^ 16
  match unitKind l with
  | none => false
  | some .group => if s.isHere i then (Tab.find? s.groups l).isSome else s.isPeer i
  | some _ => s.isHere i || s.isPeer i

/-- The depth of a group, `own` telling the device indices that name this device (R15, R22). A group of another member counts as one of
depth 1, which is all that this device knows of it (log 34); a handle that is no group has none. -/
def groupDepth (own : Nat → Bool) (gs : Tab (List Nat)) : Nat → Nat → Nat
  | 0, _ => 0
  | fuel + 1, h =>
    let l := h % 2 ^ 16
    if own (h / 2 ^ 16) ∧ 0x1000 ≤ l then
      match Tab.find? gs l with
      | some ms => 1 + (ms.map (groupDepth own gs fuel)).foldl max 0
      | none => 0
    else if 0x1000 ≤ l then 1
    else 0

/-- Is a group reached from a handle? -/
def groupReaches (own : Nat → Bool) (gs : Tab (List Nat)) (g : Nat) : Nat → Nat → Bool
  | 0, _ => false
  | fuel + 1, h =>
    own (h / 2 ^ 16) && (h % 2 ^ 16 = g || match Tab.find? gs (h % 2 ^ 16) with
      | some ms => ms.any (groupReaches own gs g fuel)
      | none => false)

/-- A group unbound: removed from every group that contains it; a group left without members is unbound in turn (R364). -/
def unbind (own : Nat → Bool) (gs : Tab (List Nat)) : Nat → Nat → Tab (List Nat)
  | 0, g => Tab.del gs g
  | fuel + 1, g =>
    let is (h : Nat) : Bool := own (h / 2 ^ 16) && h % 2 ^ 16 = g
    let had := (gs.filter fun e => e.2.any is).map Prod.fst
    let gs := (Tab.del gs g).map fun e => (e.1, e.2.filter fun h => !is h)
    had.foldl (fun gs k => if Tab.find? gs k = some [] then unbind own gs fuel k else gs) gs

/-- GROUP_BIND's table row. -/
def cmdGroup : Cmd where
  code := 7
  feat := 0
  len := fun s mb => 8 + 4 * s.pay mb 4 2
  named := fun s mb => [(0, 3), (4, 2)] ++ (List.range (s.pay mb 4 2)).map fun i => (8 + 4 * i, 3)
  bad := fun s mb => if s.pay mb 2 1 < 4 then [] else [2]

/-- The members a GROUP_BIND carries. -/
def State.groupArgs (s : State) (mb : Nat) : List Nat := (List.range (s.pay mb 4 2)).map fun i => s.pay mb (8 + 4 * i) 3

/-- The response: members now and depth. -/
def State.groupAnswer (s : State) (g : Nat) : List Byte :=
  leBytes 2 (Tab.getD s.groups g []).length ++ leBytes 1 (groupDepth s.isHere s.groups 18 (hereHandle g)) ++ leBytes 1 0

/-- A group bound to a member list, under the checks of R22. -/
def State.bindGroup (s : State) (g : Nat) (ms : List Nat) : Ended :=
  if 1006 < ms.length then s.fails msLimit 68
  else
    let gs := if ms.isEmpty then unbind s.isHere s.groups 32 g else Tab.put s.groups g ms
    if ms.any (groupReaches s.isHere s.groups g 32) then s.fails msCycle (hereHandle g)
    else if gs.any fun e => decide (16 < groupDepth s.isHere gs 18 (hereHandle e.1)) then s.fails msDepth (hereHandle g)
    else
      let t := { s with groups := gs }
      t.ends (t.groupAnswer g)

/-- The checks that all four actions share, then the action on the members given, each under its one name (R364). The group's
own handle counts as bound: it is R22 that refuses it. -/
def State.groupStep (s : State) (mb : Nat) (f : Nat → List Nat → Ended) : Ended :=
  let g := s.pay mb 0 2
  let hs := s.groupArgs mb
  if g < 0x1000 then s.fails msLimit 64
  else if 1006 < hs.length then s.fails msLimit 68
  else
    match ((List.range hs.length).zip hs).find? fun e => !(s.handleOk e.2 || s.canonical e.2 = hereHandle g) with
    | some e => s.fails msTarget (72 + 4 * e.1)
    | none => f g (hs.map s.canonical).eraseDups

/-- Is a GROUP_BIND's action the row's, or reserved? -/
def State.groupAction (s : State) (mb a : Nat) : Bool := s.pay mb 2 1 = a || decide (4 ≤ s.pay mb 2 1)

/-- GROUP_BIND_REPLACE (R364). -/
def execGroupBindReplace (mb : Nat) (s : State) : Res :=
  .next (s.mbRow mb cmdGroup (s.groupAction mb 0) fun s => s.groupStep mb fun g hs => s.bindGroup g hs)

/-- GROUP_BIND_ADD (R364). -/
def execGroupBindAdd (mb : Nat) (s : State) : Res :=
  .next (s.mbRow mb cmdGroup (s.groupAction mb 1) fun s => s.groupStep mb fun g hs =>
    s.bindGroup g (Tab.getD s.groups g [] ++ hs).eraseDups)

/-- GROUP_BIND_REMOVE (R364). -/
def execGroupBindRemove (mb : Nat) (s : State) : Res :=
  .next (s.mbRow mb cmdGroup (s.groupAction mb 2) fun s => s.groupStep mb fun g hs =>
    match Tab.find? s.groups g with
    | none => s.fails msNotFound 0
    | some ms => s.bindGroup g (ms.filter fun m => !hs.contains m))

/-- GROUP_BIND_UNBIND (R364). -/
def execGroupBindUnbind (mb : Nat) (s : State) : Res :=
  .next (s.mbRow mb cmdGroup (s.groupAction mb 3) fun s => s.groupStep mb fun g _ =>
    match Tab.find? s.groups g with
    | none => s.fails msNotFound 0
    | some _ => s.bindGroup g [])

end Sys2Proof.Machine
end

