-- ==== Sys2Proof/Machine/MbSpace.lean ====
section
/-! DEFINITION. Mailbox commands of the placement engine, with the spills that an allocation waits for (R325 to R338, R362). -/

namespace Sys2Proof.Machine

/-! ### TENSOR_ALLOC -/

/-- TENSOR_ALLOC's table row. -/
def cmdAlloc : Cmd :=
  { Cmd.fixed 0x10 0 40 [(0, 40)] with bad := fun s mb => (hintBad (s.payBytes mb 8 32)).map (8 + ·) }

/-- The size a request asks for, rounded up to 64 KiB (R325). -/
def State.allocSize (s : State) (mb : Nat) : Nat := roundUp (s.pay mb 0 8) 65536

/-- A request's own checks (R325, R326, R338, R361). -/
def State.allocCheck (s : State) (mb : Nat) (h : Hint) : Option Err :=
  if s.pay mb 0 8 = 0 then some (msLimit, 64)
  else match h.limit with
    | some o => some (msLimit, 72 + o)
    | none =>
      match s.consumerOf h with
      | none => some (msNotFound, 0)
      | some c =>
        if h.usesConsumer && !(s.handleOk c && s.isHere (c / 2 ^ 16)) then some (msTarget, 80)
        else if h.mode = 1 && (s.terracesOf treeDepth c).isEmpty then some (msNotReady, 0)
        else if 65536 ≤ s.allocs.length then some (msLimit, 64)
        else none

/-- Is an address free for an allocation (R320, R325)? -/
def State.addrFree (s : State) (a size : Nat) : Bool :=
  a % 65536 = 0 && decide (a + size ≤ 2 ^ 40) &&
  s.allocs.all fun x => decide (a + size ≤ x.base) || decide (x.base + x.size ≤ a)

/-- An allocation made, with its pool home (R331). An address that is not free is no choice of Genash's: the command still
waits (log 7). -/
def State.allocate (s : State) (h : Hint) (c size addr : Nat) (ls : List Nat) (f : Nat) (l : Lies) : Ended :=
  if !s.addrFree addr size then (s, none)
  else
    let home := if h.pool = 0 then none else s.findHome c h.pool h.poolBytes
    let t : State := { s with allocs := s.allocs ++ [⟨addr, size, h, ls, f, l, home, s.tk, c⟩] }
    let t := match home with | some x => t.openHome x | none => t
    t.showSpace.ends (leBytes 8 addr ++ leBytes 8 (match home with | some x => homeAddr x | none => 0))

/-- The steps of R327 and R329. Genash's own choices are the operands: the address, the place f of the interleave, and the
place in spill space. While a spill is to make room, the command waits for it. -/
def State.placeAlloc (s : State) (h : Hint) (c size addr f : Nat) (dest : Dest) : Ended :=
  let ls := s.chosen h c
  if s.roomAny ls size then
    if f < ls.length && s.roomOn ls size f then s.allocate h c size addr ls f .onStacks else (s, none)
  else
    match (if h.mode = 1 then s.nearStack c size (s.homeStacks c) else none) with
    | some st => s.allocate h c size addr [st] 0 .onStacks
    | none =>
      if s.spillMakesRoom ls size (s.victims h.prio ls) then (s, none)
      else if h.spill = 3 then s.fails msNoSpace 0
      else if s.destOk h size dest then s.allocate h c size addr ls f (Dest.lies dest)
      else if h.hostOk && (s.hostRun size).isSome then (s, none)
      else s.fails msNoSpace 0

/-- TENSOR_ALLOC (R325 to R331). -/
def execTensorAlloc (mb addr f spillTo : Nat) (s : State) : Res :=
  .next (s.mbRow mb cmdAlloc true fun s =>
    let h := Hint.ofBytes (s.payBytes mb 8 32)
    match s.allocCheck mb h with
    | some e => s.fails e.1 e.2
    | none => s.placeAlloc h ((s.consumerOf h).getD 0) (s.allocSize mb) addr f spillTo)

/-- A request for which spills are to make room: its stacks have none, no other stack takes it, and the spills suffice (R329). -/
def State.wantOf (s : State) (h : Hint) (c size : Nat) : Option Want :=
  let ls := s.chosen h c
  if s.roomAny ls size || (h.mode = 1 && (s.nearStack c size (s.homeStacks c)).isSome) ||
    !s.spillMakesRoom ls size (s.victims h.prio ls) then none
  else some (h.prio, ls, size)

/-- The requests of TENSOR_ALLOC commands that wait for a spill. -/
def State.wants (s : State) : List Want :=
  (List.range 56).filterMap fun mb =>
    if s.mbWaits mb && s.mbField mb 0 2 = 0x10 && (s.mbRefuse mb cmdAlloc).isNone then
      let h := Hint.ofBytes (s.payBytes mb 8 32)
      match s.allocCheck mb h with
      | some _ => none
      | none => s.wantOf h ((s.consumerOf h).getD 0) (s.allocSize mb)
    else none

/-- SPILL (R329, R333, R334): the next victim of a waiting allocation goes to spill space: granted host memory at `dest`, or
at 2^56 + i the peer i. -/
def execSpill (base dest : Nat) (s : State) : Res := .next (s.spillOne s.wants base dest)

/-! ### TENSOR_FREE -/

/-- An allocation freed (R330); memory that nothing has written again lists nothing (log 3). -/
def State.freeAlloc (s : State) (x : Alloc) : State :=
  let s : State := { s with
    allocs := s.allocs.filter fun y => y.base ≠ x.base
    dev := Mem.erase s.dev x.base x.size
    fillDue := true }
  let s := match x.home with | some h => s.closeHome h | none => s
  s.showSpace

/-- The allocation that a device address lies in, by either form of address. -/
def State.allocOf (s : State) (a : Nat) : Option Alloc :=
  if bitOf a 55 then (if s.isHere (bitsOf a 47 8) then s.allocAt (a % 2 ^ 47) else none)
  else if a < 2 ^ 47 then s.allocAt a
  else none

/-- TENSOR_FREE (R330). -/
def execTensorFree (mb : Nat) (s : State) : Res :=
  .next (s.mbRow mb { Cmd.fixed 0x11 0 8 [(0, 8)] with bad := fun s mb => s.payAddrBad mb 0 } true fun s =>
    match s.allocOf (s.pay mb 0 8) with
    | none => s.fails msNotFound 0
    | some x => if s.pay mb 0 8 % 2 ^ 47 = x.base then (s.freeAlloc x).ends else s.fails msNotFound 0)

/-! ### SPILL_GRANT -/

/-- Granted ranges with one more, joined where they touch. -/
def grantAdd (gs : List (Nat × Nat)) (a n : Nat) : List (Nat × Nat) :=
  if n = 0 then gs
  else
    let near := gs.filter fun g => decide (g.1 ≤ a + n) && decide (a ≤ g.1 + g.2)
    let lo := near.foldl (fun m g => min m g.1) a
    let hi := near.foldl (fun m g => max m (g.1 + g.2)) (a + n)
    (gs.filter fun g => !(decide (g.1 ≤ a + n) && decide (a ≤ g.1 + g.2))) ++ [(lo, hi - lo)]

/-- Granted ranges with one taken out. -/
def grantCut (gs : List (Nat × Nat)) (a n : Nat) : List (Nat × Nat) :=
  gs.flatMap fun g =>
    let l := min (g.1 + g.2) a - g.1
    let r := g.1 + g.2 - max g.1 (a + n)
    (if l = 0 then [] else [(g.1, l)]) ++ (if r = 0 then [] else [(g.1 + g.2 - r, r)])

/-- SPILL_GRANT's table row. -/
def cmdGrant : Cmd :=
  { Cmd.fixed 0x12 9 24 [(0, 17)] with bad := fun s mb => if s.pay mb 16 1 < 2 then [] else [16] }

/-- The checks that both actions share (R361, R362). -/
def State.grantCheck (s : State) (mb : Nat) : Option Err :=
  if s.pay mb 0 8 % 4096 ≠ 0 then some (msAddr, 64) else if s.pay mb 8 8 % 4096 ≠ 0 then some (msLimit, 72) else none

/-- The response: host bytes now granted. -/
def State.granted (s : State) : List Byte := leBytes 8 (s.grants.map Prod.snd).sum

/-- SPILL_GRANT (R333). -/
def execSpillGrant (mb : Nat) (s : State) : Res :=
  .next (s.mbRow mb cmdGrant (s.pay mb 16 1 = 0 || decide (2 ≤ s.pay mb 16 1)) fun s =>
    match s.grantCheck mb with
    | some e => s.fails e.1 e.2
    | none =>
      let t : State := { s with grants := grantAdd s.grants (s.pay mb 0 8) (s.pay mb 8 8) }
      t.ends t.granted)

/-- Spilled allocations in a range filled back, in the order of filling; none where one of them cannot be (R362). -/
def State.fillAll' (s : State) : List Alloc → Option State
  | [] => some s
  | x :: r =>
    match s.fillStacks x with
    | some ls => if s.fillReach x then (s.fillOn x ls).fillAll' r else none
    | none => none

/-- SPILL_REVOKE (R362). -/
def execSpillRevoke (mb : Nat) (s : State) : Res :=
  .next (s.mbRow mb cmdGrant (s.pay mb 16 1 = 1 || decide (2 ≤ s.pay mb 16 1)) fun s =>
    match s.grantCheck mb with
    | some e => s.fails e.1 e.2
    | none =>
      let a := s.pay mb 0 8
      let n := s.pay mb 8 8
      let xs := s.fillOrder.filter fun x => match x.lies with
        | .host h => decide (h < a + n) && decide (a < h + x.size)
        | _ => false
      match s.fillAll' xs with
      | none => s.fails msBusy 0
      | some t =>
        let t : State := { t with grants := grantCut t.grants a n }
        t.ends t.granted)

/-! ### PLACE_QUERY -/

/-- PLACE_QUERY's response for an allocation (R362). -/
def Alloc.answer (x : Alloc) : List Byte :=
  let st := match x.lies with | .onStacks => 0 | .host _ => 1 | .peer _ => 2 | .lost => 3
  let pi := match x.lies with | .peer i => i | _ => 0
  let used := (x.stackList.map fun i => 2 ^ i).sum
  leBytes 8 x.base ++ leBytes 8 x.size ++ leBytes 2 used ++ leBytes 1 x.f ++ leBytes 1 st ++ leBytes 1 pi ++
    leBytes 1 x.hint.prio ++ leBytes 1 x.hint.mode ++ leBytes 1 0 ++
    (match x.home with
      | some h => leBytes 8 (homeAddr h) ++ leBytes 3 (hereHandle (0x200 + h.1))
      | none => leBytes 11 0) ++ leBytes 5 0

/-- PLACE_QUERY (R362). -/
def execPlaceQuery (mb : Nat) (s : State) : Res :=
  .next (s.mbRow mb { Cmd.fixed 0x13 0 8 [(0, 8)] with bad := fun s mb => s.payAddrBad mb 0 } true fun s =>
    match s.allocOf (s.pay mb 0 8) with
    | none => s.fails msNotFound 0
    | some x => s.ends x.answer)

/-! ### PHASE_PLAN (R337) -/

/-- PHASE_PLAN's table row. -/
def cmdPlan : Cmd :=
  { Cmd.fixed 0x14 7 16 [(0, 3), (8, 8)] with bad := fun s mb =>
      (if s.pay mb 0 1 < 3 then [] else [0]) ++ if s.pay mb 0 1 = 0 then s.payAddrBad mb 8 else [] }

/-- Is a PHASE_PLAN's action the row's, or reserved? -/
def State.planAction (s : State) (mb a : Nat) : Bool := s.pay mb 0 1 = a || decide (3 ≤ s.pay mb 0 1)

/-- Zenith as a reader and writer of device memory (R246). -/
def zenithWho : Who := ⟨none, 5, devHandle, false, 0⟩

/-- The effects of a command's read of device memory: an error has no status of a mailbox's, so the command goes on
(log 16). -/
def State.mbReads (s : State) (ps : List Span) : State := (s.readSpans zenithWho ps 10).1

/-- PHASE_PLAN_DEFINE (R337). -/
def execPhasePlanDefine (mb : Nat) (s : State) : Res :=
  .next (s.mbRow mb cmdPlan (s.planAction mb 0) fun s =>
    let k := s.pay mb 1 1
    let a := s.pay mb 8 8
    if k = 0 || 15 < k then s.fails msLimit 65
    else if !s.reaches a 64 true then s.fails msAddr 72
    else
      let h := s.peek zenithWho a 0 64
      let p := fieldAt h 2 1
      let n := fieldAt h 4 2
      let u := s.mbReads [⟨a, 0, 64⟩]
      if fieldAt h 3 1 ≠ 0 || (h.drop 6).any (· ≠ 0) then u.fails msField 72
      else if fieldAt h 0 2 ≠ k || p = 0 || 8 < p || n = 0 || 256 < n then u.fails msLimit 72
      else if !s.reaches a (64 + 4 * p * n) true then u.fails msAddr 72
      else
        let es := (List.range (p * n)).map fun i => fieldAt (s.peek zenithWho a (64 + 4 * i) 4) 0 4
        let u := u.mbReads [⟨a, 64, 4 * p * n⟩]
        if es.any fun e => decide (2 ^ 24 ≤ e) then u.fails msField 72
        else State.ends { u with plans := Tab.put u.plans k ⟨p, n, 0, es⟩ })

/-- PHASE_PLAN_SELECT (R337). -/
def execPhasePlanSelect (mb : Nat) (s : State) : Res :=
  .next (s.mbRow mb cmdPlan (s.planAction mb 1) fun s =>
    let k := s.pay mb 1 1
    if k = 0 || 15 < k then s.fails msLimit 65
    else
      match Tab.find? s.plans k with
      | none => s.fails msNotFound 0
      | some p =>
        if p.p ≤ s.pay mb 2 1 then s.fails msLimit 66
        else State.ends { s with plans := Tab.put s.plans k { p with phase := s.pay mb 2 1 } })

/-- PHASE_PLAN_DROP (R337). -/
def execPhasePlanDrop (mb : Nat) (s : State) : Res :=
  .next (s.mbRow mb cmdPlan (s.planAction mb 2) fun s =>
    let k := s.pay mb 1 1
    if k = 0 || 15 < k then s.fails msLimit 65
    else if (Tab.find? s.plans k).isNone then s.fails msNotFound 0
    else State.ends { s with plans := Tab.del s.plans k })

end Sys2Proof.Machine
end

