-- ==== Sys2Proof/Machine/MbData.lean ====
section
/-! DEFINITION. Mailbox commands that move data: TENSOR_LOAD with its encoder, monitor snapshots and restores, and Basad
profiles (R144 to R155, R161, R208, R209, R236 to R238, R362, R363). -/

namespace Sys2Proof.Machine

/-! ### TENSOR_LOAD -/

/-- A TENSOR_LOAD names its source by a device address, and asks for the encoder. -/
def State.loadDev (s : State) (mb : Nat) : Bool := bitOf (s.pay mb 24 1) 0
/-- Does a TENSOR_LOAD ask for the encoder? -/
def State.loadEnc (s : State) (mb : Nat) : Bool := bitOf (s.pay mb 24 1) 1

/-- The source format of an encoding TENSOR_LOAD, in either role of R32. -/
def State.loadFmt (s : State) (mb : Nat) : Option Fmt :=
  match Fmt.ofCode .serial (s.pay mb 26 1) (s.pay mb 27 1) with
  | some f => some f
  | none => Fmt.ofCode .broad (s.pay mb 26 1) (s.pay mb 27 1)

/-- Reserved values of a TENSOR_LOAD. -/
def State.loadBad (s : State) (mb : Nat) : List Nat :=
  (if s.loadDev mb then s.payAddrBad mb 0 else []) ++ s.payAddrBad mb 8 ++
  (if 4 ≤ s.pay mb 24 1 then [24] else []) ++
  (if s.loadEnc mb then
    (if 4 ≤ s.pay mb 25 1 then [25] else []) ++
    (if 13 ≤ s.pay mb 26 1 then [26] else if (s.loadFmt mb).isNone then [27] else []) ++
    s.payAddrBad mb 40 ++ s.payAddrBad mb 48
  else [])

/-- TENSOR_LOAD's table row. -/
def cmdLoad : Cmd := { Cmd.fixed 0x15 0 56 [(0, 56)] with bad := State.loadBad }

/-- Is the source a host address while the host cannot be read: the command then waits for the link (log 16)? -/
def State.hostShut (s : State) (dev : Bool) : Bool := !dev && !s.hostOpen

/-- Bytes of a TENSOR_LOAD's source. -/
def State.loadBytes (s : State) (mb o n : Nat) : List Byte :=
  if s.loadDev mb then s.peek zenithWho (s.pay mb 0 8) o n else Mem.read s.host (s.pay mb 0 8 + o) n

/-- The effects of reading a TENSOR_LOAD's source. -/
def State.loadRead (s : State) (mb : Nat) (ps : List (Nat × Nat)) : State :=
  if s.loadDev mb then s.mbReads (ps.map fun p => ⟨s.pay mb 0 8, p.1, p.2⟩) else s

/-- TENSOR_LOAD without encoding (R363): the source's bytes to the destination. -/
def execTensorLoad (mb : Nat) (s : State) : Res :=
  .next (s.mbRow mb cmdLoad (!s.loadEnc mb) fun s =>
    let n := s.pay mb 16 8
    let dst := s.pay mb 8 8
    if s.loadDev mb && !s.reaches (s.pay mb 0 8) n then s.fails msAddr 64
    else if !s.reaches dst n then s.fails msAddr 72
    else if s.hostShut (s.loadDev mb) then (s, none)
    else
      let bs := s.loadBytes mb 0 n
      ((s.loadRead mb [(0, n)]).writeAt zenithWho dst 0 bs).ends (leBytes 8 n))

/-- Bytes that stand before a plain operand's rows: a CODE4 tensor begins with its codebook (R38). -/
def Fmt.lead : Fmt → Nat
  | .code4 => 64
  | _ => 0

/-- One tile the encoder forms: its header but for the addresses, its bitmap and its data. -/
structure NewTile where
  i : Nat
  j : Nat
  hdr : Hdr
  map : List Byte
  data : List Byte
  deriving DecidableEq, Repr

/-- Tile (i, j) of the source, encoded in the form asked for (R145, R150 to R155, R161). -/
def State.loadTile (s : State) (mb : Nat) (f : Fmt) (i j : Nat) : NewTile :=
  let e := s.pay mb 32 4
  let p := s.pay mb 36 4
  let rows := min 32 (s.pay mb 28 4 - 32 * i)
  let cols := min 128 (e - 128 * j)
  let book : List Int := if f.lead = 0 then [] else
    (List.range 16).map fun x => signed (fieldAt (s.loadBytes mb 0 32) (2 * x) 2 % 4096) 12
  let es : List (List Elt) := (List.range rows).map fun r =>
    ((f.rowElts (s.loadBytes mb (f.lead + (32 * i + r) * p) (f.rowBytes e)) e).drop (128 * j)).take cols
  let marks := es.map fun r => r.map fun x => !f.zeroElt book x
  let t := encodeTile f book (s.pay mb 25 1) cols es
  { i := i, j := j
    hdr := ⟨0, 0, t.2.2.length, if t.1 = 0 then f.rawRow else 0, t.1, t.2.1, rows, cols,
      (marks.map fun r => (r.filter id).length).sum⟩
    map := bitmapBytes marks, data := t.2.2 }

/-- The tiles of a source in row-major order, each with the place of its data: one after another, each on a 64-byte
boundary (R161). -/
def layTiles : List NewTile → Nat → List (Nat × NewTile)
  | [], _ => []
  | t :: r, o => (o, t) :: layTiles r (roundUp (o + t.data.length) 64)

/-- Every tile of an encoding TENSOR_LOAD, placed. -/
def State.loadTiles (s : State) (mb : Nat) (f : Fmt) : List (Nat × NewTile) :=
  let nj := ceilDiv (s.pay mb 32 4) 128
  layTiles ((List.range (ceilDiv (s.pay mb 28 4) 32 * nj)).map fun q => s.loadTile mb f (q / nj) (q % nj)) 0

/-- Tiles, bitmaps and headers written: data first, its header last. -/
def State.storeTiles (s : State) (f : Fmt) (dst dir map stride : Nat) (ts : List (Nat × NewTile)) : State :=
  ts.foldl (fun s x =>
    let t := x.2
    let n := t.i * stride + t.j
    let h : Hdr := { t.hdr with data := addrPlus dst x.1, bitmap := addrPlus map (512 * n) }
    s.writeAll zenithWho [(dst, x.1, t.data), (map, 512 * n, t.map), (dir, 64 * n, h.toBytes f t.i t.j)]) s

/-- TENSOR_LOAD with encoding (R161, R363). -/
def execTensorLoadEncode (mb : Nat) (s : State) : Res :=
  .next (s.mbRow mb cmdLoad (s.loadEnc mb) fun s =>
    match (s.loadFmt mb).filter Fmt.tileable with
    | none => s.fails msLimit 90
    | some f =>
      let e := s.pay mb 32 4
      let r := s.pay mb 28 4
      let p := s.pay mb 36 4
      let n := ceilDiv r 32 * ceilDiv e 128
      let dst := s.pay mb 8 8
      let dir := s.pay mb 40 8
      let map := s.pay mb 48 8
      if s.loadDev mb && !s.reaches (s.pay mb 0 8) (f.lead + (r - 1) * p + f.rowBytes e) then s.fails msAddr 64
      else if s.hostShut (s.loadDev mb) then (s, none)
      else
        let ts := s.loadTiles mb f
        let total := ts.foldl (fun m x => max m (x.1 + x.2.data.length)) 0
        if !s.reaches dst total true then s.fails msAddr 72
        else if !s.reaches dir (64 * n) true then s.fails msAddr 104
        else if !s.reaches map (512 * n) true then s.fails msAddr 112
        else
          let lead := if f.lead = 0 then [] else [(0, f.lead)]
          let s := s.loadRead mb (lead ++ (List.range r).map fun i => (f.lead + i * p, f.rowBytes e))
          (s.storeTiles f dst dir map (ceilDiv e 128) ts).ends (leBytes 8 (ts.map fun x => x.2.data.length).sum))

/-! ### Monitor slots -/

/-- A monitor command's reserved values: flags, and the address where it is a device's. -/
def State.monBad (s : State) (mb : Nat) : List Nat :=
  (if 4 ≤ s.pay mb 4 1 then [4] else []) ++ (if bitOf (s.pay mb 4 1) 1 then [] else s.payAddrBad mb 8)

/-- The range and the address of a monitor command (R361, R362, R363). -/
def State.monCheck (s : State) (mb : Nat) : Option Err :=
  let first := s.pay mb 0 2
  let count := s.pay mb 2 2
  if 4096 ≤ first then some (msLimit, 64)
  else if count = 0 || 4096 < first + count then some (msLimit, 66)
  else if !bitOf (s.pay mb 4 1) 1 && !s.reaches (s.pay mb 8 8) (128 * count) then some (msAddr, 72)
  else none

/-- Step closes written before a mailbox's command was received (R209). -/
def State.closeMark (s : State) (mb : Nat) : Nat := match Tab.find? s.mbMark mb with | some m => m.1 | none => 2 ^ 64

/-- MONITOR_SNAPSHOT (R208, R209): it waits for a step close of one of its slots that was written before it. -/
def execMonitorSnapshot (mb : Nat) (s : State) : Res :=
  .next (s.mbRow mb { Cmd.fixed 0x20 0 16 [(0, 5), (8, 8)] with bad := State.monBad } true fun s =>
    match s.monCheck mb with
    | some e => s.fails e.1 e.2
    | none =>
      let first := s.pay mb 0 2
      let count := s.pay mb 2 2
      let a := s.pay mb 8 8
      let mark := s.closeMark mb
      if s.closeCovers first count mark then (s, none)
      else
        let bs := s.monRecords first count mark
        let t := if bitOf (s.pay mb 4 1) 0 then s.monClear first count else s
        let t := if bitOf (s.pay mb 4 1) 1 then t.hostPut mb a bs else t.writeAt zenithWho a 0 bs
        t.ends (leBytes 8 s.now))

/-- MONITOR_RESTORE (R209): every record is checked before a slot changes. -/
def execMonitorRestore (mb : Nat) (s : State) : Res :=
  .next (s.mbRow mb { Cmd.fixed 0x21 0 16 [(0, 5), (8, 8)] with bad := State.monBad } true fun s =>
    match s.monCheck mb with
    | some e => s.fails e.1 e.2
    | none =>
      let first := s.pay mb 0 2
      let count := s.pay mb 2 2
      let a := s.pay mb 8 8
      let host := bitOf (s.pay mb 4 1) 1
      if s.closeCovers first count || s.hostShut (!host) then (s, none)
      else
        let bs := if host then Mem.read s.host a (128 * count) else s.peek zenithWho a 0 (128 * count)
        match recordsFault bs count with
        | some o => s.fails msLimit o
        | none =>
          let t := if host then s else s.mbReads [⟨a, 0, 128 * count⟩]
          (t.monSetAll first count bs).ends)

/-! ### Basad profiles -/

/-- EMU_BASAD_CFG's reserved values: action and profile, and for SET the fields it does not ignore (R237). -/
def State.basadBad (s : State) (mb : Nat) : List Nat :=
  (if 2 ≤ s.pay mb 0 1 then [0] else []) ++ (if 16 ≤ s.pay mb 1 1 then [1] else []) ++
  (if s.pay mb 0 1 = 1 then
    (if 2 ≤ s.pay mb 2 1 then [2] else []) ++
    ([6, 7, 10, 11, 15].filter fun o => s.pay mb o 1 ≠ 0) ++ (if 2 ≤ s.pay mb 14 1 then [14] else [])
  else [])

/-- EMU_BASAD_CFG's table row. -/
def cmdBasad : Cmd := { Cmd.fixed 0x22 1 64 [(0, 3), (4, 12)] with bad := State.basadBad }

/-- The response: the payload's layout with the profile's values (R237). -/
def Profile.answer (p : Profile) (action i : Nat) : List Byte :=
  leBytes 1 action ++ leBytes 1 i ++ leBytes 1 (flagNat p.unipolar) ++ leBytes 1 0 ++ leBytes 4 p.baseA ++ leBytes 4 p.baseW ++
    leBytes 4 p.baseS ++ leBytes 48 0

/-- Is an EMU_BASAD_CFG's action the row's, or reserved? -/
def State.basadAction (s : State) (mb a : Nat) : Bool := s.pay mb 0 1 = a || decide (2 ≤ s.pay mb 0 1)

/-- EMU_BASAD_CFG_GET (R237). -/
def execEmuBasadCfgGet (mb : Nat) (s : State) : Res :=
  .next (s.mbRow mb cmdBasad (s.basadAction mb 0) fun s =>
    s.ends ((s.profile (s.pay mb 1 1)).answer 0 (s.pay mb 1 1)))

/-- EMU_BASAD_CFG_SET (R237, R238). -/
def execEmuBasadCfgSet (mb : Nat) (s : State) : Res :=
  .next (s.mbRow mb cmdBasad (s.basadAction mb 1) fun s =>
    let i := s.pay mb 1 1
    let p : Profile := ⟨s.pay mb 2 1 = 1, s.pay mb 4 2, s.pay mb 8 2, s.pay mb 12 4 % 2 ^ 17⟩
    State.ends { s with profiles := Tab.put s.profiles i p } (p.answer 1 i))

end Sys2Proof.Machine
end

