-- ==== Sys2Proof/Machine/Cascade.lean ====
section
/-! DEFINITION. Rill ports, cascades and cascade operations, with descriptors carried between members (R16, R401 to R419,
R432). -/

namespace Sys2Proof.Machine

/-! ### The state of the membership (R408) -/

/-- A port entry names the tree parent and each tree child. -/
def Casc.treeOk (c : Casc) : Bool := c.near.all fun i => c.ports.contains (some i)

/-- Every tree neighbour has joined with values equal to the member's own, over a link that stands. -/
def State.agreed (s : State) (c : Casc) : Bool :=
  c.near.all fun i => (s.portTo c i).isSome && Tab.find? s.neigh i = some (c.master, c.n, c.bitmap)

/-- A tree neighbour has joined with other values. -/
def State.unequal (s : State) (c : Casc) : Bool :=
  c.near.any fun i => match Tab.find? s.neigh i with
    | some v => v ≠ (c.master, c.n, c.bitmap)
    | none => false

/-- LK_CASCADE of a member in a state. -/
def Casc.word (c : Casc) (st : Nat) : Nat :=
  st + 4 * flagNat (c.own = c.master) + 8 * flagNat c.distributor + 16 * flagNat c.treeOk + 2 ^ 8 * c.own + 2 ^ 16 * c.master +
    2 ^ 24 * c.n + 2 ^ 33 * c.rank + 2 ^ 41 * treeDepthOf 4 c.rank + 2 ^ 43 * c.parent.getD 0

/-- LK_CASCADE brought to a word, with EV_CASCADE_STATE where state or tree_ok changes; `who` is the neighbour concerned. -/
def State.setCascade (s : State) (w who : Nat) : State :=
  let k := rk .LK_CASCADE
  let old := (s.reg k).toNat
  let s := s.show k w
  if old % 4 = w % 4 ∧ bitOf old 4 = bitOf w 4 then s
  else s.raise 0x210 devHandle (payload [(24, 1, w % 4), (25, 1, bitsOf w 4 1), (26, 1, who)])

/-- The membership's state after a neighbour or a link changed. -/
def State.showCascade (s : State) (who : Nat) : State :=
  match s.casc with
  | none => s.setCascade 0 who
  | some c =>
    let old := s.fld (rk .LK_CASCADE) 0 2
    s.setCascade (c.word (if s.agreed c then 2 else if old ≤ 1 && !s.unequal c then 1 else 3)) who

/-! ### Ports (R403 to R405) -/

/-- Active lanes of a port: the first eight, all but the bad one with the spare in use, then the first four of what remains
(R404). -/
def Port.active (p : Port) : List Nat :=
  let good := (List.range 9).filter fun l => !p.badLanes.contains l
  if p.badLanes.isEmpty then List.range 8 else if p.narrowed then good.take 4 else good

/-- An operation that sent flits ends with LINK_ERROR (R405). -/
def State.linkError (s : State) (op : Nat) : State :=
  if op = 0 then s
  else s.whenJob (op - 1) (fun _ => true) fun j =>
    if j.phase = .done then (if j.status = 0 then s.putJob { j with status := stLink, detail := 0 } else s)
    else if j.phase = .away then s.endJob { j with unit := 0 } stLink 0
    else s.failJob j stLink 0

/-- A message that waited on a port that went down takes another route, in its class, or its operation ends (R405, R409). One of an operation
that has ended already is gone with it. -/
def State.resend (s : State) (gone : List Nat) (cls op : Nat) (msg : LinkMsg) : State :=
  if op ≠ 0 ∧ gone.contains op then s
  else match s.portOf cls msg with
    | some p => s.enqueue p cls op msg
    | none => s.linkError op

/-- Every port that does not retrain sends all that waits on it, class by class (R404, R411). -/
def State.sendWaiting (s : State) : State :=
  (List.range 16).foldl (fun s p =>
    if (s.rill p).retraining then s else s.flitsOut p (((s.rill p).waiting.map fun x => x.2.2.1).sum)) s

/-- A port goes down (R405). -/
def State.portDown (s : State) (p : Nat) : State :=
  if !s.portUp p then s
  else
    let r := s.rill p
    let k := rk .LK_PORT_STATUS 0 p
    let s := ((s.setFld k 0 5 0).setOwn (384 + p) false).settle.bump (rk .LK_DOWNS 0 p)
    let s := { s with
      life := { s.life with rillDowns := s.life.rillDowns.modify p fun n => satAdd 16 n 1 }
      ports := Tab.put s.ports p { r with unacked := [], fails := 0, retraining := false, waiting := [], run := 0, rxBad := 0 } }
    let s := s.raise 0x200 devHandle (payload [(24, 1, p), (25, 1, 0), (26, 1, 0)])
    let s := r.unacked.eraseDups.foldl State.linkError s
    let s := (r.waiting.foldl (fun s x => s.resend r.unacked x.1 x.2.1 x.2.2.2) s).sendWaiting
    s.showCascade ((s.casc.bind fun c => c.ports.getD p none).getD 0)

/-- Another cascade member's unit as a requester: writer class RILL (R246). -/
def rillWho (unit : Nat) : Who := ⟨none, 3, unit, false, 0⟩

/-- What a peer's allocation spilled into this device counts as: priority 7, spill 3, over all the stacks (R333). -/
def peerHint : Hint := ⟨0, 3, 7, 0, 0, 0, 0, 0, 0⟩

/-- A peer spills an allocation into this device, which places it as one of TENSOR_ALLOC, where PL_CFG lets peers do so and the
stacks have room (R333). -/
def State.takeSpill (s : State) (base size f : Nat) : State :=
  let ls := s.chosen peerHint 0
  if s.bit (rk .PL_CFG) 1 && size ≠ 0 && size % 65536 = 0 && decide (s.allocs.length < 65536) && decide (f < ls.length) &&
      s.roomOn ls size f && s.addrFree base size then
    ({ s with allocs := s.allocs ++ [(⟨base, size, peerHint, ls, f, .onStacks, none, s.tk, 0⟩ : Alloc)] } : State).showSpace
  else s

/-- What the message of a flit does here (R246, R258, R275, R320, R333, R402, R409, R412; log 17). A read finds zeros where only a
basin's owner reads (R321). -/
def State.bring (s : State) : Brought → State
  | .nothing => s
  | .token q n full claimed => if claimed then s.slotClaim q n else s.slotFill q n full
  | .write u a bs => s.writeAt (rillWho u) a 0 bs
  | .read m c a n =>
    let bs := s.peek (rillWho 0) a 0 n
    let r := s.readEach (rillWho 0) a n
    r.1.sendAs c (.found m c bs (r.2.any fun e => e.1 = stDramEcc)) 0
  | .spill b n f => s.takeSpill b n f
  | .spillEnd b => match s.allocs.find? fun x => x.base = b && x.hint = peerHint with | some x => s.freeAlloc x | none => s
  | .onward m c n => s.sendAs c (.onward m c n) 0

/-- A flit with a bad CRC: counted here and in the lifetime record, and discarded with all that it says (R403). -/
def State.flitBad (s : State) (p : Nat) : State :=
  let r := s.rill p
  { s.bump (rk .LK_CRC_ERRORS 0 p) with
    life := { s.life with rillCrc := s.life.rillCrc.modify p fun n => satAdd 32 n 1 }
    ports := Tab.put s.ports p { r with rxBad := r.rxBad + 1 } }

/-- FLIT_RECEIVE (R403): a flit with its CRC good or bad; with a good one the far end acknowledges `acked` flits and may ask for a
replay; then the message that ends with the flit takes effect. The port goes down as the sixteenth failure in a row comes, of a flit
sent or of one received. A port that retrains receives nothing (R404). -/
def execFlitReceive (port : Nat) (good : Bool) (acked : Nat) (tail : FlitEnd) (s : State) : Res :=
  if !s.portUp port || (s.rill port).retraining then .next s
  else if !good then .next (if 15 ≤ (s.rill port).rxBad then (s.flitBad port).portDown port else s.flitBad port)
  else
    let r := s.rill port
    let r := { r with unacked := r.unacked.drop acked, fails := if acked = 0 then r.fails else 0, rxBad := 0 }
    let s := { s.bump (rk .LK_RX_FLITS 0 port) with ports := Tab.put s.ports port r }
    if !tail.nak || r.unacked.isEmpty then .next (s.bring tail.brings)
    else
      let s := (s.bump (rk .LK_REPLAYS 0 port)).bump (rk .LK_TX_FLITS 0 port) r.unacked.length
      let s := { s with ports := Tab.put s.ports port { r with fails := r.fails + 1 } }
      .next ((if 16 ≤ r.fails + 1 then s.portDown port else s).bring tail.brings)

/-- Is a lane faulted: it has lost lock, or its corrected symbols in 1 ms exceed 2^e of LK_PORT_CFG (R404)? -/
def State.laneBad (s : State) (port : Nat) (symbols : Option Nat) : Bool :=
  match symbols with
  | none => true
  | some n => decide (2 ^ s.fld (rk .LK_PORT_CFG 0 port) 8 5 < n)

/-- LANE_FAULT (R404): a lane in use faults. -/
def execLaneFault (port : Nat) (lane : LaneState) (s : State) : Res :=
  let symbols := lane.symbols
  let lane := lane.lane
  let r := s.rill port
  if !s.portUp port || !r.active.contains lane || !s.laneBad port symbols then .next s
  else
    let spare := r.badLanes.isEmpty
    let q : Port := { r with badLanes := r.badLanes ++ [lane], narrowed := !spare, retraining := true }
    let s := { s.bump (rk .LK_LANE_FAULTS 0 port) with
      life := { s.life with rillFaults := s.life.rillFaults.modify port fun n => satAdd 16 n 1 }
      ports := Tab.put s.ports port q }
    let down := decide (q.active.length < 4)
    let s := s.raise 0x201 devHandle
      (payload [(24, 1, port), (25, 1, lane), (26, 1, if down then 2 else if spare then 0 else 1)])
    if down then .next (s.portDown port)
    else .next ((s.setFld (rk .LK_PORT_STATUS 0 port) 1 4 q.active.length).setFld (rk .LK_PORT_STATUS 0 port) 5 1 1)

/-- RETRAIN_DONE (R404): what the retrain held goes out, class by class (R411). -/
def execRetrainDone (port : Nat) (s : State) : Res :=
  let r := s.rill port
  if r.retraining then
    .next (State.flitsOut { s with ports := Tab.put s.ports port { r with retraining := false } } port
      (r.waiting.map fun x => x.2.2.1).sum)
  else .next s

/-- The join values sent to the neighbour on a port (R408). -/
def State.exchangeOn (s : State) (p : Nat) : State :=
  match s.casc with
  | some c => if (c.ports.getD p none).isSome then s.sendLink (.exchange p c.own c.master c.n c.bitmap) else s
  | none => s

/-- PORT_UP (R405): an enabled port trains as its far end answers, at the width its good lanes leave (R404). -/
def execPortUp (port : Nat) (s : State) : Res :=
  let r := s.rill port
  if s.portUp port || !s.bit (rk .LK_PORT_CFG 0 port) 0 || !s.powerGood || decide (r.active.length < 4) then .next s
  else
    let k := rk .LK_PORT_STATUS 0 port
    let s := ((s.setFld k 0 1 1).setFld k 1 4 r.active.length).setOwn (384 + port) true
    let s := s.settle.raise 0x200 devHandle (payload [(24, 1, port), (25, 1, 1), (26, 1, r.active.length)])
    let s := s.exchangeOn port
    .next (s.showCascade ((s.casc.bind fun c => c.ports.getD port none).getD 0))

/-! ### Joining and leaving (R406, R408, R410) -/

/-- The membership that a CASCADE_JOIN carries. -/
def State.cascArg (s : State) (mb : Nat) : Casc where
  own := s.pay mb 0 1
  master := s.pay mb 1 1
  n := s.pay mb 2 2
  bitmap := s.pay mb 4 32
  ports := (List.range 16).map fun p => let i := s.pay mb (36 + 2 * p) 2; if i = 0xFFFF then none else some i
  distributor := bitOf (s.pay mb 68 1) 0

/-- Offset of the first offending field (R406). -/
def Casc.bad (c : Casc) : Option Nat :=
  if !bitOf c.bitmap c.own then some 64
  else if !bitOf c.bitmap c.master then some 65
  else if ((List.range 256).filter (bitOf c.bitmap ·)).length ≠ c.n then some 66
  else
    ((List.range 16).find? fun p => match c.ports.getD p none with
      | none => false
      | some i => decide (256 ≤ i) || !bitOf c.bitmap i || i = c.own).map fun p => 100 + 2 * p

/-- LK_PORT_STATUS.peer and peer_valid of every port. -/
def State.showPeers (s : State) : State :=
  (List.range 16).foldl (fun s p =>
    let i := s.casc.bind fun c => c.ports.getD p none
    (s.setFld (rk .LK_PORT_STATUS 0 p) 6 8 (i.getD 0)).setFld (rk .LK_PORT_STATUS 0 p) 14 1 (flagNat i.isSome)) s

/-- CASCADE_JOIN (R406, R408). -/
def execCascadeJoin (mb : Nat) (s : State) : Res :=
  .next (s.mbRow mb { Cmd.fixed 0x30 8 72 [(0, 69)] with bad := fun s mb => if s.pay mb 68 1 < 2 then [] else [68] } true
    fun s =>
      let c := s.cascArg mb
      match c.bad with
      | some o => s.fails msLimit o
      | none =>
        if s.casc.isSome then s.fails msBusy 0
        else
          let s := ({ s with casc := some c, leaving := false }.showPeers).setCascade (c.word 1) 0
          let s := (List.range 16).foldl State.exchangeOn s
          let s := s.showCascade 0
          (if c.distributor then s.claimPps else s).ends)

/-- CASCADE_LEAVE (R410): it completes once no descriptor carried to or from the member is left. -/
def execCascadeLeave (mb : Nat) (s : State) : Res :=
  .next (s.mbRow mb (Cmd.fixed 0x31 8 0 []) true fun s =>
    if s.casc.isNone then s.fails msNotFound 0
    else if s.leaving then s.fails msBusy 0
    else State.starts { s with leaving := true } mb .cascadeLeave)

/-- Is no descriptor carried to or from the member left? -/
def State.leaveDue (s : State) : Bool := !s.jobs.any fun j => j.origin.isSome || j.member.isSome

/-- The member has left: its neighbours are told, and the distributor's PPS_OUT, held or waited for, is given up (R410, R438). -/
def State.left (s : State) : State :=
  match s.casc with
  | none => { s with leaving := false }
  | some c =>
    let s := (c.ports.filterMap id).eraseDups.foldl (fun s i => s.sendLink (.leave i)) s
    let s := ({ s with casc := none, leaving := false, ppsWait := false }.showPeers).showCascade 0
    if s.holder resPps = 6 then (s.freeHolder resPps).showPps else s

/-- CASCADE_EXCHANGE (R408): a neighbour's join values; N = 0 tells that it has left (log 17). -/
def execCascadeExchange (port index master n bitmap : Nat) (s : State) : Res :=
  if !s.portUp port then .next s
  else
    .next ({ s with neigh := if n = 0 then Tab.del s.neigh index else Tab.put s.neigh index (master, n, bitmap) }.showCascade index)

/-! ### Cascade operations (R413 to R417) -/

/-- LK_GOP_STATUS. -/
def gopReg : RegKey := rk .LK_GOP_STATUS

/-- Tree children, none on a module alone. -/
def State.kids (s : State) : List Nat := match s.casc with | some c => c.children | none => []

/-- An operation under way on this member. -/
def State.gopBegin (s : State) (op : Nat) : State :=
  { ((s.setFld gopReg 0 1 1).setFld gopReg 2 2 0).setFld gopReg 4 3 op with gop := some ⟨op, s.kids, 1, false, false, false⟩ }

/-- An operation started on the master: the sequence number counts (LK_GOP_STATUS.seq). -/
def State.gopStart (s : State) (op : Nat) : State :=
  let s := (s.setFld gopReg 16 16 (s.fld gopReg 16 16 + 1)).setFld gopReg 2 2 0
  (s.setFld gopReg 7 9 0).gopBegin op

/-- The operation's end on the master, with EV_GOP_DONE (R417). -/
def State.gopEnd (s : State) (op result answered : Nat) : State :=
  let s := { ((s.setFld gopReg 0 2 2).setFld gopReg 2 2 result).setFld gopReg 7 9 answered with gop := none }
  s.raise 0x220 devHandle (payload [(24, 1, op), (25, 1, result), (26, 2, answered), (28, 4, s.fld gopReg 16 16)])

/-- A snapshot's hold released here and below (R415). -/
def State.release (s : State) : State :=
  s.kids.foldl (fun s i => s.sendLink (.release i)) { s with holdPost := false }

/-- An operation whose own part and children are through: the master ends it, another member answers its parent and, but for
a snapshot that its release ends, is through too. -/
def State.gopCheck (s : State) : State :=
  match s.gop with
  | none => s
  | some g =>
    if !g.received || !g.waiting.isEmpty then s
    else if s.isMaster then
      let s := s.gopEnd g.op (if g.missing then 1 else 0) g.answered
      if g.op = 2 then s.release else s
    else
      let s := match s.casc.bind Casc.parent with
        | some p => s.sendLink (.answer p g.answered g.missing)
        | none => s
      if g.op = 2 then { s with gop := some { g with received := false } }
      else
        let s := { s.setFld gopReg 0 1 0 with gop := none }
        if g.op = 3 then s.setFld gopReg 1 1 1 else s

/-- The member's own part of the operation is through. -/
def State.gopOwn (s : State) : State :=
  match s.gop with
  | some g => { s with gop := some { g with received := true } }.gopCheck
  | none => s

/-- A write of LK_GOP_CTRL with an op (R417). -/
def State.gopWrite (s : State) (value : BitVec 32) (op : Nat) (ok : Bool) (run : State → State) : State :=
  if bitsOf value.toNat 0 3 ≠ op || !s.powerGood || s.bit gopReg 0 then s
  else if !s.isMaster || !ok then ((s.setFld gopReg 1 1 1).setFld gopReg 2 2 2).setFld gopReg 4 3 op
  else run s

/-- Genash as it carries out a broadcast: its pool writes are of class RILL (R246). -/
def gopWho : Who := ⟨none, 3, devHandle, false, 0⟩

/-- LK_GOP_LEN's bound (R414). -/
def State.gopLenOk (s : State) : Bool :=
  let b := s.fld (rk .LK_GOP_LEN) 0 32
  decide (64 ≤ b) && decide (b ≤ 2 ^ 30) && b % 64 = 0

/-- A broadcast's copy written on this member and sent to its children (R414). -/
def State.gopCopy (s : State) (bs : List Byte) : State :=
  let s := s.kids.foldl (fun s i => s.sendLink (.copy i bs)) s
  s.writeDev gopWho (s.fld (rk .LK_GOP_DST) 0 56) bs

/-- BROADCAST (R414, R417). -/
def execBroadcast (value : BitVec 32) (s : State) : Res :=
  .next (s.gopWrite value 1 s.gopLenOk fun s =>
    let a := s.fld (rk .LK_GOP_SRC) 0 56
    let n := s.fld (rk .LK_GOP_LEN) 0 32
    let bs := s.peek gopWho a 0 n
    let s := s.gopStart 1
    match s.readSpan gopWho ⟨a, 0, n⟩ with
    | (s, some _) => s.gopEnd 1 3 0
    | (s, none) => (s.gopCopy bs).gopOwn)

/-- A message of an operation reaches a member that is not the master. -/
def State.gopMember (s : State) : Bool := s.casc.isSome && !s.isMaster && s.powerGood

/-- BROADCAST_COPY (R414): the whole copy has been received. -/
def execBroadcastCopy (data : List Byte) (s : State) : Res :=
  if s.gopMember then .next (((s.gopBegin 1).gopCopy data).setFld gopReg 1 1 1).gopOwn else .next s

/-- A member's snapshot at one instant (R415): closes that cover its slots end first (R209); from here on no record is
posted. -/
def State.takeSnapshot (s : State) : State :=
  let k := rk .LK_SNAP_CFG
  let first := s.fld k 0 12
  let count := min (s.fld k 12 13) (4096 - first)
  let s := s.endCloses first count 17
  let bs := s.monRecords first count
  let s := if s.bit k 25 then s.monClear first count else s
  let s := if count = 0 then s else s.writeDev zenithWho (s.fld (rk .LK_SNAP_DST) 0 56) bs
  { s.setReg (rk .LK_SNAP_TIME) (BitVec.ofNat 64 s.now) with holdPost := true }

/-- The hold sent on and the member's snapshot taken. -/
def State.hold (s : State) : State := (s.kids.foldl (fun s i => s.sendLink (.hold i)) s).takeSnapshot.gopOwn

/-- SNAPSHOT (R415). -/
def execSnapshot (value : BitVec 32) (s : State) : Res := .next (s.gopWrite value 2 true fun s => (s.gopStart 2).hold)

/-- SNAPSHOT_HOLD (R415). -/
def execSnapshotHold (s : State) : Res := if s.gopMember then .next (s.gopBegin 2).hold else .next s

/-- SNAPSHOT_RELEASE (R415). -/
def execSnapshotRelease (s : State) : Res :=
  match s.gop with
  | some g =>
    if s.gopMember && g.op = 2 then .next { s.release.setFld gopReg 0 2 2 with gop := none } else .next s
  | none => .next s

/-- The reset sent on and applied (R416); it ends with COMPUTE_RESET_DONE. -/
def State.gopReset (s : State) : State := (s.kids.foldl (fun s i => s.sendLink (.reset i)) s).computeReset

/-- RESET (R416). -/
def execReset (value : BitVec 32) (s : State) : Res := .next (s.gopWrite value 3 true fun s => (s.gopStart 3).gopReset)

/-- RESET_MESSAGE (R416). -/
def execResetMessage (s : State) : Res := if s.gopMember then .next (s.gopBegin 3).gopReset else .next s

/-- COMPUTE_RESET_DONE (R432): the basins have passed their logic check. -/
def execComputeResetDone (s : State) : Res :=
  if !s.resetting then .next s
  else
    let s := { s with resetting := false, dispatchHeld := s.snapshotBegun }
    let s := s.settle.resetDone 3
    match s.gop with
    | some g => if g.op = 3 then .next s.gopOwn else .next s
    | none => .next s

/-- GOP_ANSWER (R417). -/
def execGopAnswer (child answered : Nat) (missing : Bool) (s : State) : Res :=
  match s.gop with
  | some g =>
    if g.waiting.contains child then
      let g := { g with
        waiting := g.waiting.filter (· ≠ child), answered := min (g.answered + answered) 256, missing := g.missing || missing }
      .next { s with gop := some g }.gopCheck
    else .next s
  | none => .next s

/-- GOP_ANSWER_TIMEOUT (R417): LK_GOP_CFG.timeout_us µs have passed; 0 is no limit. -/
def execGopAnswerTimeout (child : Nat) (s : State) : Res :=
  match s.gop with
  | some g =>
    if g.waiting.contains child && s.fld (rk .LK_GOP_CFG) 0 16 ≠ 0 then
      .next { s with gop := some { g with waiting := g.waiting.filter (· ≠ child), missing := true } }.gopCheck
    else .next s
  | none => .next s

/-! ### Descriptors carried over Rill (R16) -/

/-- The verdict on a descriptor that another member sent, for a unit: that member has made the checks before R20's but for the
group that only this one knows (R14, R288). -/
def State.remoteVerdict (s : State) (d : Desc) : Verdict :=
  if s.targetOk d.target then s.placing d else .reject (stTarget, 0)

/-- The unit that a carried descriptor comes for: the one that the sender's dispatcher chose where a group of the sender is its
target, which follows the 128 bytes, else its target (log 21). -/
def carriedTo (bytes : List Byte) : Nat :=
  if 131 ≤ bytes.length then fieldAt bytes 128 3 else (Desc.ofBytes bytes).target

/-- REMOTE_DESCRIPTOR (R16, R410): dispatched as if locally submitted; one that no unit has room for arrives later. -/
def execRemoteDescriptor (member ring seq cls : Nat) (bytes : List Byte) (s : State) : Res :=
  if !s.inCascade member || s.leaving || s.dispatchHeld then .next s
  else
    let d := Desc.ofBytes bytes
    .next (s.takeUp (Job.fresh s.nextJid ring seq cls (some member) d (bytes.take 128))
      (s.remoteVerdict { d with target := carriedTo bytes }))

/-- REMOTE_COMPLETION (R16, R290, R291): the record of a descriptor that ran on another member; it is posted here. -/
def execRemoteCompletion (jid : Nat) (bytes : List Byte) (s : State) : Res :=
  .next (s.whenJob jid (fun j => j.phase = .away) fun j =>
    s.endJob ({ j with block := bytes, flags := fieldAt bytes 2 2 }.mark flRemote true) (fieldAt bytes 0 2) (fieldAt bytes 20 4))

end Sys2Proof.Machine
end

