-- ==== Sys2Proof/Machine/RadioTime.lean ====
section
/-! DEFINITION. Radio time: the 10 MHz reference, 1PPS, TIME_SET, slot ticks and the 1PPS output (R394 to R400). -/

namespace Sys2Proof.Machine

/-! ### State and discipline (R394) -/

/-- TM_STATUS.state: 0 FREE, 1 LOCKING, 2 LOCKED, 3 HOLDOVER. -/
def State.timeState (s : State) : Nat := s.fld (rk .TM_STATUS) 0 2

/-- A TIME_SET has taken effect since reset. -/
def State.timeSet? (s : State) : Bool := s.bit (rk .TM_STATUS) 4

/-- READY_MAP bit 7's own condition: LOCKED, or HOLDOVER that has not expired, with time set. -/
def State.disciplined (s : State) : Bool :=
  s.timeSet? && (s.timeState = 2 || (s.timeState = 3 && !s.holdoverDone))

/-- READY_MAP bit 7 in line with the state. -/
def State.showTime (s : State) : State := (s.setOwn 7 s.disciplined).settle

/-- EV_TIME_STATE (R400). -/
def State.timeEvent (s : State) : State :=
  s.raise 0x120 devHandle (payload [(24, 1, s.timeState), (25, 1, s.fld (rk .TM_STATUS) 2 2)])

/-- The state changed, with its event. The timing PLL is locked to its source but while LOCKING (R394, R442, log 36). -/
def State.setTimeState (s : State) (n : Nat) : State :=
  (((s.setFld (rk .TM_STATUS) 0 2 n).setFld (rk .CK_STATUS) 1 1 (flagNat (n ≠ 1))).timeEvent).showTime

/-- REFERENCE_PRESENT (R394): the 10 MHz input appears. -/
def execReferencePresent (s : State) : Res :=
  if s.powerGood && !s.bit (rk .TM_STATUS) 2 then .next ((s.setFld (rk .TM_STATUS) 2 1 1).setTimeState 1) else .next s

/-- REFERENCE_LOCKED (R394): 2 s after the 10 MHz input appeared. -/
def execReferenceLocked (s : State) : Res :=
  if s.timeState = 1 then .next ({ s with onceLocked := true }.setTimeState 2) else .next s

/-- REFERENCE_LOST (R394): HOLDOVER once the input has been locked, FREE before. -/
def execReferenceLost (s : State) : Res :=
  if s.bit (rk .TM_STATUS) 2 then
    let s := s.setFld (rk .TM_STATUS) 2 1 0
    .next ({ s with holdoverDone := false }.setTimeState (if s.onceLocked then 3 else 0))
  else .next s

/-- HOLDOVER_EXPIRY (R394): TM_CFG.holdover_s seconds in HOLDOVER. -/
def execHoldoverExpiry (s : State) : Res :=
  if s.timeState = 3 && !s.holdoverDone then .next { s with holdoverDone := true }.showTime else .next s

/-! ### TIME_SET (R395) -/

/-- The counter set: slewing ends. -/
def State.setTime (s : State) (t : Nat) : State :=
  let s := { s with slew := 0 }.setReg (rk .TM_NOW) (BitVec.ofNat 64 t)
  (s.setFld (rk .TM_STATUS) 4 1 1).showSlot.showTime

/-- TIME_SET's table row. -/
def cmdTime : Cmd :=
  { Cmd.fixed 0x40 11 16 [(0, 9)] with bad := fun s mb => if s.pay mb 8 1 < 2 then [] else [8] }

/-- TIME_SET (R395): bit 0 of byte 8 is 0. -/
def execTimeSet (mb : Nat) (s : State) : Res :=
  .next (s.mbRow mb cmdTime (s.pay mb 8 1 ≠ 1) fun s =>
    let t := s.setTime (s.pay mb 0 8)
    t.ends (leBytes 8 t.now))

/-- TIME_SET_AT_PPS (R395): armed for the next 1PPS edge, at which it completes. -/
def execTimeSetAtPps (mb : Nat) (s : State) : Res :=
  .next (s.mbRow mb cmdTime (s.pay mb 8 1 ≠ 0) fun s =>
    if s.bit (rk .TM_STATUS) 3 then s.starts mb (.timeSetAtPps (s.pay mb 0 8)) else s.fails msNotReady 0)

/-! ### 1PPS (R396, R398) -/

/-- The signed distance in ns from the counter to the nearest whole second (R396). -/
def ppsError (t : Nat) : Int :=
  let r := t % 1000000000
  if r ≤ 500000000 then -(r : Int) else (1000000000 - r : Nat)

/-- TIME_SET commands armed for the edge, each with its mailbox and time. -/
def State.armedSets (s : State) : List (Nat × Nat) :=
  s.mbRun.filterMap fun e => match e.2 with
    | .timeSetAtPps t => some (e.1, t)
    | _ => none

/-- One armed TIME_SET applied and completed; one that an FLR let go answers nowhere. -/
def State.setAtEdge (s : State) (e : Nat × Nat) : State :=
  let t := s.setTime e.2
  if e.1 < 1000 then t.mbAnswer e.1 msOk 0 (leBytes 8 t.now) else { t with mbRun := Tab.del t.mbRun e.1 }

/-- PPS_EDGE (R395, R396): the pin is an input unless the timing distributor drives it (R398). -/
def execPpsEdge (s : State) : Res :=
  if s.bit (rk .TM_STATUS) 5 || !s.powerGood then .next s
  else
    let e := ppsError s.now
    let s := (s.bump (rk .TM_PPS_EDGES)).setFld (rk .TM_STATUS) 3 1 1
    let s := s.setReg (rk .TM_PPS_ERR) (BitVec.ofNat 64 (bitsOfInt e 32))
    let lim : Int := s.fld (rk .TM_CFG) 0 16
    let s :=
      if lim < e.natAbs then
        { s with slew := 0 }.raise 0x121 devHandle (payload [(24, 4, bitsOfInt e 32)])
      else if s.timeSet? && s.timeState = 2 then { s with slew := e }
      else s
    .next (s.armedSets.foldl State.setAtEdge s)

/-- PPS_MISSED (R396): no edge within 1,000,001 µs of the previous one. -/
def execPpsMissed (s : State) : Res :=
  if s.bit (rk .TM_STATUS) 3 then
    .next ((s.setFld (rk .TM_STATUS) 3 1 0).bump (rk .TM_PPS_MISSED)).timeEvent
  else .next s

/-- PPS_OUT_PULSE (R398): at each whole second of radio time the distributor that holds PPS_OUT drives a pulse while
LOCKED. -/
def execPpsOutPulse (s : State) : Res :=
  if s.holder resPps = 6 && s.timeState = 2 && s.timeSet? && s.now % 1000000000 = 0 then .next { s with ppsPulse := s.ppsPulse + 1 }
  else .next s

/-! ### Slot ticks (R397) -/

/-- The radio time at which the slot in progress started. -/
def State.slotStart (s : State) : Nat :=
  let mu := tickMu s.tickCfg
  let p := slotAt s.tickCfg s.now
  s.now - intoFrame (tickOffset s.tickCfg) s.now + symStart mu p.2.1 p.2.2.1 0

/-- SLOT_TICK (R397): TM_SLOT at the start of a slot, and EV_SLOT where TM_TICK_CFG.slot_events, as last taken up, is 1. -/
def execSlotTick (s : State) : Res :=
  if s.timeSet? && s.slotStart ≠ s.lastSlot then
    let p := slotAt s.tickCfg s.now
    let t0 := s.slotStart
    let s := { s with lastSlot := t0 }.showSlot
    .next (if bitOf s.tickCfg.toNat 3 then
      s.raise 0x130 devHandle (payload [(24, 1, p.1), (25, 1, p.2.1), (26, 1, p.2.2.1), (32, 8, t0)]) else s)
  else .next s

end Sys2Proof.Machine
end

