-- ==== Sys2Proof/Machine/Fronthaul.lean ====
section
/-! DEFINITION. The fronthaul block: flows and grids, frames, arrival windows, and the writing of symbols (R384 to R393, R400).
The places of eCPRI and O-RAN header fields that the spec names but does not lay out are the standards' (log 18). -/

namespace Sys2Proof.Machine

/-! ### Grids (R386, R387) -/

/-- Antennas rounded up to whole records of 12. -/
def Flow.records (f : Flow) : Nat := ceilDiv f.antennas 12

/-- Row pitch P of a grid (R387). -/
def Flow.pitch (f : Flow) : Nat := 64 * ceilDiv (f.records * (ceilDiv (1 + 3 * f.w) 4 * 4)) 64

/-- Bytes of a slot buffer. -/
def Flow.buffer (f : Flow) : Nat := 12 * f.symbols * f.rbs * f.pitch

/-- Bytes that a grid stages (R386). -/
def Flow.staging (f : Flow) : Nat := 96 * f.symbols * f.rbs * (12 * f.records)

/-- ns of one slot of a numerology. -/
def slotNs (mu : Nat) : Nat := 1000000 / 2 ^ mu

/-- What the flows of one grid agree in (R386). -/
def Flow.agrees (a b : Flow) : Bool :=
  a.w = b.w && a.mu = b.mu && a.rbs = b.rbs && a.symbols = b.symbols && a.early = b.early && a.late = b.late &&
    a.antennas = b.antennas

/-- A flow of a grid. -/
def State.gridFlows (s : State) (g : Nat) : List Flow := (s.flows.map Prod.snd).filter fun f => f.grid = g

/-- The grid of a destination. -/
def State.gridAt (s : State) (dst : Nat) : Option Nat := (List.find? (fun e : Nat × Grid => e.2.dst = dst) s.grids).map Prod.fst

/-- FH_GRID_g.active in line with the grid. -/
def State.showGrid (s : State) (g : Nat) : State := s.setFld (rk .FH_GRID 0 g) 63 1 (flagNat (Tab.find? s.grids g).isSome)

/-! ### Times (R389) -/

/-- The frame number nearest to the arrival whose low 8 bits are `id`; a tie goes to the lower. -/
def nearestFrame (off t id : Nat) : Nat :=
  let base := (t + 10000000 - off) / 10000000 - 1
  let r := (id + 256 - base % 256) % 256
  let hi := base + r
  if hi < 256 then hi
  else
    let lo := hi - 256
    if t - (off + 10000000 * lo) ≤ off + 10000000 * hi - t then lo else hi

/-- Slots of a frame. -/
def frameSlots (mu : Nat) : Nat := 10 * 2 ^ mu

/-- Start of a symbol of a full slot index (R387, R389). -/
def symTime (off mu n sym : Nat) : Nat :=
  let k := n % frameSlots mu
  off + 10000000 * (n / frameSlots mu) + symStart mu (k / 2 ^ mu) (k % 2 ^ mu) sym

/-- Frame offset in force. -/
def State.frameOff (s : State) : Nat := tickOffset s.tickCfg

/-- Has the counter passed the late bound of a symbol (R391)? -/
def State.symLate (s : State) (f : Flow) (n sym : Nat) : Bool := decide (symTime s.frameOff f.mu n sym + f.late < s.now)

/-- The last slot whose late bound for a symbol has passed; none before the first. -/
def State.lastLate (s : State) (f : Flow) (sym : Nat) : Option Nat :=
  let x := s.now - s.frameOff
  let n := x / 10000000 * frameSlots f.mu + x % 10000000 / 1000000 * 2 ^ f.mu + x % 1000000 / slotNs f.mu
  ([n + 1, n, n - 1, n - 2, n - 3].find? fun k => s.symLate f k sym)

/-! ### CELL_CONFIG -/

/-- The flow that a CELL_CONFIG SET names; its grid is still to be chosen. -/
def State.flowArg (s : State) (mb : Nat) : Flow :=
  ⟨s.pay mb 3 1, s.pay mb 4 2, s.pay mb 6 1, s.pay mb 7 1, s.pay mb 8 8, s.pay mb 16 2, s.pay mb 18 1, s.pay mb 20 4, s.pay mb 24 4,
    s.pay mb 28 2, s.pay mb 30 2, 0, none⟩

/-- CELL_CONFIG's table row. -/
def cmdCell : Cmd :=
  { Cmd.fixed 0x41 10 32 [(0, 19), (20, 12)] with bad := fun s mb =>
      (if s.pay mb 2 1 < 2 then [] else [2]) ++ if s.pay mb 2 1 = 0 then s.payAddrBad mb 8 else [] }

/-- A flow's staged samples discarded and the flow removed; a grid without flows ceases (R386). -/
def State.dropFlow (s : State) (k : Nat) : State :=
  match Tab.find? s.flows k with
  | none => s
  | some f =>
    let s := { s with flows := Tab.del s.flows k }
    if (s.gridFlows f.grid).isEmpty then
      let s := match Tab.find? s.grids f.grid, s.slotOf f.dst with
        | some g, some c => if g.claim.isSome then s.slotFill c.1 c.2 false else s
        | _, _ => s
      { s with grids := Tab.del s.grids f.grid }.showGrid f.grid
    else
      { s with grids := Tab.modify s.grids f.grid fun g => { g with staged := g.staged.filter fun p => p.ant ≠ f.antenna } }

/-- Ranges of a SET (R361, R362, R386). -/
def State.cellLimit (s : State) (mb : Nat) : Option Err :=
  let f := s.flowArg mb
  if 1024 ≤ s.pay mb 0 2 then some (msLimit, 64)
  else if 2 ≤ f.port then some (msLimit, 67)
  else if f.w = 0 || 16 < f.w then some (msLimit, 70)
  else if 4 < f.mu then some (msLimit, 71)
  else if f.rbs = 0 || 273 < f.rbs then some (msLimit, 80)
  else if f.symbols = 0 || 14 < f.symbols then some (msLimit, 82)
  else if f.late < f.early || slotNs f.mu < f.late then some (msLimit, 88)
  else if f.antennas < f.antenna + 1 then some (msLimit, 92)
  else if !s.reaches f.dst (2 * f.buffer) true then some (msAddr, 72)
  else none

/-- Does a SET clash with the other flows (R386)? -/
def State.cellBusy (s : State) (f : Flow) : Bool :=
  s.flows.any fun e =>
    (e.2.port = f.port && e.2.eaxc = f.eaxc) || (e.2.dst = f.dst && (!e.2.agrees f || e.2.antenna = f.antenna))

/-- The grid a flow joins, or a new one: the lowest free number. -/
def State.gridFor (s : State) (dst : Nat) : Option Nat :=
  match s.gridAt dst with
  | some g => some g
  | none => (List.range 64).find? fun g => (Tab.find? s.grids g).isNone

/-- A new grid: symbols whose late bound has passed count as past. -/
def State.newGrid (s : State) (g : Nat) (f : Flow) : State :=
  let past := if s.timeSet? then (List.range f.symbols).filterMap fun y => (s.lastLate f y).map fun n => (n, y) else []
  let s := { s with grids := Tab.put s.grids g ⟨f.dst, [], past, none, []⟩ }
  (s.setReg (rk .FH_GRID 0 g) 0).setReg (rk .FH_GRID_DST 0 g) (BitVec.ofNat 64 f.dst)

/-- CELL_CONFIG_SET (R386): a flow that exists is replaced. -/
def execCellConfigSet (mb : Nat) (s : State) : Res :=
  .next (s.mbRow mb cmdCell (s.pay mb 2 1 ≠ 1) fun s =>
    match s.cellLimit mb with
    | some e => s.fails e.1 e.2
    | none =>
      let k := s.pay mb 0 2
      let f := s.flowArg mb
      let t := s.dropFlow k
      if t.cellBusy f then s.fails msBusy 0
      else
        match t.gridFor f.dst with
        | none => s.fails msLimit 72
        | some g =>
          let fresh := (Tab.find? t.grids g).isNone
          let sum := (t.grids.map fun e => match t.gridFlows e.1 with | x :: _ => x.staging | [] => 0).sum
          if fresh && decide (2 ^ 28 < sum + f.staging) then s.fails msLimit 72
          else
            let t := if fresh then t.newGrid g f else t
            ({ t with flows := Tab.put t.flows k { f with grid := g } }.showGrid g).ends)

/-- CELL_CONFIG_CLEAR (R386). -/
def execCellConfigClear (mb : Nat) (s : State) : Res :=
  .next (s.mbRow mb cmdCell (s.pay mb 2 1 ≠ 0) fun s =>
    if 1024 ≤ s.pay mb 0 2 then s.fails msLimit 64 else (s.dropFlow (s.pay mb 0 2)).ends)

/-! ### Frames (R384, R385) -/

/-- A number of `n` bytes in wire order at byte `o`. -/
def beAt (bs : List Byte) (o n : Nat) : Nat := ((bs.drop o).take n).foldl (fun a b => 256 * a + b.toNat) 0

/-- One section of a U-plane message: its symbol's increments so far, first PRB, PRBs, wire width, and its PRBs' bytes. -/
structure Sect where
  inc : Nat
  start : Nat
  count : Nat
  width : Nat
  data : List Byte
  deriving DecidableEq, Repr

/-- Bytes of one PRB on the wire: its exponent byte and 24 integers of `w` bits. -/
def prbBytes (w : Nat) : Nat := 1 + 3 * w

/-- The sections of a message's body; none where check 2 fails. `flow` gives the resource blocks that a count of 0 stands
for, and the width under static compression. -/
def sections (static : Bool) (flow : Nat × Nat) : Nat → Nat → List Byte → Option (List Sect)
  | 0, _, _ => none
  | fuel + 1, inc, bs =>
    if bs.isEmpty then some []
    else
      let h := beAt bs 0 4
      let rb := bitOf h 19
      let inc := inc + bitsOf h 18 1
      let n := if h % 256 = 0 then flow.1 else h % 256
      let c := beAt bs 4 1
      let hdr := if static then 4 else 6
      let w := if static then flow.2 else if c / 16 = 0 then 16 else c / 16
      let len := n * prbBytes w
      if rb || (!static && c % 16 ≠ 1) || bs.length < hdr + len then none
      else (sections static flow fuel inc (bs.drop (hdr + len))).map (⟨inc, bitsOf h 8 10, n, w, (bs.drop hdr).take len⟩ :: ·)

/-- Does a section of the body of a message that no flow takes fail check 2? Its lengths follow from udCompHdr and a numPrb that is
not 0; the sections past one whose length no flow tells are not looked at (log 18). -/
def strayBad (static : Bool) : Nat → List Byte → Bool
  | 0, _ => false
  | fuel + 1, bs =>
    if bs.isEmpty then false
    else
      let h := beAt bs 0 4
      let c := beAt bs 4 1
      let len := 6 + h % 256 * prbBytes (if c / 16 = 0 then 16 else c / 16)
      if bitOf h 19 then true
      else if static then false
      else if c % 16 ≠ 1 then true
      else if h % 256 = 0 then false
      else if bs.length < len then true
      else strayBad static fuel (bs.drop len)

/-- What a U-plane frame says: eAxC id, sequence id, frame, subframe, slot, symbol, and the body of its sections. -/
structure UMsg where
  eaxc : Nat
  seq : Nat
  frame : Nat
  subframe : Nat
  slot : Nat
  sym : Nat
  body : List Byte
  deriving DecidableEq, Repr

/-- Check 2 of R385 on a frame's headers. -/
def parseFrame (mac : Nat) (bs : List Byte) : Option UMsg :=
  let o := if beAt bs 12 2 = 0x8100 then 18 else 14
  let size := beAt bs (o + 2) 2
  let b0 := beAt bs o 1
  let u := o + 8
  let ids := beAt bs (u + 1) 3
  let m : UMsg := ⟨beAt bs (o + 4) 2, beAt bs (o + 6) 1, ids / 2 ^ 16, bitsOf ids 12 4, bitsOf ids 6 6, ids % 64,
    (bs.drop (u + 4)).take (size - 8)⟩
  if decide (9216 < bs.length) || beAt bs 0 6 ≠ mac || beAt bs (o - 2) 2 ≠ 0xAEFE || b0 / 16 ≠ 1 || b0 % 2 ≠ 0 ||
      beAt bs (o + 1) 1 ≠ 0 || !bitOf (beAt bs (o + 7) 1) 7 || decide (size < 8) || decide (bs.length < o + 4 + size) ||
      beAt bs u 1 / 16 ≠ 1 || decide (9 < m.subframe) || decide (13 < m.sym) then none
  else some m

/-- Bits `[w]` of a wire string from bit `i`, most significant first, as a two's-complement integer. -/
def wireInt (bs : List Byte) (i w : Nat) : Int :=
  let b := (bs.drop (i / 8)).take 4
  let x := beAt b 0 4 * 2 ^ (8 * (4 - b.length))
  let v := x / 2 ^ (32 - i % 8 - w) % 2 ^ w
  if v < 2 ^ (w - 1) then v else (v : Int) - 2 ^ w

/-- The PRBs that a section places for a flow: those below its resource blocks. -/
def Sect.prbs (x : Sect) (f : Flow) (slot sym : Nat) : List Prb :=
  if f.symbols ≤ sym + x.inc then []
  else
    ((List.range x.count).filter fun i => decide (x.start + i < f.rbs)).map fun i =>
      let b := (x.data.drop (i * prbBytes x.width)).take (prbBytes x.width)
      ⟨slot, sym + x.inc, f.antenna, x.start + i, beAt b 0 1 % 16,
        (List.range 24).map fun k => wireInt (b.drop 1) (k * x.width) x.width⟩

/-- PRBs staged: a later one for the same place replaces an earlier; none for a symbol already written. -/
def Grid.stage (g : Grid) (ps : List Prb) : Grid :=
  let ps := ps.filter fun p => !g.written.contains (p.slot, p.sym)
  { g with staged := (g.staged.filter fun q => !ps.any fun p =>
      p.slot = q.slot && p.sym = q.sym && p.ant = q.ant && p.prb = q.prb) ++ ps }

/-- The missing sequence values that a message of a flow shows (R385). -/
def Flow.gap (f : Flow) (seq : Nat) : Nat := match f.lastSeq with | none => 0 | some l => (seq + 511 - l) % 256

/-- A message of flow `k` after check 3: its window, its symbol, and its sections placed. -/
def State.takeMessage (s : State) (p k : Nat) (f : Flow) (m : UMsg) (xs : List Sect) : State :=
  let s := (s.bump (rk .FH_SEQ_GAPS 0 p) (f.gap m.seq))
  let s := { s with flows := Tab.put s.flows k { f with lastSeq := some m.seq } }
  let n := nearestFrame s.frameOff s.now m.frame * frameSlots f.mu + m.subframe * 2 ^ f.mu + m.slot
  let t := symTime s.frameOff f.mu n m.sym
  if s.now < t + f.early then s.bump (rk .FH_DROP_EARLY 0 p)
  else if t + f.late < s.now then s.bump (rk .FH_DROP_LATE 0 p)
  else
    match Tab.find? s.grids f.grid with
    | none => s
    | some g =>
      if g.written.contains (n, m.sym) then s.bump (rk .FH_DROP_DUP 0 p)
      else { s with grids := Tab.put s.grids f.grid (g.stage (xs.flatMap fun x => x.prbs f n m.sym)) }

/-- FRAME_RECEIVE (R385, R386, R390, R393): a port that is up and enabled receives a frame whole. -/
def execFrameReceive (port : Nat) (fcsOk : Bool) (data : List Byte) (s : State) : Res :=
  let cfg := rk .FH_PORT_CFG 0 port
  if !(s.bit cfg 48 && s.bit (rk .FH_PORT_STATUS 0 port) 0) then .next s
  else
    let s := s.bump (rk .FH_RX_FRAMES 0 port)
    if !fcsOk then .next (s.bump (rk .FH_DROP_FCS 0 port))
    else
      match parseFrame (s.fld cfg 0 48) data with
      | none => .next (s.bump (rk .FH_DROP_OTHER 0 port))
      | some m =>
        let hit := List.find? (fun e : Nat × Flow => e.2.port = port && e.2.eaxc = m.eaxc) s.flows
        let static := s.bit cfg 49
        match hit with
        | none =>
          let bad := strayBad static (m.body.length + 1) m.body
          .next (s.bump (rk (if bad then .FH_DROP_OTHER else .FH_DROP_NOFLOW) 0 port))
        | some e =>
          match sections static (e.2.rbs, e.2.w) (m.body.length + 1) 0 m.body with
          | none => .next (s.bump (rk .FH_DROP_OTHER 0 port))
          | some xs =>
            if 2 ^ e.2.mu ≤ m.slot then .next (s.bump (rk .FH_DROP_OTHER 0 port))
            else .next (s.takeMessage port e.1 e.2 m xs)

/-! ### Symbols written (R388, R391, R392) -/

/-- `n · 2^k` rounded half to even. -/
def rneShift (n k : Int) : Int := Num.round (Num.shift (Num.ofInt n) k)

/-- `align_record` of R388 on pairs of a wire integer and its exponent: the stored values, the exponent, and how many were
clamped. -/
def alignRecord (xs : List (Int × Nat)) (w : Nat) : List Int × Nat × Nat :=
  let lo : Int := -(2 ^ (w - 1) : Nat)
  let hi : Int := (2 ^ (w - 1) : Nat) - 1
  let form (e : Nat) : List Int := xs.map fun x => rneShift x.1 ((x.2 : Int) - e)
  match (List.range 16).find? fun e => (form e).all fun v => decide (lo ≤ v) && decide (v ≤ hi) with
  | some e => (form e, e, 0)
  | none =>
    let v := form 15
    (v.map fun x => satI x lo hi, 15, (v.filter fun x => decide (x < lo) || decide (hi < x)).length)

/-- One stored record: its bytes, its clamps and its flushes. -/
def storedRecord (xs : List (Int × Nat)) (w : Nat) : List Byte × Nat × Nat :=
  let a := alignRecord xs w
  let b := leBytes 1 a.2.1 ++ packBits w (a.1.map fun v => bitsOfInt v w)
  (b ++ List.replicate (ceilDiv (1 + 3 * w) 4 * 4 - b.length) 0, a.2.2,
    ((xs.zip a.1).filter fun p => p.1.1 ≠ 0 && p.2 = 0).length)

/-- The 12 samples of a record: antennas 12q to 12q + 11 at subcarrier `k` of a PRB. -/
def recordSamples (ps : List Prb) (q prb k : Nat) : List (Int × Nat) :=
  (List.range 12).flatMap fun i =>
    match ps.find? fun p => p.ant = 12 * q + i && p.prb = prb with
    | some p => [(p.iq.getD (2 * k) 0, p.e), (p.iq.getD (2 * k + 1) 0, p.e)]
    | none => [(0, 0), (0, 0)]

/-- One row of a grid: Q records, padded to the pitch. -/
def gridRow (f : Flow) (ps : List Prb) (prb k : Nat) : List Byte × Nat × Nat :=
  let rs := (List.range f.records).map fun q => storedRecord (recordSamples ps q prb k) f.w
  let b := rs.flatMap Prod.fst
  (b ++ List.replicate (f.pitch - b.length) 0, (rs.map fun r => r.2.1).sum, (rs.map fun r => r.2.2).sum)

/-- The fronthaul block as a writer (R246, R392). -/
def frontWho : Who := ⟨none, 4, devHandle, false, 0⟩

/-- A symbol's rows written (R387, R388). -/
def State.writeRows (s : State) (f : Flow) (ps : List Prb) (n sym : Nat) : State :=
  let base := if isSlotRef f.dst then 0 else n % 2 * f.buffer
  (List.range (12 * f.rbs)).foldl (fun s i =>
    let r := gridRow f ps (i / 12) (i % 12)
    let s := s.writeAt frontWho f.dst (base + (sym * 12 * f.rbs + i) * f.pitch) r.1
    (s.bump (rk .FH_SAT_SAMPLES) r.2.1).bump (rk .FH_FLUSHED_SAMPLES) r.2.2) s

/-- Is a PRB of every flow's antenna there for every resource block of a symbol (R391)? -/
def symComplete (fs : List Flow) (ps : List Prb) : Bool :=
  fs.all fun f => (List.range f.rbs).all fun b => ps.any fun p => p.ant = f.antenna && p.prb = b

/-- PRBs of a symbol that no flow has delivered. -/
def symMissing (fs : List Flow) (ps : List Prb) : Nat :=
  (fs.map fun f => ((List.range f.rbs).filter fun b => !ps.any fun p => p.ant = f.antenna && p.prb = b).length).sum

/-- The slot whose symbol is due to be written: the earliest staged one that is complete or past its late bound, else the last
one past it. -/
def State.dueSlot (s : State) (g : Grid) (f : Flow) (fs : List Flow) (sym : Nat) : Option Nat :=
  let ns := ((g.staged.filter fun p => p.sym = sym).map (·.slot)).eraseDups.filter fun n =>
    s.symLate f n sym || symComplete fs (g.staged.filter fun p => p.sym = sym && p.slot = n)
  match ns.foldl (fun m n => match m with | none => some n | some x => some (min x n)) none with
  | some n => some n
  | none => if s.timeSet? then (s.lastLate f sym).filter fun n => !g.written.contains (n, sym) else none

/-- The token of the grid's slot before a symbol of radio slot `n` is written: claimed for it, or the radio slot is discarded
(R392). The state, the grid, and whether the symbol's samples are stored. -/
def State.gridToken (s : State) (k : Nat) (g : Grid) (f : Flow) (n : Nat) : State × Grid × Bool :=
  match s.slotOf g.dst with
  | none => (s, g, true)
  | some c =>
    if g.claim = some n then (s, g, true)
    else if g.lost.contains n then (s, g, false)
    else if isRemote c.1 || (!s.slotFull c.1 c.2 && !s.slotClaimed c.1 c.2) then
      (s.slotClaim c.1 c.2, { g with claim := some n }, true)
    else
      let i := n % frameSlots f.mu
      let s := (s.bump (rk .FH_SLOT_OVERRUN)).raise 0x111 devHandle
        (payload [(24, 1, k), (25, 1, n / frameSlots f.mu), (26, 1, i / 2 ^ f.mu), (27, 1, i % 2 ^ f.mu)])
      (s, { g with lost := n :: g.lost }, false)

/-- The end of a radio slot whose symbols have all been written: FH_GRID_g, and the token set FULL (R392). -/
def State.gridDone (s : State) (k : Nat) (g : Grid) (f : Flow) (n : Nat) : State × Grid :=
  if !(List.range f.symbols).all fun y => g.written.contains (n, y) then (s, g)
  else if g.lost.contains n then (s, { g with lost := g.lost.filter (· ≠ n) })
  else
    let r := rk .FH_GRID 0 k
    let i := n % frameSlots f.mu
    let s := ((s.setFld r 0 32 (s.fld r 0 32 + 1)).setFld r 32 8 (n / frameSlots f.mu)).setFld r 40 4 (i / 2 ^ f.mu)
    let s := s.setFld r 44 6 (i % 2 ^ f.mu)
    match s.slotOf g.dst with
    | some c => if g.claim = some n then (s.slotFill c.1 c.2 true, { g with claim := none }) else (s, g)
    | none => (s, g)

/-- A symbol of radio slot `n` of a grid written, or discarded with its slot. -/
def State.writeSymbol (s : State) (k : Nat) (g : Grid) (f : Flow) (fs : List Flow) (n sym : Nat) : State :=
  let ps := g.staged.filter fun p => p.slot = n && p.sym = sym
  let a := s.gridToken k g f n
  let t := if a.2.2 then (a.1.bump (rk .FH_MISSING_PRB) (symMissing fs ps)).writeRows f ps n sym else a.1
  let g := { a.2.1 with
    staged := g.staged.filter fun p => !(p.slot = n && p.sym = sym)
    written := g.written ++ [(n, sym)] }
  let b := t.gridDone k g f n
  { b.1 with grids := Tab.put b.1.grids k b.2 }

/-- SYMBOL_WRITE (R391, R392). -/
def execSymbolWrite (grid symbol : Nat) (s : State) : Res :=
  match Tab.find? s.grids grid with
  | none => .next s
  | some g =>
    match s.gridFlows grid with
    | [] => .next s
    | f :: r =>
      if f.symbols ≤ symbol then .next s
      else
        match s.dueSlot g f (f :: r) symbol with
        | none => .next s
        | some n => .next (s.writeSymbol grid g f (f :: r) n symbol)

/-! ### Ports -/

/-- FH_PORT_STATE (R400): FH_PORT_STATUS.up changes. -/
def execFhPortState (port : Nat) (up : Bool) (s : State) : Res :=
  let k := rk .FH_PORT_STATUS 0 port
  if !s.powerGood || s.bit k 0 = up then .next s
  else
    let s := ((s.setFld k 0 1 (flagNat up)).setOwn (400 + port) up).settle
    .next (s.raise 0x110 devHandle (payload [(24, 1, port), (25, 1, flagNat up)]))

end Sys2Proof.Machine
end

