-- ==== Sys2Proof/Machine/MbNimbus.lean ====
section
/-! DEFINITION. Nimbus's mailbox commands: resources, sensors, logs, the lifetime record, firmware, attestation and debug (R362,
R367, R438, R466 to R471, R478 to R489). -/

namespace Sys2Proof.Machine

/-! ### Resources (R367, R438) -/

/-- Is a resource id one of the table's? -/
def resourceOk (r : Nat) : Bool :=
  r = resPps || r = resTimer || (decide (0x100 ≤ r) && decide (r < 0x123)) || (decide (0x200 ≤ r) && decide (r < 0x223))

/-- Is a resource a DEBUG_VIEW? -/
def isView (r : Nat) : Bool := decide (0x200 ≤ r)

/-- Who claims through a mailbox: the host, or the site controller. -/
def claimant (mb : Nat) : Nat := if mb < 64 then 1 else 2

/-- The row of RESOURCE_CLAIM or RESOURCE_RELEASE. -/
def cmdResource (code : Nat) : Cmd :=
  { Cmd.fixed code 0 4 [(0, 2)] with bad := fun s mb => if resourceOk (s.pay mb 0 2) then [] else [0] }

/-- RESOURCE_CLAIM (R367, R438). -/
def execResourceClaim (mb : Nat) (s : State) : Res :=
  .next (s.mbRow mb (cmdResource 0x100) true fun s =>
    let r := s.pay mb 0 2
    let me := claimant mb
    let h := s.holder r
    if isView r && !(me = 1 && s.debugOn) then s.fails msDebug 0
    else if h ≠ 0 && h ≠ me then s.fails msHeld h
    else (if h = me then s else s.setHolder r me).ends (leBytes 4 me))

/-- RESOURCE_RELEASE (R367, R438): the view's halted jets resume, and an internal holder takes what it waits for. -/
def execResourceRelease (mb : Nat) (s : State) : Res :=
  .next (s.mbRow mb (cmdResource 0x101) true fun s =>
    let r := s.pay mb 0 2
    if s.holder r ≠ claimant mb then s.fails msNotFound 0
    else
      let s := s.freeHolder r
      let s := if isView r then s.resumeView (r - 0x200) else s
      s.settle.ends)

/-! ### Sensors, logs and the record -/

/-- SENSOR_READ (R467). -/
def execSensorRead (mb : Nat) (s : State) : Res :=
  .next (s.mbRow mb (Cmd.fixed 0x102 0 4 [(0, 2)]) true fun s =>
    let first := s.pay mb 0 1
    let count := s.pay mb 1 1
    if count = 0 || 120 < first + count then s.fails msLimit 65
    else s.ends ((List.range count).flatMap fun i => leBytes 2 (s.sensor (first + i)).toNat))

/-- The number of the first entry of a log that a command did not find written as it was received (R471). -/
def State.logEnd (s : State) (mb log : Nat) : Nat :=
  match Tab.find? s.mbMark mb with
  | some m => if log = 0 then m.2.1 else m.2.2
  | none => 2 ^ 64

/-- LOG_READ (R471). -/
def execLogRead (mb : Nat) (s : State) : Res :=
  .next (s.mbRow mb { Cmd.fixed 0x103 0 24 [(0, 13), (16, 8)] with bad := fun s mb => if s.pay mb 12 1 < 2 then [] else [12] }
    true fun s =>
      let n := s.pay mb 8 4
      if n < 64 then s.fails msLimit 72
      else
        let log := if s.pay mb 12 1 = 0 then s.dieLog else s.flashLog
        let es := (log.filter fun e => decide (s.pay mb 16 8 ≤ e.num) && decide (e.num < s.logEnd mb (s.pay mb 12 1))).take (n / 64)
        (s.hostPut mb (s.pay mb 0 8) (es.flatMap LogEntry.bytes)).ends (leBytes 4 es.length ++ leBytes 4 (64 * es.length)))

/-- Bytes written to a "host" address if they fit in the bytes available (R478, R486). -/
def State.putWhole (s : State) (mb : Nat) (bs : List Byte) : Ended :=
  if s.pay mb 8 4 < bs.length then s.fails msLimit 72 else (s.hostPut mb (s.pay mb 0 8) bs).ends (leBytes 4 bs.length)

/-- LIFETIME_READ (R478). -/
def execLifetimeRead (mb : Nat) (s : State) : Res :=
  .next (s.mbRow mb (Cmd.fixed 0x104 0 16 [(0, 12)]) true fun s => s.putWhole mb s.life.bytes)

/-- CERT_READ (R486). -/
def execCertRead (mb : Nat) (s : State) : Res :=
  .next (s.mbRow mb (Cmd.fixed 0x114 0 16 [(0, 12)]) true fun s => s.putWhole mb Config.certChain)

/-! ### Firmware (R479 to R483) -/

/-- Does an image verify (R479)? -/
def imageVerifies (bs : List Byte) : Bool :=
  let part (o n : Nat) : List Byte := (bs.drop o).take n
  let n1 := fieldAt bs 12 4
  let nz := fieldAt bs 16 4
  decide (288 ≤ bs.length) && decide (bs.length = 288 + n1 + nz) && fieldAt bs 0 2 = 1 &&
    Config.sm2Verify Config.rootKey (1 :: part 96 64) (part 160 64) && Config.sm2Verify (part 96 64) (part 0 224) (part 224 64) &&
    Config.sm3 (part 288 n1) = part 32 32 && Config.sm3 (part (288 + n1) nz) = part 64 32

/-- The image that bytes spell. -/
def Image.ofBytes (bs : List Byte) : Image := ⟨fieldAt bs 2 1, fieldAt bs 4 2, fieldAt bs 8 4, imageVerifies bs, bs⟩

/-- An image or token that does not verify, counted and reported (R482, R488). -/
def State.authFailed (s : State) (code : Nat) : State :=
  (s.bump (rk .NB_AUTH_FAILURES)).raise 0x506 devHandle (payload [(24, 2, code)])

/-- A FW_STAGE runs. -/
def State.staging (s : State) : Bool := s.mbRun.any fun e => match e.2 with | .fwStage _ _ => true | _ => false

/-- Bytes read at a "host" address, and whether the command must wait for the link first (log 16). -/
def State.hostWaits (s : State) (mb : Nat) : Bool := decide (mb < 64) && !s.hostOpen

/-- FW_STAGE (R482): the checks, then the write into the inactive slot, which is invalid until MAILBOX_COMPLETION. -/
def execFwStage (mb : Nat) (s : State) : Res :=
  .next (s.mbRow mb (Cmd.fixed 0x110 0 16 [(0, 12)]) true fun s =>
    let n := s.pay mb 8 4
    if 2 ^ 24 < n then s.fails msLimit 72
    else if s.staging || s.trialPending then s.fails msBusy 0
    else if s.hostWaits mb then (s, none)
    else
      let i := Image.ofBytes (Mem.read (s.hostMem mb) (s.pay mb 0 8) n)
      if !i.verifies then (s.authFailed 0x110).fails msAuth 0
      else if i.level < s.fused then s.fails msRollback s.fused
      else
        let b := !s.activeB
        ({ s with staged := none }.setSlot b none |>.setFld (rk .NB_STATUS) 2 1 1).starts mb (.fwStage b i))

/-- The row of FW_ACTIVATE. -/
def cmdActivate : Cmd :=
  { Cmd.fixed 0x111 0 4 [(0, 1)] with bad := fun s mb => if s.pay mb 0 1 < 2 then [] else [0] }

/-- The staged slot is marked as the trial slot (R483); none staged: none. -/
def State.markTrial (s : State) : Option State :=
  if s.staged = some !s.activeB then some (s.setFld (rk .SC_STATUS) 3 1 1) else none

/-- The boot ROM is in recovery. -/
def State.inRecovery (s : State) : Bool := s.bit (rk .NB_STATUS) 1

/-- FW_ACTIVATE without reset now (R483); in recovery it resets at once (R481). -/
def execFwActivate (mb : Nat) (s : State) : Res :=
  .next (s.mbRow mb cmdActivate (s.pay mb 0 1 ≠ 1) fun s =>
    match s.markTrial with
    | none => s.fails msNotFound 0
    | some t => if t.inRecovery then ((t.mbAnswer mb msOk 0 []).deviceReset 3, none) else t.ends)

/-- FW_ACTIVATE_RESET_NOW (R483, R506): it completes before the reset begins. -/
def execFwActivateResetNow (mb : Nat) (s : State) : Res :=
  .next (s.mbRow mb cmdActivate (s.pay mb 0 1 ≠ 0) fun s =>
    match s.markTrial with
    | none => s.fails msNotFound 0
    | some t => ((t.mbAnswer mb msOk 0 []).deviceReset 3, none))

/-! ### Attestation (R487) -/

/-- Stage 1 and the Zenith firmware of the running image. -/
def State.stages (s : State) : List Byte × List Byte :=
  let bs := match s.slotImage s.runningB with | some i => i.bytes | none => []
  let n1 := fieldAt bs 12 4
  ((bs.drop 288).take n1, (bs.drop (288 + n1)).take (fieldAt bs 16 4))

/-- Bytes 0 to 223 of the attestation report. -/
def State.reportBody (s : State) (nonce : List Byte) : List Byte :=
  let sm3 (x : List Byte) : List Byte := fixLen 32 (Config.sm3 x)
  leBytes 2 1 ++ leBytes 2 288 ++ leBytes 1 (s.fld (rk .SC_STATUS) 1 1) ++ leBytes 1 (s.fld (rk .SC_STATUS) 0 1) ++
    leBytes 1 s.fused ++ leBytes 1 (flagNat s.activeB + 2 * flagNat s.trialPending) ++ fixLen 32 nonce ++ identityDigest ++
    leBytes 8 s.now ++ leBytes 4 s.life.poweredS ++ leBytes 4 s.life.powerCycles ++ leBytes 2 s.firmware.1 ++ leBytes 6 0 ++
    sm3 Config.bootRom ++ sm3 s.stages.1 ++ sm3 s.stages.2 ++
    sm3 ((List.range 16).flatMap fun i => (s.profile i).answer 0 i)

/-- ATTEST (R487). -/
def execAttest (mb : Nat) (s : State) : Res :=
  .next (s.mbRow mb (Cmd.fixed 0x112 0 40 [(0, 40)]) true fun s =>
    let b := s.reportBody (s.payBytes mb 0 32)
    (s.hostPut mb (s.pay mb 32 8) (b ++ fixLen 64 (Config.identitySign b))).ends (leBytes 4 288))

/-! ### Debug unlock (R488, R489) -/

/-- The row of DEBUG_UNLOCK. -/
def cmdDebug : Cmd := Cmd.fixed 0x113 0 16 [(0, 12)]

/-- Does a token pass every check (R488)? -/
def State.tokenOk (s : State) (bs : List Byte) : Bool :=
  let part (o n : Nat) : List Byte := (bs.drop o).take n
  bs.length = 232 && fieldAt bs 0 2 = 1 && fieldAt bs 2 1 = 1 && fieldAt bs 3 1 = 0 && fieldAt bs 4 4 = s.life.unlocks &&
    part 8 32 = identityDigest && Config.sm2Verify Config.rootKey (2 :: part 40 64) (part 104 64) &&
    Config.sm2Verify (part 40 64) (part 0 168) (part 168 64)

/-- EV_DEBUG_STATE (R490). -/
def State.debugEvent (s : State) : State :=
  s.raise 0x504 devHandle (payload [(24, 1, s.fld (rk .SC_STATUS) 0 1), (28, 4, s.life.unlocks)])

/-- DEBUG_UNLOCK with a token (R488, R489). -/
def execDebugUnlock (mb : Nat) (s : State) : Res :=
  .next (s.mbRow mb cmdDebug (s.pay mb 8 4 ≠ 0) fun s =>
    if s.hostWaits mb then (s, none)
    else if !s.tokenOk (Mem.read (s.hostMem mb) (s.pay mb 0 8) (s.pay mb 8 4)) then (s.authFailed 0x113).fails msAuth 0
    else
      let s := { s.setFld (rk .SC_STATUS) 0 1 1 with life := { s.life with unlocks := satAdd 32 s.life.unlocks 1 } }
      s.showSc.debugEvent.ends (leBytes 4 1))

/-- Every DEBUG_VIEW holding released, every halted jet resumed, every bounds-watch enable and injection arm cleared; BAR4
reads 0 until the next device reset (R489). -/
def State.relock (s : State) : State :=
  let s : State := { s with bar4 := false }
  let s := (List.range 35).foldl (fun (s : State) t =>
    if s.holder (resView t) = 0 then s else s.setHolder (resView t) 0) s
  let s := (List.range 595).foldl State.resumeU s
  (List.range 140).foldl (fun s u =>
    let s := if s.bit (rk .BS_DBG_BOUNDS u) 0 then s.setFld (rk .BS_DBG_BOUNDS u) 0 1 0 else s
    if s.bit (rk .BS_ECC_INJECT u) 33 then s.setFld (rk .BS_ECC_INJECT u) 33 1 0 else s) s

/-- DEBUG_RELOCK (R489): DEBUG_UNLOCK with a byte count of 0. -/
def execDebugRelock (mb : Nat) (s : State) : Res :=
  .next (s.mbRow mb cmdDebug (s.pay mb 8 4 = 0) fun s =>
    ((s.relock.setFld (rk .SC_STATUS) 0 1 0).debugEvent).ends (leBytes 4 0))

end Sys2Proof.Machine
end

