-- ==== Sys2Proof/Machine/MbEnd.lean ====
section
/-! DEFINITION. UNIT_TEST, the end of mailbox commands that take time, and the function level reset (R353, R356, R359, R362, R410,
R431, R433, R444, R482, R490). -/

namespace Sys2Proof.Machine

/-! ### UNIT_TEST (R362, R431, R444) -/

/-- What stands for stack `st` among the units of UNIT_TEST. -/
def dramTest (st : Nat) : Nat := 2 ^ 16 + st

/-- A UNIT_TEST's unit: the local handle of a terrace or a basin of this device, or one of its stacks, under the handle that the
device gives it (log 42). -/
def State.testUnit (s : State) (h : Nat) : Option Nat :=
  if !s.isHere (h / 2 ^ 16) then none
  else match unitKind (h % 2 ^ 16) with
    | some .terrace | some .basin => some (h % 2 ^ 16)
    | some _ => none
    | none => (Config.dramUnit (h % 2 ^ 16)).map fun st => dramTest st

/-- Is the unit ready? -/
def State.testReady (s : State) (l : Nat) : Bool := if 2 ^ 16 ≤ l then s.stackReady (l - 2 ^ 16) else s.unitReady l

/-- Does a descriptor in flight name an address of an allocation on a stack (log 42)? -/
def State.stackBusy (s : State) (st : Nat) : Bool :=
  s.jobs.any fun j => j.phase ≠ .done && j.phase ≠ .away && j.d.addrs.any fun a =>
    match s.allocOf a.2 with
    | some x => x.on st ≠ 0
    | none => false

/-- The unit has work in flight. -/
def State.unitBusy (s : State) (l : Nat) : Bool :=
  if 2 ^ 16 ≤ l then s.stackBusy (l - 2 ^ 16)
  else if 0x200 ≤ l then
    s.jobs.any fun j => j.phase ≠ .done && j.phase ≠ .away && decide (0x200 ≤ j.unit) && decide (j.unit < 0xC00) &&
      basinOf j.unit = l - 0x200
  else !(s.jobsOn (l - 0x100)).isEmpty

/-- The jets of a basin and its registers, as a unit reset leaves them. -/
def State.clearBasin (s : State) (q : Nat) : State :=
  let u := s.physB q
  let mine (x : Nat) : Bool := decide (x < 560) && decide (x / 4 = q)
  { s with
    acc := s.acc.filter fun e => !mine (e.1 / 32768)
    grp := s.grp.filter fun e => !mine (e.1 / 8)
    jets := s.jets.filter fun e => !mine e.1
    engines := s.engines.filter fun e => e.1 / 2 ≠ q
    stallDue := Tab.del s.stallDue q
    regs := s.regs.filter fun e =>
      !(match (regRow e.1.name).blk with
        | .bs => e.1.unit = u
        | .jt => e.1.unit / 17 = u / 4 && decide (e.1.unit % 17 / 4 = u % 4)
        | .se => decide (e.1.unit / 2 = u)
        | _ => false) }

/-- The pools of basins `q` to `q + n - 1` hold nothing any more (log 3). -/
def State.clearPools (s : State) (q n : Nat) : State :=
  let mine (a : Nat) : Bool := decide (poolBase q ≤ a) && decide (a < poolBase (q + n))
  { s with dev := s.dev.filter fun c => !mine c.1, poolErr := s.poolErr.filter fun e => !mine (32 * e.1) }

/-- A unit reset of a stack: it trains again, so it leaves the ready state and its contents are not kept (log 3, log 42); the dies out
of service and the spare rows used stay. -/
def State.stackReset (s : State) (st : Nat) : State :=
  let out := s.diesOut st
  let left := s.fld (rk .DM_STATUS st) 8 12
  let s : State := { s with
    dev := s.dev.filter fun c => match s.localLoc c.1 with
      | .dram _ x => x ≠ st
      | _ => true
    dramErr := s.dramErr.filter fun e => e.1 / 2 ^ 34 ≠ st
    dieSeen := s.dieSeen.filter fun e => e.1 / 5 ≠ st
    rowCorr := s.rowCorr.filter fun e => !(e.1 % 2 = 0 && e.1 / 2 / 2 ^ 27 = st)
    regs := s.regs.filter fun e => !((regRow e.1.name).blk = Blk.dm && e.1.unit = st) }
  let s := s.setFld (rk .DM_STATUS st) 3 5 out
  let s := if left = 2048 then s else s.setFld (rk .DM_STATUS st) 8 12 left
  ((s.setOwn (64 + st) false).settle.flushed 4 devHandle).showSpace

/-- A unit reset of a terrace or a basin under test: it leaves the ready state and loses what it holds; what sparing has put in
place is shown again. -/
def State.unitReset (s : State) (l : Nat) : State :=
  let t := if 0x200 ≤ l then (l - 0x200) / 4 else l - 0x100
  let p := s.physT t
  let s := if 0x200 ≤ l then ((s.setOwn (192 + (l - 0x200)) false).clearBasin (l - 0x200)).clearPools (l - 0x200) 1
    else
      let s := (((s.dropSamples t).setTerrace t false).clearTerrace t).clearPools (4 * t) 4
      { s with regs := s.regs.filter fun e => !unitOfTerrace p e.1 }
  let s := (s.setHolder (resJet t) (s.holder (resJet t))).showIds p
  ((List.range 16).foldl (fun s i => s.showColumns (17 * p + i)) s).settle.flushed 4 (hereHandle l)

/-- The reset that begins a unit's test. -/
def State.testReset (s : State) (l : Nat) : State := if 2 ^ 16 ≤ l then s.stackReset (l - 2 ^ 16) else s.unitReset l

/-- UNIT_TEST's table row: kind 0 is BIST. -/
def cmdUnitTest : Cmd :=
  { Cmd.fixed 0x50 0 4 [(0, 4)] with bad := fun s mb => if s.pay mb 3 1 = 0 then [] else [3] }

/-- UNIT_TEST (R362): its BIST runs until MAILBOX_COMPLETION; `failing` is the element it will find at fault. -/
def execUnitTest (mb : Nat) (failing : Option Nat) (s : State) : Res :=
  .next (s.mbRow mb cmdUnitTest true fun s =>
    match s.testUnit (s.pay mb 0 3) with
    | none => s.fails msTarget 64
    | some l =>
      if !s.testReady l then s.fails msNotReady 0
      else if s.unitBusy l then s.fails msBusy 0
      else (s.testReset l).starts mb (.unitTest l failing))

/-- A unit that passed its BIST is ready again (R444, R456). -/
def State.unitPassed (s : State) (l : Nat) : State :=
  (if 2 ^ 16 ≤ l then (s.setOwn (64 + (l - 2 ^ 16)) true).showSpace
   else if 0x200 ≤ l then s.setOwn (192 + (l - 0x200)) true
   else if s.terraceOut (l - 0x100) then s else s.setTerrace (l - 0x100) true).settle

/-! ### MAILBOX_COMPLETION (R359) -/

/-- May a command that has started end now? TIME_SET's wait for an edge ends at PPS_EDGE. -/
def State.runDue (s : State) (r : MbRun) : Bool :=
  match r with
  | .ringTeardown k _ _ => !s.ringUsed k
  | .cqTeardown c => !s.jobs.any fun j => j.origin = none && j.d.cq = c
  | .cascadeLeave => s.leaveDue
  | .timeSetAtPps _ => false
  | .fwStage _ _ => true
  | .unitTest _ _ => true

/-- The end of a command that took time: its effect and its response. -/
def State.runEnd (s : State) (r : MbRun) : State × List Byte :=
  match r with
  | .ringTeardown k c d => (({ s with rings := Tab.del s.rings k }).showRings, leBytes 4 c ++ leBytes 4 d)
  | .cqTeardown c => (({ s with cqs := Tab.del s.cqs c }).showRings, [])
  | .cascadeLeave => (s.left, [])
  | .timeSetAtPps _ => (s, [])
  | .fwStage b i =>
    let s := { s with staged := some b }.setSlot b (some i)
    ((s.setFld (rk .NB_STATUS) 2 1 0).raise 0x500 devHandle
      (payload [(24, 1, flagNat b), (25, 1, i.level), (26, 2, i.release)]),
     leBytes 4 i.level ++ leBytes 1 (flagNat b) ++ leBytes 3 0)
  | .unitTest l none => (s.unitPassed l, leBytes 8 0)
  | .unitTest _ (some x) => (s, leBytes 4 1 ++ leBytes 4 x)

/-- The commands of a mailbox that have not ended: its own at key `mb`, then those that an FLR left without an answer, at keys
`mb + 1000` and above (R433). -/
def State.runsOf (s : State) (mb : Nat) : List (Nat × MbRun) := s.mbRun.filter fun e => e.1 % 1000 = mb

/-- MAILBOX_COMPLETION (R359). -/
def execMailboxCompletion (mb : Nat) (s : State) : Res :=
  match (s.runsOf mb).find? fun e => s.runDue e.2 with
  | none => .next s
  | some e =>
    let r := { s with mbRun := Tab.del s.mbRun e.1 }.runEnd e.2
    if e.1 = mb then .next (r.1.mbAnswer mb msOk 0 r.2) else .next r.1

/-! ### FUNCTION_LEVEL_RESET (R433) -/

/-- Registers that an FLR returns to their reset values: the MSI-X table, the HI_ and QE_ blocks; the link's own status is no
setting. -/
def flrReg (k : RegKey) : Bool :=
  match (regRow k.name).blk with
  | .hi => k.name ≠ .HI_LINK
  | .dbg => k.name = .HI_DBG_SEL || k.name = .HI_DBG_HALT
  | .qe => true
  | _ => false

/-- The host's mailbox commands in progress go on without an answer: those that run leave their mailbox, and those that wait are
marked. -/
def State.detach (s : State) : State :=
  let s := (s.mbRun.filter fun e => decide (e.1 < 64)).foldl (fun s e =>
    let top := ((s.runsOf e.1).map Prod.fst).foldl max 0
    { s with mbReq := Mem.erase s.mbReq (mbBase e.1) 4096, mbRun := Tab.put (Tab.del s.mbRun e.1) (top + 1000) e.2 }) s
  { s with mbGone := (List.range 64).filter s.inProgress }

/-- Headers of the host's mailboxes. -/
def hostHeader (a : Nat) : Bool := decide (a < 64 * 4096) && decide (a % 4096 < 64)

/-- Every resource that the host holds released; jets halted through a view resume (R433, R438). -/
def State.releaseHost (s : State) : State :=
  ((s.holders.filter fun e => e.2 = 1).map Prod.fst).foldl (fun s r =>
    let s := s.freeHolder r
    if isView r then s.resumeView (r - 0x200) else s) s

/-- A descriptor after an FLR: one of this module's rings names no completion ring any more, and one that another member runs
for this module is forgotten (R356, R433). -/
def Job.orphan (j : Job) : Option Job :=
  if j.origin.isSome then some j
  else if j.phase = .away then none
  else some { j with d := { j.d with cq := 4096 } }

/-- FUNCTION_LEVEL_RESET (R433): rings are torn down, their issued descriptors run to their end without a record. -/
def execFunctionLevelReset (s : State) : Res :=
  if !s.powerGood then .next s
  else
    let s := s.rings.foldl (fun s e => if e.2.closing then s else (s.closeRing e.1).1) s
    let s : State := { s with
      cqs := [], evRing := none, evLost := 0, hostWait := [], groups := [], feat := 0, helloDone := false
      jobs := s.jobs.filterMap Job.orphan
      cursors := s.cursors.filter fun e => decide (4 ≤ e.1)
      mbox := s.mbox.filter fun c => !hostHeader c.1
      regs := s.regs.filter fun e => !flrReg e.1 }
    let s := (s.rings.map Prod.fst).foldl State.ringGone s.detach
    let s := (s.setReg (rk .MB_PENDING) 0).showRings
    .next ((s.releaseHost.settle).resetDone 2)

end Sys2Proof.Machine
end

