-- ==== Sys2Proof/Machine/RegWrite.lean ====
section
/-! DEFINITION. Writes of registers by their access codes, and of mailbox memory (R6 to R8, R210, R251, R256, R263, R271, R345,
R347, R358, R359, R370, R373, R374, R380 to R382, R405, R438). -/

namespace Sys2Proof.Machine

/-! ### Fields -/

/-- A field after a write of its register (R7): RW takes the bits written, a 1 clears W1C and sets W1S, others stay. -/
def Field.written (f : Field) (old v : Nat) : Nat :=
  let x := bitsOf old f.lo f.w
  let y := bitsOf v f.lo f.w
  match f.acc with
  | .rw => y
  | .w1c => x &&& (2 ^ f.w - 1 - y)
  | .w1s => x ||| y
  | .ro | .wo | .rc => x

/-- The word of a register after a write: reserved bits read 0 (R8). -/
def writtenWord (fs : List Field) (old v : Nat) : Word :=
  BitVec.ofNat 64 ((fs.map fun f => f.written old v * 2 ^ f.lo).sum)

/-- A register whose write is a row of its own. -/
def hasRow (k : RegKey) : Bool :=
  match k.name with
  | .WR_STEP | .CK_RESET | .NB_LIFETIME_SAVE | .HI_DBG_HALT | .LK_GOP_CTRL | .BS_ECC_INJECT => true
  | _ => false

/-- A register that the host may not write now: an internal slot, a window of the placement engine (R251, R256), a debug
register while debug is locked (R271). -/
def State.writeBarred (s : State) (k : RegKey) : Bool :=
  match k.name with
  | .BS_WIN => decide (12 ≤ k.idx)
  | .BS_SLOT => decide (48 ≤ k.idx)
  | .BS_DBG_BOUNDS => !s.debugOn
  | _ => false

/-- MSI-X is enabled and the function mask is clear. -/
def State.vectorsFree (s : State) : Bool := s.msixOn && !s.bit (rk .PCI_MSIX) 30

/-- Pending vectors that nothing masks any more are sent (log 4). -/
def State.freeVectors (s : State) : State :=
  if !s.vectorsFree then s
  else
    (List.range 64).foldl (fun s i =>
      if s.reg (rk .MSIX_PBA 0 i) = 0 then s
      else (List.range 32).foldl (fun s b =>
        let v := 32 * i + b
        if s.bit (rk .MSIX_PBA 0 i) b && !s.bit (rk .MSIX_CTRL 0 v) 0 then
          (s.setFld (rk .MSIX_PBA 0 i) b 1 0).send (.vector v)
        else s) s) s

/-- What follows from a register's new value at once. -/
def State.afterWrite (s : State) (k : RegKey) : State :=
  match k.name with
  | .QE_EV_HEAD => s.lostPost
  | .HL_CTRL => s.settle
  | .SP_CFG => s.showSuspects
  | .HI_DBG_SEL => s.showHalt
  | .LK_PORT_CFG => if s.bit k 0 then s else s.portDown k.idx
  | .PCI_MSIX => s.freeVectors
  | .MCF_MSIX => s.mgtUnmask
  | .MCF_VEC_CTRL => s.mgtUnmask
  | .MSIX_CTRL =>
    let p := rk .MSIX_PBA 0 (k.idx / 32)
    if !s.bit k 0 && s.vectorsFree && s.bit p (k.idx % 32) then (s.setFld p (k.idx % 32) 1 0).send (.vector k.idx) else s
  | _ => s

/-- A register written with a value of `n` bytes; another width than its own has no effect (R6). -/
def State.regWrite (s : State) (k : RegKey) (n v : Nat) : State :=
  let r := regRow k.name
  if n ≠ (if r.wide then 8 else 4) || hasRow k || s.writeBarred k then s
  else if k.name = .WR_SLOT_SCALE then s.writeScale k.idx (v % 256)
  else
    (s.setReg k (writtenWord r.fields (s.reg k).toNat v)).afterWrite k

/-! ### Mailbox memory -/

/-- Bytes written to a mailbox, and the start of its command where go becomes 1; one that finds the mailbox's last command still
in progress starts nothing (R359, log 34). -/
def State.mboxWrite (s : State) (a : Nat) (bs : List Byte) : State :=
  let mb := a / 4096
  let was := s.mbGo mb
  let s := { s with mbox := Mem.write s.mbox a bs }
  let go := s.mbGo mb
  let s := if mb < 64 && was ≠ go then s.setFld (rk .MB_PENDING) mb 1 (flagNat go) else s
  if go && !was && !s.inProgress mb then s.mbStart mb else s

/-! ### REGISTER_WRITE -/

/-- A write of `n` bytes at an offset of BAR0 (bar 0), BAR4 (bar 4), the management link's BAR0 (bar 1) or the configuration space
of the host link (bar 8) or the management link (bar 9). -/
def State.barWrite (s : State) (bar off n v : Nat) : State :=
  if bar = 0 ∧ 0x100000 ≤ off ∧ off + n ≤ 0x140000 then
    if off % n = 0 then s.mboxWrite (off - 0x100000) (leBytes n v) else s
  else if bar = 1 ∧ off + n ≤ 0x8000 then
    if off % n = 0 then s.mboxWrite (64 * 4096 + off) (leBytes n v) else s
  else if bar = 4 ∧ !s.bar4On then s
  else
    match (if bar = 1 then regInBlock .mgt 0 off else regAt bar off) with
    | some k => s.regWrite k n v
    | none => s

/-- REGISTER_WRITE (R7). -/
def execRegisterWrite (bar offset bytes : Nat) (value : BitVec 64) (s : State) : Res :=
  .next (s.barWrite bar offset bytes value.toNat)

end Sys2Proof.Machine
end

