-- ==== Sys2Proof/Machine/Dispatch.lean ====
section
/-! DEFINITION. One arm per command. -/

namespace Sys2Proof.Machine

/-- The effect of a command on everything but the queue. -/
def exec (i : Instr) (s : State) : Host.Outcome State Fault Refusal :=
  match i with
  | .doorbellWrite ring wide value => Sys2Proof.Machine.execDoorbellWrite ring wide value s
  | .tick => Sys2Proof.Machine.execTick s
  | .matmul jid stalls => Sys2Proof.Machine.execMatmul jid stalls s
  | .fusedPair run => Sys2Proof.Machine.execFusedPair run s
  | .checknode run => Sys2Proof.Machine.execChecknode run s
  | .reduce run => Sys2Proof.Machine.execReduce run s
  | .update run => Sys2Proof.Machine.execUpdate run s
  | .convert run => Sys2Proof.Machine.execConvert run s
  | .gatherRows run => Sys2Proof.Machine.execGatherRows run s
  | .gatherColumns run => Sys2Proof.Machine.execGatherColumns run s
  | .hazeSelect run => Sys2Proof.Machine.execHazeSelect run s
  | .forecast run => Sys2Proof.Machine.execForecast run s
  | .barrier jid => Sys2Proof.Machine.execBarrier jid s
  | .barrierArrival jid => Sys2Proof.Machine.execBarrierArrival jid s
  | .barrierTimeout jid => Sys2Proof.Machine.execBarrierTimeout jid s
  | .dot run => Sys2Proof.Machine.execDot run s
  | .toStream run => Sys2Proof.Machine.execToStream run s
  | .fromStream run => Sys2Proof.Machine.execFromStream run s
  | .drain run => Sys2Proof.Machine.execDrain run s
  | .reshard jid => Sys2Proof.Machine.execReshard jid s
  | .weightTileLoaded unit errs stalls => Sys2Proof.Machine.execWeightTileLoaded unit errs stalls s
  | .swap unit wait => Sys2Proof.Machine.execSwap unit wait s
  | .groupDrain run => Sys2Proof.Machine.execGroupDrain run s
  | .preemption jid point => Sys2Proof.Machine.execPreemption jid point s
  | .slotWaitEnd run => Sys2Proof.Machine.execSlotWaitEnd run s
  | .slotTimeout jid => Sys2Proof.Machine.execSlotTimeout jid s
  | .completionRecordPost jid => Sys2Proof.Machine.execCompletionRecordPost jid s
  | .msixTimer cq => Sys2Proof.Machine.execMsixTimer cq s
  | .haloComparison terrace => Sys2Proof.Machine.execHaloComparison terrace s
  | .poolWriteRequest basin addr cls writer data => Sys2Proof.Machine.execPoolWriteRequest basin addr cls writer data s
  | .hostWrite offset data => Sys2Proof.Machine.execHostWrite offset data s
  | .hostRead offset len => Sys2Proof.Machine.execHostRead offset len s
  | .readCompletion owner ok => Sys2Proof.Machine.execReadCompletion owner ok s
  | .completionTimeout owner => Sys2Proof.Machine.execCompletionTimeout owner s
  | .hostLinkDown => Sys2Proof.Machine.execHostLinkDown s
  | .hostLinkUp rate width flit => Sys2Proof.Machine.execHostLinkUp rate width flit s
  | .functionLevelReset => Sys2Proof.Machine.execFunctionLevelReset s
  | .d3hot => Sys2Proof.Machine.execD3hot s
  | .d0 => Sys2Proof.Machine.execD0 s
  | .hotReset => Sys2Proof.Machine.execHotReset s
  | .hstPerstLAssert => Sys2Proof.Machine.execHstPerstLAssert s
  | .deviceReset value => Sys2Proof.Machine.execDeviceReset value s
  | .computeReset value => Sys2Proof.Machine.execComputeReset value s
  | .computeResetDone => Sys2Proof.Machine.execComputeResetDone s
  | .mgtPerstLAssert => Sys2Proof.Machine.execMgtPerstLAssert s
  | .smbusReadWord code => Sys2Proof.Machine.execSmbusReadWord code s
  | .registerWrite bar offset bytes value => Sys2Proof.Machine.execRegisterWrite bar offset bytes value s
  | .rcCounterRead offset bytes => Sys2Proof.Machine.execRcCounterRead offset bytes s
  | .debugHalt => Sys2Proof.Machine.execDebugHalt s
  | .debugResume => Sys2Proof.Machine.execDebugResume s
  | .eccInjectArm basin value => Sys2Proof.Machine.execEccInjectArm basin value s
  | .closeStep value => Sys2Proof.Machine.execCloseStep value s
  | .lifetimeSave value => Sys2Proof.Machine.execLifetimeSave value s
  | .hello mb => Sys2Proof.Machine.execHello mb s
  | .ringSetup mb => Sys2Proof.Machine.execRingSetup mb s
  | .ringTeardown mb => Sys2Proof.Machine.execRingTeardown mb s
  | .cqSetup mb => Sys2Proof.Machine.execCqSetup mb s
  | .cqTeardown mb => Sys2Proof.Machine.execCqTeardown mb s
  | .eventSetup mb => Sys2Proof.Machine.execEventSetup mb s
  | .eventTeardown mb => Sys2Proof.Machine.execEventTeardown mb s
  | .groupBindReplace mb => Sys2Proof.Machine.execGroupBindReplace mb s
  | .groupBindAdd mb => Sys2Proof.Machine.execGroupBindAdd mb s
  | .groupBindRemove mb => Sys2Proof.Machine.execGroupBindRemove mb s
  | .groupBindUnbind mb => Sys2Proof.Machine.execGroupBindUnbind mb s
  | .tensorAlloc mb addr f spillTo => Sys2Proof.Machine.execTensorAlloc mb addr f spillTo s
  | .tensorFree mb => Sys2Proof.Machine.execTensorFree mb s
  | .spillGrant mb => Sys2Proof.Machine.execSpillGrant mb s
  | .spillRevoke mb => Sys2Proof.Machine.execSpillRevoke mb s
  | .placeQuery mb => Sys2Proof.Machine.execPlaceQuery mb s
  | .phasePlanDefine mb => Sys2Proof.Machine.execPhasePlanDefine mb s
  | .phasePlanSelect mb => Sys2Proof.Machine.execPhasePlanSelect mb s
  | .phasePlanDrop mb => Sys2Proof.Machine.execPhasePlanDrop mb s
  | .tensorLoad mb => Sys2Proof.Machine.execTensorLoad mb s
  | .tensorLoadEncode mb => Sys2Proof.Machine.execTensorLoadEncode mb s
  | .monitorSnapshot mb => Sys2Proof.Machine.execMonitorSnapshot mb s
  | .monitorRestore mb => Sys2Proof.Machine.execMonitorRestore mb s
  | .emuBasadCfgGet mb => Sys2Proof.Machine.execEmuBasadCfgGet mb s
  | .emuBasadCfgSet mb => Sys2Proof.Machine.execEmuBasadCfgSet mb s
  | .cascadeJoin mb => Sys2Proof.Machine.execCascadeJoin mb s
  | .cascadeLeave mb => Sys2Proof.Machine.execCascadeLeave mb s
  | .timeSet mb => Sys2Proof.Machine.execTimeSet mb s
  | .timeSetAtPps mb => Sys2Proof.Machine.execTimeSetAtPps mb s
  | .cellConfigSet mb => Sys2Proof.Machine.execCellConfigSet mb s
  | .cellConfigClear mb => Sys2Proof.Machine.execCellConfigClear mb s
  | .unitTest mb failing => Sys2Proof.Machine.execUnitTest mb failing s
  | .resourceClaim mb => Sys2Proof.Machine.execResourceClaim mb s
  | .resourceRelease mb => Sys2Proof.Machine.execResourceRelease mb s
  | .sensorRead mb => Sys2Proof.Machine.execSensorRead mb s
  | .logRead mb => Sys2Proof.Machine.execLogRead mb s
  | .lifetimeRead mb => Sys2Proof.Machine.execLifetimeRead mb s
  | .fwStage mb => Sys2Proof.Machine.execFwStage mb s
  | .fwActivate mb => Sys2Proof.Machine.execFwActivate mb s
  | .fwActivateResetNow mb => Sys2Proof.Machine.execFwActivateResetNow mb s
  | .attest mb => Sys2Proof.Machine.execAttest mb s
  | .debugUnlock mb => Sys2Proof.Machine.execDebugUnlock mb s
  | .debugRelock mb => Sys2Proof.Machine.execDebugRelock mb s
  | .certRead mb => Sys2Proof.Machine.execCertRead mb s
  | .broadcast value => Sys2Proof.Machine.execBroadcast value s
  | .broadcastCopy data => Sys2Proof.Machine.execBroadcastCopy data s
  | .snapshot value => Sys2Proof.Machine.execSnapshot value s
  | .snapshotHold => Sys2Proof.Machine.execSnapshotHold s
  | .snapshotRelease => Sys2Proof.Machine.execSnapshotRelease s
  | .reset value => Sys2Proof.Machine.execReset value s
  | .resetMessage => Sys2Proof.Machine.execResetMessage s
  | .gopAnswer child answered missing => Sys2Proof.Machine.execGopAnswer child answered missing s
  | .gopAnswerTimeout child => Sys2Proof.Machine.execGopAnswerTimeout child s
  | .remoteDescriptor member ring seq cls bytes => Sys2Proof.Machine.execRemoteDescriptor member ring seq cls bytes s
  | .remoteCompletion jid bytes => Sys2Proof.Machine.execRemoteCompletion jid bytes s
  | .cascadeExchange port index master n bitmap => Sys2Proof.Machine.execCascadeExchange port index master n bitmap s
  | .flitReceive port good acked tail => Sys2Proof.Machine.execFlitReceive port good acked tail s
  | .laneFault port lane => Sys2Proof.Machine.execLaneFault port lane s
  | .retrainDone port => Sys2Proof.Machine.execRetrainDone port s
  | .portUp port => Sys2Proof.Machine.execPortUp port s
  | .frameReceive port fcsOk data => Sys2Proof.Machine.execFrameReceive port fcsOk data s
  | .symbolWrite grid symbol => Sys2Proof.Machine.execSymbolWrite grid symbol s
  | .fhPortState port up => Sys2Proof.Machine.execFhPortState port up s
  | .ppsEdge => Sys2Proof.Machine.execPpsEdge s
  | .ppsMissed => Sys2Proof.Machine.execPpsMissed s
  | .referencePresent => Sys2Proof.Machine.execReferencePresent s
  | .referenceLocked => Sys2Proof.Machine.execReferenceLocked s
  | .referenceLost => Sys2Proof.Machine.execReferenceLost s
  | .holdoverExpiry => Sys2Proof.Machine.execHoldoverExpiry s
  | .slotTick => Sys2Proof.Machine.execSlotTick s
  | .telemetryTick volts power => Sys2Proof.Machine.execTelemetryTick volts power s
  | .sensorSample readings => Sys2Proof.Machine.execSensorSample readings s
  | .inputPowerGood slotId => Sys2Proof.Machine.execInputPowerGood slotId s
  | .powerWarn volts high => Sys2Proof.Machine.execPowerWarn volts high s
  | .powerRestored us => Sys2Proof.Machine.execPowerRestored us s
  | .overvoltage peak us => Sys2Proof.Machine.execOvervoltage peak us s
  | .switchClose => Sys2Proof.Machine.execSwitchClose s
  | .consistentSnapshot => Sys2Proof.Machine.execConsistentSnapshot s
  | .orderlyStop => Sys2Proof.Machine.execOrderlyStop s
  | .rootLockLoss => Sys2Proof.Machine.execRootLockLoss s
  | .bistWaveEnd failed => Sys2Proof.Machine.execBistWaveEnd failed s
  | .stackTrained stack => Sys2Proof.Machine.execStackTrained stack s
  | .stackTrainingTimeout stack element => Sys2Proof.Machine.execStackTrainingTimeout stack element s
  | .zenithReady => Sys2Proof.Machine.execZenithReady s
  | .fwTrialTimeout => Sys2Proof.Machine.execFwTrialTimeout s
  | .residueMismatch jet column => Sys2Proof.Machine.execResidueMismatch jet column s
  | .accumulatorEccError jet => Sys2Proof.Machine.execAccumulatorEccError jet s
  | .progressFault unit => Sys2Proof.Machine.execProgressFault unit s
  | .failoverDone terrace us => Sys2Proof.Machine.execFailoverDone terrace us s
  | .sparseEngineFault engine => Sys2Proof.Machine.execSparseEngineFault engine s
  | .fatalFault unitClass cause => Sys2Proof.Machine.execFatalFault unitClass cause s
  | .dramPatrol stack errors => Sys2Proof.Machine.execDramPatrol stack errors s
  | .spill base dest => Sys2Proof.Machine.execSpill base dest s
  | .fill base => Sys2Proof.Machine.execFill base s
  | .lifetimeSecond => Sys2Proof.Machine.execLifetimeSecond s
  | .lifetimeRecordSave => Sys2Proof.Machine.execLifetimeRecordSave s
  | .flashLogWrite => Sys2Proof.Machine.execFlashLogWrite s
  | .hstPerstLRelease => Sys2Proof.Machine.execHstPerstLRelease s
  | .nimbusReady => Sys2Proof.Machine.execNimbusReady s
  | .rootPllLock => Sys2Proof.Machine.execRootPllLock s
  | .mailboxCompletion mb => Sys2Proof.Machine.execMailboxCompletion mb s
  | .stepCloseEnd => Sys2Proof.Machine.execStepCloseEnd s
  | .ppsOutPulse => Sys2Proof.Machine.execPpsOutPulse s

end Sys2Proof.Machine
end

