-- ==== Sys2Proof/Safety.lean ====
section
/-! DEFINITION. What counts as a safe step, and the form that every reachable memory has. -/

namespace Sys2Proof.Machine

/-- Every memory of the machine is in its canonical form: addresses strictly rising and no entry equal to what an unlisted
address reads as (log 3). -/
def State.memoriesWf (s : State) : Prop :=
  Mem.wf s.dev = true ∧ Mem.wf s.host = true ∧ Mem.wf s.site = true ∧ Mem.wf s.mbox = true ∧ Mem.wf s.mbReq = true

/-- A command runs: it answers a next state, neither a fault nor a refusal. -/
def State.runs (s : State) (c : Instr) : Prop := ∃ t, exec c s = .next t

end Sys2Proof.Machine
end

