-- ==== Sys2Proof/Certificates/Slice0/Obligations.lean ====
section
/-! DEFINITION. The statements for the provers. A command is due where the spec lets its event happen in the state (log 7); the
premises of each statement say so for its rows. -/

namespace Sys2Proof.Machine

/-! ### What the statements speak of -/

/-- A mailbox command is due: go is set, no command of the mailbox runs, the code is the row's, and steps 1 to 7 of R360 find
nothing to refuse. -/
def MbDue (s : State) (mb : Nat) (c : Cmd) : Prop :=
  s.mbWaits mb = true ∧ s.mbField mb 0 2 = c.code ∧ s.mbRefuse mb c = none

/-- The table row of a mailbox command, with its mailbox and the condition that tells the rows of one code apart; none for
a command of another kind. -/
def mbRowOf (s : State) (c : Instr) : Option (Nat × Cmd × Bool) :=
  match c with
  | .hello mb => some (mb, cmdHello, true)
  | .ringSetup mb => some (mb, cmdRingSetup, true)
  | .ringTeardown mb => some (mb, Cmd.fixed 3 0 4 [(0, 2)], true)
  | .cqSetup mb => some (mb, cmdCqSetup, true)
  | .cqTeardown mb => some (mb, Cmd.fixed 5 0 4 [(0, 2)], true)
  | .eventSetup mb => some (mb, cmdEvent, s.pay mb 0 1 ≠ 0)
  | .eventTeardown mb => some (mb, cmdEvent, s.pay mb 0 1 = 0)
  | .groupBindReplace mb => some (mb, cmdGroup, s.groupAction mb 0)
  | .groupBindAdd mb => some (mb, cmdGroup, s.groupAction mb 1)
  | .groupBindRemove mb => some (mb, cmdGroup, s.groupAction mb 2)
  | .groupBindUnbind mb => some (mb, cmdGroup, s.groupAction mb 3)
  | .tensorAlloc mb _ _ _ => some (mb, cmdAlloc, true)
  | .tensorFree mb => some (mb, { Cmd.fixed 0x11 0 8 [(0, 8)] with bad := fun s mb => s.payAddrBad mb 0 }, true)
  | .spillGrant mb => some (mb, cmdGrant, s.pay mb 16 1 = 0 || decide (2 ≤ s.pay mb 16 1))
  | .spillRevoke mb => some (mb, cmdGrant, s.pay mb 16 1 = 1 || decide (2 ≤ s.pay mb 16 1))
  | .placeQuery mb => some (mb, { Cmd.fixed 0x13 0 8 [(0, 8)] with bad := fun s mb => s.payAddrBad mb 0 }, true)
  | .phasePlanDefine mb => some (mb, cmdPlan, s.planAction mb 0)
  | .phasePlanSelect mb => some (mb, cmdPlan, s.planAction mb 1)
  | .phasePlanDrop mb => some (mb, cmdPlan, s.planAction mb 2)
  | .tensorLoad mb => some (mb, cmdLoad, !s.loadEnc mb)
  | .tensorLoadEncode mb => some (mb, cmdLoad, s.loadEnc mb)
  | .monitorSnapshot mb => some (mb, { Cmd.fixed 0x20 0 16 [(0, 5), (8, 8)] with bad := State.monBad }, true)
  | .monitorRestore mb => some (mb, { Cmd.fixed 0x21 0 16 [(0, 5), (8, 8)] with bad := State.monBad }, true)
  | .emuBasadCfgGet mb => some (mb, cmdBasad, s.basadAction mb 0)
  | .emuBasadCfgSet mb => some (mb, cmdBasad, s.basadAction mb 1)
  | .cascadeJoin mb =>
    some (mb, { Cmd.fixed 0x30 8 72 [(0, 69)] with bad := fun s mb => if s.pay mb 68 1 < 2 then [] else [68] }, true)
  | .cascadeLeave mb => some (mb, Cmd.fixed 0x31 8 0 [], true)
  | .timeSet mb => some (mb, cmdTime, s.pay mb 8 1 ≠ 1)
  | .timeSetAtPps mb => some (mb, cmdTime, s.pay mb 8 1 ≠ 0)
  | .cellConfigSet mb => some (mb, cmdCell, s.pay mb 2 1 ≠ 1)
  | .cellConfigClear mb => some (mb, cmdCell, s.pay mb 2 1 ≠ 0)
  | .unitTest mb _ => some (mb, cmdUnitTest, true)
  | .resourceClaim mb => some (mb, cmdResource 0x100, true)
  | .resourceRelease mb => some (mb, cmdResource 0x101, true)
  | .sensorRead mb => some (mb, Cmd.fixed 0x102 0 4 [(0, 2)], true)
  | .logRead mb =>
    some (mb, { Cmd.fixed 0x103 0 24 [(0, 13), (16, 8)] with bad := fun s mb => if s.pay mb 12 1 < 2 then [] else [12] }, true)
  | .lifetimeRead mb => some (mb, Cmd.fixed 0x104 0 16 [(0, 12)], true)
  | .certRead mb => some (mb, Cmd.fixed 0x114 0 16 [(0, 12)], true)
  | .fwStage mb => some (mb, Cmd.fixed 0x110 0 16 [(0, 12)], true)
  | .fwActivate mb => some (mb, cmdActivate, s.pay mb 0 1 ≠ 1)
  | .fwActivateResetNow mb => some (mb, cmdActivate, s.pay mb 0 1 ≠ 0)
  | .attest mb => some (mb, Cmd.fixed 0x112 0 40 [(0, 40)], true)
  | .debugUnlock mb => some (mb, cmdDebug, s.pay mb 8 4 ≠ 0)
  | .debugRelock mb => some (mb, cmdDebug, s.pay mb 8 4 = 0)
  | _ => none

end Sys2Proof.Machine

open Sys2Proof Sys2Proof.Machine

/-! ### The machine as a whole -/

/-- A step with a command at the front of the queue is that command on the state with the queue's rest. -/
def Obligations.StepRunsFrontCommand : Prop :=
  ∀ (c : Instr) (s : State), step { s with pending := c :: s.pending } = exec c s

namespace Sys2Proof.Machine

/-- A ring of a size and weight that RING_SETUP admits, with no more entries waiting than it holds (R348 to R350). -/
def Ring.sound (r : Ring) : Prop :=
  4 ≤ r.place.z ∧ r.place.z ≤ 16 ∧ 1 ≤ r.weight ∧ r.head < 2 ^ 32 ∧ r.tail < 2 ^ 32 ∧
    (r.tail + 2 ^ 32 - r.head) % 2 ^ 32 ≤ 2 ^ r.place.z

/-- The event ring, if there is one, lies in host memory: the records of events leave device memory as it is. -/
def State.plainEvents (s : State) : Prop := ∀ r : EvRing, s.evRing = some r → r.place.device = false

/-- The bounds that hold in every state a run reaches: canonical memories (log 3), sound rings, at most one running and 16
queued step closes (R213), and an on-die log of at most 1,024 entries (R468). -/
def State.bounded (s : State) : Prop :=
  s.memoriesWf ∧ (∀ e ∈ s.rings, e.2.sound) ∧ s.weirQ.length ≤ 17 ∧ s.dieLog.length ≤ 1024

end Sys2Proof.Machine

/-- Right after reset every register reads the value of its table, every memory reads as unwritten, and no ring, completion
ring, event ring, group, allocation, plan, grant, holder, cascade, flow or descriptor exists. What an unwritten byte reads as is
the model's choice (log 3). The bounds hold right after reset. -/
def Obligations.ResetLeavesTableValues : Prop :=
  ((∀ k, State.reset.reg k = resetWord k) ∧
  (∀ a, Mem.get State.reset.dev a = memDefault ∧ Mem.get State.reset.host a = memDefault ∧
    Mem.get State.reset.site a = memDefault ∧ Mem.get State.reset.mbox a = memDefault) ∧
  State.reset.pending = [] ∧ State.reset.rings = [] ∧ State.reset.cqs = [] ∧ State.reset.evRing = none ∧
  State.reset.groups = [] ∧ State.reset.allocs = [] ∧ State.reset.plans = [] ∧ State.reset.grants = [] ∧
  State.reset.holders = [] ∧ State.reset.casc = none ∧ State.reset.flows = [] ∧ State.reset.jobs = [] ∧
  (∀ i, State.reset.isReady i = false)) ∧
  (State.reset.bounded)

/-- Every step keeps the bounds, from every state that has them. -/
def Obligations.StepKeepsBounds : Prop :=
  ∀ s t : State, s.bounded → step s = .next t → t.bounded

/-- Every command answers a next state, whatever the state and the operands, and none touches the queue of the commands that wait: Genash
reports every error in a status, a flag, an event or a reset and stops at none. The queue is the model's own (log 1). -/
def Obligations.CommandsAnswerAndLeaveTheQueue : Prop :=
  ∀ (c : Instr) (s : State), ∃ t : State, exec c s = .next t ∧ t.pending = s.pending

/-- While debug is locked, no step but a DEBUG_UNLOCK unlocks it. -/
def Obligations.OnlyUnlockOpensDebug : Prop :=
  ∀ s t : State, s.debugOn = false → (∀ mb, s.pending.head? ≠ some (.debugUnlock mb)) → step s = .next t → t.debugOn = false

/-- The fused anti-rollback level never falls, whatever level the image of a slot names. -/
def Obligations.FusedLevelNeverFalls : Prop :=
  ∀ s t : State, step s = .next t → s.fused ≤ t.fused

/-! ### Registers -/

namespace Sys2Proof.Machine

/-- Bytes of the one access that reaches a register (R6). -/
def RegKey.bytes (k : RegKey) : Nat := if (regRow k.name).wide then 8 else 4

/-- The offset at which a read finds a register of BAR0 (bar 0) or of the configuration space of the host link (bar 8) or the management
link (bar 9) (log 25). -/
def readOffset (bar off : Nat) : Nat := if bar = 9 then 0x7000000 + off else if bar = 8 then 0x6000000 + off else off

/-- Bit `i` of a field after bit `y` is written to it (R7). -/
def writtenBit (a : Access) (old y : Bool) : Bool :=
  match a with
  | .rw => y
  | .w1c => old && !y
  | .w1s => old || y
  | .ro | .wo | .rc => old

/-- Debug hides a field while it is locked (R271). -/
def State.hides (s : State) (k : RegKey) (f : Field) : Bool :=
  !s.debugOn && (k.name = .BS_DBG_BOUNDS || (k.name = .BS_ECC_INJECT && f.lo = 33))

end Sys2Proof.Machine

/-- A register is 64 bits wide where its table shows a bit above 31, else 32, and an access of any other width, or one that does not begin at a
register, has no effect and reads 0. QE_BOUNDS at offset 0x1008 and TM_TICK_CFG are 64 bits wide by R345 and R399. That MGT_MB_COMPLETED is 64 bits
wide, and where in a read's offsets the configuration spaces stand, is the model's choice (log 25). -/
def Obligations.OtherAccessWidthsHaveNoEffect : Prop :=
  (∀ n, n ≠ .MGT_MB_COMPLETED → n ≠ .QE_BOUNDS_HI → n ≠ .TM_TICK_CFG → ((regRow n).wide = true ↔ ∃ f ∈ (regRow n).fields, 32 < f.lo + f.w)) ∧
  (∀ bar off n (v : BitVec 64) (s : State) k, (bar = 0 ∨ bar = 8 ∨ bar = 9) → regAt bar off = some k → n ≠ k.bytes →
    exec (.registerWrite bar off n v) s = .next s ∧
    exec (.rcCounterRead (readOffset bar off) n) s = .next { s with readData := ⟨leBytes n 0, false, true⟩ }) ∧
  (∀ off n (v : BitVec 64) (s : State), 0x140000 ≤ off → off < 0x4000000 → regAt 0 off = none →
    exec (.registerWrite 0 off n v) s = .next s ∧
    exec (.rcCounterRead off n) s = .next { s with readData := ⟨leBytes n 0, false, true⟩ })

/-- A register written with an access of its width takes its fields by their access codes, reads 0 where it has no field, and
leaves every other register alone; what its new value sets off is `afterWrite`. WR_SLOT_SCALE, the registers whose writes are rows of
their own, and the writes that the host may not make are left out. A write to a register that the host may not write has no effect. -/
def Obligations.RegisterWritesFollowTheTables : Prop :=
  (∀ bar off (v : BitVec 64) (s : State) k, (bar = 0 ∨ bar = 8 ∨ bar = 9) → regAt bar off = some k → hasRow k = false → s.writeBarred k = false →
    k.name ≠ .WR_SLOT_SCALE → ∃ w, exec (.registerWrite bar off k.bytes v) s = .next ((s.setReg k w).afterWrite k) ∧
      (∀ f ∈ (regRow k.name).fields, ∀ i < f.w,
        bitOf w.toNat (f.lo + i) = writtenBit f.acc (bitOf (s.reg k).toNat (f.lo + i)) (bitOf v.toNat (f.lo + i))) ∧
      (∀ i, (∀ f ∈ (regRow k.name).fields, i < f.lo ∨ f.lo + f.w ≤ i) → bitOf w.toNat i = false)) ∧
  (∀ off n (v : BitVec 64) (s : State) k, regAt 0 off = some k → s.writeBarred k = true →
    exec (.registerWrite 0 off n v) s = .next s)

/-- A read of a register with an access of its width returns its fields, 0 for a write-only or hidden one, and clears its RC fields
and nothing else. -/
def Obligations.ReadReturnsFieldsAndClearsCounters : Prop :=
  ∀ bar off (s : State) k, (bar = 0 ∨ bar = 8 ∨ bar = 9) → regAt bar off = some k →
    ∃ t, exec (.rcCounterRead (readOffset bar off) k.bytes) s = .next t ∧
      t.readData.acked = true ∧ t.readData.poisoned = false ∧ t.readData.bytes.length = k.bytes ∧
      (∀ f ∈ (regRow k.name).fields, bitsOf (leNat t.readData.bytes) f.lo f.w =
        if f.acc = .wo ∨ s.hides k f = true then 0 else s.fld k f.lo f.w) ∧
      (∀ f ∈ (regRow k.name).fields, t.fld k f.lo f.w = if f.acc = .rc then 0 else s.fld k f.lo f.w) ∧
      (∀ n, n ≠ k → t.reg n = s.reg n) ∧
      t = { s with regs := t.regs, readData := t.readData }

/-- An event counter holds at its all-ones value. -/
def Obligations.CountersSaturate : Prop :=
  ∀ (s : State) k n, ((s.bump k n).reg k).toNat = min ((s.reg k).toNat + n) (2 ^ 64 - 1)

/-! ### Rings and dispatch -/

namespace Sys2Proof.Machine

/-- Ring tables are in the order of their keys. -/
def ordered {α : Type} (t : Tab α) : Prop := t.Pairwise fun a b => a.1 < b.1

/-- A ring error counted and latched if none is (R350), before its event. -/
def State.ringFault (s : State) (ring kind cq : Nat) : State :=
  ((if s.bit (rk .QE_RING_ERR_INFO) 63 then s
    else s.setReg (rk .QE_RING_ERR_INFO) (BitVec.ofNat 64 (ring + kind * 2 ^ 16 + 2 ^ 63))).bump (rk .QE_RING_ERRORS)).raise
      0x3 devHandle (payload [(24, 2, ring), (26, 1, kind), (28, 2, cq)])

/-- Deadline that orders a radio ring's head entry; 0 orders last (R287, R352). -/
def State.headDeadline (s : State) (k : Nat) : Nat :=
  match Tab.find? s.rings k with
  | some r => let x := (Desc.ofBytes (s.headBytes r)).deadline; if x = 0 then 2 ^ 64 - 1 else x
  | none => 2 ^ 64 - 1

/-- A tick dispatches: the queue engine is ready, nothing holds dispatch, and no full completion ring is counted. -/
def State.tickOpen (s : State) : Prop :=
  s.queueReady = true ∧ s.dispatchHeld = false ∧ (∀ e ∈ s.rings, s.cqFull e.1 e.2 = false) ∧ ordered s.rings

/-- The ring that follows a cursor among eligible rings, cyclic; the lowest where there is no cursor (R352). -/
def followsCursor (el : List Nat) (cur : Option Nat) (k : Nat) : Prop :=
  k ∈ el ∧ match cur with
    | none => ∀ x ∈ el, k ≤ x
    | some c => if c < k then ∀ x ∈ el, c < x → k ≤ x else ∀ x ∈ el, x ≤ c ∧ k ≤ x

end Sys2Proof.Machine

/-- While a radio ring is eligible, a tick takes the head entry of the one whose head has the earliest deadline; a tie goes to the lower
ring index. Its head moves on by one entry, and no other ring changes. With no radio ring eligible, a tick serves the first class that has an eligible ring: the ring last served while it has deficit,
else the ring that follows it, which takes its weight first. -/
def Obligations.TickServesDeadlineThenDeficit : Prop :=
  (∀ (s : State) (k : Nat) (r : Ring), s.tickOpen → k ∈ s.eligibles 0 → Tab.find? s.rings k = some r → s.headFails r = false →
    (∀ n ∈ s.eligibles 0, n ≠ k → s.headDeadline k < s.headDeadline n ∨ (s.headDeadline k = s.headDeadline n ∧ k < n)) →
    ∃ t, exec .tick s = .next t ∧ t.rings = Tab.put s.rings k { r with head := (r.head + 1) % 2 ^ 32 } ∧ t.cursors = s.cursors) ∧
  (∀ (s : State) (c : Nat), s.tickOpen → (c = 1 ∨ c = 2 ∨ c = 3) → (∀ b < c, s.eligibles b = []) → s.eligibles c ≠ [] →
    (∀ n ∈ s.eligibles c, ∀ x : Ring, Tab.find? s.rings n = some x → s.headFails x = false) →
    ∃ (k : Nat) (r q : Ring) (t : State), k ∈ s.eligibles c ∧ Tab.find? s.rings k = some r ∧ exec .tick s = .next t ∧ Tab.find? t.rings k = some q ∧
      q.head = (r.head + 1) % 2 ^ 32 ∧ q.tail = r.tail ∧ q.weight = r.weight ∧ q.place = r.place ∧
      ((Tab.find? s.cursors c = some k ∧ 1 ≤ r.deficit ∧ q.deficit = r.deficit - 1 ∧ t.cursors = s.cursors) ∨
       ((∀ (n : Nat) (x : Ring), Tab.find? s.cursors c = some n → n ∈ s.eligibles c → Tab.find? s.rings n = some x → x.deficit = 0) ∧
        followsCursor (s.eligibles c) (Tab.find? s.cursors c) k ∧ q.deficit = r.deficit + r.weight - 1 ∧
        Tab.find? t.cursors c = some k)) ∧
      (∀ n, n ≠ k → (Tab.find? t.rings n).map (fun x : Ring => (x.head, x.tail, x.weight)) =
        (Tab.find? s.rings n).map fun x : Ring => (x.head, x.tail, x.weight)))

/-- An entry in device memory whose read fails breaks its ring with kind 2. What becomes of another once its ring's head has moved: an entry whose completion ring does not exist, or is being torn down, leaves no
descriptor and is reported with kind 3; one that fails a check ends at once with that check's status; one placed on a unit of this device
waits for issue there under the next dispatch number. -/
def Obligations.HeadEntryFollowsItsVerdict : Prop :=
  ∀ (s : State) (k : Nat) (r : Ring), Tab.find? s.rings k = some r →
    let raw := s.headBytes r
    let d := Desc.ofBytes raw
    let m := { s.readHead r with rings := Tab.put s.rings k { r with head := (r.head + 1) % 2 ^ 32 } }
    (s.headFails r = true → s.takeHead k r = (s.readHead r).breakRing k 2) ∧
    (s.headFails r = false →
    (Tab.find? s.cqs d.cq = none → s.verdict d raw = .discard) ∧
    (∀ q : Cq, Tab.find? s.cqs d.cq = some q → q.closing = true → s.verdict d raw = .discard) ∧
    (s.verdict d raw = .discard → s.takeHead k r = m.ringFault k 3 d.cq) ∧
    (∀ e, s.verdict d raw = .reject e → ∃ j : Job, (s.takeHead k r).jobs = s.jobs.filter (fun x => x.jid ≠ s.nextJid) ++ [j] ∧
      j.jid = s.nextJid ∧ j.ring = k ∧ j.seq = r.head ∧ j.d = d ∧ j.phase = .done ∧ j.status = e.1 ∧ j.detail = e.2 ∧ j.unit = 0) ∧
    (∀ u c, s.verdict d raw = .go u none c → ∃ j : Job, (s.takeHead k r).jobs = s.jobs ++ [j] ∧
      (s.takeHead k r).nextJid = s.nextJid + 1 ∧ j.jid = s.nextJid ∧ j.ring = k ∧ j.seq = r.head ∧ j.cls = r.cls ∧ j.d = d ∧
      j.phase = .dispatched ∧ j.unit = u ∧ j.issued = none ∧ j.status = 0 ∧ j.flags = 0))

/-- A doorbell write moves tail and nothing else unless tail − head would exceed the ring; then tail stays, the ring goes into the
error state and the error is counted, latched and reported with kind 1. The doorbell of a ring that does not exist changes no
ring and is counted and reported with kind 4. That a second overrun in the error state reports nothing more is the model's reading
(log 27). A failed read of Genash, refused, poisoned or timed out, is counted; one of ring memory breaks its ring with kind 2, and one for a
descriptor that runs ends it with LINK_ERROR and gives back the slots it claimed, EMPTY and unclaimed. A good completion changes nothing. -/
def Obligations.DoorbellsAndReadsMoveOrBreakRings : Prop :=
  (∀ ring wide (v : BitVec 64) (s : State),
    (∀ r : Ring, Tab.find? s.rings ring = some r →
      ((v.toNat % 2 ^ 32 + 2 ^ 32 - r.head) % 2 ^ 32 ≤ 2 ^ r.place.z →
        exec (.doorbellWrite ring wide v) s = .next { s with rings := Tab.put s.rings ring { r with tail := v.toNat % 2 ^ 32 } }) ∧
      (2 ^ r.place.z < (v.toNat % 2 ^ 32 + 2 ^ 32 - r.head) % 2 ^ 32 →
        exec (.doorbellWrite ring wide v) s = .next (if r.error then s else
          { s with rings := Tab.put s.rings ring { r with error := true } }.ringFault ring 1 0))) ∧
    (Tab.find? s.rings ring = none → exec (.doorbellWrite ring wide v) s = .next (s.ringFault ring 4 0))) ∧
  (∀ (s : State) (o : ReadOwner),
    exec (.readCompletion o true) s = .next s ∧
    exec (.readCompletion o false) s = exec (.completionTimeout o) s ∧
    (∀ (k : Nat) (r : Ring), o = .ring k → Tab.find? s.rings k = some r →
      exec (.completionTimeout o) s =
        .next ({ s.bump (rk .HI_READ_ERRORS) with rings := Tab.put s.rings k { r with error := true } }.ringFault k 2 0)) ∧
    (∀ (n : Nat) (j : Job), o = .job n → s.job? n = some j → j.phase ≠ .done →
      ∃ t : State, exec (.completionTimeout o) s = .next t ∧ t.reg (rk .HI_READ_ERRORS) = (s.bump (rk .HI_READ_ERRORS)).reg (rk .HI_READ_ERRORS) ∧
        (∃ e : Job, t.jobs = s.jobs.filter (fun x => x.jid ≠ j.jid) ++ [e] ∧ e.jid = j.jid ∧ e.phase = .done ∧ e.status = 0x45 ∧ e.detail = 0) ∧
        ((∀ c ∈ j.claimed, isRemote c.1 = false) → ∀ c ∈ j.claimed, t.slotFull c.1 c.2 = false ∧ t.slotClaimed c.1 c.2 = false)))

/-! ### Completion records, vectors and events -/

namespace Sys2Proof.Machine

/-- The vectors that posting a record sets off: the ring's own once max(n, 1) records have been posted since it was last sent
(R357). -/
def Cq.sends (q : Cq) : List Post := if max q.n 1 ≤ q.since + 1 then [.vector q.vector] else []

/-- Address of a vector's table entry (log 4). -/
def State.vectorAddr (s : State) (v : Nat) : Nat :=
  (s.reg (rk .MSIX_ADDR_LO 0 v)).toNat + 2 ^ 32 * (s.reg (rk .MSIX_ADDR_HI 0 v)).toNat

end Sys2Proof.Machine

/-- A completion record of a descriptor of this module lies at base + 32 × (i mod 2^z) of its ring, with phase 1 where ⌊i ÷ 2^z⌋ is even, i
records having been posted before it. In device memory it stands there after the step; bound for host memory it is sent there, or
waits behind what waits already, with the ring's vector after it. The descriptor is gone, and the ring has posted one
record more. The timer of a completion ring sends its vector where a record has been posted since it was last sent and t is not 0; the count since
then starts again, and no ring's records change. -/
def Obligations.RecordsLandAndVectorsFollow : Prop :=
  (∀ (s : State) (jid : Nat) (j : Job) (q : Cq), s.memoriesWf → s.job? jid = some j → s.postDue j = true → j.origin = none → bitOf j.flags flRemote = false →
    Tab.find? s.cqs j.d.cq = some q →
    let off := 32 * (q.posted % 2 ^ q.place.z)
    let bytes := j.record s.tk 0xFF (s.lateFlags j.cls j.d.deadline j.flags) (if q.posted / 2 ^ q.place.z % 2 = 0 then 1 else 0)
    ∃ t : State, exec (.completionRecordPost jid) s = .next t ∧
      t.jobs = s.jobs.filter (fun x => x.jid ≠ jid) ∧
      Tab.find? t.cqs j.d.cq = some { q with posted := q.posted + 1, since := if q.sends = [] then q.since + 1 else 0 } ∧
      (∀ c, c ≠ j.d.cq → Tab.find? t.cqs c = Tab.find? s.cqs c) ∧
      (∀ l st : Nat, q.place.device = true → q.place.base % 4096 = 0 → s.loc ((q.place.base + off) % 2 ^ 56) = .dram l st →
        Tab.find? s.dramErr (codeKey st l) = none → Mem.read t.dev l 32 = bytes ∧ ∀ a, (a < l ∨ l + 32 ≤ a) → Mem.get t.dev a = Mem.get s.dev a) ∧
      (q.place.device = false → t.dev = s.dev ∧
        (s.hostOpen = true ∧ s.hostWait = [] ∧ q.sends = [] → Mem.read t.host (q.place.base + off) 32 = bytes ∧
          ∀ a, (a < q.place.base + off ∨ q.place.base + off + 32 ≤ a) → Mem.get t.host a = Mem.get s.host a) ∧
        (s.hostOpen = false ∨ s.hostWait ≠ [] →
          t.host = s.host ∧ t.hostWait = s.hostWait ++ .write (q.place.base + off) bytes :: q.sends))) ∧
  (∀ (s : State) (c : Nat) (q : Cq), Tab.find? s.cqs c = some q → q.since ≠ 0 → q.t ≠ 0 →
    exec (.msixTimer c) s = .next ({ s with cqs := Tab.put s.cqs c { q with since := 0 } }.send (.vector q.vector)))

/-- A raised event enters the on-die log under its sequence number and radio time. An event ring with room takes its 64 bytes
at base + 64 × (i mod 2^z), where that lies on a stack, or in host memory, with vector 2047 after them: at once where the host takes writes and
nothing waits, else behind what waits; one without room loses it and counts it in QE_EV_LOST; without a ring nothing is counted. Codes 0x303 and
0x406 go to the logs only. No other event is raised with it, unless the write of its record fails and is latched itself. -/
def Obligations.EventsAreLoggedThenPosted : Prop :=
  ∀ (s : State) (code unit : Nat) (pay : List Byte),
    (∃ e, (s.logEvent code unit pay).dieLog.getLast? = some e ∧ e.code = code ∧ e.unit = unit ∧ e.payload = pay ∧
      e.seq = s.evSeq % 2 ^ 32 ∧ e.time = s.now) ∧
    (s.logEvent code unit pay).evSeq = s.evSeq + 1 ∧
    (s.evRing = none ∨ code = 0x303 ∨ code = 0x406 → s.raise code unit pay = s.logEvent code unit pay) ∧
    (∀ r : EvRing, s.evRing = some r → code ≠ 0x303 → code ≠ 0x406 →
      let a := r.place.base + 64 * (r.posted % 2 ^ r.place.z)
      let bytes := eventBytes code (s.evSeq % 2 ^ 32) s.now unit pay (if r.posted / 2 ^ r.place.z % 2 = 0 then 128 else 0)
      (s.evRoom r = true → r.place.device = false ∨ (∃ l st : Nat, s.loc (a % 2 ^ 56) = .dram l st) →
        (s.raise code unit pay).evRing = some { r with posted := r.posted + 1 } ∧
        (s.raise code unit pay).dieLog = (s.logEvent code unit pay).dieLog ∧ (s.raise code unit pay).evSeq = s.evSeq + 1 ∧
        (∀ l st : Nat, r.place.device = true → s.loc (a % 2 ^ 56) = .dram l st → s.memoriesWf →
          Mem.read (s.raise code unit pay).dev l 64 = bytes ∧ ∀ x, (x < l ∨ l + 64 ≤ x) → Mem.get (s.raise code unit pay).dev x = Mem.get s.dev x) ∧
        (r.place.device = false → (s.raise code unit pay).dev = s.dev) ∧
        (r.place.device = false → s.hostOpen = true → s.hostWait = [] → (s.raise code unit pay).hostWait = [] ∧
          (s.raise code unit pay).host = if s.bit (rk .PCI_MSIX) 31 = true ∧ s.bit (rk .PCI_MSIX) 30 = false ∧ s.bit (rk .MSIX_CTRL 0 2047) 0 = false then
            Mem.write (Mem.write s.host a bytes) (s.vectorAddr 2047) (leBytes 4 (s.reg (rk .MSIX_DATA 0 2047)).toNat) else Mem.write s.host a bytes) ∧
        (r.place.device = false → s.hostOpen = false ∨ s.hostWait ≠ [] → (s.raise code unit pay).host = s.host ∧
          (s.raise code unit pay).hostWait = s.hostWait ++ [.write a bytes, .vector 2047])) ∧
      (s.evRoom r = false → (s.raise code unit pay).dieLog = (s.logEvent code unit pay).dieLog ∧ (s.raise code unit pay).evRing = some r ∧ (s.raise code unit pay).evLost = s.evLost + 1 ∧
        (s.raise code unit pay).reg (rk .QE_EV_LOST) = (s.bump (rk .QE_EV_LOST)).reg (rk .QE_EV_LOST) ∧
        (s.raise code unit pay).dev = s.dev ∧ (s.raise code unit pay).host = s.host))

/-! ### Host link, windows and debug -/

namespace Sys2Proof.Machine

/-- A window of a physical basin admits a request of `n` bytes at pool address `x` for a class (R248). -/
def State.windowAdmits (s : State) (u k x n cls : Nat) : Prop :=
  s.bit (rk .BS_WIN u k) 40 = true ∧ s.bit (rk .BS_WIN u k) (32 + cls) = true ∧
    256 * s.fld (rk .BS_WIN u k) 0 15 ≤ x ∧ x + n ≤ 256 * s.fld (rk .BS_WIN u k) 16 15 + 256

/-- Host memory after a write that waited. -/
def Post.store (m : Mem) : Post → Mem
  | .write a bs => Mem.write m a bs
  | .vector _ => m

/-- The pools' words at `n` bytes from device address `a` hold no error. -/
def State.soundWords (s : State) (a n : Nat) : Prop := ∀ b, a ≤ b → b < a + n → Tab.find? s.poolErr (b / 32) = none

/-- A sample taken from a terrace's queue, with its inputs read (R216, R219). -/
def State.sampleTaken (s : State) (t : Nat) (x : HaloSample) : State :=
  let q := (Tab.getD s.haloQ t []).erase x
  let s := { s with haloQ := if q.isEmpty then Tab.del s.haloQ t else Tab.put s.haloQ t q }.setReg (rk .HL_PENDING 0 t)
    (BitVec.ofNat 64 q.length)
  (s.readSpans x.who (s.sampleSpans x)).1

/-- Readiness bit 8, the host link's, set or cleared with what depends on it, and EV_READY or EV_NOT_READY for it. -/
def State.linkReady (s : State) (b : Bool) : State := (s.setOwn 8 b).settle

end Sys2Proof.Machine

/-- A pool write request over words without an error lands whole, and changes no other byte, exactly where some window of the basin is enabled, admits its class and
covers every byte of it; else no byte lands, the drop is counted, and the first since BS_WIN_DROP_INFO was last clear is latched there
and reported. -/
def Obligations.PoolRequestLandsOnlyThroughWindow : Prop :=
  ∀ (q x cls : Nat) (w : BitVec 24) (bs : List Byte) (s : State), Mem.wf s.dev = true → s.soundWords (poolBase q + x) bs.length →
    ((∃ k < 16, s.windowAdmits (s.physB q) k x bs.length cls) →
      ∃ t : State, exec (.poolWriteRequest q x cls w bs) s = .next t ∧ Mem.read t.dev (poolBase q + x) bs.length = bs ∧
        (∀ a, a < poolBase q + x ∨ poolBase q + x + bs.length ≤ a → Mem.get t.dev a = Mem.get s.dev a) ∧
        t.host = s.host ∧ (∀ k, t.reg (rk .BS_WIN (s.physB q) k) = s.reg (rk .BS_WIN (s.physB q) k))) ∧
    ((∀ k < 16, ¬ s.windowAdmits (s.physB q) k x bs.length cls) →
      let u := s.physB q
      let d := s.bump (rk .BS_WIN_DROPS u)
      exec (.poolWriteRequest q x cls w bs) s = .next (if s.bit (rk .BS_WIN_DROP_INFO u) 63 then d else
        (d.setReg (rk .BS_WIN_DROP_INFO u) (BitVec.ofNat 64 (x + 2 ^ 24 * cls + 2 ^ 32 * w.toNat + 2 ^ 63))).raise 0x10
          (hereHandle (0x200 + q)) (payload [(24, 4, x), (28, 1, cls), (29, 3, w.toNat)])))

/-- A host write through BAR2 to a live allocation on the stacks, within one codeword that holds no error, stores its bytes at HI_BAR2_BASE.base × 2^30 + offset
and changes no other byte of any memory. With the link down or outside the window nothing happens. A host read through BAR2 answers the bytes that stand in the window and leaves every mailbox, job and ring as it is; an uncorrectable codeword poisons
the answer and is counted. -/
def Obligations.HostAccessesReachTheWindow : Prop :=
  (∀ (off : Nat) (bs : List Byte) (s : State),
    (s.inbound off bs.length = false → exec (.hostWrite off bs) s = .next s) ∧
    (∀ l st : Nat, s.inbound off bs.length = true → s.loc (s.bar2 off) = .dram l st → l = s.bar2 off → Mem.wf s.dev = true →
      Tab.find? s.dramErr (codeKey st l) = none → 0 < bs.length → s.bar2 off % 64 + bs.length ≤ 64 →
      ∃ t : State, exec (.hostWrite off bs) s = .next t ∧ Mem.read t.dev (s.bar2 off) bs.length = bs ∧
        (∀ a, a < s.bar2 off ∨ s.bar2 off + bs.length ≤ a → Mem.get t.dev a = Mem.get s.dev a) ∧
        t.host = s.host ∧ t.site = s.site ∧ t.mbox = s.mbox)) ∧
  (∀ (off len : Nat) (s : State),
    (s.inbound off len = false → exec (.hostRead off len) s = .next s) ∧
    (s.inbound off len = true →
      ∃ t : State, exec (.hostRead off len) s = .next t ∧ t.readData.bytes = s.peek hostWho (s.bar2 off) 0 len ∧
        t.readData.acked = true ∧ (t.readData.poisoned = true ↔ ∃ d, (0x44, d) ∈ (s.readEach hostWho (s.bar2 off) len).2) ∧
        (let v := (s.readEach hostWho (s.bar2 off) len).1
         t.reg (rk .HI_POISON_SENT) = if t.readData.poisoned = true then (v.bump (rk .HI_POISON_SENT)).reg (rk .HI_POISON_SENT) else v.reg (rk .HI_POISON_SENT)) ∧
        t.mbox = s.mbox ∧ t.site = s.site ∧ t.jobs = s.jobs ∧ t.rings = s.rings))

/-- The host link going down clears readiness bit 8 and reports it; coming up, trained, it shows rate, width and mode, also in the link status
of its configuration space (log 4), posts what waited before
anything that follows, and sets bit 8. In D3hot nothing is posted; D0 posts what waited. A link that is up stays up, and one held by
HST_PERST_L or without input power does not train. -/
def Obligations.HostLinkStateFollowsItsEvents : Prop :=
  ∀ s : State,
    (s.bit (rk .HI_LINK) 10 = true → exec .hostLinkDown s =
      .next (((((s.setFld (rk .HI_LINK) 10 1 0).bump (rk .HI_LINK_DOWNS)).linkReady false)).raise 0x100 devHandle (payload []))) ∧
    (s.bit (rk .HI_LINK) 10 = false → exec .hostLinkDown s = .next s) ∧
    (∀ (rate width : Nat) (flit : Bool), rate < 16 → width < 32 → s.bit (rk .HI_LINK) 10 = false → s.perst = false → s.powerGood = true →
      exec (.hostLinkUp rate width flit) s = .next (((((((s.setReg (rk .HI_LINK)
        (BitVec.ofNat 64 (rate + 2 ^ 4 * width + 2 ^ 9 * flagNat flit + 2 ^ 10))).setFld (rk .PCI_LINK_CTRL) 16 4 rate).setFld (rk .PCI_LINK_CTRL) 20 6
          width).setFld (rk .PCI_LINK_CTRL2) 26 1 (flagNat flit)).flushWait).linkReady true).raise 0x101 devHandle
          (payload [(24, 1, rate), (25, 1, width)]))) ∧
    (∀ (rate width : Nat) (flit : Bool), s.bit (rk .HI_LINK) 10 = true ∨ s.perst = true ∨ s.powerGood = false →
      exec (.hostLinkUp rate width flit) s = .next s) ∧
    exec .d3hot s = .next { s.setFld (rk .PCI_PM_CTRL) 0 2 3 with d3 := true } ∧
    exec .d0 s = .next ({ s.setFld (rk .PCI_PM_CTRL) 0 2 0 with d3 := false }).flushWait

/-- READY_MAP follows the conditions of the functions: when any bit differs, all the words take their conditions in one step, the generation is one more, and each
changed bit, in ascending order, is reported with the event of its new value; when none differs nothing happens. A jet or a sparse engine is ready while its basin is. -/
def Obligations.ReadyMapChangesAreReported : Prop :=
  (∀ (s : State) (x : RegName × Nat × Nat) (i : Nat), x ∈ readyWords → i < x.2.2 →
    (x.2.1 + i ∈ s.readyChanges ↔ s.bit (rk x.1) i ≠ s.isReady (x.2.1 + i)) ∧ s.refreshReady.bit (rk x.1) i = s.isReady (x.2.1 + i)) ∧
  (∀ s : State,
    let ch := s.readyChanges
    let g := (s.fld (rk .READY_GENERATION) 0 32 + 1) % 2 ^ 32
    ch.Pairwise (· < ·) ∧ (ch = [] → s.refreshReady = s) ∧
    (ch ≠ [] → s.refreshReady.fld (rk .READY_GENERATION) 0 32 = g ∧ (s.plainEvents → s.refreshReady.evSeq = s.evSeq + ch.length) ∧
      (s.plainEvents → s.dieLog.length + ch.length ≤ 1024 → ∃ l : List LogEntry, s.refreshReady.dieLog = s.dieLog ++ l ∧
        l.map (fun e => (e.code, e.unit, e.payload)) = ch.map fun i => ((if s.isReady i = true then 1 else 2), devHandle,
          payload [(24, 1, (readyKind i).1), (25, 2, (readyKind i).2), (28, 4, g)])))) ∧
  (∀ (s : State) (x : Nat), (x < 560 → s.unitReady (0x400 + x) = s.basinReady (x / 4)) ∧ (x < 280 → s.unitReady (0x800 + x) = s.basinReady (x / 2)))

/-- A write or vector goes out at once while the host link is up, in D0, with nothing waiting; else it waits at the end. A write that goes out
stores its bytes and nothing else. While MSI-X is not enabled no vector is sent. One whose mask bit or the function mask is set only sets its
pending bit; another stores its 4 data bytes at its table address (the table and the enable bits are laid out as the family's, log 4). What waited for the host goes out in order: every write, in the order in which it came, and then the vectors; with the host closed, and
from a consistent snapshot on, it goes on waiting. -/
def Obligations.PostsGoOutOrWaitInOrder : Prop :=
  (∀ (s : State) (p : Post),
    (s.hostOpen = false ∨ s.hostWait ≠ [] → s.send p = { s with hostWait := s.hostWait ++ [p] }) ∧
    (s.hostOpen = true → s.hostWait = [] →
      (∀ (a : Nat) (bs : List Byte), p = .write a bs → s.send p = { s with host := Mem.write s.host a bs }) ∧
      (∀ v : Nat, p = .vector v → s.bit (rk .PCI_MSIX) 31 = false → s.send p = s) ∧
      (∀ v : Nat, p = .vector v → s.bit (rk .PCI_MSIX) 31 = true → s.bit (rk .PCI_MSIX) 30 = true ∨ s.bit (rk .MSIX_CTRL 0 v) 0 = true →
        s.send p = s.setFld (rk .MSIX_PBA 0 (v / 32)) (v % 32) 1 1) ∧
      (∀ v : Nat, p = .vector v → s.bit (rk .PCI_MSIX) 31 = true → s.bit (rk .PCI_MSIX) 30 = false → s.bit (rk .MSIX_CTRL 0 v) 0 = false →
        s.send p = { s with host := Mem.write s.host (s.vectorAddr v) (leBytes 4 (s.reg (rk .MSIX_DATA 0 v)).toNat) }))) ∧
  (∀ s : State,
    (s.hostOpen = false ∨ s.snapshotBegun = true → s.flushWait = s) ∧
    (s.hostOpen = true → s.snapshotBegun = false →
      let u : State := { s with hostWait := [], host := s.hostWait.foldl Post.store s.host }
      s.flushWait = (s.hostWait.filter fun p => !p.isWrite).foldl State.send u ∧ s.flushWait.hostWait = [] ∧
      (s.hostWait.all Post.isWrite = true → s.flushWait = u)))

/-- A write of BS_ECC_INJECT sets its address, bit and double fields; arm is set only by a 1 written while debug is unlocked. A debug halt stops the jet that HI_DBG_SEL names while BAR4 is there, debug is unlocked and the host holds the view of its terrace, and the
jet is in service; writing 0 resumes it. While debug is locked neither does anything, no BAR4 read returns other than 0 and no BAR4
write has an effect. -/
def Obligations.DebugActsOnlyUnlocked : Prop :=
  (∀ basin (v : BitVec 64) (s : State),
    ∃ t, exec (.eccInjectArm basin v) s = .next t ∧
      t.fld (rk .BS_ECC_INJECT basin) 0 23 = bitsOf v.toNat 0 23 ∧ t.fld (rk .BS_ECC_INJECT basin) 24 8 = bitsOf v.toNat 24 8 ∧
      t.fld (rk .BS_ECC_INJECT basin) 32 1 = bitsOf v.toNat 32 1 ∧
      (t.bit (rk .BS_ECC_INJECT basin) 33 = (s.bit (rk .BS_ECC_INJECT basin) 33 || (s.debugOn && bitOf v.toNat 33))) ∧
      (∀ k, k ≠ rk .BS_ECC_INJECT basin → t.reg k = s.reg k) ∧ t = { s with regs := t.regs }) ∧
  (∀ s : State,
    (s.debugOn = false ∨ s.bar4 = false → exec .debugHalt s = .next s ∧ exec .debugResume s = .next s ∧
      (∀ (off n : Nat) (v : BitVec 64), exec (.registerWrite 4 off n v) s = .next s) ∧
      (∀ off n : Nat, 0x4000000 ≤ off → off < 0x5000000 →
        exec (.rcCounterRead off n) s = .next { s with readData := ⟨leBytes n 0, false, true⟩ })) ∧
    (∀ t u : Nat, s.debugOn = true → s.bar4 = true → u = s.fld (rk .HI_DBG_SEL) 0 10 → u < 595 → s.logicalTof u = some t →
      s.holder (resView t) = 1 → s.fld (rk .JT_STATUS u) 0 2 ≠ 3 →
      ∃ r : State, exec .debugHalt s = .next r ∧ r.haltedU u = true ∧ r.bit (rk .HI_DBG_HALT) 0 = true ∧ r.bit (rk .HI_DBG_HALT) 1 = true ∧
        (∀ k, k ≠ rk .JT_STATUS u → k ≠ rk .HI_DBG_HALT → r.reg k = s.reg k) ∧ r = { s with regs := r.regs }) ∧
    (∀ u : Nat, s.debugOn = true → s.bar4 = true → u = s.fld (rk .HI_DBG_SEL) 0 10 →
      ∃ r : State, exec .debugResume s = .next r ∧ r.haltedU u = false ∧ r.bit (rk .HI_DBG_HALT) 0 = false ∧ r.bit (rk .HI_DBG_HALT) 1 = false ∧
        (∀ k, k ≠ rk .JT_STATUS u → k ≠ rk .HI_DBG_HALT → r.reg k = s.reg k) ∧ r = { s with regs := r.regs }))

/-- A Halo comparison takes the oldest sample of the terrace's queue whose descriptor has its record, unless a debug view is open on the
terrace, sparing holds its reserve jet or a snapshot holds the monitor counts: of a MATMUL it adds 1 to halo_samples of the slot, raises halo_max_ulps to D, and adds 1 to halo_over
exactly where D or rel exceeds a threshold that is not 0. The sample leaves its place, and HL_PENDING shows how many are left. -/
def Obligations.HaloComparisonCountsOneSample : Prop :=
  ∀ (s : State) (t : Nat) (x : HaloSample), (Tab.getD s.haloQ t []).find? (fun y => !s.inFlight y) = some x →
    (s.viewOpen t = true ∨ s.spared t = true ∨ s.holdPost = true → exec (.haloComparison t) s = .next s) ∧
    (s.viewOpen t = false → s.spared t = false → s.holdPost = false → x.d.opcode = opMatmul →
    let v := s.sampleTaken t x
    let D := (compareRow (v.segColumns x)).1
    let rel := (compareRow (v.segColumns x)).2
    ∃ u : State, exec (.haloComparison t) s = .next u ∧
      Tab.getD u.haloQ t [] = (Tab.getD s.haloQ t []).erase x ∧
      u.reg (rk .HL_PENDING 0 t) = BitVec.ofNat 64 ((Tab.getD s.haloQ t []).erase x).length ∧
      u.slotMon x.d.slot = { s.slotMon x.d.slot with
        haloSamples := min ((s.slotMon x.d.slot).haloSamples + 1) (2 ^ 32 - 1)
        haloOver := min ((s.slotMon x.d.slot).haloOver + flagNat (v.overThresh x.d.slot D rel)) (2 ^ 32 - 1)
        haloMaxUlps := max (s.slotMon x.d.slot).haloMaxUlps D } ∧
      (∀ n, n ≠ x.d.slot → u.slotMon n = s.slotMon n) ∧ u.jobs = s.jobs ∧ u.rings = s.rings ∧ u.grp = s.grp ∧ u.acc = s.acc)

/-! ### Mailboxes -/

namespace Sys2Proof.Machine

/-- A command of a mailbox is due: it waits there, its row is the command's, and nothing refuses it in steps 1 to 7 of R360. -/
def MailboxDue (s : State) (c : Instr) : Prop :=
  match mbRowOf s c with
  | some (mb, r, mine) => MbDue s mb r ∧ mine = true
  | none => False

/-- A mailbox command ends with SUCCESS and a response. -/
def answersOk (mb : Nat) (t : State) (resp : List Byte) : Res := .next (t.mbAnswer mb 0 0 resp)

/-- Byte `o` of a mailbox holds a reserved header value that is not 0. -/
def State.headerFault (s : State) (mb o : Nat) : Prop :=
  (o = 16 ∧ 8 ≤ s.mbField mb 16 1) ∨ (17 ≤ o ∧ o < 64 ∧ s.mbField mb o 1 ≠ 0)

/-- Byte `o` of a payload of at most 4,032 bytes holds a reserved value: a byte that the table does not name and that is not 0, or the first byte of a reserved
value of the command's fields. -/
def State.payloadFault (s : State) (mb : Nat) (c : Cmd) (o : Nat) : Prop :=
  (o < min (c.len s mb) 4032 ∧ s.pay mb o 1 ≠ 0 ∧ ∀ r ∈ c.named s mb, o < r.1 ∨ r.1 + r.2 ≤ o) ∨ o ∈ c.bad s mb

end Sys2Proof.Machine

/-- The end of a mailbox command: response, response length, status and detail stand in the mailbox, go is clear and done set, the bit of the
completion register is set, a host mailbox is no longer pending and sends vector 2046 if it asked for it at the start, unless the link is down or
MSI-X is not enabled, a site controller's mailbox sends the vector of the management link likewise (its table is laid out by the model, log 4), and no
other byte of a mailbox changes. The answer of a command that an FLR has overtaken is discarded, and a command put
into the mailbox since then starts. -/
def Obligations.MailboxAnswerWritesCompletion : Prop :=
  ∀ (s : State) (mb status detail : Nat) (resp : List Byte), Mem.wf s.mbox = true → resp.length ≤ 4032 → mb < 72 →
    let b := 4096 * mb
    let t := s.mbAnswer mb status detail resp
    let irq : Prop := bitOf (s.mbField mb 16 1) 2 = true
    let asks : Prop := irq ∧ s.bit (rk .HI_LINK) 10 = true ∧ s.bit (rk .PCI_MSIX) 31 = true
    let masked : Prop := s.bit (rk .MCF_MSIX) 30 = true ∨ s.bit (rk .MCF_VEC_CTRL) 0 = true
    (mb ∈ s.mbGone →
      let u : State := { s with mbReq := Mem.erase s.mbReq b 4096, mbGone := s.mbGone.filter (· ≠ mb), mbRun := Tab.del s.mbRun mb, mbMark := Tab.del s.mbMark mb }
      (s.mbGo mb = false → t = u) ∧ (s.mbGo mb = true → t = u.mbStart mb)) ∧
    (mb ∉ s.mbGone → Mem.read t.mbox (b + 64) resp.length = resp ∧ Mem.read t.mbox (b + 2) 2 = leBytes 2 status ∧
      Mem.read t.mbox (b + 8) 4 = leBytes 4 detail ∧ Mem.read t.mbox (b + 14) 2 = leBytes 2 resp.length ∧
      (Mem.get t.mbox (b + 16)).toNat = (Mem.get s.mbox (b + 16)).toNat / 4 * 4 + 2 ∧ t.inProgress mb = false ∧
      (∀ a, (a < b ∨ b + 4096 ≤ a) → Mem.get t.mbReq a = Mem.get s.mbReq a) ∧
      (∀ a, (a < b + 64 ∨ b + 64 + resp.length ≤ a) → a ≠ b + 2 → a ≠ b + 3 → (a < b + 8 ∨ b + 12 ≤ a) → (a < b + 14 ∨ b + 17 ≤ a) →
        Mem.get t.mbox a = Mem.get s.mbox a) ∧
      Tab.find? t.mbRun mb = none ∧ (∀ n, n ≠ mb → Tab.find? t.mbRun n = Tab.find? s.mbRun n) ∧
      (mb < 64 → t.bit (rk .MB_COMPLETED) mb = true ∧ t.bit (rk .MB_PENDING) mb = false ∧
        (∀ i, i < 64 → i ≠ mb → t.bit (rk .MB_COMPLETED) i = s.bit (rk .MB_COMPLETED) i ∧
          t.bit (rk .MB_PENDING) i = s.bit (rk .MB_PENDING) i) ∧
        (asks → (s.hostOpen = false ∨ s.hostWait ≠ []) → t.hostWait = s.hostWait ++ [.vector 2046]) ∧
        (¬ asks → t.hostWait = s.hostWait ∧ t.host = s.host) ∧ t.site = s.site ∧
        t.reg (rk .MCF_VEC_PENDING) = s.reg (rk .MCF_VEC_PENDING)) ∧
      (64 ≤ mb → t.bit (rk .MGT_MB_COMPLETED) (mb - 64) = true ∧ t.hostWait = s.hostWait ∧ t.host = s.host ∧
        (¬ irq ∨ s.bit (rk .MCF_MSIX) 31 = false → t.site = s.site ∧ t.reg (rk .MCF_VEC_PENDING) = s.reg (rk .MCF_VEC_PENDING)) ∧
        (irq → s.bit (rk .MCF_MSIX) 31 = true → masked → t.site = s.site ∧ t.bit (rk .MCF_VEC_PENDING) 0 = true) ∧
        (irq → s.bit (rk .MCF_MSIX) 31 = true → ¬ masked → t.reg (rk .MCF_VEC_PENDING) = s.reg (rk .MCF_VEC_PENDING) ∧
          t.site = Mem.write s.site ((s.reg (rk .MCF_VEC_ADDR_LO)).toNat + 2 ^ 32 * (s.reg (rk .MCF_VEC_ADDR_HI)).toNat)
            (leBytes 4 (s.reg (rk .MCF_VEC_DATA)).toNat))) ∧
      (∀ k : RegKey, k.name ≠ .MB_COMPLETED → k.name ≠ .MB_PENDING → k.name ≠ .MGT_MB_COMPLETED → k.name ≠ .MSIX_PBA → k.name ≠ .MCF_VEC_PENDING →
        t.reg k = s.reg k) ∧
      t = { s with mbox := t.mbox, mbReq := t.mbReq, mbRun := t.mbRun, mbMark := t.mbMark, regs := t.regs, host := t.host, hostWait := t.hostWait, site := t.site })

/-- The checks that every mailbox command passes come in the order of R360, and the first that fails decides the status; a command that
fails changes nothing but its answer. Where several bytes fail one check, the lowest is reported. -/
def Obligations.MailboxChecksComeInOrder : Prop :=
  ∀ (s : State) (c : Instr) (mb : Nat) (r : Cmd), mbRowOf s c = some (mb, r, true) → s.mbWaits mb = true → s.mbField mb 0 2 = r.code →
    let fails (st d : Nat) : Prop := exec c s = .next (s.mbAnswer mb st d [])
    let clean := ∀ o, ¬ s.headerFault mb o
    (∀ o, s.headerFault mb o → (∀ x < o, ¬ s.headerFault mb x) → fails 2 o) ∧
    (clean → (56 ≤ mb ↔ r.code < 0x100) → fails 0x10 0) ∧
    (clean → (56 ≤ mb ↔ 0x100 ≤ r.code) → s.servant mb r.code = false → fails 0x11 0) ∧
    (clean → mb < 56 → r.code < 0x100 → s.servant mb r.code = true → r.code ≠ 1 →
      (s.helloDone = false → fails 1 0) ∧ (s.helloDone = true → bitOf s.feat r.feat = false → fails 1 r.feat)) ∧
    (clean → (56 ≤ mb ↔ 0x100 ≤ r.code) → s.servant mb r.code = true →
      (r.code < 0x100 → r.code ≠ 1 → s.helloDone = true ∧ bitOf s.feat r.feat = true) →
      (s.mbField mb 12 2 ≠ r.len s mb → fails 0x12 (r.len s mb)) ∧
      (s.mbField mb 12 2 = r.len s mb → ∀ o, s.payloadFault mb r o → (∀ x < o, ¬ s.payloadFault mb r x) → fails 2 (64 + o)))

/-- HELLO negotiates the AND of the word asked for and the word advertised, with bit 0 always, and answers both; while any ring exists it ends
with BUSY and changes nothing. Every reset but a compute reset and a unit reset clears the word. Rings come into being at their SETUP, empty, with nothing posted and their head registers at 0, where the request keeps its limits and no ring of the index
exists. A teardown of the event ring ends at once. -/
def Obligations.HelloAndSetupsBeginTheRings : Prop :=
  (∀ (mb : Nat) (s : State), MailboxDue s (.hello mb) →
    (s.rings ≠ [] ∨ s.cqs ≠ [] → exec (.hello mb) s = .next (s.mbAnswer mb 0x13 0 [])) ∧
    (s.rings = [] → s.cqs = [] → ∃ (f : Nat) (resp : List Byte), exec (.hello mb) s = answersOk mb { s with feat := f, helloDone := true } resp ∧
      (∀ i, bitOf f i = (i = 0 || (bitOf (s.pay mb 8 16) i && bitOf featAdvertised i))) ∧
      resp.length = 64 ∧ fieldAt resp 0 2 = 5 ∧ fieldAt resp 8 16 = featAdvertised ∧ fieldAt resp 24 16 = f ∧
      fieldAt resp 40 4 = 65536 ∧ fieldAt resp 44 2 = 4096 ∧ fieldAt resp 46 2 = 2048)) ∧
  (∀ (mb : Nat) (s : State),
    let k := s.pay mb 0 2
    let base := s.pay mb 8 8
    (MailboxDue s (.ringSetup mb) → 1 ≤ s.pay mb 3 1 → 4 ≤ s.pay mb 4 1 → s.pay mb 4 1 ≤ 16 → base % 4096 = 0 →
      (s.pay mb 5 1 = 1 → s.mappedRange base (128 * 2 ^ s.pay mb 4 1) = true) → Tab.find? s.rings k = none →
      exec (.ringSetup mb) s = answersOk mb ({ s with rings := Tab.put s.rings k { cls := s.pay mb 2 1, weight := s.pay mb 3 1, place := ⟨s.pay mb 5 1 = 1, base, s.pay mb 4 1⟩, head := 0, tail := 0, deficit := 0, error := false, closing := false } }.showRings) []) ∧
    (MailboxDue s (.cqSetup mb) → k < 4096 → 4 ≤ s.pay mb 2 1 → s.pay mb 2 1 ≤ 16 → s.pay mb 4 2 ≤ 2045 → base % 4096 = 0 →
      (s.pay mb 3 1 = 1 → s.mappedRange base (32 * 2 ^ s.pay mb 2 1) = true) → Tab.find? s.cqs k = none →
      exec (.cqSetup mb) s = answersOk mb (({ s with cqs := Tab.put s.cqs k { place := ⟨s.pay mb 3 1 = 1, base, s.pay mb 2 1⟩, vector := s.pay mb 4 2, n := s.pay mb 6 1, t := s.pay mb 7 1, posted := 0, since := 0, closing := false } }.setReg (rk .QE_CQ_HEAD 0 k) 0).showRings) []) ∧
    (MailboxDue s (.eventSetup mb) → 4 ≤ s.pay mb 0 1 → s.pay mb 0 1 ≤ 16 → base % 4096 = 0 →
      (s.pay mb 1 1 = 1 → s.mappedRange base (64 * 2 ^ s.pay mb 0 1) = true) → s.evLost = 0 →
      exec (.eventSetup mb) s = answersOk mb (({ s with evRing := some ⟨⟨s.pay mb 1 1 = 1, base, s.pay mb 0 1⟩, 0⟩ }.setReg (rk .QE_EV_HEAD) 0).showRings) []) ∧
    (MailboxDue s (.eventTeardown mb) → exec (.eventTeardown mb) s = answersOk mb { s with evRing := none }.showRings [])) ∧
  (∀ s : State,
    (∀ c ∈ [1, 2, 3, 4, 5, 6], (s.deviceReset c).feat = 0 ∧ (s.deviceReset c).helloDone = false) ∧
    (∀ slot, (s.powerOn slot).feat = 0 ∧ (s.powerOn slot).helloDone = false) ∧
    (s.powerGood = true → ∃ t : State, exec .functionLevelReset s = .next t ∧ t.feat = 0 ∧ t.helloDone = false) ∧
    s.computeReset.feat = s.feat ∧ s.computeReset.helloDone = s.helloDone ∧
    ∀ l, (s.testReset l).feat = s.feat ∧ (s.testReset l).helloDone = s.helloDone)

/-- A teardown of a ring takes no further entry, ends what has not issued with CANCELLED, and ends, answering what it cancelled and what it discarded,
once every descriptor taken from the ring has its record; the ring is gone from then on. A completion ring counts as absent for dispatch from the start of its
teardown, which ends once no descriptor names it. -/
def Obligations.TeardownsEndWithTheLastRecord : Prop :=
  (∀ (mb : Nat) (s : State) (r : Ring), MailboxDue s (.ringTeardown mb) → Tab.find? s.rings (s.pay mb 0 2) = some r → r.closing = false →
    ∃ (t : State) (n : Nat), exec (.ringTeardown mb) s = .next t ∧
      Tab.find? t.mbRun mb = some (.ringTeardown (s.pay mb 0 2) n ((r.tail + 2 ^ 32 - r.head) % 2 ^ 32)) ∧
      Tab.find? t.rings (s.pay mb 0 2) = some { r with closing := true } ∧
      n = (s.jobs.filter fun j => j.cancels (s.pay mb 0 2)).length ∧ t.mbox = s.mbox ∧
      ((s.jobs.map Job.jid).Nodup → ∀ j ∈ s.jobs,
        (j.cancels (s.pay mb 0 2) = true → ∃ e ∈ t.jobs, e.jid = j.jid ∧ e.phase = .done ∧ e.status = 0x48 ∧ e.detail = 0) ∧
        (j.cancels (s.pay mb 0 2) = false → j ∈ t.jobs)) ∧
      (ordered s.rings → ∀ c, s.pay mb 0 2 ∉ t.eligibles c)) ∧
  (∀ (s : State) (r : Ring) (raw : List Byte) (q : Cq), Tab.find? s.cqs (Desc.ofBytes raw).cq = some q → q.closing = true →
    s.verdict (Desc.ofBytes raw) raw = .discard) ∧
  (∀ (mb : Nat) (s : State) (q : Cq), MailboxDue s (.cqTeardown mb) → Tab.find? s.cqs (s.pay mb 0 2) = some q → q.closing = false →
    exec (.cqTeardown mb) s = .next { s with cqs := Tab.put s.cqs (s.pay mb 0 2) { q with closing := true }, mbRun := Tab.put s.mbRun mb (.cqTeardown (s.pay mb 0 2)) }) ∧
  (∀ (mb : Nat) (s : State),
    (MailboxDue s (.ringTeardown mb) →
      (Tab.find? s.rings (s.pay mb 0 2) = none → exec (.ringTeardown mb) s = .next (s.mbAnswer mb 0x17 0 [])) ∧
      (∀ r : Ring, Tab.find? s.rings (s.pay mb 0 2) = some r → r.closing = true → exec (.ringTeardown mb) s = .next (s.mbAnswer mb 0x13 0 []))) ∧
    (MailboxDue s (.cqTeardown mb) → (Tab.find? s.cqs (s.pay mb 0 2) = none ∨ ∃ q : Cq, Tab.find? s.cqs (s.pay mb 0 2) = some q ∧ q.closing = true) →
      exec (.cqTeardown mb) s = .next (s.mbAnswer mb 0x17 0 []))) ∧
  (∀ (mb k n d : Nat) (s : State), s.mbRun = [(mb, .ringTeardown k n d)] → mb < 1000 →
    (s.ringUsed k = true → exec (.mailboxCompletion mb) s = .next s) ∧
    (s.ringUsed k = false → exec (.mailboxCompletion mb) s =
      answersOk mb { s with mbRun := [], rings := Tab.del s.rings k }.showRings (leBytes 4 n ++ leBytes 4 d))) ∧
  (∀ (mb c : Nat) (s : State), s.mbRun = [(mb, .cqTeardown c)] → mb < 1000 →
    ((∃ j ∈ s.jobs, j.origin = none ∧ j.d.cq = c) → exec (.mailboxCompletion mb) s = .next s) ∧
    ((∀ j ∈ s.jobs, j.origin = none → j.d.cq ≠ c) → exec (.mailboxCompletion mb) s =
      answersOk mb { s with mbRun := [], cqs := Tab.del s.cqs c }.showRings []))

/-- GROUP_BIND of a group of this device with valid handles, each taken once under its one name: REPLACE sets the list, ADD
adds to it, REMOVE takes away, and UNBIND, or a list left empty, removes the group from the table and from every group that contains it, and a group that held
only it goes too. A list that would reach the group itself is refused with CYCLE, one that makes a depth above 16 with DEPTH, and REMOVE and UNBIND of a
group that is not bound end with NOT_FOUND. The answer gives the members now and the depth. That a peer's group counts as one of depth 1 is the model's choice
(log 34). -/
def Obligations.GroupBindChangesTheMemberList : Prop :=
  (∀ (mb : Nat) (s : State),
    let g := s.pay mb 0 2
    let hs := (s.groupArgs mb).map s.canonical |>.eraseDups
    let ms := Tab.getD s.groups g []
    let table (l : List Nat) : Tab (List Nat) := if l = [] then unbind s.isHere s.groups 32 g else Tab.put s.groups g l
    let loops (l : List Nat) : Prop := ∃ m ∈ l, groupReaches s.isHere s.groups g 32 m = true
    let deep (l : List Nat) : Prop := ∃ e ∈ table l, 16 < groupDepth s.isHere (table l) 18 (hereHandle e.1)
    let binds (c : Instr) (l : List Nat) : Prop :=
      (1006 < l.length → exec c s = .next (s.mbAnswer mb 0x16 68 [])) ∧
      (l.length ≤ 1006 → loops l → exec c s = .next (s.mbAnswer mb 0x19 (hereHandle g) [])) ∧
      (l.length ≤ 1006 → ¬ loops l → deep l → exec c s = .next (s.mbAnswer mb 0x18 (hereHandle g) [])) ∧
      (l.length ≤ 1006 → ¬ loops l → ¬ deep l → exec c s = answersOk mb { s with groups := table l }
        (leBytes 2 (Tab.getD (table l) g []).length ++ leBytes 1 (groupDepth s.isHere (table l) 18 (hereHandle g)) ++ [0]))
    0x1000 ≤ g → (s.groupArgs mb).length ≤ 1006 → (∀ h ∈ s.groupArgs mb, s.handleOk h = true ∨ s.canonical h = hereHandle g) →
    (MailboxDue s (.groupBindReplace mb) → binds (.groupBindReplace mb) hs) ∧
    (MailboxDue s (.groupBindAdd mb) → binds (.groupBindAdd mb) (ms ++ hs).eraseDups) ∧
    ((Tab.find? s.groups g).isSome = true →
      (MailboxDue s (.groupBindRemove mb) → binds (.groupBindRemove mb) (ms.filter fun m => !hs.contains m)) ∧
      (MailboxDue s (.groupBindUnbind mb) → binds (.groupBindUnbind mb) [])) ∧
    (Tab.find? s.groups g = none →
      (MailboxDue s (.groupBindRemove mb) → exec (.groupBindRemove mb) s = .next (s.mbAnswer mb 0x17 0 [])) ∧
      (MailboxDue s (.groupBindUnbind mb) → exec (.groupBindUnbind mb) s = .next (s.mbAnswer mb 0x17 0 [])))) ∧
  (∀ (own : Nat → Bool) (gs : Tab (List Nat)) (g n : Nat), ordered gs →
    let r := unbind own gs (n + 1) g
    Tab.find? r g = none ∧
    (∀ e ∈ r, ∀ h ∈ e.2, ¬ (own (h / 2 ^ 16) = true ∧ h % 2 ^ 16 = g)) ∧
    (∀ k ms, k ≠ g → Tab.find? gs k = some ms → (∃ h ∈ ms, own (h / 2 ^ 16) = true ∧ h % 2 ^ 16 = g) →
      (∀ h ∈ ms, own (h / 2 ^ 16) = true ∧ h % 2 ^ 16 = g) → Tab.find? r k = none))

/-- TENSOR_ALLOC of a size that is not 0, with its own checks passed and room on the stacks its hint chooses, makes one allocation of the size rounded up to 64 KiB
at a free 64 KiB place that Genash picks, interleaved from the place f it picks, and answers its address and its pool home's. TENSOR_FREE takes the allocation
away, closes its home's window and leaves no byte of it in memory; PLACE_QUERY answers the allocation an address lies in and changes
nothing. What freed memory reads as is the model's choice (log 3). -/
def Obligations.AllocationsAreMadeQueriedAndFreed : Prop :=
  (∀ (mb addr f d : Nat) (s : State),
    let h := Hint.ofBytes (s.payBytes mb 8 32)
    let c := (s.consumerOf h).getD 0
    let size := roundUp (s.pay mb 0 8) 65536
    let home := if h.pool = 0 then none else s.findHome c h.pool h.poolBytes
    let x : Alloc := ⟨addr, size, h, s.chosen h c, f, .onStacks, home, s.tk, c⟩
    MailboxDue s (.tensorAlloc mb addr f d) → s.allocCheck mb h = none → f < (s.chosen h c).length → s.roomOn (s.chosen h c) size f = true →
    addr % 65536 = 0 → addr + size ≤ 2 ^ 40 → (∀ y ∈ s.allocs, addr + size ≤ y.base ∨ y.base + y.size ≤ addr) →
      exec (.tensorAlloc mb addr f d) s = answersOk mb ((home.elim { s with allocs := s.allocs ++ [x] } fun p =>
        { s with allocs := s.allocs ++ [x] }.openHome p).showSpace) (leBytes 8 addr ++ leBytes 8 (home.elim 0 homeAddr))) ∧
  (∀ (mb : Nat) (s : State) (x : Alloc), MailboxDue s (.tensorFree mb) → s.allocOf (s.pay mb 0 8) = some x → s.pay mb 0 8 % 2 ^ 47 = x.base →
    ∃ t : State, exec (.tensorFree mb) s = answersOk mb t [] ∧ t.allocs = s.allocs.filter (fun y => y.base ≠ x.base) ∧
      (∀ a, x.base ≤ a → a < x.base + x.size → Mem.get t.dev a = memDefault) ∧
      (∀ a, a < x.base ∨ x.base + x.size ≤ a → Mem.get t.dev a = Mem.get s.dev a) ∧
      (∀ p, x.home = some p → t.bit (rk .BS_WIN (s.physB p.1) p.2.2.2) 40 = false) ∧
      t.host = s.host ∧ t.rings = s.rings ∧ t.jobs = s.jobs ∧ t.mbox = s.mbox) ∧
  (∀ (mb : Nat) (s : State) (x : Alloc), MailboxDue s (.placeQuery mb) → s.allocOf (s.pay mb 0 8) = some x →
    exec (.placeQuery mb) s = answersOk mb s x.answer)

namespace Sys2Proof.Machine

/-- Granted ranges of which no two touch. -/
def grantsApart (gs : List (Nat × Nat)) : Prop := gs.Pairwise fun g h => g.1 + g.2 < h.1 ∨ h.1 + h.2 < g.1

/-- An allocation lies spilled in host memory, and some of it in the `n` bytes from `a`. -/
def State.hostLies (_s : State) (x : Alloc) (a n : Nat) : Bool :=
  match x.lies with
  | .host h => decide (h < a + n) && decide (a < h + x.size)
  | _ => false

end Sys2Proof.Machine

/-- SPILL_GRANT adds a range of host memory to spill space, ranges that touch becoming one, and SPILL_REVOKE takes one away, each allocation that lies there filled back
first in the order of filling; where one of them cannot be, it ends with BUSY and changes nothing. Both answer the bytes granted now. A spill moves the least recently accessed allocation that a waiting TENSOR_ALLOC may push away and that has a place to go, byte for byte, to granted host
memory or over a link to a peer, and counts and reports it; after a free or a fill, a fill brings back the first spilled allocation in order that finds room. The address
stays. Nothing happens while neither is due. When a fill is due, and which bytes a peer keeps, is the model's reading (log 15). -/
def Obligations.SpillsAndFillsMoveAllocationsWhole : Prop :=
  (∀ (mb : Nat) (s : State),
    let a := s.pay mb 0 8
    let n := s.pay mb 8 8
    a % 4096 = 0 → n % 4096 = 0 →
    (MailboxDue s (.spillGrant mb) → s.pay mb 16 1 = 0 → 0 < n → (∀ g ∈ s.grants, a + n < g.1 ∨ g.1 + g.2 < a) →
      exec (.spillGrant mb) s = answersOk mb { s with grants := s.grants ++ [(a, n)] } (leBytes 8 ((s.grants.map Prod.snd).sum + n))) ∧
    (MailboxDue s (.spillGrant mb) → s.pay mb 16 1 = 0 → ∃ gs : List (Nat × Nat),
      exec (.spillGrant mb) s = answersOk mb { s with grants := gs } (leBytes 8 (gs.map Prod.snd).sum) ∧
      (∀ y, (∃ g ∈ gs, g.1 ≤ y ∧ y < g.1 + g.2) ↔ (∃ g ∈ s.grants, g.1 ≤ y ∧ y < g.1 + g.2) ∨ (a ≤ y ∧ y < a + n)) ∧
      (grantsApart s.grants → grantsApart gs)) ∧
    (MailboxDue s (.spillRevoke mb) → s.pay mb 16 1 = 1 → (∀ x ∈ s.allocs, ∀ b, x.lies = .host b → a + n ≤ b ∨ b + x.size ≤ a) →
      exec (.spillRevoke mb) s = answersOk mb { s with grants := grantCut s.grants a n } (leBytes 8 (((grantCut s.grants a n).map Prod.snd).sum)) ∧
      ∀ y, (∃ g ∈ grantCut s.grants a n, g.1 ≤ y ∧ y < g.1 + g.2) ↔ (∃ g ∈ s.grants, g.1 ≤ y ∧ y < g.1 + g.2) ∧ ¬ (a ≤ y ∧ y < a + n)) ∧
    (MailboxDue s (.spillRevoke mb) → s.pay mb 16 1 = 1 →
      let xs := s.fillOrder.filter fun x => s.hostLies x a n
      (s.fillAll' xs = none → exec (.spillRevoke mb) s = .next (s.mbAnswer mb 0x13 0 [])) ∧
      (∀ t : State, s.fillAll' xs = some t → t.grants = s.grants ∧
        exec (.spillRevoke mb) s = answersOk mb { t with grants := grantCut s.grants a n } (leBytes 8 (((grantCut s.grants a n).map Prod.snd).sum)) ∧
        ((s.allocs.map Alloc.base).Nodup → ∀ x ∈ s.allocs,
          (s.hostLies x a n = true → ∃ y ∈ t.allocs, y.base = x.base ∧ y.size = x.size ∧ y.lies = .onStacks) ∧
          (s.hostLies x a n = false → x ∈ t.allocs))))) ∧
  (∀ (s : State) (x : Alloc) (ls r : List Alloc), s.fillAll' [] = some s ∧
    (∀ ks : List Nat, s.fillStacks x = some ks → s.fillReach x = true → s.fillAll' (x :: r) = (s.fillOn x ks).fillAll' r) ∧
    (s.fillStacks x = none ∨ s.fillReach x = false → s.fillAll' (x :: r) = none)) ∧
  ((∀ (s : State) (x : Alloc) (w : Want), (s.allocs.find? fun y => y.base = x.base) = some x → x.lies = .onStacks → s.errorsOf x = [] →
    w ∈ s.wants → ((s.victims w.1 w.2.1).find? fun v => (s.spillPlace v).isSome) = some x →
      (∀ a : Nat, a < 2 ^ 56 → s.destOk x.hint x.size a = true → s.hostOpen = true →
        exec (.spill x.base a) s = .next ((((({ s.copiedOut x with
          host := Mem.puts (Mem.erase s.host a x.size) (Mem.moved s.dev x.base x.size a)
          dev := Mem.erase s.dev x.base x.size
          fillDue := false }.moveAlloc x.base (.host a) []).bump (rk .PL_SPILLS)).bump (rk .PL_SPILL_BYTES) x.size).raise 0x26 devHandle
            (payload [(24, 8, x.base), (32, 8, x.size), (40, 1, 0), (41, 1, 0)])).showSpace)) ∧
      (∀ i : Nat, s.destOk x.hint x.size (2 ^ 56 + i) = true →
        exec (.spill x.base (2 ^ 56 + i)) s = .next ((((({ (s.copiedOut x).sendLink (.write i x.base (Mem.read s.dev x.base x.size)) with
          fillDue := false }.moveAlloc x.base (.peer i) []).bump (rk .PL_SPILLS)).bump (rk .PL_SPILL_BYTES) x.size).raise 0x26 devHandle
            (payload [(24, 8, x.base), (32, 8, x.size), (40, 1, 1), (41, 1, i)])).showSpace))) ∧
  (∀ (s : State) (b d : Nat), s.wants = [] → exec (.spill b d) s = .next s) ∧
  (∀ (s : State) (x : Alloc) (ls : List Nat), s.bit (rk .PL_CFG) 0 = true → s.placement = true → s.fillDue = true →
    (s.fillOrder.find? fun y => (s.fillStacks y).isSome && s.fillReach y) = some x → s.fillStacks x = some ls →
      ∃ t : State, exec (.fill x.base) s = .next t ∧
        (∀ a, x.lies = .host a → t.dev = Mem.puts (Mem.erase s.dev x.base x.size) (Mem.moved s.host a x.size x.base)) ∧
        (∀ i, x.lies = .peer i → t.dev = s.dev) ∧
        t.allocs = s.allocs.map (fun y => if y.base = x.base then
          { x with lies := .onStacks, stackList := ls, f := x.f % max ls.length 1 } else y) ∧
        t.fld (rk .PL_FILLS) 0 64 = min (s.fld (rk .PL_FILLS) 0 64 + 1) (2 ^ 64 - 1) ∧ t.host = s.host ∧ t.rings = s.rings ∧ t.jobs = s.jobs) ∧
  (∀ (s : State) (b : Nat), s.bit (rk .PL_CFG) 0 = false ∨ s.fillDue = false → exec (.fill b) s = .next s))

/-- TENSOR_LOAD without encoding writes the source's bytes at the destination with class ZENITH and answers how many; with encoding it writes the tiles of the source's
rows, their bitmaps and their headers, and answers the bytes of tile data. -/
def Obligations.TensorLoadCopiesOrEncodes : Prop :=
  ∀ (mb : Nat) (s : State),
    let n := s.pay mb 16 8
    let dst := s.pay mb 8 8
    (MailboxDue s (.tensorLoad mb) → s.loadDev mb = false → s.reaches dst n = true → s.hostOpen = true →
      exec (.tensorLoad mb) s = answersOk mb (s.writeAt zenithWho dst 0 (Mem.read s.host (s.pay mb 0 8) n)) (leBytes 8 n)) ∧
    (MailboxDue s (.tensorLoad mb) → s.loadDev mb = true → s.reaches (s.pay mb 0 8) n = true → s.reaches dst n = true →
      exec (.tensorLoad mb) s = answersOk mb ((s.readSpans zenithWho [⟨s.pay mb 0 8, 0, n⟩] 10).1.writeAt zenithWho dst 0
        (s.peek zenithWho (s.pay mb 0 8) 0 n)) (leBytes 8 n)) ∧
    (∀ f : Fmt, MailboxDue s (.tensorLoadEncode mb) → s.loadFmt mb = some f → f.tileable = true → f.lead = 0 → s.loadDev mb = false → s.hostOpen = true →
      let e := s.pay mb 32 4
      let r := s.pay mb 28 4
      let ts := s.loadTiles mb f
      s.reaches dst (ts.foldl (fun m x => max m (x.1 + x.2.data.length)) 0) true = true → s.reaches (s.pay mb 40 8) (64 * (ceilDiv r 32 * ceilDiv e 128)) true = true →
      s.reaches (s.pay mb 48 8) (512 * (ceilDiv r 32 * ceilDiv e 128)) true = true →
      exec (.tensorLoadEncode mb) s = answersOk mb (s.storeTiles f dst (s.pay mb 40 8) (s.pay mb 48 8) (ceilDiv e 128) ts)
        (leBytes 8 ((ts.map fun x => x.2.data.length).sum)))

/-- MONITOR_SNAPSHOT writes one record of 128 bytes for each slot of its range, to host or device memory, and, with clear, sets the ten counters of each to 0 and nothing else of it; it is not
taken while a step close written before its command was received covers one of its slots. MONITOR_RESTORE sets every slot of the range, all of it, from its record, or none where a record is one that no snapshot
writes; it is not taken while any step close covers one of its slots. That a close written later leaves the record as it would have stood is the model's reading (log 32); what an error of a read of device memory does is the model's choice
(log 16). -/
def Obligations.MonitorSlotsAreSnappedAndRestored : Prop :=
  (∀ (mb : Nat) (s : State),
    let first := s.pay mb 0 2
    let count := s.pay mb 2 2
    let a := s.pay mb 8 8
    let toHost := bitOf (s.pay mb 4 1) 1
    let mark := s.closeMark mb
    first < 4096 → first + count ≤ 4096 → 1 ≤ count → (toHost = true ∨ s.reaches a (128 * count) = true) →
    (MailboxDue s (.monitorSnapshot mb) →
      (s.closeCovers first count mark = true → exec (.monitorSnapshot mb) s = .next s) ∧
      (s.closeCovers first count mark = false →
        let bs := s.monRecords first count mark
        let t := if bitOf (s.pay mb 4 1) 0 = true then s.monClear first count else s
        exec (.monitorSnapshot mb) s =
          answersOk mb (if toHost = true then t.hostPut mb a bs else t.writeAt zenithWho a 0 bs) (leBytes 8 s.now))) ∧
    (MailboxDue s (.monitorRestore mb) →
      (s.closeCovers first count = true → exec (.monitorRestore mb) s = .next s) ∧
      (s.closeCovers first count = false → (toHost = true → s.hostOpen = true) →
        let bs := if toHost = true then Mem.read s.host a (128 * count) else s.peek zenithWho a 0 (128 * count)
        let u := if toHost = true then s else (s.readSpans zenithWho [⟨a, 0, 128 * count⟩] 10).1
        (∀ o, recordsFault bs count = some o → exec (.monitorRestore mb) s = .next (s.mbAnswer mb 0x16 o [])) ∧
        (recordsFault bs count = none → exec (.monitorRestore mb) s = answersOk mb (u.monSetAll first count bs) [])))) ∧
  (∀ (s : State) (first count mark : Nat),
    (s.closeCovers first count mark = true ↔ ∃ c ∈ s.weirQ, c.seq < mark ∧ c.first < first + count ∧ first ≤ c.last) ∧
    (let t := s.monClear first count
     t = { s with mon := t.mon } ∧
      ((s.mon.map Prod.fst).Nodup → ∀ n, t.slotMon n = if first ≤ n ∧ n < first + count then
        { MonSlot.zero with stepAmax := (s.slotMon n).stepAmax, hist := (s.slotMon n).hist } else s.slotMon n)) ∧
    (s.monRecords first count mark).length = 128 * count ∧
    (∀ i < count,
      let b := ((s.monRecords first count mark).drop (128 * i)).take 128
      let n := first + i
      let m := s.slotMon n
      fieldAt b 0 8 = m.elements % 2 ^ 64 ∧ fieldAt b 8 8 = m.zeros % 2 ^ 64 ∧ fieldAt b 16 8 = m.satOut % 2 ^ 64 ∧ fieldAt b 24 8 = m.flushOut % 2 ^ 64 ∧
        fieldAt b 32 4 = m.nonfinite % 2 ^ 32 ∧ fieldAt b 36 4 = m.flushIn % 2 ^ 32 ∧ fieldAt b 40 4 = m.accSat % 2 ^ 32 ∧
        (s.weirQ = [] → fieldAt b 44 4 = m.stepAmax % 2 ^ 32 ∧ fieldAt b 62 1 = s.fld (rk .WR_SLOT_SCALE 0 n) 15 1) ∧
        fieldAt b 48 4 = m.haloSamples % 2 ^ 32 ∧ fieldAt b 52 4 = m.haloOver % 2 ^ 32 ∧ fieldAt b 56 4 = m.haloMaxUlps % 2 ^ 32 ∧
        fieldAt b 60 1 = s.fld (rk .WR_SLOT_SCALE 0 n) 0 8 ∧ fieldAt b 61 1 = m.hist.length % 256 ∧ fieldAt b 63 1 = 0 ∧
        ∀ x < 64, fieldAt b (64 + x) 1 = m.hist.getD x 0 % 256)) ∧
  (∀ (s : State) (first count : Nat) (bs : List Byte), bs.length = 128 * count →
    let t := s.monSetAll first count bs
    t = { s with mon := t.mon, regs := t.regs } ∧
    (∀ i < count,
      let b := (bs.drop (128 * i)).take 128
      let len := fieldAt b 61 1
      t.slotMon (first + i) = ⟨fieldAt b 0 8, fieldAt b 8 8, fieldAt b 16 8, fieldAt b 24 8, fieldAt b 32 4, fieldAt b 36 4, fieldAt b 40 4, fieldAt b 44 4,
        fieldAt b 48 4, fieldAt b 52 4, fieldAt b 56 4, (List.range len).map fun x => fieldAt b (64 + x) 1⟩ ∧
      (t.reg (rk .WR_SLOT_SCALE 0 (first + i))).toNat = fieldAt b 60 1 + 2 ^ 8 * len + 2 ^ 15 * (fieldAt b 62 1 % 2)) ∧
    (∀ n, n < first ∨ first + count ≤ n → t.slotMon n = s.slotMon n) ∧
    (∀ k : RegKey, (∀ i < count, k ≠ rk .WR_SLOT_SCALE 0 (first + i)) → t.reg k = s.reg k))

/-- PHASE_PLAN DEFINE reads the table once and sets phase 0; SELECT sets the phase of a plan that has it; DROP removes the plan. EMU_BASAD_CFG GET answers a profile's values; SET puts them, reserved bits left out, and answers them as they stand. -/
def Obligations.PlansAndProfilesAreSet : Prop :=
  (∀ (mb : Nat) (s : State),
    let k := s.pay mb 1 1
    let a := s.pay mb 8 8
    let byte (o n : Nat) : Nat := fieldAt (s.peek zenithWho a 0 64) o n
    let P := byte 2 1
    let S := byte 4 2
    let entry (i : Nat) : Nat := fieldAt (s.peek zenithWho a (64 + 4 * i) 4) 0 4
    1 ≤ k → k ≤ 15 →
    (MailboxDue s (.phasePlanDefine mb) → s.reaches a 64 true = true → byte 0 2 = k → byte 3 1 = 0 → (∀ o ∈ (s.peek zenithWho a 0 64).drop 6, o = 0) →
      1 ≤ P → P ≤ 8 → 1 ≤ S → S ≤ 256 → s.reaches a (64 + 4 * P * S) true = true → (∀ i < P * S, entry i < 2 ^ 24) →
      let t := ((s.readSpans zenithWho [⟨a, 0, 64⟩] 10).1.readSpans zenithWho [⟨a, 64, 4 * P * S⟩] 10).1
      exec (.phasePlanDefine mb) s = answersOk mb { t with plans := Tab.put t.plans k ⟨P, S, 0, (List.range (P * S)).map entry⟩ } []) ∧
    (∀ p : Plan, Tab.find? s.plans k = some p →
      (MailboxDue s (.phasePlanSelect mb) → s.pay mb 2 1 < p.p →
        exec (.phasePlanSelect mb) s = answersOk mb { s with plans := Tab.put s.plans k { p with phase := s.pay mb 2 1 } } []) ∧
      (MailboxDue s (.phasePlanDrop mb) → exec (.phasePlanDrop mb) s = answersOk mb { s with plans := Tab.del s.plans k } [])) ∧
    (Tab.find? s.plans k = none →
      (MailboxDue s (.phasePlanSelect mb) → exec (.phasePlanSelect mb) s = .next (s.mbAnswer mb 0x17 0 [])) ∧
      (MailboxDue s (.phasePlanDrop mb) → exec (.phasePlanDrop mb) s = .next (s.mbAnswer mb 0x17 0 [])))) ∧
  (∀ (mb : Nat) (s : State),
    let i := s.pay mb 1 1
    let p : Profile := ⟨s.pay mb 2 1 = 1, s.pay mb 4 2, s.pay mb 8 2, s.pay mb 12 4 % 2 ^ 17⟩
    (MailboxDue s (.emuBasadCfgGet mb) → exec (.emuBasadCfgGet mb) s = answersOk mb s ((s.profile i).answer 0 i)) ∧
    (MailboxDue s (.emuBasadCfgSet mb) → exec (.emuBasadCfgSet mb) s = answersOk mb { s with profiles := Tab.put s.profiles i p } (p.answer 1 i)))

/-- A free resource goes to the claimant, host or site controller by its mailbox; one that another holds is refused with HELD and the holder's code; a claim by the holder changes nothing. Only the holder
releases it. A debug view is the host's alone, while debug is unlocked. -/
def Obligations.ResourcesGoToOneHolder : Prop :=
  ∀ (mb : Nat) (s : State),
    let r := s.pay mb 0 2
    let me := if mb < 64 then 1 else 2
    (MailboxDue s (.resourceClaim mb) →
      (0x200 ≤ r → (me = 2 ∨ s.debugOn = false) → exec (.resourceClaim mb) s = .next (s.mbAnswer mb 0x1C 0 [])) ∧
      ((0x200 ≤ r → me = 1 ∧ s.debugOn = true) →
        (s.holder r ≠ 0 → s.holder r ≠ me → exec (.resourceClaim mb) s = .next (s.mbAnswer mb 0x14 (s.holder r) [])) ∧
        (s.holder r = me → exec (.resourceClaim mb) s = answersOk mb s (leBytes 4 me)) ∧
        (s.holder r = 0 → exec (.resourceClaim mb) s = answersOk mb (s.setHolder r me) (leBytes 4 me)))) ∧
    (MailboxDue s (.resourceRelease mb) →
      (s.holder r ≠ me → exec (.resourceRelease mb) s = .next (s.mbAnswer mb 0x17 0 [])) ∧
      (s.holder r = me → r < 0x200 → (r ≠ 1 ∨ s.ppsWait = false) → exec (.resourceRelease mb) s = answersOk mb (s.setHolder r 0).settle []))

/-- An SMBus Read Word answers a sensor at codes 0x00 to 0x77, the status word at 0x80 and the module revision at 0x81, while input power is
good or a trip stands; every other command is not acknowledged. It changes nothing else. SENSOR_READ answers the readings of its range as they stand; LOG_READ copies the entries numbered from the first asked for that stood as its command was received, oldest first, whole, as many as its bytes hold, and answers how many; LIFETIME_READ and CERT_READ copy
the record and the certificates where they fit; ATTEST copies the report of 224 bytes, signed, with its nonce, states and levels in it. -/
def Obligations.NimbusReadsAnswerWhatStands : Prop :=
  (∀ (c : BitVec 8) (s : State),
    (s.powered = true → c.toNat < 0x78 →
      exec (.smbusReadWord c) s = .next { s with readData := ⟨leBytes 2 (s.sensor c.toNat).toNat, false, true⟩ }) ∧
    (s.powered = true → c.toNat = 0x80 → ∃ w, exec (.smbusReadWord c) s = .next { s with readData := ⟨leBytes 2 w, false, true⟩ } ∧
      bitOf w 0 = s.powerGood ∧ bitOf w 1 = s.isReady 0 ∧ bitOf w 2 = s.isReady 1 ∧ bitOf w 3 = s.bit (rk .PW_STATUS) 3 ∧
      bitOf w 4 = s.tripped ∧ bitOf w 5 = s.bit (rk .NB_STATUS) 3 ∧ w < 2 ^ 6) ∧
    (s.powered = true → c.toNat = 0x81 →
      exec (.smbusReadWord c) s = .next { s with readData := ⟨leBytes 2 Config.moduleRevision.toNat, false, true⟩ }) ∧
    (s.powered = false ∨ 0x78 ≤ c.toNat ∧ c.toNat ≠ 0x80 ∧ c.toNat ≠ 0x81 →
      exec (.smbusReadWord c) s = .next { s with readData := ⟨[], false, false⟩ })) ∧
  (∀ (mb : Nat) (s : State),
    (MailboxDue s (.sensorRead mb) → 1 ≤ s.pay mb 1 1 → s.pay mb 0 1 + s.pay mb 1 1 ≤ 120 →
      exec (.sensorRead mb) s = answersOk mb s ((List.range (s.pay mb 1 1)).flatMap fun i => leBytes 2 (s.sensor (s.pay mb 0 1 + i)).toNat)) ∧
    (MailboxDue s (.sensorRead mb) → 120 < s.pay mb 0 1 + s.pay mb 1 1 → exec (.sensorRead mb) s = .next (s.mbAnswer mb 0x16 65 [])) ∧
    (MailboxDue s (.logRead mb) → 64 ≤ s.pay mb 8 4 →
      let log := s.pay mb 12 1
      let es := ((if log = 0 then s.dieLog else s.flashLog).filter fun e => decide (s.pay mb 16 8 ≤ e.num) && decide (e.num < s.logEnd mb log)).take
        (s.pay mb 8 4 / 64)
      exec (.logRead mb) s = answersOk mb (s.hostPut mb (s.pay mb 0 8) (es.flatMap LogEntry.bytes)) (leBytes 4 es.length ++ leBytes 4 (64 * es.length))) ∧
    (∀ m : Nat × Nat × Nat, Tab.find? s.mbMark mb = some m → s.logEnd mb 0 = m.2.1 ∧ s.logEnd mb 1 = m.2.2) ∧
    (Tab.find? s.mbMark mb = none → s.logEnd mb 0 = 2 ^ 64) ∧
    (∀ m : Nat × Nat × Nat, Tab.find? (s.mbStart mb).mbMark mb = some m → m.2 = ((s.reg (rk .NB_LOG_DIE)).toNat, (s.reg (rk .NB_LOG_FLASH)).toNat)) ∧
    (MailboxDue s (.lifetimeRead mb) →
      exec (.lifetimeRead mb) s = if s.pay mb 8 4 < s.life.bytes.length then .next (s.mbAnswer mb 0x16 72 [])
        else answersOk mb (s.hostPut mb (s.pay mb 0 8) s.life.bytes) (leBytes 4 s.life.bytes.length)) ∧
    (MailboxDue s (.certRead mb) →
      exec (.certRead mb) s = if s.pay mb 8 4 < Config.certChain.length then .next (s.mbAnswer mb 0x16 72 [])
        else answersOk mb (s.hostPut mb (s.pay mb 0 8) Config.certChain) (leBytes 4 Config.certChain.length)) ∧
    (MailboxDue s (.attest mb) → ∃ b : List Byte,
      exec (.attest mb) s = answersOk mb (s.hostPut mb (s.pay mb 32 8) (b ++ fixLen 64 (Config.identitySign b))) (leBytes 4 288) ∧
      b.length = 224 ∧ fieldAt b 0 2 = 1 ∧ fieldAt b 2 2 = 288 ∧ fieldAt b 4 1 = s.fld (rk .SC_STATUS) 1 1 ∧ fieldAt b 5 1 = s.fld (rk .SC_STATUS) 0 1 ∧
      fieldAt b 6 1 = s.fused ∧ (b.drop 8).take 32 = s.payBytes mb 0 32 ∧ fieldAt b 72 8 = s.now))

/-- A token that passes every check unlocks debug and advances the unlocks counter; one that fails any is counted and reported and changes nothing else. A byte count of 0 locks debug again, gives back every debug view, resumes every halted
jet and clears every bounds-watch enable and injection arm. Both changes are reported. -/
def Obligations.DebugUnlocksByTokenAndRelocks : Prop :=
  ∀ (mb : Nat) (s : State),
    let token := Mem.read (if mb < 64 then s.host else s.site) (s.pay mb 0 8) (s.pay mb 8 4)
    (MailboxDue s (.debugUnlock mb) → (64 ≤ mb ∨ s.hostOpen = true) →
      (s.tokenOk token = false → exec (.debugUnlock mb) s =
        .next (((s.bump (rk .NB_AUTH_FAILURES)).raise 0x506 devHandle (payload [(24, 2, 0x113)])).mbAnswer mb 0x1A 0 [])) ∧
      (s.tokenOk token = true → ∃ t : State, exec (.debugUnlock mb) s =
          answersOk mb (t.raise 0x504 devHandle (payload [(24, 1, 1), (28, 4, t.life.unlocks)])) (leBytes 4 1) ∧
        t.debugOn = true ∧ t.life.unlocks = min (s.life.unlocks + 1) (2 ^ 32 - 1) ∧ (∀ k : RegKey, k.name ≠ .SC_STATUS → k.name ≠ .SC_UNLOCKS → t.reg k = s.reg k) ∧
        t = { s with regs := t.regs, life := t.life })) ∧
    (MailboxDue s (.debugRelock mb) → ∃ t : State, exec (.debugRelock mb) s =
        answersOk mb (t.raise 0x504 devHandle (payload [(24, 1, 0), (28, 4, s.life.unlocks)])) (leBytes 4 0) ∧
      t.debugOn = false ∧ (∀ n < 35, t.holder (0x200 + n) = 0) ∧ (∀ u < 595, t.haltedU u = false) ∧
      (∀ u < 140, t.bit (rk .BS_DBG_BOUNDS u) 0 = false ∧ t.bit (rk .BS_ECC_INJECT u) 33 = false))

/-! ### Firmware, resets and bring-up -/

/-- FW_STAGE of an image that verifies at or above the fused level, with none staged or on trial already, makes the inactive slot invalid, writes it until its MAILBOX_COMPLETION, and reports it; an image that does not verify is counted and reported, one below
the fused level is refused with that level, and one above 16 MiB is refused for its length. FW_ACTIVATE marks the slot staged last as the trial, and with reset now the device reset of cause 3 follows its completion; nothing staged is NOT_FOUND. -/
def Obligations.FirmwareIsStagedThenActivated : Prop :=
  ∀ (mb : Nat) (s : State),
    let n := s.pay mb 8 4
    let i := Image.ofBytes (Mem.read (if mb < 64 then s.host else s.site) (s.pay mb 0 8) n)
    let slot : Bool := !s.activeB
    (MailboxDue s (.fwStage mb) →
      (2 ^ 24 < n → exec (.fwStage mb) s = .next (s.mbAnswer mb 0x16 72 [])) ∧
      (n ≤ 2 ^ 24 → (s.staging = true ∨ s.trialPending = true) → exec (.fwStage mb) s = .next (s.mbAnswer mb 0x13 0 [])) ∧
      (n ≤ 2 ^ 24 → s.staging = false → s.trialPending = false → (64 ≤ mb ∨ s.hostOpen = true) →
        (i.verifies = false → exec (.fwStage mb) s =
          .next (((s.bump (rk .NB_AUTH_FAILURES)).raise 0x506 devHandle (payload [(24, 2, 0x110)])).mbAnswer mb 0x1A 0 [])) ∧
        (i.verifies = true → i.level < s.fused → exec (.fwStage mb) s = .next (s.mbAnswer mb 0x1B s.fused [])) ∧
        (i.verifies = true → s.fused ≤ i.level → ∃ t : State, exec (.fwStage mb) s = .next t ∧
          t.mbRun = Tab.put s.mbRun mb (.fwStage slot i) ∧ t.staged = none ∧ t.slotImage slot = none ∧ t.slotImage s.activeB = s.slotImage s.activeB ∧
          t.mbox = s.mbox ∧ t.dev = s.dev ∧ t.host = s.host))) ∧
    (∀ b : Bool, s.mbRun = [(mb, .fwStage b i)] → mb < 1000 →
      exec (.mailboxCompletion mb) s = answersOk mb ((((({ s with mbRun := [], staged := some b }.setSlot b (some i)).setFld (rk .NB_STATUS) 2 1 0).raise 0x500 devHandle
        (payload [(24, 1, flagNat b), (25, 1, i.level), (26, 2, i.release)])))) (leBytes 4 i.level ++ leBytes 1 (flagNat b) ++ leBytes 3 0)) ∧
    (MailboxDue s (.fwActivate mb) → s.inRecovery = false →
      (s.staged = some slot → exec (.fwActivate mb) s = answersOk mb (s.setFld (rk .SC_STATUS) 3 1 1) []) ∧
      (s.staged ≠ some slot → exec (.fwActivate mb) s = .next (s.mbAnswer mb 0x17 0 []))) ∧
    (MailboxDue s (.fwActivateResetNow mb) →
      (s.staged = some slot → exec (.fwActivateResetNow mb) s = .next (((s.setFld (rk .SC_STATUS) 3 1 1).mbAnswer mb 0 0 []).deviceReset 3)) ∧
      (s.staged ≠ some slot → exec (.fwActivateResetNow mb) s = .next (s.mbAnswer mb 0x17 0 [])))

namespace Sys2Proof.Machine

/-- Stage 1 runs: the functions of Nimbus and of the management link are ready, and the reset that ends here is reported. -/
def State.nimbusStart (s : State) (kind : Nat) : State :=
  ((((s.setFld (rk .NB_STATUS) 1 1 0).setOwn 0 true).setOwn 9 true).settle).resetDone kind

end Sys2Proof.Machine

/-- Nimbus starts from the slot of a pending trial if it is bootable, which is given up if it is not, else from the active slot if it is bootable, else from the other, which becomes active, and goes into recovery with neither. The first start after a power-on is
counted and the record saved. Zenith's start confirms a trial: its slot becomes active and the confirmation is counted; where the fused level is below the image's, held to 64, fuses begin to be blown, one each ns as long as Zenith runs from that slot, which is the model's
choice (log 45). A trial that times out is given up, its slot made invalid and the event raised, and recovery entered where no slot is bootable. -/
def Obligations.BootPicksABootableSlot : Prop :=
  (∀ s : State,
    (s.cold = false → s.countBoot = s) ∧
    (s.cold = true → s.countBoot = ({ s with cold := false, life := { s.life with powerCycles := min (s.life.powerCycles + 1) (2 ^ 32 - 1) } } : State).lifeSave)) ∧
  (∀ s : State, s.powerGood = true →
    (s.own 0 = true → exec .nimbusReady s = .next s) ∧
    (s.own 0 = false →
      let c := s.countBoot
      let kind := if s.fld (rk .CK_RESET_CAUSE) 0 3 = 0 then 0 else 1
      (c.trialPending = false → c.trialRun = false →
        (c.bootable c.activeB = false → c.bootable (!c.activeB) = false → exec .nimbusReady s = .next (c.setFld (rk .NB_STATUS) 1 1 1)) ∧
        (c.bootable c.activeB = true → exec .nimbusReady s = .next (c.nimbusStart kind)) ∧
        (c.bootable c.activeB = false → c.bootable (!c.activeB) = true →
          exec .nimbusReady s = .next ((c.setFld (rk .SC_STATUS) 2 1 (flagNat (!c.activeB))).nimbusStart kind))) ∧
      (c.trialRun = true → exec .nimbusReady s = .next (c.nimbusStart kind)) ∧
      (c.trialPending = true → c.trialRun = false →
        (c.bootable (!c.activeB) = true → exec .nimbusReady s = .next (({ c with trialRun := true } : State).nimbusStart kind)) ∧
        (c.bootable (!c.activeB) = false →
          let r := c.rollback 0
          (r.bootable r.activeB = true → exec .nimbusReady s = .next (r.nimbusStart kind)) ∧
          (r.bootable r.activeB = false → exec .nimbusReady s = .next (r.setFld (rk .NB_STATUS) 1 1 1)))))) ∧
  (∀ s : State,
    (s.bringing = true → s.own 1 = false → s.trialRun = false → exec .zenithReady s = .next ((s.setOwn 1 true).settle.showSpace.noteReady s)) ∧
    (s.bringing = true → s.own 1 = false → s.trialRun = true →
      ∃ t : State, exec .zenithReady s = .next t ∧ t.trialRun = false ∧ t.staged = none ∧ t.activeB = (!s.activeB) ∧ t.trialPending = false ∧
        t.fused = s.fused ∧ t.fuse = (if s.fused < min (s.slotLevel (!s.activeB)) 64 then some (!s.activeB, s.fused) else none) ∧
        t.life.fwConfirmed = min (s.life.fwConfirmed + 1) (2 ^ 32 - 1) ∧ t.isReady 1 = true) ∧
    (∀ (b : Bool) (old : Nat), s.pending = [] → (s.tk + 1) % 33 = 0 → s.fuse = some (b, old) → ∃ t : State, step s = .next t ∧
      t.fused = if s.zenith = true ∧ s.trialRun = false ∧ s.activeB = b ∧ s.fused < min (s.slotLevel b) 64 then s.fused + 1 else s.fused)) ∧
  (∀ s : State,
    (s.trialRun = true → s.nimbus = true → s.own 1 = false → exec .fwTrialTimeout s = .next (s.rollback 1).recover.settle) ∧
    (∀ n : Nat, ∃ t : State, s.rollback n = t.raise 0x502 devHandle (payload [(24, 1, flagNat (!s.activeB)), (25, 1, flagNat s.activeB), (26, 1, n)]) ∧
      t.trialRun = false ∧ t.staged = none ∧ t.trialPending = false ∧ t.slotImage (!s.activeB) = none ∧ t.slotImage s.activeB = s.slotImage s.activeB ∧
      t.activeB = s.activeB ∧ t.jobs = s.jobs ∧ t.dev = s.dev) ∧
    (s.bootable s.activeB = true ∨ s.bootable (!s.activeB) = true → s.recover = s) ∧
    (s.bootable s.activeB = false → s.bootable (!s.activeB) = false →
      s.recover = (({ s with trialRun := false } : State).setOwn 0 false).setFld (rk .NB_STATUS) 1 1 1))

/-- Each device reset runs with its cause: HST_PERST_L asserted 1, unless it ends a trip of a module that has cooled, whose snapshot and stop run first and whose power-on follows, hot reset or link disable 2, loss of root lock 4 and a Fatal error 5 with their events first, CK_RESET kind 2 with the confirm byte 6. Without input power, or with a wrong word, nothing is reset. MGT_PERST_L resets the management link with its configuration space, and the link is ready again as Nimbus is (log 11). A device reset keeps what Nimbus has and nothing else: its cause is latched, radio time is 0, no ring, descriptor, allocation, plan, group, flow or cascade is left, the negotiated word and the Basad profiles are clear, device memory and the Zenith mailboxes read as unwritten, and the debug state, the
Nimbus mailboxes, the sensors and the site controller's memory stay. What unwritten memory reads as is the model's choice (log 3). -/
def Obligations.DeviceResetsKeepOnlyNimbus : Prop :=
  (∀ s : State,
    (s.powerGood = true →
      exec .hotReset s = .next (s.deviceReset 2) ∧
      (s.tripped = false ∨ 680 ≤ s.hottest 0 70 → exec .hstPerstLAssert s = .next ({ s with perst := true }.deviceReset 1)) ∧
      (s.bit (rk .CK_STATUS) 0 = true → exec .rootLockLoss s = .next (((s.raise 0x303 devHandle (payload [(24, 1, 0)])).fatal).deviceReset 4)) ∧
      (∀ c n : Nat, exec (.fatalFault c n) s = .next (((s.raise 0x406 devHandle (payload [(24, 1, c), (28, 4, n)])).fatal).deviceReset 5)) ∧
      (∀ v : BitVec 32, exec (.deviceReset v) s =
        .next (if bitsOf v.toNat 8 8 = 0xA5 ∧ bitsOf v.toNat 0 2 = 2 then s.deviceReset 6 else s))) ∧
    (s.powerGood = false → exec .hotReset s = .next s ∧ exec .rootLockLoss s = .next s ∧ (∀ c n : Nat, exec (.fatalFault c n) s = .next s) ∧
      ∀ v : BitVec 32, exec (.deviceReset v) s = .next s) ∧
    (s.perst = true → (s.powerGood = false ∨ s.fld (rk .CK_RESET_CAUSE) 0 3 ≠ 1) → exec .hstPerstLRelease s = .next { s with perst := false }) ∧
    (s.perst = true → s.powerGood = true → s.fld (rk .CK_RESET_CAUSE) 0 3 = 1 → exec .hstPerstLRelease s =
      .next ({ s with perst := false }.raise 0x300 devHandle (payload [(24, 1, 1), (25, 1, 1)]))) ∧
    (s.tripped = true → s.hottest 0 70 < 680 →
      let e := ({ s with perst := true } : State).endLadder
      exec .hstPerstLAssert s = .next { e.powerOn (e.fld (rk .PW_STATUS) 5 3) with perst := true }) ∧
    (s.powerGood = false → s.tripped = false ∨ 680 ≤ s.hottest 0 70 → exec .hstPerstLAssert s = .next { s with perst := true }) ∧
    (s.powerGood = false → s.endLadder = s) ∧
    (s.powerGood = true → s.endLadder = if s.snapshotBegun = true then s.stopRails else s.snapshotNow.stopRails) ∧
    (∃ u : State, (∀ k : RegKey, u.reg k = if (regRow k.name).blk = .mcf then resetWord k else s.reg k) ∧ u = { s with regs := u.regs } ∧
      (s.own 9 = true → exec .mgtPerstLAssert s = .next (((u.setOwn 9 false).settle.setOwn 9 true).settle)) ∧
      (s.own 9 = false → exec .mgtPerstLAssert s = .next u))) ∧
  (∀ (s : State) (c : Nat), c = 1 ∨ c = 2 ∨ c = 4 ∨ c = 5 ∨ c = 6 →
    let t := s.deviceReset c
    t.fld (rk .CK_RESET_CAUSE) 0 3 = c ∧ t.reg (rk .TM_NOW) = 0 ∧ t.rings = [] ∧ t.cqs = [] ∧ t.evRing = none ∧ t.jobs = [] ∧ t.allocs = [] ∧ t.plans = [] ∧
      t.groups = [] ∧ t.grants = [] ∧ t.casc = none ∧ t.flows = [] ∧ t.feat = 0 ∧ t.helloDone = false ∧ t.profiles = [] ∧ t.mon = [] ∧ t.acc = [] ∧
      (∀ a, Mem.get t.dev a = memDefault) ∧ (∀ a, a < 56 * 4096 → Mem.get t.mbox a = memDefault) ∧
      (∀ a, 56 * 4096 ≤ a → Mem.get t.mbox a = Mem.get s.mbox a) ∧ t.debugOn = s.debugOn ∧ t.bar4 = s.debugOn ∧ t.d3 = false ∧ t.sensors = s.sensors ∧ t.site = s.site ∧
      t.life.deviceResets = min (s.life.deviceResets + 1) (2 ^ 32 - 1) ∧ t.isReady 1 = false)

/-- A compute reset stops dispatch, ends every descriptor that has not completed with CANCELLED, one carried to another member too (log 12), clears groups, rounds, sampled rows, the internal regions and the tokens of slots 0 to 47, whose base and size stay, and takes every terrace and basin out of the ready state; rings, allocations, plans, profiles,
flows and membership stay. Its end brings the units back and reports it. What an internal region reads as after it is the model's choice (log 3). -/
def Obligations.ComputeResetCancelsAndKeepsTheRest : Prop :=
  (∀ (v : BitVec 32) (s : State), s.powerGood = true → s.bit (rk .CK_STATUS) 0 = true → bitsOf v.toNat 8 8 = 0xA5 → bitsOf v.toNat 0 2 = 1 →
    ∃ t : State, exec (.computeReset v) s = .next t ∧ t.resetting = true ∧ t.dispatchHeld = true ∧
      (∀ j ∈ t.jobs, j.phase = .done) ∧
      (∀ j ∈ s.jobs, j.phase ≠ .done → ∃ k ∈ t.jobs, k.jid = j.jid ∧ k.phase = .done ∧ k.status = 0x48) ∧
      t.rounds = [] ∧ t.acc = [] ∧ t.grp = [] ∧ t.jets = [] ∧ t.engines = [] ∧ t.haloQ = [] ∧
      (∀ i, 128 ≤ i → i < 332 → t.isReady i = false) ∧
      (∀ u < 140, ∀ n < 48, t.fld (rk .BS_SLOT u n) 32 2 = 0 ∧ t.fld (rk .BS_SLOT u n) 0 32 = s.fld (rk .BS_SLOT u n) 0 32) ∧
      (∀ q < 140, ∀ x, 0x6C0000 ≤ x → x < 0x700000 → Mem.get t.dev (poolBase q + x) = memDefault) ∧
      t.rings = s.rings ∧ (s.plainEvents → t.allocs = s.allocs) ∧ t.plans = s.plans ∧ t.profiles = s.profiles ∧ t.feat = s.feat ∧ t.mbox = s.mbox ∧
      t.flows = s.flows ∧ t.casc = s.casc) ∧
  (∀ (v : BitVec 32) (s : State), (bitsOf v.toNat 8 8 ≠ 0xA5 ∨ bitsOf v.toNat 0 2 ≠ 1) → exec (.computeReset v) s = .next s) ∧
  (∀ s : State, s.resetting = true → s.gop = none → exec .computeResetDone s =
    .next (({ s with resetting := false, dispatchHeld := s.snapshotBegun }.settle).resetDone 3))

/-- A function level reset gives the host's side of the block back as after reset: completion rings, the event ring, groups, the negotiated word, what waited for the host, the headers of the host's mailboxes and what the host held are gone, and every submission ring takes no further entry and no class has a ring last served; allocations, plans,
profiles, radio time, flows and membership stay. -/
def Obligations.FunctionLevelResetClearsTheHostSide : Prop :=
  ∀ s : State, s.powerGood = true → ordered s.rings →
    ∃ t : State, exec .functionLevelReset s = .next t ∧ t.cqs = [] ∧ t.evRing = none ∧ t.groups = [] ∧ t.feat = 0 ∧ t.helloDone = false ∧ t.hostWait = [] ∧
      (∀ c < 4, Tab.find? t.cursors c = none) ∧ (∀ e ∈ t.rings, e.2.closing = true) ∧ (∀ a, a < 64 * 4096 → a % 4096 < 64 → Mem.get t.mbox a = memDefault) ∧
      (∀ a, ¬ (a < 64 * 4096 ∧ a % 4096 < 64) → Mem.get t.mbox a = Mem.get s.mbox a) ∧
      (∀ r, s.holder r = 1 → t.holder r ≠ 1) ∧ t.reg (rk .HI_BAR2_BASE) = resetWord (rk .HI_BAR2_BASE) ∧
      t.allocs = s.allocs ∧ t.plans = s.plans ∧ t.profiles = s.profiles ∧ t.flows = s.flows ∧ t.casc = s.casc ∧ t.reg (rk .TM_NOW) = s.reg (rk .TM_NOW)

/-- Input power becoming good starts a power-on: debug locked, every log on the die, table, setting and register at reset but for those of the flash and the fuses, the slot's number, the spare rows of the stacks, the powered time, what lies outside the module and what the repair map names; no function is ready. A trip that fell due with a brownout stands while the input returns. The root PLL's lock lets the clocks run, and the timing PLL locks with it by the model's choice (log 36). Each BIST wave and stack then reports its units ready, or failed with the element, which stay not ready. -/
def Obligations.BringUpReportsUnitsAsTheyCome : Prop :=
  (∀ (slot : Nat) (s : State), s.powerGood = false → s.tripped = false ∨ s.tripStays = false →
    ∃ t : State, exec (.inputPowerGood slot) s = .next t ∧ t.powerGood = true ∧ t.tk = 0 ∧ t.debugOn = false ∧ t.bar4 = false ∧ t.rings = [] ∧ t.jobs = [] ∧
      t.allocs = [] ∧ t.dieLog = [] ∧ t.sensors = [] ∧ t.flashLog = s.flashLog ∧ t.slotA = s.slotA ∧ t.slotB = s.slotB ∧ t.fused = s.fused ∧
      t.activeB = s.activeB ∧ t.life = s.newestCopy ∧ (∀ i, t.isReady i = false) ∧ (∀ a, Mem.get t.dev a = memDefault) ∧
      (s.newestCopy.map = [] →
        (∀ k : RegKey, k.name ∉ [RegName.SC_STATUS, .SC_UNLOCKS, .PW_STATUS, .NB_POWERED, .NB_LOG_FLASH, .DM_STATUS, .CK_BRINGUP_STATUS] → t.reg k = resetWord k) ∧
        t.fld (rk .CK_BRINGUP_STATUS) 0 17 = 0 ∧ t.fld (rk .CK_BRINGUP_STATUS) 17 15 = 32767 ∧
        t = { State.reset with
          pending := s.pending, nextJid := s.nextJid, regs := t.regs, host := s.host, site := s.site, readData := s.readData, perst := s.perst
          powerGood := true, cold := true, life := s.newestCopy, copies := s.copies, blockErases := s.blockErases, worn := s.worn, flashLog := s.flashLog
          slotA := s.slotA, slotB := s.slotB, staged := s.staged, fuse := s.fuse, draws := s.draws, bistWave := t.bistWave
          cursors := s.cursors.filter fun e => decide (curRecord ≤ e.1) })) ∧
  (∀ (slot : Nat) (s : State), s.powerGood = false → s.tripped = true → s.tripStays = true →
    exec (.inputPowerGood slot) s = .next { s.setFld (rk .PW_STATUS) 0 2 0 with pwrAlert := false, uCut := 256, tripStays := false }) ∧
  (∀ s : State, (s.copies = [] → s.newestCopy = Life.zero) ∧
    (∀ c ∈ s.copies, c.2.verifies = true → c.2.life.saves ≤ s.newestCopy.saves ∧ ∃ b ∈ s.copies, b.2.verifies = true ∧ s.newestCopy = b.2.life)) ∧
  (∀ (slot : Nat) (s : State), s.powerGood = true → exec (.inputPowerGood slot) s = .next s) ∧
  (∀ s : State, s.powerGood = true → exec .rootPllLock s = .next (s.setFld (rk .CK_STATUS) 0 2 3).settle) ∧
  (∀ (st : Nat) (s : State), s.bringing = true → s.own (64 + st) = false → s.stackFailed st = false →
    exec (.stackTrained st) s = .next ((s.setOwn (64 + st) true).settle.showSpace.noteReady s) ∧
    ∀ e : Nat, exec (.stackTrainingTimeout st e) s = .next ((((s.setOwn (600 + st) true).setFld (rk .CK_BRINGUP_STATUS) 12 5
      (s.fld (rk .CK_BRINGUP_STATUS) 12 5 + 1)).raise 0x302 devHandle (payload [(24, 1, 1), (25, 1, st), (28, 4, e)])).noteReady s)) ∧
  (∀ (s : State) (failed : List (Nat × Nat)), s.bringing = true → s.bistNext < 35 →
    exec (.bistWaveEnd failed) s = .next ((((List.range' s.bistNext (min s.bistWave (35 - s.bistNext))).foldl (fun u t => u.bistOne t failed) s).settle).noteReady s)) ∧
  (∀ (s : State) (t : Nat) (failed : List (Nat × Nat)),
    let d : State := { s.setFld (rk .CK_BRINGUP_STATUS) 0 6 (t + 1) with bistNext := t + 1 }
    ((∀ f ∈ failed, f.1 ≠ t) → s.bistOne t failed = if d.terraceOut t = true then d else d.setTerrace t true) ∧
    (∀ f : Nat × Nat, failed.find? (fun x => x.1 = t) = some f →
      let u := (d.setFld (rk .CK_BRINGUP_STATUS) 6 6 (d.fld (rk .CK_BRINGUP_STATUS) 6 6 + 1)).raise 0x302 (hereHandle (0x100 + t)) (payload [(24, 1, 0), (28, 4, f.2)])
      (32 ≤ t → s.bistOne t failed = u) ∧
      (t < 32 → Tab.find? u.failing t = none → s.bistOne t failed = (u.mapAdd 4 (u.physT t) 0).beginWait t))) ∧
  (∀ s : State, s.bringing = false → (∀ st e : Nat, exec (.stackTrained st) s = .next s ∧ exec (.stackTrainingTimeout st e) s = .next s) ∧
    (∀ failed, exec (.bistWaveEnd failed) s = .next s) ∧ exec .zenithReady s = .next s)

/-! ### Cascades and Rill -/

namespace Sys2Proof.Machine

/-- The module starts a cascade operation alone: in no cascade, with none running and power good. -/
def State.gopAlone (s : State) : Prop := s.casc = none ∧ s.bit gopReg 0 = false ∧ s.powerGood = true

/-- The module may start a cascade operation: alone or as a cascade's master, with none running and power good. -/
def State.gopFree (s : State) : Prop := s.isMaster = true ∧ s.bit gopReg 0 = false ∧ s.powerGood = true

/-- The member of a cascade is not its master. -/
def State.gopBelow (s : State) : Prop := s.casc.isSome = true ∧ s.isMaster = false ∧ s.powerGood = true

/-- The member is a leaf of the tree of a cascade, not its master. -/
def State.gopLeaf (s : State) (c : Casc) : Prop := s.casc = some c ∧ c.own ≠ c.master ∧ c.children = [] ∧ s.powerGood = true

/-- A message sent to each tree child. -/
def State.toKids (s : State) (msg : Nat → LinkMsg) : State := s.kids.foldl (fun s i => s.sendLink (msg i)) s

/-- The member's own part of an operation is through, and no child has answered yet. -/
def State.ownPart (s : State) (op : Nat) : State := { s with gop := some ⟨op, s.kids, 1, false, false, true⟩ }

/-- The records of the slots that LK_SNAP_CFG names written to LK_SNAP_DST, their counters cleared where it says so, once every step close that covers one of
them has ended; LK_SNAP_TIME takes the radio time, and records and monitor counts are held (R209, R415). -/
def State.snapped (s : State) : State :=
  let first := s.fld (rk .LK_SNAP_CFG) 0 12
  let count := min (s.fld (rk .LK_SNAP_CFG) 12 13) (4096 - first)
  let c := s.endCloses first count 17
  let m := if s.bit (rk .LK_SNAP_CFG) 25 = true then c.monClear first count else c
  let t := if count = 0 then m else m.writeDev zenithWho (s.fld (rk .LK_SNAP_DST) 0 56) (c.monRecords first count)
  { t.setReg (rk .LK_SNAP_TIME) (s.reg (rk .TM_NOW)) with holdPost := true }

end Sys2Proof.Machine

/-- CASCADE_JOIN of a sound payload by a module in no cascade makes it a member with that payload, JOINING until its tree neighbours agree, and shows indices and count; a payload that breaks R406 is refused with the first offending byte, a second join with BUSY. CASCADE_LEAVE stops descriptors from others at once and ends
when none carried to or from the member is left without its posted record; it then is in no cascade and holds no PPS_OUT. A neighbour's join values are taken over a port that is up, and the state follows: ACTIVE while parent and children agree over links that stand; from NONE or JOINING it stays JOINING until one of them has joined with other values; else DEGRADED. A change of state or tree_ok is reported. -/
def Obligations.MembersJoinAgreeAndLeave : Prop :=
  (∀ (mb : Nat) (s : State),
    let c := s.cascArg mb
    (MailboxDue s (.cascadeJoin mb) →
      (∀ o, c.bad = some o → exec (.cascadeJoin mb) s = .next (s.mbAnswer mb 0x16 o [])) ∧
      (c.bad = none → s.casc.isSome = true → exec (.cascadeJoin mb) s = .next (s.mbAnswer mb 0x13 0 [])) ∧
      (c.bad = none → s.casc = none → s.neigh = [] → c.near ≠ [] → ∃ t : State, exec (.cascadeJoin mb) s = answersOk mb t [] ∧ t.casc = some c ∧
        t.leaving = false ∧ t.fld (rk .LK_CASCADE) 0 2 = 1 ∧ t.fld (rk .LK_CASCADE) 8 8 = c.own ∧ t.fld (rk .LK_CASCADE) 16 8 = c.master ∧
        t.fld (rk .LK_CASCADE) 24 9 = c.n ∧ t.jobs = s.jobs ∧ t.rings = s.rings)) ∧
    (MailboxDue s (.cascadeLeave mb) →
      (s.casc = none → exec (.cascadeLeave mb) s = .next (s.mbAnswer mb 0x17 0 [])) ∧
      (s.casc.isSome = true → s.leaving = false →
        exec (.cascadeLeave mb) s = .next { s with leaving := true, mbRun := Tab.put s.mbRun mb .cascadeLeave })) ∧
    (∀ d : Casc, s.mbRun = [(mb, .cascadeLeave)] → mb < 1000 → s.casc = some d →
      ((∃ j ∈ s.jobs, j.origin.isSome = true ∨ j.member.isSome = true) → exec (.mailboxCompletion mb) s = .next s) ∧
      ((∀ j ∈ s.jobs, j.origin = none ∧ j.member = none) → ∃ t : State, exec (.mailboxCompletion mb) s = answersOk mb t [] ∧ t.casc = none ∧
        t.leaving = false ∧ t.fld (rk .LK_CASCADE) 0 2 = 0 ∧ t.holder 1 ≠ 6 ∧ t.ppsWait = false))) ∧
  ((∀ (p i m n b : Nat) (s : State),
    (s.portUp p = false → exec (.cascadeExchange p i m n b) s = .next s) ∧
    (s.portUp p = true → 0 < n →
      exec (.cascadeExchange p i m n b) s = .next ({ s with neigh := Tab.put s.neigh i (m, n, b) }.showCascade i)) ∧
    (s.portUp p = true → exec (.cascadeExchange p i m 0 b) s = .next ({ s with neigh := Tab.del s.neigh i }.showCascade i))) ∧
  (∀ (s : State) (c : Casc) (who : Nat), s.casc = some c →
    let old := s.fld (rk .LK_CASCADE) 0 2
    let st := if s.agreed c = true then 2 else if old ≤ 1 ∧ s.unequal c = false then 1 else 3
    (s.showCascade who).fld (rk .LK_CASCADE) 0 2 = st ∧
    (old = st → s.bit (rk .LK_CASCADE) 4 = c.treeOk → s.showCascade who = s.show (rk .LK_CASCADE) (c.word st)) ∧
    (old ≠ st ∨ s.bit (rk .LK_CASCADE) 4 ≠ c.treeOk → s.showCascade who =
      (s.show (rk .LK_CASCADE) (c.word st)).raise 0x210 devHandle (payload [(24, 1, st), (25, 1, flagNat c.treeOk), (26, 1, who)]))))

/-- A write that starts an operation has no effect while one runs, and is refused on a member that is not the master and for a broadcast of a wrong length. On a module alone BROADCAST copies its source to its destination and SNAPSHOT takes the slots' records and the radio time, and each ends with result 0, one
answer and EV_GOP_DONE; RESET applies the compute reset. A master sends each to its children first. A member below it sends on and writes a broadcast's copy, takes a snapshot, writes its records and holds what it would post until the release, or applies a reset, and answers its parent once its own part and its children are through. The master counts each child's answer once, marks one that does not come within the limit as missing, and ends the operation, done, once none is awaited. What a member shows of an operation
is the model's choice (log 38). -/
def Obligations.CascadeOperationsRunAndCount : Prop :=
  (∀ (v : BitVec 32) (s : State),
    (bitsOf v.toNat 0 3 = 1 → s.bit gopReg 0 = true ∨ s.powerGood = false → exec (.broadcast v) s = .next s) ∧
    (bitsOf v.toNat 0 3 = 2 → s.bit gopReg 0 = true ∨ s.powerGood = false → exec (.snapshot v) s = .next s) ∧
    (bitsOf v.toNat 0 3 = 3 → s.bit gopReg 0 = true ∨ s.powerGood = false → exec (.reset v) s = .next s) ∧
    (bitsOf v.toNat 0 3 = 1 → s.bit gopReg 0 = false → s.powerGood = true → s.isMaster = false ∨ s.gopLenOk = false →
      exec (.broadcast v) s = .next (((s.setFld gopReg 1 1 1).setFld gopReg 2 2 2).setFld gopReg 4 3 1)) ∧
    (bitsOf v.toNat 0 3 = 2 → s.bit gopReg 0 = false → s.powerGood = true → s.isMaster = false →
      exec (.snapshot v) s = .next (((s.setFld gopReg 1 1 1).setFld gopReg 2 2 2).setFld gopReg 4 3 2)) ∧
    (bitsOf v.toNat 0 3 = 3 → s.bit gopReg 0 = false → s.powerGood = true → s.isMaster = false →
      exec (.reset v) s = .next (((s.setFld gopReg 1 1 1).setFld gopReg 2 2 2).setFld gopReg 4 3 3)) ∧
    (s.gopFree →
      let a := s.fld (rk .LK_GOP_SRC) 0 56
      let n := s.fld (rk .LK_GOP_LEN) 0 32
      let bs := s.peek gopWho a 0 n
      let r := (s.gopStart 1).readSpan gopWho ⟨a, 0, n⟩
      (bitsOf v.toNat 0 3 = 1 → s.gopLenOk = true →
        (r.2 = none → exec (.broadcast v) s =
          .next ((((r.1.toKids fun i => .copy i bs).writeDev gopWho (s.fld (rk .LK_GOP_DST) 0 56) bs).ownPart 1).gopCheck)) ∧
        (r.2 ≠ none → exec (.broadcast v) s = .next (r.1.gopEnd 1 3 0))) ∧
      (bitsOf v.toNat 0 3 = 2 → exec (.snapshot v) s = .next ((((s.gopStart 2).toKids .hold).snapped.ownPart 2).gopCheck)) ∧
      (bitsOf v.toNat 0 3 = 3 → exec (.reset v) s = .next ((s.gopStart 3).toKids .reset).computeReset)) ∧
    (s.gopAlone →
      let a := s.fld (rk .LK_GOP_SRC) 0 56
      let n := s.fld (rk .LK_GOP_LEN) 0 32
      let r := (s.gopStart 1).readSpan gopWho ⟨a, 0, n⟩
      (bitsOf v.toNat 0 3 = 1 → s.gopLenOk = true →
        (r.2 = none → exec (.broadcast v) s =
          .next ((r.1.writeDev gopWho (s.fld (rk .LK_GOP_DST) 0 56) (s.peek gopWho a 0 n)).gopEnd 1 0 1))) ∧
      (bitsOf v.toNat 0 3 = 2 → ∃ t : State, exec (.snapshot v) s = .next t ∧ t.gop = none ∧ t.holdPost = false ∧ t.reg (rk .LK_SNAP_TIME) = s.reg (rk .TM_NOW) ∧
        t.fld gopReg 0 2 = 2 ∧ t.fld gopReg 2 2 = 0 ∧ t.fld gopReg 4 3 = 2 ∧ t.fld gopReg 7 9 = 1 ∧
        t.fld gopReg 16 16 = (s.fld gopReg 16 16 + 1) % 2 ^ 16) ∧
      (bitsOf v.toNat 0 3 = 3 → exec (.reset v) s = .next (s.gopStart 3).computeReset))) ∧
  ((∀ (s : State) (bs : List Byte), s.gopBelow →
    exec (.broadcastCopy bs) s = .next ((((((s.gopBegin 1).toKids fun i => .copy i bs).writeDev gopWho (s.fld (rk .LK_GOP_DST) 0 56) bs).setFld gopReg 1 1 1).ownPart 1).gopCheck) ∧
    exec .snapshotHold s = .next ((((s.gopBegin 2).toKids .hold).snapped.ownPart 2).gopCheck) ∧
    exec .resetMessage s = .next ((s.gopBegin 3).toKids .reset).computeReset ∧
    (∀ g : Gop, s.gop = some g → g.op = 2 →
      exec .snapshotRelease s = .next { (({ s with holdPost := false } : State).toKids .release).setFld gopReg 0 2 2 with gop := none })) ∧
  (∀ (s : State) (bs : List Byte), ¬ s.gopBelow →
    exec (.broadcastCopy bs) s = .next s ∧ exec .snapshotHold s = .next s ∧ exec .resetMessage s = .next s ∧ exec .snapshotRelease s = .next s) ∧
  (∀ (s : State) (c : Casc) (bs : List Byte) (p : Nat), s.gopLeaf c → c.parent = some p →
    exec (.broadcastCopy bs) s =
      .next { ((((s.gopBegin 1).writeDev gopWho (s.fld (rk .LK_GOP_DST) 0 56) bs).setFld gopReg 1 1 1).sendLink (.answer p 1 false)).setFld gopReg 0 1 0 with gop := none } ∧
    exec .snapshotHold s = .next ((s.gopBegin 2).snapped.sendLink (.answer p 1 false)) ∧
    exec .resetMessage s = .next (s.gopBegin 3).computeReset) ∧
  (∀ (s : State) (op : Nat), op < 8 →
    let t := s.gopBegin op
    let u := s.gopStart op
    t.bit gopReg 0 = true ∧ t.fld gopReg 2 2 = 0 ∧ t.fld gopReg 4 3 = op ∧ t.gop = some ⟨op, s.kids, 1, false, false, false⟩ ∧ t = { s with regs := t.regs, gop := t.gop } ∧
    u.gop = t.gop ∧ u.fld gopReg 16 16 = (s.fld gopReg 16 16 + 1) % 2 ^ 16 ∧ u.fld gopReg 7 9 = 0 ∧ u.bit gopReg 0 = true ∧ u = { s with regs := u.regs, gop := u.gop }) ∧
  (∀ (s : State) (g : Gop), s.gop = some g →
    (g.waiting ≠ [] ∨ g.received = false → s.gopCheck = s) ∧
    (g.waiting = [] → g.received = true → s.isMaster = true →
      let e := s.gopEnd g.op (flagNat g.missing) g.answered
      s.gopCheck = if g.op = 2 then ({ e with holdPost := false } : State).toKids .release else e) ∧
    (∀ (c : Casc) (p : Nat), g.waiting = [] → g.received = true → s.isMaster = false → s.casc = some c → c.parent = some p →
      let a := s.sendLink (.answer p g.answered g.missing)
      (g.op = 2 → s.gopCheck = { a with gop := some { g with received := false } }) ∧
      (g.op = 1 → s.gopCheck = { a.setFld gopReg 0 1 0 with gop := none }) ∧
      (g.op = 3 → s.gopCheck = State.setFld { a.setFld gopReg 0 1 0 with gop := none } gopReg 1 1 1)) ∧
    (s.resetting = true →
      let d := (({ s with resetting := false, dispatchHeld := s.snapshotBegun } : State).settle).resetDone 3
      exec .computeResetDone s = .next (if g.op = 3 then ({ d with gop := some { g with received := true } } : State).gopCheck else d))) ∧
  (∀ (s : State) (g : Gop) (i n : Nat) (miss : Bool), s.gop = some g → i ∈ g.waiting →
    let w := g.waiting.filter (· ≠ i)
    let h : Gop := { g with waiting := w, answered := min (g.answered + n) 256, missing := g.missing || miss }
    exec (.gopAnswer i n miss) s = .next ({ s with gop := some h } : State).gopCheck ∧
    (w ≠ [] ∨ g.received = false → exec (.gopAnswer i n miss) s = .next { s with gop := some h }) ∧
    (w = [] → g.received = true → s.isMaster = true → g.op ≠ 2 →
      exec (.gopAnswer i n miss) s = .next (s.gopEnd g.op (flagNat h.missing) h.answered)) ∧
    (s.fld (rk .LK_GOP_CFG) 0 16 ≠ 0 →
      exec (.gopAnswerTimeout i) s = .next ({ s with gop := some { g with waiting := w, missing := true } } : State).gopCheck) ∧
    (w ≠ [] ∨ g.received = false → s.fld (rk .LK_GOP_CFG) 0 16 ≠ 0 →
      exec (.gopAnswerTimeout i) s = .next { s with gop := some { g with waiting := w, missing := true } }) ∧
    (s.fld (rk .LK_GOP_CFG) 0 16 = 0 → exec (.gopAnswerTimeout i) s = .next s)) ∧
  (∀ (s : State) (i n : Nat) (miss : Bool), (∀ g : Gop, s.gop = some g → i ∉ g.waiting) →
    exec (.gopAnswer i n miss) s = .next s ∧ exec (.gopAnswerTimeout i) s = .next s) ∧
  (∀ s : State, s.gop = none → exec .snapshotRelease s = .next s))

/-- A descriptor that another member sends is dispatched as one of its own, with the member kept, unless the module is leaving or holds dispatch; the
member has made the checks before placement but for the target's, a group of this module's, which is checked here. It goes to the unit that its sender chose, whose handle follows the 128 bytes where its
target is a group of the sender, which is the model's reading (log 21), else to its target. The record of one that ran elsewhere ends it here with that record's status and detail, marked REMOTE, and is kept as it came. -/
def Obligations.DescriptorsCrossBetweenMembers : Prop :=
  (∀ (m r q c : Nat) (bs : List Byte) (s : State),
    (s.inCascade m = false ∨ s.leaving = true ∨ s.dispatchHeld = true → exec (.remoteDescriptor m r q c bs) s = .next s) ∧
    (∀ u x, s.inCascade m = true → s.leaving = false → s.dispatchHeld = false → s.remoteVerdict { Desc.ofBytes bs with target := carriedTo bs } = .go u none x →
      ∃ (t : State) (j : Job), exec (.remoteDescriptor m r q c bs) s = .next t ∧ t.jobs = s.jobs ++ [j] ∧ t.nextJid = s.nextJid + 1 ∧
        j.jid = s.nextJid ∧ j.origin = some m ∧ j.ring = r ∧ j.seq = q ∧ j.cls = c ∧ j.d = Desc.ofBytes bs ∧ j.unit = u ∧ j.phase = .dispatched) ∧
    (∀ e, s.inCascade m = true → s.leaving = false → s.dispatchHeld = false → s.remoteVerdict { Desc.ofBytes bs with target := carriedTo bs } = .reject e →
      ∃ (t : State) (j : Job), exec (.remoteDescriptor m r q c bs) s = .next t ∧ j ∈ t.jobs ∧ j.jid = s.nextJid ∧ j.origin = some m ∧
        j.phase = .done ∧ j.status = e.1 ∧ j.detail = e.2) ∧
    (∀ d : Desc, s.remoteVerdict d = if s.targetOk d.target = true then s.placing d else .reject (0x4, 0)) ∧
    (bs.length = 128 → carriedTo bs = (Desc.ofBytes bs).target) ∧ (∀ h < 2 ^ 24, bs.length = 128 → carriedTo (bs ++ leBytes 3 h) = h)) ∧
  (∀ (n : Nat) (j : Job) (bs : List Byte) (s : State), s.job? n = some j → j.phase = .away →
    ∃ (t : State) (k : Job), exec (.remoteCompletion n bs) s = .next t ∧ t.jobs = s.jobs.filter (fun x => x.jid ≠ j.jid) ++ [k] ∧ k.jid = j.jid ∧
      k.ring = j.ring ∧ k.phase = .done ∧ k.status = fieldAt bs 0 2 ∧ k.detail = fieldAt bs 20 4 ∧ k.block = bs ∧
      (∀ i < 16, bitOf k.flags i = (i = flRemote || bitOf (fieldAt bs 2 2) i)))

/-- On a port that is up and does not retrain, a good flit counts as received and what its message brings takes effect: a token change of a slot here, a write, which stores its bytes, a read, whose bytes go back, an allocation that a peer spills here where PL_CFG lets it and there is room, its end, or a message for a third member, which goes on; a bad one counts as a CRC error, here and in the lifetime record, and says nothing. That these come with a flit is the model's choice, since the table has no rows of their own for them (log 17). Flits that a good one acknowledges are no longer kept, and a replay counts what is sent again; the sixteenth failure in a row, of a flit sent or received, takes the port down. A lane is faulted that has lost lock or passed 2^thresh_log2 corrected symbols in 1 ms; the first fault takes the spare and keeps eight lanes; a second leaves four; the port goes down with fewer. A port
comes up, enabled and with power, at the width its lanes leave. A message goes out on the port of its route, or behind messages of its class to its member that wait on another, at once, or waits while the port retrains; the retrain's end
sends all that waits, the lowest class first, with a flit of class 2 after at most 7 of others. Nothing happens on a port that is down. How many flits a message takes is the model's reading (log 17). -/
def Obligations.RillPortsCountReplayAndNarrow : Prop :=
  ∀ (p : Nat) (s : State),
    let r := s.rill p
    (s.portUp p = false ∨ r.retraining = true → ∀ (g k : Bool) (a : Nat) (b : Brought), exec (.flitReceive p g a ⟨k, b⟩) s = .next s) ∧
    (s.portUp p = false → ∀ (l : Nat) (x : Option Nat), exec (.laneFault p ⟨l, x⟩) s = .next s) ∧
    (∀ l n : Nat, n ≤ 2 ^ s.fld (rk .LK_PORT_CFG 0 p) 8 5 → exec (.laneFault p ⟨l, some n⟩) s = .next s) ∧
    (s.portUp p = true → r.retraining = false → ∀ a : Nat,
      let u : State := { s.bump (rk .LK_RX_FLITS 0 p) with ports := Tab.put s.ports p { r with unacked := r.unacked.drop a, fails := if a = 0 then r.fails else 0, rxBad := 0 } }
      (∀ b : Brought, exec (.flitReceive p true a ⟨false, b⟩) s = .next (u.bring b)) ∧
      (∀ (nak : Bool) (b : Brought),
        (r.rxBad < 15 → exec (.flitReceive p false a ⟨nak, b⟩) s = .next { s.bump (rk .LK_CRC_ERRORS 0 p) with life := { s.life with rillCrc := s.life.rillCrc.modify p fun n => min (n + 1) (2 ^ 32 - 1) }, ports := Tab.put s.ports p { r with rxBad := r.rxBad + 1 } }) ∧
        (15 ≤ r.rxBad → ∃ t : State, exec (.flitReceive p false a ⟨nak, b⟩) s = .next t ∧ t.portUp p = false))) ∧
    (s.bring .nothing = s ∧
      (∀ (q n : Nat) (full claimed : Bool), q < 140 → n < 64 → let t := s.bring (.token q n full claimed)
        t.slotClaimed q n = claimed ∧ t.slotFull q n = (if claimed = true then s.slotFull q n else full) ∧ t = { s with regs := t.regs }) ∧
      (∀ (l st : Nat), s.loc l = .dram l st → l < 2 ^ 47 → Mem.wf s.dev = true → Tab.find? s.dramErr (codeKey st l) = none →
        (∀ (unit : Nat) (bs : List Byte), 0 < bs.length → l % 64 + bs.length ≤ 64 → let t := s.bring (.write unit l bs)
          Mem.read t.dev l bs.length = bs ∧ (∀ a, a < l ∨ l + bs.length ≤ a → Mem.get t.dev a = Mem.get s.dev a) ∧
            t.host = s.host ∧ t.site = s.site ∧ t.mbox = s.mbox) ∧
        (∀ m c n : Nat, 0 < n → l % 64 + n ≤ 64 → ∃ t : State, t.dev = s.dev ∧ t.ports = s.ports ∧
          s.bring (.read m c l n) = t.sendAs c (.found m c (s.peek (rillWho 0) l 0 n) false) 0)) ∧
      (∀ b n f : Nat, let ls := (List.range 16).filter s.stackReady
        (s.bit (rk .PL_CFG) 1 = false → s.bring (.spill b n f) = s) ∧
        (s.bit (rk .PL_CFG) 1 = true → n ≠ 0 → n % 65536 = 0 → s.allocs.length < 65536 → f < ls.length → s.roomOn ls n f = true → s.addrFree b n = true →
          ∃ x : Alloc, (s.bring (.spill b n f)).allocs = s.allocs ++ [x] ∧ x.base = b ∧ x.size = n ∧ x.hint.prio = 7 ∧ x.hint.spill = 3 ∧
            x.stackList = ls ∧ x.f = f ∧ x.lies = .onStacks)) ∧
      (∀ (b : Nat) (x : Alloc), s.allocs.find? (fun x => x.base = b && x.hint = peerHint) = some x →
        (s.bring (.spillEnd b)).allocs = s.allocs.filter (fun y => y.base ≠ b)) ∧
      (∀ m c n : Nat, s.bring (.onward m c n) = s.sendAs c (.onward m c n) 0 ∧ (LinkMsg.onward m c n).flits = max 1 ((n + 239) / 240))) ∧
    (s.portUp p = true → r.retraining = false → r.unacked ≠ [] → r.fails < 15 → ∃ t : State, exec (.flitReceive p true 0 ⟨true, .nothing⟩) s = .next t ∧
      (t.rill p).unacked = r.unacked ∧ (t.rill p).fails = r.fails + 1 ∧
      (t.reg (rk .LK_REPLAYS 0 p)).toNat = min ((s.reg (rk .LK_REPLAYS 0 p)).toNat + 1) (2 ^ 64 - 1) ∧
      (t.reg (rk .LK_TX_FLITS 0 p)).toNat = min ((s.reg (rk .LK_TX_FLITS 0 p)).toNat + r.unacked.length) (2 ^ 64 - 1)) ∧
    (s.portUp p = true → r.retraining = false → r.unacked ≠ [] → r.fails = 15 → ∃ t : State, exec (.flitReceive p true 0 ⟨true, .nothing⟩) s = .next t ∧ t.portUp p = false) ∧
    (s.portUp p = true → r.badLanes = [] → ∀ (l : Nat) (n : Option Nat), l < 8 → s.laneBad p n = true → ∃ t : State, exec (.laneFault p ⟨l, n⟩) s = .next t ∧ t.portUp p = true ∧ (t.rill p).badLanes = [l] ∧
      t.fld (rk .LK_PORT_STATUS 0 p) 1 4 = 8 ∧ t.bit (rk .LK_PORT_STATUS 0 p) 5 = true ∧ (t.rill p).retraining = true ∧ (t.rill p).unacked = r.unacked) ∧
    (s.portUp p = true → ∀ (x l : Nat) (n : Option Nat), r.badLanes = [x] → x < 8 → r.narrowed = false → l < 9 → l ≠ x → s.laneBad p n = true → ∃ t : State, exec (.laneFault p ⟨l, n⟩) s = .next t ∧
      t.fld (rk .LK_PORT_STATUS 0 p) 1 4 = 4 ∧ (t.rill p).narrowed = true) ∧
    (r.retraining = true → (∀ x ∈ r.waiting, x.1 < 3 ∧ 1 ≤ x.2.2.1) → ∃ t : State, exec (.retrainDone p) s = .next t ∧
      (t.rill p).retraining = false ∧ (t.rill p).waiting = [] ∧ t.linkOut.length = s.linkOut.length + r.waiting.length ∧
      (t.rill p).unacked.length = r.unacked.length + (r.waiting.map fun x => x.2.2.1).sum ∧
      t = { s with regs := t.regs, linkOut := t.linkOut, ports := t.ports }) ∧
    (r.retraining = false → exec (.retrainDone p) s = .next s) ∧
    (∀ (cls : Nat) (msg : LinkMsg),
      ((∀ q < 16, ∀ x ∈ (s.rill q).waiting, x.1 = cls → x.2.2.2.member = none ∨ x.2.2.2.member ≠ msg.member) → s.portOf cls msg = s.linkPort msg) ∧
      (∀ q, s.portOf cls msg = some q → (∃ x ∈ (s.rill q).waiting, x.1 = cls ∧ x.2.2.2.member = msg.member) ∨ s.linkPort msg = some q)) ∧
    (∀ (msg : LinkMsg) (op : Nat), s.portOf (s.linkClass op msg) msg = some p →
      (r.retraining = true → s.sendLink msg op =
        { s with ports := Tab.put s.ports p { r with waiting := r.waiting ++ [(s.linkClass op msg, op, msg.flits, msg)] } }) ∧
      (r.retraining = false → (s.sendLink msg op).linkOut = s.linkOut ++ [msg] ∧
        ((s.sendLink msg op).rill p).unacked = r.unacked ++ List.replicate msg.flits op)) ∧
    (r.run ≤ 7 → ((s.flitOut p).rill p).run ≤ 7) ∧
    (∀ (cs : List Nat) (n : Nat), (2 ∈ cs → 7 ≤ n → nextClass cs n = some 2) ∧
      (∀ c, c < 3 → c ∈ cs → (∀ b < c, b ∉ cs) → n < 7 → nextClass cs n = some c)) ∧
    (s.portUp p = false → s.bit (rk .LK_PORT_CFG 0 p) 0 = true → s.powerGood = true → 4 ≤ r.active.length → s.casc = none → p < 16 →
      ∃ t : State, exec (.portUp p) s = .next t ∧ t.portUp p = true ∧ t.fld (rk .LK_PORT_STATUS 0 p) 1 4 = r.active.length % 16 ∧ t.isReady (384 + p) = true)

/-! ### Radio time and fronthaul -/

/-- The 10 MHz input appearing starts LOCKING, its lock LOCKED, its loss HOLDOVER if it had been locked and FREE else; holdover's end keeps the state. READY_MAP bit 7 stands while time is set, Zenith ready and the state LOCKED, or HOLDOVER before its end. An event that is not due changes nothing. -/
def Obligations.RadioTimeStateFollowsTheReference : Prop :=
  ∀ s : State,
    let ready (t : State) : Prop := t.isReady 7 = (s.timeSet? && s.zenith)
    (s.powerGood = true → s.bit (rk .TM_STATUS) 2 = false → ∃ t : State, exec .referencePresent s = .next t ∧ t.timeState = 1 ∧ t.bit (rk .TM_STATUS) 2 = true ∧
      t.isReady 7 = false ∧ t.reg (rk .TM_NOW) = s.reg (rk .TM_NOW)) ∧
    (s.timeState = 1 → ∃ t : State, exec .referenceLocked s = .next t ∧ t.timeState = 2 ∧ t.onceLocked = true ∧ ready t) ∧
    (s.bit (rk .TM_STATUS) 2 = true → ∃ t : State, exec .referenceLost s = .next t ∧ t.bit (rk .TM_STATUS) 2 = false ∧
      (s.onceLocked = true → t.timeState = 3 ∧ t.holdoverDone = false ∧ ready t) ∧ (s.onceLocked = false → t.timeState = 0 ∧ t.isReady 7 = false)) ∧
    (s.timeState = 3 → s.holdoverDone = false → ∃ t : State, exec .holdoverExpiry s = .next t ∧ t.timeState = 3 ∧ t.holdoverDone = true ∧ t.isReady 7 = false) ∧
    (s.bit (rk .TM_STATUS) 2 = true → exec .referencePresent s = .next s) ∧ (s.timeState ≠ 1 → exec .referenceLocked s = .next s) ∧
    (s.bit (rk .TM_STATUS) 2 = false → exec .referenceLost s = .next s) ∧ (s.timeState ≠ 3 → exec .holdoverExpiry s = .next s)

/-- An idle step advances the clock by one tick of 1/33 ns (the model's choice, log 2). Between the ticks on which a clock of
the spec has an edge nothing else changes. TIME_SET sets the counter at once, or at the next 1PPS edge where 1PPS is present, and answers the counter; slewing ends. The counter adds 1 each ns once time is set and stands before. An edge stores the signed distance to the nearest whole second, slews it away within the limit while LOCKED, and reports it beyond. A missed edge is counted and
reported. The distributor's pulse goes out at each whole second, and a slot's start shows in TM_SLOT and is reported if asked for. -/
def Obligations.TimeIsSetSlewedAndTicked : Prop :=
  (∀ s : State, s.pending = [] →
    ∃ t, step s = .next t ∧ t.tk = s.tk + 1 ∧ t.pending = [] ∧
      ((s.tk + 1) % 33 ≠ 0 → (s.tk + 1) % 20 ≠ 0 → t = { s with tk := s.tk + 1 })) ∧
  ((∀ (mb : Nat) (s : State),
    (MailboxDue s (.timeSet mb) → ∃ t : State, exec (.timeSet mb) s = answersOk mb t (leBytes 8 (s.pay mb 0 8)) ∧ t.now = s.pay mb 0 8 ∧ t.slew = 0 ∧
      t.timeSet? = true ∧ t.jobs = s.jobs) ∧
    (MailboxDue s (.timeSetAtPps mb) →
      (s.bit (rk .TM_STATUS) 3 = false → exec (.timeSetAtPps mb) s = .next (s.mbAnswer mb 0x11 0 [])) ∧
      (s.bit (rk .TM_STATUS) 3 = true →
        exec (.timeSetAtPps mb) s = .next { s with mbRun := Tab.put s.mbRun mb (.timeSetAtPps (s.pay mb 0 8)) }))) ∧
  (∀ n : Nat, (ppsError n).natAbs ≤ 500000000 ∧ ∃ k : Int, (n : Int) + ppsError n = 1000000000 * k) ∧
  (∀ s : State, s.powerGood = true → s.bit (rk .TM_STATUS) 5 = false →
    let e := ppsError s.now
    let u := ((s.bump (rk .TM_PPS_EDGES)).setFld (rk .TM_STATUS) 3 1 1).setReg (rk .TM_PPS_ERR) (BitVec.ofNat 64 (bitsOfInt e 32))
    ((∀ m ∈ s.mbRun, ∀ x, m.2 ≠ .timeSetAtPps x) →
      (s.fld (rk .TM_CFG) 0 16 < e.natAbs → exec .ppsEdge s = .next ({ u with slew := 0 }.raise 0x121 devHandle (payload [(24, 4, bitsOfInt e 32)]))) ∧
      (e.natAbs ≤ s.fld (rk .TM_CFG) 0 16 → s.timeSet? = true → s.timeState = 2 → exec .ppsEdge s = .next { u with slew := e }) ∧
      (e.natAbs ≤ s.fld (rk .TM_CFG) 0 16 → s.timeSet? = false ∨ s.timeState ≠ 2 → exec .ppsEdge s = .next u)) ∧
    (∀ mb x : Nat, s.mbRun = [(mb, .timeSetAtPps x)] → mb < 72 → x < 2 ^ 64 → ∃ t : State, exec .ppsEdge s = answersOk mb t (leBytes 8 x) ∧ t.now = x ∧
      t.slew = 0 ∧ t.timeSet? = true)) ∧
  (∀ s : State, s.bit (rk .TM_STATUS) 5 = true ∨ s.powerGood = false → exec .ppsEdge s = .next s) ∧
  (∀ s : State,
    exec .ppsMissed s = .next (if s.bit (rk .TM_STATUS) 3 = true then ((s.setFld (rk .TM_STATUS) 3 1 0).bump (rk .TM_PPS_MISSED)).timeEvent else s) ∧
    exec .ppsOutPulse s = .next (if s.holder 1 = 6 ∧ s.timeState = 2 ∧ s.timeSet? = true ∧ s.now % 1000000000 = 0 then { s with ppsPulse := s.ppsPulse + 1 } else s) ∧
    (s.timeSet? = false ∨ s.slotStart = s.lastSlot → exec .slotTick s = .next s) ∧
    (s.timeSet? = true → s.slotStart ≠ s.lastSlot →
      let p := slotAt s.tickCfg s.now
      exec .slotTick s = .next (if bitOf s.tickCfg.toNat 3 = true then ({ s with lastSlot := s.slotStart }.showSlot).raise 0x130 devHandle
        (payload [(24, 1, p.1), (25, 1, p.2.1), (26, 1, p.2.2.1), (32, 8, s.slotStart)]) else { s with lastSlot := s.slotStart }.showSlot)) ∧
    (s.pending = [] → (s.tk + 1) % 33 = 0 → (s.tk + 1) % 20 ≠ 0 → s.slew = 0 → s.now + 1 < 2 ^ 64 →
      ∃ t : State, step s = .next t ∧ t.now = if s.timeSet? = true then s.now + 1 else s.now)))

namespace Sys2Proof.Machine

/-- Bytes that the grids stage (R386). -/
def State.stagedBytes (s : State) : Nat := (s.grids.map fun e => match s.gridFlows e.1 with | x :: _ => x.staging | [] => 0).sum

end Sys2Proof.Machine

/-- CELL_CONFIG SET replaces its flow; one within its limits that clashes with no other joins the grid of its destination, or makes the lowest free one, which begins with nothing staged; a clash is BUSY, and a grid too many or beyond the staging memory a limit. CLEAR removes the flow. A port that is down or disabled takes no frame; a frame with a bad check sequence, one that does not parse, and one of no flow are counted and dropped, one of no flow by the section headers whose lengths it tells itself (log 18), and one that passes goes to its
flow's window. A symbol is written, once, for the slot that is due, and its staged samples leave. A port's state shows in its register and READY_MAP and is reported. -/
def Obligations.FronthaulPlacesFramesAndWritesSymbols : Prop :=
  (∀ (mb : Nat) (s : State),
    let k := s.pay mb 0 2
    let f := s.flowArg mb
    (∀ e : Err, MailboxDue s (.cellConfigSet mb) → s.cellLimit mb = some e → exec (.cellConfigSet mb) s = .next (s.mbAnswer mb e.1 e.2 [])) ∧
    (MailboxDue s (.cellConfigSet mb) → s.cellLimit mb = none →
      let t := s.dropFlow k
      (Tab.find? s.flows k = none → t = s) ∧
      (t.cellBusy f = true → exec (.cellConfigSet mb) s = .next (s.mbAnswer mb 0x13 0 [])) ∧
      (∀ g : Nat, t.cellBusy f = false → t.gridAt f.dst = some g → (Tab.find? t.grids g).isSome = true →
        exec (.cellConfigSet mb) s = answersOk mb ({ t with flows := Tab.put t.flows k { f with grid := g } }.showGrid g) []) ∧
      (t.cellBusy f = false → t.gridAt f.dst = none → (∀ g < 64, (Tab.find? t.grids g).isSome = true) →
        exec (.cellConfigSet mb) s = .next (s.mbAnswer mb 0x16 72 [])) ∧
      (∀ g < 64, t.cellBusy f = false → t.gridAt f.dst = none → Tab.find? t.grids g = none → (∀ i < g, (Tab.find? t.grids i).isSome = true) →
        (2 ^ 28 < t.stagedBytes + f.staging → exec (.cellConfigSet mb) s = .next (s.mbAnswer mb 0x16 72 [])) ∧
        (t.stagedBytes + f.staging ≤ 2 ^ 28 → ∃ (u : State) (x : Grid),
          exec (.cellConfigSet mb) s = answersOk mb ({ u with flows := Tab.put t.flows k { f with grid := g } }.showGrid g) [] ∧
          u.grids = Tab.put t.grids g x ∧ x.dst = f.dst ∧ x.staged = [] ∧ x.claim = none ∧ (t.timeSet? = false → x.written = []) ∧
          u.reg (rk .FH_GRID_DST 0 g) = BitVec.ofNat 64 f.dst ∧ u.reg (rk .FH_GRID 0 g) = 0 ∧
          (∀ r : RegKey, r ≠ rk .FH_GRID_DST 0 g → r ≠ rk .FH_GRID 0 g → u.reg r = t.reg r) ∧ u = { t with grids := u.grids, regs := u.regs }))) ∧
    (MailboxDue s (.cellConfigClear mb) → k < 1024 → ∃ t : State, exec (.cellConfigClear mb) s = answersOk mb t [] ∧ Tab.find? t.flows k = none ∧
      (∀ n, n ≠ k → Tab.find? t.flows n = Tab.find? s.flows n) ∧ t.jobs = s.jobs ∧ t.dev = s.dev)) ∧
  (∀ (p : Nat) (ok : Bool) (bs : List Byte) (s : State),
    let cfg := rk .FH_PORT_CFG 0 p
    let u := s.bump (rk .FH_RX_FRAMES 0 p)
    (s.bit cfg 48 = false ∨ s.bit (rk .FH_PORT_STATUS 0 p) 0 = false → exec (.frameReceive p ok bs) s = .next s) ∧
    (s.bit cfg 48 = true → s.bit (rk .FH_PORT_STATUS 0 p) 0 = true →
      exec (.frameReceive p false bs) s = .next (u.bump (rk .FH_DROP_FCS 0 p)) ∧
      (parseFrame (s.fld cfg 0 48) bs = none → exec (.frameReceive p true bs) s = .next (u.bump (rk .FH_DROP_OTHER 0 p))) ∧
      (∀ m, parseFrame (s.fld cfg 0 48) bs = some m →
        ((∀ e ∈ s.flows, ¬ (e.2.port = p ∧ e.2.eaxc = m.eaxc)) → exec (.frameReceive p true bs) s =
          .next (if strayBad (s.bit cfg 49) (m.body.length + 1) m.body = true then u.bump (rk .FH_DROP_OTHER 0 p) else u.bump (rk .FH_DROP_NOFLOW 0 p))) ∧
        (∀ (e : Nat × Flow) (xs : List Sect), List.find? (fun x : Nat × Flow => x.2.port = p && x.2.eaxc = m.eaxc) s.flows = some e → m.slot < 2 ^ e.2.mu →
          sections (s.bit cfg 49) (e.2.rbs, e.2.w) (m.body.length + 1) 0 m.body = some xs → exec (.frameReceive p true bs) s = .next (u.takeMessage p e.1 e.2 m xs))))) ∧
  (∀ (n : Nat) (static : Bool) (bs : List Byte),
    let h := beAt bs 0 4
    let c := beAt bs 4 1
    let len := 6 + h % 256 * prbBytes (if c / 16 = 0 then 16 else c / 16)
    (bs = [] → strayBad static (n + 1) bs = false) ∧
    (bs ≠ [] → bitOf h 19 = true → strayBad static (n + 1) bs = true) ∧
    (bs ≠ [] → bitOf h 19 = false → static = true → strayBad static (n + 1) bs = false) ∧
    (bs ≠ [] → bitOf h 19 = false → static = false → strayBad static (n + 1) bs =
      if c % 16 ≠ 1 then true else if h % 256 = 0 then false else if bs.length < len then true else strayBad false n (bs.drop len))) ∧
  (∀ (s : State) (p k : Nat) (f : Flow) (m : UMsg) (xs : List Sect),
    let n := nearestFrame s.frameOff s.now m.frame * frameSlots f.mu + m.subframe * 2 ^ f.mu + m.slot
    let t := symTime s.frameOff f.mu n m.sym
    let u : State := { s.bump (rk .FH_SEQ_GAPS 0 p) (f.gap m.seq) with flows := Tab.put s.flows k { f with lastSeq := some m.seq } }
    (s.now < t + f.early → s.takeMessage p k f m xs = u.bump (rk .FH_DROP_EARLY 0 p)) ∧
    (t + f.early ≤ s.now → t + f.late < s.now → s.takeMessage p k f m xs = u.bump (rk .FH_DROP_LATE 0 p)) ∧
    (t + f.early ≤ s.now → s.now ≤ t + f.late → ∀ g, Tab.find? s.grids f.grid = some g →
      ((n, m.sym) ∈ g.written → s.takeMessage p k f m xs = u.bump (rk .FH_DROP_DUP 0 p)) ∧
      ((n, m.sym) ∉ g.written → s.takeMessage p k f m xs = { u with grids := Tab.put s.grids f.grid (g.stage (xs.flatMap fun x => x.prbs f n m.sym)) }))) ∧
  (∀ (k y n : Nat) (g : Grid) (f : Flow) (r : List Flow) (s : State), Tab.find? s.grids k = some g → s.gridFlows k = f :: r → y < f.symbols →
    (s.dueSlot g f (f :: r) y = none → exec (.symbolWrite k y) s = .next s) ∧
    (s.dueSlot g f (f :: r) y = some n → ∃ (t : State) (h : Grid), exec (.symbolWrite k y) s = .next t ∧ Tab.find? t.grids k = some h ∧ (n, y) ∈ h.written ∧
      h.staged = g.staged.filter (fun x => !(x.slot = n && x.sym = y)) ∧ (∀ i, i ≠ k → Tab.find? t.grids i = Tab.find? s.grids i) ∧ t.flows = s.flows)) ∧
  (∀ (p : Nat) (up : Bool) (s : State), p < 2 →
    (s.powerGood = false ∨ s.bit (rk .FH_PORT_STATUS 0 p) 0 = up → exec (.fhPortState p up) s = .next s) ∧
    (s.powerGood = true → s.bit (rk .FH_PORT_STATUS 0 p) 0 ≠ up → ∃ t : State, exec (.fhPortState p up) s =
        .next (t.raise 0x110 devHandle (payload [(24, 1, p), (25, 1, flagNat up)])) ∧ t.bit (rk .FH_PORT_STATUS 0 p) 0 = up ∧ t.isReady (400 + p) = up))

/-! ### Power, temperature and the lifetime record -/

/-- The brownout ladder: an input outside 40 to 60 V warns, alerts and cuts the shares; its return starts the release; the store at its reserve begins the snapshot, which stops dispatch and records and saves; the orderly stop takes the link down and input power with it, and resets the die. An overvoltage, above 72 V or above 60 V for longer than 10 ms, opens the input switch until it closes again. What a brownout and a trip of one sample leave is the model's reading (log 40). No step is taken that is not due. -/
def Obligations.BrownoutLadderRunsInOrder : Prop :=
  ∀ s : State,
    (∀ (v : Nat) (high : Bool), s.powerGood = true → s.snapshotBegun = false → s.fld (rk .PW_STATUS) 0 2 ≠ 1 → (if high = true then 600 < v else v < 400) →
      exec (.powerWarn v high) s = .next ({ (s.setFld (rk .PW_STATUS) 0 2 1).bump (rk .PW_WARNS) with pwrAlert := true, uCut := s.cutShare }.showShares.raise 0x600 devHandle (payload [(24, 2, v), (26, 1, flagNat high)]))) ∧
    (∀ v : Nat, 400 ≤ v → exec (.powerWarn v false) s = .next s) ∧
    (s.cutShare = if s.bit (rk .PW_CFG) 0 = true then min (max (s.fld (rk .PW_CFG) 8 8) 8) 32 else s.uCut) ∧
    (∀ us : Nat, s.fld (rk .PW_STATUS) 0 2 = 1 → s.snapshotBegun = false →
      exec (.powerRestored us) s = .next (State.raise (if s.uCut = 256 then { (s.bump (rk .PW_RIDE_THROUGHS)).setFld (rk .PW_STATUS) 0 2 0 with pwrAlert := false } else
        (s.bump (rk .PW_RIDE_THROUGHS)).setFld (rk .PW_STATUS) 0 2 2) 0x601 devHandle (payload [(24, 4, us)]))) ∧
    (∀ us : Nat, s.fld (rk .PW_STATUS) 0 2 ≠ 1 ∨ s.snapshotBegun = true → exec (.powerRestored us) s = .next s) ∧
    (∀ v us : Nat, ¬ (720 < v ∨ 600 < v ∧ 10000 < us) ∨ s.switchOpen = true ∨ s.powerGood = false → exec (.overvoltage v us) s = .next s) ∧
    (∀ v us : Nat, s.powerGood = true → s.switchOpen = false → (720 < v ∨ 600 < v ∧ 10000 < us) →
      exec (.overvoltage v us) s = .next ({ s.setFld (rk .PW_STATUS) 4 1 1 with switchOpen := true }.raise 0x605 devHandle (payload [(24, 2, v), (26, 4, us)]))) ∧
    (s.switchOpen = true → exec .switchClose s = .next { s.setFld (rk .PW_STATUS) 4 1 0 with switchOpen := false }) ∧
    (s.powerGood = true → s.snapshotBegun = false → (s.fld (rk .PW_STATUS) 0 2 ≠ 0 ∨ s.switchOpen = true ∨ s.tripped = true) →
      exec .consistentSnapshot s = .next (((({ s with snapshotBegun := true, dispatchHeld := true, holdPost := true, tripStays := s.tripNow && (s.fld (rk .PW_STATUS) 0 2 ≠ 0 || s.switchOpen) }.raise 0x602 devHandle (payload [(24, 8, s.now)])).lifeSave).flashAll))) ∧
    (s.powerGood = true → s.snapshotBegun = true → ∃ t : State, exec .orderlyStop s = .next t ∧ t.powerGood = false ∧ t.snapshotBegun = false ∧ t.bit (rk .HI_LINK) 10 = false ∧
      t.jobs = [] ∧ t.rings = [] ∧ t.allocs = [] ∧ t.tripped = s.tripped ∧ (∀ a, Mem.get t.dev a = memDefault)) ∧
    (s.snapshotBegun = false → exec .orderlyStop s = .next s)

/-- Each telemetry tick moves the cap's share by 8 down or 2 up as the power stands to PW_CAP, the cut's share by 16 up after a release, and each terrace's thermal share by 8 down or 2 up as its hotter point stands to 100.0 and 97.0 °C; the effective share is the least of the three. The terraces' own identities are as at reset here. A sample replaces every reading; two in a row with a logic point at 115.0 °C or a stack at 100.0 °C trip the module, and one alone does not. Stacks show hot above 85.0 and throttle at 95.0 °C with an event, and stop doing so at 83.0 and 93.0 °C. -/
def Obligations.TicksAndSamplesThrottleAndTrip : Prop :=
  (∀ (v p : Nat) (s : State), s.powerGood = true → s.lmap = [] →
    ∃ t : State, exec (.telemetryTick v p) s = .next t ∧
      t.uCap = (if 2 * s.capWatts < p then max (s.uCap - 8) 16 else if p + 2 * s.fld (rk .PW_CAP) 16 8 < 2 * s.capWatts then min (s.uCap + 2) 256 else s.uCap) ∧
      t.uCut = (if s.fld (rk .PW_STATUS) 0 2 = 2 then min (s.uCut + 16) 256 else s.uCut) ∧
      (s.fld (rk .PW_STATUS) 0 2 = 2 → 240 ≤ s.uCut → t.fld (rk .PW_STATUS) 0 2 = 0 ∧ t.pwrAlert = false) ∧
      t.fld (rk .PW_INPUT) 0 16 = v % 2 ^ 16 ∧ t.fld (rk .PW_INPUT) 16 16 = p % 2 ^ 16 ∧
      (∀ n < 35,
        let old := s.fld (rk .PW_SHARE 0 n) 9 9
        let hot := max (s.sensor (2 * n)).toInt (s.sensor (2 * n + 1)).toInt
        t.fld (rk .PW_SHARE 0 n) 9 9 = (if 800 ≤ hot then max (old - 8) 1 else if hot ≤ 776 then min (old + 2) 256 else old) ∧
        t.fld (rk .PW_SHARE 0 n) 0 9 = min (min t.uCap t.uCut) (t.fld (rk .PW_SHARE 0 n) 9 9)) ∧
      t.jobs = s.jobs ∧ t.rings = s.rings) ∧
  (∀ (xs : List (BitVec 16)) (s : State), s.powerGood = true → xs.length = 120 →
    let logic (i : Nat) : Prop := i < 70 ∧ 920 ≤ (xs.getD i 0).toInt
    let stack (i : Nat) : Prop := 70 ≤ i ∧ i < 86 ∧ 800 ≤ (xs.getD i 0).toInt
    let hot := ∃ i, logic i ∨ stack i
    ∃ t : State, exec (.sensorSample xs) s = .next t ∧ (∀ i < 120, t.sensor i = xs.getD i 0) ∧ (hot → t.tripped = (s.tripped || s.overSample)) ∧
      (¬ hot → t.tripped = s.tripped ∧ t.overSample = false) ∧ (hot → s.overSample = false → t.overSample = true) ∧
      (∀ n < 16,
        let x := (xs.getD (70 + n) 0).toInt
        (760 ≤ x → t.bit (rk .DM_STATUS n) 2 = true) ∧ (x ≤ 744 → t.bit (rk .DM_STATUS n) 2 = false) ∧
        (744 < x → x < 760 → t.bit (rk .DM_STATUS n) 2 = s.bit (rk .DM_STATUS n) 2) ∧
        (680 < x → t.bit (rk .DM_STATUS n) 1 = true) ∧ (x ≤ 664 → t.bit (rk .DM_STATUS n) 1 = false)) ∧
      t.jobs = s.jobs ∧ t.rings = s.rings)

/-- Each powered second counts one second and one bin of each temperature and, where rail 0 has been sampled, of the voltage. A save, commanded or due, puts the record with one more save, as a new copy, into the next block, and leaves the copies of the others; a block that its erase retires gives way to the one after it. The flash log takes the oldest entry that waits under the next number since manufacture. -/
def Obligations.LifetimeCountsAndSaves : Prop :=
  ∀ s : State, s.powered = true →
    (∃ t : State, exec .lifetimeSecond s = .next t ∧ t.life.poweredS = min (s.life.poweredS + 1) (2 ^ 32 - 1) ∧
      t.life.logicBins = s.life.logicBins.modify (binOf logicBounds (s.hottest 0 70)) (fun n => min (n + 1) (2 ^ 32 - 1)) ∧
      t.life.dramBins = s.life.dramBins.modify (binOf dramBounds (s.hottest 70 16)) (fun n => min (n + 1) (2 ^ 32 - 1)) ∧
      (s.sensor 96 ≠ 0x8000#16 → t.life.voltBins = s.life.voltBins.modify (binOf voltBounds (s.sensor 96).toNat) (fun n => min (n + 1) (2 ^ 32 - 1))) ∧
      (s.sensor 96 = 0x8000#16 → t.life.voltBins = s.life.voltBins) ∧ (∀ k : RegKey, k ≠ rk .NB_POWERED → k.name ≠ .TR_COLUMN_SPARES → t.reg k = s.reg k) ∧
      t = { s with regs := t.regs, life := t.life }) ∧
    (∀ v : BitVec 32, exec (.lifetimeSave v) s = .next (if bitOf v.toNat 0 = true then s.lifeSave else s)) ∧
    (s.nimbus = true → exec .lifetimeRecordSave s = .next s.lifeSave) ∧
    (∀ b : Nat, s.nextBlock 256 64 (Tab.getD s.cursors curRecord 0) = some b → Tab.getD s.blockErases b 0 + 1 < 100000 → 256 ≤ b →
      s.lifeSave.life.saves = min (s.life.saves + 1) (2 ^ 32 - 1) ∧ Tab.find? s.lifeSave.copies (b - 256) = some ⟨s.lifeSave.life, true⟩ ∧
      (∀ i, i ≠ b - 256 → Tab.find? s.lifeSave.copies i = Tab.find? s.copies i) ∧ Tab.getD s.lifeSave.blockErases b 0 = Tab.getD s.blockErases b 0 + 1) ∧
    (∀ (b c : Nat) (r : Nat), s.nextBlock 256 64 r = some b → s.freshBlock 256 64 (c + 1) r =
      if 100000 ≤ Tab.getD s.blockErases b 0 + 1 then (s.eraseBlock b).freshBlock 256 64 c (b - 256 + 1) else (s.eraseBlock b, some b)) ∧
    (s.flashPend = [] → exec .flashLogWrite s = .next s) ∧
    (∀ (e : LogEntry) (r : List LogEntry), s.flashPend = e :: r → (s.reg (rk .NB_LOG_FLASH)).toNat % 1024 ≠ 0 → s.blocksLeft 0 256 ≠ 0 →
      exec .flashLogWrite s = .next { s.bump (rk .NB_LOG_FLASH) with flashPend := r, flashLog := s.flashLog ++ [{ e with num := (s.reg (rk .NB_LOG_FLASH)).toNat }] })

/-! ### Descriptors at issue -/

namespace Sys2Proof.Machine

/-- The row that issues a descriptor of an opcode, with the basin stalls that its accesses meet. -/
def issueRow? (jid n : Nat) (d : Desc) : Option Instr :=
  if d.opcode = opMatmul then some (.matmul jid n)
  else if d.opcode = opFused then some (.fusedPair ⟨jid, n⟩)
  else if d.opcode = opCheck then some (.checknode ⟨jid, n⟩)
  else if d.opcode = opReduce then some (.reduce ⟨jid, n⟩)
  else if d.opcode = opUpdate then some (.update ⟨jid, n⟩)
  else if d.opcode = opConvert then some (.convert ⟨jid, n⟩)
  else if d.opcode = opGather then (if d.rowfn = 0 then some (.gatherRows ⟨jid, n⟩) else if d.rowfn = 1 then some (.gatherColumns ⟨jid, n⟩) else none)
  else if d.opcode = opHaze then some (.hazeSelect ⟨jid, n⟩)
  else if d.opcode = opForecast then some (.forecast ⟨jid, n⟩)
  else if d.opcode = opEmu then
    (if d.rowfn = 0 then some (.dot ⟨jid, n⟩) else if d.rowfn = 1 then some (.toStream ⟨jid, n⟩) else if d.rowfn = 2 then some (.fromStream ⟨jid, n⟩) else none)
  else if d.opcode = opDrain then some (.drain ⟨jid, n⟩)
  else if d.opcode = opReshard then some (.reshard jid)
  else if d.opcode = opBarrier then some (.barrier jid)
  else none

/-- A descriptor with its issue noted, and whether its group is reserved for radio then (R303, R309). -/
def State.issuing (s : State) (j : Job) : Job :=
  { j with issued := some s.tk, reserved := j.cls = 0 && j.d.readsAcc && s.reserved (basinOf j.unit) j.d.accGroup }

/-- The read of a bounds record in memory, of a descriptor that has one (R278). -/
def State.boundsRead (s : State) (j : Job) : State × Option Err :=
  if j.d.readsBounds ∧ j.d.boundsSrc = 2 then s.readSpan j.who j.d.boundsSpan else (s, none)

/-- A descriptor with its bounds read and its issue noted (R277 to R279). -/
def State.bounded? (s t : State) (j k : Job) : Prop :=
  s.boundsRead j = (t, none) ∧ k = { s.issuing j with bm := (t.bounds j).1, bn := (t.bounds j).2.1, bk := (t.bounds j).2.2 }

/-- A descriptor passes steps 7 and 8 of R288, its block is there and is read, and step 9 finds nothing. -/
def State.blockPasses (s t : State) (j k : Job) (o : Op) : Prop :=
  ∃ (u v : State) (i : Job), s.bounded? u j i ∧ i.d.rangeCheck i.bm i.bn i.bk = none ∧ u.formatCheck i.d = none ∧ o.format u i = none ∧
    (o.block i = 0 ∨ u.strayRef i i.d.metaSrc = false) ∧ u.blockWaits i (o.block i) = false ∧
    (if o.block i = 0 then (u, none) else u.readSpan i.who ⟨i.d.metaSrc, 0, o.block i⟩) = (v, none) ∧
    k = { i with block := if o.block i = 0 then [] else v.peek i.who i.d.metaSrc 0 (o.block i) } ∧
    o.check v k = (t, none) ∧ ¬ (k.d.readsReduce = true ∧ k.d.reduce = 4 ∧ k.d.opcode ≠ opCheck)

/-- It passes every check, and its group is open. -/
def State.passes (s t : State) (j k : Job) (o : Op) : Prop :=
  ∃ (u v : State) (i : Job), s.blockPasses u j i o ∧ o.noop i = false ∧ (o.acc = true → u.accCheck i (o.shape i) (o.terms i) = none) ∧
    o.last u i = (v, none) ∧ o.opens v i = (t, k)

/-- A BARRIER issues here once its ring's earlier descriptors have completed. -/
def State.barrierHere (s : State) (j : Job) : Prop := j.d.opcode = opBarrier → s.fenced j = true ∧ s.isHere (j.d.target / 2 ^ 16) = true

/-- The opcodes whose weight tiles run on the jets after issue. -/
def jetOpcodes : List Nat := [opMatmul, opFused, opCheck, opHaze, opForecast, opEmu]

end Sys2Proof.Machine

/-- A dispatched descriptor whose turn it is goes through the checks of R288 from step 7 on in their order. One whose bounds record cannot be read, or that fails its bounds or formats, ends at once with that status, and one with an empty extent with SUCCESS and NOOP; one that passes takes the
tokens that are there, and with all of them runs its opcode's effect; one that lacks a token waits on it. An opcode that runs to its end at issue leaves its descriptor completed; one whose tiles run on the jets leaves it running or completed. That a conversion of EMU_BASAD passes whatever its
N, and CHECKNODE's K has a limit, is the model's reading (log 28, log 31). -/
def Obligations.IssueChecksInOrderThenRuns : Prop :=
  (∀ (d : Desc) (m n k : Nat), (∀ e : Err, d.rangeCheck m n k = some e → e.1 = 0x7) ∧
    ((d.rangeCheck m n k).isSome = true ↔
      (d.opcode ∈ [opMatmul, opFused, opCheck, opConvert, opGather, opUpdate, opHaze, opForecast, opEmu, opReduce] ∧
        (2 ^ 24 - 1 < m ∨ (2 ^ 24 - 1 < n ∧ ¬ (d.opcode = opEmu ∧ d.isDot = false)) ∨ 2 ^ 26 < k)) ∨
      (d.opcode = opReduce ∧ (k < 1 ∨ 8 < k)) ∨ (d.opcode = opBarrier ∧ 65536 < n))) ∧
  ∀ (p : State) (jid n : Nat) (j : Job) (c : Instr),
    let s := if j.d.opcode = opReshard ∨ j.d.opcode = opBarrier then p else p.stall (basinOf j.unit) n
    let o := opOf s j.d
    p.job? jid = some j → p.issueDue j = true → p.barrierHere j → issueRow? jid n j.d = some c →
    (∀ (t : State) (e : Err), s.boundsRead j = (t, some e) → exec c p = .next (t.issueFail (s.issuing j) e)) ∧
    (∀ (t : State) (k : Job), s.bounded? t j k →
      (∀ e : Err, k.d.rangeCheck k.bm k.bn k.bk = some e → exec c p = .next (t.reject k e)) ∧
      (∀ e : Err, k.d.rangeCheck k.bm k.bn k.bk = none → t.formatCheck k.d = some e → exec c p = .next (t.reject k e))) ∧
    (∀ (t : State) (k : Job), s.blockPasses t j k o → o.noop k = true →
      exec c p = .next (t.endJob { k with flags := k.flags ||| 2 ^ flNoop } 0 0)) ∧
    (∀ (t : State) (k : Job), s.passes t j k o →
      let rd := t.readSlots k o
      (∀ (u : State) (i : Job) (x : Nat × Nat), t.takeTokens k rd (t.slotsOf (o.writes k)) = (u, i, some x) →
        exec c p = .next (u.waitToken i .waiting (some x))) ∧
      (∀ (u : State) (i : Job), t.takeTokens k rd (t.slotsOf (o.writes k)) = (u, i, none) →
        let r : Job := { i with reads := rd, phase := .waiting, waitOn := none }
        exec c p = .next (o.run (u.putJob r) r) ∧
          ∃ e : Job, (o.run (u.putJob r) r).job? jid = some e ∧
            (e.phase = .done ∨ (j.d.opcode ∈ jetOpcodes ∧ e.phase = .draining) ∨ (j.d.opcode = opBarrier ∧ e.phase = .barrierSent))))

/-- A descriptor that succeeds leaves the slots it claimed FULL and unclaimed; one that fails gives them back EMPTY and ends with its status; neither touches another register but the
status of the jets and engines whose stores it leaves. A wait ends once the token waited on is there: the descriptor then takes what is there, and goes on where it waited or waits on the next; one that waited to read its block and whose rows a closing group still holds waits on. It
times out once it has waited 2^e b-cycles on one token, which is counted, e held between 10 and 24. Before that, and with the token there, a timeout changes nothing. -/
def Obligations.SlotTokensFollowTheirUse : Prop :=
  (∀ (s : State) (j : Job), (∀ c ∈ j.claimed, isRemote c.1 = false) →
    let t := s.succeed j
    let other (k : RegKey) : Prop := (∀ c ∈ j.claimed, k ≠ s.slotKey c.1 c.2) ∧ k.name ≠ .JT_STATUS ∧ k.name ≠ .SE_STATUS
    (∀ c ∈ j.claimed, t.slotFull c.1 c.2 = true ∧ t.slotClaimed c.1 c.2 = false) ∧
    (∀ k : RegKey, other k → t.reg k = s.reg k) ∧
    (∃ e : Job, t.job? j.jid = some e ∧ e.phase = .done ∧ e.status = 0 ∧ e.flags = j.flags ∧ e.counts = j.counts) ∧
    ∀ st d : Nat,
      let f := s.failJob j st d
      (∀ c ∈ j.claimed, f.slotFull c.1 c.2 = false ∧ f.slotClaimed c.1 c.2 = false) ∧
      (∀ k : RegKey, other k → f.reg k = s.reg k) ∧
      ∃ e : Job, f.job? j.jid = some e ∧ e.phase = .done ∧ e.status = st ∧ e.detail = d) ∧
  (∀ (s : State) (jid n : Nat) (j : Job) (c : Nat × Nat), s.job? jid = some j → j.phase = .waiting ∨ j.phase = .drainWait → j.waitOn = some c →
    (s.missing j = some c → exec (.slotWaitEnd ⟨jid, n⟩) s = .next s) ∧
    (s.missing j ≠ some c →
      let v := s.stall (basinOf j.unit) n
      (j.phase = .drainWait → exec (.slotWaitEnd ⟨jid, n⟩) s = .next (v.tryDrain j)) ∧
      (j.phase = .waiting → s.awaitsBlock j = true →
        let closing := j.d.usesGroup = true ∧ s.accBusy { j with bm := (s.bounds j).1 } = true
        (closing → exec (.slotWaitEnd ⟨jid, n⟩) s = .next s) ∧ (¬ closing → exec (.slotWaitEnd ⟨jid, n⟩) s = .next (v.issueBlock j (opOf v j.d)))) ∧
      (j.phase = .waiting → s.awaitsBlock j = false →
        let o := opOf v j.d
        let rd := v.readSlots j o
        (∀ (u : State) (i : Job) (x : Nat × Nat), v.takeTokens j rd (v.slotsOf (o.writes j)) = (u, i, some x) →
          exec (.slotWaitEnd ⟨jid, n⟩) s = .next (u.waitToken i .waiting (some x))) ∧
        (∀ (u : State) (i : Job), v.takeTokens j rd (v.slotsOf (o.writes j)) = (u, i, none) →
          let r : Job := { i with reads := rd, phase := .waiting, waitOn := none }
          exec (.slotWaitEnd ⟨jid, n⟩) s = .next (o.run (u.putJob r) r))) ∧
      exec (.slotTimeout jid) s = .next s) ∧
    (s.missing j = some c →
      let e := min (max (if j.cls = 0 then s.fld (rk .BS_SLOT_WDOG (s.physB c.1)) 8 5 else s.fld (rk .BS_SLOT_WDOG (s.physB c.1)) 0 5) 10) 24
      (s.tk - j.waitFrom < 20 * 2 ^ e → exec (.slotTimeout jid) s = .next s) ∧
      (20 * 2 ^ e ≤ s.tk - j.waitFrom → ∃ (t : State) (i : Job), exec (.slotTimeout jid) s = .next t ∧
        t.job? jid = some i ∧ i.phase = .done ∧ i.status = 0x42 ∧ i.claimed = [] ∧
        (j.claimed = [] → t.reg (rk .BS_SLOT_TIMEOUTS (s.physB c.1)) = (s.bump (rk .BS_SLOT_TIMEOUTS (s.physB c.1))).reg (rk .BS_SLOT_TIMEOUTS (s.physB c.1)) ∧
          ∀ k : RegKey, k ≠ rk .BS_SLOT_TIMEOUTS (s.physB c.1) → k.name ≠ .JT_STATUS → k.name ≠ .SE_STATUS → t.reg k = s.reg k)))) ∧
  (∀ (s : State) (jid n : Nat), (∀ j : Job, s.job? jid = some j → j.phase ≠ .waiting ∧ j.phase ≠ .drainWait) →
    exec (.slotWaitEnd ⟨jid, n⟩) s = .next s ∧ exec (.slotTimeout jid) s = .next s)

/-- A BARRIER whose ring's earlier descriptors have not all completed does not issue; one for another member goes there, or ends with LINK_ERROR. An arrival opens a round of its id with its own P, or joins it; the P-th completes every arrival of the
round with SUCCESS in that step and closes it. With 1,024 rounds open an arrival waits. A timeout that has run ends its arrival with BARRIER_TIMEOUT and takes it from the round; before that it changes nothing. -/
def Obligations.BarriersGatherTheirRounds : Prop :=
  (∀ (s : State) (jid : Nat) (j : Job), s.job? jid = some j → j.d.opcode = opBarrier → s.issueDue j = true →
    (s.fenced j = false → exec (.barrier jid) s = .next s) ∧
    (s.fenced j = true → s.isHere (j.d.target / 2 ^ 16) = false → s.reachable (j.d.target / 2 ^ 16) = true →
      exec (.barrier jid) s = .next ((s.putJob { j with phase := .away, member := some (j.d.target / 2 ^ 16) }).linkDescriptor j (j.d.target / 2 ^ 16))) ∧
    (s.fenced j = true → s.isHere (j.d.target / 2 ^ 16) = false → s.reachable (j.d.target / 2 ^ 16) = false →
      exec (.barrier jid) s = .next (s.endJob j 0x45 0))) ∧
  (∀ (s : State) (jid : Nat) (j : Job), s.job? jid = some j → j.phase = .barrierSent →
    let arrived := s.putJob { j with phase := .barrierArrived, waitFrom := s.tk }
    (Tab.find? s.rounds j.barrierId = none → s.rounds.length < 1024 → 2 ≤ j.bn →
      exec (.barrierArrival jid) s = .next { arrived with rounds := Tab.put s.rounds j.barrierId ⟨j.bn, [jid]⟩ }) ∧
    (Tab.find? s.rounds j.barrierId = none → 1024 ≤ s.rounds.length → exec (.barrierArrival jid) s = .next arrived) ∧
    (∀ r : Round, Tab.find? s.rounds j.barrierId = some r →
      (r.arrivals.length + 1 < r.p →
        exec (.barrierArrival jid) s = .next { arrived with rounds := Tab.put s.rounds j.barrierId { r with arrivals := r.arrivals ++ [jid] } }) ∧
      (r.p ≤ r.arrivals.length + 1 → ∃ t : State, exec (.barrierArrival jid) s = .next t ∧ Tab.find? t.rounds j.barrierId = none ∧
        (∀ i, i ≠ j.barrierId → Tab.find? t.rounds i = Tab.find? s.rounds i) ∧
        ∀ k ∈ jid :: r.arrivals, (s.job? k).isSome = true → ∃ e : Job, t.job? k = some e ∧ e.phase = .done ∧ e.status = 0))) ∧
  (∀ (s : State) (jid : Nat) (j : Job), s.job? jid = some j → j.phase = .barrierArrived →
    (j.bk = 0 ∨ s.tk - j.waitFrom < 33000 * j.bk → exec (.barrierTimeout jid) s = .next s) ∧
    (j.bk ≠ 0 → 33000 * j.bk ≤ s.tk - j.waitFrom → ∃ (t : State) (e : Job), exec (.barrierTimeout jid) s = .next t ∧
      t.job? jid = some e ∧ e.phase = .done ∧ e.status = 0x47 ∧
      ∀ r : Round, Tab.find? s.rounds j.barrierId = some r →
        Tab.find? t.rounds j.barrierId = some { r with arrivals := r.arrivals.filter (· ≠ jid) }))

/-! ### Jets -/

namespace Sys2Proof.Machine

/-- The bit errors and the basin stalls of a load arise. -/
def State.arise (s : State) (q : Nat) (errs : List (Nat × Bool)) (stalls : Nat) : State := (s.upset q errs).stall q stalls

/-- A jet's plane sets and the group's entries stay as they are but for the plane sets of the jets `xs`. -/
def State.sameBut (s t : State) (xs : List Nat) : Prop :=
  (∀ y, y ∉ xs → t.setsOf y = s.setsOf y) ∧ t.acc = s.acc ∧ t.grp = s.grp ∧ t.jobs = s.jobs ∧ t.rings = s.rings

/-- A PREEMPTION is due: the group is reserved, and the descriptor has issued and not run yet. -/
def State.preemptDue (s : State) (j : Job) : Prop :=
  j.reserved = true ∧ j.issued.isSome = true ∧ j.phase = .draining ∧ j.tile = 0 ∧
    ∀ x ∈ j.jets, ∀ z : LoadedTile, (s.setsOf x).active = some z → z.load.jid ≠ j.jid

/-- Do the jets of a preemption's basin run in lock-step? -/
def State.lockCut (s : State) (j : Job) : Bool := (lockJets (j.jets.headD 0)).any fun x => (s.setsOf x).active.any fun t => t.load.lock && (s.bulkOn x).isSome

/-- The jets that a preemption takes. -/
def State.cutJets (s : State) (j : Job) : List Nat := if s.lockCut j then lockJets (j.jets.headD 0) else j.jets

/-- Once what is due on its unit is taken up, the next weight tile goes into an empty shadow set, or the next span into an engine's shadow store, in its turn, unless a read that cannot be corrected ends its descriptor. A swap
moves the shadow tile into the active set and forms its sums, for a lock-step tile on every jet of the basin at once or not at all; the shadow span of an engine moves to its active store and runs. A halted jet does not swap. That a load first takes up
what is due, and where a tile's rows count, is the model's reading (log 33). -/
def TilesLoadAndSwap : Prop :=
  (∀ (x n : Nat) (errs : List (Nat × Bool)) (s : State), x < 595 →
    let t := s.feed x 64
    ((t.setsOf x).shadow.isSome = true ∨ (t.setsOf x).loads = [] → exec (.weightTileLoaded x errs n) s = .next t) ∧
    (∀ (l : TileLoad) (r : List TileLoad), (t.setsOf x).shadow = none → (t.setsOf x).loads = l :: r → t.loadTurn x l = false →
      exec (.weightTileLoaded x errs n) s = .next t) ∧
    (∀ l : TileLoad, l.lock = false → t.loadTurn x l = true) ∧
    (∀ (l : TileLoad) (r : List TileLoad) (j : Job), (t.setsOf x).shadow = none → (t.setsOf x).loads = l :: r → t.loadTurn x l = true → t.job? l.jid = some j →
      let a := t.arise (jetBasin x) errs n
      let ps := a.opSpansOn j.who (j.tileSrc l).op l.col0 l.cols l.ks
      (∀ v : State, a.readSpans j.who ps (x % 4) = (v, none) → ∃ u : State, exec (.weightTileLoaded x errs n) s = .next u ∧
        u.setsOf x = { t.setsOf x with shadow := some (v.loadedTile j x l), loads := r } ∧ t.sameBut u [x]) ∧
      (∀ (v : State) (e : Err), a.readSpans j.who ps (x % 4) = (v, some e) → ∃ (u : State) (k : Job),
        exec (.weightTileLoaded x errs n) s = .next u ∧ u.job? j.jid = some k ∧ k.phase = .done ∧ k.status = e.1 ∧ k.detail = e.2 ∧
        ∀ y, ∀ z ∈ (u.setsOf y).loads, z.jid ≠ j.jid))) ∧
  (∀ (e n : Nat) (errs : List (Nat × Bool)) (s : State),
    let t := (s.feed (2 * e) 64).feed (2 * e + 1) 64
    ((∀ sp : EngSpan, (t.storesOf e).shadow = some sp → sp.loaded = true) → exec (.weightTileLoaded (595 + e) errs n) s = .next t) ∧
    (∀ (sp : EngSpan) (l : TileLoad) (r : List TileLoad) (j : Job), (t.storesOf e).shadow = some sp → sp.loaded = false → sp.tiles = l :: r →
      t.job? l.jid = some j →
      let a := t.arise (e / 2) errs n
      ∀ v : State, a.readSpans j.who (a.opSpansOn j.who j.serialOp l.col0 l.cols (ksOf sp.tiles)) (4 + e % 2) = (v, none) →
        exec (.weightTileLoaded (595 + e) errs n) s =
          .next ((v.putStores e { t.storesOf e with shadow := some (v.loadSpan j sp) }).feed sp.jet 64))) ∧
  (∀ (x : Nat) (wt : SwapWait) (s : State), x < 595 →
    ((s.setsOf x).shadow = none → exec (.swap x wt) s = .next s) ∧
    (∀ z : LoadedTile, (s.setsOf x).shadow = some z →
      let xs := if z.load.lock = true then lockJets x else [x]
      let due := s.jetTurn x z.load = true ∧ xs.all (s.lockReady z.load) = true
      let takes (y : Nat) : Option LoadedTile := (s.setsOf y).shadow.filter fun t => t.load.same z.load
      ((∃ y ∈ xs, s.halted y = true) → ¬ due) ∧ (¬ due → exec (.swap x wt) s = .next s) ∧
      (due → ∃ u : State, exec (.swap x wt) s = .next (((xs.foldl (fun s y => s.feed y 64) u).afterSwap z.load.jid).afterDot z.load.jid) ∧
        ((∀ y ∈ xs, ∀ w, takes y = some w → w.load.ran.isSome = true) → s.sameBut u xs ∧
          ∀ y ∈ xs,
            (takes y = none → u.setsOf y = { s.setsOf y with active := none }) ∧
            (∀ w, takes y = some w → ∃ b c : Nat,
              u.setsOf y = { s.setsOf y with active := some { w with tB := b, chunk := c }, shadow := none })) ∧
        (∀ j : Job, z.load.lock = false → z.load.ran = none → s.job? z.load.jid = some j → ∃ v : State, s.sameBut v [x] ∧ v.accErr = (s.accErr ++ wt.upsets).eraseDups ∧
          (∃ b c : Nat, v.setsOf x = { s.setsOf x with active := some { z with tB := b, chunk := c }, shadow := none }) ∧
          ∀ w : State, v.formSums j x z = (w, none) → u = w)))) ∧
  (∀ (e : Nat) (wt : SwapWait) (s : State),
    ((s.storesOf e).shadow = none → exec (.swap (595 + e) wt) s = .next s) ∧
    (∀ sp : EngSpan, (s.storesOf e).shadow = some sp →
      (s.engineTurn sp = false → exec (.swap (595 + e) wt) s = .next s) ∧
      (∀ (l : TileLoad) (r : List TileLoad) (j : Job), s.engineTurn sp = true → sp.tiles = l :: r → s.job? l.jid = some j →
        let a := ((s.stall (e / 2) wt.stalls).upsetAcc wt.upsets).endSpan e
        let v := a.putStores e { a.storesOf e with active := some sp, shadow := none }
        (v.storesOf e).active = some sp ∧ s.sameBut v [] ∧
        ∀ w : State, v.addSpan j e sp = (w, none) → exec (.swap (595 + e) wt) s = .next ((w.feed sp.jet 64).afterSwap j.jid))))

/-- A MATMUL that drains nothing is done once its last weight tile has swapped in. The drain of an open output tile is due once every weight tile of it has run on jets that are not halted; it waits for the slot it writes, or closes the tile's groups and, after the last tile, completes the descriptor; an error of it
ends the descriptor. A radio-class descriptor with a reserved group puts the interrupted tile, the shadow tile and the tiles still to load of the non-radio work on its jets back, in that order, and marks their
descriptors. When a drain, and a wait's end, take up what is due is the model's reading (log 33). -/
def DrainsAndPreempts : Prop :=
  (∀ (s : State) (jid : Nat) (j : Job), s.job? jid = some j → j.phase = .draining → j.d.opcode = opMatmul →
    (j.d.accEnd = false → s.loading jid j.tile = false → ∃ e : Job, (s.afterSwap jid).job? jid = some e ∧ e.phase = .done ∧ e.status = 0) ∧
    (j.d.accEnd = true ∨ s.loading jid j.tile = true → s.afterSwap jid = s)) ∧
  (∀ (s : State) (jid n : Nat) (us : List Nat) (j : Job), s.job? jid = some j →
    let m := (s.stall (basinOf j.unit) n).upsetAcc us
    (j.d.opcode ≠ opMatmul →
      (s.drainDue j = false → exec (.groupDrain ⟨jid, n, us⟩) s = .next s) ∧
      (s.drainDue j = true →
        (j.d.opcode = opCheck → exec (.groupDrain ⟨jid, n, us⟩) s = .next (m.nodeStep j)) ∧
        (j.d.opcode = opFused → exec (.groupDrain ⟨jid, n, us⟩) s = .next (m.fusedStep j)) ∧
        (j.d.opcode = opForecast → exec (.groupDrain ⟨jid, n, us⟩) s = .next (m.forecastStep j)) ∧
        (j.d.opcode = opHaze → exec (.groupDrain ⟨jid, n, us⟩) s = .next (m.hazeStep j)))) ∧
    (j.d.opcode = opMatmul → j.phase = .draining → ∀ k : Job, (s.feedAll j).job? jid = some k → k.d.opcode = opMatmul →
      let t := s.feedAll j
      (t.drainDue k = false → exec (.groupDrain ⟨jid, n, us⟩) s = .next t) ∧
      (t.drainDue k = true →
        (k.d.accEnd = true ∧ (∃ q ∈ k.openTiles, t.dueTile k = some q ∧ t.loading k.jid q = false) ∧ ∀ x ∈ k.jets, t.halted x = false) ∧
        let u := (t.stall (basinOf k.unit) n).upsetAcc us
        (∀ (v : State) (i : Job) (c : Nat × Nat), u.takeTokens k [] (u.slotsOf k.tensorWrites) = (v, i, some c) →
          exec (.groupDrain ⟨jid, n, us⟩) s = .next (v.waitToken i .drainWait (some c))) ∧
        (∀ (v : State) (i : Job), u.takeTokens k [] (u.slotsOf k.tensorWrites) = (v, i, none) →
          exec (.groupDrain ⟨jid, n, us⟩) s = .next (v.drainStep { i with phase := .draining, waitOn := none }))))) ∧
  (∀ (s : State) (j : Job) (q : Nat), (s.dueTile j).getD j.tile = q →
    let t := s.drainRect j q
    let ps := j.parts q t.2.2.1 t.2.2.2
    let u := ps.foldl (fun s p => (s.retireOf p.jet j.jid q).spanOver p.jet) s
    ∀ (v : State) (k : Job) (e : Option Err),
      u.drainParts j j.d.accGroup ps (j.d.shape = 2 && decide (ps.length = 4)) (u.closePlan j) t false = (v, k, e) →
      (∀ x : Err, e = some x → ∃ b : Job, (s.drainStep j).job? k.jid = some b ∧ b.phase = .done ∧ b.status = x.1 ∧ b.detail = x.2) ∧
      (e = none → (k.drainedTile q).tile < k.tileCount → ∃ b : Job, (s.drainStep j).job? k.jid = some b ∧ b.phase ≠ .done) ∧
      (e = none → k.tileCount ≤ (k.drainedTile q).tile → ∃ b : Job, (s.drainStep j).job? k.jid = some b ∧ b.phase = .done ∧ b.status = 0 ∧
        ∀ p ∈ ps, (s.drainStep j).group? p.jet k.d.accGroup = none)) ∧
  (∀ (j : Job) (q : Nat),
    (q ≠ j.tile → j.drainedTile q = { j with drained := q :: j.drained }) ∧
    (q + 1 ∉ j.drained → (j.drainedTile j.tile).tile = j.tile + 1) ∧
    (j.drained = [] → (j.drainedTile j.tile).tile = j.tile + 1)) ∧
  (∀ (jid n : Nat) (done : List Nat) (s : State) (j : Job), s.job? jid = some j →
    (¬ s.preemptDue j → exec (.preemption jid ⟨n, done⟩) s = .next s) ∧
    (s.preemptDue j → ∃ t : State, exec (.preemption jid ⟨n, done⟩) s = .next t ∧ (∀ x ∈ s.cutJets j, ∀ z, (t.setsOf x).active = some z → s.isRadio z.load.jid = true) ∧
      (∀ x ∈ s.cutJets j, ∀ m, s.bulkOn x = some m → ∀ e ∈ t.jobs, e.jid = m → bitOf e.flags flPreempted = true) ∧
      t.fld (rk .TR_PREEMPT_LAT (s.physT (basinOf j.unit / 4)) (basinOf j.unit % 4)) 0 16 =
        min (max (s.fld (rk .TR_PREEMPT_LAT (s.physT (basinOf j.unit / 4)) (basinOf j.unit % 4)) 0 16) n) 65535 ∧
      t.acc = s.acc)) ∧
  (∀ (s : State) (x n : Nat) (z : LoadedTile), (s.setsOf x).active = some z → s.isRadio z.load.jid = false →
    (z.boundary n).1 < z.load.rows → ∃ sh : List TileLoad,
      (s.preemptJet x n).setsOf x = { s.setsOf x with
        active := none
        shadow := (s.setsOf x).shadow.filter fun t => s.isRadio t.load.jid
        loads := (s.setsOf x).loads.filter fun l => s.isRadio l.jid
        paused := { z.load with ran := some ((z.boundary n).1, z.chunk) } :: sh ++ ((s.setsOf x).loads.filter fun l => !s.isRadio l.jid) ++ (s.setsOf x).paused } ∧
      ((s.setsOf x).shadow = none → sh = []) ∧
      (∀ w : LoadedTile, (s.setsOf x).shadow = some w → sh = if s.isRadio w.load.jid = true then [] else [w.load]))

end Sys2Proof.Machine

/-- Once what is due on its unit is taken up, the next weight tile goes into an empty shadow set, or the next span into an engine's shadow store, unless a read that cannot be corrected ends its descriptor. A swap moves the shadow tile into the active set, for a lock-step tile on every jet of the basin at
once or not at all, and a span of an engine likewise; a halted jet does not swap. A drain that is due waits for its slot or closes the groups of the output tile and, after the last, completes the descriptor. A radio-class descriptor with a reserved group puts the non-radio tiles of its jets back and marks
their descriptors. That an event first takes up what is due on its unit, and that the last swap ends a descriptor without a drain, is the model's reading (log 33). -/
def Obligations.WeightTilesLoadSwapAndYield : Prop := TilesLoadAndSwap ∧ DrainsAndPreempts

/-! ### Weir -/

namespace Sys2Proof.Machine

/-- EMAX of R210 by weir_fmt; 0 for a format that it does not list. -/
def emaxOf (f : Nat) : Int := if f = 1 ∨ f = 3 then 2 else if f = 2 then 4 else if f = 4 then 8 else if f = 5 then 15 else 0

end Sys2Proof.Machine

/-- A write of WR_STEP takes step_amax and step_sat of its slots at once, and both begin again, every other slot staying as it is; it runs or waits behind those before it, and sets overrun where sixteen wait. A close that ends gives each slot it cut its new history and scale byte under R210, and the next
one runs. A write of WR_SLOT_SCALE.x takes effect at once, or after a close in progress that covers the slot. -/
def Obligations.StepsCloseInTheOrderWritten : Prop :=
  (∀ (v : BitVec 32) (s : State),
    let first := bitsOf v.toNat 0 12
    let last := min (first + bitsOf v.toNat 12 12) 4095
    (17 ≤ s.weirQ.length → exec (.closeStep v) s = .next (s.setFld (rk .WR_STATUS) 1 1 1)) ∧
    (s.weirQ.length < 17 → ∃ t : State, exec (.closeStep v) s = .next t ∧ t.weirQ = s.weirQ ++ [s.weirCut first last] ∧
      t.bit (rk .WR_STATUS) 0 = true ∧ t.fld (rk .WR_STATUS) 2 5 = s.weirQ.length ∧
      (∀ n, first ≤ n → n ≤ last → t.slotMon n = { s.slotMon n with stepAmax := 0 } ∧ t.bit (rk .WR_SLOT_SCALE 0 n) 15 = false ∧
        t.fld (rk .WR_SLOT_SCALE 0 n) 0 15 = s.fld (rk .WR_SLOT_SCALE 0 n) 0 15) ∧
      ((s.mon.map Prod.fst).Nodup → ∀ (n amax : Nat) (sat : Bool), (n, amax, sat) ∈ (s.weirCut first last).cut ↔
        first ≤ n ∧ n ≤ last ∧ amax ≠ 0 ∧ amax = (s.slotMon n).stepAmax ∧ sat = s.bit (rk .WR_SLOT_SCALE 0 n) 15) ∧
      (∀ n, n < first ∨ last < n → t.slotMon n = s.slotMon n ∧ t.reg (rk .WR_SLOT_SCALE 0 n) = s.reg (rk .WR_SLOT_SCALE 0 n)))) ∧
  (∀ s : State, s.weirQ = [] → exec .stepCloseEnd s = .next s) ∧
  (∀ (s : State) (c : WeirClose) (r : List WeirClose), s.weirQ = c :: r → (c.cut.map fun x : Nat × Nat × Bool => x.1).Nodup →
    ∃ t : State, exec .stepCloseEnd s = .next t ∧ t.weirQ = r ∧ t.bit (rk .WR_STATUS) 0 = !r.isEmpty ∧
      (∀ (n amax : Nat) (sat : Bool), (n, amax, sat) ∈ c.cut → (∀ x ∈ c.sets, x.1 ≠ n) →
        let e8 := (max 0 (min 255 ((ofFp32 amax).log2 + 127))).toNat
        let H := s.fld (rk .WR_SLOT_CFG 0 n) 0 6 + 1
        let old := (s.slotMon n).hist
        let new := if sat = true then [e8] else (old ++ [e8]).drop (old.length + 1 - H)
        let f := s.fld (rk .WR_SLOT_CFG 0 n) 9 3
        let xh := (max 0 (min 254 (((new.foldl max 0 + s.fld (rk .WR_SLOT_CFG 0 n) 6 3 : Nat) : Int) - emaxOf f))).toNat
        let x := s.fld (rk .WR_SLOT_SCALE 0 n) 0 8
        (t.slotMon n).hist = new ∧
          t.fld (rk .WR_SLOT_SCALE 0 n) 0 8 = if 1 ≤ f ∧ f ≤ 6 then (if sat = true then min (max (x + 1) xh) 254 else xh) else x) ∧
      (∀ n, (∀ x ∈ c.cut, x.1 ≠ n) → t.slotMon n = s.slotMon n)) ∧
  (∀ (off : Nat) (v : BitVec 64) (s : State) (k : RegKey), regAt 0 off = some k → k.name = .WR_SLOT_SCALE →
    ((∀ c ∈ s.weirQ.head?, ¬ (c.first ≤ k.idx ∧ k.idx ≤ c.last)) →
      exec (.registerWrite 0 off 4 v) s = .next (s.setFld (rk .WR_SLOT_SCALE 0 k.idx) 0 8 (v.toNat % 256))) ∧
    (∀ (c : WeirClose) (r : List WeirClose), s.weirQ = c :: r → c.first ≤ k.idx → k.idx ≤ c.last →
      exec (.registerWrite 0 off 4 v) s = .next { s with weirQ := { c with sets := c.sets ++ [(k.idx, v.toNat % 256)] } :: r }))

/-! ### Faults and tests of units -/

namespace Sys2Proof.Machine

/-- The reserve jet of a logical jet's terrace can take its place (R447). -/
def State.reserveFree (s : State) (x : Nat) : Prop :=
  s.physJ x ≠ 17 * s.physT (jetTerrace x) + 16 ∧ Tab.find? s.jmap (17 * s.physT (jetTerrace x) + 16) = none ∧
    ∀ e ∈ s.jmap, e.2 ≠ 17 * s.physT (jetTerrace x) + 16

/-- What an event that spares a jet leaves: the reserve jet in its place, or its terrace not ready. -/
def State.sparesJet (s t : State) (x : Nat) : Prop :=
  (s.reserveFree x → Tab.find? t.jmap (s.physJ x) = some (17 * s.physT (jetTerrace x) + 16)) ∧
    (¬ s.reserveFree x → t.own (128 + jetTerrace x) = false)

end Sys2Proof.Machine

/-- A residue mismatch on a running jet is counted: its column becomes suspect, or, for radio work, with no suspect time or once suspect within it, moves to the next spare column, and with none left the jet is spared. An uncorrectable accumulator entry or a progress fault spares the jet, by its
reserve jet or with its terrace. A sparse engine's fault, a residue mismatch in a column of one that runs a span among them, takes it out of service. Faults of a basin or a terrace take the terrace out. A failover's end puts the reserve in the terrace's place and makes it ready. A unit that is not ready has no fault. -/
def Obligations.FaultsSpareTheUnit : Prop :=
  (∀ (x col : Nat) (s : State), x < 595 → s.jetRuns x = none → exec (.residueMismatch x col) s = .next s) ∧
  (∀ (e col : Nat) (s : State),
    ((s.storesOf e).active = none → exec (.residueMismatch (0x800 + e) col) s = .next s) ∧
    ((s.storesOf e).active.isSome = true → s.terraceReady (e / 8) = true → s.engineUp e = true → ∃ t : State,
      exec (.residueMismatch (0x800 + e) col) s = .next t ∧ t.emap = s.emap ++ [s.physE e] ∧
      t.reg (rk .SP_RESIDUE_ERRORS) = (s.bump (rk .SP_RESIDUE_ERRORS)).reg (rk .SP_RESIDUE_ERRORS))) ∧
  (∀ (x col : Nat) (s : State) (j : Job), x < 595 → s.jetRuns x = some j →
    let key := 256 * s.physJ x + col
    let h := s.fld (rk .SP_CFG) 0 16
    let again := ∃ p, Tab.find? s.suspects key = some p ∧ s.life.poweredS - p ≤ 3600 * h
    let n := Tab.getD s.spareCols (s.physJ x) 0
    (j.cls ≠ 0 → h ≠ 0 → ¬ again → ∃ t : State, exec (.residueMismatch x col) s = .next t ∧ Tab.find? t.suspects key = some s.life.poweredS ∧
      t.spareCols = s.spareCols ∧ t.jmap = s.jmap) ∧
    (j.cls = 0 ∨ h = 0 ∨ again → ∃ t : State, exec (.residueMismatch x col) s = .next t ∧ Tab.find? t.suspects key = none ∧
      (n < 2 → Tab.getD t.spareCols (s.physJ x) 0 = n + 1 ∧ t.jmap = s.jmap) ∧ (2 ≤ n → s.sparesJet t x))) ∧
  (∀ (x : Nat) (s : State),
    (s.jetLive x = false → exec (.accumulatorEccError x) s = .next s) ∧
    (s.jetLive x = true → ∃ t : State, exec (.accumulatorEccError x) s = .next t ∧ s.sparesJet t x) ∧
    (x < 560 → s.jetLive x = true → ∃ t : State, exec (.progressFault (0x400 + x)) s = .next t ∧ s.sparesJet t x) ∧
    (x < 560 → s.jetLive x = false → exec (.progressFault (0x400 + x)) s = .next s)) ∧
  (∀ (e : Nat) (s : State),
    (s.terraceReady (e / 8) = true → s.engineUp e = true → ∃ t : State, exec (.sparseEngineFault e) s = .next t ∧ t.emap = s.emap ++ [s.physE e]) ∧
    (s.terraceReady (e / 8) = false ∨ s.engineUp e = false → exec (.sparseEngineFault e) s = .next s) ∧
    (e < 280 → exec (.progressFault (0x800 + e)) s = exec (.sparseEngineFault e) s)) ∧
  (∀ (t : Nat) (s : State), t < 35 →
    (s.terraceReady t = true → ∃ u : State, exec (.progressFault (0x100 + t)) s = .next u ∧ u.own (128 + t) = false) ∧
    (s.terraceReady t = false → exec (.progressFault (0x100 + t)) s = .next s) ∧
    (∀ b < 4, s.basinReady (4 * t + b) = true → exec (.progressFault (0x200 + (4 * t + b))) s = exec (.progressFault (0x100 + t)) s)) ∧
  (∀ (t us : Nat) (s : State),
    (Tab.find? s.failing t = none ∨ Tab.find? s.failing t = some 0 → exec (.failoverDone t us) s = .next s) ∧
    (∀ r : Nat, t < 32 → 32 ≤ r → r < 35 → Tab.find? s.failing t = some r → ∃ u : State, exec (.failoverDone t us) s = .next u ∧
      u.physT t = s.physT r ∧ u.own (128 + t) = true ∧ Tab.find? u.failing t = none ∧
      u.life.terraces = min (s.life.terraces + 1) 255))

/-- UNIT_TEST runs on a ready terrace, basin or stack of this device with no work, which it resets and takes out of the ready state until its MAILBOX_COMPLETION: that answers pass, with the unit ready again, or the element that failed. Another unit, one not ready and one with work are refused. Which handles name stacks is left open (log 42). A patrol pass over a stack is counted, and corrects and writes back every codeword that can be corrected; a die that showed errors in more than 64 codewords of the patrol period is retired. A stack that is not ready, or has no patrol, is not read. -/
def Obligations.TestsAndPatrolsFindFaults : Prop :=
  ((∀ (mb : Nat) (f : Option Nat) (s : State), MailboxDue s (.unitTest mb f) →
    let h := s.pay mb 0 3
    (s.testUnit h = none → exec (.unitTest mb f) s = .next (s.mbAnswer mb 4 64 [])) ∧
    (∀ l : Nat, s.testUnit h = some l →
      (s.testReady l = false → exec (.unitTest mb f) s = .next (s.mbAnswer mb 0x11 0 [])) ∧
      (s.testReady l = true → s.unitBusy l = true → exec (.unitTest mb f) s = .next (s.mbAnswer mb 0x13 0 [])) ∧
      (s.testReady l = true → s.unitBusy l = false → ∃ t : State, exec (.unitTest mb f) s = .next t ∧
        Tab.find? t.mbRun mb = some (.unitTest l f) ∧ t.mbox = s.mbox ∧ t.testReady l = false))) ∧
  (∀ (mb l : Nat) (s : State), mb < 1000 →
    (s.mbRun = [(mb, .unitTest l none)] → exec (.mailboxCompletion mb) s = answersOk mb ({ s with mbRun := [] }.unitPassed l) (leBytes 8 0)) ∧
    (∀ x : Nat, s.mbRun = [(mb, .unitTest l (some x))] →
      exec (.mailboxCompletion mb) s = answersOk mb { s with mbRun := [] } (leBytes 4 1 ++ leBytes 4 x)))) ∧
  (∀ (st : Nat) (s : State),
    (∀ es, s.stackReady st = false ∨ s.fld (rk .DM_CFG st) 4 8 = 0 → exec (.dramPatrol st es) s = .next s) ∧
    (s.stackReady st = true → s.fld (rk .DM_CFG st) 4 8 ≠ 0 →
      let ws := s.dramErr.filter fun e : Nat × List (Nat × Nat) => e.1 / 2 ^ 34 = st
      let dies (d : Nat) := (ws.filter fun w : Nat × List (Nat × Nat) => w.2.any fun x => x.1 = d).length
      let fresh := ∀ d < 5, Tab.getD s.dieSeen (5 * st + d) [] = []
      (ws = [] → fresh → ∃ t : State, exec (.dramPatrol st []) s = .next t ∧ t.regs = (s.bump (rk .DM_SCRUB_PASSES st)).regs ∧ t.dev = s.dev ∧ t.allocs = s.allocs ∧ t.dramErr = s.dramErr) ∧
      (∀ a d n : Nat, ws = [] → fresh → s.diesOut st = 0 → a < 2 ^ 40 → d < 5 → 0 < n → n ≤ 8 → s.plainEvents → ∃ t : State,
        exec (.dramPatrol st [(a, d, n)]) s = .next t ∧ t.dramErr = s.dramErr ∧ t.allocs = s.allocs ∧
          t.reg (rk .DM_CORRECTED st) = (s.bump (rk .DM_CORRECTED st)).reg (rk .DM_CORRECTED st)) ∧
      ((∀ w ∈ ws, s.codewordOk st w.2 = true) → fresh → (∀ d < 5, dies d ≤ 64) → ∃ t : State, exec (.dramPatrol st []) s = .next t ∧
        (∀ w ∈ t.dramErr, w.1 / 2 ^ 34 ≠ st) ∧ (s.plainEvents → ∀ w ∈ s.dramErr, w.1 / 2 ^ 34 ≠ st → w ∈ t.dramErr)) ∧
      (∀ d < 5, (64 < dies d ∧ (ws.map Prod.fst).Nodup) ∨ 64 < (Tab.getD s.dieSeen (5 * st + d) []).length → ∃ t : State, exec (.dramPatrol st []) s = .next t ∧ t.bit (rk .DM_STATUS st) (3 + d) = true ∧
        (s.diesOut st = 0 → fresh → (∀ x < 5, x ≠ d → dies x ≤ 64) → s.life.map.length < 4095 →
          (∃ e ∈ t.life.map, e.kind = 5 ∧ e.unit = st ∧ e.loc = d) ∧ t.life.dies = min (s.life.dies + 1) 255 ∧ t.own (64 + st) = s.own (64 + st) ∧
          (s.plainEvents → ∃ e : LogEntry, t.dieLog.getLast? = some e ∧ e.code = 0x22 ∧ e.payload = payload [(24, 1, st), (25, 1, d)])))))

/-! ### The governor's credit -/

/-- Each b-cycle of a basin adds its terrace's effective share u to its credit, which is 0 at reset; at 256 or more it takes 256 away and the b-cycle runs, with the frame counter one on, unless the basin stalls in it, which holds the frame counter and is counted in
BS_SLIP_COUNT. Else the b-cycle is withheld: the frame counter holds, it is counted, and the descriptors that run on the basin are marked GOV_ACTIVE. That a stall due in a withheld b-cycle follows in the next that runs is the model's reading (log 33). Of n b-cycles at one share, those that ran and the credit make up n · u, and with the credit below 256 and a share of at most 256 it stays below 256. -/
def Obligations.IssueCreditSharesTheCycles : Prop :=
  (∀ q, Tab.getD State.reset.credit q 0 = 0) ∧
  (∀ (s : State) (q : Nat),
    let c := Tab.getD s.credit q 0 + s.share (q / 4)
    let k := rk .BS_FRAME (s.physB q)
    let t := s.basinCycle q
    let due := Tab.getD s.stallDue q 0
    (∀ p, p ≠ q → Tab.getD t.credit p 0 = Tab.getD s.credit p 0 ∧ Tab.getD t.stallDue p 0 = Tab.getD s.stallDue p 0) ∧
    (256 ≤ c → Tab.getD t.credit q 0 = c - 256 ∧ t.jobs = s.jobs ∧ t.reg (rk .PW_WITHHELD_CYCLES) = s.reg (rk .PW_WITHHELD_CYCLES) ∧
      (due = 0 → t.stallDue = s.stallDue ∧ t.fld k 0 5 = (s.fld k 0 5 + 1) % 32 ∧ t.bit k 5 = false ∧
        t.reg (rk .BS_SLIP_COUNT (s.physB q)) = s.reg (rk .BS_SLIP_COUNT (s.physB q))) ∧
      (due ≠ 0 → Tab.getD t.stallDue q 0 = due - 1 ∧ t.fld k 0 5 = s.fld k 0 5 ∧ t.bit k 5 = true ∧
        t.reg (rk .BS_SLIP_COUNT (s.physB q)) = (s.bump (rk .BS_SLIP_COUNT (s.physB q))).reg (rk .BS_SLIP_COUNT (s.physB q)))) ∧
    (c < 256 → Tab.getD t.credit q 0 = c ∧ t.stallDue = s.stallDue ∧ t.fld k 0 5 = s.fld k 0 5 ∧ t.bit k 5 = true ∧
      t.reg (rk .BS_SLIP_COUNT (s.physB q)) = s.reg (rk .BS_SLIP_COUNT (s.physB q)) ∧
      t.reg (rk .PW_WITHHELD_CYCLES) = (s.bump (rk .PW_WITHHELD_CYCLES)).reg (rk .PW_WITHHELD_CYCLES) ∧
      ∀ j ∈ s.jobs, j.issued.isSome = true → j.phase ≠ .done → 2 ≤ j.unit → basinOf j.unit = q →
        ∃ e ∈ t.jobs, e.jid = j.jid ∧ bitOf e.flags flGov = true)) ∧
  (∀ (n q : Nat) (s : State), Tab.getD s.credit q 0 < 256 → s.share (q / 4) ≤ 256 →
    let t := n.repeat (fun s : State => s.basinCycle q) s
    256 * ((Tab.getD s.credit q 0 + n * s.share (q / 4)) / 256) + Tab.getD t.credit q 0 = Tab.getD s.credit q 0 + n * s.share (q / 4) ∧
      Tab.getD t.credit q 0 < 256)

/-! ### Numbers -/

/-- FP32 encodings that are no NaN read and round back to themselves. Rounding is to the nearest integer, ties to even. An integer output is the rounded value, and one beyond the range the nearest end of it; a 1-bit one is the sign and never counts a saturation. -/
def Obligations.RoundingIsNearestEvenAndSaturates : Prop :=
  (∀ x : Nat, x < 2 ^ 32 → x % 2 ^ 31 ≤ 0x7F800000 → fp32 (ofFp32 x) = x) ∧
  (∀ n d : Nat, 0 < d → 2 * ((n : Int) - rne n d * d).natAbs ≤ d ∧ (2 * ((n : Int) - rne n d * d).natAbs = d → rne n d % 2 = 0)) ∧
  (∀ (neg : Bool) (n d : Nat), 0 < d →
    let v : Sys2Proof.Machine.Num := .fin neg n d
    v.round = (if neg = true then -(rne n d : Int) else rne n d) ∧
    (∀ w : Nat, 2 ≤ w →
      signed (Fmt.encElem (.int w) v false).code w = max (-2 ^ (w - 1)) (min (2 ^ (w - 1) - 1) v.round) ∧ (Fmt.encElem (.int w) v false).code < 2 ^ w) ∧
    (∀ w : Nat, ((Fmt.encElem (.uint w) v false).code : Int) = max 0 (min (2 ^ w - 1) v.round)) ∧
    (Fmt.encElem (.int 1) v false).code = (if neg = true ∧ 0 < n then 0 else 1) ∧ (Fmt.encElem (.int 1) v false).cnt ≠ .sat)
end

