-- ==== Sys2Proof/Laws/Memory.lean ====
section
/-! SUPPORT. Laws of the tables, memories and registers: what a read finds after a write, and that every memory operation
keeps the canonical form. -/

namespace Sys2Proof

/-! ### Bit fields of numbers -/

theorem testBit_bitsOf (x lo w i : Nat) : (bitsOf x lo w).testBit i = (decide (i < w) && x.testBit (lo + i)) := by
  unfold bitsOf
  rw [Nat.testBit_mod_two_pow, Nat.testBit_div_two_pow, Nat.add_comm]

theorem bitsOf_lt (x lo w : Nat) : bitsOf x lo w < 2 ^ w := Nat.mod_lt _ (by positivity)

/-- A number with the field `[lo + w - 1 : lo]` replaced, taken apart. -/
theorem replaced_eq (v lo w x : Nat) :
    v - bitsOf v lo w * 2 ^ lo + x % 2 ^ w * 2 ^ lo = 2 ^ (lo + w) * (v / 2 ^ (lo + w)) + (2 ^ lo * (x % 2 ^ w) + v % 2 ^ lo) := by
  have h1 := Nat.div_add_mod v (2 ^ lo)
  have h2 := Nat.div_add_mod (v / 2 ^ lo) (2 ^ w)
  rw [Nat.div_div_eq_div_mul, ← pow_add] at h2
  have h3 : v = 2 ^ (lo + w) * (v / 2 ^ (lo + w)) + bitsOf v lo w * 2 ^ lo + v % 2 ^ lo := by
    unfold bitsOf
    conv_lhs => rw [← h1, ← h2]
    rw [pow_add]; ring
  have h4 : v - bitsOf v lo w * 2 ^ lo = 2 ^ (lo + w) * (v / 2 ^ (lo + w)) + v % 2 ^ lo := by omega
  rw [h4]; ring

theorem replaced_lt (v lo w x n : Nat) (hv : v < 2 ^ n) (h : lo + w ≤ n) :
    2 ^ (lo + w) * (v / 2 ^ (lo + w)) + (2 ^ lo * (x % 2 ^ w) + v % 2 ^ lo) < 2 ^ n := by
  obtain ⟨d, rfl⟩ := Nat.exists_eq_add_of_le h
  have a : v / 2 ^ (lo + w) < 2 ^ d := by
    rw [Nat.div_lt_iff_lt_mul (by positivity), mul_comm, ← pow_add]; exact hv
  have b : 2 ^ lo * (x % 2 ^ w) + v % 2 ^ lo < 2 ^ (lo + w) := by
    have b1 : x % 2 ^ w < 2 ^ w := Nat.mod_lt _ (by positivity)
    have b2 : v % 2 ^ lo < 2 ^ lo := Nat.mod_lt _ (by positivity)
    calc _ < 2 ^ lo * (x % 2 ^ w) + 2 ^ lo := by omega
      _ = 2 ^ lo * (x % 2 ^ w + 1) := by ring
      _ ≤ 2 ^ lo * 2 ^ w := Nat.mul_le_mul_left _ b1
      _ = _ := (pow_add ..).symm
  calc _ < 2 ^ (lo + w) * (v / 2 ^ (lo + w)) + 2 ^ (lo + w) := by omega
    _ = 2 ^ (lo + w) * (v / 2 ^ (lo + w) + 1) := by ring
    _ ≤ 2 ^ (lo + w) * 2 ^ d := Nat.mul_le_mul_left _ a
    _ = _ := (pow_add ..).symm

end Sys2Proof

namespace Sys2Proof.Machine

/-! ### Tables -/

@[simp] theorem Tab.find?_put_same {α : Type} (t : Tab α) (k : Nat) (v : α) : Tab.find? (Tab.put t k v) k = some v := by
  induction t with
  | nil => simp [Tab.put, Tab.find?]
  | cons e r ih =>
    obtain ⟨x, y⟩ := e
    simp only [Tab.put]
    split
    · simp [Tab.find?]
    · split
      · simp [Tab.find?]
      · have : ¬ x = k := by omega
        simp [Tab.find?, this, ih]

theorem Tab.find?_put_other {α : Type} (t : Tab α) {k n : Nat} (v : α) (h : n ≠ k) :
    Tab.find? (Tab.put t k v) n = Tab.find? t n := by
  induction t with
  | nil => simp [Tab.put, Tab.find?, Ne.symm h]
  | cons e r ih =>
    obtain ⟨x, y⟩ := e
    simp only [Tab.put]
    split
    · simp [Tab.find?, Ne.symm h]
    · split
      · rename_i hx
        subst hx
        simp [Tab.find?, Ne.symm h]
      · simp only [Tab.find?, ih]

theorem Tab.find?_put {α : Type} (t : Tab α) (k n : Nat) (v : α) :
    Tab.find? (Tab.put t k v) n = if n = k then some v else Tab.find? t n := by
  by_cases h : n = k
  · simp [h]
  · simp [h, Tab.find?_put_other t v h]

@[simp] theorem Tab.find?_del_same {α : Type} (t : Tab α) (k : Nat) : Tab.find? (Tab.del t k) k = none := by
  induction t with
  | nil => rfl
  | cons e r ih =>
    obtain ⟨x, y⟩ := e
    by_cases h : x = k
    · subst h
      simpa [Tab.del] using ih
    · simpa [Tab.del, Tab.find?, h] using ih

theorem Tab.find?_del_other {α : Type} (t : Tab α) {k n : Nat} (h : n ≠ k) : Tab.find? (Tab.del t k) n = Tab.find? t n := by
  induction t with
  | nil => rfl
  | cons e r ih =>
    obtain ⟨x, y⟩ := e
    by_cases hx : x = k
    · subst hx
      simpa [Tab.del, Tab.find?, Ne.symm h] using ih
    · by_cases hn : x = n
      · subst hn
        simp [Tab.del, Tab.find?, hx]
      · simpa [Tab.del, Tab.find?, hx, hn] using ih

theorem Tab.mem_put {α : Type} {t : Tab α} {k : Nat} {v : α} {e : Nat × α} (h : e ∈ Tab.put t k v) : e ∈ t ∨ e = (k, v) := by
  induction t with
  | nil => simpa [Tab.put] using h
  | cons a r ih =>
    obtain ⟨x, y⟩ := a
    simp only [Tab.put] at h
    split at h
    · simp only [List.mem_cons] at h ⊢
      tauto
    · split at h
      · simp only [List.mem_cons] at h ⊢
        tauto
      · simp only [List.mem_cons] at h ⊢
        tauto

theorem Tab.mem_of_find? {α : Type} {t : Tab α} {k : Nat} {v : α} (h : Tab.find? t k = some v) : (k, v) ∈ t := by
  induction t with
  | nil => simp [Tab.find?] at h
  | cons a r ih =>
    obtain ⟨x, y⟩ := a
    simp only [Tab.find?] at h
    split at h
    · rename_i hx
      subst hx
      cases h
      simp
    · exact List.mem_cons_of_mem _ (ih h)

theorem Tab.mem_modify {α : Type} {t : Tab α} {k : Nat} {f : α → α} {e : Nat × α} (h : e ∈ Tab.modify t k f) :
    e ∈ t ∨ ∃ v, (k, v) ∈ t ∧ e = (k, f v) := by
  unfold Tab.modify at h
  split at h
  · rename_i v hv
    rcases Tab.mem_put h with h | h
    · exact .inl h
    · exact .inr ⟨v, Tab.mem_of_find? hv, h⟩
  · exact .inl h

/-! ### Memories -/

@[simp] theorem Mem.get_put_same (m : Mem) (a : Nat) (b : Byte) (h : Mem.wf m = true) : Mem.get (Mem.put m a b) a = b := by
  unfold Mem.wf at h
  suffices H : ∀ (m : Mem) lo, Mem.wfFrom lo m = true → Mem.get (Mem.put m a b) a = b from H m none h
  intro m
  have below : ∀ (r : Mem) (l : Nat), a ≤ l → Mem.wfFrom (some l) r = true → Mem.get r a = memDefault := by
    intro r
    induction r with
    | nil => intros; rfl
    | cons c r ih =>
      intro l hl hr
      obtain ⟨x, y⟩ := c
      simp only [Mem.wfFrom, Bool.and_eq_true, decide_eq_true_eq] at hr
      have : ¬ x = a := by omega
      simp only [Mem.get, this, if_false]
      exact ih x (by omega) hr.2
  induction m with
  | nil =>
    intro _ _
    by_cases hb : b = memDefault <;> simp [Mem.put, Mem.get, hb]
  | cons c r ih =>
    intro lo hm
    obtain ⟨x, y⟩ := c
    simp only [Mem.wfFrom, Bool.and_eq_true, decide_eq_true_eq] at hm
    simp only [Mem.put]
    split
    · rename_i hlt
      split
      · rename_i hb
        have : ¬ x = a := by omega
        simp only [Mem.get, this, if_false, hb]
        exact below r x (by omega) hm.2
      · simp [Mem.get]
    · split
      · rename_i _ hx
        split
        · rename_i hb
          rw [hb]
          exact below r x (by omega) hm.2
        · simp [Mem.get]
      · have : ¬ x = a := by omega
        simp only [Mem.get, this, if_false]
        exact ih _ hm.2

theorem Mem.get_put_other (m : Mem) {a n : Nat} (b : Byte) (h : n ≠ a) : Mem.get (Mem.put m a b) n = Mem.get m n := by
  induction m with
  | nil =>
    by_cases hb : b = memDefault <;> simp [Mem.put, Mem.get, hb, Ne.symm h]
  | cons c r ih =>
    obtain ⟨x, y⟩ := c
    simp only [Mem.put]
    split
    · split
      · rfl
      · simp [Mem.get, Ne.symm h]
    · split
      · rename_i hx
        subst hx
        split
        · simp [Mem.get, Ne.symm h]
        · simp [Mem.get, Ne.symm h]
      · simp only [Mem.get, ih]

/-- Raising the lower bound of a form is sound: from above `l` follows from above any smaller bound. -/
theorem Mem.wfFrom_mono {r : Mem} {l : Nat} {lo : Option Nat} (h : Mem.wfFrom (some l) r = true) (hlo : ∀ x, lo = some x → x ≤ l) :
    Mem.wfFrom lo r = true := by
  cases r with
  | nil => rfl
  | cons c r =>
    obtain ⟨x, y⟩ := c
    simp only [Mem.wfFrom, Bool.and_eq_true, decide_eq_true_eq] at h ⊢
    refine ⟨⟨?_, h.1.2⟩, h.2⟩
    cases lo with
    | none => rfl
    | some z => simp only [decide_eq_true_eq]; have := hlo z rfl; omega

/-- An address is above the bound of a form. -/
theorem Mem.above_iff (lo : Option Nat) (a : Nat) :
    (match lo with | none => true | some l => decide (l < a)) = true ↔ ∀ x, lo = some x → x < a := by
  cases lo <;> simp

theorem Mem.wfFrom_put (m : Mem) (a : Nat) (b : Byte) (lo : Option Nat) (h : Mem.wfFrom lo m = true)
    (ha : ∀ x, lo = some x → x < a) : Mem.wfFrom lo (Mem.put m a b) = true := by
  induction m generalizing lo with
  | nil =>
    by_cases hb : b = memDefault
    · simp [Mem.put, Mem.wfFrom, hb]
    · simp only [Mem.put, hb, if_false, Mem.wfFrom, Bool.and_eq_true, decide_eq_true_eq]
      exact ⟨⟨(Mem.above_iff lo a).2 ha, hb⟩, trivial⟩
  | cons c r ih =>
    obtain ⟨x, y⟩ := c
    have top := (Mem.above_iff lo a).2 ha
    have h0 := h
    simp only [Mem.wfFrom, Bool.and_eq_true, decide_eq_true_eq] at h
    simp only [Mem.put]
    split
    · rename_i hlt
      split
      · exact h0
      · rename_i hb
        simp only [Mem.wfFrom, Bool.and_eq_true, decide_eq_true_eq]
        exact ⟨⟨top, hb⟩, ⟨hlt, h.1.2⟩, h.2⟩
    · split
      · rename_i _ hx
        split
        · exact Mem.wfFrom_mono h.2 fun z hz => by have := ha z hz; omega
        · rename_i hb
          simp only [Mem.wfFrom, Bool.and_eq_true, decide_eq_true_eq]
          exact ⟨⟨top, hb⟩, hx ▸ h.2⟩
      · rename_i h1 h2
        have hxa : x < a := by omega
        simp only [Mem.wfFrom, Bool.and_eq_true, decide_eq_true_eq]
        refine ⟨h.1, ih (some x) h.2 fun z hz => ?_⟩
        cases hz
        exact hxa

/-- A byte stored keeps the canonical form. -/
@[simp] theorem Mem.wf_put (m : Mem) (a : Nat) (b : Byte) (h : Mem.wf m = true) : Mem.wf (Mem.put m a b) = true :=
  Mem.wfFrom_put m a b none h (by simp)

/-- Bytes stored keep the canonical form. -/
@[simp] theorem Mem.wf_write (bs : List Byte) (m : Mem) (a : Nat) (h : Mem.wf m = true) : Mem.wf (Mem.write m a bs) = true := by
  induction bs generalizing m a with
  | nil => exact h
  | cons b r ih => exact ih _ _ (Mem.wf_put m a b h)

/-- Scattered bytes stored keep the canonical form. -/
@[simp] theorem Mem.wf_puts (cs : List Host.Cell) (m : Mem) (h : Mem.wf m = true) : Mem.wf (Mem.puts m cs) = true := by
  induction cs generalizing m with
  | nil => exact h
  | cons c r ih => exact ih _ (Mem.wf_put m c.1 c.2 h)

/-- Bytes taken off the list keep the canonical form. -/
theorem Mem.wf_filter (p : Host.Cell → Bool) (m : Mem) (h : Mem.wf m = true) : Mem.wf (m.filter p) = true := by
  suffices H : ∀ (m : Mem) lo, Mem.wfFrom lo m = true → Mem.wfFrom lo (m.filter p) = true from H m none h
  intro m
  induction m with
  | nil => intros; rfl
  | cons c r ih =>
    intro lo hm
    obtain ⟨x, y⟩ := c
    simp only [Mem.wfFrom, Bool.and_eq_true, decide_eq_true_eq] at hm
    simp only [List.filter]
    split
    · simp only [Mem.wfFrom, Bool.and_eq_true, decide_eq_true_eq]
      exact ⟨hm.1, ih _ hm.2⟩
    · refine Mem.wfFrom_mono (l := x) (ih _ hm.2) fun z hz => ?_
      subst hz
      have := hm.1.1
      simp at this
      omega

/-- Bytes erased keep the canonical form. -/
@[simp] theorem Mem.wf_erase (m : Mem) (a n : Nat) (h : Mem.wf m = true) : Mem.wf (Mem.erase m a n) = true :=
  Mem.wf_filter _ m h

/-- A byte outside a store reads as before. -/
theorem Mem.get_write_outside (bs : List Byte) (m : Mem) (a n : Nat) (h : n < a ∨ a + bs.length ≤ n) :
    Mem.get (Mem.write m a bs) n = Mem.get m n := by
  induction bs generalizing m a with
  | nil => rfl
  | cons b r ih =>
    simp only [List.length_cons] at h
    simp only [Mem.write]
    rw [ih _ _ (by omega), Mem.get_put_other _ _ (by omega)]

/-- Byte `i` of a store reads as the byte stored. -/
theorem Mem.get_write_inside (bs : List Byte) (m : Mem) (a i : Nat) (hm : Mem.wf m = true) (h : i < bs.length) :
    Mem.get (Mem.write m a bs) (a + i) = bs[i] := by
  induction bs generalizing m a i with
  | nil => simp at h
  | cons b r ih =>
    simp only [Mem.write]
    cases i with
    | zero =>
      rw [Mem.get_write_outside _ _ _ _ (by omega), Nat.add_zero, Mem.get_put_same _ _ _ hm]
      rfl
    | succ k =>
      have : a + (k + 1) = a + 1 + k := by omega
      rw [this, ih _ _ _ (Mem.wf_put m a b hm) (by simpa using h)]
      rfl

/-- What was stored is read back. -/
theorem Mem.read_write (bs : List Byte) (m : Mem) (a : Nat) (hm : Mem.wf m = true) :
    Mem.read (Mem.write m a bs) a bs.length = bs := by
  apply List.ext_getElem
  · simp [Mem.read]
  · intro i h1 h2
    simp [Mem.read, Mem.get_write_inside bs m a i hm h2]

/-- Erased bytes read as an unlisted address does, the others as before. -/
theorem Mem.get_erase (m : Mem) (a n x : Nat) :
    Mem.get (Mem.erase m a n) x = if a ≤ x ∧ x < a + n then memDefault else Mem.get m x := by
  unfold Mem.erase
  induction m with
  | nil => simp [Mem.get]
  | cons c r ih =>
    obtain ⟨y, b⟩ := c
    simp only [List.filter]
    by_cases hy : a ≤ y ∧ y < a + n
    · simp only [hy, and_self, not_true_eq_false, decide_false]
      rw [ih]
      by_cases hx : a ≤ x ∧ x < a + n
      · simp [hx]
      · have : ¬ y = x := by rintro rfl; exact hx hy
        simp [hx, Mem.get, this]
    · simp only [hy, not_false_eq_true, decide_true]
      simp only [Mem.get, ih]
      by_cases hyx : y = x
      · subst hyx
        simp [hy]
      · simp [hyx]

/-! ### Registers -/

theorem regFind_regPut (l : List (RegKey × Word)) (k n : RegKey) (v : Word) :
    regFind (regPut l k v) n = if n = k then some v else regFind l n := by
  induction l with
  | nil =>
    by_cases h : n = k
    · simp [regPut, regFind, h]
    · simp [regPut, regFind, h, Ne.symm h]
  | cons e r ih =>
    obtain ⟨x, y⟩ := e
    simp only [regPut]
    split
    · rename_i hx
      subst hx
      by_cases h : n = x
      · simp [regFind, h]
      · simp [regFind, h, Ne.symm h]
    · rename_i hx
      simp only [regFind, ih]
      by_cases h : x = n
      · subst h
        simp [hx]
      · simp [h]

/-- A register reads as it was set; the others read as before. -/
theorem State.reg_setReg (s : State) (k n : RegKey) (v : Word) : (s.setReg k v).reg n = if n = k then v else s.reg n := by
  unfold State.reg State.setReg
  simp only [regFind_regPut]
  split <;> simp_all

@[simp] theorem State.reg_setReg_same (s : State) (k : RegKey) (v : Word) : (s.setReg k v).reg k = v := by
  simp [State.reg_setReg]

theorem State.reg_setReg_other (s : State) {k n : RegKey} (v : Word) (h : n ≠ k) : (s.setReg k v).reg n = s.reg n := by
  simp [State.reg_setReg, h]

/-- The same of a field. -/
theorem State.reg_setFld_other (s : State) {k n : RegKey} (lo w x : Nat) (h : n ≠ k) : (s.setFld k lo w x).reg n = s.reg n :=
  State.reg_setReg_other s _ h

/-- The same of a counter. -/
theorem State.reg_bump_other (s : State) {k n : RegKey} (x : Nat) (h : n ≠ k) : (s.bump k x).reg n = s.reg n :=
  State.reg_setReg_other s _ h

/-- A register set with another name leaves a field as it was. -/
theorem State.fld_setReg_other (s : State) {k n : RegKey} (v : Word) (lo w : Nat) (h : n ≠ k) :
    (s.setReg k v).fld n lo w = s.fld n lo w := by
  simp [State.fld, State.reg_setReg_other s v h]

/-! ### Fields -/

theorem testBit_setBits (v : Word) (lo w x i : Nat) (h : lo + w ≤ 64) :
    (setBits v lo w x).toNat.testBit i =
      if lo ≤ i ∧ i < lo + w then x.testBit (i - lo) else v.toNat.testBit i := by
  have hl : v.toNat % 2 ^ lo < 2 ^ lo := Nat.mod_lt _ (by positivity)
  have hm : 2 ^ lo * (x % 2 ^ w) + v.toNat % 2 ^ lo < 2 ^ (lo + w) := by
    have b1 : x % 2 ^ w < 2 ^ w := Nat.mod_lt _ (by positivity)
    calc _ < 2 ^ lo * (x % 2 ^ w) + 2 ^ lo := by omega
      _ = 2 ^ lo * (x % 2 ^ w + 1) := by ring
      _ ≤ 2 ^ lo * 2 ^ w := Nat.mul_le_mul_left _ b1
      _ = _ := (pow_add ..).symm
  unfold setBits
  rw [replaced_eq, BitVec.toNat_ofNat, Nat.mod_eq_of_lt (replaced_lt _ _ _ _ 64 v.isLt h), Nat.testBit_two_pow_mul_add _ hm,
    Nat.testBit_two_pow_mul_add _ hl]
  by_cases h1 : i < lo
  · have h2 : i < lo + w := by omega
    simp only [h1, h2, if_true, Nat.testBit_mod_two_pow, decide_true, Bool.true_and]
    rw [if_neg (by omega)]
  · by_cases h2 : i < lo + w
    · have : i - lo < w := by omega
      simp [h1, h2, Nat.testBit_mod_two_pow, this, Nat.not_lt.mp h1]
    · have : lo + w + (i - (lo + w)) = i := by omega
      simp [h2, Nat.testBit_div_two_pow, Nat.add_comm _ (lo + w), this]

/-- A field set reads as it was set. -/
theorem bitsOf_setBits_same (v : Word) (lo w x : Nat) (h : lo + w ≤ 64) : bitsOf (setBits v lo w x).toNat lo w = x % 2 ^ w := by
  apply Nat.eq_of_testBit_eq
  intro i
  rw [testBit_bitsOf, testBit_setBits _ _ _ _ _ h, Nat.testBit_mod_two_pow]
  by_cases hi : i < w
  · rw [if_pos (by omega), Nat.add_sub_cancel_left]
  · simp [hi]

/-- A field apart from the one set reads as before. -/
theorem bitsOf_setBits_other (v : Word) (lo w x a b : Nat) (h : lo + w ≤ 64) (ha : a + b ≤ lo ∨ lo + w ≤ a) :
    bitsOf (setBits v lo w x).toNat a b = bitsOf v.toNat a b := by
  apply Nat.eq_of_testBit_eq
  intro i
  rw [testBit_bitsOf, testBit_bitsOf, testBit_setBits _ _ _ _ _ h]
  by_cases hi : i < b
  · rw [if_neg (by omega)]
  · simp [hi]

theorem State.fld_setFld_same (s : State) (k : RegKey) (lo w x : Nat) (h : lo + w ≤ 64) :
    (s.setFld k lo w x).fld k lo w = x % 2 ^ w := by
  simp [State.fld, State.setFld, bitsOf_setBits_same _ _ _ _ h]

theorem State.fld_setFld_apart (s : State) (k : RegKey) (lo w x a b : Nat) (h : lo + w ≤ 64) (ha : a + b ≤ lo ∨ lo + w ≤ a) :
    (s.setFld k lo w x).fld k a b = s.fld k a b := by
  simp [State.fld, State.setFld, bitsOf_setBits_other _ _ _ _ _ _ h ha]

theorem State.fld_setFld_other (s : State) {k n : RegKey} (lo w x a b : Nat) (h : n ≠ k) :
    (s.setFld k lo w x).fld n a b = s.fld n a b := by
  simp [State.fld, State.reg_setFld_other s lo w x h]

/-- A counter below its limit counts on. -/
theorem State.reg_bump_same (s : State) (k : RegKey) (n : Nat) (h : (s.reg k).toNat + n < 2 ^ 64) :
    ((s.bump k n).reg k).toNat = (s.reg k).toNat + n := by
  simp only [State.bump, State.reg_setReg_same, BitVec.toNat_ofNat]
  omega

end Sys2Proof.Machine
end

