-- ==== Sys2Proof/Laws/Kept.lean ====
section
/-! SUPPORT. What a step may do to the fields that the whole-machine rules speak of. -/

namespace Sys2Proof.Machine

/-- A ring of a size and weight that RING_SETUP admits, with no more entries waiting than it holds (R348, R349). -/
def Ring.ok (r : Ring) : Prop :=
  4 ≤ r.place.z ∧ r.place.z ≤ 16 ∧ 1 ≤ r.weight ∧ r.head < 2 ^ 32 ∧ r.tail < 2 ^ 32 ∧
    (r.tail + 2 ^ 32 - r.head) % 2 ^ 32 ≤ 2 ^ r.place.z

/-- SC_STATUS of a register list. -/
def scWord (l : List (RegKey × Word)) : Nat := ((regFind l (rk .SC_STATUS)).getD (resetWord (rk .SC_STATUS))).toNat

/-- What the fields that follow keep of state `a`. -/
def KeptAt (a : State) (pending : List Instr) (regs : List (RegKey × Word)) (dev host site mbox : Mem) (rings : Tab Ring)
    (weirQ : List WeirClose) (dieLog : List LogEntry) : Prop :=
  pending = a.pending ∧ (Mem.wf a.dev = true → Mem.wf dev = true) ∧ (Mem.wf a.host = true → Mem.wf host = true) ∧
  (Mem.wf a.site = true → Mem.wf site = true) ∧ (Mem.wf a.mbox = true → Mem.wf mbox = true) ∧
  ((∀ e ∈ a.rings, e.2.ok) → ∀ e ∈ rings, e.2.ok) ∧ (a.weirQ.length ≤ 17 → weirQ.length ≤ 17) ∧
  (a.dieLog.length ≤ 1024 → dieLog.length ≤ 1024) ∧
  (bitsOf (scWord a.regs) 0 1 = 0 → bitsOf (scWord regs) 0 1 = 0) ∧
  bitsOf (scWord a.regs) 6 7 ≤ bitsOf (scWord regs) 6 7

/-- State `t` keeps the queue, the canonical memories, the sound rings, the bounded queues, the debug lock and the fused
level of state `a`. -/
def Kept (a t : State) : Prop :=
  KeptAt a t.pending t.regs t.dev t.host t.site t.mbox t.rings t.weirQ t.dieLog

@[simp] theorem Kept.refl (a : State) : Kept a a := by
  simp [Kept, KeptAt]

theorem Kept.trans {a b c : State} (h : Kept a b) (k : Kept b c) : Kept a c := by
  unfold Kept KeptAt at *
  obtain ⟨h0, h1, h2, h3, h4, h5, h6, h7, h8, h9⟩ := h
  obtain ⟨k0, k1, k2, k3, k4, k5, k6, k7, k8, k9⟩ := k
  exact ⟨k0.trans h0, k1 ∘ h1, k2 ∘ h2, k3 ∘ h3, k4 ∘ h4, k5 ∘ h5, k6 ∘ h6, k7 ∘ h7, k8 ∘ h8, h9.trans k9⟩

/-- A record update is judged by the fields that count. -/
@[simp] theorem kept_mk {a : State}
    {xpending xtk xnextJid xregs xdev xhost xsite xmbox xmbReq xmbGone xmbMark xpoolErr xdramErr xrowCorr xdieSeen xrings
    xcqs xevRing xevSeq xevLost xup xcursors xfeat xhelloDone xhostWait xd3 xreadData xgroups xjobs xrounds xacc
    xaccErr xgrp xjets xengines xmon xweirQ xweirSeq xhaloQ xprofiles xallocs xplans xgrants xfillDue xholders
    xppsWait xmbRun xcasc xleaving xneigh xgop xholdPost xlinkOut xports xflows xgrids xslew xtickCfg
    xholdoverDone xonceLocked xppsPulse xlastSlot xuCap xuCut xcredit xstallDue xpwrAlert xperst xtripped xswitchOpen
    xpowerGood xsnapshotBegun xdispatchHeld xoverSample xtripNow xtripStays xlastVolt xlmap xjmap xemap xsuspects
    xspareCols xfailing xbistNext xbistWave xupSince xreadyAt xcold xresetting xdieLog xflashPend xflashLog
    xblockErases xworn xlife xcopies xsensors xslotA xslotB xstaged xtrialRun xfuse xreruns xbar4 xdraws} :
    Kept a (State.mk
      xpending xtk xnextJid xregs xdev xhost xsite xmbox xmbReq xmbGone xmbMark xpoolErr xdramErr xrowCorr xdieSeen xrings
      xcqs xevRing xevSeq xevLost xup xcursors xfeat xhelloDone xhostWait xd3 xreadData xgroups xjobs xrounds xacc
      xaccErr xgrp xjets xengines xmon xweirQ xweirSeq xhaloQ xprofiles xallocs xplans xgrants xfillDue xholders
      xppsWait xmbRun xcasc xleaving xneigh xgop xholdPost xlinkOut xports xflows xgrids xslew xtickCfg
      xholdoverDone xonceLocked xppsPulse xlastSlot xuCap xuCut xcredit xstallDue xpwrAlert xperst xtripped
      xswitchOpen xpowerGood xsnapshotBegun xdispatchHeld xoverSample xtripNow xtripStays xlastVolt xlmap xjmap xemap
      xsuspects xspareCols xfailing xbistNext xbistWave xupSince xreadyAt xcold xresetting xdieLog xflashPend
      xflashLog xblockErases xworn xlife xcopies xsensors xslotA xslotB xstaged xtrialRun xfuse xreruns xbar4 xdraws) ↔
      KeptAt a xpending xregs xdev xhost xsite xmbox xrings xweirQ xdieLog := Iff.rfl

@[simp] theorem keptAt_fold {a t : State} :
    KeptAt a t.pending t.regs t.dev t.host t.site t.mbox t.rings t.weirQ t.dieLog ↔ Kept a t := Iff.rfl

/-- An update that leaves the fields that count. -/
theorem Kept.upd {a s t : State} (h : Kept a s) (e : t.pending = s.pending ∧ t.regs = s.regs ∧ t.dev = s.dev ∧ t.host = s.host ∧
    t.site = s.site ∧ t.mbox = s.mbox ∧ t.rings = s.rings ∧ t.weirQ = s.weirQ ∧ t.dieLog = s.dieLog) : Kept a t := by
  obtain ⟨e0, e1, e2, e3, e4, e5, e6, e7, e8⟩ := e
  unfold Kept at *
  rw [e0, e1, e2, e3, e4, e5, e6, e7, e8]
  exact h

@[simp] theorem kept_ite {a x y : State} {c : Prop} [Decidable c] (h : Kept a x) (k : Kept a y) : Kept a (if c then x else y) := by
  split <;> assumption

@[simp] theorem kept_foldl {α : Type} {a s : State} (f : State → α → State) (l : List α) (h : Kept a s)
    (k : ∀ s x, Kept s (f s x)) : Kept a (l.foldl f s) := by
  induction l generalizing s with
  | nil => exact h
  | cons x r ih => exact ih (h.trans (k s x))

/-- A fold that carries a result beside the state. -/
theorem kept_scan {α β : Type} {a : State} (f : State × β → α → State × β) (l : List α) (r : State × β) (h : Kept a r.1)
    (k : ∀ r x, Kept r.1 (f r x).1) : Kept a (l.foldl f r).1 := by
  induction l generalizing r with
  | nil => exact h
  | cons x l ih => exact ih _ (h.trans (k r x))

/-- Bytes stored in device memory. -/
theorem Kept.devWrite {a s : State} (h : Kept a s) (x : Nat) (bs : List Byte) :
    Kept a { s with dev := Mem.write s.dev x bs } := by
  obtain ⟨h0, h1, h2⟩ := h
  exact ⟨h0, fun y => Mem.wf_write _ _ _ (h1 y), h2⟩

/-- The state of a pair that a function answered. -/
theorem Kept.of_eq {β : Type} {a t : State} {p : State × β} {b : β} (e : p = (t, b)) (k : Kept a p.1) : Kept a t := by
  subst e
  exact k

/-! ### Registers -/

theorem scWord_regPut (l : List (RegKey × Word)) (k : RegKey) (v : Word) :
    scWord (regPut l k v) = if k = rk .SC_STATUS then v.toNat else scWord l := by
  unfold scWord
  rw [regFind_regPut]
  by_cases h : k = rk .SC_STATUS
  · simp [h]
  · simp [h, Ne.symm h]

/-- A register other than SC_STATUS set. -/
@[simp] theorem kept_setReg {a s : State} (n : RegName) (u i : Nat) (v : Word) (h : Kept a s) (hn : n ≠ .SC_STATUS) :
    Kept a (s.setReg (rk n u i) v) := by
  have : rk n u i ≠ rk .SC_STATUS := fun e => hn (congrArg RegKey.name e)
  unfold Kept KeptAt at *
  simp only [State.setReg, scWord_regPut, this, if_false]
  exact h

@[simp] theorem kept_setFld {a s : State} (n : RegName) (u i lo w x : Nat) (h : Kept a s) (hn : n ≠ .SC_STATUS) :
    Kept a (s.setFld (rk n u i) lo w x) := kept_setReg n u i _ h hn

@[simp] theorem kept_bump {a s : State} (n : RegName) (u i x : Nat) (h : Kept a s) (hn : n ≠ .SC_STATUS) :
    Kept a (s.bump (rk n u i) x) := kept_setReg n u i _ h hn

/-- A field of SC_STATUS set that is neither the debug bit nor the fused level. -/
@[simp] theorem kept_setFld_sc {a s : State} (lo w x : Nat) (h : Kept a s)
    (h0 : decide (1 ≤ lo) = true) (h1 : decide (lo + w ≤ 6 ∨ 13 ≤ lo) = true) (h2 : decide (lo + w ≤ 64) = true) :
    Kept a (s.setFld (rk .SC_STATUS) lo w x) := by
  simp only [decide_eq_true_eq] at h0 h1 h2
  unfold Kept KeptAt at *
  have e (b c : Nat) (hb : b + c ≤ lo ∨ lo + w ≤ b) :
      bitsOf (scWord (s.setFld (rk .SC_STATUS) lo w x).regs) b c = bitsOf (scWord s.regs) b c := by
    simp only [State.setFld, State.setReg, scWord_regPut, if_true]
    rw [bitsOf_setBits_other _ _ _ _ _ _ h2 hb]
    rfl
  rw [e 0 1 (by omega), e 6 7 (by omega)]
  exact h

end Sys2Proof.Machine
end

