-- ==== Sys2Proof/Laws/Events.lean ====
section
/-! SUPPORT. What sending to the host, raising events and publishing READY_MAP can do: which fields they leave, and that they
keep what the whole-machine rules speak of. -/

namespace Sys2Proof.Machine

/-- The fields that memory accesses, host writes, messages and events leave alone: the others are put at fixed values. -/
def State.rest (s : State) : State :=
  { s with
    regs := [], dev := [], host := [], hostWait := [], poolErr := [], dramErr := [], rowCorr := [], dieSeen := [], allocs := []
    life := Life.zero, dieLog := [], flashPend := [], evSeq := 0, evRing := none, evLost := 0, linkOut := [], ports := []
    draws := 0 }

@[simp] theorem rest_setReg (s : State) (k : RegKey) (v : Word) : (s.setReg k v).rest = s.rest := rfl
@[simp] theorem rest_setFld (s : State) (k : RegKey) (lo w x : Nat) : (s.setFld k lo w x).rest = s.rest := rfl
@[simp] theorem rest_bump (s : State) (k : RegKey) (n : Nat) : (s.bump k n).rest = s.rest := rfl

/-- A fold of updates that each leave the rest. -/
theorem rest_foldl {α : Type} (f : State → α → State) (l : List α) (s : State) (h : ∀ s x, (f s x).rest = s.rest) :
    (l.foldl f s).rest = s.rest := by
  induction l generalizing s with
  | nil => rfl
  | cons x l ih => exact (ih (f s x)).trans (h s x)

/-- A fold that carries a result beside the state. -/
theorem rest_scan {α β : Type} (f : State × β → α → State × β) (l : List α) (r : State × β)
    (h : ∀ r x, (f r x).1.rest = r.1.rest) : (l.foldl f r).1.rest = r.1.rest := by
  induction l generalizing r with
  | nil => rfl
  | cons x l ih => exact (ih (f r x)).trans (h r x)

/-- Bytes stored in host memory. -/
theorem Kept.hostWrite {a s : State} (h : Kept a s) (x : Nat) (bs : List Byte) :
    Kept a { s with host := Mem.write s.host x bs } := by
  obtain ⟨h0, h1, h2, h3⟩ := h
  exact ⟨h0, h1, fun y => Mem.wf_write _ _ _ (h2 y), h3⟩

/-! ### Host memory and vectors -/

@[simp] theorem rest_post (s : State) (p : Post) : (s.post p).rest = s.rest := by
  cases p with
  | write a bs => rfl
  | vector v =>
    unfold State.post
    simp only
    split
    · rfl
    · split <;> rfl

@[simp] theorem kept_post {a s : State} (p : Post) (h : Kept a s) : Kept a (s.post p) := by
  cases p with
  | write x bs => exact h.hostWrite x bs
  | vector v =>
    unfold State.post
    simp only
    split
    · exact h
    · split
      · exact kept_setFld _ _ _ _ _ _ h (by decide)
      · exact h.hostWrite _ _

@[simp] theorem rest_send (s : State) (p : Post) : (s.send p).rest = s.rest := by
  unfold State.send
  split
  · exact rest_post s p
  · rfl

@[simp] theorem kept_send {a s : State} (p : Post) (h : Kept a s) : Kept a (s.send p) := by
  unfold State.send
  split
  · exact kept_post p h
  · exact h

@[simp] theorem rest_flushWait (s : State) : s.flushWait.rest = s.rest := by
  unfold State.flushWait
  split
  · rw [rest_foldl _ _ _ fun s p => rest_post s p, rest_foldl _ _ _ fun s p => rest_post s p]
    rfl
  · rfl

@[simp] theorem kept_flushWait {a s : State} (h : Kept a s) : Kept a s.flushWait := by
  unfold State.flushWait
  split
  · exact kept_foldl _ _ (kept_foldl _ _ h fun s p => kept_post p (Kept.refl s)) fun s p => kept_post p (Kept.refl s)
  · exact h

/-! ### Events -/

@[simp] theorem rest_logEvent (s : State) (c u : Nat) (p : List Byte) : (s.logEvent c u p).rest = s.rest := rfl

@[simp] theorem kept_logEvent {a s : State} (c u : Nat) (p : List Byte) (h : Kept a s) : Kept a (s.logEvent c u p) := by
  have k : Kept a (s.bump (rk .NB_LOG_DIE)) := kept_bump _ _ _ _ h (by decide)
  obtain ⟨h0, h1, h2, h3, h4, h5, h6, -, h8, h9⟩ := k
  exact ⟨h0, h1, h2, h3, h4, h5, h6, fun _ => by simp [State.logEvent]; omega, h8, h9⟩

@[simp] theorem rest_used (s : State) (x : Nat) : (s.used x).rest = s.rest := rfl
@[simp] theorem kept_used {a s : State} (x : Nat) (h : Kept a s) : Kept a (s.used x) := h

@[simp] theorem rest_wholeWord (s : State) (q x : Nat) : (s.wholeWord q x).rest = s.rest := by
  unfold State.wholeWord
  simp only
  split <;> rfl

@[simp] theorem kept_wholeWord {a s : State} (q x : Nat) (h : Kept a s) : Kept a (s.wholeWord q x) := by
  unfold State.wholeWord
  simp only
  split
  · exact kept_setFld _ _ _ _ _ _ h (by decide)
  · exact h

@[simp] theorem rest_dropLatch (s : State) (q x c w : Nat) : (s.dropLatch q x c w).1.rest = s.rest := by
  unfold State.dropLatch
  simp only
  split <;> rfl

@[simp] theorem kept_dropLatch {a s : State} (q x c w : Nat) (h : Kept a s) : Kept a (s.dropLatch q x c w).1 := by
  unfold State.dropLatch
  simp only
  split
  · exact kept_bump _ _ _ _ h (by decide)
  · exact kept_setReg _ _ _ _ (kept_bump _ _ _ _ h (by decide)) (by decide)

@[simp] theorem rest_unmappedLatch (s : State) (x : Nat) : (s.unmappedLatch x).1.rest = s.rest := by
  unfold State.unmappedLatch
  simp only
  split <;> rfl

@[simp] theorem kept_unmappedLatch {a s : State} (x : Nat) (h : Kept a s) : Kept a (s.unmappedLatch x).1 := by
  unfold State.unmappedLatch
  simp only
  split
  · exact kept_bump _ _ _ _ h (by decide)
  · exact kept_setReg _ _ _ _ (kept_bump _ _ _ _ h (by decide)) (by decide)

@[simp] theorem rest_stackStore (s : State) (st x : Nat) (bs : List Byte) : (s.stackStore st x bs).rest = s.rest := rfl

@[simp] theorem kept_stackStore {a s : State} (st x : Nat) (bs : List Byte) (h : Kept a s) : Kept a (s.stackStore st x bs) :=
  (kept_bump _ _ _ _ h (by decide)).devWrite x bs

@[simp] theorem rest_sendAs (s : State) (cls : Nat) (m : LinkMsg) (op : Nat) : (s.sendAs cls m op).rest = s.rest := by
  unfold State.sendAs
  split
  · rfl
  · simp only
    split <;> rfl

@[simp] theorem kept_sendAs {a s : State} (cls : Nat) (m : LinkMsg) (op : Nat) (h : Kept a s) : Kept a (s.sendAs cls m op) := by
  unfold State.sendAs
  split
  · exact h
  · simp only
    split
    · exact h
    · exact kept_bump _ _ _ _ h (by decide)

@[simp] theorem rest_sendLink (s : State) (m : LinkMsg) (op : Nat) : (s.sendLink m op).rest = s.rest := rest_sendAs ..

@[simp] theorem kept_sendLink {a s : State} (m : LinkMsg) (op : Nat) (h : Kept a s) : Kept a (s.sendLink m op) :=
  kept_sendAs _ _ _ h

@[simp] theorem rest_spillStore (s : State) (m x : Nat) (bs : List Byte) (op : Nat) : (s.spillStore m x bs op).rest = s.rest :=
  rest_sendLink _ _ _

@[simp] theorem kept_spillStore {a s : State} (m x : Nat) (bs : List Byte) (op : Nat) (h : Kept a s) :
    Kept a (s.spillStore m x bs op) := kept_sendLink _ _ (h.devWrite x bs)

@[simp] theorem rest_recordRequest (s : State) (q x : Nat) (bs : List Byte) : (s.recordRequest q x bs).1.rest = s.rest := by
  unfold State.recordRequest
  split
  · exact (rest_foldl _ _ _ fun s (p : Nat × Nat) => rest_wholeWord s q p.1).trans rfl
  · exact rest_dropLatch ..

@[simp] theorem kept_recordRequest {a s : State} (q x : Nat) (bs : List Byte) (h : Kept a s) :
    Kept a (s.recordRequest q x bs).1 := by
  unfold State.recordRequest
  split
  · exact kept_foldl _ _ (h.devWrite _ _) fun s (p : Nat × Nat) => kept_wholeWord q p.1 (Kept.refl s)
  · exact kept_dropLatch _ _ _ _ h

@[simp] theorem rest_recordStore (s : State) (p : Place) (o : Nat) (bs : List Byte) : (s.recordStore p o bs).1.rest = s.rest := by
  unfold State.recordStore
  simp only
  split
  · exact rest_send ..
  · split <;> first | rfl | exact rest_unmappedLatch .. | exact rest_recordRequest .. | exact rest_send .. | exact rest_sendLink .. |
      (dsimp only; split <;> first | rfl | exact rest_spillStore ..)

@[simp] theorem kept_recordStore {a s : State} (p : Place) (o : Nat) (bs : List Byte) (h : Kept a s) :
    Kept a (s.recordStore p o bs).1 := by
  unfold State.recordStore
  simp only
  split
  · exact kept_send _ h
  · split
    · exact kept_unmappedLatch _ h
    · exact kept_recordRequest _ _ _ h
    · exact kept_stackStore _ _ _ (kept_used _ h)
    · exact kept_send _ (kept_used _ h)
    · exact kept_sendLink _ _ h
    · exact kept_ite (kept_spillStore _ _ _ _ (kept_used _ h)) h
    · exact h

theorem rest_raiseN (f : Nat) (s : State) (c u : Nat) (p : List Byte) : (s.raiseN f c u p).rest = s.rest := by
  induction f generalizing s c u p with
  | zero => rfl
  | succ f ih =>
    unfold State.raiseN
    simp only
    split
    · rfl
    · split
      · rfl
      · split
        · split
          · rw [ih, rest_send, rest_recordStore]; rfl
          · rw [rest_send, rest_recordStore]; rfl
        · rfl

theorem kept_raiseN {a : State} (f : Nat) {s : State} (c u : Nat) (p : List Byte) (h : Kept a s) : Kept a (s.raiseN f c u p) := by
  induction f generalizing s c u p with
  | zero => exact h
  | succ f ih =>
    have l := kept_logEvent c u p h
    unfold State.raiseN
    simp only
    generalize s.logEvent c u p = x at l ⊢
    split
    · exact l
    · split
      · exact l
      · split
        · have w (r : EvRing) : Kept a { x with evRing := some r } := l
          split
          · exact ih _ _ _ (kept_send _ (kept_recordStore _ _ _ (w _)))
          · exact kept_send _ (kept_recordStore _ _ _ (w _))
        · have b : Kept a (x.bump (rk .QE_EV_LOST)) := kept_bump _ _ _ _ l (by decide)
          exact b

@[simp] theorem rest_raise (s : State) (c u : Nat) (p : List Byte) : (s.raise c u p).rest = s.rest := rest_raiseN 4 s c u p

@[simp] theorem kept_raise {a s : State} (c u : Nat) (p : List Byte) (h : Kept a s) : Kept a (s.raise c u p) :=
  kept_raiseN 4 c u p h

@[simp] theorem rest_lostPost (s : State) : s.lostPost.rest = s.rest := by
  unfold State.lostPost
  split
  · split
    · exact (rest_raise ..).trans rfl
    · rfl
  · rfl

@[simp] theorem kept_lostPost {a s : State} (h : Kept a s) : Kept a s.lostPost := by
  unfold State.lostPost
  split
  · split
    · exact kept_raise _ _ _ h
    · exact h
  · exact h

/-! ### READY_MAP -/

@[simp] theorem kept_setOwn {a s : State} (i : Nat) (b : Bool) (h : Kept a s) : Kept a (s.setOwn i b) := h

@[simp] theorem rest_refreshReady (s : State) : s.refreshReady.rest = s.rest := by
  unfold State.refreshReady
  simp only
  split
  · rfl
  · rw [rest_foldl _ _ _ fun s i => rest_raise .., rest_setFld, rest_setFld, rest_foldl _ _ _ fun s i => rest_setFld ..,
      rest_setReg, rest_foldl _ _ _ fun s i => rest_setReg ..]

/-- Words of READY_MAP set in order. -/
theorem kept_words {a s : State} {l : List (RegName × Nat × Nat)} {f : RegName × Nat × Nat → Word} (h : Kept a s)
    (k : ∀ x ∈ l, x.1 ≠ .SC_STATUS) : Kept a (l.foldl (fun t x => t.setReg (rk x.1) (f x)) s) := by
  induction l generalizing s with
  | nil => exact h
  | cons x l ih =>
    exact ih (kept_setReg _ _ _ _ h (k x (List.mem_cons_self ..))) fun y hy => k y (List.mem_cons_of_mem _ hy)

@[simp] theorem kept_refreshReady {a s : State} (h : Kept a s) : Kept a s.refreshReady := by
  unfold State.refreshReady
  simp only
  split
  · exact h
  · refine kept_foldl _ _ (kept_setFld _ _ _ _ _ _ (kept_setFld _ _ _ _ _ _ (kept_foldl _ _ (kept_setReg _ _ _ _ ?_ (by decide)) ?_) (by decide))
      (by decide)) fun s i => kept_raise _ _ _ (Kept.refl s)
    · exact kept_words h (by decide)
    · exact fun s i => kept_setFld _ _ _ _ _ _ (Kept.refl s) (by decide)

/-! ### Fields of the rest -/

/-- A field that `rest` leaves is the same in two states of the same rest. -/
theorem of_rest {α : Type} {s t : State} (f : State → α) (h : t.rest = s.rest) (hf : ∀ x : State, f x.rest = f x := by intro; rfl) :
    f t = f s := by
  rw [← hf, h, hf]

@[simp] theorem raise_pending (s : State) (c u : Nat) (p : List Byte) : (s.raise c u p).pending = s.pending :=
  of_rest State.pending (rest_raise ..)
@[simp] theorem raise_rings (s : State) (c u : Nat) (p : List Byte) : (s.raise c u p).rings = s.rings :=
  of_rest State.rings (rest_raise ..)
@[simp] theorem raise_cqs (s : State) (c u : Nat) (p : List Byte) : (s.raise c u p).cqs = s.cqs :=
  of_rest State.cqs (rest_raise ..)
@[simp] theorem raise_jobs (s : State) (c u : Nat) (p : List Byte) : (s.raise c u p).jobs = s.jobs :=
  of_rest State.jobs (rest_raise ..)
@[simp] theorem raise_mbox (s : State) (c u : Nat) (p : List Byte) : (s.raise c u p).mbox = s.mbox :=
  of_rest State.mbox (rest_raise ..)
@[simp] theorem raise_mbRun (s : State) (c u : Nat) (p : List Byte) : (s.raise c u p).mbRun = s.mbRun :=
  of_rest State.mbRun (rest_raise ..)
@[simp] theorem raise_up (s : State) (c u : Nat) (p : List Byte) : (s.raise c u p).up = s.up := of_rest State.up (rest_raise ..)
@[simp] theorem raise_casc (s : State) (c u : Nat) (p : List Byte) : (s.raise c u p).casc = s.casc :=
  of_rest State.casc (rest_raise ..)

end Sys2Proof.Machine
end

