-- ==== Sys2Proof/Laws/Access.lean ====
section
/-! SUPPORT. What reads and writes of device addresses can do: which fields they leave, and that they keep what the
whole-machine rules speak of. -/

namespace Sys2Proof.Machine

@[simp] theorem rest_raising (r : State × Option Ev) : (State.raising r).rest = r.1.rest := by
  unfold State.raising
  split <;> simp

@[simp] theorem kept_raising {a : State} {r : State × Option Ev} (h : Kept a r.1) : Kept a (State.raising r) := by
  unfold State.raising
  split
  · exact kept_raise _ _ _ h
  · exact h

@[simp] theorem rest_unmapped (s : State) (x : Nat) : (s.unmapped x).rest = s.rest := by simp [State.unmapped]
@[simp] theorem kept_unmapped {a s : State} (x : Nat) (h : Kept a s) : Kept a (s.unmapped x) :=
  kept_raising (kept_unmappedLatch x h)

@[simp] theorem rest_poolDrop (s : State) (q x c w : Nat) : (s.poolDrop q x c w).rest = s.rest := by simp [State.poolDrop]
@[simp] theorem kept_poolDrop {a s : State} (q x c w : Nat) (h : Kept a s) : Kept a (s.poolDrop q x c w) :=
  kept_raising (kept_dropLatch q x c w h)

/-! ### Errors -/

@[simp] theorem rest_mapAdd (s : State) (k u l : Nat) : (s.mapAdd k u l).rest = s.rest := by
  unfold State.mapAdd
  split
  · rfl
  · exact rest_raise ..

@[simp] theorem kept_mapAdd {a s : State} (k u l : Nat) (h : Kept a s) : Kept a (s.mapAdd k u l) := by
  unfold State.mapAdd
  split
  · exact h
  · exact kept_raise _ _ _ h

@[simp] theorem rest_poolCorrected (s : State) (q x : Nat) : (s.poolCorrected q x).rest = s.rest := by
  unfold State.poolCorrected
  simp only
  split
  · rw [rest_raise, rest_bump, rest_mapAdd]; rfl
  · rfl

@[simp] theorem kept_poolCorrected {a s : State} (q x : Nat) (h : Kept a s) : Kept a (s.poolCorrected q x) := by
  have b : Kept a (s.bump (rk .BS_ECC_CORRECTED (s.physB q))) := kept_bump _ _ _ _ h (by decide)
  unfold State.poolCorrected
  simp only
  generalize s.bump (rk .BS_ECC_CORRECTED (s.physB q)) = y at b ⊢
  split
  · exact kept_raise _ _ _ (kept_bump _ _ _ _ (kept_mapAdd _ _ _ b) (by decide))
  · exact b

@[simp] theorem rest_poolUncorr (s : State) (q x r : Nat) : (s.poolUncorr q x r).rest = s.rest := rest_raise ..

@[simp] theorem kept_poolUncorr {a s : State} (q x r : Nat) (h : Kept a s) : Kept a (s.poolUncorr q x r) :=
  kept_raise _ _ _ (kept_bump _ _ _ _ h (by decide))

@[simp] theorem rest_poolRowRead (s : State) (q x n r : Nat) : (s.poolRowRead q x n r).1.rest = s.rest := by
  unfold State.poolRowRead
  simp only
  split
  · exact (rest_foldl _ _ _ fun s y => rest_poolCorrected s q y).trans rfl
  · exact (rest_poolUncorr ..).trans ((rest_foldl _ _ _ fun s y => rest_poolCorrected s q y).trans rfl)

@[simp] theorem kept_poolRowRead {a s : State} (q x n r : Nat) (h : Kept a s) : Kept a (s.poolRowRead q x n r).1 := by
  unfold State.poolRowRead
  simp only
  split
  · exact kept_foldl _ _ h fun s y => kept_poolCorrected q y (Kept.refl s)
  · exact kept_poolUncorr _ _ _ (kept_foldl _ _ h fun s y => kept_poolCorrected q y (Kept.refl s))

@[simp] theorem rest_dieShown (s : State) (st x : Nat) (es : List (Nat × Nat)) : (s.dieShown st x es).rest = s.rest := rfl
@[simp] theorem kept_dieShown {a s : State} (st x : Nat) (es : List (Nat × Nat)) (h : Kept a s) : Kept a (s.dieShown st x es) := h

@[simp] theorem rest_dramCorrected (s : State) (st x : Nat) : (s.dramCorrected st x).rest = s.rest := by
  unfold State.dramCorrected
  simp only
  split
  · exact (rest_raise ..).trans rfl
  · rfl

@[simp] theorem kept_dramCorrected {a s : State} (st x : Nat) (h : Kept a s) : Kept a (s.dramCorrected st x) := by
  have b : Kept a (s.bump (rk .DM_CORRECTED st)) := kept_bump _ _ _ _ h (by decide)
  unfold State.dramCorrected
  simp only
  generalize s.bump (rk .DM_CORRECTED st) = y at b ⊢
  split
  · exact kept_raise _ _ _ (kept_bump _ _ _ _ (kept_setFld _ _ _ _ _ _ b (by decide)) (by decide))
  · exact b

@[simp] theorem rest_dramUncorr (s : State) (st x : Nat) (es : List (Nat × Nat)) : (s.dramUncorr st x es).rest = s.rest := by
  unfold State.dramUncorr
  simp only
  refine (rest_raise ..).trans ?_
  split <;> rfl

@[simp] theorem kept_dramUncorr {a s : State} (st x : Nat) (es : List (Nat × Nat)) (h : Kept a s) :
    Kept a (s.dramUncorr st x es) := by
  have b : Kept a (s.bump (rk .DM_UNCORR st)) := kept_bump _ _ _ _ h (by decide)
  exact kept_raise _ _ _ (kept_ite b (kept_setReg _ _ _ _ b (by decide)))

@[simp] theorem rest_dramRead (s : State) (st x n : Nat) : (s.dramRead st x n).1.rest = s.rest := by
  unfold State.dramRead
  simp only
  split
  · rfl
  · split
    · exact (rest_dramCorrected ..).trans rfl
    · exact (rest_dramUncorr ..).trans rfl

@[simp] theorem kept_dramRead {a s : State} (st x n : Nat) (h : Kept a s) : Kept a (s.dramRead st x n).1 := by
  have b : Kept a (s.bump (rk .DM_READ_BYTES st) n) := kept_bump _ _ _ _ h (by decide)
  unfold State.dramRead
  simp only
  split
  · exact b
  · split
    · exact kept_dramCorrected _ _ (kept_dieShown _ _ _ b)
    · exact kept_dramUncorr _ _ _ (kept_dieShown _ _ _ b)

/-! ### Reads -/

@[simp] theorem rest_spillRead (s : State) (w : Who) (n : Nat) : (s.spillRead w n).rest = s.rest := by
  unfold State.spillRead
  split <;> rfl

@[simp] theorem kept_spillRead {a s : State} (w : Who) (n : Nat) (h : Kept a s) : Kept a (s.spillRead w n) := by
  unfold State.spillRead
  split
  · exact h
  · exact kept_bump _ _ _ _ h (by decide)

@[simp] theorem rest_readPiece (s : State) (w : Who) (x n r : Nat) : (s.readPiece w x n r).1.rest = s.rest := by
  unfold State.readPiece
  split
  · exact rest_unmapped ..
  · split
    · exact rest_poolRowRead ..
    · rfl
  · exact (rest_dramRead ..).trans rfl
  · split
    · exact (rest_spillRead ..).trans rfl
    · rfl
  · split
    · exact (rest_sendLink ..).trans rfl
    · rfl
  · split
    · exact (rest_sendLink ..).trans ((rest_spillRead ..).trans rfl)
    · rfl
  · exact rest_dramUncorr ..

@[simp] theorem kept_readPiece {a s : State} (w : Who) (x n r : Nat) (h : Kept a s) : Kept a (s.readPiece w x n r).1 := by
  unfold State.readPiece
  split
  · exact kept_unmapped _ h
  · split
    · exact kept_poolRowRead _ _ _ _ h
    · exact h
  · exact kept_dramRead _ _ _ (kept_used _ h)
  · split
    · exact kept_spillRead _ _ (kept_used _ h)
    · exact h
  · split
    · exact kept_sendLink _ _ h
    · exact h
  · split
    · exact kept_sendLink _ _ (kept_spillRead _ _ (kept_used _ h))
    · exact h
  · exact kept_dramUncorr _ _ _ h

@[simp] theorem rest_boundsHit (s : State) (q n o : Nat) : (s.boundsHit q n o).rest = s.rest := by
  unfold State.boundsHit
  simp only
  split
  · exact (rest_raise ..).trans rfl
  · rfl

@[simp] theorem kept_boundsHit {a s : State} (q n o : Nat) (h : Kept a s) : Kept a (s.boundsHit q n o) := by
  unfold State.boundsHit
  simp only
  split
  · exact kept_raise _ _ _ (kept_bump _ _ _ _ h (by decide))
  · exact kept_bump _ _ _ _ h (by decide)

@[simp] theorem rest_slotPiece (s : State) (w : Who) (q n o l r : Nat) : (s.slotPiece w q n o l r).1.rest = s.rest := by
  unfold State.slotPiece
  simp only
  split
  · exact rest_foldl _ _ _ fun s o => rest_boundsHit ..
  · split
    · exact rest_poolRowRead ..
    · rfl

@[simp] theorem kept_slotPiece {a s : State} (w : Who) (q n o l r : Nat) (h : Kept a s) : Kept a (s.slotPiece w q n o l r).1 := by
  unfold State.slotPiece
  simp only
  split
  · exact kept_foldl _ _ h fun s o => kept_boundsHit _ _ _ (Kept.refl s)
  · split
    · exact kept_poolRowRead _ _ _ _ h
    · exact h

@[simp] theorem rest_readSpan (s : State) (w : Who) (p : Span) (r : Nat) : (s.readSpan w p r).1.rest = s.rest := by
  unfold State.readSpan
  split
  · split
    · rfl
    · refine rest_scan _ _ _ fun r p => ?_
      split
      · rfl
      · exact rest_slotPiece ..
  · refine rest_scan _ _ _ fun r p => ?_
    split
    · rfl
    · exact rest_readPiece ..

@[simp] theorem kept_readSpan {a s : State} (w : Who) (p : Span) (r : Nat) (h : Kept a s) : Kept a (s.readSpan w p r).1 := by
  unfold State.readSpan
  split
  · split
    · exact h
    · refine kept_scan _ _ _ h fun r p => ?_
      split
      · exact Kept.refl _
      · exact kept_slotPiece _ _ _ _ _ _ (Kept.refl _)
  · refine kept_scan _ _ _ h fun r p => ?_
    split
    · exact Kept.refl _
    · exact kept_readPiece _ _ _ _ (Kept.refl _)

@[simp] theorem rest_readSpans (s : State) (w : Who) (ps : List Span) (r : Nat) : (s.readSpans w ps r).1.rest = s.rest := by
  refine rest_scan _ _ _ fun r p => ?_
  split
  · rfl
  · exact rest_readSpan ..

@[simp] theorem kept_readSpans {a s : State} (w : Who) (ps : List Span) (r : Nat) (h : Kept a s) :
    Kept a (s.readSpans w ps r).1 := by
  refine kept_scan _ _ _ h fun r p => ?_
  split
  · exact Kept.refl _
  · exact kept_readSpan _ _ _ (Kept.refl _)

/-! ### Writes -/

theorem rest_ite {p : Prop} [Decidable p] {x y s : State} (h : x.rest = s.rest) (k : y.rest = s.rest) :
    (if p then x else y).rest = s.rest := by
  split <;> assumption

@[simp] theorem rest_wordWritten (s : State) (q x n : Nat) : (s.wordWritten q x n).rest = s.rest := by
  unfold State.wordWritten
  simp only
  split
  · exact rest_wholeWord ..
  · split
    · rfl
    · split
      · exact (rest_poolCorrected ..).trans rfl
      · rfl

@[simp] theorem kept_wordWritten {a s : State} (q x n : Nat) (h : Kept a s) : Kept a (s.wordWritten q x n) := by
  unfold State.wordWritten
  simp only
  split
  · exact kept_wholeWord _ _ h
  · split
    · exact h
    · split
      · exact kept_poolCorrected _ _ h
      · exact h

@[simp] theorem rest_poolStore (s : State) (q x : Nat) (bs : List Byte) : (s.poolStore q x bs).rest = s.rest :=
  (rest_foldl _ _ _ fun s (p : Nat × Nat) => rest_wordWritten s q p.1 p.2).trans rfl

@[simp] theorem kept_poolStore {a s : State} (q x : Nat) (bs : List Byte) (h : Kept a s) : Kept a (s.poolStore q x bs) :=
  kept_foldl _ _ (h.devWrite _ _) fun s (p : Nat × Nat) => kept_wordWritten q p.1 p.2 (Kept.refl s)

@[simp] theorem rest_poolRequest (s : State) (q x c w : Nat) (bs : List Byte) : (s.poolRequest q x c w bs).rest = s.rest := by
  unfold State.poolRequest
  simp only
  split
  · exact rest_poolStore ..
  · exact rest_poolDrop ..

@[simp] theorem kept_poolRequest {a s : State} (q x c w : Nat) (bs : List Byte) (h : Kept a s) :
    Kept a (s.poolRequest q x c w bs) := by
  unfold State.poolRequest
  simp only
  split
  · exact kept_poolStore _ _ _ h
  · exact kept_poolDrop _ _ _ _ h

@[simp] theorem rest_poolWrite (s : State) (w : Who) (q x : Nat) (bs : List Byte) : (s.poolWrite w q x bs).rest = s.rest := by
  unfold State.poolWrite
  split
  · exact rest_poolStore ..
  · exact rest_foldl _ _ _ fun s (p : Nat × Nat) => rest_poolRequest ..

@[simp] theorem kept_poolWrite {a s : State} (w : Who) (q x : Nat) (bs : List Byte) (h : Kept a s) :
    Kept a (s.poolWrite w q x bs) := by
  unfold State.poolWrite
  split
  · exact kept_poolStore _ _ _ h
  · exact kept_foldl _ _ h fun s (p : Nat × Nat) => kept_poolRequest _ _ _ _ _ (Kept.refl s)

@[simp] theorem rest_dramStore (s : State) (st x : Nat) (bs : List Byte) : (s.dramStore st x bs).rest = s.rest := by
  unfold State.dramStore
  simp only
  split
  · rfl
  · split
    · rfl
    · split
      · exact (rest_dramCorrected ..).trans rfl
      · rfl

@[simp] theorem kept_dramStore {a s : State} (st x : Nat) (bs : List Byte) (h : Kept a s) : Kept a (s.dramStore st x bs) := by
  have b := kept_stackStore st x bs h
  unfold State.dramStore
  simp only
  generalize s.stackStore st x bs = y at b ⊢
  split
  · exact b
  · split
    · exact b
    · split
      · exact kept_dramCorrected _ _ b
      · exact b

@[simp] theorem rest_writePiece (s : State) (w : Who) (x : Nat) (bs : List Byte) : (s.writePiece w x bs).rest = s.rest := by
  unfold State.writePiece
  split
  · exact rest_unmapped ..
  · exact rest_poolWrite ..
  · exact (rest_dramStore ..).trans rfl
  · exact (rest_send ..).trans rfl
  · exact rest_sendLink ..
  · exact rest_ite ((rest_spillStore ..).trans rfl) rfl
  · rfl

@[simp] theorem kept_writePiece {a s : State} (w : Who) (x : Nat) (bs : List Byte) (h : Kept a s) : Kept a (s.writePiece w x bs) := by
  unfold State.writePiece
  split
  · exact kept_unmapped _ h
  · exact kept_poolWrite _ _ _ _ h
  · exact kept_dramStore _ _ _ (kept_used _ h)
  · exact kept_send _ (kept_used _ h)
  · exact kept_sendLink _ _ h
  · exact kept_ite (kept_spillStore _ _ _ _ (kept_used _ h)) h
  · exact h

@[simp] theorem rest_writeDev (s : State) (w : Who) (x : Nat) (bs : List Byte) : (s.writeDev w x bs).rest = s.rest :=
  rest_foldl _ _ _ fun s p => rest_writePiece s w p.1 _

@[simp] theorem kept_writeDev {a s : State} (w : Who) (x : Nat) (bs : List Byte) (h : Kept a s) : Kept a (s.writeDev w x bs) :=
  kept_foldl _ _ h fun s _ => kept_writePiece _ _ _ (Kept.refl s)

@[simp] theorem rest_slotWrite (s : State) (w : Who) (q n o : Nat) (bs : List Byte) : (s.slotWrite w q n o bs).rest = s.rest :=
  rest_ite (rest_boundsHit ..) (rest_poolWrite ..)

@[simp] theorem kept_slotWrite {a s : State} (w : Who) (q n o : Nat) (bs : List Byte) (h : Kept a s) :
    Kept a (s.slotWrite w q n o bs) :=
  kept_ite (kept_boundsHit _ _ _ h) (kept_poolWrite _ _ _ _ h)

@[simp] theorem rest_writeAt (s : State) (w : Who) (x o : Nat) (bs : List Byte) : (s.writeAt w x o bs).rest = s.rest := by
  unfold State.writeAt
  split
  · split
    · exact rest_sendLink ..
    · exact rest_foldl _ _ _ fun s _ => rest_slotWrite ..
  · exact rest_writeDev ..

@[simp] theorem kept_writeAt {a s : State} (w : Who) (x o : Nat) (bs : List Byte) (h : Kept a s) : Kept a (s.writeAt w x o bs) := by
  unfold State.writeAt
  split
  · split
    · exact kept_sendLink _ _ h
    · exact kept_foldl _ _ h fun s _ => kept_slotWrite _ _ _ _ _ (Kept.refl s)
  · exact kept_writeDev _ _ _ h

@[simp] theorem rest_writeAll (s : State) (w : Who) (ws : List (Nat × Nat × List Byte)) : (s.writeAll w ws).rest = s.rest :=
  rest_foldl _ _ _ fun s (x : Nat × Nat × List Byte) => rest_writeAt s w x.1 x.2.1 x.2.2

@[simp] theorem kept_writeAll {a s : State} (w : Who) (ws : List (Nat × Nat × List Byte)) (h : Kept a s) : Kept a (s.writeAll w ws) :=
  kept_foldl _ _ h fun s (x : Nat × Nat × List Byte) => kept_writeAt w x.1 x.2.1 x.2.2 (Kept.refl s)

/-! ### Tokens -/

@[simp] theorem rest_slotClaim (s : State) (q n : Nat) : (s.slotClaim q n).rest = s.rest := by
  unfold State.slotClaim
  split
  · exact rest_sendLink ..
  · rfl

@[simp] theorem kept_slotClaim {a s : State} (q n : Nat) (h : Kept a s) : Kept a (s.slotClaim q n) := by
  unfold State.slotClaim
  split
  · exact kept_sendLink _ _ h
  · exact kept_setFld _ _ _ _ _ _ h (by decide)

@[simp] theorem rest_slotFill (s : State) (q n : Nat) (ok : Bool) : (s.slotFill q n ok).rest = s.rest := by
  unfold State.slotFill
  split
  · exact rest_sendLink ..
  · rfl

@[simp] theorem kept_slotFill {a s : State} (q n : Nat) (ok : Bool) (h : Kept a s) : Kept a (s.slotFill q n ok) := by
  unfold State.slotFill
  split
  · exact kept_sendLink _ _ h
  · exact kept_setFld _ _ _ _ _ _ (kept_setFld _ _ _ _ _ _ h (by decide)) (by decide)

@[simp] theorem rest_slotEmpty (s : State) (q n : Nat) : (s.slotEmpty q n).rest = s.rest := rfl
@[simp] theorem kept_slotEmpty {a s : State} (q n : Nat) (h : Kept a s) : Kept a (s.slotEmpty q n) :=
  kept_setFld _ _ _ _ _ _ h (by decide)

end Sys2Proof.Machine
end

