-- ==== Sys2Proof/Laws/Exec.lean ====
section
/-! SUPPORT. One equation per command: what `exec` does with it is its meaning; and the step on a command and on an empty queue. -/

namespace Sys2Proof.Machine

theorem exec_doorbellWrite (ring : Nat) (wide : Bool) (value : BitVec 64) (s : State) : exec (.doorbellWrite ring wide value) s = execDoorbellWrite ring wide value s := rfl
theorem exec_tick (s : State) : exec .tick s = execTick s := rfl
theorem exec_matmul (jid stalls : Nat) (s : State) : exec (.matmul jid stalls) s = execMatmul jid stalls s := rfl
theorem exec_fusedPair (run : IssueRun) (s : State) : exec (.fusedPair run) s = execFusedPair run s := rfl
theorem exec_checknode (run : IssueRun) (s : State) : exec (.checknode run) s = execChecknode run s := rfl
theorem exec_reduce (run : IssueRun) (s : State) : exec (.reduce run) s = execReduce run s := rfl
theorem exec_update (run : IssueRun) (s : State) : exec (.update run) s = execUpdate run s := rfl
theorem exec_convert (run : IssueRun) (s : State) : exec (.convert run) s = execConvert run s := rfl
theorem exec_gatherRows (run : IssueRun) (s : State) : exec (.gatherRows run) s = execGatherRows run s := rfl
theorem exec_gatherColumns (run : IssueRun) (s : State) : exec (.gatherColumns run) s = execGatherColumns run s := rfl
theorem exec_hazeSelect (run : IssueRun) (s : State) : exec (.hazeSelect run) s = execHazeSelect run s := rfl
theorem exec_forecast (run : IssueRun) (s : State) : exec (.forecast run) s = execForecast run s := rfl
theorem exec_barrier (jid : Nat) (s : State) : exec (.barrier jid) s = execBarrier jid s := rfl
theorem exec_barrierArrival (jid : Nat) (s : State) : exec (.barrierArrival jid) s = execBarrierArrival jid s := rfl
theorem exec_barrierTimeout (jid : Nat) (s : State) : exec (.barrierTimeout jid) s = execBarrierTimeout jid s := rfl
theorem exec_dot (run : IssueRun) (s : State) : exec (.dot run) s = execDot run s := rfl
theorem exec_toStream (run : IssueRun) (s : State) : exec (.toStream run) s = execToStream run s := rfl
theorem exec_fromStream (run : IssueRun) (s : State) : exec (.fromStream run) s = execFromStream run s := rfl
theorem exec_drain (run : IssueRun) (s : State) : exec (.drain run) s = execDrain run s := rfl
theorem exec_reshard (jid : Nat) (s : State) : exec (.reshard jid) s = execReshard jid s := rfl
theorem exec_weightTileLoaded (unit : Nat) (errs : List (Nat × Bool)) (stalls : Nat) (s : State) : exec (.weightTileLoaded unit errs stalls) s = execWeightTileLoaded unit errs stalls s := rfl
theorem exec_swap (unit : Nat) (wait : SwapWait) (s : State) : exec (.swap unit wait) s = execSwap unit wait s := rfl
theorem exec_groupDrain (run : DrainRun) (s : State) : exec (.groupDrain run) s = execGroupDrain run s := rfl
theorem exec_preemption (jid : Nat) (i : Interrupt) (s : State) : exec (.preemption jid i) s = execPreemption jid i s := rfl
theorem exec_slotWaitEnd (run : IssueRun) (s : State) : exec (.slotWaitEnd run) s = execSlotWaitEnd run s := rfl
theorem exec_slotTimeout (jid : Nat) (s : State) : exec (.slotTimeout jid) s = execSlotTimeout jid s := rfl
theorem exec_completionRecordPost (jid : Nat) (s : State) : exec (.completionRecordPost jid) s = execCompletionRecordPost jid s := rfl
theorem exec_msixTimer (cq : Nat) (s : State) : exec (.msixTimer cq) s = execMsixTimer cq s := rfl
theorem exec_haloComparison (terrace : Nat) (s : State) : exec (.haloComparison terrace) s = execHaloComparison terrace s := rfl
theorem exec_poolWriteRequest (basin : Nat) (addr : Nat) (cls : Nat) (writer : BitVec 24) (data : List Byte) (s : State) : exec (.poolWriteRequest basin addr cls writer data) s = execPoolWriteRequest basin addr cls writer data s := rfl
theorem exec_hostWrite (offset : Nat) (data : List Byte) (s : State) : exec (.hostWrite offset data) s = execHostWrite offset data s := rfl
theorem exec_hostRead (offset : Nat) (len : Nat) (s : State) : exec (.hostRead offset len) s = execHostRead offset len s := rfl
theorem exec_readCompletion (owner : ReadOwner) (ok : Bool) (s : State) : exec (.readCompletion owner ok) s = execReadCompletion owner ok s := rfl
theorem exec_completionTimeout (owner : ReadOwner) (s : State) : exec (.completionTimeout owner) s = execCompletionTimeout owner s := rfl
theorem exec_hostLinkDown (s : State) : exec .hostLinkDown s = execHostLinkDown s := rfl
theorem exec_hostLinkUp (rate : Nat) (width : Nat) (flit : Bool) (s : State) : exec (.hostLinkUp rate width flit) s = execHostLinkUp rate width flit s := rfl
theorem exec_functionLevelReset (s : State) : exec .functionLevelReset s = execFunctionLevelReset s := rfl
theorem exec_d3hot (s : State) : exec .d3hot s = execD3hot s := rfl
theorem exec_d0 (s : State) : exec .d0 s = execD0 s := rfl
theorem exec_hotReset (s : State) : exec .hotReset s = execHotReset s := rfl
theorem exec_hstPerstLAssert (s : State) : exec .hstPerstLAssert s = execHstPerstLAssert s := rfl
theorem exec_deviceReset (value : BitVec 32) (s : State) : exec (.deviceReset value) s = execDeviceReset value s := rfl
theorem exec_computeReset (value : BitVec 32) (s : State) : exec (.computeReset value) s = execComputeReset value s := rfl
theorem exec_computeResetDone (s : State) : exec .computeResetDone s = execComputeResetDone s := rfl
theorem exec_mgtPerstLAssert (s : State) : exec .mgtPerstLAssert s = execMgtPerstLAssert s := rfl
theorem exec_smbusReadWord (code : BitVec 8) (s : State) : exec (.smbusReadWord code) s = execSmbusReadWord code s := rfl
theorem exec_registerWrite (bar : Nat) (offset : Nat) (bytes : Nat) (value : BitVec 64) (s : State) : exec (.registerWrite bar offset bytes value) s = execRegisterWrite bar offset bytes value s := rfl
theorem exec_rcCounterRead (offset : Nat) (bytes : Nat) (s : State) : exec (.rcCounterRead offset bytes) s = execRcCounterRead offset bytes s := rfl
theorem exec_debugHalt (s : State) : exec .debugHalt s = execDebugHalt s := rfl
theorem exec_debugResume (s : State) : exec .debugResume s = execDebugResume s := rfl
theorem exec_eccInjectArm (basin : Nat) (value : BitVec 64) (s : State) : exec (.eccInjectArm basin value) s = execEccInjectArm basin value s := rfl
theorem exec_closeStep (value : BitVec 32) (s : State) : exec (.closeStep value) s = execCloseStep value s := rfl
theorem exec_lifetimeSave (value : BitVec 32) (s : State) : exec (.lifetimeSave value) s = execLifetimeSave value s := rfl
theorem exec_hello (mb : Nat) (s : State) : exec (.hello mb) s = execHello mb s := rfl
theorem exec_ringSetup (mb : Nat) (s : State) : exec (.ringSetup mb) s = execRingSetup mb s := rfl
theorem exec_ringTeardown (mb : Nat) (s : State) : exec (.ringTeardown mb) s = execRingTeardown mb s := rfl
theorem exec_cqSetup (mb : Nat) (s : State) : exec (.cqSetup mb) s = execCqSetup mb s := rfl
theorem exec_cqTeardown (mb : Nat) (s : State) : exec (.cqTeardown mb) s = execCqTeardown mb s := rfl
theorem exec_eventSetup (mb : Nat) (s : State) : exec (.eventSetup mb) s = execEventSetup mb s := rfl
theorem exec_eventTeardown (mb : Nat) (s : State) : exec (.eventTeardown mb) s = execEventTeardown mb s := rfl
theorem exec_groupBindReplace (mb : Nat) (s : State) : exec (.groupBindReplace mb) s = execGroupBindReplace mb s := rfl
theorem exec_groupBindAdd (mb : Nat) (s : State) : exec (.groupBindAdd mb) s = execGroupBindAdd mb s := rfl
theorem exec_groupBindRemove (mb : Nat) (s : State) : exec (.groupBindRemove mb) s = execGroupBindRemove mb s := rfl
theorem exec_groupBindUnbind (mb : Nat) (s : State) : exec (.groupBindUnbind mb) s = execGroupBindUnbind mb s := rfl
theorem exec_tensorAlloc (mb : Nat) (addr : Nat) (f : Nat) (spillTo : Nat) (s : State) : exec (.tensorAlloc mb addr f spillTo) s = execTensorAlloc mb addr f spillTo s := rfl
theorem exec_tensorFree (mb : Nat) (s : State) : exec (.tensorFree mb) s = execTensorFree mb s := rfl
theorem exec_spillGrant (mb : Nat) (s : State) : exec (.spillGrant mb) s = execSpillGrant mb s := rfl
theorem exec_spillRevoke (mb : Nat) (s : State) : exec (.spillRevoke mb) s = execSpillRevoke mb s := rfl
theorem exec_placeQuery (mb : Nat) (s : State) : exec (.placeQuery mb) s = execPlaceQuery mb s := rfl
theorem exec_phasePlanDefine (mb : Nat) (s : State) : exec (.phasePlanDefine mb) s = execPhasePlanDefine mb s := rfl
theorem exec_phasePlanSelect (mb : Nat) (s : State) : exec (.phasePlanSelect mb) s = execPhasePlanSelect mb s := rfl
theorem exec_phasePlanDrop (mb : Nat) (s : State) : exec (.phasePlanDrop mb) s = execPhasePlanDrop mb s := rfl
theorem exec_tensorLoad (mb : Nat) (s : State) : exec (.tensorLoad mb) s = execTensorLoad mb s := rfl
theorem exec_tensorLoadEncode (mb : Nat) (s : State) : exec (.tensorLoadEncode mb) s = execTensorLoadEncode mb s := rfl
theorem exec_monitorSnapshot (mb : Nat) (s : State) : exec (.monitorSnapshot mb) s = execMonitorSnapshot mb s := rfl
theorem exec_monitorRestore (mb : Nat) (s : State) : exec (.monitorRestore mb) s = execMonitorRestore mb s := rfl
theorem exec_emuBasadCfgGet (mb : Nat) (s : State) : exec (.emuBasadCfgGet mb) s = execEmuBasadCfgGet mb s := rfl
theorem exec_emuBasadCfgSet (mb : Nat) (s : State) : exec (.emuBasadCfgSet mb) s = execEmuBasadCfgSet mb s := rfl
theorem exec_cascadeJoin (mb : Nat) (s : State) : exec (.cascadeJoin mb) s = execCascadeJoin mb s := rfl
theorem exec_cascadeLeave (mb : Nat) (s : State) : exec (.cascadeLeave mb) s = execCascadeLeave mb s := rfl
theorem exec_timeSet (mb : Nat) (s : State) : exec (.timeSet mb) s = execTimeSet mb s := rfl
theorem exec_timeSetAtPps (mb : Nat) (s : State) : exec (.timeSetAtPps mb) s = execTimeSetAtPps mb s := rfl
theorem exec_cellConfigSet (mb : Nat) (s : State) : exec (.cellConfigSet mb) s = execCellConfigSet mb s := rfl
theorem exec_cellConfigClear (mb : Nat) (s : State) : exec (.cellConfigClear mb) s = execCellConfigClear mb s := rfl
theorem exec_unitTest (mb : Nat) (failing : Option Nat) (s : State) : exec (.unitTest mb failing) s = execUnitTest mb failing s := rfl
theorem exec_resourceClaim (mb : Nat) (s : State) : exec (.resourceClaim mb) s = execResourceClaim mb s := rfl
theorem exec_resourceRelease (mb : Nat) (s : State) : exec (.resourceRelease mb) s = execResourceRelease mb s := rfl
theorem exec_sensorRead (mb : Nat) (s : State) : exec (.sensorRead mb) s = execSensorRead mb s := rfl
theorem exec_logRead (mb : Nat) (s : State) : exec (.logRead mb) s = execLogRead mb s := rfl
theorem exec_lifetimeRead (mb : Nat) (s : State) : exec (.lifetimeRead mb) s = execLifetimeRead mb s := rfl
theorem exec_fwStage (mb : Nat) (s : State) : exec (.fwStage mb) s = execFwStage mb s := rfl
theorem exec_fwActivate (mb : Nat) (s : State) : exec (.fwActivate mb) s = execFwActivate mb s := rfl
theorem exec_fwActivateResetNow (mb : Nat) (s : State) : exec (.fwActivateResetNow mb) s = execFwActivateResetNow mb s := rfl
theorem exec_attest (mb : Nat) (s : State) : exec (.attest mb) s = execAttest mb s := rfl
theorem exec_debugUnlock (mb : Nat) (s : State) : exec (.debugUnlock mb) s = execDebugUnlock mb s := rfl
theorem exec_debugRelock (mb : Nat) (s : State) : exec (.debugRelock mb) s = execDebugRelock mb s := rfl
theorem exec_certRead (mb : Nat) (s : State) : exec (.certRead mb) s = execCertRead mb s := rfl
theorem exec_broadcast (value : BitVec 32) (s : State) : exec (.broadcast value) s = execBroadcast value s := rfl
theorem exec_broadcastCopy (data : List Byte) (s : State) : exec (.broadcastCopy data) s = execBroadcastCopy data s := rfl
theorem exec_snapshot (value : BitVec 32) (s : State) : exec (.snapshot value) s = execSnapshot value s := rfl
theorem exec_snapshotHold (s : State) : exec .snapshotHold s = execSnapshotHold s := rfl
theorem exec_snapshotRelease (s : State) : exec .snapshotRelease s = execSnapshotRelease s := rfl
theorem exec_reset (value : BitVec 32) (s : State) : exec (.reset value) s = execReset value s := rfl
theorem exec_resetMessage (s : State) : exec .resetMessage s = execResetMessage s := rfl
theorem exec_gopAnswer (child : Nat) (answered : Nat) (missing : Bool) (s : State) : exec (.gopAnswer child answered missing) s = execGopAnswer child answered missing s := rfl
theorem exec_gopAnswerTimeout (child : Nat) (s : State) : exec (.gopAnswerTimeout child) s = execGopAnswerTimeout child s := rfl
theorem exec_remoteDescriptor (member : Nat) (ring : Nat) (seq : Nat) (cls : Nat) (bytes : List Byte) (s : State) : exec (.remoteDescriptor member ring seq cls bytes) s = execRemoteDescriptor member ring seq cls bytes s := rfl
theorem exec_remoteCompletion (jid : Nat) (bytes : List Byte) (s : State) : exec (.remoteCompletion jid bytes) s = execRemoteCompletion jid bytes s := rfl
theorem exec_cascadeExchange (port : Nat) (index : Nat) (master : Nat) (n : Nat) (bitmap : Nat) (s : State) : exec (.cascadeExchange port index master n bitmap) s = execCascadeExchange port index master n bitmap s := rfl
theorem exec_flitReceive (port : Nat) (good : Bool) (acked : Nat) (tail : FlitEnd) (s : State) :
    exec (.flitReceive port good acked tail) s = execFlitReceive port good acked tail s := rfl
theorem exec_laneFault (port : Nat) (lane : LaneState) (s : State) : exec (.laneFault port lane) s = execLaneFault port lane s := rfl
theorem exec_retrainDone (port : Nat) (s : State) : exec (.retrainDone port) s = execRetrainDone port s := rfl
theorem exec_portUp (port : Nat) (s : State) : exec (.portUp port) s = execPortUp port s := rfl
theorem exec_frameReceive (port : Nat) (fcsOk : Bool) (data : List Byte) (s : State) : exec (.frameReceive port fcsOk data) s = execFrameReceive port fcsOk data s := rfl
theorem exec_symbolWrite (grid : Nat) (symbol : Nat) (s : State) : exec (.symbolWrite grid symbol) s = execSymbolWrite grid symbol s := rfl
theorem exec_fhPortState (port : Nat) (up : Bool) (s : State) : exec (.fhPortState port up) s = execFhPortState port up s := rfl
theorem exec_ppsEdge (s : State) : exec .ppsEdge s = execPpsEdge s := rfl
theorem exec_ppsMissed (s : State) : exec .ppsMissed s = execPpsMissed s := rfl
theorem exec_referencePresent (s : State) : exec .referencePresent s = execReferencePresent s := rfl
theorem exec_referenceLocked (s : State) : exec .referenceLocked s = execReferenceLocked s := rfl
theorem exec_referenceLost (s : State) : exec .referenceLost s = execReferenceLost s := rfl
theorem exec_holdoverExpiry (s : State) : exec .holdoverExpiry s = execHoldoverExpiry s := rfl
theorem exec_slotTick (s : State) : exec .slotTick s = execSlotTick s := rfl
theorem exec_telemetryTick (volts : Nat) (power : Nat) (s : State) : exec (.telemetryTick volts power) s = execTelemetryTick volts power s := rfl
theorem exec_sensorSample (readings : List (BitVec 16)) (s : State) : exec (.sensorSample readings) s = execSensorSample readings s := rfl
theorem exec_inputPowerGood (slotId : Nat) (s : State) : exec (.inputPowerGood slotId) s = execInputPowerGood slotId s := rfl
theorem exec_powerWarn (volts : Nat) (high : Bool) (s : State) : exec (.powerWarn volts high) s = execPowerWarn volts high s := rfl
theorem exec_powerRestored (us : Nat) (s : State) : exec (.powerRestored us) s = execPowerRestored us s := rfl
theorem exec_overvoltage (peak : Nat) (us : Nat) (s : State) : exec (.overvoltage peak us) s = execOvervoltage peak us s := rfl
theorem exec_switchClose (s : State) : exec .switchClose s = execSwitchClose s := rfl
theorem exec_consistentSnapshot (s : State) : exec .consistentSnapshot s = execConsistentSnapshot s := rfl
theorem exec_orderlyStop (s : State) : exec .orderlyStop s = execOrderlyStop s := rfl
theorem exec_rootLockLoss (s : State) : exec .rootLockLoss s = execRootLockLoss s := rfl
theorem exec_bistWaveEnd (failed : List (Nat × Nat)) (s : State) : exec (.bistWaveEnd failed) s = execBistWaveEnd failed s := rfl
theorem exec_stackTrained (stack : Nat) (s : State) : exec (.stackTrained stack) s = execStackTrained stack s := rfl
theorem exec_stackTrainingTimeout (stack : Nat) (element : Nat) (s : State) : exec (.stackTrainingTimeout stack element) s = execStackTrainingTimeout stack element s := rfl
theorem exec_zenithReady (s : State) : exec .zenithReady s = execZenithReady s := rfl
theorem exec_fwTrialTimeout (s : State) : exec .fwTrialTimeout s = execFwTrialTimeout s := rfl
theorem exec_residueMismatch (jet : Nat) (column : Nat) (s : State) : exec (.residueMismatch jet column) s = execResidueMismatch jet column s := rfl
theorem exec_accumulatorEccError (jet : Nat) (s : State) : exec (.accumulatorEccError jet) s = execAccumulatorEccError jet s := rfl
theorem exec_progressFault (unit : Nat) (s : State) : exec (.progressFault unit) s = execProgressFault unit s := rfl
theorem exec_failoverDone (terrace : Nat) (us : Nat) (s : State) : exec (.failoverDone terrace us) s = execFailoverDone terrace us s := rfl
theorem exec_sparseEngineFault (engine : Nat) (s : State) : exec (.sparseEngineFault engine) s = execSparseEngineFault engine s := rfl
theorem exec_fatalFault (unitClass : Nat) (cause : Nat) (s : State) : exec (.fatalFault unitClass cause) s = execFatalFault unitClass cause s := rfl
theorem exec_dramPatrol (stack : Nat) (errors : List (Nat × Nat × Nat)) (s : State) : exec (.dramPatrol stack errors) s = execDramPatrol stack errors s := rfl
theorem exec_spill (base : Nat) (dest : Nat) (s : State) : exec (.spill base dest) s = execSpill base dest s := rfl
theorem exec_fill (base : Nat) (s : State) : exec (.fill base) s = execFill base s := rfl
theorem exec_lifetimeSecond (s : State) : exec .lifetimeSecond s = execLifetimeSecond s := rfl
theorem exec_lifetimeRecordSave (s : State) : exec .lifetimeRecordSave s = execLifetimeRecordSave s := rfl
theorem exec_flashLogWrite (s : State) : exec .flashLogWrite s = execFlashLogWrite s := rfl
theorem exec_hstPerstLRelease (s : State) : exec .hstPerstLRelease s = execHstPerstLRelease s := rfl
theorem exec_nimbusReady (s : State) : exec .nimbusReady s = execNimbusReady s := rfl
theorem exec_rootPllLock (s : State) : exec .rootPllLock s = execRootPllLock s := rfl
theorem exec_mailboxCompletion (mb : Nat) (s : State) : exec (.mailboxCompletion mb) s = execMailboxCompletion mb s := rfl
theorem exec_stepCloseEnd (s : State) : exec .stepCloseEnd s = execStepCloseEnd s := rfl
theorem exec_ppsOutPulse (s : State) : exec .ppsOutPulse s = execPpsOutPulse s := rfl

/-- A step with a command in front runs it on the queue's rest. -/
theorem step_cons (s : State) (c : Instr) (r : List Instr) (h : s.pending = c :: r) : step s = exec c { s with pending := r } := by
  simp [step, h]

/-- A step on an empty queue is a clock tick. -/
theorem step_idle (s : State) (h : s.pending = []) : step s = .next s.clockTick := by simp [step, h]

end Sys2Proof.Machine
end

