-- ==== Sys2Proof/Laws/Mailbox.lean ====
section
/-! SUPPORT. What a mailbox row can do: stay waiting, refuse by the checks of R360, end at once with an answer, or run on. -/

namespace Sys2Proof.Machine

variable {s t : State} {mb : Nat} {c : Cmd} {mine : Bool} {f : State → Ended}

/-- A command that is not in the mailbox leaves everything. -/
theorem mbRow_absent (h : (s.mbWaits mb && s.mbField mb 0 2 = c.code && mine) = false) : s.mbRow mb c mine f = s := by
  simp only [State.mbRow, h]; rfl

/-- A command that a check of R360 refuses is answered with that check's status. -/
theorem mbRow_refused {e : Err} (hw : s.mbWaits mb = true) (hc : s.mbField mb 0 2 = c.code) (hm : mine = true)
    (hr : s.mbRefuse mb c = some e) : s.mbRow mb c mine f = s.mbAnswer mb e.1 e.2 [] := by
  subst hm; simp only [State.mbRow, hw, hc, hr, decide_true, Bool.and_self, if_true]

/-- A command whose own step ends it is answered on that step's state. -/
theorem mbRow_ended {a : Nat × Nat × List Byte} (hw : s.mbWaits mb = true) (hc : s.mbField mb 0 2 = c.code) (hm : mine = true)
    (hr : s.mbRefuse mb c = none) (hf : f s = (t, some a)) : s.mbRow mb c mine f = t.mbAnswer mb a.1 a.2.1 a.2.2 := by
  subst hm; simp only [State.mbRow, hw, hc, hr, hf, decide_true, Bool.and_self, if_true]

/-- A command whose own step does not end it leaves that step's state. -/
theorem mbRow_running (hw : s.mbWaits mb = true) (hc : s.mbField mb 0 2 = c.code) (hm : mine = true)
    (hr : s.mbRefuse mb c = none) (hf : f s = (t, none)) : s.mbRow mb c mine f = t := by
  subst hm; simp only [State.mbRow, hw, hc, hr, hf, decide_true, Bool.and_self, if_true]

end Sys2Proof.Machine
end

