-- ==== Sys2Proof/Laws/State.lean ====
section
/-! SUPPORT. One lemma per field for the updates that every meaning is built from, and what they do to the field they
change. -/

namespace Sys2Proof.Machine

/-! ### `setReg` -/

@[simp] theorem State.setReg_pending (s : State) (k : RegKey) (v : Word) : (s.setReg k v).pending = s.pending := rfl
@[simp] theorem State.setReg_tk (s : State) (k : RegKey) (v : Word) : (s.setReg k v).tk = s.tk := rfl
@[simp] theorem State.setReg_nextJid (s : State) (k : RegKey) (v : Word) : (s.setReg k v).nextJid = s.nextJid := rfl
@[simp] theorem State.setReg_dev (s : State) (k : RegKey) (v : Word) : (s.setReg k v).dev = s.dev := rfl
@[simp] theorem State.setReg_host (s : State) (k : RegKey) (v : Word) : (s.setReg k v).host = s.host := rfl
@[simp] theorem State.setReg_site (s : State) (k : RegKey) (v : Word) : (s.setReg k v).site = s.site := rfl
@[simp] theorem State.setReg_mbox (s : State) (k : RegKey) (v : Word) : (s.setReg k v).mbox = s.mbox := rfl
@[simp] theorem State.setReg_mbReq (s : State) (k : RegKey) (v : Word) : (s.setReg k v).mbReq = s.mbReq := rfl
@[simp] theorem State.setReg_mbGone (s : State) (k : RegKey) (v : Word) : (s.setReg k v).mbGone = s.mbGone := rfl
@[simp] theorem State.setReg_mbMark (s : State) (k : RegKey) (v : Word) : (s.setReg k v).mbMark = s.mbMark := rfl
@[simp] theorem State.setReg_poolErr (s : State) (k : RegKey) (v : Word) : (s.setReg k v).poolErr = s.poolErr := rfl
@[simp] theorem State.setReg_dramErr (s : State) (k : RegKey) (v : Word) : (s.setReg k v).dramErr = s.dramErr := rfl
@[simp] theorem State.setReg_rowCorr (s : State) (k : RegKey) (v : Word) : (s.setReg k v).rowCorr = s.rowCorr := rfl
@[simp] theorem State.setReg_dieSeen (s : State) (k : RegKey) (v : Word) : (s.setReg k v).dieSeen = s.dieSeen := rfl
@[simp] theorem State.setReg_rings (s : State) (k : RegKey) (v : Word) : (s.setReg k v).rings = s.rings := rfl
@[simp] theorem State.setReg_cqs (s : State) (k : RegKey) (v : Word) : (s.setReg k v).cqs = s.cqs := rfl
@[simp] theorem State.setReg_evRing (s : State) (k : RegKey) (v : Word) : (s.setReg k v).evRing = s.evRing := rfl
@[simp] theorem State.setReg_evSeq (s : State) (k : RegKey) (v : Word) : (s.setReg k v).evSeq = s.evSeq := rfl
@[simp] theorem State.setReg_evLost (s : State) (k : RegKey) (v : Word) : (s.setReg k v).evLost = s.evLost := rfl
@[simp] theorem State.setReg_up (s : State) (k : RegKey) (v : Word) : (s.setReg k v).up = s.up := rfl
@[simp] theorem State.setReg_cursors (s : State) (k : RegKey) (v : Word) : (s.setReg k v).cursors = s.cursors := rfl
@[simp] theorem State.setReg_feat (s : State) (k : RegKey) (v : Word) : (s.setReg k v).feat = s.feat := rfl
@[simp] theorem State.setReg_helloDone (s : State) (k : RegKey) (v : Word) : (s.setReg k v).helloDone = s.helloDone := rfl
@[simp] theorem State.setReg_hostWait (s : State) (k : RegKey) (v : Word) : (s.setReg k v).hostWait = s.hostWait := rfl
@[simp] theorem State.setReg_d3 (s : State) (k : RegKey) (v : Word) : (s.setReg k v).d3 = s.d3 := rfl
@[simp] theorem State.setReg_readData (s : State) (k : RegKey) (v : Word) : (s.setReg k v).readData = s.readData := rfl
@[simp] theorem State.setReg_groups (s : State) (k : RegKey) (v : Word) : (s.setReg k v).groups = s.groups := rfl
@[simp] theorem State.setReg_jobs (s : State) (k : RegKey) (v : Word) : (s.setReg k v).jobs = s.jobs := rfl
@[simp] theorem State.setReg_rounds (s : State) (k : RegKey) (v : Word) : (s.setReg k v).rounds = s.rounds := rfl
@[simp] theorem State.setReg_acc (s : State) (k : RegKey) (v : Word) : (s.setReg k v).acc = s.acc := rfl
@[simp] theorem State.setReg_accErr (s : State) (k : RegKey) (v : Word) : (s.setReg k v).accErr = s.accErr := rfl
@[simp] theorem State.setReg_grp (s : State) (k : RegKey) (v : Word) : (s.setReg k v).grp = s.grp := rfl
@[simp] theorem State.setReg_jets (s : State) (k : RegKey) (v : Word) : (s.setReg k v).jets = s.jets := rfl
@[simp] theorem State.setReg_engines (s : State) (k : RegKey) (v : Word) : (s.setReg k v).engines = s.engines := rfl
@[simp] theorem State.setReg_mon (s : State) (k : RegKey) (v : Word) : (s.setReg k v).mon = s.mon := rfl
@[simp] theorem State.setReg_weirQ (s : State) (k : RegKey) (v : Word) : (s.setReg k v).weirQ = s.weirQ := rfl
@[simp] theorem State.setReg_weirSeq (s : State) (k : RegKey) (v : Word) : (s.setReg k v).weirSeq = s.weirSeq := rfl
@[simp] theorem State.setReg_haloQ (s : State) (k : RegKey) (v : Word) : (s.setReg k v).haloQ = s.haloQ := rfl
@[simp] theorem State.setReg_profiles (s : State) (k : RegKey) (v : Word) : (s.setReg k v).profiles = s.profiles := rfl
@[simp] theorem State.setReg_allocs (s : State) (k : RegKey) (v : Word) : (s.setReg k v).allocs = s.allocs := rfl
@[simp] theorem State.setReg_plans (s : State) (k : RegKey) (v : Word) : (s.setReg k v).plans = s.plans := rfl
@[simp] theorem State.setReg_grants (s : State) (k : RegKey) (v : Word) : (s.setReg k v).grants = s.grants := rfl
@[simp] theorem State.setReg_fillDue (s : State) (k : RegKey) (v : Word) : (s.setReg k v).fillDue = s.fillDue := rfl
@[simp] theorem State.setReg_holders (s : State) (k : RegKey) (v : Word) : (s.setReg k v).holders = s.holders := rfl
@[simp] theorem State.setReg_ppsWait (s : State) (k : RegKey) (v : Word) : (s.setReg k v).ppsWait = s.ppsWait := rfl
@[simp] theorem State.setReg_mbRun (s : State) (k : RegKey) (v : Word) : (s.setReg k v).mbRun = s.mbRun := rfl
@[simp] theorem State.setReg_casc (s : State) (k : RegKey) (v : Word) : (s.setReg k v).casc = s.casc := rfl
@[simp] theorem State.setReg_leaving (s : State) (k : RegKey) (v : Word) : (s.setReg k v).leaving = s.leaving := rfl
@[simp] theorem State.setReg_neigh (s : State) (k : RegKey) (v : Word) : (s.setReg k v).neigh = s.neigh := rfl
@[simp] theorem State.setReg_gop (s : State) (k : RegKey) (v : Word) : (s.setReg k v).gop = s.gop := rfl
@[simp] theorem State.setReg_holdPost (s : State) (k : RegKey) (v : Word) : (s.setReg k v).holdPost = s.holdPost := rfl
@[simp] theorem State.setReg_linkOut (s : State) (k : RegKey) (v : Word) : (s.setReg k v).linkOut = s.linkOut := rfl
@[simp] theorem State.setReg_ports (s : State) (k : RegKey) (v : Word) : (s.setReg k v).ports = s.ports := rfl
@[simp] theorem State.setReg_flows (s : State) (k : RegKey) (v : Word) : (s.setReg k v).flows = s.flows := rfl
@[simp] theorem State.setReg_grids (s : State) (k : RegKey) (v : Word) : (s.setReg k v).grids = s.grids := rfl
@[simp] theorem State.setReg_slew (s : State) (k : RegKey) (v : Word) : (s.setReg k v).slew = s.slew := rfl
@[simp] theorem State.setReg_tickCfg (s : State) (k : RegKey) (v : Word) : (s.setReg k v).tickCfg = s.tickCfg := rfl
@[simp] theorem State.setReg_holdoverDone (s : State) (k : RegKey) (v : Word) : (s.setReg k v).holdoverDone = s.holdoverDone := rfl
@[simp] theorem State.setReg_onceLocked (s : State) (k : RegKey) (v : Word) : (s.setReg k v).onceLocked = s.onceLocked := rfl
@[simp] theorem State.setReg_ppsPulse (s : State) (k : RegKey) (v : Word) : (s.setReg k v).ppsPulse = s.ppsPulse := rfl
@[simp] theorem State.setReg_lastSlot (s : State) (k : RegKey) (v : Word) : (s.setReg k v).lastSlot = s.lastSlot := rfl
@[simp] theorem State.setReg_uCap (s : State) (k : RegKey) (v : Word) : (s.setReg k v).uCap = s.uCap := rfl
@[simp] theorem State.setReg_uCut (s : State) (k : RegKey) (v : Word) : (s.setReg k v).uCut = s.uCut := rfl
@[simp] theorem State.setReg_credit (s : State) (k : RegKey) (v : Word) : (s.setReg k v).credit = s.credit := rfl
@[simp] theorem State.setReg_stallDue (s : State) (k : RegKey) (v : Word) : (s.setReg k v).stallDue = s.stallDue := rfl
@[simp] theorem State.setReg_pwrAlert (s : State) (k : RegKey) (v : Word) : (s.setReg k v).pwrAlert = s.pwrAlert := rfl
@[simp] theorem State.setReg_perst (s : State) (k : RegKey) (v : Word) : (s.setReg k v).perst = s.perst := rfl
@[simp] theorem State.setReg_tripped (s : State) (k : RegKey) (v : Word) : (s.setReg k v).tripped = s.tripped := rfl
@[simp] theorem State.setReg_switchOpen (s : State) (k : RegKey) (v : Word) : (s.setReg k v).switchOpen = s.switchOpen := rfl
@[simp] theorem State.setReg_powerGood (s : State) (k : RegKey) (v : Word) : (s.setReg k v).powerGood = s.powerGood := rfl
@[simp] theorem State.setReg_snapshotBegun (s : State) (k : RegKey) (v : Word) : (s.setReg k v).snapshotBegun = s.snapshotBegun := rfl
@[simp] theorem State.setReg_dispatchHeld (s : State) (k : RegKey) (v : Word) : (s.setReg k v).dispatchHeld = s.dispatchHeld := rfl
@[simp] theorem State.setReg_overSample (s : State) (k : RegKey) (v : Word) : (s.setReg k v).overSample = s.overSample := rfl
@[simp] theorem State.setReg_tripNow (s : State) (k : RegKey) (v : Word) : (s.setReg k v).tripNow = s.tripNow := rfl
@[simp] theorem State.setReg_tripStays (s : State) (k : RegKey) (v : Word) : (s.setReg k v).tripStays = s.tripStays := rfl
@[simp] theorem State.setReg_lastVolt (s : State) (k : RegKey) (v : Word) : (s.setReg k v).lastVolt = s.lastVolt := rfl
@[simp] theorem State.setReg_lmap (s : State) (k : RegKey) (v : Word) : (s.setReg k v).lmap = s.lmap := rfl
@[simp] theorem State.setReg_jmap (s : State) (k : RegKey) (v : Word) : (s.setReg k v).jmap = s.jmap := rfl
@[simp] theorem State.setReg_emap (s : State) (k : RegKey) (v : Word) : (s.setReg k v).emap = s.emap := rfl
@[simp] theorem State.setReg_suspects (s : State) (k : RegKey) (v : Word) : (s.setReg k v).suspects = s.suspects := rfl
@[simp] theorem State.setReg_spareCols (s : State) (k : RegKey) (v : Word) : (s.setReg k v).spareCols = s.spareCols := rfl
@[simp] theorem State.setReg_failing (s : State) (k : RegKey) (v : Word) : (s.setReg k v).failing = s.failing := rfl
@[simp] theorem State.setReg_bistNext (s : State) (k : RegKey) (v : Word) : (s.setReg k v).bistNext = s.bistNext := rfl
@[simp] theorem State.setReg_bistWave (s : State) (k : RegKey) (v : Word) : (s.setReg k v).bistWave = s.bistWave := rfl
@[simp] theorem State.setReg_upSince (s : State) (k : RegKey) (v : Word) : (s.setReg k v).upSince = s.upSince := rfl
@[simp] theorem State.setReg_readyAt (s : State) (k : RegKey) (v : Word) : (s.setReg k v).readyAt = s.readyAt := rfl
@[simp] theorem State.setReg_cold (s : State) (k : RegKey) (v : Word) : (s.setReg k v).cold = s.cold := rfl
@[simp] theorem State.setReg_resetting (s : State) (k : RegKey) (v : Word) : (s.setReg k v).resetting = s.resetting := rfl
@[simp] theorem State.setReg_dieLog (s : State) (k : RegKey) (v : Word) : (s.setReg k v).dieLog = s.dieLog := rfl
@[simp] theorem State.setReg_flashPend (s : State) (k : RegKey) (v : Word) : (s.setReg k v).flashPend = s.flashPend := rfl
@[simp] theorem State.setReg_flashLog (s : State) (k : RegKey) (v : Word) : (s.setReg k v).flashLog = s.flashLog := rfl
@[simp] theorem State.setReg_blockErases (s : State) (k : RegKey) (v : Word) : (s.setReg k v).blockErases = s.blockErases := rfl
@[simp] theorem State.setReg_worn (s : State) (k : RegKey) (v : Word) : (s.setReg k v).worn = s.worn := rfl
@[simp] theorem State.setReg_life (s : State) (k : RegKey) (v : Word) : (s.setReg k v).life = s.life := rfl
@[simp] theorem State.setReg_copies (s : State) (k : RegKey) (v : Word) : (s.setReg k v).copies = s.copies := rfl
@[simp] theorem State.setReg_sensors (s : State) (k : RegKey) (v : Word) : (s.setReg k v).sensors = s.sensors := rfl
@[simp] theorem State.setReg_slotA (s : State) (k : RegKey) (v : Word) : (s.setReg k v).slotA = s.slotA := rfl
@[simp] theorem State.setReg_slotB (s : State) (k : RegKey) (v : Word) : (s.setReg k v).slotB = s.slotB := rfl
@[simp] theorem State.setReg_staged (s : State) (k : RegKey) (v : Word) : (s.setReg k v).staged = s.staged := rfl
@[simp] theorem State.setReg_trialRun (s : State) (k : RegKey) (v : Word) : (s.setReg k v).trialRun = s.trialRun := rfl
@[simp] theorem State.setReg_fuse (s : State) (k : RegKey) (v : Word) : (s.setReg k v).fuse = s.fuse := rfl
@[simp] theorem State.setReg_reruns (s : State) (k : RegKey) (v : Word) : (s.setReg k v).reruns = s.reruns := rfl
@[simp] theorem State.setReg_bar4 (s : State) (k : RegKey) (v : Word) : (s.setReg k v).bar4 = s.bar4 := rfl
@[simp] theorem State.setReg_draws (s : State) (k : RegKey) (v : Word) : (s.setReg k v).draws = s.draws := rfl

/-! ### `setFld` -/

@[simp] theorem State.setFld_pending (s : State) (k : RegKey) (lo w x : Nat) : (s.setFld k lo w x).pending = s.pending := rfl
@[simp] theorem State.setFld_tk (s : State) (k : RegKey) (lo w x : Nat) : (s.setFld k lo w x).tk = s.tk := rfl
@[simp] theorem State.setFld_nextJid (s : State) (k : RegKey) (lo w x : Nat) : (s.setFld k lo w x).nextJid = s.nextJid := rfl
@[simp] theorem State.setFld_dev (s : State) (k : RegKey) (lo w x : Nat) : (s.setFld k lo w x).dev = s.dev := rfl
@[simp] theorem State.setFld_host (s : State) (k : RegKey) (lo w x : Nat) : (s.setFld k lo w x).host = s.host := rfl
@[simp] theorem State.setFld_site (s : State) (k : RegKey) (lo w x : Nat) : (s.setFld k lo w x).site = s.site := rfl
@[simp] theorem State.setFld_mbox (s : State) (k : RegKey) (lo w x : Nat) : (s.setFld k lo w x).mbox = s.mbox := rfl
@[simp] theorem State.setFld_mbReq (s : State) (k : RegKey) (lo w x : Nat) : (s.setFld k lo w x).mbReq = s.mbReq := rfl
@[simp] theorem State.setFld_mbGone (s : State) (k : RegKey) (lo w x : Nat) : (s.setFld k lo w x).mbGone = s.mbGone := rfl
@[simp] theorem State.setFld_mbMark (s : State) (k : RegKey) (lo w x : Nat) : (s.setFld k lo w x).mbMark = s.mbMark := rfl
@[simp] theorem State.setFld_poolErr (s : State) (k : RegKey) (lo w x : Nat) : (s.setFld k lo w x).poolErr = s.poolErr := rfl
@[simp] theorem State.setFld_dramErr (s : State) (k : RegKey) (lo w x : Nat) : (s.setFld k lo w x).dramErr = s.dramErr := rfl
@[simp] theorem State.setFld_rowCorr (s : State) (k : RegKey) (lo w x : Nat) : (s.setFld k lo w x).rowCorr = s.rowCorr := rfl
@[simp] theorem State.setFld_dieSeen (s : State) (k : RegKey) (lo w x : Nat) : (s.setFld k lo w x).dieSeen = s.dieSeen := rfl
@[simp] theorem State.setFld_rings (s : State) (k : RegKey) (lo w x : Nat) : (s.setFld k lo w x).rings = s.rings := rfl
@[simp] theorem State.setFld_cqs (s : State) (k : RegKey) (lo w x : Nat) : (s.setFld k lo w x).cqs = s.cqs := rfl
@[simp] theorem State.setFld_evRing (s : State) (k : RegKey) (lo w x : Nat) : (s.setFld k lo w x).evRing = s.evRing := rfl
@[simp] theorem State.setFld_evSeq (s : State) (k : RegKey) (lo w x : Nat) : (s.setFld k lo w x).evSeq = s.evSeq := rfl
@[simp] theorem State.setFld_evLost (s : State) (k : RegKey) (lo w x : Nat) : (s.setFld k lo w x).evLost = s.evLost := rfl
@[simp] theorem State.setFld_up (s : State) (k : RegKey) (lo w x : Nat) : (s.setFld k lo w x).up = s.up := rfl
@[simp] theorem State.setFld_cursors (s : State) (k : RegKey) (lo w x : Nat) : (s.setFld k lo w x).cursors = s.cursors := rfl
@[simp] theorem State.setFld_feat (s : State) (k : RegKey) (lo w x : Nat) : (s.setFld k lo w x).feat = s.feat := rfl
@[simp] theorem State.setFld_helloDone (s : State) (k : RegKey) (lo w x : Nat) : (s.setFld k lo w x).helloDone = s.helloDone := rfl
@[simp] theorem State.setFld_hostWait (s : State) (k : RegKey) (lo w x : Nat) : (s.setFld k lo w x).hostWait = s.hostWait := rfl
@[simp] theorem State.setFld_d3 (s : State) (k : RegKey) (lo w x : Nat) : (s.setFld k lo w x).d3 = s.d3 := rfl
@[simp] theorem State.setFld_readData (s : State) (k : RegKey) (lo w x : Nat) : (s.setFld k lo w x).readData = s.readData := rfl
@[simp] theorem State.setFld_groups (s : State) (k : RegKey) (lo w x : Nat) : (s.setFld k lo w x).groups = s.groups := rfl
@[simp] theorem State.setFld_jobs (s : State) (k : RegKey) (lo w x : Nat) : (s.setFld k lo w x).jobs = s.jobs := rfl
@[simp] theorem State.setFld_rounds (s : State) (k : RegKey) (lo w x : Nat) : (s.setFld k lo w x).rounds = s.rounds := rfl
@[simp] theorem State.setFld_acc (s : State) (k : RegKey) (lo w x : Nat) : (s.setFld k lo w x).acc = s.acc := rfl
@[simp] theorem State.setFld_accErr (s : State) (k : RegKey) (lo w x : Nat) : (s.setFld k lo w x).accErr = s.accErr := rfl
@[simp] theorem State.setFld_grp (s : State) (k : RegKey) (lo w x : Nat) : (s.setFld k lo w x).grp = s.grp := rfl
@[simp] theorem State.setFld_jets (s : State) (k : RegKey) (lo w x : Nat) : (s.setFld k lo w x).jets = s.jets := rfl
@[simp] theorem State.setFld_engines (s : State) (k : RegKey) (lo w x : Nat) : (s.setFld k lo w x).engines = s.engines := rfl
@[simp] theorem State.setFld_mon (s : State) (k : RegKey) (lo w x : Nat) : (s.setFld k lo w x).mon = s.mon := rfl
@[simp] theorem State.setFld_weirQ (s : State) (k : RegKey) (lo w x : Nat) : (s.setFld k lo w x).weirQ = s.weirQ := rfl
@[simp] theorem State.setFld_weirSeq (s : State) (k : RegKey) (lo w x : Nat) : (s.setFld k lo w x).weirSeq = s.weirSeq := rfl
@[simp] theorem State.setFld_haloQ (s : State) (k : RegKey) (lo w x : Nat) : (s.setFld k lo w x).haloQ = s.haloQ := rfl
@[simp] theorem State.setFld_profiles (s : State) (k : RegKey) (lo w x : Nat) : (s.setFld k lo w x).profiles = s.profiles := rfl
@[simp] theorem State.setFld_allocs (s : State) (k : RegKey) (lo w x : Nat) : (s.setFld k lo w x).allocs = s.allocs := rfl
@[simp] theorem State.setFld_plans (s : State) (k : RegKey) (lo w x : Nat) : (s.setFld k lo w x).plans = s.plans := rfl
@[simp] theorem State.setFld_grants (s : State) (k : RegKey) (lo w x : Nat) : (s.setFld k lo w x).grants = s.grants := rfl
@[simp] theorem State.setFld_fillDue (s : State) (k : RegKey) (lo w x : Nat) : (s.setFld k lo w x).fillDue = s.fillDue := rfl
@[simp] theorem State.setFld_holders (s : State) (k : RegKey) (lo w x : Nat) : (s.setFld k lo w x).holders = s.holders := rfl
@[simp] theorem State.setFld_ppsWait (s : State) (k : RegKey) (lo w x : Nat) : (s.setFld k lo w x).ppsWait = s.ppsWait := rfl
@[simp] theorem State.setFld_mbRun (s : State) (k : RegKey) (lo w x : Nat) : (s.setFld k lo w x).mbRun = s.mbRun := rfl
@[simp] theorem State.setFld_casc (s : State) (k : RegKey) (lo w x : Nat) : (s.setFld k lo w x).casc = s.casc := rfl
@[simp] theorem State.setFld_leaving (s : State) (k : RegKey) (lo w x : Nat) : (s.setFld k lo w x).leaving = s.leaving := rfl
@[simp] theorem State.setFld_neigh (s : State) (k : RegKey) (lo w x : Nat) : (s.setFld k lo w x).neigh = s.neigh := rfl
@[simp] theorem State.setFld_gop (s : State) (k : RegKey) (lo w x : Nat) : (s.setFld k lo w x).gop = s.gop := rfl
@[simp] theorem State.setFld_holdPost (s : State) (k : RegKey) (lo w x : Nat) : (s.setFld k lo w x).holdPost = s.holdPost := rfl
@[simp] theorem State.setFld_linkOut (s : State) (k : RegKey) (lo w x : Nat) : (s.setFld k lo w x).linkOut = s.linkOut := rfl
@[simp] theorem State.setFld_ports (s : State) (k : RegKey) (lo w x : Nat) : (s.setFld k lo w x).ports = s.ports := rfl
@[simp] theorem State.setFld_flows (s : State) (k : RegKey) (lo w x : Nat) : (s.setFld k lo w x).flows = s.flows := rfl
@[simp] theorem State.setFld_grids (s : State) (k : RegKey) (lo w x : Nat) : (s.setFld k lo w x).grids = s.grids := rfl
@[simp] theorem State.setFld_slew (s : State) (k : RegKey) (lo w x : Nat) : (s.setFld k lo w x).slew = s.slew := rfl
@[simp] theorem State.setFld_tickCfg (s : State) (k : RegKey) (lo w x : Nat) : (s.setFld k lo w x).tickCfg = s.tickCfg := rfl
@[simp] theorem State.setFld_holdoverDone (s : State) (k : RegKey) (lo w x : Nat) : (s.setFld k lo w x).holdoverDone = s.holdoverDone := rfl
@[simp] theorem State.setFld_onceLocked (s : State) (k : RegKey) (lo w x : Nat) : (s.setFld k lo w x).onceLocked = s.onceLocked := rfl
@[simp] theorem State.setFld_ppsPulse (s : State) (k : RegKey) (lo w x : Nat) : (s.setFld k lo w x).ppsPulse = s.ppsPulse := rfl
@[simp] theorem State.setFld_lastSlot (s : State) (k : RegKey) (lo w x : Nat) : (s.setFld k lo w x).lastSlot = s.lastSlot := rfl
@[simp] theorem State.setFld_uCap (s : State) (k : RegKey) (lo w x : Nat) : (s.setFld k lo w x).uCap = s.uCap := rfl
@[simp] theorem State.setFld_uCut (s : State) (k : RegKey) (lo w x : Nat) : (s.setFld k lo w x).uCut = s.uCut := rfl
@[simp] theorem State.setFld_credit (s : State) (k : RegKey) (lo w x : Nat) : (s.setFld k lo w x).credit = s.credit := rfl
@[simp] theorem State.setFld_stallDue (s : State) (k : RegKey) (lo w x : Nat) : (s.setFld k lo w x).stallDue = s.stallDue := rfl
@[simp] theorem State.setFld_pwrAlert (s : State) (k : RegKey) (lo w x : Nat) : (s.setFld k lo w x).pwrAlert = s.pwrAlert := rfl
@[simp] theorem State.setFld_perst (s : State) (k : RegKey) (lo w x : Nat) : (s.setFld k lo w x).perst = s.perst := rfl
@[simp] theorem State.setFld_tripped (s : State) (k : RegKey) (lo w x : Nat) : (s.setFld k lo w x).tripped = s.tripped := rfl
@[simp] theorem State.setFld_switchOpen (s : State) (k : RegKey) (lo w x : Nat) : (s.setFld k lo w x).switchOpen = s.switchOpen := rfl
@[simp] theorem State.setFld_powerGood (s : State) (k : RegKey) (lo w x : Nat) : (s.setFld k lo w x).powerGood = s.powerGood := rfl
@[simp] theorem State.setFld_snapshotBegun (s : State) (k : RegKey) (lo w x : Nat) : (s.setFld k lo w x).snapshotBegun = s.snapshotBegun := rfl
@[simp] theorem State.setFld_dispatchHeld (s : State) (k : RegKey) (lo w x : Nat) : (s.setFld k lo w x).dispatchHeld = s.dispatchHeld := rfl
@[simp] theorem State.setFld_overSample (s : State) (k : RegKey) (lo w x : Nat) : (s.setFld k lo w x).overSample = s.overSample := rfl
@[simp] theorem State.setFld_tripNow (s : State) (k : RegKey) (lo w x : Nat) : (s.setFld k lo w x).tripNow = s.tripNow := rfl
@[simp] theorem State.setFld_tripStays (s : State) (k : RegKey) (lo w x : Nat) : (s.setFld k lo w x).tripStays = s.tripStays := rfl
@[simp] theorem State.setFld_lastVolt (s : State) (k : RegKey) (lo w x : Nat) : (s.setFld k lo w x).lastVolt = s.lastVolt := rfl
@[simp] theorem State.setFld_lmap (s : State) (k : RegKey) (lo w x : Nat) : (s.setFld k lo w x).lmap = s.lmap := rfl
@[simp] theorem State.setFld_jmap (s : State) (k : RegKey) (lo w x : Nat) : (s.setFld k lo w x).jmap = s.jmap := rfl
@[simp] theorem State.setFld_emap (s : State) (k : RegKey) (lo w x : Nat) : (s.setFld k lo w x).emap = s.emap := rfl
@[simp] theorem State.setFld_suspects (s : State) (k : RegKey) (lo w x : Nat) : (s.setFld k lo w x).suspects = s.suspects := rfl
@[simp] theorem State.setFld_spareCols (s : State) (k : RegKey) (lo w x : Nat) : (s.setFld k lo w x).spareCols = s.spareCols := rfl
@[simp] theorem State.setFld_failing (s : State) (k : RegKey) (lo w x : Nat) : (s.setFld k lo w x).failing = s.failing := rfl
@[simp] theorem State.setFld_bistNext (s : State) (k : RegKey) (lo w x : Nat) : (s.setFld k lo w x).bistNext = s.bistNext := rfl
@[simp] theorem State.setFld_bistWave (s : State) (k : RegKey) (lo w x : Nat) : (s.setFld k lo w x).bistWave = s.bistWave := rfl
@[simp] theorem State.setFld_upSince (s : State) (k : RegKey) (lo w x : Nat) : (s.setFld k lo w x).upSince = s.upSince := rfl
@[simp] theorem State.setFld_readyAt (s : State) (k : RegKey) (lo w x : Nat) : (s.setFld k lo w x).readyAt = s.readyAt := rfl
@[simp] theorem State.setFld_cold (s : State) (k : RegKey) (lo w x : Nat) : (s.setFld k lo w x).cold = s.cold := rfl
@[simp] theorem State.setFld_resetting (s : State) (k : RegKey) (lo w x : Nat) : (s.setFld k lo w x).resetting = s.resetting := rfl
@[simp] theorem State.setFld_dieLog (s : State) (k : RegKey) (lo w x : Nat) : (s.setFld k lo w x).dieLog = s.dieLog := rfl
@[simp] theorem State.setFld_flashPend (s : State) (k : RegKey) (lo w x : Nat) : (s.setFld k lo w x).flashPend = s.flashPend := rfl
@[simp] theorem State.setFld_flashLog (s : State) (k : RegKey) (lo w x : Nat) : (s.setFld k lo w x).flashLog = s.flashLog := rfl
@[simp] theorem State.setFld_blockErases (s : State) (k : RegKey) (lo w x : Nat) : (s.setFld k lo w x).blockErases = s.blockErases := rfl
@[simp] theorem State.setFld_worn (s : State) (k : RegKey) (lo w x : Nat) : (s.setFld k lo w x).worn = s.worn := rfl
@[simp] theorem State.setFld_life (s : State) (k : RegKey) (lo w x : Nat) : (s.setFld k lo w x).life = s.life := rfl
@[simp] theorem State.setFld_copies (s : State) (k : RegKey) (lo w x : Nat) : (s.setFld k lo w x).copies = s.copies := rfl
@[simp] theorem State.setFld_sensors (s : State) (k : RegKey) (lo w x : Nat) : (s.setFld k lo w x).sensors = s.sensors := rfl
@[simp] theorem State.setFld_slotA (s : State) (k : RegKey) (lo w x : Nat) : (s.setFld k lo w x).slotA = s.slotA := rfl
@[simp] theorem State.setFld_slotB (s : State) (k : RegKey) (lo w x : Nat) : (s.setFld k lo w x).slotB = s.slotB := rfl
@[simp] theorem State.setFld_staged (s : State) (k : RegKey) (lo w x : Nat) : (s.setFld k lo w x).staged = s.staged := rfl
@[simp] theorem State.setFld_trialRun (s : State) (k : RegKey) (lo w x : Nat) : (s.setFld k lo w x).trialRun = s.trialRun := rfl
@[simp] theorem State.setFld_fuse (s : State) (k : RegKey) (lo w x : Nat) : (s.setFld k lo w x).fuse = s.fuse := rfl
@[simp] theorem State.setFld_reruns (s : State) (k : RegKey) (lo w x : Nat) : (s.setFld k lo w x).reruns = s.reruns := rfl
@[simp] theorem State.setFld_bar4 (s : State) (k : RegKey) (lo w x : Nat) : (s.setFld k lo w x).bar4 = s.bar4 := rfl
@[simp] theorem State.setFld_draws (s : State) (k : RegKey) (lo w x : Nat) : (s.setFld k lo w x).draws = s.draws := rfl

/-! ### `bump` -/

@[simp] theorem State.bump_pending (s : State) (k : RegKey) (n : Nat) : (s.bump k n).pending = s.pending := rfl
@[simp] theorem State.bump_tk (s : State) (k : RegKey) (n : Nat) : (s.bump k n).tk = s.tk := rfl
@[simp] theorem State.bump_nextJid (s : State) (k : RegKey) (n : Nat) : (s.bump k n).nextJid = s.nextJid := rfl
@[simp] theorem State.bump_dev (s : State) (k : RegKey) (n : Nat) : (s.bump k n).dev = s.dev := rfl
@[simp] theorem State.bump_host (s : State) (k : RegKey) (n : Nat) : (s.bump k n).host = s.host := rfl
@[simp] theorem State.bump_site (s : State) (k : RegKey) (n : Nat) : (s.bump k n).site = s.site := rfl
@[simp] theorem State.bump_mbox (s : State) (k : RegKey) (n : Nat) : (s.bump k n).mbox = s.mbox := rfl
@[simp] theorem State.bump_mbReq (s : State) (k : RegKey) (n : Nat) : (s.bump k n).mbReq = s.mbReq := rfl
@[simp] theorem State.bump_mbGone (s : State) (k : RegKey) (n : Nat) : (s.bump k n).mbGone = s.mbGone := rfl
@[simp] theorem State.bump_mbMark (s : State) (k : RegKey) (n : Nat) : (s.bump k n).mbMark = s.mbMark := rfl
@[simp] theorem State.bump_poolErr (s : State) (k : RegKey) (n : Nat) : (s.bump k n).poolErr = s.poolErr := rfl
@[simp] theorem State.bump_dramErr (s : State) (k : RegKey) (n : Nat) : (s.bump k n).dramErr = s.dramErr := rfl
@[simp] theorem State.bump_rowCorr (s : State) (k : RegKey) (n : Nat) : (s.bump k n).rowCorr = s.rowCorr := rfl
@[simp] theorem State.bump_dieSeen (s : State) (k : RegKey) (n : Nat) : (s.bump k n).dieSeen = s.dieSeen := rfl
@[simp] theorem State.bump_rings (s : State) (k : RegKey) (n : Nat) : (s.bump k n).rings = s.rings := rfl
@[simp] theorem State.bump_cqs (s : State) (k : RegKey) (n : Nat) : (s.bump k n).cqs = s.cqs := rfl
@[simp] theorem State.bump_evRing (s : State) (k : RegKey) (n : Nat) : (s.bump k n).evRing = s.evRing := rfl
@[simp] theorem State.bump_evSeq (s : State) (k : RegKey) (n : Nat) : (s.bump k n).evSeq = s.evSeq := rfl
@[simp] theorem State.bump_evLost (s : State) (k : RegKey) (n : Nat) : (s.bump k n).evLost = s.evLost := rfl
@[simp] theorem State.bump_up (s : State) (k : RegKey) (n : Nat) : (s.bump k n).up = s.up := rfl
@[simp] theorem State.bump_cursors (s : State) (k : RegKey) (n : Nat) : (s.bump k n).cursors = s.cursors := rfl
@[simp] theorem State.bump_feat (s : State) (k : RegKey) (n : Nat) : (s.bump k n).feat = s.feat := rfl
@[simp] theorem State.bump_helloDone (s : State) (k : RegKey) (n : Nat) : (s.bump k n).helloDone = s.helloDone := rfl
@[simp] theorem State.bump_hostWait (s : State) (k : RegKey) (n : Nat) : (s.bump k n).hostWait = s.hostWait := rfl
@[simp] theorem State.bump_d3 (s : State) (k : RegKey) (n : Nat) : (s.bump k n).d3 = s.d3 := rfl
@[simp] theorem State.bump_readData (s : State) (k : RegKey) (n : Nat) : (s.bump k n).readData = s.readData := rfl
@[simp] theorem State.bump_groups (s : State) (k : RegKey) (n : Nat) : (s.bump k n).groups = s.groups := rfl
@[simp] theorem State.bump_jobs (s : State) (k : RegKey) (n : Nat) : (s.bump k n).jobs = s.jobs := rfl
@[simp] theorem State.bump_rounds (s : State) (k : RegKey) (n : Nat) : (s.bump k n).rounds = s.rounds := rfl
@[simp] theorem State.bump_acc (s : State) (k : RegKey) (n : Nat) : (s.bump k n).acc = s.acc := rfl
@[simp] theorem State.bump_accErr (s : State) (k : RegKey) (n : Nat) : (s.bump k n).accErr = s.accErr := rfl
@[simp] theorem State.bump_grp (s : State) (k : RegKey) (n : Nat) : (s.bump k n).grp = s.grp := rfl
@[simp] theorem State.bump_jets (s : State) (k : RegKey) (n : Nat) : (s.bump k n).jets = s.jets := rfl
@[simp] theorem State.bump_engines (s : State) (k : RegKey) (n : Nat) : (s.bump k n).engines = s.engines := rfl
@[simp] theorem State.bump_mon (s : State) (k : RegKey) (n : Nat) : (s.bump k n).mon = s.mon := rfl
@[simp] theorem State.bump_weirQ (s : State) (k : RegKey) (n : Nat) : (s.bump k n).weirQ = s.weirQ := rfl
@[simp] theorem State.bump_weirSeq (s : State) (k : RegKey) (n : Nat) : (s.bump k n).weirSeq = s.weirSeq := rfl
@[simp] theorem State.bump_haloQ (s : State) (k : RegKey) (n : Nat) : (s.bump k n).haloQ = s.haloQ := rfl
@[simp] theorem State.bump_profiles (s : State) (k : RegKey) (n : Nat) : (s.bump k n).profiles = s.profiles := rfl
@[simp] theorem State.bump_allocs (s : State) (k : RegKey) (n : Nat) : (s.bump k n).allocs = s.allocs := rfl
@[simp] theorem State.bump_plans (s : State) (k : RegKey) (n : Nat) : (s.bump k n).plans = s.plans := rfl
@[simp] theorem State.bump_grants (s : State) (k : RegKey) (n : Nat) : (s.bump k n).grants = s.grants := rfl
@[simp] theorem State.bump_fillDue (s : State) (k : RegKey) (n : Nat) : (s.bump k n).fillDue = s.fillDue := rfl
@[simp] theorem State.bump_holders (s : State) (k : RegKey) (n : Nat) : (s.bump k n).holders = s.holders := rfl
@[simp] theorem State.bump_ppsWait (s : State) (k : RegKey) (n : Nat) : (s.bump k n).ppsWait = s.ppsWait := rfl
@[simp] theorem State.bump_mbRun (s : State) (k : RegKey) (n : Nat) : (s.bump k n).mbRun = s.mbRun := rfl
@[simp] theorem State.bump_casc (s : State) (k : RegKey) (n : Nat) : (s.bump k n).casc = s.casc := rfl
@[simp] theorem State.bump_leaving (s : State) (k : RegKey) (n : Nat) : (s.bump k n).leaving = s.leaving := rfl
@[simp] theorem State.bump_neigh (s : State) (k : RegKey) (n : Nat) : (s.bump k n).neigh = s.neigh := rfl
@[simp] theorem State.bump_gop (s : State) (k : RegKey) (n : Nat) : (s.bump k n).gop = s.gop := rfl
@[simp] theorem State.bump_holdPost (s : State) (k : RegKey) (n : Nat) : (s.bump k n).holdPost = s.holdPost := rfl
@[simp] theorem State.bump_linkOut (s : State) (k : RegKey) (n : Nat) : (s.bump k n).linkOut = s.linkOut := rfl
@[simp] theorem State.bump_ports (s : State) (k : RegKey) (n : Nat) : (s.bump k n).ports = s.ports := rfl
@[simp] theorem State.bump_flows (s : State) (k : RegKey) (n : Nat) : (s.bump k n).flows = s.flows := rfl
@[simp] theorem State.bump_grids (s : State) (k : RegKey) (n : Nat) : (s.bump k n).grids = s.grids := rfl
@[simp] theorem State.bump_slew (s : State) (k : RegKey) (n : Nat) : (s.bump k n).slew = s.slew := rfl
@[simp] theorem State.bump_tickCfg (s : State) (k : RegKey) (n : Nat) : (s.bump k n).tickCfg = s.tickCfg := rfl
@[simp] theorem State.bump_holdoverDone (s : State) (k : RegKey) (n : Nat) : (s.bump k n).holdoverDone = s.holdoverDone := rfl
@[simp] theorem State.bump_onceLocked (s : State) (k : RegKey) (n : Nat) : (s.bump k n).onceLocked = s.onceLocked := rfl
@[simp] theorem State.bump_ppsPulse (s : State) (k : RegKey) (n : Nat) : (s.bump k n).ppsPulse = s.ppsPulse := rfl
@[simp] theorem State.bump_lastSlot (s : State) (k : RegKey) (n : Nat) : (s.bump k n).lastSlot = s.lastSlot := rfl
@[simp] theorem State.bump_uCap (s : State) (k : RegKey) (n : Nat) : (s.bump k n).uCap = s.uCap := rfl
@[simp] theorem State.bump_uCut (s : State) (k : RegKey) (n : Nat) : (s.bump k n).uCut = s.uCut := rfl
@[simp] theorem State.bump_credit (s : State) (k : RegKey) (n : Nat) : (s.bump k n).credit = s.credit := rfl
@[simp] theorem State.bump_stallDue (s : State) (k : RegKey) (n : Nat) : (s.bump k n).stallDue = s.stallDue := rfl
@[simp] theorem State.bump_pwrAlert (s : State) (k : RegKey) (n : Nat) : (s.bump k n).pwrAlert = s.pwrAlert := rfl
@[simp] theorem State.bump_perst (s : State) (k : RegKey) (n : Nat) : (s.bump k n).perst = s.perst := rfl
@[simp] theorem State.bump_tripped (s : State) (k : RegKey) (n : Nat) : (s.bump k n).tripped = s.tripped := rfl
@[simp] theorem State.bump_switchOpen (s : State) (k : RegKey) (n : Nat) : (s.bump k n).switchOpen = s.switchOpen := rfl
@[simp] theorem State.bump_powerGood (s : State) (k : RegKey) (n : Nat) : (s.bump k n).powerGood = s.powerGood := rfl
@[simp] theorem State.bump_snapshotBegun (s : State) (k : RegKey) (n : Nat) : (s.bump k n).snapshotBegun = s.snapshotBegun := rfl
@[simp] theorem State.bump_dispatchHeld (s : State) (k : RegKey) (n : Nat) : (s.bump k n).dispatchHeld = s.dispatchHeld := rfl
@[simp] theorem State.bump_overSample (s : State) (k : RegKey) (n : Nat) : (s.bump k n).overSample = s.overSample := rfl
@[simp] theorem State.bump_tripNow (s : State) (k : RegKey) (n : Nat) : (s.bump k n).tripNow = s.tripNow := rfl
@[simp] theorem State.bump_tripStays (s : State) (k : RegKey) (n : Nat) : (s.bump k n).tripStays = s.tripStays := rfl
@[simp] theorem State.bump_lastVolt (s : State) (k : RegKey) (n : Nat) : (s.bump k n).lastVolt = s.lastVolt := rfl
@[simp] theorem State.bump_lmap (s : State) (k : RegKey) (n : Nat) : (s.bump k n).lmap = s.lmap := rfl
@[simp] theorem State.bump_jmap (s : State) (k : RegKey) (n : Nat) : (s.bump k n).jmap = s.jmap := rfl
@[simp] theorem State.bump_emap (s : State) (k : RegKey) (n : Nat) : (s.bump k n).emap = s.emap := rfl
@[simp] theorem State.bump_suspects (s : State) (k : RegKey) (n : Nat) : (s.bump k n).suspects = s.suspects := rfl
@[simp] theorem State.bump_spareCols (s : State) (k : RegKey) (n : Nat) : (s.bump k n).spareCols = s.spareCols := rfl
@[simp] theorem State.bump_failing (s : State) (k : RegKey) (n : Nat) : (s.bump k n).failing = s.failing := rfl
@[simp] theorem State.bump_bistNext (s : State) (k : RegKey) (n : Nat) : (s.bump k n).bistNext = s.bistNext := rfl
@[simp] theorem State.bump_bistWave (s : State) (k : RegKey) (n : Nat) : (s.bump k n).bistWave = s.bistWave := rfl
@[simp] theorem State.bump_upSince (s : State) (k : RegKey) (n : Nat) : (s.bump k n).upSince = s.upSince := rfl
@[simp] theorem State.bump_readyAt (s : State) (k : RegKey) (n : Nat) : (s.bump k n).readyAt = s.readyAt := rfl
@[simp] theorem State.bump_cold (s : State) (k : RegKey) (n : Nat) : (s.bump k n).cold = s.cold := rfl
@[simp] theorem State.bump_resetting (s : State) (k : RegKey) (n : Nat) : (s.bump k n).resetting = s.resetting := rfl
@[simp] theorem State.bump_dieLog (s : State) (k : RegKey) (n : Nat) : (s.bump k n).dieLog = s.dieLog := rfl
@[simp] theorem State.bump_flashPend (s : State) (k : RegKey) (n : Nat) : (s.bump k n).flashPend = s.flashPend := rfl
@[simp] theorem State.bump_flashLog (s : State) (k : RegKey) (n : Nat) : (s.bump k n).flashLog = s.flashLog := rfl
@[simp] theorem State.bump_blockErases (s : State) (k : RegKey) (n : Nat) : (s.bump k n).blockErases = s.blockErases := rfl
@[simp] theorem State.bump_worn (s : State) (k : RegKey) (n : Nat) : (s.bump k n).worn = s.worn := rfl
@[simp] theorem State.bump_life (s : State) (k : RegKey) (n : Nat) : (s.bump k n).life = s.life := rfl
@[simp] theorem State.bump_copies (s : State) (k : RegKey) (n : Nat) : (s.bump k n).copies = s.copies := rfl
@[simp] theorem State.bump_sensors (s : State) (k : RegKey) (n : Nat) : (s.bump k n).sensors = s.sensors := rfl
@[simp] theorem State.bump_slotA (s : State) (k : RegKey) (n : Nat) : (s.bump k n).slotA = s.slotA := rfl
@[simp] theorem State.bump_slotB (s : State) (k : RegKey) (n : Nat) : (s.bump k n).slotB = s.slotB := rfl
@[simp] theorem State.bump_staged (s : State) (k : RegKey) (n : Nat) : (s.bump k n).staged = s.staged := rfl
@[simp] theorem State.bump_trialRun (s : State) (k : RegKey) (n : Nat) : (s.bump k n).trialRun = s.trialRun := rfl
@[simp] theorem State.bump_fuse (s : State) (k : RegKey) (n : Nat) : (s.bump k n).fuse = s.fuse := rfl
@[simp] theorem State.bump_reruns (s : State) (k : RegKey) (n : Nat) : (s.bump k n).reruns = s.reruns := rfl
@[simp] theorem State.bump_bar4 (s : State) (k : RegKey) (n : Nat) : (s.bump k n).bar4 = s.bar4 := rfl
@[simp] theorem State.bump_draws (s : State) (k : RegKey) (n : Nat) : (s.bump k n).draws = s.draws := rfl

/-! ### `setOwn` -/

@[simp] theorem State.setOwn_pending (s : State) (i : Nat) (b : Bool) : (s.setOwn i b).pending = s.pending := rfl
@[simp] theorem State.setOwn_tk (s : State) (i : Nat) (b : Bool) : (s.setOwn i b).tk = s.tk := rfl
@[simp] theorem State.setOwn_nextJid (s : State) (i : Nat) (b : Bool) : (s.setOwn i b).nextJid = s.nextJid := rfl
@[simp] theorem State.setOwn_regs (s : State) (i : Nat) (b : Bool) : (s.setOwn i b).regs = s.regs := rfl
@[simp] theorem State.setOwn_dev (s : State) (i : Nat) (b : Bool) : (s.setOwn i b).dev = s.dev := rfl
@[simp] theorem State.setOwn_host (s : State) (i : Nat) (b : Bool) : (s.setOwn i b).host = s.host := rfl
@[simp] theorem State.setOwn_site (s : State) (i : Nat) (b : Bool) : (s.setOwn i b).site = s.site := rfl
@[simp] theorem State.setOwn_mbox (s : State) (i : Nat) (b : Bool) : (s.setOwn i b).mbox = s.mbox := rfl
@[simp] theorem State.setOwn_mbReq (s : State) (i : Nat) (b : Bool) : (s.setOwn i b).mbReq = s.mbReq := rfl
@[simp] theorem State.setOwn_mbGone (s : State) (i : Nat) (b : Bool) : (s.setOwn i b).mbGone = s.mbGone := rfl
@[simp] theorem State.setOwn_mbMark (s : State) (i : Nat) (b : Bool) : (s.setOwn i b).mbMark = s.mbMark := rfl
@[simp] theorem State.setOwn_poolErr (s : State) (i : Nat) (b : Bool) : (s.setOwn i b).poolErr = s.poolErr := rfl
@[simp] theorem State.setOwn_dramErr (s : State) (i : Nat) (b : Bool) : (s.setOwn i b).dramErr = s.dramErr := rfl
@[simp] theorem State.setOwn_rowCorr (s : State) (i : Nat) (b : Bool) : (s.setOwn i b).rowCorr = s.rowCorr := rfl
@[simp] theorem State.setOwn_dieSeen (s : State) (i : Nat) (b : Bool) : (s.setOwn i b).dieSeen = s.dieSeen := rfl
@[simp] theorem State.setOwn_rings (s : State) (i : Nat) (b : Bool) : (s.setOwn i b).rings = s.rings := rfl
@[simp] theorem State.setOwn_cqs (s : State) (i : Nat) (b : Bool) : (s.setOwn i b).cqs = s.cqs := rfl
@[simp] theorem State.setOwn_evRing (s : State) (i : Nat) (b : Bool) : (s.setOwn i b).evRing = s.evRing := rfl
@[simp] theorem State.setOwn_evSeq (s : State) (i : Nat) (b : Bool) : (s.setOwn i b).evSeq = s.evSeq := rfl
@[simp] theorem State.setOwn_evLost (s : State) (i : Nat) (b : Bool) : (s.setOwn i b).evLost = s.evLost := rfl
@[simp] theorem State.setOwn_cursors (s : State) (i : Nat) (b : Bool) : (s.setOwn i b).cursors = s.cursors := rfl
@[simp] theorem State.setOwn_feat (s : State) (i : Nat) (b : Bool) : (s.setOwn i b).feat = s.feat := rfl
@[simp] theorem State.setOwn_helloDone (s : State) (i : Nat) (b : Bool) : (s.setOwn i b).helloDone = s.helloDone := rfl
@[simp] theorem State.setOwn_hostWait (s : State) (i : Nat) (b : Bool) : (s.setOwn i b).hostWait = s.hostWait := rfl
@[simp] theorem State.setOwn_d3 (s : State) (i : Nat) (b : Bool) : (s.setOwn i b).d3 = s.d3 := rfl
@[simp] theorem State.setOwn_readData (s : State) (i : Nat) (b : Bool) : (s.setOwn i b).readData = s.readData := rfl
@[simp] theorem State.setOwn_groups (s : State) (i : Nat) (b : Bool) : (s.setOwn i b).groups = s.groups := rfl
@[simp] theorem State.setOwn_jobs (s : State) (i : Nat) (b : Bool) : (s.setOwn i b).jobs = s.jobs := rfl
@[simp] theorem State.setOwn_rounds (s : State) (i : Nat) (b : Bool) : (s.setOwn i b).rounds = s.rounds := rfl
@[simp] theorem State.setOwn_acc (s : State) (i : Nat) (b : Bool) : (s.setOwn i b).acc = s.acc := rfl
@[simp] theorem State.setOwn_accErr (s : State) (i : Nat) (b : Bool) : (s.setOwn i b).accErr = s.accErr := rfl
@[simp] theorem State.setOwn_grp (s : State) (i : Nat) (b : Bool) : (s.setOwn i b).grp = s.grp := rfl
@[simp] theorem State.setOwn_jets (s : State) (i : Nat) (b : Bool) : (s.setOwn i b).jets = s.jets := rfl
@[simp] theorem State.setOwn_engines (s : State) (i : Nat) (b : Bool) : (s.setOwn i b).engines = s.engines := rfl
@[simp] theorem State.setOwn_mon (s : State) (i : Nat) (b : Bool) : (s.setOwn i b).mon = s.mon := rfl
@[simp] theorem State.setOwn_weirQ (s : State) (i : Nat) (b : Bool) : (s.setOwn i b).weirQ = s.weirQ := rfl
@[simp] theorem State.setOwn_weirSeq (s : State) (i : Nat) (b : Bool) : (s.setOwn i b).weirSeq = s.weirSeq := rfl
@[simp] theorem State.setOwn_haloQ (s : State) (i : Nat) (b : Bool) : (s.setOwn i b).haloQ = s.haloQ := rfl
@[simp] theorem State.setOwn_profiles (s : State) (i : Nat) (b : Bool) : (s.setOwn i b).profiles = s.profiles := rfl
@[simp] theorem State.setOwn_allocs (s : State) (i : Nat) (b : Bool) : (s.setOwn i b).allocs = s.allocs := rfl
@[simp] theorem State.setOwn_plans (s : State) (i : Nat) (b : Bool) : (s.setOwn i b).plans = s.plans := rfl
@[simp] theorem State.setOwn_grants (s : State) (i : Nat) (b : Bool) : (s.setOwn i b).grants = s.grants := rfl
@[simp] theorem State.setOwn_fillDue (s : State) (i : Nat) (b : Bool) : (s.setOwn i b).fillDue = s.fillDue := rfl
@[simp] theorem State.setOwn_holders (s : State) (i : Nat) (b : Bool) : (s.setOwn i b).holders = s.holders := rfl
@[simp] theorem State.setOwn_ppsWait (s : State) (i : Nat) (b : Bool) : (s.setOwn i b).ppsWait = s.ppsWait := rfl
@[simp] theorem State.setOwn_mbRun (s : State) (i : Nat) (b : Bool) : (s.setOwn i b).mbRun = s.mbRun := rfl
@[simp] theorem State.setOwn_casc (s : State) (i : Nat) (b : Bool) : (s.setOwn i b).casc = s.casc := rfl
@[simp] theorem State.setOwn_leaving (s : State) (i : Nat) (b : Bool) : (s.setOwn i b).leaving = s.leaving := rfl
@[simp] theorem State.setOwn_neigh (s : State) (i : Nat) (b : Bool) : (s.setOwn i b).neigh = s.neigh := rfl
@[simp] theorem State.setOwn_gop (s : State) (i : Nat) (b : Bool) : (s.setOwn i b).gop = s.gop := rfl
@[simp] theorem State.setOwn_holdPost (s : State) (i : Nat) (b : Bool) : (s.setOwn i b).holdPost = s.holdPost := rfl
@[simp] theorem State.setOwn_linkOut (s : State) (i : Nat) (b : Bool) : (s.setOwn i b).linkOut = s.linkOut := rfl
@[simp] theorem State.setOwn_ports (s : State) (i : Nat) (b : Bool) : (s.setOwn i b).ports = s.ports := rfl
@[simp] theorem State.setOwn_flows (s : State) (i : Nat) (b : Bool) : (s.setOwn i b).flows = s.flows := rfl
@[simp] theorem State.setOwn_grids (s : State) (i : Nat) (b : Bool) : (s.setOwn i b).grids = s.grids := rfl
@[simp] theorem State.setOwn_slew (s : State) (i : Nat) (b : Bool) : (s.setOwn i b).slew = s.slew := rfl
@[simp] theorem State.setOwn_tickCfg (s : State) (i : Nat) (b : Bool) : (s.setOwn i b).tickCfg = s.tickCfg := rfl
@[simp] theorem State.setOwn_holdoverDone (s : State) (i : Nat) (b : Bool) : (s.setOwn i b).holdoverDone = s.holdoverDone := rfl
@[simp] theorem State.setOwn_onceLocked (s : State) (i : Nat) (b : Bool) : (s.setOwn i b).onceLocked = s.onceLocked := rfl
@[simp] theorem State.setOwn_ppsPulse (s : State) (i : Nat) (b : Bool) : (s.setOwn i b).ppsPulse = s.ppsPulse := rfl
@[simp] theorem State.setOwn_lastSlot (s : State) (i : Nat) (b : Bool) : (s.setOwn i b).lastSlot = s.lastSlot := rfl
@[simp] theorem State.setOwn_uCap (s : State) (i : Nat) (b : Bool) : (s.setOwn i b).uCap = s.uCap := rfl
@[simp] theorem State.setOwn_uCut (s : State) (i : Nat) (b : Bool) : (s.setOwn i b).uCut = s.uCut := rfl
@[simp] theorem State.setOwn_credit (s : State) (i : Nat) (b : Bool) : (s.setOwn i b).credit = s.credit := rfl
@[simp] theorem State.setOwn_stallDue (s : State) (i : Nat) (b : Bool) : (s.setOwn i b).stallDue = s.stallDue := rfl
@[simp] theorem State.setOwn_pwrAlert (s : State) (i : Nat) (b : Bool) : (s.setOwn i b).pwrAlert = s.pwrAlert := rfl
@[simp] theorem State.setOwn_perst (s : State) (i : Nat) (b : Bool) : (s.setOwn i b).perst = s.perst := rfl
@[simp] theorem State.setOwn_tripped (s : State) (i : Nat) (b : Bool) : (s.setOwn i b).tripped = s.tripped := rfl
@[simp] theorem State.setOwn_switchOpen (s : State) (i : Nat) (b : Bool) : (s.setOwn i b).switchOpen = s.switchOpen := rfl
@[simp] theorem State.setOwn_powerGood (s : State) (i : Nat) (b : Bool) : (s.setOwn i b).powerGood = s.powerGood := rfl
@[simp] theorem State.setOwn_snapshotBegun (s : State) (i : Nat) (b : Bool) : (s.setOwn i b).snapshotBegun = s.snapshotBegun := rfl
@[simp] theorem State.setOwn_dispatchHeld (s : State) (i : Nat) (b : Bool) : (s.setOwn i b).dispatchHeld = s.dispatchHeld := rfl
@[simp] theorem State.setOwn_overSample (s : State) (i : Nat) (b : Bool) : (s.setOwn i b).overSample = s.overSample := rfl
@[simp] theorem State.setOwn_tripNow (s : State) (i : Nat) (b : Bool) : (s.setOwn i b).tripNow = s.tripNow := rfl
@[simp] theorem State.setOwn_tripStays (s : State) (i : Nat) (b : Bool) : (s.setOwn i b).tripStays = s.tripStays := rfl
@[simp] theorem State.setOwn_lastVolt (s : State) (i : Nat) (b : Bool) : (s.setOwn i b).lastVolt = s.lastVolt := rfl
@[simp] theorem State.setOwn_lmap (s : State) (i : Nat) (b : Bool) : (s.setOwn i b).lmap = s.lmap := rfl
@[simp] theorem State.setOwn_jmap (s : State) (i : Nat) (b : Bool) : (s.setOwn i b).jmap = s.jmap := rfl
@[simp] theorem State.setOwn_emap (s : State) (i : Nat) (b : Bool) : (s.setOwn i b).emap = s.emap := rfl
@[simp] theorem State.setOwn_suspects (s : State) (i : Nat) (b : Bool) : (s.setOwn i b).suspects = s.suspects := rfl
@[simp] theorem State.setOwn_spareCols (s : State) (i : Nat) (b : Bool) : (s.setOwn i b).spareCols = s.spareCols := rfl
@[simp] theorem State.setOwn_failing (s : State) (i : Nat) (b : Bool) : (s.setOwn i b).failing = s.failing := rfl
@[simp] theorem State.setOwn_bistNext (s : State) (i : Nat) (b : Bool) : (s.setOwn i b).bistNext = s.bistNext := rfl
@[simp] theorem State.setOwn_bistWave (s : State) (i : Nat) (b : Bool) : (s.setOwn i b).bistWave = s.bistWave := rfl
@[simp] theorem State.setOwn_upSince (s : State) (i : Nat) (b : Bool) : (s.setOwn i b).upSince = s.upSince := rfl
@[simp] theorem State.setOwn_readyAt (s : State) (i : Nat) (b : Bool) : (s.setOwn i b).readyAt = s.readyAt := rfl
@[simp] theorem State.setOwn_cold (s : State) (i : Nat) (b : Bool) : (s.setOwn i b).cold = s.cold := rfl
@[simp] theorem State.setOwn_resetting (s : State) (i : Nat) (b : Bool) : (s.setOwn i b).resetting = s.resetting := rfl
@[simp] theorem State.setOwn_dieLog (s : State) (i : Nat) (b : Bool) : (s.setOwn i b).dieLog = s.dieLog := rfl
@[simp] theorem State.setOwn_flashPend (s : State) (i : Nat) (b : Bool) : (s.setOwn i b).flashPend = s.flashPend := rfl
@[simp] theorem State.setOwn_flashLog (s : State) (i : Nat) (b : Bool) : (s.setOwn i b).flashLog = s.flashLog := rfl
@[simp] theorem State.setOwn_blockErases (s : State) (i : Nat) (b : Bool) : (s.setOwn i b).blockErases = s.blockErases := rfl
@[simp] theorem State.setOwn_worn (s : State) (i : Nat) (b : Bool) : (s.setOwn i b).worn = s.worn := rfl
@[simp] theorem State.setOwn_life (s : State) (i : Nat) (b : Bool) : (s.setOwn i b).life = s.life := rfl
@[simp] theorem State.setOwn_copies (s : State) (i : Nat) (b : Bool) : (s.setOwn i b).copies = s.copies := rfl
@[simp] theorem State.setOwn_sensors (s : State) (i : Nat) (b : Bool) : (s.setOwn i b).sensors = s.sensors := rfl
@[simp] theorem State.setOwn_slotA (s : State) (i : Nat) (b : Bool) : (s.setOwn i b).slotA = s.slotA := rfl
@[simp] theorem State.setOwn_slotB (s : State) (i : Nat) (b : Bool) : (s.setOwn i b).slotB = s.slotB := rfl
@[simp] theorem State.setOwn_staged (s : State) (i : Nat) (b : Bool) : (s.setOwn i b).staged = s.staged := rfl
@[simp] theorem State.setOwn_trialRun (s : State) (i : Nat) (b : Bool) : (s.setOwn i b).trialRun = s.trialRun := rfl
@[simp] theorem State.setOwn_fuse (s : State) (i : Nat) (b : Bool) : (s.setOwn i b).fuse = s.fuse := rfl
@[simp] theorem State.setOwn_reruns (s : State) (i : Nat) (b : Bool) : (s.setOwn i b).reruns = s.reruns := rfl
@[simp] theorem State.setOwn_bar4 (s : State) (i : Nat) (b : Bool) : (s.setOwn i b).bar4 = s.bar4 := rfl
@[simp] theorem State.setOwn_draws (s : State) (i : Nat) (b : Bool) : (s.setOwn i b).draws = s.draws := rfl

/-! ### `putJob` -/

@[simp] theorem State.putJob_pending (s : State) (j : Job) : (s.putJob j).pending = s.pending := rfl
@[simp] theorem State.putJob_tk (s : State) (j : Job) : (s.putJob j).tk = s.tk := rfl
@[simp] theorem State.putJob_nextJid (s : State) (j : Job) : (s.putJob j).nextJid = s.nextJid := rfl
@[simp] theorem State.putJob_regs (s : State) (j : Job) : (s.putJob j).regs = s.regs := rfl
@[simp] theorem State.putJob_dev (s : State) (j : Job) : (s.putJob j).dev = s.dev := rfl
@[simp] theorem State.putJob_host (s : State) (j : Job) : (s.putJob j).host = s.host := rfl
@[simp] theorem State.putJob_site (s : State) (j : Job) : (s.putJob j).site = s.site := rfl
@[simp] theorem State.putJob_mbox (s : State) (j : Job) : (s.putJob j).mbox = s.mbox := rfl
@[simp] theorem State.putJob_mbReq (s : State) (j : Job) : (s.putJob j).mbReq = s.mbReq := rfl
@[simp] theorem State.putJob_mbGone (s : State) (j : Job) : (s.putJob j).mbGone = s.mbGone := rfl
@[simp] theorem State.putJob_mbMark (s : State) (j : Job) : (s.putJob j).mbMark = s.mbMark := rfl
@[simp] theorem State.putJob_poolErr (s : State) (j : Job) : (s.putJob j).poolErr = s.poolErr := rfl
@[simp] theorem State.putJob_dramErr (s : State) (j : Job) : (s.putJob j).dramErr = s.dramErr := rfl
@[simp] theorem State.putJob_rowCorr (s : State) (j : Job) : (s.putJob j).rowCorr = s.rowCorr := rfl
@[simp] theorem State.putJob_dieSeen (s : State) (j : Job) : (s.putJob j).dieSeen = s.dieSeen := rfl
@[simp] theorem State.putJob_rings (s : State) (j : Job) : (s.putJob j).rings = s.rings := rfl
@[simp] theorem State.putJob_cqs (s : State) (j : Job) : (s.putJob j).cqs = s.cqs := rfl
@[simp] theorem State.putJob_evRing (s : State) (j : Job) : (s.putJob j).evRing = s.evRing := rfl
@[simp] theorem State.putJob_evSeq (s : State) (j : Job) : (s.putJob j).evSeq = s.evSeq := rfl
@[simp] theorem State.putJob_evLost (s : State) (j : Job) : (s.putJob j).evLost = s.evLost := rfl
@[simp] theorem State.putJob_up (s : State) (j : Job) : (s.putJob j).up = s.up := rfl
@[simp] theorem State.putJob_cursors (s : State) (j : Job) : (s.putJob j).cursors = s.cursors := rfl
@[simp] theorem State.putJob_feat (s : State) (j : Job) : (s.putJob j).feat = s.feat := rfl
@[simp] theorem State.putJob_helloDone (s : State) (j : Job) : (s.putJob j).helloDone = s.helloDone := rfl
@[simp] theorem State.putJob_hostWait (s : State) (j : Job) : (s.putJob j).hostWait = s.hostWait := rfl
@[simp] theorem State.putJob_d3 (s : State) (j : Job) : (s.putJob j).d3 = s.d3 := rfl
@[simp] theorem State.putJob_readData (s : State) (j : Job) : (s.putJob j).readData = s.readData := rfl
@[simp] theorem State.putJob_groups (s : State) (j : Job) : (s.putJob j).groups = s.groups := rfl
@[simp] theorem State.putJob_rounds (s : State) (j : Job) : (s.putJob j).rounds = s.rounds := rfl
@[simp] theorem State.putJob_acc (s : State) (j : Job) : (s.putJob j).acc = s.acc := rfl
@[simp] theorem State.putJob_accErr (s : State) (j : Job) : (s.putJob j).accErr = s.accErr := rfl
@[simp] theorem State.putJob_grp (s : State) (j : Job) : (s.putJob j).grp = s.grp := rfl
@[simp] theorem State.putJob_jets (s : State) (j : Job) : (s.putJob j).jets = s.jets := rfl
@[simp] theorem State.putJob_engines (s : State) (j : Job) : (s.putJob j).engines = s.engines := rfl
@[simp] theorem State.putJob_mon (s : State) (j : Job) : (s.putJob j).mon = s.mon := rfl
@[simp] theorem State.putJob_weirQ (s : State) (j : Job) : (s.putJob j).weirQ = s.weirQ := rfl
@[simp] theorem State.putJob_weirSeq (s : State) (j : Job) : (s.putJob j).weirSeq = s.weirSeq := rfl
@[simp] theorem State.putJob_haloQ (s : State) (j : Job) : (s.putJob j).haloQ = s.haloQ := rfl
@[simp] theorem State.putJob_profiles (s : State) (j : Job) : (s.putJob j).profiles = s.profiles := rfl
@[simp] theorem State.putJob_allocs (s : State) (j : Job) : (s.putJob j).allocs = s.allocs := rfl
@[simp] theorem State.putJob_plans (s : State) (j : Job) : (s.putJob j).plans = s.plans := rfl
@[simp] theorem State.putJob_grants (s : State) (j : Job) : (s.putJob j).grants = s.grants := rfl
@[simp] theorem State.putJob_fillDue (s : State) (j : Job) : (s.putJob j).fillDue = s.fillDue := rfl
@[simp] theorem State.putJob_holders (s : State) (j : Job) : (s.putJob j).holders = s.holders := rfl
@[simp] theorem State.putJob_ppsWait (s : State) (j : Job) : (s.putJob j).ppsWait = s.ppsWait := rfl
@[simp] theorem State.putJob_mbRun (s : State) (j : Job) : (s.putJob j).mbRun = s.mbRun := rfl
@[simp] theorem State.putJob_casc (s : State) (j : Job) : (s.putJob j).casc = s.casc := rfl
@[simp] theorem State.putJob_leaving (s : State) (j : Job) : (s.putJob j).leaving = s.leaving := rfl
@[simp] theorem State.putJob_neigh (s : State) (j : Job) : (s.putJob j).neigh = s.neigh := rfl
@[simp] theorem State.putJob_gop (s : State) (j : Job) : (s.putJob j).gop = s.gop := rfl
@[simp] theorem State.putJob_holdPost (s : State) (j : Job) : (s.putJob j).holdPost = s.holdPost := rfl
@[simp] theorem State.putJob_linkOut (s : State) (j : Job) : (s.putJob j).linkOut = s.linkOut := rfl
@[simp] theorem State.putJob_ports (s : State) (j : Job) : (s.putJob j).ports = s.ports := rfl
@[simp] theorem State.putJob_flows (s : State) (j : Job) : (s.putJob j).flows = s.flows := rfl
@[simp] theorem State.putJob_grids (s : State) (j : Job) : (s.putJob j).grids = s.grids := rfl
@[simp] theorem State.putJob_slew (s : State) (j : Job) : (s.putJob j).slew = s.slew := rfl
@[simp] theorem State.putJob_tickCfg (s : State) (j : Job) : (s.putJob j).tickCfg = s.tickCfg := rfl
@[simp] theorem State.putJob_holdoverDone (s : State) (j : Job) : (s.putJob j).holdoverDone = s.holdoverDone := rfl
@[simp] theorem State.putJob_onceLocked (s : State) (j : Job) : (s.putJob j).onceLocked = s.onceLocked := rfl
@[simp] theorem State.putJob_ppsPulse (s : State) (j : Job) : (s.putJob j).ppsPulse = s.ppsPulse := rfl
@[simp] theorem State.putJob_lastSlot (s : State) (j : Job) : (s.putJob j).lastSlot = s.lastSlot := rfl
@[simp] theorem State.putJob_uCap (s : State) (j : Job) : (s.putJob j).uCap = s.uCap := rfl
@[simp] theorem State.putJob_uCut (s : State) (j : Job) : (s.putJob j).uCut = s.uCut := rfl
@[simp] theorem State.putJob_credit (s : State) (j : Job) : (s.putJob j).credit = s.credit := rfl
@[simp] theorem State.putJob_stallDue (s : State) (j : Job) : (s.putJob j).stallDue = s.stallDue := rfl
@[simp] theorem State.putJob_pwrAlert (s : State) (j : Job) : (s.putJob j).pwrAlert = s.pwrAlert := rfl
@[simp] theorem State.putJob_perst (s : State) (j : Job) : (s.putJob j).perst = s.perst := rfl
@[simp] theorem State.putJob_tripped (s : State) (j : Job) : (s.putJob j).tripped = s.tripped := rfl
@[simp] theorem State.putJob_switchOpen (s : State) (j : Job) : (s.putJob j).switchOpen = s.switchOpen := rfl
@[simp] theorem State.putJob_powerGood (s : State) (j : Job) : (s.putJob j).powerGood = s.powerGood := rfl
@[simp] theorem State.putJob_snapshotBegun (s : State) (j : Job) : (s.putJob j).snapshotBegun = s.snapshotBegun := rfl
@[simp] theorem State.putJob_dispatchHeld (s : State) (j : Job) : (s.putJob j).dispatchHeld = s.dispatchHeld := rfl
@[simp] theorem State.putJob_overSample (s : State) (j : Job) : (s.putJob j).overSample = s.overSample := rfl
@[simp] theorem State.putJob_tripNow (s : State) (j : Job) : (s.putJob j).tripNow = s.tripNow := rfl
@[simp] theorem State.putJob_tripStays (s : State) (j : Job) : (s.putJob j).tripStays = s.tripStays := rfl
@[simp] theorem State.putJob_lastVolt (s : State) (j : Job) : (s.putJob j).lastVolt = s.lastVolt := rfl
@[simp] theorem State.putJob_lmap (s : State) (j : Job) : (s.putJob j).lmap = s.lmap := rfl
@[simp] theorem State.putJob_jmap (s : State) (j : Job) : (s.putJob j).jmap = s.jmap := rfl
@[simp] theorem State.putJob_emap (s : State) (j : Job) : (s.putJob j).emap = s.emap := rfl
@[simp] theorem State.putJob_suspects (s : State) (j : Job) : (s.putJob j).suspects = s.suspects := rfl
@[simp] theorem State.putJob_spareCols (s : State) (j : Job) : (s.putJob j).spareCols = s.spareCols := rfl
@[simp] theorem State.putJob_failing (s : State) (j : Job) : (s.putJob j).failing = s.failing := rfl
@[simp] theorem State.putJob_bistNext (s : State) (j : Job) : (s.putJob j).bistNext = s.bistNext := rfl
@[simp] theorem State.putJob_bistWave (s : State) (j : Job) : (s.putJob j).bistWave = s.bistWave := rfl
@[simp] theorem State.putJob_upSince (s : State) (j : Job) : (s.putJob j).upSince = s.upSince := rfl
@[simp] theorem State.putJob_readyAt (s : State) (j : Job) : (s.putJob j).readyAt = s.readyAt := rfl
@[simp] theorem State.putJob_cold (s : State) (j : Job) : (s.putJob j).cold = s.cold := rfl
@[simp] theorem State.putJob_resetting (s : State) (j : Job) : (s.putJob j).resetting = s.resetting := rfl
@[simp] theorem State.putJob_dieLog (s : State) (j : Job) : (s.putJob j).dieLog = s.dieLog := rfl
@[simp] theorem State.putJob_flashPend (s : State) (j : Job) : (s.putJob j).flashPend = s.flashPend := rfl
@[simp] theorem State.putJob_flashLog (s : State) (j : Job) : (s.putJob j).flashLog = s.flashLog := rfl
@[simp] theorem State.putJob_blockErases (s : State) (j : Job) : (s.putJob j).blockErases = s.blockErases := rfl
@[simp] theorem State.putJob_worn (s : State) (j : Job) : (s.putJob j).worn = s.worn := rfl
@[simp] theorem State.putJob_life (s : State) (j : Job) : (s.putJob j).life = s.life := rfl
@[simp] theorem State.putJob_copies (s : State) (j : Job) : (s.putJob j).copies = s.copies := rfl
@[simp] theorem State.putJob_sensors (s : State) (j : Job) : (s.putJob j).sensors = s.sensors := rfl
@[simp] theorem State.putJob_slotA (s : State) (j : Job) : (s.putJob j).slotA = s.slotA := rfl
@[simp] theorem State.putJob_slotB (s : State) (j : Job) : (s.putJob j).slotB = s.slotB := rfl
@[simp] theorem State.putJob_staged (s : State) (j : Job) : (s.putJob j).staged = s.staged := rfl
@[simp] theorem State.putJob_trialRun (s : State) (j : Job) : (s.putJob j).trialRun = s.trialRun := rfl
@[simp] theorem State.putJob_fuse (s : State) (j : Job) : (s.putJob j).fuse = s.fuse := rfl
@[simp] theorem State.putJob_reruns (s : State) (j : Job) : (s.putJob j).reruns = s.reruns := rfl
@[simp] theorem State.putJob_bar4 (s : State) (j : Job) : (s.putJob j).bar4 = s.bar4 := rfl
@[simp] theorem State.putJob_draws (s : State) (j : Job) : (s.putJob j).draws = s.draws := rfl

/-! ### `endJob` -/

/-- The fields that taking tiles off leaves: the others are put at fixed values. -/
def State.plain (s : State) : State := { s with regs := [], jets := [], engines := [] }

@[simp] theorem State.plain_setFld (s : State) (k : RegKey) (lo w x : Nat) : (s.setFld k lo w x).plain = s.plain := rfl

/-- A fold of updates that each leave them. -/
theorem State.plain_foldl {α : Type} (f : State → α → State) (l : List α) (s : State) (h : ∀ s x, (f s x).plain = s.plain) :
    (l.foldl f s).plain = s.plain := by
  induction l generalizing s with
  | nil => rfl
  | cons x l ih => exact (ih (f s x)).trans (h s x)

@[simp] theorem State.plain_putSets (s : State) (x : Nat) (js : JetSets) : (s.putSets x js).plain = s.plain := by
  simp only [State.putSets, State.showJet, State.plain_setFld]
  split <;> split <;> rfl

@[simp] theorem State.plain_putStores (s : State) (e : Nat) (es : EngSets) : (s.putStores e es).plain = s.plain := by
  simp only [State.putStores, State.showEngine, State.plain_setFld]
  split <;> split <;> first | rfl | (split <;> rfl)

@[simp] theorem State.plain_quiet (s : State) (x : Nat) : (s.quiet x).plain = s.plain := by
  refine State.plain_foldl _ _ _ fun s y => ?_
  split
  · exact State.plain_setFld _ _ _ _ _
  · rfl

/-- Tiles and spans taken off change no other field. -/
@[simp] theorem State.plain_unload (s : State) (jid : Nat) : (s.unload jid).plain = s.plain := by
  refine (State.plain_foldl _ _ _ fun s e => State.plain_putStores _ _ _).trans ?_
  exact State.plain_foldl _ _ _ fun s e => (State.plain_quiet _ _).trans (State.plain_putSets _ _ _)

/-- A field that they keep. -/
theorem State.of_plain {α : Type} {s t : State} (h : t.plain = s.plain) (f : State → α) (k : ∀ u : State, f u = f u.plain) : f t = f s := by
  rw [k t, h, ← k]

@[simp] theorem State.unload_jobs (s : State) (jid : Nat) : (s.unload jid).jobs = s.jobs :=
  State.of_plain (s.plain_unload jid) State.jobs fun _ => rfl

@[simp] theorem State.endJob_pending (s : State) (j : Job) (status detail : Nat) :
    (s.endJob j status detail).pending = s.pending := State.of_plain (s.plain_unload j.jid) State.pending fun _ => rfl
@[simp] theorem State.endJob_tk (s : State) (j : Job) (status detail : Nat) :
    (s.endJob j status detail).tk = s.tk := State.of_plain (s.plain_unload j.jid) State.tk fun _ => rfl
@[simp] theorem State.endJob_nextJid (s : State) (j : Job) (status detail : Nat) :
    (s.endJob j status detail).nextJid = s.nextJid := State.of_plain (s.plain_unload j.jid) State.nextJid fun _ => rfl
@[simp] theorem State.endJob_dev (s : State) (j : Job) (status detail : Nat) :
    (s.endJob j status detail).dev = s.dev := State.of_plain (s.plain_unload j.jid) State.dev fun _ => rfl
@[simp] theorem State.endJob_host (s : State) (j : Job) (status detail : Nat) :
    (s.endJob j status detail).host = s.host := State.of_plain (s.plain_unload j.jid) State.host fun _ => rfl
@[simp] theorem State.endJob_site (s : State) (j : Job) (status detail : Nat) :
    (s.endJob j status detail).site = s.site := State.of_plain (s.plain_unload j.jid) State.site fun _ => rfl
@[simp] theorem State.endJob_mbox (s : State) (j : Job) (status detail : Nat) :
    (s.endJob j status detail).mbox = s.mbox := State.of_plain (s.plain_unload j.jid) State.mbox fun _ => rfl
@[simp] theorem State.endJob_mbReq (s : State) (j : Job) (status detail : Nat) :
    (s.endJob j status detail).mbReq = s.mbReq := State.of_plain (s.plain_unload j.jid) State.mbReq fun _ => rfl
@[simp] theorem State.endJob_mbGone (s : State) (j : Job) (status detail : Nat) :
    (s.endJob j status detail).mbGone = s.mbGone := State.of_plain (s.plain_unload j.jid) State.mbGone fun _ => rfl
@[simp] theorem State.endJob_mbMark (s : State) (j : Job) (status detail : Nat) :
    (s.endJob j status detail).mbMark = s.mbMark := State.of_plain (s.plain_unload j.jid) State.mbMark fun _ => rfl
@[simp] theorem State.endJob_poolErr (s : State) (j : Job) (status detail : Nat) :
    (s.endJob j status detail).poolErr = s.poolErr := State.of_plain (s.plain_unload j.jid) State.poolErr fun _ => rfl
@[simp] theorem State.endJob_dramErr (s : State) (j : Job) (status detail : Nat) :
    (s.endJob j status detail).dramErr = s.dramErr := State.of_plain (s.plain_unload j.jid) State.dramErr fun _ => rfl
@[simp] theorem State.endJob_rowCorr (s : State) (j : Job) (status detail : Nat) :
    (s.endJob j status detail).rowCorr = s.rowCorr := State.of_plain (s.plain_unload j.jid) State.rowCorr fun _ => rfl
@[simp] theorem State.endJob_dieSeen (s : State) (j : Job) (status detail : Nat) :
    (s.endJob j status detail).dieSeen = s.dieSeen := State.of_plain (s.plain_unload j.jid) State.dieSeen fun _ => rfl
@[simp] theorem State.endJob_rings (s : State) (j : Job) (status detail : Nat) :
    (s.endJob j status detail).rings = s.rings := State.of_plain (s.plain_unload j.jid) State.rings fun _ => rfl
@[simp] theorem State.endJob_cqs (s : State) (j : Job) (status detail : Nat) :
    (s.endJob j status detail).cqs = s.cqs := State.of_plain (s.plain_unload j.jid) State.cqs fun _ => rfl
@[simp] theorem State.endJob_evRing (s : State) (j : Job) (status detail : Nat) :
    (s.endJob j status detail).evRing = s.evRing := State.of_plain (s.plain_unload j.jid) State.evRing fun _ => rfl
@[simp] theorem State.endJob_evSeq (s : State) (j : Job) (status detail : Nat) :
    (s.endJob j status detail).evSeq = s.evSeq := State.of_plain (s.plain_unload j.jid) State.evSeq fun _ => rfl
@[simp] theorem State.endJob_evLost (s : State) (j : Job) (status detail : Nat) :
    (s.endJob j status detail).evLost = s.evLost := State.of_plain (s.plain_unload j.jid) State.evLost fun _ => rfl
@[simp] theorem State.endJob_up (s : State) (j : Job) (status detail : Nat) :
    (s.endJob j status detail).up = s.up := State.of_plain (s.plain_unload j.jid) State.up fun _ => rfl
@[simp] theorem State.endJob_cursors (s : State) (j : Job) (status detail : Nat) :
    (s.endJob j status detail).cursors = s.cursors := State.of_plain (s.plain_unload j.jid) State.cursors fun _ => rfl
@[simp] theorem State.endJob_feat (s : State) (j : Job) (status detail : Nat) :
    (s.endJob j status detail).feat = s.feat := State.of_plain (s.plain_unload j.jid) State.feat fun _ => rfl
@[simp] theorem State.endJob_helloDone (s : State) (j : Job) (status detail : Nat) :
    (s.endJob j status detail).helloDone = s.helloDone := State.of_plain (s.plain_unload j.jid) State.helloDone fun _ => rfl
@[simp] theorem State.endJob_hostWait (s : State) (j : Job) (status detail : Nat) :
    (s.endJob j status detail).hostWait = s.hostWait := State.of_plain (s.plain_unload j.jid) State.hostWait fun _ => rfl
@[simp] theorem State.endJob_d3 (s : State) (j : Job) (status detail : Nat) :
    (s.endJob j status detail).d3 = s.d3 := State.of_plain (s.plain_unload j.jid) State.d3 fun _ => rfl
@[simp] theorem State.endJob_readData (s : State) (j : Job) (status detail : Nat) :
    (s.endJob j status detail).readData = s.readData := State.of_plain (s.plain_unload j.jid) State.readData fun _ => rfl
@[simp] theorem State.endJob_groups (s : State) (j : Job) (status detail : Nat) :
    (s.endJob j status detail).groups = s.groups := State.of_plain (s.plain_unload j.jid) State.groups fun _ => rfl
@[simp] theorem State.endJob_rounds (s : State) (j : Job) (status detail : Nat) :
    (s.endJob j status detail).rounds = s.rounds := State.of_plain (s.plain_unload j.jid) State.rounds fun _ => rfl
@[simp] theorem State.endJob_acc (s : State) (j : Job) (status detail : Nat) :
    (s.endJob j status detail).acc = s.acc := State.of_plain (s.plain_unload j.jid) State.acc fun _ => rfl
@[simp] theorem State.endJob_accErr (s : State) (j : Job) (status detail : Nat) :
    (s.endJob j status detail).accErr = s.accErr := State.of_plain (s.plain_unload j.jid) State.accErr fun _ => rfl
@[simp] theorem State.endJob_grp (s : State) (j : Job) (status detail : Nat) :
    (s.endJob j status detail).grp = s.grp := State.of_plain (s.plain_unload j.jid) State.grp fun _ => rfl
@[simp] theorem State.endJob_mon (s : State) (j : Job) (status detail : Nat) :
    (s.endJob j status detail).mon = s.mon := State.of_plain (s.plain_unload j.jid) State.mon fun _ => rfl
@[simp] theorem State.endJob_weirQ (s : State) (j : Job) (status detail : Nat) :
    (s.endJob j status detail).weirQ = s.weirQ := State.of_plain (s.plain_unload j.jid) State.weirQ fun _ => rfl
@[simp] theorem State.endJob_weirSeq (s : State) (j : Job) (status detail : Nat) :
    (s.endJob j status detail).weirSeq = s.weirSeq := State.of_plain (s.plain_unload j.jid) State.weirSeq fun _ => rfl
@[simp] theorem State.endJob_haloQ (s : State) (j : Job) (status detail : Nat) :
    (s.endJob j status detail).haloQ = s.haloQ := State.of_plain (s.plain_unload j.jid) State.haloQ fun _ => rfl
@[simp] theorem State.endJob_profiles (s : State) (j : Job) (status detail : Nat) :
    (s.endJob j status detail).profiles = s.profiles := State.of_plain (s.plain_unload j.jid) State.profiles fun _ => rfl
@[simp] theorem State.endJob_allocs (s : State) (j : Job) (status detail : Nat) :
    (s.endJob j status detail).allocs = s.allocs := State.of_plain (s.plain_unload j.jid) State.allocs fun _ => rfl
@[simp] theorem State.endJob_plans (s : State) (j : Job) (status detail : Nat) :
    (s.endJob j status detail).plans = s.plans := State.of_plain (s.plain_unload j.jid) State.plans fun _ => rfl
@[simp] theorem State.endJob_grants (s : State) (j : Job) (status detail : Nat) :
    (s.endJob j status detail).grants = s.grants := State.of_plain (s.plain_unload j.jid) State.grants fun _ => rfl
@[simp] theorem State.endJob_fillDue (s : State) (j : Job) (status detail : Nat) :
    (s.endJob j status detail).fillDue = s.fillDue := State.of_plain (s.plain_unload j.jid) State.fillDue fun _ => rfl
@[simp] theorem State.endJob_holders (s : State) (j : Job) (status detail : Nat) :
    (s.endJob j status detail).holders = s.holders := State.of_plain (s.plain_unload j.jid) State.holders fun _ => rfl
@[simp] theorem State.endJob_ppsWait (s : State) (j : Job) (status detail : Nat) :
    (s.endJob j status detail).ppsWait = s.ppsWait := State.of_plain (s.plain_unload j.jid) State.ppsWait fun _ => rfl
@[simp] theorem State.endJob_mbRun (s : State) (j : Job) (status detail : Nat) :
    (s.endJob j status detail).mbRun = s.mbRun := State.of_plain (s.plain_unload j.jid) State.mbRun fun _ => rfl
@[simp] theorem State.endJob_casc (s : State) (j : Job) (status detail : Nat) :
    (s.endJob j status detail).casc = s.casc := State.of_plain (s.plain_unload j.jid) State.casc fun _ => rfl
@[simp] theorem State.endJob_leaving (s : State) (j : Job) (status detail : Nat) :
    (s.endJob j status detail).leaving = s.leaving := State.of_plain (s.plain_unload j.jid) State.leaving fun _ => rfl
@[simp] theorem State.endJob_neigh (s : State) (j : Job) (status detail : Nat) :
    (s.endJob j status detail).neigh = s.neigh := State.of_plain (s.plain_unload j.jid) State.neigh fun _ => rfl
@[simp] theorem State.endJob_gop (s : State) (j : Job) (status detail : Nat) :
    (s.endJob j status detail).gop = s.gop := State.of_plain (s.plain_unload j.jid) State.gop fun _ => rfl
@[simp] theorem State.endJob_holdPost (s : State) (j : Job) (status detail : Nat) :
    (s.endJob j status detail).holdPost = s.holdPost := State.of_plain (s.plain_unload j.jid) State.holdPost fun _ => rfl
@[simp] theorem State.endJob_linkOut (s : State) (j : Job) (status detail : Nat) :
    (s.endJob j status detail).linkOut = s.linkOut := State.of_plain (s.plain_unload j.jid) State.linkOut fun _ => rfl
@[simp] theorem State.endJob_ports (s : State) (j : Job) (status detail : Nat) :
    (s.endJob j status detail).ports = s.ports := State.of_plain (s.plain_unload j.jid) State.ports fun _ => rfl
@[simp] theorem State.endJob_flows (s : State) (j : Job) (status detail : Nat) :
    (s.endJob j status detail).flows = s.flows := State.of_plain (s.plain_unload j.jid) State.flows fun _ => rfl
@[simp] theorem State.endJob_grids (s : State) (j : Job) (status detail : Nat) :
    (s.endJob j status detail).grids = s.grids := State.of_plain (s.plain_unload j.jid) State.grids fun _ => rfl
@[simp] theorem State.endJob_slew (s : State) (j : Job) (status detail : Nat) :
    (s.endJob j status detail).slew = s.slew := State.of_plain (s.plain_unload j.jid) State.slew fun _ => rfl
@[simp] theorem State.endJob_tickCfg (s : State) (j : Job) (status detail : Nat) :
    (s.endJob j status detail).tickCfg = s.tickCfg := State.of_plain (s.plain_unload j.jid) State.tickCfg fun _ => rfl
@[simp] theorem State.endJob_holdoverDone (s : State) (j : Job) (status detail : Nat) :
    (s.endJob j status detail).holdoverDone = s.holdoverDone := State.of_plain (s.plain_unload j.jid) State.holdoverDone fun _ => rfl
@[simp] theorem State.endJob_onceLocked (s : State) (j : Job) (status detail : Nat) :
    (s.endJob j status detail).onceLocked = s.onceLocked := State.of_plain (s.plain_unload j.jid) State.onceLocked fun _ => rfl
@[simp] theorem State.endJob_ppsPulse (s : State) (j : Job) (status detail : Nat) :
    (s.endJob j status detail).ppsPulse = s.ppsPulse := State.of_plain (s.plain_unload j.jid) State.ppsPulse fun _ => rfl
@[simp] theorem State.endJob_lastSlot (s : State) (j : Job) (status detail : Nat) :
    (s.endJob j status detail).lastSlot = s.lastSlot := State.of_plain (s.plain_unload j.jid) State.lastSlot fun _ => rfl
@[simp] theorem State.endJob_uCap (s : State) (j : Job) (status detail : Nat) :
    (s.endJob j status detail).uCap = s.uCap := State.of_plain (s.plain_unload j.jid) State.uCap fun _ => rfl
@[simp] theorem State.endJob_uCut (s : State) (j : Job) (status detail : Nat) :
    (s.endJob j status detail).uCut = s.uCut := State.of_plain (s.plain_unload j.jid) State.uCut fun _ => rfl
@[simp] theorem State.endJob_credit (s : State) (j : Job) (status detail : Nat) :
    (s.endJob j status detail).credit = s.credit := State.of_plain (s.plain_unload j.jid) State.credit fun _ => rfl
@[simp] theorem State.endJob_stallDue (s : State) (j : Job) (status detail : Nat) :
    (s.endJob j status detail).stallDue = s.stallDue := State.of_plain (s.plain_unload j.jid) State.stallDue fun _ => rfl
@[simp] theorem State.endJob_pwrAlert (s : State) (j : Job) (status detail : Nat) :
    (s.endJob j status detail).pwrAlert = s.pwrAlert := State.of_plain (s.plain_unload j.jid) State.pwrAlert fun _ => rfl
@[simp] theorem State.endJob_perst (s : State) (j : Job) (status detail : Nat) :
    (s.endJob j status detail).perst = s.perst := State.of_plain (s.plain_unload j.jid) State.perst fun _ => rfl
@[simp] theorem State.endJob_tripped (s : State) (j : Job) (status detail : Nat) :
    (s.endJob j status detail).tripped = s.tripped := State.of_plain (s.plain_unload j.jid) State.tripped fun _ => rfl
@[simp] theorem State.endJob_switchOpen (s : State) (j : Job) (status detail : Nat) :
    (s.endJob j status detail).switchOpen = s.switchOpen := State.of_plain (s.plain_unload j.jid) State.switchOpen fun _ => rfl
@[simp] theorem State.endJob_powerGood (s : State) (j : Job) (status detail : Nat) :
    (s.endJob j status detail).powerGood = s.powerGood := State.of_plain (s.plain_unload j.jid) State.powerGood fun _ => rfl
@[simp] theorem State.endJob_snapshotBegun (s : State) (j : Job) (status detail : Nat) :
    (s.endJob j status detail).snapshotBegun = s.snapshotBegun := State.of_plain (s.plain_unload j.jid) State.snapshotBegun fun _ => rfl
@[simp] theorem State.endJob_dispatchHeld (s : State) (j : Job) (status detail : Nat) :
    (s.endJob j status detail).dispatchHeld = s.dispatchHeld := State.of_plain (s.plain_unload j.jid) State.dispatchHeld fun _ => rfl
@[simp] theorem State.endJob_overSample (s : State) (j : Job) (status detail : Nat) :
    (s.endJob j status detail).overSample = s.overSample := State.of_plain (s.plain_unload j.jid) State.overSample fun _ => rfl
@[simp] theorem State.endJob_tripNow (s : State) (j : Job) (status detail : Nat) :
    (s.endJob j status detail).tripNow = s.tripNow := State.of_plain (s.plain_unload j.jid) State.tripNow fun _ => rfl
@[simp] theorem State.endJob_tripStays (s : State) (j : Job) (status detail : Nat) :
    (s.endJob j status detail).tripStays = s.tripStays := State.of_plain (s.plain_unload j.jid) State.tripStays fun _ => rfl
@[simp] theorem State.endJob_lastVolt (s : State) (j : Job) (status detail : Nat) :
    (s.endJob j status detail).lastVolt = s.lastVolt := State.of_plain (s.plain_unload j.jid) State.lastVolt fun _ => rfl
@[simp] theorem State.endJob_lmap (s : State) (j : Job) (status detail : Nat) :
    (s.endJob j status detail).lmap = s.lmap := State.of_plain (s.plain_unload j.jid) State.lmap fun _ => rfl
@[simp] theorem State.endJob_jmap (s : State) (j : Job) (status detail : Nat) :
    (s.endJob j status detail).jmap = s.jmap := State.of_plain (s.plain_unload j.jid) State.jmap fun _ => rfl
@[simp] theorem State.endJob_emap (s : State) (j : Job) (status detail : Nat) :
    (s.endJob j status detail).emap = s.emap := State.of_plain (s.plain_unload j.jid) State.emap fun _ => rfl
@[simp] theorem State.endJob_suspects (s : State) (j : Job) (status detail : Nat) :
    (s.endJob j status detail).suspects = s.suspects := State.of_plain (s.plain_unload j.jid) State.suspects fun _ => rfl
@[simp] theorem State.endJob_spareCols (s : State) (j : Job) (status detail : Nat) :
    (s.endJob j status detail).spareCols = s.spareCols := State.of_plain (s.plain_unload j.jid) State.spareCols fun _ => rfl
@[simp] theorem State.endJob_failing (s : State) (j : Job) (status detail : Nat) :
    (s.endJob j status detail).failing = s.failing := State.of_plain (s.plain_unload j.jid) State.failing fun _ => rfl
@[simp] theorem State.endJob_bistNext (s : State) (j : Job) (status detail : Nat) :
    (s.endJob j status detail).bistNext = s.bistNext := State.of_plain (s.plain_unload j.jid) State.bistNext fun _ => rfl
@[simp] theorem State.endJob_bistWave (s : State) (j : Job) (status detail : Nat) :
    (s.endJob j status detail).bistWave = s.bistWave := State.of_plain (s.plain_unload j.jid) State.bistWave fun _ => rfl
@[simp] theorem State.endJob_upSince (s : State) (j : Job) (status detail : Nat) :
    (s.endJob j status detail).upSince = s.upSince := State.of_plain (s.plain_unload j.jid) State.upSince fun _ => rfl
@[simp] theorem State.endJob_readyAt (s : State) (j : Job) (status detail : Nat) :
    (s.endJob j status detail).readyAt = s.readyAt := State.of_plain (s.plain_unload j.jid) State.readyAt fun _ => rfl
@[simp] theorem State.endJob_cold (s : State) (j : Job) (status detail : Nat) :
    (s.endJob j status detail).cold = s.cold := State.of_plain (s.plain_unload j.jid) State.cold fun _ => rfl
@[simp] theorem State.endJob_resetting (s : State) (j : Job) (status detail : Nat) :
    (s.endJob j status detail).resetting = s.resetting := State.of_plain (s.plain_unload j.jid) State.resetting fun _ => rfl
@[simp] theorem State.endJob_dieLog (s : State) (j : Job) (status detail : Nat) :
    (s.endJob j status detail).dieLog = s.dieLog := State.of_plain (s.plain_unload j.jid) State.dieLog fun _ => rfl
@[simp] theorem State.endJob_flashPend (s : State) (j : Job) (status detail : Nat) :
    (s.endJob j status detail).flashPend = s.flashPend := State.of_plain (s.plain_unload j.jid) State.flashPend fun _ => rfl
@[simp] theorem State.endJob_flashLog (s : State) (j : Job) (status detail : Nat) :
    (s.endJob j status detail).flashLog = s.flashLog := State.of_plain (s.plain_unload j.jid) State.flashLog fun _ => rfl
@[simp] theorem State.endJob_blockErases (s : State) (j : Job) (status detail : Nat) :
    (s.endJob j status detail).blockErases = s.blockErases := State.of_plain (s.plain_unload j.jid) State.blockErases fun _ => rfl
@[simp] theorem State.endJob_worn (s : State) (j : Job) (status detail : Nat) :
    (s.endJob j status detail).worn = s.worn := State.of_plain (s.plain_unload j.jid) State.worn fun _ => rfl
@[simp] theorem State.endJob_life (s : State) (j : Job) (status detail : Nat) :
    (s.endJob j status detail).life = s.life := State.of_plain (s.plain_unload j.jid) State.life fun _ => rfl
@[simp] theorem State.endJob_copies (s : State) (j : Job) (status detail : Nat) :
    (s.endJob j status detail).copies = s.copies := State.of_plain (s.plain_unload j.jid) State.copies fun _ => rfl
@[simp] theorem State.endJob_sensors (s : State) (j : Job) (status detail : Nat) :
    (s.endJob j status detail).sensors = s.sensors := State.of_plain (s.plain_unload j.jid) State.sensors fun _ => rfl
@[simp] theorem State.endJob_slotA (s : State) (j : Job) (status detail : Nat) :
    (s.endJob j status detail).slotA = s.slotA := State.of_plain (s.plain_unload j.jid) State.slotA fun _ => rfl
@[simp] theorem State.endJob_slotB (s : State) (j : Job) (status detail : Nat) :
    (s.endJob j status detail).slotB = s.slotB := State.of_plain (s.plain_unload j.jid) State.slotB fun _ => rfl
@[simp] theorem State.endJob_staged (s : State) (j : Job) (status detail : Nat) :
    (s.endJob j status detail).staged = s.staged := State.of_plain (s.plain_unload j.jid) State.staged fun _ => rfl
@[simp] theorem State.endJob_trialRun (s : State) (j : Job) (status detail : Nat) :
    (s.endJob j status detail).trialRun = s.trialRun := State.of_plain (s.plain_unload j.jid) State.trialRun fun _ => rfl
@[simp] theorem State.endJob_fuse (s : State) (j : Job) (status detail : Nat) :
    (s.endJob j status detail).fuse = s.fuse := State.of_plain (s.plain_unload j.jid) State.fuse fun _ => rfl
@[simp] theorem State.endJob_reruns (s : State) (j : Job) (status detail : Nat) :
    (s.endJob j status detail).reruns = s.reruns := State.of_plain (s.plain_unload j.jid) State.reruns fun _ => rfl
@[simp] theorem State.endJob_bar4 (s : State) (j : Job) (status detail : Nat) :
    (s.endJob j status detail).bar4 = s.bar4 := State.of_plain (s.plain_unload j.jid) State.bar4 fun _ => rfl
@[simp] theorem State.endJob_draws (s : State) (j : Job) (status detail : Nat) :
    (s.endJob j status detail).draws = s.draws := State.of_plain (s.plain_unload j.jid) State.draws fun _ => rfl

/-! ### Descriptors -/

/-- A descriptor that ends is the one found under its number. -/
@[simp] theorem State.job?_endJob (s : State) (j : Job) (status detail : Nat) :
    (s.endJob j status detail).job? j.jid = some { j with
      phase := .done, status := status, detail := detail, ended := s.tk, carry := [], books := [], fused := [], queued := []
      tried := [], drained := [], dense := [] } := by
  have ht : (s.unload j.jid).tk = s.tk := State.of_plain (s.plain_unload j.jid) State.tk fun _ => rfl
  simp only [State.job?, State.endJob, List.find?_append, ht]
  rw [List.find?_eq_none.2]
  · simp
  · intro x hx
    simpa using (List.mem_filter.1 hx).2

/-- Another descriptor stays as it is when one ends. -/
theorem State.job?_endJob_other (s : State) (j : Job) (status detail n : Nat) (h : n ≠ j.jid) :
    (s.endJob j status detail).job? n = s.job? n := by
  simp only [State.job?, State.endJob, State.unload_jobs, List.find?_append]
  have e : List.find? (fun x : Job => decide (x.jid = n)) (s.jobs.filter fun x => decide (x.jid ≠ j.jid)) =
      s.jobs.find? fun x => decide (x.jid = n) := by
    rw [List.find?_filter]
    congr 1
    funext x
    by_cases hn : x.jid = n
    · simp [hn, h]
    · simp [hn]
  rw [e]
  cases s.jobs.find? fun x => decide (x.jid = n) with
  | some _ => simp
  | none => simp [Ne.symm h]

/-- A descriptor found has the number it was looked up by. -/
theorem State.jid_of_job? {s : State} {n : Nat} {j : Job} (h : s.job? n = some j) : j.jid = n := by
  simpa using List.find?_some h

/-- A descriptor's event that is due takes its effect, and one that is not changes nothing. -/
theorem State.whenJob_eq {s : State} {n : Nat} {j : Job} (h : s.job? n = some j) (ok : Job → Bool) (f : Job → State) :
    s.whenJob n ok f = if ok j then f j else s := by
  simp [State.whenJob, h]

/-- No event of a descriptor that is not there changes anything. -/
theorem State.whenJob_none {s : State} {n : Nat} (h : s.job? n = none) (ok : Job → Bool) (f : Job → State) :
    s.whenJob n ok f = s := by
  simp [State.whenJob, h]

end Sys2Proof.Machine
end

