-- ==== Sys2Proof/Tests/Slice0.lean ====
section
/-! SUPPORT. The model's own tests: ill-formed operands that `Instr.wf` refuses, states and operands that meet the
hypotheses of each statement, and fixed values taken from the spec. -/

namespace Sys2Proof.Tests

open Sys2Proof Sys2Proof.Machine

set_option Elab.async false

/-! ### Small states -/

/-- A module in operation: power, the root clock, the host link, Nimbus, Zenith, two stacks and terrace 0 ready, HELLO done. -/
def sys : State :=
  let s : State := { State.reset with powerGood := true, helloDone := true, feat := 2 ^ 16 - 1, up := [0, 1, 8, 9, 64, 65, 128, 192, 193, 194, 195] }
  (s.setReg (rk .HI_LINK) 1024#64).setReg (rk .CK_STATUS) 1#64

/-- A command that has started in a mailbox, with its go bit: code, length, payload fields as (byte, length, value). -/
def put (mb code len : Nat) (p : List (Nat × Nat × Nat)) (s : State) : State :=
  let m := Mem.write (Mem.write (Mem.write s.mbox (4096 * mb + 16) [1]) (4096 * mb) (leBytes 2 code)) (4096 * mb + 12) (leBytes 2 len)
  let m := p.foldl (fun m f => Mem.write m (4096 * mb + 64 + f.1) (leBytes f.2.1 f.2.2)) m
  { s with mbox := m, mbReq := m }

/-- `MailboxDue` as a value. -/
def due (s : State) (c : Instr) : Bool :=
  match mbRowOf s c with
  | some (mb, r, mine) => s.mbWaits mb && s.mbField mb 0 2 = r.code && s.mbRefuse mb r = none && mine
  | none => false

theorem due_spec {s : State} {c : Instr} (h : due s c = true) : MailboxDue s c := by
  unfold due at h
  unfold MailboxDue
  generalize mbRowOf s c = x at h ⊢
  match x with
  | some (mb, r, mine) =>
    simp only [Bool.and_eq_true, decide_eq_true_eq] at h
    exact ⟨⟨h.1.1.1, h.1.1.2, h.1.2⟩, h.2⟩
  | none => cases h

/-- Does a step or a command answer a next state? -/
def goesOn (o : Res) : Bool := match o with | .next _ => true | _ => false

theorem next_of {o : Res} (h : goesOn o = true) : ∃ t : State, o = .next t := by
  cases o with
  | next t => exact ⟨t, rfl⟩
  | fault r => cases h
  | refused r => cases h

/-- A ring of 16 entries in host memory with `n` entries waiting. -/
def ring (cls n : Nat) : Ring := ⟨cls, 1, ⟨false, 0x100000, 4⟩, 0, n, 0, false, false⟩

/-- An allocation of 64 KiB on stack 0 at device address 0x10000. -/
def alloc : Alloc := ⟨0x10000, 0x10000, Hint.ofBytes (List.replicate 32 0), [0], 0, .onStacks, none, 0, 0⟩

/-- A descriptor's bytes from fields (byte, length, value). -/
def raw (p : List (Nat × Nat × Nat)) : List Byte :=
  Mem.read (p.foldl (fun m f => Mem.write m f.1 (leBytes f.2.1 f.2.2)) []) 0 128

/-- A descriptor dispatched from ring 0 to a unit. -/
def job (jid unit : Nat) (p : List (Nat × Nat × Nat)) : Job :=
  { Job.fresh jid 0 0 1 none (Desc.ofBytes (raw p)) (raw p) with unit := unit }

/-- A cascade of two, this module's index 0 and the master 1 behind port 15. -/
def pair : Casc := ⟨0, 1, 2, 3, List.replicate 15 none ++ [some 1], false⟩

/-- A member of that cascade with port 15 up. -/
def member : State := { sys.setFld (rk .LK_PORT_STATUS 0 15) 0 1 1 with casc := some pair }

/-! ### Operands that do not exist -/

theorem test_wf_ring : Instr.wf (.doorbellWrite 65536 false 0) = false ∧ Instr.wf (.doorbellWrite 65535 false 0) = true := by decide
theorem test_wf_mailbox : Instr.wf (.hello 72) = false ∧ Instr.wf (.mailboxCompletion 72) = false ∧ Instr.wf (.hello 71) = true := by decide
theorem test_wf_alloc : Instr.wf (.tensorAlloc 0 0 16 0) = false ∧ Instr.wf (.tensorAlloc 72 0 0 0) = false ∧ Instr.wf (.unitTest 72 none) = false := by decide
theorem test_wf_jet : Instr.wf (.swap 875 ⟨[], 0, []⟩) = false ∧ Instr.wf (.swap 874 ⟨[], 0, []⟩) = true ∧ Instr.wf (.swap 0 ⟨[0, 0, 0, 0, 0], 0, []⟩) = false ∧
    Instr.wf (.weightTileLoaded 875 [] 0) = false ∧ Instr.wf (.weightTileLoaded 0 [(0x800000, true)] 0) = false ∧
    Instr.wf (.preemption 0 ⟨0, [0, 0, 0, 0, 0]⟩) = false ∧ Instr.wf (.accumulatorEccError 595) = false := by decide
theorem test_wf_cq : Instr.wf (.msixTimer 4096) = false := by decide
theorem test_wf_terrace : Instr.wf (.haloComparison 35) = false ∧ Instr.wf (.failoverDone 35 0) = false ∧ Instr.wf (.bistWaveEnd [(35, 0)]) = false := by decide
theorem test_wf_pool : Instr.wf (.poolWriteRequest 140 0 0 0 [0]) = false ∧ Instr.wf (.poolWriteRequest 0 0 0 0 []) = false ∧
    Instr.wf (.poolWriteRequest 0 255 0 0 [0, 0]) = false ∧ Instr.wf (.poolWriteRequest 0 254 0 0 [0, 0]) = true ∧ Instr.wf (.poolWriteRequest 0 0x800000 0 0 [0]) = false ∧
    Instr.wf (.poolWriteRequest 0 0 6 0 [0]) = false ∧ Instr.wf (.poolWriteRequest 0 0 0 0 (List.replicate 257 0)) = false := by decide +kernel
theorem test_wf_link : Instr.wf (.hostLinkUp 16 0 false) = false ∧ Instr.wf (.hostLinkUp 0 32 false) = false := by decide
theorem test_wf_access : Instr.wf (.registerWrite 2 0 4 0) = false ∧ Instr.wf (.registerWrite 0 0 3 0) = false ∧
    Instr.wf (.rcCounterRead 0 16) = false ∧ Instr.wf (.eccInjectArm 140 0) = false := by decide
theorem test_wf_cascade : Instr.wf (.gopAnswer 256 0 false) = false ∧ Instr.wf (.gopAnswer 0 512 false) = false ∧
    Instr.wf (.gopAnswerTimeout 256) = false ∧ Instr.wf (.cascadeExchange 16 0 0 1 0) = false ∧ Instr.wf (.cascadeExchange 0 256 0 1 0) = false ∧
    Instr.wf (.cascadeExchange 0 0 256 1 0) = false ∧ Instr.wf (.cascadeExchange 0 0 0 512 0) = false ∧
    Instr.wf (.cascadeExchange 0 0 0 1 (2 ^ 256)) = false := by decide +kernel
theorem test_wf_remote : Instr.wf (.remoteDescriptor 256 0 0 0 (List.replicate 128 0)) = false ∧ Instr.wf (.remoteDescriptor 0 65536 0 0 (List.replicate 128 0)) = false ∧
    Instr.wf (.remoteDescriptor 0 0 0 4 (List.replicate 128 0)) = false ∧ Instr.wf (.remoteDescriptor 0 0 0 0 []) = false ∧
    Instr.wf (.remoteCompletion 0 []) = false := by decide +kernel
theorem test_wf_port : Instr.wf (.flitReceive 16 true 0 ⟨false, .nothing⟩) = false ∧ Instr.wf (.retrainDone 16) = false ∧ Instr.wf (.portUp 16) = false ∧
    Instr.wf (.laneFault 16 ⟨0, none⟩) = false ∧ Instr.wf (.laneFault 0 ⟨9, none⟩) = false := by decide
theorem test_wf_brought : Instr.wf (.flitReceive 0 true 0 ⟨false, .token 140 0 true false⟩) = false ∧ Instr.wf (.flitReceive 0 true 0 ⟨false, .token 0 64 true false⟩) = false ∧
    Instr.wf (.flitReceive 0 true 0 ⟨false, .write (2 ^ 24) 0 [0]⟩) = false ∧ Instr.wf (.flitReceive 0 true 0 ⟨false, .write 0 (2 ^ 64) [0]⟩) = false ∧
    Instr.wf (.flitReceive 0 true 0 ⟨false, .write 0 0 []⟩) = false ∧ Instr.wf (.flitReceive 0 true 0 ⟨false, .read 256 0 0 1⟩) = false ∧
    Instr.wf (.flitReceive 0 true 0 ⟨false, .read 0 3 0 1⟩) = false ∧ Instr.wf (.flitReceive 0 true 0 ⟨false, .read 0 0 (2 ^ 64) 1⟩) = false ∧
    Instr.wf (.flitReceive 0 true 0 ⟨false, .read 0 0 0 0⟩) = false ∧ Instr.wf (.flitReceive 0 true 0 ⟨false, .spill (2 ^ 40) 1 0⟩) = false ∧
    Instr.wf (.flitReceive 0 true 0 ⟨false, .spill 0 0 0⟩) = false ∧ Instr.wf (.flitReceive 0 true 0 ⟨false, .spill 0 1 16⟩) = false ∧
    Instr.wf (.flitReceive 0 true 0 ⟨false, .spillEnd (2 ^ 40)⟩) = false ∧ Instr.wf (.flitReceive 0 true 0 ⟨false, .onward 256 0 0⟩) = false ∧
    Instr.wf (.flitReceive 0 true 0 ⟨false, .onward 0 3 0⟩) = false := by decide
theorem test_wf_fronthaul : Instr.wf (.frameReceive 2 true []) = false ∧ Instr.wf (.fhPortState 2 true) = false ∧ Instr.wf (.symbolWrite 64 0) = false ∧
    Instr.wf (.symbolWrite 0 14) = false := by decide
theorem test_wf_stack : Instr.wf (.stackTrained 16) = false ∧ Instr.wf (.stackTrainingTimeout 16 0) = false ∧ Instr.wf (.dramPatrol 16 []) = false := by decide
theorem test_wf_faults : Instr.wf (.residueMismatch 595 0) = false ∧ Instr.wf (.residueMismatch 0x918 0) = false ∧ Instr.wf (.residueMismatch 0x917 0) = true ∧ Instr.wf (.residueMismatch 0 128) = false ∧ Instr.wf (.sparseEngineFault 280) = false := by decide
theorem test_wf_board : Instr.wf (.sensorSample []) = false ∧ Instr.wf (.inputPowerGood 8) = false := by decide

/-! ### The machine as a whole -/

/-- Rings of every kind of arbitration: two radio rings whose heads have no deadline, and a bulk ring. -/
def ringed : State := { sys with rings := [(3, ring 0 2), (5, ring 0 1), (9, ring 2 16)] }

/-- A bulk ring alone, with a doorbell at the front of the queue. -/
def bulk : State := { sys with rings := [(9, ring 2 15)], pending := [.doorbellWrite 9 false 16] }

theorem witness_bounded : bulk.bounded ∧ (∃ t : State, step bulk = .next t) ∧ bulk.debugOn = false ∧
    (∀ mb, bulk.pending.head? ≠ some (.debugUnlock mb)) :=
  ⟨⟨by unfold State.memoriesWf; decide +kernel, by unfold Ring.sound; decide +kernel, by decide, by decide⟩, next_of (by decide +kernel), by decide +kernel,
    fun _ h => by cases h⟩

/-! ### Registers -/

/-- A 64-bit register of a slot, a 32-bit one, one that the host may not write, a scale register, and places that hold none. -/
theorem witness_registers : regAt 0 0x1001880 = some (rk .BS_SLOT 0 16) ∧ (rk .BS_SLOT 0 16).bytes = 8 ∧
    regAt 0 0x1001980 = some (rk .BS_SLOT 0 48) ∧ sys.writeBarred (rk .BS_SLOT 0 48) = true ∧ sys.writeBarred (rk .BS_SLOT 0 16) = false ∧
    hasRow (rk .BS_SLOT 0 16) = false ∧ regAt 0 0x140000 = none ∧ regAt 0 0x3FFFFFF = none := by decide +kernel

/-- Registers of the configuration spaces of the host link and of the management link. -/
theorem witness_config : regAt 8 4 = some (rk .PCI_COMMAND) ∧ regAt 9 4 = some (rk .MCF_COMMAND) ∧ (rk .MCF_COMMAND).bytes = 4 ∧
    hasRow (rk .PCI_COMMAND) = false ∧ hasRow (rk .MCF_COMMAND) = false ∧ sys.writeBarred (rk .PCI_COMMAND) = false ∧
    sys.writeBarred (rk .MCF_COMMAND) = false := by decide +kernel

/-! ### Rings and dispatch -/

theorem witness_tick_radio : ringed.queueReady = true ∧ ringed.tickOpen ∧ 3 ∈ ringed.eligibles 0 ∧ 5 ∈ ringed.eligibles 0 ∧
    Tab.find? ringed.rings 3 = some (ring 0 2) ∧ ringed.headFails (ring 0 2) = false ∧
    (∀ n ∈ ringed.eligibles 0, n ≠ 3 → ringed.headDeadline 3 < ringed.headDeadline n ∨ (ringed.headDeadline 3 = ringed.headDeadline n ∧ 3 < n)) := by
  unfold State.tickOpen ordered; decide +kernel

theorem witness_tick_bulk : bulk.tickOpen ∧ bulk.eligibles 0 = [] ∧ bulk.eligibles 1 = [] ∧ bulk.eligibles 2 = [9] ∧
    Tab.find? bulk.rings 9 = some (ring 2 15) ∧ bulk.headFails (ring 2 15) = false := by
  unfold State.tickOpen ordered; decide +kernel

/-- A completion ring of 16 records in host memory, vector 5. -/
def cq : Cq := ⟨⟨false, 0x200000, 4⟩, 5, 0, 0, 0, 0, false⟩

/-- A BARRIER of two arrivals, id 1, for completion ring 0. -/
def barrier : List (Nat × Nat × Nat) := [(0, 1, 0x0B), (2, 3, 0xFF0001), (12, 4, 2), (40, 6, 1)]

/-- Ring 9 with one entry of given bytes. -/
def headed (c : Tab Cq) (p : List (Nat × Nat × Nat)) : State :=
  { sys with rings := [(9, ring 2 1)], cqs := c, host := Mem.write [] 0x100000 (raw p) }

/-- Ring 9 in device memory, in an allocation on stack 0, with a codeword that cannot be corrected or can. -/
def headedDev (n : Nat) : State :=
  { sys with rings := [(9, { ring 2 1 with place := ⟨true, 0x10000, 4⟩ })], allocs := [alloc], dramErr := [(0x10000 / 64, [(0, n)])] }

/-- What becomes of the head entry of ring 9. -/
def headVerdict (s : State) : Verdict := s.verdict (Desc.ofBytes (s.headBytes (ring 2 1))) (s.headBytes (ring 2 1))

theorem witness_head_entry : headVerdict (headed [] []) = .discard ∧ (headed [] []).headFails (ring 2 1) = false ∧
    headVerdict (headed [(0, { cq with closing := true })] barrier) = .discard ∧
    headVerdict (headed [(0, cq)] []) = .reject (0x2, 0) ∧ headVerdict (headed [(0, cq)] barrier) = .go 1 none none := by decide +kernel

/-- Eight symbol errors can be corrected and nine can not (R312). -/
theorem witness_head_fails : (headedDev 9).headFails { ring 2 1 with place := ⟨true, 0x10000, 4⟩ } = true ∧
    (headedDev 8).headFails { ring 2 1 with place := ⟨true, 0x10000, 4⟩ } = false := by decide +kernel

/-- A doorbell at the ring's size and one beyond it, and a running descriptor. -/
theorem witness_doorbell : Tab.find? bulk.rings 9 = some (ring 2 15) ∧ (16 + 2 ^ 32 - (ring 2 15).head) % 2 ^ 32 = 2 ^ (ring 2 15).place.z ∧
    2 ^ (ring 2 15).place.z < (17 + 2 ^ 32 - (ring 2 15).head) % 2 ^ 32 ∧ Tab.find? bulk.rings 8 = none ∧
    { sys with jobs := [{ job 4 0x200 [] with claimed := [(0, 0)] }] }.job? 4 = some { job 4 0x200 [] with claimed := [(0, 0)] } ∧
    (job 4 0x200 []).phase ≠ .done ∧ (∀ c ∈ [(0, 0)], isRemote c.1 = false) := by decide +kernel

/-- A completed descriptor whose completion ring lies in host memory, or in an allocation. -/
def completed (device : Bool) : State :=
  { sys with
    jobs := [{ job 4 0x200 [] with phase := .done }]
    cqs := [(0, if device then { cq with place := ⟨true, 0x10000, 4⟩ } else cq)]
    allocs := [alloc] }

theorem witness_records : (completed false).memoriesWf ∧ (completed false).postDue { job 4 0x200 [] with phase := .done } = true ∧
    (completed true).postDue { job 4 0x200 [] with phase := .done } = true ∧
    (completed true).loc (0x10000 % 2 ^ 56) = .dram 0x10000 0 ∧ bitOf (job 4 0x200 []).flags flRemote = false ∧
    (completed false).hostOpen = true ∧ { completed false with d3 := true }.hostOpen = false ∧
    { cq with n := 2 }.sends = [] ∧ cq.sends = [.vector 5] ∧
    Tab.find? { sys with cqs := [(0, { cq with since := 1, t := 1 })] }.cqs 0 = some { cq with since := 1, t := 1 } := by
  unfold State.memoriesWf; decide +kernel

/-- An event ring of 16 records with `n` posted and none consumed. -/
def eventful (device : Bool) (n : Nat) : State := { sys with evRing := some ⟨⟨device, 0x10000, 4⟩, n⟩, allocs := [alloc] }

theorem witness_events : (eventful false 15).evRoom ⟨⟨false, 0x10000, 4⟩, 15⟩ = true ∧ (eventful false 16).evRoom ⟨⟨false, 0x10000, 4⟩, 16⟩ = false ∧
    (eventful true 15).loc ((0x10000 + 64 * (15 % 2 ^ 4)) % 2 ^ 56) = .dram 0x103C0 0 ∧ (eventful true 15).memoriesWf ∧
    (payload []).length = 39 ∧ { eventful false 0 with d3 := true }.hostOpen = false ∧ (eventful false 15).hostOpen = true ∧ (eventful false 15).hostWait = [] := by unfold State.memoriesWf; decide +kernel

/-! ### Pools, the host link and debug -/

/-- Window 0 of basin 0 for units 2 to 3, the host class. -/
def windowed : State := sys.setReg (rk .BS_WIN 0 0) (BitVec.ofNat 64 (2 + 2 ^ 16 * 3 + 2 ^ 34 + 2 ^ 40))

/-- The window's first and last byte, one byte past it, and another class. -/
theorem witness_pool : Mem.wf windowed.dev = true ∧ windowed.poolErr = [] ∧ windowed.windowAdmits (windowed.physB 0) 0 0x200 0x200 2 ∧
    (∀ k < 16, ¬ windowed.windowAdmits (windowed.physB 0) k 0x200 0x201 2) ∧
    (∀ k < 16, ¬ windowed.windowAdmits (windowed.physB 0) k 0x200 0x200 3) := by
  refine ⟨by decide, by decide, by unfold State.windowAdmits; decide +kernel, ?_, ?_⟩ <;>
    (intro k hk; interval_cases k <;> (unfold State.windowAdmits; decide +kernel))

/-- BAR2 at device address 0, with one allocation. -/
def bar2 : State := { sys with allocs := [alloc] }

theorem witness_window : bar2.inbound 0x10000 64 = true ∧ bar2.loc (bar2.bar2 0x10000) = .dram 0x10000 0 ∧ bar2.bar2 0x10000 = 0x10000 ∧
    bar2.bar2 0x10000 % 64 + 64 ≤ 64 ∧
    (sys.setFld (rk .HI_LINK) 10 1 0).inbound 0x10000 64 = false := by decide +kernel

theorem witness_link : sys.bit (rk .HI_LINK) 10 = true ∧ (sys.setFld (rk .HI_LINK) 10 1 0).bit (rk .HI_LINK) 10 = false ∧
    sys.perst = false ∧ sys.powerGood = true ∧ State.reset.powerGood = false := by decide +kernel

theorem witness_ready_map : sys.readyChanges.head? = some 0 ∧ sys.plainEvents ∧ sys.dieLog.length + sys.readyChanges.length ≤ 1024 ∧
    sys.refreshReady.readyChanges = [] := ⟨by decide +kernel, (fun _ h => nomatch h), by decide +kernel, by decide +kernel⟩

/-- MSI-X enabled, every vector masked as after reset. -/
def msix : State := sys.setFld (rk .PCI_MSIX) 31 1 1

theorem witness_posts : msix.hostOpen = true ∧ msix.hostWait = [] ∧ { msix with d3 := true }.hostOpen = false ∧
    sys.bit (rk .PCI_MSIX) 31 = false ∧ msix.bit (rk .PCI_MSIX) 31 = true ∧ msix.bit (rk .PCI_MSIX) 30 = false ∧
    (msix.setFld (rk .PCI_MSIX) 30 1 1).bit (rk .PCI_MSIX) 30 = true ∧ (msix.setFld (rk .PCI_MSIX) 30 1 1).bit (rk .PCI_MSIX) 31 = true ∧
    msix.bit (rk .MSIX_CTRL 0 5) 0 = true ∧ (msix.setReg (rk .MSIX_CTRL 0 5) 0).bit (rk .MSIX_CTRL 0 5) 0 = false ∧
    [Post.write 0 [1]].all Post.isWrite = true ∧ msix.snapshotBegun = false ∧ { msix with snapshotBegun := true }.snapshotBegun = true := by decide +kernel

/-- Debug unlocked, the host holding the view of terrace 0 and jet 0 selected. -/
def debugged : State :=
  { (sys.setFld (rk .SC_STATUS) 0 1 1).setReg (rk .HI_DBG_SEL) 0 with bar4 := true, holders := [(resView 0, 1)] }

theorem witness_debug : debugged.debugOn = true ∧ debugged.bar4 = true ∧ debugged.fld (rk .HI_DBG_SEL) 0 10 = 0 ∧ debugged.logicalTof 0 = some 0 ∧
    debugged.holder (resView 0) = 1 ∧ debugged.fld (rk .JT_STATUS 0) 0 2 ≠ 3 ∧ sys.debugOn = false := by decide +kernel

/-- A sample of a MATMUL whose record has been posted waits on terrace 0. -/
def sampled : State := { sys with haloQ := [(0, [⟨0, 0, Desc.ofBytes (raw [(0, 1, 1)]), 1, 1, 1, 0, 0, 0, [(0, 0, false)], [], []⟩])] }

theorem witness_halo : (Tab.getD sampled.haloQ 0 []).find? (fun y => !sampled.inFlight y) =
      some ⟨0, 0, Desc.ofBytes (raw [(0, 1, 1)]), 1, 1, 1, 0, 0, 0, [(0, 0, false)], [], []⟩ ∧
    sampled.viewOpen 0 = false ∧ sampled.spared 0 = false ∧ sampled.holdPost = false ∧ { sampled with holdPost := true }.holdPost = true ∧ (Desc.ofBytes (raw [(0, 1, 1)])).opcode = opMatmul := by decide +kernel

/-! ### Mailboxes -/


/-- A mailbox command with faults laid into the header or payload bytes. -/
def faulty (mb code len : Nat) (p : List (Nat × Nat)) : State :=
  let m := p.foldl (fun m f => Mem.write m (4096 * mb + f.1) (leBytes 1 f.2)) (put mb code len [] sys).mbox
  { put mb code len [] sys with mbox := m, mbReq := m }

/-- A command of mailbox 63 that asks for a vector, and one that does not; the vector with the link up or down; a command
that an FLR has left, with and without another put in its place. -/
theorem witness_answer : Mem.wf (put 63 1 0 [] sys).mbox = true ∧ ([] : List Byte).length ≤ 4032 ∧ 63 < 72 ∧ 71 < 72 ∧
    bitOf ((put 63 1 0 [] sys).mbField 63 16 1) 2 = false ∧ bitOf ((faulty 63 1 0 [(16, 5)]).mbField 63 16 1) 2 = true ∧
    msix.bit (rk .HI_LINK) 10 = true ∧ msix.bit (rk .PCI_MSIX) 31 = true ∧ (msix.setFld (rk .HI_LINK) 10 1 0).bit (rk .HI_LINK) 10 = false ∧
    { sys with d3 := true }.hostOpen = false ∧ 63 ∉ (put 63 1 0 [] sys).mbGone ∧ 63 ∈ { put 63 1 0 [] sys with mbGone := [63] }.mbGone ∧
    { put 63 1 0 [] sys with mbGone := [63] }.mbGo 63 = true ∧ { sys with mbGone := [63] }.mbGo 63 = false ∧
    bitOf ((faulty 71 1 0 [(16, 5)]).mbField 71 16 1) 2 = true ∧ sys.bit (rk .MCF_MSIX) 31 = false ∧
    (let m := sys.setFld (rk .MCF_MSIX) 31 1 1; m.bit (rk .MCF_MSIX) 31 = true ∧ m.bit (rk .MCF_VEC_CTRL) 0 = true ∧
      (m.setReg (rk .MCF_VEC_CTRL) 0).bit (rk .MCF_VEC_CTRL) 0 = false ∧ (m.setReg (rk .MCF_VEC_CTRL) 0).bit (rk .MCF_MSIX) 30 = false) := by decide +kernel

/-- The checks of R360 in turn, each failing at its first and last place. -/
theorem witness_checks : (faulty 0 3 4 [(16, 9)]).mbWaits 0 = true ∧ (faulty 0 3 4 [(16, 9)]).headerFault 0 16 ∧
    (faulty 0 3 4 [(63, 1)]).headerFault 0 63 ∧ (∀ o < 63, ¬ (faulty 0 3 4 [(63, 1)]).headerFault 0 o) ∧ (∀ o < 64, ¬ (faulty 0 3 4 []).headerFault 0 o) ∧
    (56 ≤ 56 ↔ (0x100 : Nat) ≤ 0x100) ∧ (56 ≤ 55 ↔ (0x100 : Nat) ≤ 0x30) ∧ { faulty 0 3 4 [] with up := [] }.servant 0 3 = false ∧ (faulty 0 3 4 []).servant 0 3 = true ∧
    { faulty 0 3 4 [] with helloDone := false }.helloDone = false ∧ bitOf { faulty 0 3 4 [] with feat := 0 }.feat 0 = false ∧
    (faulty 0 3 5 []).mbField 0 12 2 ≠ 4 ∧ (faulty 0 3 4 []).mbField 0 12 2 = 4 ∧
    (faulty 0 3 4 [(66, 1)]).payloadFault 0 (Cmd.fixed 3 0 4 [(0, 2)]) 2 ∧ (faulty 0 3 4 [(67, 1)]).payloadFault 0 (Cmd.fixed 3 0 4 [(0, 2)]) 3 := by
  unfold State.headerFault State.payloadFault; decide +kernel

theorem witness_hello : MailboxDue (put 0 1 64 [(0, 2, 5), (8, 8, 3)] sys) (.hello 0) ∧
    MailboxDue (put 0 1 64 [(0, 2, 5)] bulk) (.hello 0) ∧ bulk.rings ≠ [] ∧ sys.rings = [] ∧ sys.cqs = [] :=
  ⟨due_spec (by decide +kernel), due_spec (by decide +kernel), by decide, by decide, by decide⟩

/-- Setups at both ends of the sizes, in host memory and in an allocation. -/
theorem witness_setups :
    MailboxDue (put 0 2 16 [(0, 2, 9), (2, 1, 2), (3, 1, 1), (4, 1, 4), (8, 8, 0x100000)] sys) (.ringSetup 0) ∧
    MailboxDue (put 0 2 16 [(3, 1, 255), (4, 1, 4), (5, 1, 1), (8, 8, 0x10000)] bar2) (.ringSetup 0) ∧ bar2.mappedRange 0x10000 (128 * 2 ^ 4) = true ∧
    MailboxDue (put 0 4 24 [(0, 2, 4095), (2, 1, 16), (4, 2, 2045), (8, 8, 0x200000)] sys) (.cqSetup 0) ∧
    MailboxDue (put 0 6 16 [(0, 1, 16), (8, 8, 0x300000)] sys) (.eventSetup 0) ∧ sys.evLost = 0 ∧
    MailboxDue (put 0 6 16 [] (eventful false 0)) (.eventTeardown 0) :=
  ⟨due_spec (by decide +kernel), due_spec (by decide +kernel), by decide +kernel, due_spec (by decide +kernel), due_spec (by decide +kernel), by decide,
    due_spec (by decide +kernel)⟩

theorem witness_teardowns : MailboxDue (put 0 3 4 [(0, 2, 9)] bulk) (.ringTeardown 0) ∧ Tab.find? bulk.rings 9 = some (ring 2 15) ∧
    MailboxDue (put 0 5 4 [] (completed false)) (.cqTeardown 0) ∧ Tab.find? (completed false).cqs 0 = some cq ∧
    { sys with jobs := [job 4 0x200 []] }.ringUsed 0 = true ∧ sys.ringUsed 0 = false ∧ (job 4 0x200 []).cancels 0 = true ∧
    { job 5 0x200 [] with issued := some 0 }.cancels 0 = false ∧ ([job 4 0x200 [], { job 5 0x200 [] with issued := some 0 }].map Job.jid).Nodup ∧
    { ring 2 15 with closing := true }.closing = true ∧ { cq with closing := true }.closing = true ∧ cq.closing = false ∧
    (∃ j ∈ (completed false).jobs, j.origin = none ∧ j.d.cq = 0) ∧ (∀ j ∈ sys.jobs, j.origin = none → j.d.cq ≠ 0) :=
  ⟨due_spec (by decide +kernel), by decide +kernel, due_spec (by decide +kernel), by decide +kernel, by decide +kernel, by decide +kernel,
    by decide +kernel, by decide +kernel⟩

/-- Group 0x1000 with members, and a GROUP_BIND of an action on it that carries one handle or none. -/
def grouped (a : Nat) (ms hs : List Nat) : State :=
  put 0 7 (8 + 4 * hs.length) ([(0, 2, 0x1000), (2, 1, a), (4, 2, hs.length)] ++ hs.map fun h => (8, 3, h))
    { sys with groups := if ms.isEmpty then [] else [(0x1000, ms)] }

theorem witness_groups : MailboxDue (grouped 0 [] [0xFF0200]) (.groupBindReplace 0) ∧ MailboxDue (grouped 1 [0xFF0201] [0xFF0200]) (.groupBindAdd 0) ∧
    MailboxDue (grouped 2 [0xFF0201, 0xFF0200] [0xFF0200]) (.groupBindRemove 0) ∧ MailboxDue (grouped 3 [0xFF0201] []) (.groupBindUnbind 0) ∧
    MailboxDue (grouped 2 [] [0xFF0200]) (.groupBindRemove 0) ∧ MailboxDue (grouped 3 [] []) (.groupBindUnbind 0) ∧
    (grouped 0 [] [0xFF0200]).groupArgs 0 = [0xFF0200] ∧ sys.handleOk 0xFF0200 = true ∧ sys.canonical 0xFF0200 = 0xFF0200 ∧
    groupReaches sys.isHere [] 0x1000 32 0xFF0200 = false ∧ groupDepth sys.isHere [(0x1000, [0xFF0200])] 18 (hereHandle 0x1000) ≤ 16 :=
  ⟨due_spec (by decide +kernel), due_spec (by decide +kernel), due_spec (by decide +kernel), due_spec (by decide +kernel), due_spec (by decide +kernel),
    due_spec (by decide +kernel), by decide +kernel, by decide +kernel, by decide +kernel, by decide +kernel, by decide +kernel⟩

/-- A list without repeats stays as it is. -/
theorem eraseDups_nodup {l : List Nat} (h : l.Nodup) : l.eraseDups = l := by
  induction l with
  | nil => rfl
  | cons a l ih =>
    obtain ⟨ha, hl⟩ := List.nodup_cons.1 h
    rw [List.eraseDups_cons, List.filter_eq_self.2, ih hl]
    intro b hb
    have hn : b ≠ a := fun e => ha (e ▸ hb)
    simp [hn]

/-- A group of 1,006 members and one more. -/
theorem witness_group_limit : 1006 < (Tab.getD (grouped 1 (List.range 1006) [0xFF0200]).groups 0x1000 [] ++ [0xFF0200]).eraseDups.length := by
  have h (l : List Nat) (hl : l ≠ []) : Tab.getD (grouped 1 l [0xFF0200]).groups 0x1000 [] = l := by
    simp [grouped, put, hl, Tab.getD, Tab.find?]
  rw [h _ (by simp), eraseDups_nodup]
  · simp
  · simp only [List.nodup_append, List.nodup_range, List.mem_range, List.mem_singleton]
    exact ⟨trivial, by simp, by omega⟩

/-- A list that names the group itself, one that makes a chain of 17 groups; a group that held only the group unbound. -/
theorem witness_group_bounds : (grouped 0 [] [0xFF1000]).groupArgs 0 = [0xFF1000] ∧ sys.canonical 0xFF1000 = hereHandle 0x1000 ∧
    groupReaches sys.isHere [] 0x1000 32 0xFF1000 = true ∧
    (let gs : Tab (List Nat) := (List.range 16).map fun i => (0x1001 + i, [if i = 15 then 0xFF0200 else 0xFF1002 + i]);
      groupReaches sys.isHere gs 0x1000 32 0xFF1001 = false ∧ 16 < groupDepth sys.isHere (Tab.put gs 0x1000 [0xFF1001]) 18 (hereHandle 0x1000) ∧
      (0x1000, [0xFF1001]) ∈ Tab.put gs 0x1000 [0xFF1001]) ∧
    (let gs : Tab (List Nat) := [(0x1000, [0xFF0200]), (0x1001, [0xFF1000])];
      ordered gs ∧ 0x1001 ≠ 0x1000 ∧ Tab.find? gs 0x1001 = some [0xFF1000] ∧ (∃ h ∈ [0xFF1000], sys.isHere (h / 2 ^ 16) = true ∧ h % 2 ^ 16 = 0x1000) ∧
      ∀ h ∈ [0xFF1000], sys.isHere (h / 2 ^ 16) = true ∧ h % 2 ^ 16 = 0x1000) := by unfold ordered; decide +kernel

theorem witness_allocs : MailboxDue (put 0 0x10 40 [(0, 8, 1)] sys) (.tensorAlloc 0 0x10000 1 0) ∧
    (put 0 0x10 40 [(0, 8, 1)] sys).allocCheck 0 (Hint.ofBytes ((put 0 0x10 40 [(0, 8, 1)] sys).payBytes 0 8 32)) = none ∧
    sys.chosen (Hint.ofBytes (List.replicate 32 0)) 0 = [0, 1] ∧ sys.roomOn [0, 1] 65536 1 = true ∧
    MailboxDue (put 0 0x11 8 [(0, 8, 0x10000)] bar2) (.tensorFree 0) ∧ bar2.allocOf 0x10000 = some alloc ∧ 0x10000 % 2 ^ 47 = alloc.base ∧
    MailboxDue (put 0 0x13 8 [(0, 8, 0x1FFFF)] bar2) (.placeQuery 0) ∧ bar2.allocOf 0x1FFFF = some alloc :=
  ⟨due_spec (by decide +kernel), by decide +kernel, by decide +kernel, by decide +kernel, due_spec (by decide +kernel), by decide +kernel, by decide +kernel,
    due_spec (by decide +kernel), by decide +kernel⟩

/-- An allocation that fills stack 0. -/
def big : Alloc := { alloc with size := 2 ^ 34 }

/-- A hint that lets a spill go to a peer. -/
def farHint : Hint := { alloc.hint with spill := 2 }

/-- Stack 0 full of one allocation of priority 0, host memory granted for it, and a TENSOR_ALLOC of priority 1 that waits for stack 0. -/
def crowded : State :=
  put 0 0x10 40 [(0, 8, 65536), (8, 1, 2), (10, 1, 1), (12, 2, 1)] { sys with allocs := [big], grants := [(2 ^ 40, 2 ^ 35)] }

theorem witness_spill : MailboxDue (put 0 0x12 24 [(0, 8, 0x1000), (8, 8, 0x1000)] sys) (.spillGrant 0) ∧
    MailboxDue (put 0 0x12 24 [(0, 8, 0x1000), (8, 8, 0x1000), (16, 1, 1)] sys) (.spillRevoke 0) ∧
    (∃ w ∈ crowded.wants, (crowded.victims w.1 w.2.1).find? (fun v => (crowded.spillPlace v).isSome) = some big) ∧
    crowded.allocs.find? (fun y => y.base = big.base) = some big ∧ big.lies = .onStacks ∧ crowded.errorsOf big = [] ∧
    crowded.destOk alloc.hint (2 ^ 34) (2 ^ 40) = true ∧ crowded.hostOpen = true ∧
    ({ crowded with casc := some pair }.setFld (rk .LK_PORT_STATUS 0 15) 0 1 1).destOk farHint 65536 (2 ^ 56 + 1) = true ∧ sys.wants = [] :=
  ⟨due_spec (by decide +kernel), due_spec (by decide +kernel), by decide +kernel, by decide +kernel, by decide +kernel, by decide +kernel,
    by decide +kernel, by decide +kernel, by decide +kernel, by decide +kernel⟩

/-- An allocation spilled to host memory or to a peer, and room for it. -/
def spilled (l : Lies) : State := ({ member with allocs := [{ alloc with lies := l }], fillDue := true }).setReg (rk .PL_CFG) 1

theorem witness_fill : (∀ l ∈ [Lies.host 0x40000, .peer 1], let s := spilled l;
      s.bit (rk .PL_CFG) 0 = true ∧ s.placement = true ∧ s.fillDue = true ∧
      s.fillOrder.find? (fun y => (s.fillStacks y).isSome && s.fillReach y) = some { alloc with lies := l } ∧
      s.fillStacks { alloc with lies := l } = some [0, 1]) ∧
    sys.fillDue = false ∧ (sys.setReg (rk .PL_CFG) 0).bit (rk .PL_CFG) 0 = false := by decide +kernel

/-- A SPILL_REVOKE of the range in which an allocation lies, with room for it on the stacks or none. -/
def revoking (room : Bool) : State :=
  let s := spilled (.host 0x40000)
  put 0 0x12 24 [(0, 8, 0x40000), (8, 8, 0x10000), (16, 1, 1)]
    { s with grants := [(0x40000, 0x10000)], allocs := s.allocs ++ if room then [] else [{ alloc with base := 2 ^ 36, size := 2 ^ 35, stackList := [0, 1] }] }

theorem witness_revoke : MailboxDue (revoking true) (.spillRevoke 0) ∧ MailboxDue (revoking false) (.spillRevoke 0) ∧
    (∀ b, (revoking b).hostLies { alloc with lies := .host 0x40000 } 0x40000 0x10000 = true) ∧ grantsApart (revoking true).grants ∧
    ((revoking true).allocs.map Alloc.base).Nodup ∧ (revoking true).hostLies alloc 0x40000 0x10000 = false ∧
    (∀ b, (revoking b).fillOrder.filter (fun x => (revoking b).hostLies x 0x40000 0x10000) = [{ alloc with lies := .host 0x40000 }]) ∧
    ((revoking true).fillAll' [{ alloc with lies := .host 0x40000 }]).isSome = true ∧ (revoking false).fillAll' [{ alloc with lies := .host 0x40000 }] = none ∧
    (revoking true).fillStacks { alloc with lies := .host 0x40000 } = some [0, 1] ∧ (revoking true).fillReach { alloc with lies := .host 0x40000 } = true :=
  ⟨due_spec (by decide +kernel), due_spec (by decide +kernel), by decide +kernel, by unfold grantsApart; decide +kernel, by decide +kernel, by decide +kernel,
    by decide +kernel, by decide +kernel, by decide +kernel, by decide +kernel, by decide +kernel⟩

/-- A TENSOR_LOAD of `n` bytes to the allocation from host memory, from device memory, or through the encoder. -/
def loading (kind : Nat) : State :=
  put 0 0x15 56 ([(0, 8, 0x12000), (8, 8, 0x14000), (16, 8, 256), (24, 1, kind)] ++
    if kind = 2 then [(26, 1, 6), (28, 4, 1), (32, 4, 32), (40, 8, 0x16000), (48, 8, 0x18000)] else []) bar2

theorem witness_load : MailboxDue (loading 0) (.tensorLoad 0) ∧ (loading 0).loadDev 0 = false ∧ (loading 0).reaches 0x14000 256 = true ∧
    MailboxDue (loading 1) (.tensorLoad 0) ∧ (loading 1).loadDev 0 = true ∧ (loading 1).reaches 0x12000 256 = true :=
  ⟨due_spec (by decide +kernel), by decide +kernel, by decide +kernel, due_spec (by decide +kernel), by decide +kernel, by decide +kernel⟩

theorem witness_encode : MailboxDue (loading 2) (.tensorLoadEncode 0) ∧ ((loading 2).loadFmt 0).any (fun f => f.tileable && f.lead = 0) = true ∧
    (loading 2).reaches 0x16000 64 true = true ∧ (loading 2).reaches 0x18000 512 true = true :=
  ⟨due_spec (by decide +kernel), by decide +kernel, by decide +kernel, by decide +kernel⟩

theorem witness_monitor : MailboxDue (put 0 0x20 16 [(0, 2, 4095), (2, 2, 1), (4, 1, 3), (8, 8, 0x1000)] sys) (.monitorSnapshot 0) ∧
    MailboxDue (put 0 0x20 16 [(2, 2, 4096), (4, 1, 2), (8, 8, 0x1000)] sys) (.monitorSnapshot 0) ∧ sys.closeCovers 0 4096 = false ∧
    MailboxDue (put 0 0x21 16 [(2, 2, 1), (4, 1, 2), (8, 8, 0x1000)] sys) (.monitorRestore 0) ∧ sys.hostOpen = true ∧
    recordsFault (List.replicate 128 0) 1 = none ∧ (recordsFault (List.replicate 128 255) 1).isSome = true :=
  ⟨due_spec (by decide +kernel), due_spec (by decide +kernel), by decide +kernel, due_spec (by decide +kernel), by decide +kernel, by decide +kernel,
    by decide +kernel⟩

/-- Snapshots and restores over device memory, and step closes that cover the last slot, written before and after the command. -/
theorem witness_monitor_device : MailboxDue (put 0 0x20 16 [(0, 2, 4095), (2, 2, 1), (4, 1, 1), (8, 8, 0x1FF80)] bar2) (.monitorSnapshot 0) ∧
    bar2.reaches 0x1FF80 (128 * 1) = true ∧ MailboxDue (put 0 0x21 16 [(0, 2, 4095), (2, 2, 1), (8, 8, 0x1FF80)] bar2) (.monitorRestore 0) ∧
    bitOf 1 1 = false ∧ bitOf 1 0 = true ∧
    (let s : State := { sys with weirQ := [⟨7, 4095, 4095, [], []⟩] };
      s.closeCovers 4095 1 8 = true ∧ s.closeCovers 4095 1 7 = false ∧ s.closeCovers 4094 1 8 = false ∧ s.closeCovers 4095 1 = true) :=
  ⟨due_spec (by decide +kernel), by decide +kernel, due_spec (by decide +kernel), by decide +kernel, by decide +kernel, by decide +kernel⟩

/-- A PHASE_PLAN of an action for plan 15, with a table of 8 phases and one shard in the allocation. -/
def planned (a : Nat) (ps : Tab Plan) : State :=
  put 0 0x14 16 [(0, 1, a), (1, 1, 15), (2, 1, if a = 1 then 7 else 0), (8, 8, if a = 0 then 0x10000 else 0)]
    { bar2 with plans := ps, dev := Mem.write [] 0x10000 [15, 0, 8, 0, 1, 0] }

theorem witness_plans : MailboxDue (planned 0 []) (.phasePlanDefine 0) ∧ (planned 0 []).reaches 0x10000 64 true = true ∧
    fieldAt ((planned 0 []).peek zenithWho 0x10000 0 64) 0 2 = 15 ∧ fieldAt ((planned 0 []).peek zenithWho 0x10000 0 64) 2 1 = 8 ∧
    fieldAt ((planned 0 []).peek zenithWho 0x10000 0 64) 4 2 = 1 ∧ (∀ o ∈ ((planned 0 []).peek zenithWho 0x10000 0 64).drop 6, o = 0) ∧
    (planned 0 []).reaches 0x10000 (64 + 4 * 8 * 1) true = true ∧
    MailboxDue (planned 1 [(15, ⟨8, 1, 0, List.replicate 8 0⟩)]) (.phasePlanSelect 0) ∧ (planned 1 []).pay 0 2 1 < 8 ∧
    MailboxDue (planned 2 [(15, ⟨8, 1, 0, List.replicate 8 0⟩)]) (.phasePlanDrop 0) ∧
    MailboxDue (planned 1 []) (.phasePlanSelect 0) ∧ MailboxDue (planned 2 []) (.phasePlanDrop 0) :=
  ⟨due_spec (by decide +kernel), by decide +kernel, by decide +kernel, by decide +kernel, by decide +kernel, by decide +kernel, by decide +kernel,
    due_spec (by decide +kernel), by decide +kernel, due_spec (by decide +kernel), due_spec (by decide +kernel), due_spec (by decide +kernel)⟩

theorem witness_profiles : MailboxDue (put 0 0x22 64 [(1, 1, 15)] sys) (.emuBasadCfgGet 0) ∧
    MailboxDue (put 0 0x22 64 [(0, 1, 1), (1, 1, 15), (2, 1, 1), (4, 4, 0xFFFF), (8, 4, 1), (12, 4, 0x1FFFF)] sys) (.emuBasadCfgSet 0) :=
  ⟨due_spec (by decide +kernel), due_spec (by decide +kernel)⟩

theorem witness_resources : MailboxDue (put 56 0x100 4 [(0, 2, 0x100)] sys) (.resourceClaim 56) ∧ sys.holder 0x100 = 0 ∧
    { sys with holders := [(0x100, 2)] }.holder 0x100 = 2 ∧ MailboxDue (put 56 0x100 4 [(0, 2, 0x200)] debugged) (.resourceClaim 56) ∧
    debugged.debugOn = true ∧ debugged.holder 0x200 = 1 ∧ MailboxDue (put 64 0x100 4 [(0, 2, 0x200)] sys) (.resourceClaim 64) ∧
    MailboxDue (put 56 0x101 4 [(0, 2, 1)] sys) (.resourceRelease 56) ∧ sys.ppsWait = false ∧ { sys with holders := [(1, 1)] }.holder 1 = 1 :=
  ⟨due_spec (by decide +kernel), by decide +kernel, by decide +kernel, due_spec (by decide +kernel), by decide +kernel, by decide +kernel,
    due_spec (by decide +kernel), due_spec (by decide +kernel), by decide +kernel, by decide +kernel⟩

theorem witness_nimbus : MailboxDue (put 56 0x102 4 [(0, 1, 119), (1, 1, 1)] sys) (.sensorRead 56) ∧
    MailboxDue (put 56 0x102 4 [(0, 1, 120), (1, 1, 1)] sys) (.sensorRead 56) ∧
    MailboxDue (put 56 0x103 24 [(0, 8, 0x1000), (8, 4, 64), (12, 1, 1)] sys) (.logRead 56) ∧
    MailboxDue (put 56 0x104 16 [(0, 8, 0x1000), (8, 4, 4096)] sys) (.lifetimeRead 56) ∧
    MailboxDue (put 71 0x114 16 [(0, 8, 0x1000), (8, 4, 4096)] sys) (.certRead 71) ∧
    MailboxDue (put 56 0x112 40 [(0, 8, 7), (32, 8, 0x1000)] sys) (.attest 56) ∧ sys.powered = true ∧ State.reset.powered = false ∧
    Tab.find? { sys with mbMark := [(56, (0, 7, 8))] }.mbMark 56 = some (0, 7, 8) ∧ Tab.find? sys.mbMark 56 = none ∧
    (Tab.find? ((put 56 0x103 24 [] sys).mbStart 56).mbMark 56).isSome = true :=
  ⟨due_spec (by decide +kernel), due_spec (by decide +kernel), due_spec (by decide +kernel), due_spec (by decide +kernel), due_spec (by decide +kernel),
    due_spec (by decide +kernel), by decide, by decide, by decide, by decide, by decide +kernel⟩

/-- The token check is not decided by the model (R488): a token of a wrong length fails it. -/
theorem witness_debug_mailbox : MailboxDue (put 56 0x113 16 [(0, 8, 0x1000), (8, 4, 1)] sys) (.debugUnlock 56) ∧ sys.tokenOk [0] = false ∧
    MailboxDue (put 64 0x113 16 [] debugged) (.debugRelock 64) ∧ sys.hostOpen = true := by
  refine ⟨due_spec (by decide +kernel), by simp [State.tokenOk], due_spec (by decide +kernel), by decide +kernel⟩

/-! ### Firmware, resets and bring-up -/

/-- A FW_STAGE of `n` bytes. -/
def staging (n : Nat) (s : State) : State := put 56 0x110 16 [(0, 8, 0x1000), (8, 4, n)] s

theorem witness_stage : MailboxDue (staging (2 ^ 24 + 1) sys) (.fwStage 56) ∧ MailboxDue (staging 4 sys) (.fwStage 56) ∧ sys.staging = false ∧
    sys.trialPending = false ∧ { sys with mbRun := [(64, .fwStage true (Image.ofBytes []))] }.staging = true ∧ (sys.setFld (rk .SC_STATUS) 3 1 1).trialPending = true ∧
    (Image.ofBytes []).verifies = false := by
  refine ⟨due_spec (by decide +kernel), due_spec (by decide +kernel), by decide +kernel, by decide +kernel, by decide +kernel, by decide +kernel, ?_⟩
  decide +kernel

theorem witness_activate : MailboxDue (put 56 0x111 4 [] { sys with staged := some true }) (.fwActivate 56) ∧ sys.inRecovery = false ∧
    MailboxDue (put 56 0x111 4 [(0, 1, 1)] { sys with staged := some true }) (.fwActivateResetNow 56) ∧ sys.activeB = false ∧
    MailboxDue (put 56 0x111 4 [] sys) (.fwActivate 56) ∧ sys.staged ≠ some (!sys.activeB) :=
  ⟨due_spec (by decide +kernel), by decide +kernel, due_spec (by decide +kernel), by decide +kernel, due_spec (by decide +kernel), by decide⟩

/-- Input power is good, the clocks run and nothing is ready. -/
def powered : State := { sys with up := [] }

/-- Nimbus is ready and bring-up runs. -/
def starting : State := { sys with up := [0], slotB := some ⟨7, 0, 0, true, []⟩ }

theorem witness_boot : powered.own 0 = false ∧ powered.trialPending = false ∧ powered.trialRun = false ∧ powered.bootable powered.activeB = true ∧
    powered.fld (rk .CK_RESET_CAUSE) 0 3 = 0 ∧ (powered.setFld (rk .CK_RESET_CAUSE) 0 3 2).fld (rk .CK_RESET_CAUSE) 0 3 ≠ 0 ∧
    { powered with slotA := none }.bootable false = false ∧ { powered with slotA := none }.bootable true = false ∧ sys.own 0 = true ∧
    starting.bringing = true ∧ starting.own 1 = false ∧ { starting with trialRun := true }.trialRun = true ∧ starting.slotLevel true ≤ 64 ∧
    starting.nimbus = true ∧ powered.cold = true ∧ { powered with cold := false }.cold = false := by decide +kernel

/-- A trial that waits for Nimbus to start, its slot bootable or not, with and without another slot to go back to. -/
def onTrial (a b : Option Image) : State := { powered.setFld (rk .SC_STATUS) 3 1 1 with slotA := a, slotB := b }

/-- Images that boot; slots without one; a step on a tick of a whole ns while a fuse of slot B waits. -/
theorem witness_trials : (onTrial none (some ⟨0, 0, 0, true, []⟩)).trialPending = true ∧ (onTrial none none).trialRun = false ∧
    (onTrial none none).countBoot.bootable (!(onTrial none none).countBoot.activeB) = false ∧
    (onTrial none (some ⟨64, 0, 0, true, []⟩)).countBoot.bootable (!(onTrial none (some ⟨64, 0, 0, true, []⟩)).countBoot.activeB) = true ∧
    (let r := (onTrial none none).countBoot.rollback 0; r.bootable r.activeB = false ∧ r.bootable (!r.activeB) = false) ∧
    (let r := (onTrial (some ⟨0, 0, 0, true, []⟩) none).countBoot.rollback 0; r.bootable r.activeB = true) ∧
    (32 + 1) % 33 = 0 ∧ { starting with fuse := some (true, 0) }.fuse = some (true, 0) ∧ starting.fused < min (starting.slotLevel true) 64 := by decide +kernel

theorem witness_device_resets : sys.powerGood = true ∧ sys.tripped = false ∧ sys.bit (rk .CK_STATUS) 0 = true ∧ State.reset.powerGood = false ∧
    { sys with perst := true }.perst = true ∧ sys.fld (rk .CK_RESET_CAUSE) 0 3 ≠ 1 ∧ sys.own 9 = true ∧
    (sys.setFld (rk .CK_RESET_CAUSE) 0 3 1).fld (rk .CK_RESET_CAUSE) 0 3 = 1 ∧ State.reset.own 9 = false ∧
    { sys with tripped := true }.hottest 0 70 < 680 ∧ 680 ≤ { sys with sensors := [(69, 680#16)] }.hottest 0 70 ∧
    { sys with snapshotBegun := true }.snapshotBegun = true ∧ sys.snapshotBegun = false := by decide +kernel

theorem witness_compute_reset : bitsOf 0xA501 8 8 = 0xA5 ∧ bitsOf 0xA501 0 2 = 1 ∧ bitsOf 0xA401 8 8 ≠ 0xA5 ∧ { sys with resetting := true }.resetting = true ∧
    sys.gop = none ∧ (∃ j ∈ [job 4 0x200 []], j.phase ≠ .done ∧ j.phase ≠ .away) := by decide +kernel

theorem witness_flr : bulk.powerGood = true ∧ ordered bulk.rings ∧ debugged.holder (resView 0) = 1 := by unfold ordered; decide +kernel

theorem witness_bring_up : State.reset.powerGood = false ∧ State.reset.tripped = false ∧ starting.own (64 + 15) = false ∧ starting.stackFailed 15 = false ∧
    starting.bistNext < 35 ∧ starting.bistWave = 1 ∧ starting.terraceOut 0 = false ∧ State.reset.bringing = false ∧
    [(34, 5)].find? (fun x : Nat × Nat => x.1 = 34) = some (34, 5) ∧ { starting with bistNext := 34 }.bistNext < 35 ∧ 32 ≤ 34 ∧ 31 < 32 ∧
    Tab.find? starting.failing 31 = none ∧ starting.terraceOut 31 = false ∧ State.reset.tripStays = false ∧ State.reset.newestCopy.map = [] ∧
    { State.reset with tripped := true, tripStays := true }.powerGood = false ∧
    (let s : State := { State.reset with copies := [(0, ⟨{ Life.zero with saves := 3 }, true⟩), (1, ⟨{ Life.zero with saves := 4 }, false⟩)] };
      (0, ⟨{ Life.zero with saves := 3 }, true⟩) ∈ s.copies ∧ s.newestCopy.saves = 3) := by decide +kernel

/-! ### Cascades, Rill and radio time -/

/-- A CASCADE_JOIN of two members, own index 0 and the master 1 behind a port. -/
def joining (n : Nat) (s : State) : State :=
  put 0 0x30 72 ([(0, 1, 0), (1, 1, 1), (2, 2, n), (4, 32, 3)] ++ (List.range 16).map fun p => (36 + 2 * p, 2, if p = 15 then 1 else 0xFFFF)) s

theorem witness_members : MailboxDue (joining 2 sys) (.cascadeJoin 0) ∧ ((joining 2 sys).cascArg 0).bad = none ∧ (joining 2 sys).cascArg 0 = pair ∧
    pair.near = [1] ∧ ((joining 3 sys).cascArg 0).bad = some 66 ∧ sys.neigh = [] ∧ MailboxDue (joining 2 member) (.cascadeJoin 0) ∧
    MailboxDue (put 0 0x31 0 [] sys) (.cascadeLeave 0) ∧ MailboxDue (put 0 0x31 0 [] member) (.cascadeLeave 0) ∧ sys.leaving = false ∧
    (∃ j ∈ [{ job 4 0x200 [] with member := some 1 }], j.origin.isSome = true ∨ j.member.isSome = true) ∧
    (∀ j ∈ [job 4 0x200 []], j.origin = none ∧ j.member = none) ∧
    member.portUp 15 = true ∧ sys.portUp 15 = false ∧ { member with neigh := [(1, (1, 2, 3))] }.agreed pair = true ∧
    { member with neigh := [(1, (0, 2, 3))] }.unequal pair = true ∧ member.fld (rk .LK_CASCADE) 0 2 = 0 ∧
    member.bit (rk .LK_CASCADE) 4 ≠ pair.treeOk ∧ (member.setReg (rk .LK_CASCADE) 17#64).bit (rk .LK_CASCADE) 4 = pair.treeOk := by
  refine ⟨due_spec (by decide +kernel), by decide +kernel, by decide +kernel, by decide +kernel, by decide +kernel, by decide +kernel,
    due_spec (by decide +kernel), due_spec (by decide +kernel), due_spec (by decide +kernel), ?_⟩
  decide +kernel

/-- The member as the master of its cascade, in an operation that awaits members. -/
def master (waiting : List Nat) (received : Bool) : State :=
  { sys with casc := some { pair with master := 0 }, gop := some ⟨1, waiting, 1, false, false, received⟩ }

theorem witness_operations : bitsOf (1#32).toNat 0 3 = 1 ∧ bitsOf (2#32).toNat 0 3 = 2 ∧ bitsOf (3#32).toNat 0 3 = 3 ∧ sys.gopAlone ∧
    (sys.setFld gopReg 0 1 1).bit gopReg 0 = true ∧ member.isMaster = false ∧ sys.gopLenOk = false ∧ (sys.setReg (rk .LK_GOP_LEN) 64#64).gopLenOk = true ∧
    (sys.setReg (rk .LK_GOP_LEN) (BitVec.ofNat 64 (2 ^ 30))).gopLenOk = true ∧
    ((bar2.gopStart 1).readSpan gopWho ⟨0x10000, 0, 64⟩).2 = none ∧ (({ bar2 with dramErr := [(0x10000 / 64, [(0, 9)])] }.gopStart 1).readSpan gopWho ⟨0x10000, 0, 64⟩).2 ≠ none ∧
    member.gopLeaf pair ∧ 1 ∈ [1] ∧ [1].filter (· ≠ 1) = [] ∧ [1, 2].filter (· ≠ 1) ≠ [] ∧ (master [1] true).isMaster = true ∧
    (master [1] false).fld (rk .LK_GOP_CFG) 0 16 ≠ 0 ∧ ((master [1] true).setReg (rk .LK_GOP_CFG) 0).fld (rk .LK_GOP_CFG) 0 16 = 0 ∧ sys.gop = none := by
  unfold State.gopAlone State.gopLeaf; decide +kernel

/-- The pair's other member with no child, and the member as it takes part in an operation of its master. -/
def leaf (g : Option Gop) : State := { member with gop := g }

theorem witness_members_operate : (master [] true).gopFree ∧ member.gopBelow ∧ ¬ sys.gopBelow ∧ member.gopLeaf pair ∧ pair.parent = some 1 ∧
    (leaf (some ⟨2, [], 1, false, false, true⟩)).gop = some ⟨2, [], 1, false, false, true⟩ ∧ (leaf none).isMaster = false ∧ (leaf none).casc = some pair ∧
    { master [] false with resetting := true }.resetting = true ∧ (3 : Nat) < 8 ∧ 1 ∉ ([] : List Nat) ∧
    ({ master [] true with gop := none }.setReg (rk .LK_GOP_LEN) 64#64).gopLenOk = true := by
  unfold State.gopFree State.gopBelow State.gopLeaf; decide +kernel

theorem witness_descriptors_cross : member.inCascade 1 = true ∧ sys.inCascade 1 = false ∧ member.leaving = false ∧ member.dispatchHeld = false ∧
    member.remoteVerdict { Desc.ofBytes (raw barrier) with target := carriedTo (raw barrier) } = .go 1 none none ∧ (raw barrier).length = 128 ∧
    member.remoteVerdict { Desc.ofBytes (raw barrier ++ leBytes 3 0xFF0001) with target := carriedTo (raw barrier ++ leBytes 3 0xFF0001) } = .go 1 none none ∧
    member.targetOk 0x001000 = false ∧
    (∃ e, member.remoteVerdict { Desc.ofBytes (raw [(0, 1, 1), (2, 3, 0x000501)]) with target := carriedTo (raw [(0, 1, 1), (2, 3, 0x000501)]) } = .reject e) ∧
    { member with jobs := [{ job 4 0x200 [] with phase := .away }] }.job? 4 = some { job 4 0x200 [] with phase := .away } := by
  refine ⟨by decide +kernel, by decide +kernel, by decide +kernel, by decide +kernel, by decide +kernel, by decide +kernel, by decide +kernel,
    by decide +kernel, ⟨(6, 0), by decide +kernel⟩, by decide +kernel⟩

/-- Port 15 up, with a port's book. -/
def linked (p : Port) : State := { member with ports := [(15, p)] }

theorem witness_ports : (linked ⟨[1, 0], 0, [], false, false, [], 0, 0⟩).portUp 15 = true ∧ ((linked ⟨[1, 0], 14, [], false, false, [], 0, 0⟩).rill 15).fails < 15 ∧
    ((linked ⟨[1, 0], 15, [], false, false, [], 0, 0⟩).rill 15).fails = 15 ∧ ((linked ⟨[], 0, [], false, false, [], 0, 15⟩).rill 15).rxBad = 15 ∧ ((linked ⟨[], 0, [], false, false, [], 0, 14⟩).rill 15).rxBad < 15 ∧ ((linked ⟨[1, 0], 15, [], false, false, [], 0, 0⟩).rill 15).unacked ≠ [] ∧
    ((linked ⟨[], 0, [7], false, true, [], 0, 0⟩).rill 15).badLanes = [7] ∧ ((linked ⟨[], 0, [7], false, true, [], 0, 0⟩).rill 15).narrowed = false ∧
    ((linked ⟨[], 0, [7], false, true, [], 0, 0⟩).rill 15).retraining = true ∧ sys.portUp 15 = false ∧
    (sys.setFld (rk .LK_PORT_CFG 0 15) 0 1 1).bit (rk .LK_PORT_CFG 0 15) 0 = true ∧ (sys.rill 15).active.length = 8 ∧ sys.casc = none ∧
    (∀ x ∈ ((linked ⟨[], 0, [7], false, true, [(1, 0, 1, .token 1 0 0 true false), (2, 5, 2, .write 1 0 [])], 0, 0⟩).rill 15).waiting, x.1 < 3 ∧ 1 ≤ x.2.2.1) ∧
    member.linkPort (.token 1 0 0 true false) = some 15 ∧ member.portOf 0 (.token 1 0 0 true false) = some 15 ∧ (member.rill 15).run ≤ 7 ∧ 2 ∈ [0, 2] ∧ (∀ b < 0, b ∉ [0, 2]) := by decide +kernel

/-- A lane faults by a lost lock, or past 2^20 corrected symbols, the threshold at reset. -/
theorem test_lane_threshold : member.laneBad 15 none = true ∧ member.laneBad 15 (some (2 ^ 20 + 1)) = true ∧
    member.laneBad 15 (some (2 ^ 20)) = false := by decide +kernel

/-- What a flit may bring: a write of a live allocation, a spill where peers may, and its end. -/
theorem witness_brought : bar2.loc 0x10000 = .dram 0x10000 0 ∧ Mem.wf bar2.dev = true ∧ Tab.find? bar2.dramErr (codeKey 0 0x10000) = none ∧
    sys.bit (rk .PL_CFG) 1 = false ∧ (sys.setFld (rk .PL_CFG) 1 1 1).bit (rk .PL_CFG) 1 = true ∧
    (List.range 16).filter (sys.setFld (rk .PL_CFG) 1 1 1).stackReady = [0, 1] ∧ (sys.setFld (rk .PL_CFG) 1 1 1).roomOn [0, 1] 65536 1 = true ∧
    (sys.setFld (rk .PL_CFG) 1 1 1).addrFree 0x10000 65536 = true ∧
    [{ alloc with hint := Machine.peerHint }].find? (fun x => x.base = 0x10000 && x.hint = Machine.peerHint) = some { alloc with hint := Machine.peerHint } := by
  decide +kernel

/-- Messages of class 0 to member 1 wait on port 15: those of that class go behind them, those of class 1 the way of their route. -/
theorem witness_waiting : (let s := linked ⟨[], 0, [], false, true, [(0, 0, 1, .token 1 0 0 true false)], 0, 0⟩;
    s.portOf 0 (.token 1 0 1 true false) = some 15 ∧ (∃ x ∈ (s.rill 15).waiting, x.1 = 0 ∧ x.2.2.2.member = (LinkMsg.token 1 0 1 true false).member) ∧
      ∀ x ∈ (s.rill 15).waiting, x.1 ≠ 1) ∧ (∀ q < 16, (member.rill q).waiting = []) := by decide +kernel

/-- Radio time set, in a state, with the input present or not. -/
def timed (st inp : Nat) : State := (sys.setReg (rk .TM_STATUS) (BitVec.ofNat 64 (st + 4 * inp + 16)))

theorem witness_time_states : (timed 0 0).bit (rk .TM_STATUS) 2 = false ∧ (timed 1 1).timeState = 1 ∧ (timed 2 1).bit (rk .TM_STATUS) 2 = true ∧
    (timed 3 0).timeState = 3 ∧ (timed 3 0).holdoverDone = false ∧ (timed 3 0).powerGood = true ∧ { timed 2 1 with onceLocked := true }.onceLocked = true ∧
    (timed 2 1).onceLocked = false := by decide +kernel

theorem witness_time_sets : MailboxDue (put 0 0x40 16 [(0, 8, 2 ^ 64 - 1)] sys) (.timeSet 0) ∧
    MailboxDue (put 0 0x40 16 [(8, 1, 1)] sys) (.timeSetAtPps 0) ∧ sys.bit (rk .TM_STATUS) 3 = false ∧ (sys.setFld (rk .TM_STATUS) 3 1 1).bit (rk .TM_STATUS) 3 = true ∧
    sys.bit (rk .TM_STATUS) 5 = false ∧ sys.powerGood = true ∧ sys.mbRun = [] ∧
    sys.fld (rk .TM_CFG) 0 16 < (ppsError 500000000).natAbs ∧ (ppsError 999999999).natAbs ≤ sys.fld (rk .TM_CFG) 0 16 ∧ (timed 2 1).timeSet? = true ∧
    (timed 2 1).timeState = 2 ∧ sys.timeSet? = false ∧ (sys.setFld (rk .TM_STATUS) 5 1 1).bit (rk .TM_STATUS) 5 = true ∧
    { timed 2 1 with lastSlot := 5 }.slotStart ≠ 5 ∧ (timed 2 1).slotStart = (timed 2 1).lastSlot ∧ { sys with holders := [(1, 6)] }.holder 1 = 6 ∧
    (timed 2 1).now % 1000000000 = 0 ∧ (32 + 1) % 33 = 0 ∧ (32 + 1) % 20 ≠ 0 ∧ (19 + 1) % 33 ≠ 0 ∧ sys.slew = 0 ∧ sys.pending = [] := by
  refine ⟨due_spec (by decide +kernel), due_spec (by decide +kernel), ?_⟩
  decide +kernel

/-! ### Fronthaul, power and the lifetime record -/

/-- A CELL_CONFIG of flow 1023: 16-bit samples, 14 symbols, antenna 0 of 1, 2 resource blocks, into the allocation. -/
def celled (a : Nat) (s : State) : State :=
  put 0 0x41 32 ([(0, 2, 1023), (2, 1, a), (3, 1, 1)] ++ if a = 1 then [] else
    [(4, 2, 7), (6, 1, 16), (7, 1, 1), (8, 8, 0x10000), (16, 2, 2), (18, 1, 14), (24, 4, 500000), (30, 2, 1)]) s

/-- The flow that it names, in grid 63. -/
def flow : Flow := ⟨1, 7, 16, 1, 0x10000, 2, 14, 0, 500000, 0, 1, 63, none⟩

/-- A module with that flow, its port up and enabled under static compression. -/
def celling : State :=
  { (sys.setReg (rk .FH_PORT_CFG 0 1) (BitVec.ofNat 64 (3 * 2 ^ 48))).setFld (rk .FH_PORT_STATUS 0 1) 0 1 1 with
    flows := [(5, flow)], grids := [(63, ⟨0x10000, [⟨0, 13, 0, 1, 0, []⟩], [(0, 12)], none, []⟩)] }

/-- A frame of no sections of an eAxC id (R384, log 18). -/
def frame (eaxc : Nat) : List Byte :=
  [0, 0, 0, 0, 0, 0, 0, 0, 0, 0, 0, 0, 0xAE, 0xFE, 0x10, 0, 0, 8, 0, BitVec.ofNat 8 eaxc, 0, 0x80, 0x10, 0, 0, 13]

theorem witness_cells : MailboxDue (celled 0 bar2) (.cellConfigSet 0) ∧ (celled 0 bar2).cellLimit 0 = none ∧ Tab.find? sys.flows 1023 = none ∧
    (celled 0 bar2).cellBusy ((celled 0 bar2).flowArg 0) = false ∧
    { sys with grids := [(63, ⟨0x10000, [], [], none, []⟩)] }.gridAt 0x10000 = some 63 ∧
    MailboxDue (celled 0 celling) (.cellConfigSet 0) ∧ (celled 0 celling).cellBusy ((celled 0 celling).flowArg 0) = true ∧
    MailboxDue (celled 1 sys) (.cellConfigClear 0) ∧
    MailboxDue (celled 0 sys) (.cellConfigSet 0) ∧ (celled 0 sys).cellLimit 0 = some (msAddr, 72) :=
  ⟨due_spec (by decide +kernel), by decide +kernel, by decide +kernel, by decide +kernel, by decide +kernel, due_spec (by decide +kernel), by decide +kernel,
    due_spec (by decide +kernel), due_spec (by decide +kernel), by decide +kernel⟩

/-- Every grid taken by another destination; a grid of its own, with room in the staging memory and without; a flow replaced. -/
theorem witness_grids : (let f := (celled 0 bar2).flowArg 0;
      let full : State := { celled 0 bar2 with grids := (List.range 64).map fun g => (g, ⟨0x20000 + g, [], [], none, []⟩) };
      full.cellBusy f = false ∧ full.gridAt f.dst = none ∧ (∀ g < 64, (Tab.find? full.grids g).isSome = true) ∧
      (celled 0 bar2).gridAt f.dst = none ∧ Tab.find? (celled 0 bar2).grids 0 = none ∧ (celled 0 bar2).stagedBytes + f.staging ≤ 2 ^ 28 ∧
      (let big : Flow := { f with rbs := 273, antennas := 64 };
        2 ^ 28 < { celled 0 bar2 with
          flows := (List.range 10).map fun g => (g, { big with grid := g }), grids := (List.range 10).map fun g => (g, ⟨0, [], [], none, []⟩) }.stagedBytes + big.staging)) ∧
    Tab.find? { celling with flows := [(1023, flow)] }.flows 1023 = some flow ∧ sys.timeSet? = false := by decide +kernel

/-- Sections of a frame of no flow (log 18): none; one with rb set; a compression method that is not block floating point; a length beyond the frame. -/
theorem witness_sections : bitOf (beAt [0, 8, 0, 1] 0 4) 19 = true ∧ bitOf (beAt [0, 0, 0, 1] 0 4) 19 = false ∧ beAt [0, 0, 0, 1, 0x92] 4 1 % 16 ≠ 1 ∧
    beAt [0, 0, 0, 1, 0x91] 4 1 % 16 = 1 ∧ beAt [0, 0, 0, 1, 0x91] 0 4 % 256 ≠ 0 ∧ beAt [0, 0, 0, 0, 0x91] 0 4 % 256 = 0 := by decide +kernel

theorem witness_frames : sys.bit (rk .FH_PORT_CFG 0 1) 48 = false ∧ celling.bit (rk .FH_PORT_CFG 0 1) 48 = true ∧
    celling.bit (rk .FH_PORT_STATUS 0 1) 0 = true ∧ parseFrame (celling.fld (rk .FH_PORT_CFG 0 1) 0 48) [] = none ∧
    parseFrame (celling.fld (rk .FH_PORT_CFG 0 1) 0 48) (frame 6) = some ⟨6, 0, 0, 0, 0, 13, []⟩ ∧
    (∀ e ∈ celling.flows, ¬ (e.2.port = 1 ∧ e.2.eaxc = 6)) ∧ bitOf (beAt [] 0 4) 19 = false ∧ celling.bit (rk .FH_PORT_CFG 0 1) 49 = true ∧
    List.find? (fun x : Nat × Flow => x.2.port = 1 && x.2.eaxc = 7) celling.flows = some (5, flow) ∧ 1 < 2 ^ flow.mu ∧
    sections true (2, 16) 1 0 [] = some [] := by decide +kernel

/-- Symbol 13 of slot 0 begins at 464 309 ns or so: before it, in its window, and past its late bound. -/
theorem witness_windows : (celling.setReg (rk .TM_NOW) 0).now < symTime celling.frameOff 1 0 13 + 0 ∧
    symTime celling.frameOff 1 0 13 ≤ (celling.setReg (rk .TM_NOW) (BitVec.ofNat 64 (symTime 0 1 0 13))).now ∧
    (celling.setReg (rk .TM_NOW) (BitVec.ofNat 64 (symTime 0 1 0 13 + 500001))).symLate flow 0 13 = true ∧
    nearestFrame celling.frameOff 0 0 = 0 ∧ Tab.find? celling.grids 63 = some ⟨0x10000, [⟨0, 13, 0, 1, 0, []⟩], [(0, 12)], none, []⟩ ∧
    (0, 12) ∈ [(0, 12)] ∧ (0, 13) ∉ [(0, 12)] ∧ celling.gridFlows 63 = [flow] ∧
    celling.dueSlot ⟨0x10000, [⟨0, 13, 0, 1, 0, []⟩], [(0, 12)], none, []⟩ flow [flow] 13 = none ∧
    (celling.setReg (rk .TM_NOW) (BitVec.ofNat 64 (symTime 0 1 0 13 + 500001))).dueSlot ⟨0x10000, [⟨0, 13, 0, 1, 0, []⟩], [(0, 12)], none, []⟩ flow [flow] 13 = some 0 ∧
    sys.bit (rk .FH_PORT_STATUS 0 1) 0 ≠ true ∧ celling.bit (rk .FH_PORT_STATUS 0 1) 0 ≠ false ∧ State.reset.powerGood = false := by decide +kernel

/-- The input below its range; after it has returned. -/
def warned (st : Nat) : State := { sys.setFld (rk .PW_STATUS) 0 2 st with uCut := 128, pwrAlert := true }

/-- Inputs at the edges: 72 V, 60 V for 10 ms, and beyond; each cut, enabled or not; a trip alone. -/
theorem witness_inputs : ¬ (720 < 720 ∨ 600 < 720 ∧ 10000 < 10000) ∧ (720 < 721 ∨ 600 < 721 ∧ 10000 < 0) ∧ (720 < 601 ∨ 600 < 601 ∧ 10000 < 10001) ∧
    sys.bit (rk .PW_CFG) 0 = true ∧ (sys.setReg (rk .PW_CFG) 0).bit (rk .PW_CFG) 0 = false ∧ { warned 1 with uCut := 256 }.uCut = 256 ∧
    { sys with tripped := true }.tripped = true := by decide +kernel

theorem witness_brownout : sys.powerGood = true ∧ sys.snapshotBegun = false ∧ sys.fld (rk .PW_STATUS) 0 2 ≠ 1 ∧ 399 < 400 ∧ 600 < 601 ∧
    (warned 1).fld (rk .PW_STATUS) 0 2 = 1 ∧ (warned 1).uCut ≠ 256 ∧ sys.switchOpen = false ∧ { sys with switchOpen := true }.switchOpen = true ∧
    (warned 2).fld (rk .PW_STATUS) 0 2 ≠ 0 ∧ { sys with snapshotBegun := true }.snapshotBegun = true ∧ { sys with snapshotBegun := true }.powerGood = true := by
  decide +kernel

/-- A sample with every point at a value but one. -/
def sample (i : Nat) (v : Int) : List (BitVec 16) := (List.replicate 120 (0 : BitVec 16)).set i (BitVec.ofInt 16 v)

theorem witness_ticks_and_samples : sys.lmap = [] ∧ (warned 2).fld (rk .PW_STATUS) 0 2 = 2 ∧ { warned 2 with uCut := 240 }.uCut = 240 ∧
    2 * sys.capWatts < 2 * sys.capWatts + 1 ∧ 0 + 2 * sys.fld (rk .PW_CAP) 16 8 < 2 * sys.capWatts ∧ (sample 69 920).length = 120 ∧
    920 ≤ ((sample 69 920).getD 69 0).toInt ∧ ((sample 69 919).getD 69 0).toInt < 920 ∧ 800 ≤ ((sample 85 800).getD 85 0).toInt ∧
    760 ≤ ((sample 70 760).getD 70 0).toInt ∧ ((sample 70 744).getD 70 0).toInt ≤ 744 ∧ 680 < ((sample 70 681).getD 70 0).toInt ∧
    ((sample 70 664).getD 70 0).toInt ≤ 664 ∧ { sys with sensors := [(0, 800#16)] }.sensor 0 = 800#16 := by decide +kernel

theorem witness_lifetime : sys.powered = true ∧ sys.sensor 96 = 0x8000#16 ∧ { sys with sensors := [(96, 750#16)] }.sensor 96 ≠ 0x8000#16 ∧
    bitOf (1#32).toNat 0 = true ∧ sys.nimbus = true ∧ sys.nextBlock 256 64 (Tab.getD sys.cursors curRecord 0) = some 256 ∧ sys.flashPend = [] ∧
    { sys with flashPend := [⟨1, 2, 3, 4, 0, [], 0, 0⟩] }.flashPend = [⟨1, 2, 3, 4, 0, [], 0, 0⟩] ∧
    (sys.setReg (rk .NB_LOG_FLASH) 1#64).reg (rk .NB_LOG_FLASH) = 1#64 ∧
    Tab.getD sys.blockErases 256 0 + 1 < 100000 ∧ 100000 ≤ Tab.getD { sys with blockErases := [(256, 99999)] }.blockErases 256 0 + 1 ∧ sys.blocksLeft 0 256 ≠ 0 := by decide +kernel

/-! ### Descriptors at issue -/

/-- A BARRIER dispatched here. -/
def barrierJob : Job := job 4 1 barrier

/-- The reference of slot 0 of basin 0 (R273). -/
def slotRef : Nat := 2 ^ 63 + 0xFF0200 * 2 ^ 32

/-- A CONVERT of M by 1 elements of INT `w` from an address to device memory. -/
def convertJob (m src w : Nat) : Job :=
  job 4 0x200 [(0, 1, 7), (2, 3, 0xFF0200), (8, 4, m), (12, 4, 1), (21, 1, 32), (22, 1, w), (56, 8, src), (80, 8, 0x10000)]

/-- A module with one descriptor. -/
def running (j : Job) : State := { sys with jobs := [j] }

/-- The same descriptor once its bounds are known and its issue noted. -/
def noted (j : Job) (m n k : Nat) : Job := { j with issued := some 0, bm := m, bn := n, bk := k }

/-- Slot 0 of basin 0 made FULL. -/
def filled (s : State) : State := s.slotFill 0 0 true

/-- Each check in turn: an extent beyond 2^24 - 1, a format that is none, an empty extent, a token that is not there, and a
BARRIER that finds every token. -/
theorem witness_range : (running (convertJob (2 ^ 24) 0x10000 8)).issueDue (convertJob (2 ^ 24) 0x10000 8) = true ∧
    (running (convertJob (2 ^ 24) 0x10000 8)).bounded? (running (convertJob (2 ^ 24) 0x10000 8)) (convertJob (2 ^ 24) 0x10000 8) (noted (convertJob (2 ^ 24) 0x10000 8) (2 ^ 24) 1 0) ∧
    (noted (convertJob (2 ^ 24) 0x10000 8) (2 ^ 24) 1 0).d.rangeCheck (2 ^ 24) 1 0 = some (7, 0) := by
  unfold State.bounded?; decide +kernel

theorem witness_format : (running (convertJob 1 0x10000 16)).issueDue (convertJob 1 0x10000 16) = true ∧
    (running (convertJob 1 0x10000 16)).bounded? (running (convertJob 1 0x10000 16)) (convertJob 1 0x10000 16) (noted (convertJob 1 0x10000 16) 1 1 0) ∧
    (noted (convertJob 1 0x10000 16) 1 1 0).d.rangeCheck 1 1 0 = none ∧
    (running (convertJob 1 0x10000 16)).formatCheck (noted (convertJob 1 0x10000 16) 1 1 0).d = some (8, 0) := by
  unfold State.bounded?; decide +kernel

theorem witness_empty : (running (convertJob 0 0x10000 8)).issueDue (convertJob 0 0x10000 8) = true ∧
    (running (convertJob 0 0x10000 8)).blockPasses (running (convertJob 0 0x10000 8)) (convertJob 0 0x10000 8) (noted (convertJob 0 0x10000 8) 0 1 0) convertOp ∧
    convertOp.noop (noted (convertJob 0 0x10000 8) 0 1 0) = true := by
  unfold State.blockPasses State.bounded?
  refine ⟨by decide +kernel, ⟨running (convertJob 0 0x10000 8), running (convertJob 0 0x10000 8), noted (convertJob 0 0x10000 8) 0 1 0, ?_⟩, by decide +kernel⟩
  decide +kernel

/-- The tokens of a CONVERT that reads slot 0: missing, and there. -/
theorem witness_no_token : (running (convertJob 1 slotRef 8)).issueDue (convertJob 1 slotRef 8) = true ∧
    (running (convertJob 1 slotRef 8)).passes (running (convertJob 1 slotRef 8)) (convertJob 1 slotRef 8) (noted (convertJob 1 slotRef 8) 1 1 0) convertOp ∧
    (let s := running (convertJob 1 slotRef 8); let k := noted (convertJob 1 slotRef 8) 1 1 0;
      s.takeTokens k (s.readSlots k convertOp) [] = (s, k, some (0, 0))) ∧
    (let s := filled (running (convertJob 1 slotRef 8)); let k := noted (convertJob 1 slotRef 8) 1 1 0;
      s.takeTokens k (s.readSlots k convertOp) [] = (s, k, none)) := by
  unfold State.passes State.blockPasses State.bounded?
  refine ⟨by decide +kernel, ⟨running (convertJob 1 slotRef 8), running (convertJob 1 slotRef 8), noted (convertJob 1 slotRef 8) 1 1 0,
    ⟨running (convertJob 1 slotRef 8), running (convertJob 1 slotRef 8), noted (convertJob 1 slotRef 8) 1 1 0, ?_⟩, ?_⟩, ?_⟩ <;> decide +kernel

/-- A CONVERT whose bounds record stands in the allocation, in a codeword that cannot be corrected. -/
def boundsJob : Job :=
  job 4 0x200 [(0, 1, 7), (1, 1, 16), (2, 3, 0xFF0200), (8, 4, 0x10000), (21, 1, 32), (22, 1, 8), (56, 8, 0x10000), (80, 8, 0x10000)]
def unbounded : State := { running boundsJob with allocs := [alloc], dramErr := [(0x10000 / 64, [(0, 9)])] }

theorem witness_bounds : unbounded.job? 4 = some boundsJob ∧ unbounded.issueDue boundsJob = true ∧ issueRow? 4 0 boundsJob.d = some (.convert ⟨4, 0⟩) ∧
    (∃ (t : State) (e : Err), unbounded.boundsRead boundsJob = (t, some e)) := by
  refine ⟨by decide +kernel, by decide +kernel, by decide +kernel, ?_⟩
  have h : (unbounded.boundsRead boundsJob).2.isSome = true := by decide +kernel
  obtain ⟨e, he⟩ := Option.isSome_iff_exists.mp h
  exact ⟨_, e, Prod.ext rfl he⟩

theorem witness_issue : (running barrierJob).job? 4 = some barrierJob ∧ (running barrierJob).issueDue barrierJob = true ∧ (running barrierJob).barrierHere barrierJob ∧
    issueRow? 4 0 barrierJob.d = some (.barrier 4) ∧
    (running barrierJob).passes (running barrierJob) barrierJob (noted barrierJob 0 2 0) (opOf (running barrierJob) barrierJob.d) ∧
    (running barrierJob).takeTokens (noted barrierJob 0 2 0) ((running barrierJob).readSlots (noted barrierJob 0 2 0) barrierOp) [] =
      (running barrierJob, noted barrierJob 0 2 0, none) := by
  unfold State.passes State.blockPasses State.bounded? State.barrierHere
  refine ⟨by decide +kernel, by decide +kernel, by decide +kernel, by decide +kernel, ⟨running barrierJob, running barrierJob, noted barrierJob 0 2 0,
    ⟨running barrierJob, running barrierJob, noted barrierJob 0 2 0, ?_⟩, ?_⟩, ?_⟩ <;> decide +kernel

/-- A module with a descriptor that waits on slot 0 of basin 0 in a phase. -/
def waitsOn0 (p : Phase) (j : Job) : Job := { j with phase := p, waitOn := some (0, 0) }

/-- A CONVERT with a block in slot 0 that it has still to read. -/
def blockJob : Job :=
  waitsOn0 .waiting (job 4 0x200 [(0, 1, 7), (2, 3, 0xFF0200), (8, 4, 1), (12, 4, 1), (21, 1, 32), (22, 1, 8), (56, 8, 0x10000), (72, 8, slotRef), (80, 8, 0x10000)])

theorem witness_tokens : isRemote 0 = false ∧
    (let j := waitsOn0 .waiting (convertJob 1 slotRef 8); let s := running j;
      s.job? 4 = some j ∧ s.missing j = some (0, 0) ∧ s.tk - j.waitFrom < 20 * 2 ^ 20 ∧ 20 * 2 ^ 20 ≤ { s with tk := 20 * 2 ^ 20 }.tk - j.waitFrom ∧ j.claimed = [] ∧
      (filled s).missing j = none ∧ (filled s).awaitsBlock j = false ∧
      (filled s).takeTokens j ((filled s).readSlots j convertOp) [] = (filled s, j, none)) ∧
    (let s := filled (running blockJob); s.missing blockJob ≠ some (0, 0) ∧ s.awaitsBlock blockJob = true) ∧
    (let j := waitsOn0 .drainWait { convertJob 1 0x10000 8 with d := { (convertJob 1 0x10000 8).d with outDst := slotRef } };
      (running j).missing j ≠ some (0, 0) ∧ (filled (running j)).missing j = some (0, 0)) ∧
    (∀ c ∈ [(0, 0)], isRemote c.1 = false) ∧ (convertJob 1 slotRef 8).phase ≠ .waiting ∧ (convertJob 1 slotRef 8).phase ≠ .drainWait := by decide +kernel

/-- A FORECAST whose block has come, and a MATMUL of its group on the basin that has not ended yet. -/
def closingJob : Job := { blockJob with d := { blockJob.d with opcode := opForecast, shape := 5 } }
def closing (busy : Bool) : State :=
  filled { sys with jobs := (if busy then [{ job 3 0x200 [(0, 1, 1), (1, 1, 2)] with issued := some 0, phase := .draining }] else []) ++ [closingJob] }

theorem witness_closing : (∀ b, (closing b).job? 4 = some closingJob ∧ closingJob.phase = .waiting ∧ closingJob.waitOn = some (0, 0) ∧
    (closing b).missing closingJob ≠ some (0, 0) ∧ (closing b).awaitsBlock closingJob = true ∧ closingJob.d.usesGroup = true ∧
    (closing b).accBusy { closingJob with bm := ((closing b).bounds closingJob).1 } = b) := by decide +kernel

/-- A BARRIER for member 1 in the cascade, with the port to it up or not. -/
def awayBarrier (up : Bool) : State :=
  { (if up then member else { sys with casc := some pair }) with jobs := [job 4 1 [(0, 1, 0x0B), (2, 3, 0x010001), (12, 4, 2)]] }

/-- A BARRIER of `p` arrivals of id 1 that has left its ring, with the rounds open. -/
def sent (p : Nat) (rs : Tab Round) : State :=
  { running { job 4 1 (barrier ++ [(12, 4, p)]) with phase := .barrierSent, bn := p } with rounds := rs }

theorem witness_barriers : { sys with jobs := [job 3 1 [], { barrierJob with seq := 2 }] }.fenced { barrierJob with seq := 2 } = false ∧
    (running barrierJob).fenced barrierJob = true ∧ (awayBarrier true).isHere 1 = false ∧ (awayBarrier true).reachable 1 = true ∧
    (awayBarrier false).reachable 1 = false ∧
    (∃ j ∈ (awayBarrier true).jobs, (awayBarrier true).issueDue j = true ∧ (awayBarrier true).fenced j = true ∧ j.d.opcode = opBarrier ∧ j.d.target / 2 ^ 16 = 1) ∧
    (∃ j ∈ (sent 2 []).jobs, (sent 2 []).job? 4 = some j ∧ j.phase = .barrierSent ∧ j.barrierId = 1 ∧ 2 ≤ j.bn) ∧
    Tab.find? (sent 2 []).rounds 1 = none ∧ (sent 2 []).rounds.length < 1024 ∧ 1024 ≤ ((List.range 1024).map fun i => (i + 2, (⟨2, []⟩ : Round))).length ∧
    Tab.find? ((List.range 1024).map fun i => (i + 2, (⟨2, []⟩ : Round))) 1 = none ∧ Tab.find? (sent 3 [(1, ⟨3, [7]⟩)]).rounds 1 = some ⟨3, [7]⟩ ∧
    [7].length + 1 < 3 ∧ 2 ≤ [7].length + 1 ∧ (33000 * 1 : Nat) ≤ 33000 - 0 ∧ (32999 - 0 : Nat) < 33000 * 1 := by decide +kernel

/-! ### Jets and steps -/

/-- A weight tile of descriptor 4, in lock-step or not, its sums still to form or formed, and that tile complete. -/
def load (lock : Bool) (ran : Option (Nat × Nat)) : TileLoad := ⟨4, Desc.ofBytes (raw []), .weights, 0, 0, 0, 4, [(0, 1)], 0, 1, lock, ran, 0⟩
def tile (lock : Bool) (ran : Option (Nat × Nat)) : LoadedTile := ⟨load lock ran, List.replicate 8 1, 1, 0, 0, false, [[(0, ⟨1, some 0, false⟩)]], 0, 0, 64, 0⟩

/-- A MATMUL with its drain due, on jet 0 or as the four jets of basin 0, that ends its group or not. -/
def drainer (ends basin : Bool) : Job :=
  { job 4 (if basin then 0x200 else 0x400) [(0, 1, 1), (1, 1, (if basin then 2 else 0) + (if ends then 64 else 0)), (56, 8, 0x10000),
      (64, 8, 0x11000), (80, 8, 0x10000)] with
    phase := .draining, bm := 1, bn := 1, bk := 4, issued := some 0, queued := [(0, 1), (1, 1), (2, 1), (3, 1)] }

/-- Jet 0 with its plane sets, and a descriptor. -/
def onJet (a w : Option LoadedTile) (ls : List TileLoad) (j : Job) : State := { running j with allocs := [alloc], jets := [(0, ⟨a, w, ls, [], []⟩)] }

/-- A group of the block domain with exponent `e`. -/
def group (e : Int) : Group :=
  ⟨true, 0, 2, 0, 1, 1, 4, false, false, false, e, true, 2, 4, 1, 1, 0, 8, 0, 8, 1, false, [], false, []⟩

/-- A tile to load with reads that succeed or fail, none to load, a tile to swap in on a jet that goes on or is halted, and the
four jets of a basin whose sums are formed or not. -/
theorem witness_tiles :
    (let j := drainer true false; let t := (onJet none none [load false none] j).feed 0 64;
      (t.setsOf 0).shadow = none ∧ (t.setsOf 0).loads = [load false none] ∧ t.job? 4 = some j ∧
      (let a := t.arise (jetBasin 0) [] 2; let ps := a.opSpansOn j.who (j.tileSrc (load false none)).op 0 4 [(0, 1)];
        (a.readSpans j.who ps 0).2 = none ∧ ({ a with dramErr := [(0x11000 / 64, [(0, 9)])] }.readSpans j.who ps 0).2.isSome = true)) ∧
    (((onJet none none [] (drainer true false)).feed 0 64).setsOf 0).loads = [] ∧
    (let s := onJet none (some (tile false none)) [] (drainer true false);
      (s.setsOf 0).shadow = some (tile false none) ∧ s.jetTurn 0 (load false none) = true ∧ [0].all (s.lockReady (load false none)) = true ∧
      (s.setReg (rk .JT_STATUS 0) 2).halted 0 = true ∧
      (s.formSums (drainer true false) 0 (tile false none)).2 = none) ∧
    (∀ r ∈ [none, some (0, 64)], let s := onJet none (some (tile true r)) [] (drainer true true);
      s.jetTurn 0 (load true r) = true ∧ (lockJets 0).all (s.lockReady (load true r)) = true ∧
      (s.setsOf 0).shadow.filter (fun t => t.load.same (load true r)) = some (tile true r) ∧
      (s.setsOf 1).shadow.filter (fun t => t.load.same (load true r)) = none ∧
      (lockJets 0).any (s.setReg (rk .JT_STATUS 3) 2).halted = true) ∧ (load true (some (0, 64))).ran.isSome = true := by decide +kernel

/-- R295: a lock-step tile waits to load while an earlier one of another descriptor waits on another jet of the basin. -/
theorem witness_load_turn : (let t := { onJet none none [{ load true none with seq := 1 }] (drainer true true) with
      jets := [(0, ⟨none, none, [{ load true none with seq := 1 }], [], []⟩), (1, ⟨none, none, [{ load true none with jid := 5 }], [], []⟩)] };
    (t.feed 0 64).loadTurn 0 { load true none with seq := 1 } = false ∧ ((t.feed 0 64).setsOf 0).loads = [{ load true none with seq := 1 }] ∧
      ((t.feed 0 64).setsOf 0).shadow = none) := by decide +kernel

/-- A span of descriptor 4 given to engine 0 for jet 0, loaded or not. -/
def span (loaded : Bool) : EngSpan := ⟨[load false none], 0, true, loaded, [], 1, [], [], 0⟩
def onEngine (w : Option EngSpan) : State := { onJet none none [] (drainer true false) with engines := [(0, ⟨none, w, []⟩)] }

theorem witness_engines :
    (let t := ((onEngine (some (span false))).feed 0 64).feed 1 64; let a := t.arise 0 [] 2; let j := drainer true false;
      (t.storesOf 0).shadow = some (span false) ∧ t.job? 4 = some j ∧
      (a.readSpans j.who (a.opSpansOn j.who j.serialOp 0 4 (ksOf (span false).tiles)) 4).2 = none) ∧
    ((((onEngine (some (span true))).feed 0 64).feed 1 64).storesOf 0).shadow = some (span true) ∧ ((onEngine none).storesOf 0).shadow = none ∧
    (onEngine (some (span true))).engineTurn (span true) = true ∧ (onEngine (some (span false))).engineTurn (span false) = false ∧
    (let a := ((onEngine (some (span true))).stall 0 1).endSpan 0; let v := a.putStores 0 { a.storesOf 0 with active := some (span true), shadow := none };
      (v.addSpan (drainer true false) 0 (span true)).2 = none) := by decide +kernel

/-- A drain that is not due, one that is, one that waits for its slot, and closes that succeed or fail. -/
theorem witness_drains : (running (drainer false false)).loading 4 0 = false ∧ (drainer false false).d.accEnd = false ∧ (drainer true false).d.accEnd = true ∧
    (onJet none none [load false none] (drainer true false)).loading 4 0 = true ∧
    (let j := drainer true true; let t := (running j).feedAll j; t.job? 4 = some j ∧ t.drainDue j = true ∧
      t.takeTokens j [] (t.slotsOf j.tensorWrites) = (t, j, none)) ∧
    (let j := drainer true false; let t := (onJet none none [load false none] j).feedAll j; t.job? 4 = some j ∧ t.drainDue j = false) ∧
    (let j : Job := { drainer true true with d := { (drainer true true).d with outDst := slotRef } }; let t := filled (running j);
      t.takeTokens j [] (t.slotsOf j.tensorWrites) = (t, j, some (0, 0))) ∧
    (∀ g ∈ [[(grpKey 0 0, group 0), (grpKey 1 0, group 0)], [(grpKey 0 0, group 0), (grpKey 1 0, group 1)]],
      let j := drainer true true; let s : State := { running j with grp := g }; let q := (s.dueTile j).getD j.tile; let t := s.drainRect j q;
      let ps := j.parts q t.2.2.1 t.2.2.2; let u := ps.foldl (fun s p => (s.retireOf p.jet j.jid q).spanOver p.jet) s;
      let r := u.drainParts j j.d.accGroup ps (j.d.shape = 2 && decide (ps.length = 4)) (u.closePlan j) t false;
      r.2.2 = (if g = [(grpKey 0 0, group 0), (grpKey 1 0, group 1)] then some (stScaleDomain, 0) else none) ∧ r.2.1.tileCount ≤ (r.2.1.drainedTile q).tile) := by decide +kernel

/-- A descriptor of an opcode that forms its results apart from the plane sets, its drain due. -/
def ending (op : Nat) : Job := { drainer true false with d := { (drainer true false).d with opcode := op } }

theorem witness_ends : ∀ op ∈ [opCheck, opFused, opForecast, opHaze], op ≠ opMatmul ∧ (running (ending op)).job? 4 = some (ending op) ∧
    (running (ending op)).drainDue (ending op) = true ∧
    (onJet none none [load false none] (ending op)).drainDue (ending op) = false := by decide +kernel

/-- A radio descriptor 5 with a reserved group on jet 0, whose active tile is descriptor 4's, and that tile with rows still to run. -/
def radioJob : Job := { drainer true false with jid := 5, cls := 0, reserved := true }
def cuttable : LoadedTile := { tile false none with load := { load false none with rows := 200 } }
def preempting : State := { onJet (some cuttable) (some (tile false none)) [load false none] (drainer true false) with jobs := [drainer true false, radioJob] }

theorem witness_preemption : preempting.job? 5 = some radioJob ∧ preempting.preemptDue radioJob ∧ ¬ preempting.preemptDue (drainer true false) ∧
    preempting.cutJets radioJob = [0] ∧ preempting.bulkOn 0 = some 4 ∧ (preempting.setsOf 0).active = some cuttable ∧
    preempting.isRadio cuttable.load.jid = false ∧ (cuttable.boundary 100).1 = 128 ∧ (cuttable.boundary 100).1 < cuttable.load.rows := by
  unfold State.preemptDue; decide +kernel

/-- R72, R305: the cut tile comes back first with its rows run, then the shadow tile, then the tile still to load. -/
theorem test_preempted : (preempting.preemptJet 0 100).setsOf 0 =
    ⟨none, none, [], [], [{ load false none with rows := 200, ran := some (128, 64) }, load false none, load false none]⟩ := by decide +kernel

/-- Slot 4095 with an output amax of 1.0, and closes that run and wait. -/
def stepped (n : Nat) : State :=
  { sys with mon := [(4095, ⟨0, 0, 0, 0, 0, 0, 0, 0x3F800000, 0, 0, 0, []⟩)], weirQ := List.replicate n ⟨0, 4095, 4095, [(4095, 0x3F800000, false)], []⟩ }

theorem witness_steps : 17 ≤ (stepped 17).weirQ.length ∧ (stepped 16).weirQ.length < 17 ∧ (stepped 0).weirQ = [] ∧
    (stepped 1).weirQ = ⟨0, 4095, 4095, [(4095, 0x3F800000, false)], []⟩ :: [] ∧
    (([(4095, 0x3F800000, false)] : List (Nat × Nat × Bool)).map fun x : Nat × Nat × Bool => x.1).Nodup ∧ ((stepped 1).mon.map Prod.fst).Nodup ∧
    regAt 0 0x14BBFFC = some (rk .WR_SLOT_SCALE 0 4095) ∧ (rk .WR_SLOT_SCALE 0 4095).name = .WR_SLOT_SCALE ∧
    (4095 ≤ (rk .WR_SLOT_SCALE 0 4095).idx ∧ (rk .WR_SLOT_SCALE 0 4095).idx ≤ 4095) ∧ (∀ c ∈ (stepped 0).weirQ.head?, False) ∧
    (∀ x ∈ ([] : List (Nat × Nat)), x.1 ≠ 4095) := by decide +kernel

/-! ### Faults, tests, the governor and numbers -/

/-- A running MATMUL of a class on jet 15 of terrace 0. -/
def faulting (cls : Nat) : State := running { drainer true false with cls := cls, unit := 0x40F }

/-- An engine that runs a span. -/
theorem witness_engine_residue : (({ sys with engines := [(7, ⟨some (span true), none, []⟩)] }).storesOf 7).active.isSome = true ∧
    ({ sys with engines := [(7, ⟨some (span true), none, []⟩)] }).terraceReady (7 / 8) = true ∧
    ({ sys with engines := [(7, ⟨some (span true), none, []⟩)] }).engineUp 7 = true ∧ (sys.storesOf 7).active = none := by decide +kernel

theorem witness_faults : sys.jetRuns 15 = none ∧ ((faulting 1).jetRuns 15).isSome = true ∧ ((faulting 0).jetRuns 15).map Job.cls = some 0 ∧
    ((faulting 1).setReg (rk .SP_CFG) 0).fld (rk .SP_CFG) 0 16 = 0 ∧ (faulting 1).fld (rk .SP_CFG) 0 16 ≠ 0 ∧
    (∃ p, Tab.find? { faulting 1 with suspects := [(256 * (faulting 1).physJ 15 + 127, 0)] }.suspects (256 * (faulting 1).physJ 15 + 127) = some p ∧
      (faulting 1).life.poweredS - p ≤ 3600 * (faulting 1).fld (rk .SP_CFG) 0 16) ∧
    Tab.find? (faulting 1).suspects (256 * (faulting 1).physJ 15 + 127) = none ∧ Tab.getD (faulting 1).spareCols ((faulting 1).physJ 15) 0 < 2 ∧
    2 ≤ Tab.getD { faulting 1 with spareCols := [((faulting 1).physJ 15, 2)] }.spareCols ((faulting 1).physJ 15) 0 ∧
    (faulting 1).reserveFree 15 ∧ ¬ { faulting 1 with jmap := [(16, 595)] }.reserveFree 15 ∧
    sys.jetLive 15 = true ∧ sys.jetLive 16 = false ∧ sys.terraceReady 0 = true ∧ sys.terraceReady 1 = false ∧ sys.engineUp 7 = true ∧
    { sys with emap := [6, 7] }.engineUp 7 = false ∧ sys.basinReady 3 = true ∧
    { sys with failing := [(31, 34)] }.failing = [(31, 34)] ∧ Tab.find? { sys with failing := [(31, 34)] }.failing 31 = some 34 ∧
    Tab.find? { sys with failing := [(31, 0)] }.failing 31 = some 0 ∧ Tab.find? sys.failing 31 = none := by
  unfold State.reserveFree
  refine ⟨by decide +kernel, by decide +kernel, by decide +kernel, by decide +kernel, by decide +kernel, ⟨0, by decide +kernel⟩, ?_⟩
  decide +kernel

/-- Errors on one die of stack 0, in `n` codewords of `e` symbols. -/
def spoiled (n e : Nat) : State := { sys with dramErr := (List.range n).map fun i => (i + 1024, [(4, e)]), allocs := [alloc] }

/-- A UNIT_TEST of a handle in mailbox 0. -/
def testing (h : Nat) (s : State) : State := put 0 0x50 4 [(0, 3, h)] s

theorem witness_tests : MailboxDue (testing 0xFF0100 sys) (.unitTest 0 none) ∧ sys.testUnit 0xFF0100 = some 0x100 ∧ sys.testUnit 0xFF0203 = some 0x203 ∧
    sys.testUnit 0xFF0400 = none ∧ sys.testReady 0x100 = true ∧ sys.testReady 0x101 = false ∧ sys.unitBusy 0x203 = false ∧
    (running { barrierJob with unit := 0x203 }).unitBusy 0x203 = true ∧ { sys with mbRun := [(0, .unitTest 0x100 (some 7))] }.mbRun = [(0, .unitTest 0x100 (some 7))] :=
  ⟨due_spec (by decide +kernel), by decide +kernel, by decide +kernel, by decide +kernel, by decide +kernel, by decide +kernel, by decide +kernel,
    by decide +kernel, by decide⟩

theorem witness_patrol : sys.stackReady 2 = false ∧ sys.stackReady 0 = true ∧ sys.fld (rk .DM_CFG 0) 4 8 ≠ 0 ∧
    (sys.setReg (rk .DM_CFG 0) 0).fld (rk .DM_CFG 0) 4 8 = 0 ∧ sys.dramErr.filter (fun e : Nat × List (Nat × Nat) => e.1 / 2 ^ 34 = 0) = [] ∧
    (∀ d < 5, Tab.getD sys.dieSeen (5 * 0 + d) [] = []) ∧ (spoiled 2 8).diesOut 0 = 0 ∧
    (∀ w ∈ (spoiled 2 8).dramErr, w.1 / 2 ^ 34 = 0 ∧ (spoiled 2 8).codewordOk 0 w.2 = true) ∧
    (spoiled 2 8).life.map.length < 4095 ∧ 64 < ((spoiled 65 1).dramErr.filter fun w => w.2.any fun x => x.1 = 4).length ∧
    ((spoiled 65 1).dramErr.map Prod.fst).Nodup ∧ 64 < (Tab.getD { sys with dieSeen := [(4, List.range 65)] }.dieSeen (5 * 0 + 4) []).length := by decide +kernel

/-- A cycle with credit, one without, and one in which a stall is due. -/
theorem witness_credit : 256 ≤ Tab.getD sys.credit 3 0 + sys.share 0 ∧
    Tab.getD (sys.setReg (rk .PW_SHARE 0 0) 255).credit 3 0 + (sys.setReg (rk .PW_SHARE 0 0) 255).share 0 < 256 ∧ sys.share 0 ≤ 256 ∧
    Tab.getD sys.credit 3 0 < 256 ∧ Tab.getD sys.stallDue 3 0 = 0 ∧ Tab.getD (sys.stall 3 2).stallDue 3 0 = 2 ∧
    (∃ j ∈ (faulting 1).jobs, j.issued.isSome = true ∧ j.phase ≠ .done ∧ 2 ≤ j.unit ∧ basinOf j.unit = 3) := by
  decide +kernel

theorem witness_rounding : (0x7F800000 : Nat) < 2 ^ 32 ∧ (0x7F800000 : Nat) % 2 ^ 31 ≤ 0x7F800000 ∧ (0xFF800000 : Nat) % 2 ^ 31 ≤ 0x7F800000 ∧
    (0 : Nat) < 1 ∧ (2 : Nat) ≤ 2 := by decide

/-! ### Worked examples of the spec -/

/-- Genash at a glance, R311: the handle of jet 2 of basin 0 of terrace 1, and stack 7 above terraces 18 and 19. -/
theorem test_handles : hereHandle (jetHandle (16 * 1 + 4 * 0 + 2)) = 0xFF0412 ∧ stackAbove 18 = 7 ∧ stackAbove 19 = 7 := by decide

/-- R37: serial 0b0110 by broad 0b1011 enters the tree as -1,448. -/
theorem test_log4 : log4Mul 0b0110 0b1011 = -1448 := by decide

/-- R228, R229: the default profile's first four cycles. -/
theorem test_basad : seedA ⟨false, 0xACE0, 0x1233, 0⟩ 0 = 0xACE1 ∧
    seedW ⟨false, 0xACE0, 0x1233, 0⟩ 0 = 0x1234 ∧ stepA 0xACE1 = 0x59C3 ∧ stepA 0x59C3 = 0xB387 ∧ stepA 0xB387 = 0x670F ∧ stepA 0x670F = 0xCE1E ∧
    stepW 0x1234 = 0x2469 ∧ stepW 0x2469 = 0x48D3 ∧ stepW 0x48D3 = 0x91A7 ∧ stepW 0x91A7 = 0x234E := by decide

/-- R140, R141: the row of degree 4 with offset 1. -/
theorem test_check_node : nodeMessages { Desc.ofBytes (raw []) with scaleMode := 1, scaleValue := 1 } 8 4 [-7, 3, 12, -3] = [-2, 2, 2, -2] ∧
    nodeRecord [-7, 3, 12, -3] = [3, 0, 3, 0, 1, 3, 0, 0] := by decide +kernel

/-- R55: an MXFP4 block of 7.0, 0.2, 0.25 and -2.5. -/
theorem test_mxfp4 : (Fmt.encMx .e2m1 none ([(ofFp32 0x40E00000, false), (ofFp32 0x3E4CCCCD, false), (ofFp32 0x3E800000, false), (ofFp32 0xC0200000, false)])).1 = 0x7F ∧
    (Fmt.encMx .e2m1 none ([(ofFp32 0x40E00000, false), (ofFp32 0x3E4CCCCD, false), (ofFp32 0x3E800000, false), (ofFp32 0xC0200000, false)])).2.map Enc.code =
      [0b0111, 0, 0, 0b1100] := by decide +kernel

/-- R388, R389: symbol 5 of subframe 6, slot 1 near 10^15 ns, and the pitch and buffer of its cell. -/
theorem test_fronthaul : nearestFrame 0 (10 ^ 15) 0 = 10 ^ 8 ∧ 10 ^ 8 * frameSlots 1 + 6 * 2 ^ 1 + 1 = 2000000013 ∧
    symTime 0 1 2000000013 5 = 10 ^ 15 + 6678571 ∧ Flow.pitch ⟨0, 0, 9, 1, 0, 216, 14, 50000, 300000, 0, 12, 0, none⟩ = 64 ∧
    Flow.buffer ⟨0, 0, 9, 1, 0, 216, 14, 50000, 300000, 0, 12, 0, none⟩ = 2322432 := by decide +kernel

/-- R222: three steps of an INT8 weight of 37. -/
theorem test_update : (updElem (.int 8) 0 37 (ofFp32 0x3E99999A) 0 false 0).code = 37 ∧ (updElem (.int 8) 0 37 (ofFp32 0x3E99999A) 0 false 0).rem = 77 ∧
    (updElem (.int 8) 0 37 (ofFp32 0x3E99999A) 77 false 0).code = 38 ∧ (updElem (.int 8) 0 37 (ofFp32 0x3E99999A) 77 false 0).rem = -102 ∧
    (updElem (.int 8) 0 38 (ofFp32 0x3E99999A) (-102) false 0).code = 38 ∧ (updElem (.int 8) 0 38 (ofFp32 0x3E99999A) (-102) false 0).rem = -25 := by
  decide +kernel

/-- BS_SLOT_WDOG resets to 2^20 b-cycles. -/
theorem test_watchdog : sys.watchdog 0 1 = 20 := by decide +kernel

end Sys2Proof.Tests
end

section
/-! PROOFS. Scope and conventions (00_scope.md). -/

namespace Sys2Proof.Machine

/-- A counter advanced to its limit or past it reads all ones, and does not wrap (R11). -/
theorem State.reg_bump_full (s : State) (k : RegKey) (n : Nat) (h : 2 ^ 64 - 1 ≤ (s.reg k).toNat + n) :
    (s.bump k n).reg k = BitVec.allOnes 64 := by
  rw [State.bump, State.reg_setReg_same, Nat.min_eq_right h]
  rfl

/-- Settles O10: below its limit a counter counts on, and from there it reads all ones. -/
theorem countersSaturate : Obligations.CountersSaturate := by
  unfold Obligations.CountersSaturate
  intro s k n
  rcases Nat.lt_or_ge ((s.reg k).toNat + n) (2 ^ 64 - 1) with below | full
  · rw [State.reg_bump_same s k n (by omega), Nat.min_eq_left below.le]
  · rw [State.reg_bump_full s k n full, BitVec.toNat_allOnes, Nat.min_eq_right full]

end Sys2Proof.Machine
end

section
/-! PROOFS. Number formats (02_number_formats.md). -/

namespace Sys2Proof.Machine

/-! ### Rounding to the nearest integer (R50) -/

/-- Rounding goes up from the middle on, and stays down up to it; at the middle the parity of the quotient decides. -/
theorem rne_cases (n d : Nat) :
    (rne n d = n / d + 1 ∧ d ≤ 2 * (n % d) ∧ (2 * (n % d) = d → n / d % 2 = 1)) ∨
    (rne n d = n / d ∧ 2 * (n % d) ≤ d ∧ (2 * (n % d) = d → n / d % 2 = 0)) := by
  simp only [rne]
  split <;> omega

theorem rne_mul_right (s d : Nat) (hd : 0 < d) : rne (s * d) d = s := by
  simp [rne, Nat.mul_div_cancel s hd, hd.ne]

/-- Rounding moves a quotient by at most half a unit, and by half a unit only to an even number. -/
theorem rne_nearest (n d : Nat) (hd : 0 < d) :
    2 * ((n : Int) - rne n d * d).natAbs ≤ d ∧ (2 * ((n : Int) - rne n d * d).natAbs = d → rne n d % 2 = 0) := by
  have parts : (n : Int) = (n / d : Nat) * d + (n % d : Nat) := by exact_mod_cast (Nat.div_add_mod' n d).symm
  have below : n % d < d := Nat.mod_lt n hd
  obtain ⟨up, half, tie⟩ | ⟨down, half, tie⟩ := rne_cases n d
  · have off : (n : Int) - rne n d * d = (n % d : Nat) - d := by rw [up]; push_cast at parts ⊢; linarith
    rw [off]; omega
  · have off : (n : Int) - rne n d * d = (n % d : Nat) := by rw [down]; linarith
    rw [off]; omega

/-! ### Codes of binary formats (R54) -/

theorem log2_mul_two_pow (s j : Nat) (hs : s ≠ 0) : Nat.log2 (s * 2 ^ j) = Nat.log2 s + j := by
  induction j with
  | zero => simp
  | succ j ih => rw [pow_succ', Nat.mul_left_comm, Nat.log2_two_mul (by positivity), ih, Nat.add_assoc]

/-- Over a power of two the first guess of `ilog2` is never too high. -/
theorem ilog2_two_pow (n j : Nat) (hn : n ≠ 0) : ilog2 n (2 ^ j) = Nat.log2 n - j := by
  have lower : 2 ^ Nat.log2 n ≤ n := Nat.log2_self_le hn
  simp only [ilog2, Nat.log2_two_pow]
  split
  case isTrue large =>
    rw [← pow_add, show j + ((Nat.log2 n : Int) - j).toNat = Nat.log2 n by omega, if_neg lower.not_gt]
  case isFalse small =>
    have reached : 2 ^ j ≤ n * 2 ^ (-((Nat.log2 n : Int) - j)).toNat := by
      calc 2 ^ j = 2 ^ Nat.log2 n * 2 ^ (-((Nat.log2 n : Int) - j)).toNat := by rw [← pow_add]; congr 1; omega
        _ ≤ _ := Nat.mul_le_mul_right _ lower
    rw [if_neg reached.not_gt]

theorem scale2_natCast (n d j : Nat) : scale2 n d j = (n * 2 ^ j, d) := by simp [scale2]

theorem scale2_neg_natCast (n d j : Nat) : scale2 n d (-j) = (n, d * 2 ^ j) := by
  rcases Nat.eq_zero_or_pos j with rfl | hj
  · simp [scale2]
  · simp [scale2, hj.ne']

theorem scale2_fst_eq_zero (s d : Nat) (k : Int) : (scale2 s d k).1 = 0 ↔ s = 0 := by
  unfold scale2
  split <;> simp

theorem ilog2_scale2 (s : Nat) (k : Int) (hs : s ≠ 0) : ilog2 (scale2 s 1 k).1 (scale2 s 1 k).2 = Nat.log2 s + k := by
  obtain ⟨j, rfl | rfl⟩ := k.eq_nat_or_neg
  · rw [scale2_natCast]
    simpa [log2_mul_two_pow s j hs] using ilog2_two_pow (s * 2 ^ j) 0 (by positivity)
  · rw [scale2_neg_natCast, one_mul, ilog2_two_pow s j hs]
    ring

/-- An integer scaled by `2 ^ k` and back rounds to itself. -/
theorem rne_scale2_scale2 (s : Nat) (k : Int) :
    rne (scale2 (scale2 s 1 k).1 (scale2 s 1 k).2 (-k)).1 (scale2 (scale2 s 1 k).1 (scale2 s 1 k).2 (-k)).2 = s := by
  obtain ⟨j, rfl | rfl⟩ := k.eq_nat_or_neg
  · rw [scale2_natCast, scale2_neg_natCast, one_mul, rne_mul_right s _ (by positivity)]
  · rw [scale2_neg_natCast, neg_neg, scale2_natCast, one_mul, rne_mul_right s _ (by positivity)]

/-- Where the codes of a format lie `2 ^ k` apart, the code nearest to `s · 2 ^ k` is found without rounding. -/
theorem BinFmt.near_scale2 (f : BinFmt) (s : Nat) (k : Int) (hs : s ≠ 0) (spacing : max (Nat.log2 s + k) f.emin = k + f.mant) :
    f.near (scale2 s 1 k).1 (scale2 s 1 k).2 = (k + f.mant - f.emin).toNat * 2 ^ f.mant + s := by
  have pos : (scale2 s 1 k).1 ≠ 0 := mt (scale2_fst_eq_zero s 1 k).mp hs
  unfold BinFmt.near
  simp only [if_neg pos, ilog2_scale2 s k hs, spacing, show (f.mant : Int) - (k + f.mant) = -k by ring, rne_scale2_scale2]

/-- Every magnitude code of a binary format is the code nearest to its own value. -/
theorem BinFmt.near_mag (f : BinFmt) (c : Nat) : f.near (f.mag c).1 (f.mag c).2 = c := by
  have parts := Nat.div_add_mod' c (2 ^ f.mant)
  have hm : c % 2 ^ f.mant < 2 ^ f.mant := Nat.mod_lt c (by positivity)
  unfold BinFmt.mag
  generalize c / 2 ^ f.mant = e at parts ⊢
  generalize c % 2 ^ f.mant = m at parts hm ⊢
  subst parts
  rcases Nat.eq_zero_or_pos e with rfl | normal
  · rcases Nat.eq_zero_or_pos m with rfl | subnormal
    · simp [BinFmt.near, scale2_fst_eq_zero]
    · have hl := (Nat.log2_lt subnormal.ne').mpr hm
      rw [if_pos rfl, f.near_scale2 m _ subnormal.ne' (by omega)]
      simp
  · obtain ⟨e, rfl⟩ := Nat.exists_eq_add_of_lt normal
    have hl : Nat.log2 (2 ^ f.mant + m) = f.mant := (Nat.log2_eq_iff (by positivity)).mpr (by rw [pow_succ]; omega)
    rw [if_neg normal.ne', f.near_scale2 _ _ (by positivity) (by rw [hl]; omega),
      show (f.emin + ((0 + e + 1 : Nat) : Int) - 1 - f.mant + f.mant - f.emin).toNat = e by omega]
    ring

/-! ### FP32 encodings (R54, R55) -/

theorem signBit_add_magnitude (x : Nat) (hx : x < 2 ^ 32) : signBit (bitOf x 31) 32 + x % 2 ^ 31 = x := by
  simp only [signBit, bitOf, decide_eq_true_eq]
  split <;> omega

theorem fp32_ofFp32 (x : Nat) (hx : x < 2 ^ 32) (notNan : x % 2 ^ 31 ≤ 0x7F800000) : fp32 (ofFp32 x) = x := by
  have whole := signBit_add_magnitude x hx
  unfold ofFp32
  rw [if_neg notNan.not_gt]
  split
  case isTrue infinity => rw [fp32, ← infinity, whole]
  case isFalse finite => rw [fp32, BinFmt.near_mag, Nat.min_eq_left notNan, whole]

/-! ### Clamped integers (R50) -/

theorem satI_eq_max_min (x lo hi : Int) (h : lo ≤ hi) : satI x lo hi = max lo (min hi x) := by
  unfold satI
  split
  · omega
  · split <;> omega

theorem bitsOfInt_lt (q : Int) (w : Nat) : bitsOfInt q w < 2 ^ w := by
  have pos : (0 : Int) < 2 ^ w := by positivity
  rw [bitsOfInt, Int.toNat_lt (Int.emod_nonneg q pos.ne')]
  exact_mod_cast Int.emod_lt_of_pos q pos

/-- An integer in the range of `w` unsigned bits is its own code. -/
theorem bitsOfInt_of_nonneg (q : Int) (w : Nat) (low : 0 ≤ q) (high : q < 2 ^ w) : (bitsOfInt q w : Int) = q := by
  rw [bitsOfInt, Int.emod_eq_of_lt low high, Int.toNat_of_nonneg low]

/-- A negative integer of `w` bits is stored `2 ^ w` higher. -/
theorem bitsOfInt_of_neg (q : Int) (w : Nat) (low : -2 ^ w ≤ q) (high : q < 0) : (bitsOfInt q w : Int) = q + 2 ^ w := by
  rw [← bitsOfInt_of_nonneg (q + 2 ^ w) w (by omega) (by omega), bitsOfInt, bitsOfInt, Int.add_emod_right]

/-- An integer in the range of `v + 1` bits of two's complement reads back from them. -/
theorem signed_bitsOfInt (q : Int) (v : Nat) (low : -2 ^ v ≤ q) (high : q < 2 ^ v) :
    signed (bitsOfInt q (v + 1)) (v + 1) = q := by
  have width : (2 : Int) ^ (v + 1) = 2 * 2 ^ v := by ring
  have half : ((2 ^ v : Nat) : Int) = 2 ^ v := by push_cast; rfl
  rw [signed, Nat.add_sub_cancel]
  rcases lt_or_ge q 0 with neg | nonneg
  · have code := bitsOfInt_of_neg q (v + 1) (by omega) neg
    rw [if_neg (by omega)]; omega
  · have code := bitsOfInt_of_nonneg q (v + 1) nonneg (by omega)
    rw [if_pos (by omega)]; omega

theorem encElem_int_fin (w : Nat) (hw : 2 ≤ w) (neg : Bool) (n d : Nat) (pre : Bool) :
    Fmt.encElem (.int w) (.fin neg n d) pre =
      encInt (Num.round (.fin neg n d)) (-(2 ^ (w - 1) : Nat)) ((2 ^ (w - 1) : Nat) - 1) w (n ≠ 0) pre := by
  rw [Fmt.encElem]
  · simp [Num.isZero]
  · omega
  · simp
  · simp

theorem encElem_uint_fin (w : Nat) (neg : Bool) (n d : Nat) (pre : Bool) :
    Fmt.encElem (.uint w) (.fin neg n d) pre = encInt (Num.round (.fin neg n d)) 0 ((2 ^ w : Nat) - 1) w (n ≠ 0) pre := by
  simp [Fmt.encElem, Num.isZero]

theorem encElem_int_one_fin (neg : Bool) (n d : Nat) (pre : Bool) :
    Fmt.encElem (.int 1) (.fin neg n d) pre = ⟨if neg = true ∧ 0 < n then 0 else 1, if pre then .sat else .plain, true⟩ := by
  cases neg <;> simp [Fmt.encElem, Num.lt, Num.zero, Num.top]

theorem encElem_int_clamps (w : Nat) (hw : 2 ≤ w) (neg : Bool) (n d : Nat) (pre : Bool) :
    signed (Fmt.encElem (.int w) (.fin neg n d) pre).code w =
      max (-2 ^ (w - 1)) (min (2 ^ (w - 1) - 1) (Num.round (.fin neg n d))) := by
  obtain ⟨v, rfl⟩ : ∃ v, w = v + 1 := ⟨w - 1, by omega⟩
  have pos : (0 : Int) < 2 ^ v := by positivity
  rw [encElem_int_fin _ hw, encInt, satI_eq_max_min _ _ _ (by push_cast; omega)]
  push_cast
  exact signed_bitsOfInt _ v (by omega) (by omega)

theorem encElem_uint_clamps (w : Nat) (neg : Bool) (n d : Nat) (pre : Bool) :
    ((Fmt.encElem (.uint w) (.fin neg n d) pre).code : Int) = max 0 (min (2 ^ w - 1) (Num.round (.fin neg n d))) := by
  have pos : (0 : Int) < 2 ^ w := by positivity
  rw [encElem_uint_fin, encInt, satI_eq_max_min _ _ _ (by push_cast; omega)]
  push_cast
  exact bitsOfInt_of_nonneg _ w (by omega) (by omega)

/-- Settles O60: a code is nearest to its own value, a quotient rounds by at most half a unit, and a clamped integer is
in the range that its bits hold. -/
theorem roundingIsNearestEvenAndSaturates : Obligations.RoundingIsNearestEvenAndSaturates := by
  unfold Obligations.RoundingIsNearestEvenAndSaturates
  refine ⟨fp32_ofFp32, rne_nearest, fun neg n d _ => ⟨rfl, fun w hw => ⟨encElem_int_clamps w hw neg n d false, ?_⟩,
    fun w => encElem_uint_clamps w neg n d false, ?_, ?_⟩⟩
  · rw [encElem_int_fin w hw]
    exact bitsOfInt_lt _ w
  · rw [encElem_int_one_fin]
  · simp [encElem_int_one_fin]

end Sys2Proof.Machine
end

section
/-! PROOFS. Training numerics: Weir's step closes (08_training_numerics.md). -/

namespace Sys2Proof.Machine

/-! ### Slots of a table and of a state -/

theorem Tab.find?_eq_some_iff_mem {α : Type} {t : Tab α} (nd : (t.map Prod.fst).Nodup) (k : Nat) (v : α) :
    Tab.find? t k = some v ↔ (k, v) ∈ t := by
  refine ⟨Tab.mem_of_find?, fun mem => ?_⟩
  induction t with
  | nil => simp at mem
  | cons e r ih =>
    obtain ⟨x, y⟩ := e
    obtain ⟨fresh, nd⟩ := List.nodup_cons.1 nd
    rcases List.mem_cons.1 mem with head | tail
    · cases head
      simp [Tab.find?]
    · have other : x ≠ k := by
        rintro rfl
        exact fresh (List.mem_map.2 ⟨_, tail, rfl⟩)
      rw [Tab.find?, if_neg other, ih nd tail]

/-- The state with a monitor slot set. -/
def State.putMon (s : State) (n : Nat) (m : MonSlot) : State := { s with mon := Tab.put s.mon n m }

theorem State.slotMon_putMon (s : State) (m n : Nat) (v : MonSlot) :
    (s.putMon m v).slotMon n = if n = m then v else s.slotMon n := by
  simp only [State.slotMon, State.putMon, Tab.getD, Tab.find?_put]
  split <;> rfl

@[simp] theorem State.slotMon_putMon_same (s : State) (n : Nat) (v : MonSlot) : (s.putMon n v).slotMon n = v := by
  rw [State.slotMon_putMon, if_pos rfl]

@[simp] theorem State.slotMon_setFld (s : State) (k : RegKey) (lo w x n : Nat) :
    (s.setFld k lo w x).slotMon n = s.slotMon n := rfl

theorem State.slotMon_of_mem {s : State} (nd : (s.mon.map Prod.fst).Nodup) {n : Nat} {m : MonSlot} (mem : (n, m) ∈ s.mon) :
    s.slotMon n = m := by
  rw [State.slotMon, Tab.getD, (Tab.find?_eq_some_iff_mem nd n m).2 mem, Option.getD_some]

/-- A slot with something in its step is listed. -/
theorem State.mem_mon_of_stepAmax {s : State} {n : Nat} (held : (s.slotMon n).stepAmax ≠ 0) : (n, s.slotMon n) ∈ s.mon := by
  refine Tab.mem_of_find? ?_
  cases found : Tab.find? s.mon n with
  | none => simp [State.slotMon, Tab.getD, found, MonSlot.zero] at held
  | some m => rw [State.slotMon, Tab.getD, found, Option.getD_some]

/-- Slot `n` stands in `t` as it does in `s`: its monitor slot, its scale register and its configuration. -/
structure SameSlot (n : Nat) (s t : State) : Prop where
  mon : t.slotMon n = s.slotMon n
  scale : t.reg (rk .WR_SLOT_SCALE 0 n) = s.reg (rk .WR_SLOT_SCALE 0 n)
  cfg : t.reg (rk .WR_SLOT_CFG 0 n) = s.reg (rk .WR_SLOT_CFG 0 n)

theorem SameSlot.refl (n : Nat) (s : State) : SameSlot n s s := ⟨rfl, rfl, rfl⟩

theorem SameSlot.trans {n : Nat} {s t u : State} (st : SameSlot n s t) (tu : SameSlot n t u) : SameSlot n s u :=
  ⟨tu.mon.trans st.mon, tu.scale.trans st.scale, tu.cfg.trans st.cfg⟩

theorem SameSlot.fld_scale {n : Nat} {s t : State} (st : SameSlot n s t) (lo w : Nat) :
    t.fld (rk .WR_SLOT_SCALE 0 n) lo w = s.fld (rk .WR_SLOT_SCALE 0 n) lo w := by
  rw [State.fld, st.scale, State.fld]

theorem SameSlot.fld_cfg {n : Nat} {s t : State} (st : SameSlot n s t) (lo w : Nat) :
    t.fld (rk .WR_SLOT_CFG 0 n) lo w = s.fld (rk .WR_SLOT_CFG 0 n) lo w := by
  rw [State.fld, st.cfg, State.fld]

theorem sameSlot_putMon (s : State) {n m : Nat} (v : MonSlot) (apart : n ≠ m) : SameSlot n s (s.putMon m v) :=
  ⟨by rw [State.slotMon_putMon, if_neg apart], rfl, rfl⟩

theorem sameSlot_setFld_scale (s : State) {n m : Nat} (lo w x : Nat) (apart : n ≠ m) :
    SameSlot n s (s.setFld (rk .WR_SLOT_SCALE 0 m) lo w x) :=
  ⟨rfl, State.reg_setFld_other s lo w x (by simpa [rk] using apart), State.reg_setFld_other s lo w x (by simp [rk])⟩

theorem sameSlot_setFld_status (s : State) (n lo w x : Nat) : SameSlot n s (s.setFld (rk .WR_STATUS) lo w x) :=
  ⟨rfl, State.reg_setFld_other s lo w x (by simp [rk]), State.reg_setFld_other s lo w x (by simp [rk])⟩

/-- Steps that each leave a slot as it is leave it so together. -/
theorem sameSlot_foldl {α : Type} (f : State → α → State) (n : Nat) (l : List α) (s : State)
    (keeps : ∀ s, ∀ x ∈ l, SameSlot n s (f s x)) : SameSlot n s (l.foldl f s) :=
  List.foldlRecOn l f (SameSlot.refl n s) fun _ same x mem => same.trans (keeps _ x mem)

/-- A pass that meets each slot at most once and changes only the slot it meets: a slot that it meets is found as it was
before the pass, and stays as it is left then. -/
theorem sameSlot_foldl_of_mem {α : Type} (f : State → α → State) (key : α → Nat)
    (only : ∀ s x n, n ≠ key x → SameSlot n s (f s x)) {l : List α} (nd : (l.map key).Nodup) {x : α} (mem : x ∈ l) (s : State) :
    ∃ t : State, SameSlot (key x) s t ∧ SameSlot (key x) (f t x) (l.foldl f s) := by
  obtain ⟨before, after, rfl⟩ := List.append_of_mem mem
  simp only [List.map_append, List.map_cons, List.nodup_append, List.nodup_cons, List.mem_map, List.mem_cons] at nd
  obtain ⟨-, ⟨notAfter, -⟩, notBefore⟩ := nd
  refine ⟨before.foldl f s, ?_, ?_⟩
  · exact sameSlot_foldl f _ before s fun s y hy =>
      only s y _ fun h => notBefore (key y) ⟨y, hy, rfl⟩ (key x) (.inl rfl) h.symm
  · rw [List.foldl_append, List.foldl_cons]
    exact sameSlot_foldl f _ after _ fun s y hy => only s y _ fun h => notAfter ⟨y, hy, h.symm⟩

/-! ### WR_STATUS (R213) -/

theorem State.bit_eq_of_fld {s t : State} {k n : RegKey} {i : Nat} (h : t.fld n i 1 = s.fld k i 1) : t.bit n i = s.bit k i := by
  rw [State.bit, h, State.bit]

@[simp] theorem State.showWeir_weirQ (s : State) : s.showWeir.weirQ = s.weirQ := rfl

theorem sameSlot_showWeir (s : State) (n : Nat) : SameSlot n s s.showWeir :=
  (sameSlot_setFld_status s n ..).trans (sameSlot_setFld_status _ n ..)

theorem State.showWeir_closing (s : State) : s.showWeir.bit (rk .WR_STATUS) 0 = !s.weirQ.isEmpty := by
  rw [State.bit, State.showWeir, State.fld_setFld_apart _ _ 2 5 _ 0 1 (by omega) (by omega),
    State.fld_setFld_same _ _ 0 1 _ (by omega)]
  cases s.weirQ.isEmpty <;> rfl

theorem State.showWeir_queued (s : State) : s.showWeir.fld (rk .WR_STATUS) 2 5 = (s.weirQ.length - 1) % 32 :=
  State.fld_setFld_same _ _ 2 5 _ (by omega)

/-! ### The cut at the write (R210, R213) -/

/-- A slot with its step_amax taken. -/
def State.takeAmax (s : State) (n : Nat) : State :=
  if (s.slotMon n).stepAmax = 0 then s else s.putMon n { s.slotMon n with stepAmax := 0 }

theorem State.cutSlot_eq (s : State) (n : Nat) :
    s.cutSlot n = if (s.takeAmax n).bit (rk .WR_SLOT_SCALE 0 n) 15 = true then
      (s.takeAmax n).setFld (rk .WR_SLOT_SCALE 0 n) 15 1 0 else s.takeAmax n := rfl

theorem sameSlot_takeAmax (s : State) (m n : Nat) (apart : n ≠ m) : SameSlot n s (s.takeAmax m) := by
  rw [State.takeAmax]
  split
  · exact .refl n s
  · exact sameSlot_putMon s _ apart

theorem State.takeAmax_slotMon (s : State) (n : Nat) : (s.takeAmax n).slotMon n = { s.slotMon n with stepAmax := 0 } := by
  rw [State.takeAmax]
  split
  · next zero => rw [← zero]
  · exact State.slotMon_putMon_same ..

@[simp] theorem State.takeAmax_fld (s : State) (n : Nat) (k : RegKey) (lo w : Nat) :
    (s.takeAmax n).fld k lo w = s.fld k lo w := by
  rw [State.takeAmax]
  split <;> rfl

@[simp] theorem State.takeAmax_weirQ (s : State) (n : Nat) : (s.takeAmax n).weirQ = s.weirQ := by
  rw [State.takeAmax]
  split <;> rfl

theorem sameSlot_cutSlot (s : State) (m n : Nat) (apart : n ≠ m) : SameSlot n s (s.cutSlot m) := by
  rw [State.cutSlot_eq]
  split
  · exact (sameSlot_takeAmax s m n apart).trans (sameSlot_setFld_scale _ 15 1 0 apart)
  · exact sameSlot_takeAmax s m n apart

theorem State.cutSlot_slotMon (s : State) (n : Nat) : (s.cutSlot n).slotMon n = { s.slotMon n with stepAmax := 0 } := by
  rw [State.cutSlot_eq, ← State.takeAmax_slotMon]
  split <;> rfl

theorem State.cutSlot_stepSat (s : State) (n : Nat) : (s.cutSlot n).bit (rk .WR_SLOT_SCALE 0 n) 15 = false := by
  rw [State.cutSlot_eq]
  split
  · rw [State.bit, State.fld_setFld_same _ _ 15 1 0 (by omega)]
    rfl
  · next clear => exact Bool.eq_false_iff.2 clear

theorem State.cutSlot_scale (s : State) (n : Nat) :
    (s.cutSlot n).fld (rk .WR_SLOT_SCALE 0 n) 0 15 = s.fld (rk .WR_SLOT_SCALE 0 n) 0 15 := by
  rw [State.cutSlot_eq]
  split
  · rw [State.fld_setFld_apart _ _ 15 1 0 0 15 (by omega) (by omega), State.takeAmax_fld]
  · rw [State.takeAmax_fld]

@[simp] theorem State.cutSlot_weirQ (s : State) (n : Nat) : (s.cutSlot n).weirQ = s.weirQ := by
  rw [State.cutSlot_eq, ← s.takeAmax_weirQ n]
  split <;> rfl

/-- The slots of a range cut. -/
def State.cutSlots (s : State) (first last : Nat) : State := (s.stepSlots first last).foldl State.cutSlot s

@[simp] theorem State.cutSlots_weirQ (s : State) (first last : Nat) : (s.cutSlots first last).weirQ = s.weirQ :=
  List.foldlRecOn (motive := fun t : State => t.weirQ = s.weirQ) _ _ rfl fun t same n _ => (t.cutSlot_weirQ n).trans same

theorem State.mem_stepSlots {s : State} {first last n : Nat} : n ∈ s.stepSlots first last ↔
    (first ≤ n ∧ n ≤ last) ∧ ((s.slotMon n).stepAmax ≠ 0 ∨ s.bit (rk .WR_SLOT_SCALE 0 n) 15 = true) := by
  have range : n ∈ (List.range (last + 1 - first)).map (first + ·) ↔ first ≤ n ∧ n ≤ last := by
    simp only [List.mem_map, List.mem_range]
    exact ⟨by rintro ⟨i, below, rfl⟩; omega, fun _ => ⟨n - first, by omega, by omega⟩⟩
  rw [State.stepSlots, List.mem_filter, range]
  simp

theorem State.nodup_stepSlots (s : State) (first last : Nat) : (s.stepSlots first last).Nodup :=
  (List.nodup_range.map (add_right_injective first)).filter _

theorem sameSlot_cutSlots (s : State) (first last n : Nat) (out : n < first ∨ last < n) :
    SameSlot n s (s.cutSlots first last) := by
  refine sameSlot_foldl _ n _ s fun s' m mem => sameSlot_cutSlot s' m n ?_
  obtain ⟨range, -⟩ := State.mem_stepSlots.1 mem
  omega

/-- A slot of the range begins its step again, whether it held something or not. -/
theorem State.cutSlots_within (s : State) (first last n : Nat) (low : first ≤ n) (high : n ≤ last) :
    (s.cutSlots first last).slotMon n = { s.slotMon n with stepAmax := 0 } ∧
      (s.cutSlots first last).bit (rk .WR_SLOT_SCALE 0 n) 15 = false ∧
      (s.cutSlots first last).fld (rk .WR_SLOT_SCALE 0 n) 0 15 = s.fld (rk .WR_SLOT_SCALE 0 n) 0 15 := by
  by_cases held : n ∈ s.stepSlots first last
  · obtain ⟨t, before, after⟩ : ∃ t : State, SameSlot n s t ∧ SameSlot n (t.cutSlot n) (s.cutSlots first last) :=
      sameSlot_foldl_of_mem State.cutSlot id sameSlot_cutSlot (by simpa using s.nodup_stepSlots first last) held s
    refine ⟨?_, ?_, ?_⟩
    · rw [after.mon, State.cutSlot_slotMon, before.mon]
    · exact (State.bit_eq_of_fld (after.fld_scale 15 1)).trans (t.cutSlot_stepSat n)
    · exact (after.fld_scale 0 15).trans ((t.cutSlot_scale n).trans (before.fld_scale 0 15))
  · have same : SameSlot n s (s.cutSlots first last) :=
      sameSlot_foldl _ n _ s fun s' m mem => sameSlot_cutSlot s' m n fun h => held (h ▸ mem)
    obtain ⟨noAmax, noSat⟩ : (s.slotMon n).stepAmax = 0 ∧ s.bit (rk .WR_SLOT_SCALE 0 n) 15 = false := by
      simpa [State.mem_stepSlots, low, high] using held
    refine ⟨?_, (State.bit_eq_of_fld (same.fld_scale 15 1)).trans noSat, same.fld_scale 0 15⟩
    rw [same.mon, ← noAmax]

theorem State.mem_weirCut {s : State} (nd : (s.mon.map Prod.fst).Nodup) (first last n amax : Nat) (sat : Bool) :
    (n, amax, sat) ∈ (s.weirCut first last).cut ↔
      first ≤ n ∧ n ≤ last ∧ amax ≠ 0 ∧ amax = (s.slotMon n).stepAmax ∧ sat = s.bit (rk .WR_SLOT_SCALE 0 n) 15 := by
  simp only [State.weirCut, List.mem_map, List.mem_filter, Bool.and_eq_true, decide_eq_true_eq]
  constructor
  · rintro ⟨⟨i, m⟩, ⟨mem, ⟨low, high⟩, held⟩, eq⟩
    cases eq
    exact ⟨low, high, held, by rw [State.slotMon_of_mem nd mem], rfl⟩
  · rintro ⟨low, high, held, rfl, rfl⟩
    exact ⟨(n, s.slotMon n), ⟨State.mem_mon_of_stepAmax held, ⟨low, high⟩, held⟩, rfl⟩

theorem exec_closeStep_overrun (v : BitVec 32) (s : State) (full : 17 ≤ s.weirQ.length) :
    exec (.closeStep v) s = .next (s.setFld (rk .WR_STATUS) 1 1 1) := by
  rw [exec_closeStep, execCloseStep]
  exact if_pos full

/-- The range of a write of WR_STEP cut, with its close behind those before it. -/
def State.queueClose (s : State) (first last : Nat) : State :=
  { s.cutSlots first last with
    weirQ := (s.cutSlots first last).weirQ ++ [s.weirCut first last], weirSeq := (s.cutSlots first last).weirSeq + 1 }

theorem exec_closeStep_room (v : BitVec 32) (s : State) (room : s.weirQ.length < 17) :
    exec (.closeStep v) s =
      .next (s.queueClose (bitsOf v.toNat 0 12) (min (bitsOf v.toNat 0 12 + bitsOf v.toNat 12 12) 4095)).showWeir := by
  rw [exec_closeStep, execCloseStep]
  exact if_neg (by omega)

theorem State.queueClose_weirQ (s : State) (first last : Nat) :
    (s.queueClose first last).weirQ = s.weirQ ++ [s.weirCut first last] := by
  rw [State.queueClose, State.cutSlots_weirQ]

theorem sameSlot_queueClose (s : State) (first last n : Nat) :
    SameSlot n (s.cutSlots first last) (s.queueClose first last).showWeir :=
  SameSlot.trans (t := s.queueClose first last) ⟨rfl, rfl, rfl⟩ (sameSlot_showWeir _ n)

/-! ### The end of a close (R210, R212) -/

/-- The exponent that R210 records for a step's largest magnitude. -/
def stepExponent (amax : Nat) : Nat := (satI ((ofFp32 amax).log2 + 127) 0 255).toNat

theorem stepExponent_eq (amax : Nat) : stepExponent amax = (max 0 (min 255 ((ofFp32 amax).log2 + 127))).toNat := by
  rw [stepExponent, satI_eq_max_min _ _ _ (by omega)]

/-- The history of a slot once the step cut from it has closed. -/
def State.histClosed (s : State) (n amax : Nat) (sat : Bool) : List Nat :=
  histAfter (s.slotMon n).hist (stepExponent amax) sat (s.fld (rk .WR_SLOT_CFG 0 n) 0 6 + 1)

theorem histAfter_eq (hist : List Nat) (e8 : Nat) (sat : Bool) (H : Nat) :
    histAfter hist e8 sat H = if sat = true then [e8] else (hist ++ [e8]).drop (hist.length + 1 - H) := by
  simp [histAfter]

/-- The scale byte that a history gives (R210): its largest exponent with the headroom, less EMAX, clamped. -/
theorem scaleAfter_eq (x : Nat) (hist : List Nat) (h : Nat) (emax : Int) (sat : Bool) :
    scaleAfter x hist h emax sat =
      if sat = true then min (max (x + 1) (max 0 (min 254 (((hist.foldl max 0 + h : Nat) : Int) - emax))).toNat) 254
      else (max 0 (min 254 (((hist.foldl max 0 + h : Nat) : Int) - emax))).toNat := by
  rw [scaleAfter, satI_eq_max_min _ _ _ (by omega)]

theorem scaleAfter_lt (x : Nat) (hist : List Nat) (h : Nat) (emax : Int) (sat : Bool) : scaleAfter x hist h emax sat < 256 := by
  rw [scaleAfter_eq]
  split <;> omega

theorem weirEmax_eq (f : Nat) : weirEmax f = if 1 ≤ f ∧ f ≤ 6 then some (emaxOf f) else none := by
  rcases Nat.lt_or_ge f 7 with named | unnamed
  · interval_cases f <;> rfl
  · obtain ⟨g, rfl⟩ := Nat.exists_eq_add_of_le' unnamed
    rw [if_neg (by omega)]
    rfl

/-- A slot's history and its length, as a close leaves them before the scale byte. -/
def State.closeHist (s : State) (n amax : Nat) (sat : Bool) : State :=
  (s.putMon n { s.slotMon n with hist := s.histClosed n amax sat }).setFld (rk .WR_SLOT_SCALE 0 n) 8 7
    (s.histClosed n amax sat).length

/-- The scale byte that a close gives a slot of format `f`. -/
def State.scaleClosed (s : State) (n amax : Nat) (sat : Bool) (f : Nat) : Nat :=
  scaleAfter (s.fld (rk .WR_SLOT_SCALE 0 n) 0 8) (s.histClosed n amax sat) (s.fld (rk .WR_SLOT_CFG 0 n) 6 3) (emaxOf f) sat

theorem State.closeHist_fld_cfg (s : State) (n amax : Nat) (sat : Bool) (lo w : Nat) :
    (s.closeHist n amax sat).fld (rk .WR_SLOT_CFG 0 n) lo w = s.fld (rk .WR_SLOT_CFG 0 n) lo w :=
  State.fld_setFld_other _ 8 7 _ lo w (by simp [rk])

theorem State.closeHist_x (s : State) (n amax : Nat) (sat : Bool) :
    (s.closeHist n amax sat).fld (rk .WR_SLOT_SCALE 0 n) 0 8 = s.fld (rk .WR_SLOT_SCALE 0 n) 0 8 :=
  State.fld_setFld_apart _ _ 8 7 _ 0 8 (by omega) (by omega)

theorem State.closeSlot_eq (s : State) (n amax : Nat) (sat : Bool) :
    s.closeSlot n amax sat =
      if 1 ≤ s.fld (rk .WR_SLOT_CFG 0 n) 9 3 ∧ s.fld (rk .WR_SLOT_CFG 0 n) 9 3 ≤ 6 then
        (s.closeHist n amax sat).setFld (rk .WR_SLOT_SCALE 0 n) 0 8 (s.scaleClosed n amax sat (s.fld (rk .WR_SLOT_CFG 0 n) 9 3))
      else s.closeHist n amax sat := by
  have opened : s.closeSlot n amax sat = match weirEmax ((s.closeHist n amax sat).fld (rk .WR_SLOT_CFG 0 n) 9 3) with
      | some emax => (s.closeHist n amax sat).setFld (rk .WR_SLOT_SCALE 0 n) 0 8
          (scaleAfter ((s.closeHist n amax sat).fld (rk .WR_SLOT_SCALE 0 n) 0 8) (s.histClosed n amax sat)
            ((s.closeHist n amax sat).fld (rk .WR_SLOT_CFG 0 n) 6 3) emax sat)
      | none => s.closeHist n amax sat := rfl
  rw [opened, State.closeHist_x, State.closeHist_fld_cfg, State.closeHist_fld_cfg, weirEmax_eq]
  by_cases named : 1 ≤ s.fld (rk .WR_SLOT_CFG 0 n) 9 3 ∧ s.fld (rk .WR_SLOT_CFG 0 n) 9 3 ≤ 6
  · rw [if_pos named, if_pos named, State.scaleClosed]
  · rw [if_neg named, if_neg named]

theorem sameSlot_closeSlot (s : State) (x : Nat × Nat × Bool) (n : Nat) (apart : n ≠ x.1) :
    SameSlot n s (s.closeSlot x.1 x.2.1 x.2.2) := by
  have hist : SameSlot n s (s.closeHist x.1 x.2.1 x.2.2) :=
    (sameSlot_putMon s _ apart).trans (sameSlot_setFld_scale _ 8 7 _ apart)
  rw [State.closeSlot_eq]
  split
  · exact hist.trans (sameSlot_setFld_scale _ 0 8 _ apart)
  · exact hist

theorem State.closeSlot_hist (s : State) (n amax : Nat) (sat : Bool) :
    ((s.closeSlot n amax sat).slotMon n).hist = s.histClosed n amax sat := by
  have hist : ((s.closeHist n amax sat).slotMon n).hist = s.histClosed n amax sat := by
    rw [State.closeHist, State.slotMon_setFld, State.slotMon_putMon_same]
  rw [State.closeSlot_eq]
  split <;> exact hist

theorem State.closeSlot_x (s : State) (n amax : Nat) (sat : Bool) :
    (s.closeSlot n amax sat).fld (rk .WR_SLOT_SCALE 0 n) 0 8 =
      if 1 ≤ s.fld (rk .WR_SLOT_CFG 0 n) 9 3 ∧ s.fld (rk .WR_SLOT_CFG 0 n) 9 3 ≤ 6 then
        s.scaleClosed n amax sat (s.fld (rk .WR_SLOT_CFG 0 n) 9 3)
      else s.fld (rk .WR_SLOT_SCALE 0 n) 0 8 := by
  rw [State.closeSlot_eq]
  split
  · rw [State.fld_setFld_same _ _ 0 8 _ (by omega)]
    exact Nat.mod_eq_of_lt (scaleAfter_lt ..)
  · exact s.closeHist_x n amax sat

/-- The slots that a close cut, closed. -/
def State.closeCut (s : State) (cut : List (Nat × Nat × Bool)) : State :=
  cut.foldl (fun s x => s.closeSlot x.1 x.2.1 x.2.2) s

/-- The writes of x that arrived during a close. -/
def State.setScales (s : State) (sets : List (Nat × Nat)) : State :=
  sets.foldl (fun s x => s.setFld (rk .WR_SLOT_SCALE 0 x.1) 0 8 x.2) s

theorem State.setScales_slotMon (s : State) (sets : List (Nat × Nat)) (n : Nat) : (s.setScales sets).slotMon n = s.slotMon n :=
  List.foldlRecOn (motive := fun t : State => t.slotMon n = s.slotMon n) sets _ rfl fun _ same _ _ => same

/-- The running close ended, with `r` left to run. -/
def State.closeEnded (s : State) (c : WeirClose) (r : List WeirClose) : State :=
  { (s.closeCut c.cut).setScales c.sets with weirQ := r }

theorem exec_stepCloseEnd_nil (s : State) (idle : s.weirQ = []) : exec .stepCloseEnd s = .next s := by
  rw [exec_stepCloseEnd, execStepCloseEnd, State.endClose, idle]

theorem exec_stepCloseEnd_cons (s : State) (c : WeirClose) (r : List WeirClose) (runs : s.weirQ = c :: r) :
    exec .stepCloseEnd s = .next (s.closeEnded c r).showWeir := by
  rw [exec_stepCloseEnd, execStepCloseEnd, State.endClose, runs]
  rfl

theorem sameSlot_closeEnded (s : State) (c : WeirClose) (r : List WeirClose) (n : Nat) (unset : ∀ x ∈ c.sets, x.1 ≠ n) :
    SameSlot n (s.closeCut c.cut) (s.closeEnded c r).showWeir := by
  have sets : SameSlot n (s.closeCut c.cut) ((s.closeCut c.cut).setScales c.sets) :=
    sameSlot_foldl _ n _ _ fun t x mem => sameSlot_setFld_scale t 0 8 _ (unset x mem).symm
  exact sets.trans (SameSlot.trans (t := s.closeEnded c r) ⟨rfl, rfl, rfl⟩ (sameSlot_showWeir _ n))

/-- A slot outside the cut keeps its monitor slot, whether or not x was written meanwhile. -/
theorem State.closeEnded_slotMon_other (s : State) (c : WeirClose) (r : List WeirClose) (n : Nat)
    (uncut : ∀ x ∈ c.cut, x.1 ≠ n) : (s.closeEnded c r).showWeir.slotMon n = s.slotMon n := by
  have cut : SameSlot n s (s.closeCut c.cut) :=
    sameSlot_foldl _ n _ _ fun t x mem => sameSlot_closeSlot t x n (uncut x mem).symm
  calc (s.closeEnded c r).showWeir.slotMon n
    _ = (s.closeEnded c r).slotMon n := (sameSlot_showWeir _ n).mon
    _ = (s.closeCut c.cut).slotMon n := State.setScales_slotMon _ c.sets n
    _ = s.slotMon n := cut.mon

/-- A slot of the cut has the history and the scale byte that the close gives it in the state before. -/
theorem State.closeEnded_cut (s : State) (c : WeirClose) (r : List WeirClose) (nd : (c.cut.map fun x : Nat × Nat × Bool => x.1).Nodup)
    (n amax : Nat) (sat : Bool) (mem : (n, amax, sat) ∈ c.cut) (unset : ∀ x ∈ c.sets, x.1 ≠ n) :
    ((s.closeEnded c r).showWeir.slotMon n).hist = s.histClosed n amax sat ∧
      (s.closeEnded c r).showWeir.fld (rk .WR_SLOT_SCALE 0 n) 0 8 =
        if 1 ≤ s.fld (rk .WR_SLOT_CFG 0 n) 9 3 ∧ s.fld (rk .WR_SLOT_CFG 0 n) 9 3 ≤ 6 then
          s.scaleClosed n amax sat (s.fld (rk .WR_SLOT_CFG 0 n) 9 3)
        else s.fld (rk .WR_SLOT_SCALE 0 n) 0 8 := by
  obtain ⟨t, before, closed⟩ : ∃ t : State, SameSlot n s t ∧ SameSlot n (t.closeSlot n amax sat) (s.closeCut c.cut) :=
    sameSlot_foldl_of_mem _ (fun x : Nat × Nat × Bool => x.1) sameSlot_closeSlot nd mem s
  have after := closed.trans (sameSlot_closeEnded s c r n unset)
  have hist : t.histClosed n amax sat = s.histClosed n amax sat := by
    rw [State.histClosed, State.histClosed, before.mon, before.fld_cfg]
  constructor
  · rw [after.mon, State.closeSlot_hist, hist]
  · rw [after.fld_scale, State.closeSlot_x]
    simp only [State.scaleClosed, hist, before.fld_scale, before.fld_cfg]

/-! ### Writes of WR_SLOT_SCALE.x (R212) -/

/-- The registers of BAR0 stand above the mailboxes. -/
theorem le_of_regAt_zero {off : Nat} {k : RegKey} (found : regAt 0 off = some k) : 0x200000 ≤ off := by
  by_contra below
  have reserved : blockAt off = none := by
    unfold blockAt
    rw [if_neg (by omega), if_neg (by omega), if_neg (by omega), if_neg (by omega)]
  simp [regAt, reserved] at found

theorem exec_registerWrite_scale {off : Nat} (v : BitVec 64) (s : State) {k : RegKey} (found : regAt 0 off = some k)
    (name : k.name = .WR_SLOT_SCALE) : exec (.registerWrite 0 off 4 v) s = .next (s.writeScale k.idx (v.toNat % 256)) := by
  have above := le_of_regAt_zero found
  have written : s.regWrite k 4 v.toNat = s.writeScale k.idx (v.toNat % 256) := by
    simp [State.regWrite, State.writeBarred, hasRow, name, regRow]
  rw [exec_registerWrite, execRegisterWrite, State.barWrite, if_neg (by omega), if_neg (by omega), if_neg (by simp),
    if_neg (by omega), found, ← written]

theorem State.writeScale_at_once (s : State) (n x : Nat) (free : ∀ c ∈ s.weirQ.head?, ¬ (c.first ≤ n ∧ n ≤ c.last)) :
    s.writeScale n x = s.setFld (rk .WR_SLOT_SCALE 0 n) 0 8 x := by
  unfold State.writeScale
  split
  · next c r runs => exact if_neg (free c (by simp [runs]))
  · rfl

theorem State.writeScale_held (s : State) (n x : Nat) (c : WeirClose) (r : List WeirClose) (runs : s.weirQ = c :: r)
    (low : c.first ≤ n) (high : n ≤ c.last) :
    s.writeScale n x = { s with weirQ := { c with sets := c.sets ++ [(n, x % 256)] } :: r } := by
  unfold State.writeScale
  rw [runs]
  exact if_pos ⟨low, high⟩

/-! ### The statement -/

/-- Settles O56: the cut meets each slot of its range, a close that ends meets each slot of its cut once, and a write of x
looks at the running close alone. -/
theorem stepsCloseInTheOrderWritten : Obligations.StepsCloseInTheOrderWritten := by
  unfold Obligations.StepsCloseInTheOrderWritten
  refine ⟨fun v s => ⟨exec_closeStep_overrun v s, fun room => ⟨_, exec_closeStep_room v s room, ?_⟩⟩, exec_stepCloseEnd_nil,
    fun s c r runs nd => ⟨_, exec_stepCloseEnd_cons s c r runs, (s.closeEnded c r).showWeir_weirQ,
      (s.closeEnded c r).showWeir_closing, ?_, s.closeEnded_slotMon_other c r⟩,
    fun off v s k found name => ⟨fun free => ?_, fun c r runs low high => ?_⟩⟩
  · generalize bitsOf v.toNat 0 12 = first
    generalize min (first + bitsOf v.toNat 12 12) 4095 = last
    have queue := s.queueClose_weirQ first last
    refine ⟨(State.showWeir_weirQ _).trans queue, ?_, ?_, fun n low high => ?_, fun nd => State.mem_weirCut nd first last, fun n out => ?_⟩
    · simp [State.showWeir_closing, queue]
    · rw [State.showWeir_queued, queue, List.length_append, List.length_singleton]
      omega
    · have same := sameSlot_queueClose s first last n
      obtain ⟨mon, sat, scale⟩ := s.cutSlots_within first last n low high
      exact ⟨same.mon.trans mon, (State.bit_eq_of_fld (same.fld_scale 15 1)).trans sat, (same.fld_scale 0 15).trans scale⟩
    · have same := (sameSlot_cutSlots s first last n out).trans (sameSlot_queueClose s first last n)
      exact ⟨same.mon, same.scale⟩
  · intro n amax sat mem unset
    have closed := s.closeEnded_cut c r nd n amax sat mem unset
    simpa only [State.scaleClosed, scaleAfter_eq, State.histClosed, histAfter_eq, stepExponent_eq] using closed
  · rw [exec_registerWrite_scale v s found name, State.writeScale_at_once s _ _ free]
  · rw [exec_registerWrite_scale v s found name, State.writeScale_held s _ _ c r runs low high, Nat.mod_mod]

end Sys2Proof.Machine
end

section
/-! PROOFS. Rings and mailboxes: READY_MAP (14_rings_and_mailboxes.md). -/

namespace Sys2Proof.Machine

/-! ### Registers that raising an event can change -/

/-- The registers in which events, their records and their vectors leave a mark. -/
def eventRegs : List RegName :=
  [.MSIX_PBA, .NB_LOG_DIE, .QE_EV_LOST, .BS_ECC_INJECT, .BS_WIN_DROPS, .BS_WIN_DROP_INFO, .PL_UNMAPPED, .PL_UNMAPPED_INFO,
    .DM_WRITE_BYTES, .LK_TX_FLITS]

theorem State.reg_foldl {α : Type} (f : State → α → State) (k : RegKey) (l : List α) (s : State)
    (keeps : ∀ s, ∀ x ∈ l, (f s x).reg k = s.reg k) : (l.foldl f s).reg k = s.reg k :=
  List.foldlRecOn (motive := fun t : State => t.reg k = s.reg k) l f rfl fun t same x mem => (keeps t x mem).trans same

section
variable {k : RegKey} (unmarked : k.name ∉ eventRegs)
include unmarked

theorem State.reg_setReg_eventRegs (s : State) (n : RegName) (mem : n ∈ eventRegs) (u i : Nat) (v : Word) :
    (s.setReg (rk n u i) v).reg k = s.reg k :=
  s.reg_setReg_other v fun same => unmarked (same ▸ mem)

theorem State.post_reg (s : State) (p : Post) : (s.post p).reg k = s.reg k := by
  unfold State.post
  split
  · rfl
  · split
    · rfl
    · split
      · exact State.reg_setReg_eventRegs unmarked s .MSIX_PBA (by decide) ..
      · rfl

theorem State.send_reg (s : State) (p : Post) : (s.send p).reg k = s.reg k := by
  unfold State.send
  split
  · exact State.post_reg unmarked s p
  · rfl

theorem State.logEvent_reg (s : State) (c u : Nat) (p : List Byte) : (s.logEvent c u p).reg k = s.reg k :=
  State.reg_setReg_eventRegs unmarked s .NB_LOG_DIE (by decide) ..

theorem State.wholeWord_reg (s : State) (q x : Nat) : (s.wholeWord q x).reg k = s.reg k := by
  unfold State.wholeWord
  dsimp only
  split
  · exact State.reg_setReg_eventRegs unmarked s .BS_ECC_INJECT (by decide) ..
  · rfl

theorem State.dropLatch_reg (s : State) (q x c w : Nat) : (s.dropLatch q x c w).1.reg k = s.reg k := by
  have counted : (s.bump (rk .BS_WIN_DROPS (s.physB q))).reg k = s.reg k :=
    State.reg_setReg_eventRegs unmarked s _ (by decide) ..
  unfold State.dropLatch
  dsimp only
  split
  · exact counted
  · exact (State.reg_setReg_eventRegs unmarked _ _ (by decide) ..).trans counted

theorem State.unmappedLatch_reg (s : State) (a : Nat) : (s.unmappedLatch a).1.reg k = s.reg k := by
  have counted : (s.bump (rk .PL_UNMAPPED)).reg k = s.reg k := State.reg_setReg_eventRegs unmarked s _ (by decide) ..
  unfold State.unmappedLatch
  dsimp only
  split
  · exact counted
  · exact (State.reg_setReg_eventRegs unmarked _ _ (by decide) ..).trans counted

theorem State.stackStore_reg (s : State) (st a : Nat) (bs : List Byte) : (s.stackStore st a bs).reg k = s.reg k :=
  State.reg_setReg_eventRegs unmarked s .DM_WRITE_BYTES (by decide) ..

theorem State.sendLink_reg (s : State) (m : LinkMsg) (op : Nat) : (s.sendLink m op).reg k = s.reg k := by
  unfold State.sendLink State.sendAs
  split
  · rfl
  · dsimp only
    split
    · rfl
    · exact State.reg_setReg_eventRegs unmarked s .LK_TX_FLITS (by decide) ..

theorem State.recordRequest_reg (s : State) (q x : Nat) (bs : List Byte) : (s.recordRequest q x bs).1.reg k = s.reg k := by
  unfold State.recordRequest
  split
  · exact (State.reg_foldl _ k _ _ fun t p _ => State.wholeWord_reg unmarked t q p.1).trans rfl
  · exact State.dropLatch_reg unmarked s ..

theorem State.recordStore_reg (s : State) (p : Place) (o : Nat) (bs : List Byte) : (s.recordStore p o bs).1.reg k = s.reg k := by
  unfold State.recordStore
  dsimp only
  split
  · exact State.send_reg unmarked s _
  · split
    · exact State.unmappedLatch_reg unmarked s _
    · exact State.recordRequest_reg unmarked s ..
    · next l st _ => exact State.stackStore_reg unmarked (s.used _) st l bs
    · exact State.send_reg unmarked (s.used _) _
    · exact State.sendLink_reg unmarked s ..
    · dsimp only
      split
      · exact State.sendLink_reg unmarked { s.used _ with dev := _ } ..
      · rfl
    · rfl

theorem State.raiseN_reg (fuel : Nat) (s : State) (c u : Nat) (p : List Byte) : (s.raiseN fuel c u p).reg k = s.reg k := by
  induction fuel generalizing s c u p with
  | zero => rfl
  | succ fuel ih =>
    have logged := State.logEvent_reg unmarked s c u p
    unfold State.raiseN
    dsimp only
    generalize s.logEvent c u p = x at logged ⊢
    rw [← logged]
    split
    · rfl
    · split
      · rfl
      · split
        · have written (r : EvRing) (o : Nat) (bs : List Byte) :
              ((State.recordStore { x with evRing := some r } r.place o bs).1.send (.vector 2047)).reg k = x.reg k :=
            (State.send_reg unmarked _ _).trans (State.recordStore_reg unmarked { x with evRing := some r } ..)
          split
          · exact (ih ..).trans (written ..)
          · exact written ..
        · exact State.reg_setReg_eventRegs unmarked x .QE_EV_LOST (by decide) ..

theorem State.raise_reg (s : State) (c u : Nat) (p : List Byte) : (s.raise c u p).reg k = s.reg k :=
  State.raiseN_reg unmarked 4 s c u p

end

/-! ### Events whose records go to host memory (R370, R468) -/

/-- Nothing was logged between two states, and an event ring in host memory stayed there. -/
structure SameLog (s t : State) : Prop where
  seq : t.evSeq = s.evSeq
  log : t.dieLog = s.dieLog
  plain : s.plainEvents → t.plainEvents

theorem SameLog.refl (s : State) : SameLog s s := ⟨rfl, rfl, id⟩

theorem SameLog.trans {s t u : State} (st : SameLog s t) (tu : SameLog t u) : SameLog s u :=
  ⟨tu.seq.trans st.seq, tu.log.trans st.log, tu.plain ∘ st.plain⟩

theorem sameLog_setReg (s : State) (k : RegKey) (v : Word) : SameLog s (s.setReg k v) := ⟨rfl, rfl, id⟩

theorem sameLog_setFld (s : State) (k : RegKey) (lo w x : Nat) : SameLog s (s.setFld k lo w x) := ⟨rfl, rfl, id⟩

theorem sameLog_foldl {α : Type} (f : State → α → State) (l : List α) (s : State) (keeps : ∀ s x, SameLog s (f s x)) :
    SameLog s (l.foldl f s) :=
  List.foldlRecOn l f (SameLog.refl s) fun t same x _ => same.trans (keeps t x)

theorem sameLog_send (s : State) (p : Post) : SameLog s (s.send p) := by
  unfold State.send
  split
  · cases p with
    | write a bs => exact ⟨rfl, rfl, id⟩
    | vector v =>
      unfold State.post
      dsimp only
      split
      · exact .refl s
      · split
        · exact sameLog_setFld s ..
        · exact ⟨rfl, rfl, id⟩
  · exact ⟨rfl, rfl, id⟩

theorem State.recordStore_host (s : State) (p : Place) (o : Nat) (bs : List Byte) (inHost : p.device = false) :
    s.recordStore p o bs = (s.send (.write (p.base + o) bs), none) := by
  simp [State.recordStore, inHost]

/-- With the event ring in host memory an event makes one entry: writing its record causes no further event. -/
theorem sameLog_raise (s : State) (c u : Nat) (p : List Byte) (plain : s.plainEvents) :
    SameLog (s.logEvent c u p) (s.raise c u p) := by
  have plain : (s.logEvent c u p).plainEvents := plain
  unfold State.raise State.raiseN
  dsimp only
  generalize s.logEvent c u p = x at plain ⊢
  split
  · exact .refl x
  · split
    · exact .refl x
    · next r ring =>
      split
      · rw [State.recordStore_host _ _ _ _ (plain r ring)]
        have posted : SameLog x { x with evRing := some { r with posted := r.posted + 1 } } :=
          ⟨rfl, rfl, fun _ r' ring' => by cases ring'; exact plain r ring⟩
        exact (posted.trans (sameLog_send _ _)).trans (sameLog_send _ _)
      · exact ⟨rfl, rfl, id⟩

/-- The entry of an event in the on-die log. -/
def State.logEntry (s : State) (c u : Nat) (p : List Byte) : LogEntry :=
  ⟨(s.reg (rk .NB_LOG_DIE)).toNat, c, s.evSeq % 2 ^ 32, s.now, u, p, s.life.powerCycles % 2 ^ 16, s.ms % 2 ^ 40⟩

theorem State.logEvent_dieLog (s : State) (c u : Nat) (p : List Byte) (room : s.dieLog.length + 1 ≤ 1024) :
    (s.logEvent c u p).dieLog = s.dieLog ++ [s.logEntry c u p] := by
  rw [State.logEvent, List.length_append, List.length_singleton, Nat.sub_eq_zero_of_le room, List.drop_zero]
  rfl

/-- Events raised one after another. -/
def State.raises (s : State) (es : List Ev) : State := es.foldl (fun t e => t.raise e.1 e.2.1 e.2.2) s

theorem State.raises_reg (s : State) (es : List Ev) {k : RegKey} (unmarked : k.name ∉ eventRegs) :
    (s.raises es).reg k = s.reg k :=
  State.reg_foldl _ k es s fun t e _ => State.raise_reg unmarked t e.1 e.2.1 e.2.2

theorem State.raises_evSeq (s : State) (es : List Ev) (plain : s.plainEvents) : (s.raises es).evSeq = s.evSeq + es.length := by
  induction es generalizing s with
  | nil => rfl
  | cons e es ih =>
    have one := sameLog_raise s e.1 e.2.1 e.2.2 plain
    calc (s.raises (e :: es)).evSeq = (s.raise e.1 e.2.1 e.2.2).evSeq + es.length := ih _ (one.plain plain)
      _ = s.evSeq + 1 + es.length := by rw [one.seq]; rfl
      _ = s.evSeq + (e :: es).length := by rw [List.length_cons]; omega

theorem State.raises_dieLog (s : State) (es : List Ev) (plain : s.plainEvents) (room : s.dieLog.length + es.length ≤ 1024) :
    ∃ l : List LogEntry, (s.raises es).dieLog = s.dieLog ++ l ∧ l.map (fun x => (x.code, x.unit, x.payload)) = es := by
  induction es generalizing s with
  | nil => exact ⟨[], (List.append_nil _).symm, rfl⟩
  | cons e es ih =>
    rw [List.length_cons] at room
    have one := sameLog_raise s e.1 e.2.1 e.2.2 plain
    have log : (s.raise e.1 e.2.1 e.2.2).dieLog = s.dieLog ++ [s.logEntry e.1 e.2.1 e.2.2] :=
      one.log.trans (s.logEvent_dieLog _ _ _ (by omega))
    obtain ⟨l, rest, map⟩ := ih _ (one.plain plain) (by rw [log, List.length_append, List.length_singleton]; omega)
    refine ⟨s.logEntry e.1 e.2.1 e.2.2 :: l, ?_, ?_⟩
    · rw [List.append_cons, ← log]
      exact rest
    · rw [List.map_cons, map]
      rfl

/-! ### The words of READY_MAP (R369) -/

/-- The words hold separate bit numbers, in ascending order. -/
theorem readyWords_ascending : readyWords.Pairwise fun x y => x.2.1 + x.2.2 ≤ y.2.1 := by decide

theorem readyWords_nodup : (readyWords.map fun x => rk x.1).Nodup := by decide

theorem readyWords_width : ∀ x ∈ readyWords, x.2.2 ≤ 64 := by decide

/-- No event, and no status bit that is set beside the words, touches one of them. -/
theorem readyWords_apart : ∀ x ∈ readyWords, x.1 ∉ [.READY_GENERATION, .DM_STATUS, .PL_STATUS, .NB_STATUS] ++ eventRegs := by
  decide

/-- The bits of one word that differ from their conditions, in ascending order. -/
def State.wordChanges (s : State) (x : RegName × Nat × Nat) : List Nat :=
  ((List.range x.2.2).map (x.2.1 + ·)).filter fun i => s.bit (rk x.1) (i - x.2.1) ≠ s.isReady i

theorem State.readyChanges_eq (s : State) : s.readyChanges = readyWords.flatMap s.wordChanges := rfl

theorem State.mem_wordChanges {s : State} {x : RegName × Nat × Nat} {j : Nat} : j ∈ s.wordChanges x ↔
    ∃ i < x.2.2, x.2.1 + i = j ∧ s.bit (rk x.1) i ≠ s.isReady j := by
  simp only [State.wordChanges, List.mem_filter, List.mem_map, List.mem_range, decide_eq_true_eq]
  constructor
  · rintro ⟨⟨i, below, rfl⟩, differs⟩
    exact ⟨i, below, rfl, by rwa [Nat.add_sub_cancel_left] at differs⟩
  · rintro ⟨i, below, rfl, differs⟩
    exact ⟨⟨i, below, rfl⟩, by rwa [Nat.add_sub_cancel_left]⟩

/-- Two words without a bit number in common. -/
def SeparateWords (x y : RegName × Nat × Nat) : Prop := x.2.1 + x.2.2 ≤ y.2.1 ∨ y.2.1 + y.2.2 ≤ x.2.1

/-- A bit number belongs to one word. -/
theorem readyWords_unique {x y : RegName × Nat × Nat} (hx : x ∈ readyWords) (hy : y ∈ readyWords) {i j : Nat}
    (hi : i < x.2.2) (hj : j < y.2.2) (same : x.2.1 + i = y.2.1 + j) : x = y := by
  by_contra apart
  have symmetric : Std.Symm SeparateWords := ⟨fun _ _ => Or.symm⟩
  have pairwise : readyWords.Pairwise SeparateWords := readyWords_ascending.imp Or.inl
  have separate : SeparateWords x y := pairwise.forall hx hy apart
  rw [SeparateWords] at separate
  omega

theorem State.mem_readyChanges (s : State) {x : RegName × Nat × Nat} {i : Nat} (mem : x ∈ readyWords) (below : i < x.2.2) :
    x.2.1 + i ∈ s.readyChanges ↔ s.bit (rk x.1) i ≠ s.isReady (x.2.1 + i) := by
  rw [State.readyChanges_eq, List.mem_flatMap]
  constructor
  · rintro ⟨y, memY, change⟩
    obtain ⟨j, belowY, same, differs⟩ := State.mem_wordChanges.1 change
    obtain rfl := readyWords_unique memY mem belowY below same
    rwa [Nat.add_left_cancel same] at differs
  · exact fun differs => ⟨x, mem, State.mem_wordChanges.2 ⟨i, below, rfl, differs⟩⟩

theorem State.readyChanges_ascending (s : State) : s.readyChanges.Pairwise (· < ·) := by
  rw [State.readyChanges_eq, List.pairwise_flatMap]
  constructor
  · intro x _
    exact (List.pairwise_map.2 (List.pairwise_lt_range.imp fun h => Nat.add_lt_add_left h _)).filter _
  · refine readyWords_ascending.imp fun {x y} apart a ha b hb => ?_
    obtain ⟨i, below, rfl, -⟩ := State.mem_wordChanges.1 ha
    obtain ⟨j, -, rfl, -⟩ := State.mem_wordChanges.1 hb
    omega

/-! ### What is published -/

/-- Powers of two, each at most once, make the word whose bits they are. -/
theorem testBit_sum_two_pow (p : Nat → Bool) (w : Nat) :
    ((List.range w).map fun i => if p i = true then 2 ^ i else 0).sum < 2 ^ w ∧
      ∀ j < w, ((List.range w).map fun i => if p i = true then 2 ^ i else 0).sum.testBit j = p j := by
  induction w with
  | zero => simp
  | succ w ih =>
    obtain ⟨bound, bits⟩ := ih
    rw [List.range_succ, List.map_append, List.sum_append, List.map_singleton, List.sum_singleton]
    generalize ((List.range w).map fun i => if p i = true then 2 ^ i else 0).sum = low at bound bits ⊢
    have top : (if p w = true then 2 ^ w else 0) = 2 ^ w * (p w).toNat := by cases p w <;> simp
    rw [top, Nat.add_comm]
    refine ⟨?_, fun j below => ?_⟩
    · have : 2 ^ w * (p w).toNat ≤ 2 ^ w := mul_le_of_le_one_right (Nat.zero_le _) (Bool.toNat_le _)
      omega
    · rw [Nat.testBit_two_pow_mul_add _ bound]
      split
      · next small => exact bits j small
      · have last : j = w := by omega
        subst last
        rw [Nat.sub_self]
        cases p j <;> rfl

theorem State.readyWord_lt (s : State) (lo w : Nat) : s.readyWord lo w < 2 ^ w :=
  (testBit_sum_two_pow (fun i => s.isReady (lo + i)) w).1

theorem State.testBit_readyWord (s : State) (lo : Nat) {w i : Nat} (below : i < w) :
    (s.readyWord lo w).testBit i = s.isReady (lo + i) :=
  (testBit_sum_two_pow (fun i => s.isReady (lo + i)) w).2 i below

/-- A register field of one bit is that bit of the register. -/
theorem State.bit_eq_testBit (s : State) (k : RegKey) (i : Nat) : s.bit k i = (s.reg k).toNat.testBit i := by
  rw [State.bit, State.fld, bitsOf, Nat.testBit_eq_decide_div_mod_eq, pow_one]

/-- The generation that follows. -/
def State.nextGeneration (s : State) : Nat := (s.fld (rk .READY_GENERATION) 0 32 + 1) % 2 ^ 32

/-- Every word set to its conditions. -/
def State.setReadyWords (s : State) : State :=
  readyWords.foldl (fun t x => t.setReg (rk x.1) (BitVec.ofNat 64 (s.readyWord x.2.1 x.2.2))) s

/-- The words, the generation and the ready bits of the units, before any event is raised. -/
def State.publishReady (s : State) : State :=
  let t := s.setReadyWords.setReg (rk .READY_GENERATION) (BitVec.ofNat 64 s.nextGeneration)
  let t := (List.range 16).foldl (fun t i => t.setFld (rk .DM_STATUS i) 0 1 (flagNat (s.stackReady i))) t
  (t.setFld (rk .PL_STATUS) 0 1 (flagNat s.placement)).setFld (rk .NB_STATUS) 0 1 (flagNat s.nimbus)

/-- The event of a bit that changes (R369, R371). -/
def State.readyEvent (s : State) (i : Nat) : Ev :=
  (if s.isReady i then 1 else 2, devHandle, payload [(24, 1, (readyKind i).1), (25, 2, (readyKind i).2), (28, 4, s.nextGeneration)])

theorem State.refreshReady_of_nil {s : State} (unchanged : s.readyChanges = []) : s.refreshReady = s := by
  rw [State.refreshReady, unchanged]
  rfl

theorem State.refreshReady_of_ne_nil {s : State} (changed : s.readyChanges ≠ []) :
    s.refreshReady = s.publishReady.raises (s.readyChanges.map s.readyEvent) := by
  have notEmpty : ¬ s.readyChanges.isEmpty = true := by simpa using changed
  rw [State.raises, List.foldl_map, State.refreshReady, if_neg notEmpty]
  rfl

/-- A pass that sets each register once leaves each at its value. -/
theorem State.reg_foldl_setReg {α : Type} (key : α → RegKey) (val : α → Word) {l : List α} (nd : (l.map key).Nodup) {x : α}
    (mem : x ∈ l) (s : State) : (l.foldl (fun t x => t.setReg (key x) (val x)) s).reg (key x) = val x := by
  obtain ⟨before, after, rfl⟩ := List.append_of_mem mem
  have later : ∀ y ∈ after, key x ≠ key y := by
    simp only [List.map_append, List.map_cons, List.nodup_append, List.nodup_cons, List.mem_map] at nd
    obtain ⟨-, ⟨fresh, -⟩, -⟩ := nd
    exact fun y hy same => fresh ⟨y, hy, same.symm⟩
  rw [List.foldl_append, List.foldl_cons, State.reg_foldl _ _ after _ fun t y hy => t.reg_setReg_other _ (later y hy),
    State.reg_setReg_same]

/-- The status bits leave every other register as the words and the generation left it. -/
theorem State.publishReady_reg (s : State) {k : RegKey} (other : k.name ∉ [RegName.DM_STATUS, .PL_STATUS, .NB_STATUS]) :
    s.publishReady.reg k = (s.setReadyWords.setReg (rk .READY_GENERATION) (BitVec.ofNat 64 s.nextGeneration)).reg k := by
  have ne {n : RegName} {u : Nat} (mem : n ∈ [RegName.DM_STATUS, .PL_STATUS, .NB_STATUS]) : k ≠ rk n u :=
    fun same => other (same ▸ mem)
  rw [State.publishReady, State.reg_setFld_other _ _ _ _ (ne (by decide)), State.reg_setFld_other _ _ _ _ (ne (by decide))]
  exact State.reg_foldl _ k _ _ fun t i _ => t.reg_setFld_other _ _ _ (ne (by decide))

theorem State.publishReady_word (s : State) {x : RegName × Nat × Nat} (mem : x ∈ readyWords) :
    s.publishReady.reg (rk x.1) = BitVec.ofNat 64 (s.readyWord x.2.1 x.2.2) := by
  have apart := readyWords_apart x mem
  simp only [List.mem_append, List.mem_cons, not_or] at apart
  obtain ⟨⟨notGeneration, notStatus⟩, -⟩ := apart
  rw [s.publishReady_reg (by simpa [rk] using notStatus), State.reg_setReg_other _ _ (by simpa [rk] using notGeneration)]
  exact State.reg_foldl_setReg (fun x : RegName × Nat × Nat => rk x.1) _ readyWords_nodup mem s

theorem State.publishReady_generation (s : State) :
    s.publishReady.reg (rk .READY_GENERATION) = BitVec.ofNat 64 s.nextGeneration := by
  rw [s.publishReady_reg (by decide), State.reg_setReg_same]

theorem sameLog_publishReady (s : State) : SameLog s s.publishReady :=
  (((sameLog_foldl _ _ s fun t _ => sameLog_setReg t ..).trans (sameLog_setReg _ ..)).trans
    (sameLog_foldl _ _ _ fun t _ => sameLog_setFld t ..)).trans ((sameLog_setFld _ ..).trans (sameLog_setFld _ ..))

/-! ### After the step -/

/-- Whether any bit changed or not, every bit stands at its condition. -/
theorem State.refreshReady_bit (s : State) {x : RegName × Nat × Nat} {i : Nat} (mem : x ∈ readyWords) (below : i < x.2.2) :
    s.refreshReady.bit (rk x.1) i = s.isReady (x.2.1 + i) := by
  by_cases unchanged : s.readyChanges = []
  · rw [State.refreshReady_of_nil unchanged]
    by_contra differs
    have := (s.mem_readyChanges mem below).2 differs
    simp [unchanged] at this
  · have unmarked : (rk x.1).name ∉ eventRegs := fun h => readyWords_apart x mem (List.mem_append_right _ h)
    have fits : s.readyWord x.2.1 x.2.2 < 2 ^ 64 :=
      (s.readyWord_lt _ _).trans_le (Nat.pow_le_pow_right (by decide) (readyWords_width x mem))
    rw [State.refreshReady_of_ne_nil unchanged, State.bit_eq_testBit, State.raises_reg _ _ unmarked, s.publishReady_word mem,
      BitVec.toNat_ofNat, Nat.mod_eq_of_lt fits, s.testBit_readyWord _ below]

theorem State.refreshReady_generation {s : State} (changed : s.readyChanges ≠ []) :
    s.refreshReady.fld (rk .READY_GENERATION) 0 32 = s.nextGeneration := by
  have small : s.nextGeneration < 2 ^ 32 := Nat.mod_lt _ (by decide)
  rw [State.refreshReady_of_ne_nil changed, State.fld, State.raises_reg _ _ (by decide), s.publishReady_generation,
    BitVec.toNat_ofNat, bitsOf]
  omega

theorem State.refreshReady_evSeq {s : State} (changed : s.readyChanges ≠ []) (plain : s.plainEvents) :
    s.refreshReady.evSeq = s.evSeq + s.readyChanges.length := by
  have same := sameLog_publishReady s
  rw [State.refreshReady_of_ne_nil changed, State.raises_evSeq _ _ (same.plain plain), same.seq, List.length_map]

theorem State.refreshReady_dieLog {s : State} (changed : s.readyChanges ≠ []) (plain : s.plainEvents)
    (room : s.dieLog.length + s.readyChanges.length ≤ 1024) : ∃ l : List LogEntry, s.refreshReady.dieLog = s.dieLog ++ l ∧
      l.map (fun e => (e.code, e.unit, e.payload)) = s.readyChanges.map s.readyEvent := by
  have same := sameLog_publishReady s
  rw [State.refreshReady_of_ne_nil changed, ← same.log]
  exact s.publishReady.raises_dieLog _ (same.plain plain) (by rwa [same.log, List.length_map])

/-! ### Jets and sparse engines -/

theorem State.unitReady_jet (s : State) {x : Nat} (h : x < 560) : s.unitReady (0x400 + x) = s.basinReady (x / 4) := by
  have kind : unitKind (0x400 + x) = some .jet := by
    rw [unitKind, if_neg (by omega), if_neg (by omega), if_neg (by omega), if_pos (by omega)]
  have basin : basinOf (0x400 + x) = x / 4 := by
    rw [basinOf, if_neg (by omega), if_pos (by omega), Nat.add_sub_cancel_left]
  simp only [State.unitReady, kind, basin]

theorem State.unitReady_engine (s : State) {x : Nat} (h : x < 280) : s.unitReady (0x800 + x) = s.basinReady (x / 2) := by
  have kind : unitKind (0x800 + x) = some .engine := by
    rw [unitKind, if_neg (by omega), if_neg (by omega), if_neg (by omega), if_neg (by omega), if_pos (by omega)]
  have basin : basinOf (0x800 + x) = x / 2 := by
    rw [basinOf, if_neg (by omega), if_neg (by omega), if_pos (by omega), Nat.add_sub_cancel_left]
  simp only [State.unitReady, kind, basin]

/-! ### The statement -/

/-- Settles O19: the words are set before any event is raised, raising an event touches none of them, and each event of a
change makes one entry of the log. -/
theorem readyMapChangesAreReported : Obligations.ReadyMapChangesAreReported := by
  unfold Obligations.ReadyMapChangesAreReported
  refine ⟨fun s x i mem below => ⟨s.mem_readyChanges mem below, s.refreshReady_bit mem below⟩, fun s => ?_,
    fun s x => ⟨s.unitReady_jet, s.unitReady_engine⟩⟩
  exact ⟨s.readyChanges_ascending, State.refreshReady_of_nil, fun changed =>
    ⟨State.refreshReady_generation changed, State.refreshReady_evSeq changed, State.refreshReady_dieLog changed⟩⟩

end Sys2Proof.Machine
end

section
/-! PROOFS. The bounds of a state (14_rings_and_mailboxes.md). -/

namespace Sys2Proof.Machine

/-- Ring 0 stands twice in the ring table: first without an entry, then with one. -/
def twiceListed : State :=
  let empty : Ring :=
    { cls := 0, weight := 1, place := ⟨false, 0x100000, 4⟩, head := 0, tail := 0, deficit := 0,
      error := false, closing := false }
  let s : State := { State.reset with
    powerGood := true, helloDone := true, up := [0, 1, 8, 9, 64],
    rings := [(0, empty), (0, { empty with tail := 1 })], pending := [.tick] }
  (s.setReg (rk .HI_LINK) 1024#64).setReg (rk .CK_STATUS) 1#64

/-- The state is bounded: each of the two rings holds at most its 16 entries. -/
theorem twiceListed_bounded : twiceListed.bounded :=
  ⟨by unfold State.memoriesWf; decide +kernel, by unfold Ring.sound; decide +kernel, by decide, by decide⟩

/-- Head and tail of each ring of the state that an outcome answers. -/
def headsAndTails : Res → List (Nat × Nat)
  | .next t => t.rings.map fun e => (e.2.head, e.2.tail)
  | _ => []

/-- The tick takes the entry of the second copy and moves the head of the first, past its tail. -/
theorem headsAndTails_step_twiceListed : headsAndTails (step twiceListed) = [(1, 0), (0, 1)] := by
  decide +kernel

/-- Refutes O3: the bounds do not say that a ring stands once in its table. Where ring 0 stands in it
twice, a tick serves the entry of one copy and moves the head of the other past its tail. -/
theorem not_stepKeepsBounds : ¬ Obligations.StepKeepsBounds := by
  unfold Obligations.StepKeepsBounds
  intro keeps
  have moved := headsAndTails_step_twiceListed
  cases after : step twiceListed with
  | next t =>
    obtain ⟨_, sound, _⟩ := keeps twiceListed t twiceListed_bounded after
    rw [after] at moved
    obtain ⟨e, he, hp⟩ : ∃ e ∈ t.rings, (e.2.head, e.2.tail) = (1, 0) := by
      simpa using List.mem_map.mp (show (1, 0) ∈ headsAndTails (.next t) by simp [moved])
    obtain ⟨_, hz, _, _, _, room⟩ := sound e he
    have small : 2 ^ e.2.place.z ≤ 2 ^ 16 := Nat.pow_le_pow_right (by decide) hz
    simp only [Prod.mk.injEq] at hp
    omega
  | fault | refused => simp [after, headsAndTails] at moved

end Sys2Proof.Machine
end

section
/-! PROOFS. Words put together from the fields of a register's row: each field stands in the word, and no other bit is set
(00_scope.md). -/

namespace Sys2Proof.Machine

/-- The fields stand from bit `lo` on in ascending order, without overlap, in 64 bits. -/
def ascendingFields : Nat → List Field → Bool
  | lo, [] => lo ≤ 64
  | lo, f :: r => lo ≤ f.lo && ascendingFields (f.lo + f.w) r

/-- Every row of the register tables lists its fields so. -/
theorem regRow_ascending (n : RegName) : ascendingFields 0 (regRow n).fields = true := by
  cases n <;> rfl

/-- The word whose fields have the values of `g`. -/
def fieldWord (g : Field → Nat) (fs : List Field) : Nat := (fs.map fun f => g f * 2 ^ f.lo).sum

theorem fieldWord_cons (g : Field → Nat) (f : Field) (r : List Field) :
    fieldWord g (f :: r) = g f * 2 ^ f.lo + fieldWord g r := by
  simp [fieldWord]

theorem ascendingFields_cons {lo : Nat} {f : Field} {r : List Field} :
    ascendingFields lo (f :: r) = true ↔ lo ≤ f.lo ∧ ascendingFields (f.lo + f.w) r = true := by
  simp [ascendingFields]

theorem ascendingFields_le {lo : Nat} {fs : List Field} (h : ascendingFields lo fs = true) : lo ≤ 64 := by
  induction fs generalizing lo with
  | nil => simpa [ascendingFields] using h
  | cons f r ih =>
    obtain ⟨first, rest⟩ := ascendingFields_cons.mp h
    have := ih rest
    omega

theorem ascendingFields_mem {lo : Nat} {fs : List Field} (h : ascendingFields lo fs = true) {f : Field} (mem : f ∈ fs) :
    lo ≤ f.lo ∧ f.lo + f.w ≤ 64 := by
  induction fs generalizing lo with
  | nil => cases mem
  | cons x r ih =>
    obtain ⟨first, rest⟩ := ascendingFields_cons.mp h
    rcases List.mem_cons.mp mem with rfl | mem
    · exact ⟨first, ascendingFields_le rest⟩
    · obtain ⟨later, fits⟩ := ih rest mem
      exact ⟨by omega, fits⟩

theorem dvd_fieldWord {g : Field → Nat} {lo : Nat} {fs : List Field} (h : ascendingFields lo fs = true) :
    2 ^ lo ∣ fieldWord g fs := by
  refine List.dvd_sum fun x hx => ?_
  obtain ⟨f, mem, rfl⟩ := List.mem_map.mp hx
  exact Dvd.dvd.mul_left (Nat.pow_dvd_pow 2 (ascendingFields_mem h mem).1) _

/-- The bits below a field's end are its own, those above it the rest's. -/
theorem testBit_fieldWord_cons {g : Field → Nat} {lo : Nat} {f : Field} {r : List Field}
    (h : ascendingFields lo (f :: r) = true) (small : g f < 2 ^ f.w) (i : Nat) :
    (fieldWord g (f :: r)).testBit i =
      if i < f.lo + f.w then decide (f.lo ≤ i) && (g f).testBit (i - f.lo) else (fieldWord g r).testBit i := by
  obtain ⟨-, rest⟩ := ascendingFields_cons.mp h
  obtain ⟨q, hq⟩ := dvd_fieldWord (g := g) rest
  have low : g f * 2 ^ f.lo < 2 ^ (f.lo + f.w) := by
    rw [Nat.pow_add, Nat.mul_comm]
    exact Nat.mul_lt_mul_of_pos_left small (Nat.two_pow_pos _)
  rw [fieldWord_cons, hq, Nat.add_comm, Nat.testBit_two_pow_mul_add _ low]
  by_cases below : i < f.lo + f.w
  · simp [below, Nat.testBit_mul_two_pow]
  · have above : f.lo + f.w ≤ i := by omega
    rw [if_neg below, if_neg below, Nat.testBit_two_pow_mul, decide_eq_true above, Bool.true_and]

theorem testBit_fieldWord_mem {g : Field → Nat} {lo : Nat} {fs : List Field} (h : ascendingFields lo fs = true)
    (small : ∀ f ∈ fs, g f < 2 ^ f.w) {f : Field} (mem : f ∈ fs) {i : Nat} (hi : i < f.w) :
    (fieldWord g fs).testBit (f.lo + i) = (g f).testBit i := by
  induction fs generalizing lo with
  | nil => cases mem
  | cons x r ih =>
    obtain ⟨-, rest⟩ := ascendingFields_cons.mp h
    rw [testBit_fieldWord_cons h (small x List.mem_cons_self)]
    rcases List.mem_cons.mp mem with rfl | mem
    · simp [hi]
    · have later := (ascendingFields_mem rest mem).1
      rw [if_neg (by omega)]
      exact ih rest (fun y hy => small y (List.mem_cons_of_mem _ hy)) mem

theorem testBit_fieldWord_apart {g : Field → Nat} {lo : Nat} {fs : List Field} (h : ascendingFields lo fs = true)
    (small : ∀ f ∈ fs, g f < 2 ^ f.w) {i : Nat} (apart : ∀ f ∈ fs, i < f.lo ∨ f.lo + f.w ≤ i) :
    (fieldWord g fs).testBit i = false := by
  induction fs generalizing lo with
  | nil => exact Nat.zero_testBit i
  | cons x r ih =>
    obtain ⟨-, rest⟩ := ascendingFields_cons.mp h
    rw [testBit_fieldWord_cons h (small x List.mem_cons_self)]
    have := apart x List.mem_cons_self
    split
    · rw [decide_eq_false (by omega), Bool.false_and]
    · exact ih rest (fun y hy => small y (List.mem_cons_of_mem _ hy)) fun y hy => apart y (List.mem_cons_of_mem _ hy)

/-- A field of the word is the value that `g` gives it. -/
theorem bitsOf_fieldWord {g : Field → Nat} {lo : Nat} {fs : List Field} (h : ascendingFields lo fs = true)
    (small : ∀ f ∈ fs, g f < 2 ^ f.w) {f : Field} (mem : f ∈ fs) : bitsOf (fieldWord g fs) f.lo f.w = g f := by
  apply Nat.eq_of_testBit_eq
  intro i
  rw [testBit_bitsOf]
  by_cases hi : i < f.w
  · rw [decide_eq_true hi, Bool.true_and, testBit_fieldWord_mem h small mem hi]
  · rw [decide_eq_false hi, Bool.false_and, Nat.testBit_lt_two_pow]
    exact (small f mem).trans_le (Nat.pow_le_pow_right (by decide) (by omega))

theorem fieldWord_lt {g : Field → Nat} {lo : Nat} {fs : List Field} (h : ascendingFields lo fs = true)
    (small : ∀ f ∈ fs, g f < 2 ^ f.w) : fieldWord g fs < 2 ^ 64 := by
  refine Nat.lt_pow_two_of_testBit _ fun i hi => testBit_fieldWord_apart h small fun f mem => ?_
  have := (ascendingFields_mem h mem).2
  omega

/-! ### Written words -/

theorem Field.written_lt (f : Field) (old v : Nat) : f.written old v < 2 ^ f.w := by
  have x := bitsOf_lt old f.lo f.w
  have y := bitsOf_lt v f.lo f.w
  unfold Field.written
  split
  · exact y
  · exact Nat.and_lt_two_pow _ (by omega)
  · exact Nat.or_lt_two_pow x y
  all_goals exact x

theorem writtenWord_toNat (n : RegName) (old v : Nat) :
    (writtenWord (regRow n).fields old v).toNat = fieldWord (fun f => f.written old v) (regRow n).fields := by
  rw [writtenWord, BitVec.toNat_ofNat]
  exact Nat.mod_eq_of_lt (fieldWord_lt (regRow_ascending n) fun f _ => f.written_lt old v)

end Sys2Proof.Machine
end

section
/-! PROOFS. What every command and every clock tick keeps: the queue, the debug lock and the fused anti-rollback level
(95_what_each_step_holds.md, 19_nimbus_security_lifetime.md). One lemma for each function of the model that answers a state,
in the order of the model. -/

namespace Sys2Proof.Machine

/-! ### The relation -/

/-- The queue, the debug lock and the fused level as a queue and a register list have them: the queue is that of state `a`, debug
is locked if it is in `a`, and the fused level is not below that of `a`. -/
def GuardedAt (a : State) (pending : List Instr) (regs : List (RegKey × Word)) : Prop :=
  pending = a.pending ∧ (bitsOf (scWord a.regs) 0 1 = 0 → bitsOf (scWord regs) 0 1 = 0) ∧
    bitsOf (scWord a.regs) 6 7 ≤ bitsOf (scWord regs) 6 7

/-- State `t` has the queue of state `a`, keeps its debug lock and does not lower its fused level. -/
def Guarded (a t : State) : Prop := GuardedAt a t.pending t.regs

theorem Guarded.refl (a : State) : Guarded a a := ⟨rfl, id, le_rfl⟩

theorem Guarded.trans {a b c : State} (h : Guarded a b) (k : Guarded b c) : Guarded a c :=
  ⟨k.1.trans h.1, k.2.1 ∘ h.2.1, h.2.2.trans k.2.2⟩

/-- An update that leaves the queue and the registers. -/
theorem Guarded.upd {a s : State} (h : Guarded a s) : GuardedAt a s.pending s.regs := h

theorem Guarded.of_kept {a s t : State} (h : Guarded a s) (k : Kept s s → Kept s t) : Guarded a t := by
  obtain ⟨queue, -, -, -, -, -, -, -, lock, level⟩ := k (Kept.refl s)
  exact h.trans ⟨queue, lock, level⟩

theorem Guarded.of_eq {β : Type} {a t : State} {p : State × β} {b : β} (e : p = (t, b)) (k : Guarded a p.1) : Guarded a t := by
  subst e
  exact k

theorem guarded_ite {a x y : State} {c : Prop} [Decidable c] (h : Guarded a x) (k : Guarded a y) :
    Guarded a (if c then x else y) := by
  split <;> assumption

theorem guarded_ite_fst {β : Type} {a : State} {x y : State × β} {c : Prop} [Decidable c] (h : Guarded a x.1)
    (k : Guarded a y.1) : Guarded a (if c then x else y).1 := by
  split <;> assumption

theorem guarded_foldl {α : Type} {a s : State} {f : State → α → State} {l : List α} (h : Guarded a s)
    (k : ∀ s x, Guarded a s → Guarded a (f s x)) : Guarded a (l.foldl f s) := by
  induction l generalizing s with
  | nil => exact h
  | cons x r ih => exact ih (k s x h)

/-- A fold that carries a result beside the state. -/
theorem guarded_scan {α β : Type} {a : State} {f : State × β → α → State × β} {l : List α} {r : State × β}
    (h : Guarded a r.1) (k : ∀ r x, Guarded a r.1 → Guarded a (f r x).1) : Guarded a (l.foldl f r).1 := by
  induction l generalizing r with
  | nil => exact h
  | cons x l ih => exact ih (k r x h)

/-- The same fold, its step given by its value: the kernel compares the step itself and does not run into its branches. -/
theorem guarded_scan_eq {α β : Type} {a : State} {f : State × β → α → State × β} {l : List α} {r : State × β}
    (h : Guarded a r.1) (k : ∀ r x q, Guarded a r.1 → f r x = q → Guarded a q.1) : Guarded a (l.foldl f r).1 :=
  guarded_scan h fun r x h => k r x _ h rfl

/-! ### Registers, events and memory accesses -/

theorem guarded_setReg {a s : State} {n : RegName} {u i : Nat} {v : Word} (h : Guarded a s) (hn : n ≠ .SC_STATUS) :
    Guarded a (s.setReg (rk n u i) v) := h.of_kept fun k => kept_setReg n u i v k hn

theorem guarded_setFld {a s : State} {n : RegName} {u i lo w x : Nat} (h : Guarded a s) (hn : n ≠ .SC_STATUS) :
    Guarded a (s.setFld (rk n u i) lo w x) := guarded_setReg h hn

/-- A field of SC_STATUS that is neither the debug bit nor the fused level. -/
theorem guarded_setFld_status {a s : State} {lo w x : Nat} (h : Guarded a s) (h0 : decide (1 ≤ lo) = true)
    (h1 : decide (lo + w ≤ 6 ∨ 13 ≤ lo) = true) (h2 : decide (lo + w ≤ 64) = true) :
    Guarded a (s.setFld (rk .SC_STATUS) lo w x) := h.of_kept fun k => kept_setFld_sc lo w x k h0 h1 h2

theorem guarded_bump {a s : State} {n : RegName} {u i x : Nat} (h : Guarded a s) (hn : n ≠ .SC_STATUS) :
    Guarded a (s.bump (rk n u i) x) := guarded_setReg h hn

theorem guarded_show {a s : State} {n : RegName} {u i v : Nat} (h : Guarded a s) (hn : n ≠ .SC_STATUS) :
    Guarded a (s.show (rk n u i) v) := by
  unfold State.show
  exact guarded_ite h (guarded_setReg h hn)

theorem guarded_refreshReady {a s : State} (h : Guarded a s) : Guarded a s.refreshReady := h.of_kept kept_refreshReady

theorem guarded_send {a s : State} {p : Post} (h : Guarded a s) : Guarded a (s.send p) :=
  h.of_kept (kept_send _)

theorem guarded_flushWait {a s : State} (h : Guarded a s) : Guarded a s.flushWait :=
  h.of_kept kept_flushWait

theorem guarded_sendAs {a s : State} {cls : Nat} {m : LinkMsg} {op : Nat} (h : Guarded a s) : Guarded a (s.sendAs cls m op) :=
  h.of_kept (kept_sendAs _ _ _)

theorem guarded_sendLink {a s : State} {m : LinkMsg} {op : Nat} (h : Guarded a s) : Guarded a (s.sendLink m op) :=
  h.of_kept (kept_sendLink _ _)

theorem guarded_raise {a s : State} {c u : Nat} {p : List Byte} (h : Guarded a s) : Guarded a (s.raise c u p) :=
  h.of_kept (kept_raise _ _ _)

theorem guarded_lostPost {a s : State} (h : Guarded a s) : Guarded a s.lostPost :=
  h.of_kept kept_lostPost

theorem guarded_mapAdd {a s : State} {k u l : Nat} (h : Guarded a s) : Guarded a (s.mapAdd k u l) :=
  h.of_kept (kept_mapAdd _ _ _)

theorem guarded_poolRowRead {a s : State} {q x n r : Nat} (h : Guarded a s) : Guarded a (s.poolRowRead q x n r).1 :=
  h.of_kept (kept_poolRowRead _ _ _ _)

theorem guarded_dramCorrected {a s : State} {st x : Nat} (h : Guarded a s) : Guarded a (s.dramCorrected st x) :=
  h.of_kept (kept_dramCorrected _ _)

theorem guarded_readPiece {a s : State} {w : Who} {x n r : Nat} (h : Guarded a s) : Guarded a (s.readPiece w x n r).1 :=
  h.of_kept (kept_readPiece _ _ _ _)

theorem guarded_readSpan {a s : State} {w : Who} {p : Span} {r : Nat} (h : Guarded a s) : Guarded a (s.readSpan w p r).1 :=
  h.of_kept (kept_readSpan _ _ _)

theorem guarded_readSpans {a s : State} {w : Who} {ps : List Span} {r : Nat} (h : Guarded a s) : Guarded a (s.readSpans w ps
    r).1 :=
  h.of_kept (kept_readSpans _ _ _)

theorem guarded_poolRequest {a s : State} {q x c w : Nat} {bs : List Byte} (h : Guarded a s) : Guarded a (s.poolRequest q x c
    w bs) :=
  h.of_kept (kept_poolRequest _ _ _ _ _)

theorem guarded_writeDev {a s : State} {w : Who} {x : Nat} {bs : List Byte} (h : Guarded a s) : Guarded a (s.writeDev w x bs) :=
  h.of_kept (kept_writeDev _ _ _)

theorem guarded_writeAt {a s : State} {w : Who} {x o : Nat} {bs : List Byte} (h : Guarded a s) : Guarded a (s.writeAt w x o
    bs) :=
  h.of_kept (kept_writeAt _ _ _ _)

theorem guarded_writeAll {a s : State} {w : Who} {ws : List (Nat × Nat × List Byte)} (h : Guarded a s) : Guarded a
    (s.writeAll w ws) :=
  h.of_kept (kept_writeAll _ _)

theorem guarded_slotEmpty {a s : State} {q n : Nat} (h : Guarded a s) : Guarded a (s.slotEmpty q n) :=
  h.of_kept (kept_slotEmpty _ _)

/-! ### Answers of commands -/

/-- A command answers a next state that has the queue of `a`, keeps its debug lock and does not lower its fused level. -/
def GuardedRes (a : State) (r : Res) : Prop := ∃ t, r = .next t ∧ Guarded a t

theorem guardedRes_next {a t : State} (h : Guarded a t) : GuardedRes a (.next t) := ⟨t, rfl, h⟩

theorem guardedRes_ite {a : State} {x y : Res} {c : Prop} [Decidable c] (h : GuardedRes a x) (k : GuardedRes a y) :
    GuardedRes a (if c then x else y) := by
  split <;> assumption

theorem guarded_whenJob {a s : State} {jid : Nat} {ok : Job → Bool} {f : Job → State} (h : Guarded a s)
    (k : ∀ j, Guarded a (f j)) : Guarded a (s.whenJob jid ok f) := by
  unfold State.whenJob
  split
  · exact guarded_ite (k _) h
  · exact h

theorem guarded_showColumns {a s : State} {u : ℕ} (h : Guarded a s) : Guarded a (State.showColumns s u) := by
  unfold State.showColumns
  refine guarded_ite h ?_
  extract_lets +onlyGivenNames _ _
  exact guarded_setFld (guarded_setFld h (by decide)) (by decide)

theorem guarded_showSuspects {a s : State} (h : Guarded a s) : Guarded a (State.showSuspects s) := by
  unfold State.showSuspects
  exact guarded_foldl h (fun s x h => guarded_showColumns h)

theorem guarded_flitOut {a s : State} {p : ℕ} (h : Guarded a s) : Guarded a (State.flitOut s p) := by
  unfold State.flitOut
  extract_lets +onlyGivenNames _ _
  dsimp only
  split
  · exact h
  · split
    · exact h
    · exact (guarded_bump h (by decide)).upd

theorem guarded_flitsOut {a s : State} {p n : Nat} (h : Guarded a s) : Guarded a (s.flitsOut p n) := by
  induction n generalizing s with
  | zero => exact h
  | succ n ih => exact ih (guarded_flitOut h)

theorem guarded_enqueue {a s : State} {p cls op : ℕ} {msg : LinkMsg} (h : Guarded a s) :
    Guarded a (State.enqueue s p cls op msg) := by
  unfold State.enqueue
  extract_lets +onlyGivenNames _
  exact h

theorem guarded_mgtVector {a s : State} (h : Guarded a s) : Guarded a (State.mgtVector s) := by
  unfold State.mgtVector
  refine guarded_ite h (guarded_ite (guarded_setFld h (by decide)) ?_)
  extract_lets +onlyGivenNames _
  exact h

theorem guarded_mgtUnmask {a s : State} (h : Guarded a s) : Guarded a (State.mgtUnmask s) := by
  unfold State.mgtUnmask
  exact guarded_ite (guarded_mgtVector (guarded_setFld h (by decide))) h

theorem guarded_setOwn {a s : State} {i : ℕ} {b : Bool} (h : Guarded a s) : Guarded a (State.setOwn s i b) := by
  unfold State.setOwn
  exact h

theorem guarded_dieShown {a s : State} {st a' : ℕ} {es : List (ℕ × ℕ)} (h : Guarded a s) :
    Guarded a (State.dieShown s st a' es) := by
  unfold State.dieShown
  exact h

theorem guarded_readEach {a s : State} {w : Who} {a' n : ℕ} (h : Guarded a s) :
    Guarded a (State.readEach s w a' n).1 := by
  unfold State.readEach
  refine guarded_scan h (fun r x h => ?_)
  dsimp only
  exact guarded_readPiece h

theorem guarded_sendToken {a s : State} {q n : ℕ} {full claimed : Bool} {op : ℕ} (h : Guarded a s) :
    Guarded a (State.sendToken s q n full claimed op) := by
  unfold State.sendToken
  exact guarded_sendLink h

theorem guarded_slotClaim {a s : State} {q n op : Nat} (h : Guarded a s) : Guarded a (s.slotClaim q n op) := by
  unfold State.slotClaim
  exact guarded_ite (guarded_sendToken h) (guarded_setFld h (by decide))

theorem guarded_slotFill {a s : State} {q n : Nat} {ok : Bool} {op : Nat} (h : Guarded a s) : Guarded a (s.slotFill q n ok
    op) := by
  unfold State.slotFill
  exact guarded_ite (guarded_sendToken h) (guarded_setFld (guarded_setFld h (by decide)) (by decide))

theorem guarded_upsetAcc {a s : State} {ks : List ℕ} (h : Guarded a s) : Guarded a (State.upsetAcc s ks) := by
  unfold State.upsetAcc
  exact h

theorem guarded_readAcc {a s : State} {p : ℕ → Bool} (h : Guarded a s) : Guarded a (State.readAcc s p) := by
  unfold State.readAcc
  extract_lets +onlyGivenNames _
  refine guarded_ite h ?_
  extract_lets +onlyGivenNames s2
  have h2 : Guarded a s2 := guarded_bump h (by decide)
  clear_value s2
  exact h2

theorem guarded_prmRead {a s : State} {q : ℕ} {d : Desc} {n : ℕ} (h : Guarded a s) :
    Guarded a (State.prmRead s q d n).1 := by
  unfold State.prmRead
  refine guarded_ite_fst (guarded_scan h (fun r x h => ?_)) h
  split
  · exact h
  · exact guarded_poolRowRead h

theorem guarded_showJet {a s : State} {x : ℕ} (h : Guarded a s) : Guarded a (State.showJet s x) := by
  unfold State.showJet
  extract_lets +onlyGivenNames _ _ s3
  have h3 : Guarded a s3 := guarded_ite h (guarded_setFld h (by decide))
  clear_value s3
  exact guarded_setFld h3 (by decide)

theorem guarded_putSets {a s : State} {x : ℕ} {js : JetSets} (h : Guarded a s) : Guarded a (State.putSets s x js) := by
  unfold State.putSets
  exact guarded_showJet h

theorem guarded_showEngine {a s : State} {e : ℕ} (h : Guarded a s) : Guarded a (State.showEngine s e) := by
  unfold State.showEngine
  extract_lets +onlyGivenNames _ _ s3
  have h3 : Guarded a s3 := guarded_ite h (guarded_setFld h (by decide))
  clear_value s3
  exact guarded_setFld h3 (by decide)

theorem guarded_putStores {a s : State} {e : ℕ} {es : EngSets} (h : Guarded a s) :
    Guarded a (State.putStores s e es) := by
  unfold State.putStores
  extract_lets +onlyGivenNames _
  exact guarded_showEngine h

theorem guarded_endSpan {a s : State} {e : ℕ} (h : Guarded a s) : Guarded a (State.endSpan s e) := by
  unfold State.endSpan
  dsimp only
  split
  · exact h
  · exact guarded_putStores (guarded_bump h (by decide))

theorem guarded_spanOver {a s : State} {x : ℕ} (h : Guarded a s) : Guarded a (State.spanOver s x) := by
  unfold State.spanOver
  split
  · exact h
  · split
    · exact guarded_ite (guarded_endSpan h) h
    · exact h

theorem guarded_quiet {a s : State} {x : ℕ} (h : Guarded a s) : Guarded a (State.quiet s x) := by
  unfold State.quiet
  exact guarded_foldl h (fun s x h => guarded_ite (guarded_setFld h (by decide)) h)

theorem guarded_unload {a s : State} {jid : ℕ} (h : Guarded a s) : Guarded a (State.unload s jid) := by
  unfold State.unload
  extract_lets +onlyGivenNames _ s2
  have h2 : Guarded a s2 := guarded_foldl h (fun s x h => guarded_quiet (guarded_putSets h))
  clear_value s2
  exact guarded_foldl h2 (fun s x h => guarded_putStores h)

theorem guarded_putJob {a s : State} {j : Job} (h : Guarded a s) : Guarded a (State.putJob s j) := by
  unfold State.putJob
  exact h

theorem guarded_dropJob {a s : State} {jid : ℕ} (h : Guarded a s) : Guarded a (State.dropJob s jid) := by
  unfold State.dropJob
  exact h

theorem guarded_endJob {a s : State} {j : Job} {status detail : ℕ} (h : Guarded a s) :
    Guarded a (State.endJob s j status detail) := by
  unfold State.endJob
  extract_lets +onlyGivenNames s1
  have h1 : Guarded a s1 := guarded_unload h
  clear_value s1
  exact h1

theorem guarded_giveBack {a s : State} {cs : List (ℕ × ℕ)} {op : optParam ℕ 0} (h : Guarded a s) :
    Guarded a (State.giveBack s cs op) := by
  unfold State.giveBack
  exact guarded_foldl h (fun s x h => guarded_slotFill h)

theorem guarded_fillAll {a s : State} {cs : List (ℕ × ℕ)} {op : optParam ℕ 0} (h : Guarded a s) :
    Guarded a (State.fillAll s cs op) := by
  unfold State.fillAll
  exact guarded_foldl h (fun s x h => guarded_slotFill h)

theorem guarded_reject {a s : State} {j : Job} {e : Err} (h : Guarded a s) : Guarded a (State.reject s j e) := by
  unfold State.reject
  exact guarded_endJob h

theorem guarded_succeed {a s : State} {j : Job} (h : Guarded a s) : Guarded a (State.succeed s j) := by
  unfold State.succeed
  exact guarded_endJob (guarded_fillAll h)

theorem guarded_markBasin {a s : State} {q i : ℕ} (h : Guarded a s) : Guarded a (State.markBasin s q i) := by
  unfold State.markBasin
  exact h

theorem guarded_setHolder {a s : State} {r h' : ℕ} (h : Guarded a s) : Guarded a (State.setHolder s r h') := by
  unfold State.setHolder
  extract_lets +onlyGivenNames s1
  have h1 : Guarded a s1 := h
  clear_value s1
  refine guarded_ite ?_ h1
  extract_lets +onlyGivenNames _ s3
  have h3 : Guarded a s3 := guarded_setFld h1 (by decide)
  clear_value s3
  exact guarded_setFld (guarded_setFld h3 (by decide)) (by decide)

theorem guarded_holdDefaults {a s : State} (h : Guarded a s) : Guarded a (State.holdDefaults s) := by
  unfold State.holdDefaults
  extract_lets +onlyGivenNames s1 _ _
  have h1 : Guarded a s1 := guarded_ite (guarded_setHolder h) h
  clear_value s1
  refine guarded_foldl h1 (fun s x h => ?_)
  extract_lets +onlyGivenNames _
  exact guarded_ite (guarded_ite (guarded_setHolder h) h) (guarded_ite (guarded_setHolder h) h)

theorem guarded_setTerrace {a s : State} {t : ℕ} {b : Bool} (h : Guarded a s) : Guarded a (State.setTerrace s t b) := by
  unfold State.setTerrace
  exact guarded_foldl (guarded_setOwn h) (fun s x h => guarded_setOwn h)

theorem guarded_takeReserve {a s : State} (h : Guarded a s) : Guarded a (State.takeReserve s) := by
  unfold State.takeReserve
  split
  · exact guarded_refreshReady (guarded_setTerrace h)
  · exact h

theorem guarded_showSpares {a s : State} (h : Guarded a s) : Guarded a (State.showSpares s) := by
  unfold State.showSpares
  extract_lets +onlyGivenNames _ _ _
  exact guarded_ite h (guarded_setReg h (by decide))

theorem guarded_settle {a s : State} (h : Guarded a s) : Guarded a (State.settle s) := by
  unfold State.settle
  exact guarded_showSpares (guarded_holdDefaults (guarded_takeReserve (guarded_takeReserve (guarded_takeReserve
      (guarded_refreshReady h)))))

theorem guarded_showPps {a s : State} (h : Guarded a s) : Guarded a (State.showPps s) := by
  unfold State.showPps
  exact guarded_setFld h (by decide)

theorem guarded_claimPps {a s : State} (h : Guarded a s) : Guarded a (State.claimPps s) := by
  unfold State.claimPps
  exact guarded_ite (guarded_showPps (guarded_setHolder h)) (guarded_ite h h)

theorem guarded_freeHolder {a s : State} {r : ℕ} (h : Guarded a s) : Guarded a (State.freeHolder s r) := by
  unfold State.freeHolder
  extract_lets +onlyGivenNames s1
  have h1 : Guarded a s1 := guarded_setHolder h
  clear_value s1
  exact guarded_ite (guarded_claimPps h1) h1

theorem guarded_showHalt {a s : State} (h : Guarded a s) : Guarded a (State.showHalt s) := by
  unfold State.showHalt
  exact guarded_setFld h (by decide)

theorem guarded_resumeU {a s : State} {u : ℕ} (h : Guarded a s) : Guarded a (State.resumeU s u) := by
  unfold State.resumeU
  refine guarded_ite ?_ h
  extract_lets +onlyGivenNames _
  exact guarded_showHalt (guarded_setFld h (by decide))

theorem guarded_resumeView {a s : State} {t : ℕ} (h : Guarded a s) : Guarded a (State.resumeView s t) := by
  unfold State.resumeView
  exact guarded_foldl h (fun s x h => guarded_resumeU h)

theorem guarded_shut {a s : State} {j g : ℕ} (h : Guarded a s) : Guarded a (State.shut s j g) := by
  unfold State.shut
  exact h

theorem guarded_failJob {a s : State} {j : Job} {status detail : ℕ} (h : Guarded a s) :
    Guarded a (State.failJob s j status detail) := by
  unfold State.failJob
  extract_lets +onlyGivenNames s1
  have h1 : Guarded a s1 := guarded_ite (guarded_foldl h (fun s x h => guarded_shut h)) h
  clear_value s1
  exact guarded_endJob (guarded_giveBack h1)

theorem guarded_claimFree {a s : State} {j : Job} {cs : List (Nat × Nat)} (h : Guarded a s) : Guarded a (s.claimFree j cs).1
    := by
  induction cs generalizing s j with
  | nil => exact h
  | cons c r ih =>
    unfold State.claimFree
    exact guarded_ite_fst (ih h) (guarded_ite_fst (ih (guarded_slotClaim h)) h)

theorem guarded_takeTokens {a s : State} {j : Job} {rd : List (ℕ × ℕ)} {wr : List (ℕ × ℕ)} (h : Guarded a s) :
    Guarded a (State.takeTokens s j rd wr).1 := by
  unfold State.takeTokens
  dsimp only
  exact guarded_ite_fst (guarded_claimFree h) h

theorem guarded_waitToken {a s : State} {j : Job} {ph : Phase} {c : Option (ℕ × ℕ)} (h : Guarded a s) :
    Guarded a (State.waitToken s j ph c) := by
  unfold State.waitToken
  exact guarded_putJob h

theorem guarded_openOn {a s : State} {x g : ℕ} {r : Machine.Group} (h : Guarded a s) :
    Guarded a (State.openOn s x g r) := by
  unfold State.openOn
  exact h

/-- The steps that an opcode brings to issue keep what the whole-machine rules speak of. -/
structure Op.Guarded (o : Op) : Prop where
  check : ∀ {a s j}, Machine.Guarded a s → Machine.Guarded a (o.check s j).1
  last : ∀ {a s j}, Machine.Guarded a s → Machine.Guarded a (o.last s j).1
  opens : ∀ {a s j}, Machine.Guarded a s → Machine.Guarded a (o.opens s j).1
  run : ∀ {a s j}, Machine.Guarded a s → Machine.Guarded a (o.run s j)

theorem guarded_proceed {a s : State} {j : Job} {o : Op} (h : Guarded a s) (ho : o.Guarded) : Guarded a (s.proceed j o) := by
  unfold State.proceed
  dsimp only
  split
  · rename_i e
    exact guarded_waitToken (Guarded.of_eq e (guarded_takeTokens h))
  · rename_i e
    exact ho.run (guarded_putJob (Guarded.of_eq e (guarded_takeTokens h)))

theorem guarded_afterBlock {a s : State} {j : Job} {o : Op} (h : Guarded a s) (ho : o.Guarded) : Guarded a (s.afterBlock j o)
    := by
  unfold State.afterBlock
  split
  · rename_i e
    exact guarded_reject (Guarded.of_eq e (ho.check h))
  · rename_i e
    have k := Guarded.of_eq e (ho.check h)
    refine guarded_ite (guarded_reject k) (guarded_ite (guarded_endJob k) ?_)
    split
    · exact guarded_reject k
    · split
      · rename_i e
        exact guarded_reject (Guarded.of_eq e (ho.last k))
      · rename_i e
        exact guarded_proceed (ho.opens (Guarded.of_eq e (ho.last k))) ho

theorem guarded_issueFail {a s : State} {j : Job} {e : Err} (h : Guarded a s) : Guarded a (State.issueFail s j e) := by
  unfold State.issueFail
  extract_lets +onlyGivenNames s1
  have h1 : Guarded a s1 := guarded_ite (guarded_foldl h (fun s x h => guarded_shut h)) h
  clear_value s1
  exact guarded_reject h1

theorem guarded_issueBlock {a s : State} {j : Job} {o : Op} (h : Guarded a s) (ho : o.Guarded) : Guarded a (s.issueBlock j o)
    := by
  unfold State.issueBlock
  refine guarded_ite (guarded_reject h) (guarded_ite (guarded_waitToken h) ?_)
  split
  · rename_i e
    exact guarded_issueFail (Guarded.of_eq e (guarded_ite_fst h (guarded_readSpan h)))
  · rename_i e
    exact guarded_afterBlock (Guarded.of_eq e (guarded_ite_fst h (guarded_readSpan h))) ho

theorem guarded_issueAs {a s : State} {j : Job} {o : Op} (h : Guarded a s) (ho : o.Guarded) : Guarded a (s.issueAs j o) := by
  unfold State.issueAs
  dsimp only
  split
  · rename_i e
    exact guarded_issueFail (Guarded.of_eq e (guarded_ite_fst (guarded_readSpan h) h))
  · rename_i e
    have k := Guarded.of_eq e (guarded_ite_fst (guarded_readSpan h) h)
    split
    · exact guarded_reject k
    · split
      · exact guarded_reject k
      · exact guarded_issueBlock k ho

theorem guarded_stall {a s : State} {q n : ℕ} (h : Guarded a s) : Guarded a (State.stall s q n) := by
  unfold State.stall
  exact guarded_ite h h

theorem guarded_issueRow {a s : State} {r : IssueRun} {mine : Desc → Bool} {o : Op} (h : Guarded a s) (ho : o.Guarded) :
    Guarded a (s.issueRow r mine o) := by
  unfold State.issueRow
  exact guarded_whenJob h fun j => guarded_issueAs (guarded_stall h) ho

theorem guarded_ringError {a s : State} {ring kind cq : ℕ} (h : Guarded a s) :
    Guarded a (State.ringError s ring kind cq) := by
  unfold State.ringError
  extract_lets +onlyGivenNames s1
  have h1 : Guarded a s1 := guarded_ite h (guarded_setReg h (by decide))
  clear_value s1
  exact guarded_raise (guarded_bump h1 (by decide))

theorem guarded_breakRing {a s : State} {ring kind : ℕ} (h : Guarded a s) : Guarded a (State.breakRing s ring kind) := by
  unfold State.breakRing
  exact guarded_ringError h

theorem guarded_execDoorbellWrite {a s : State} {ring : ℕ} {_wide : Bool} {value : BitVec 64} (h : Guarded a s) :
    GuardedRes a (execDoorbellWrite ring _wide value s) := by
  unfold execDoorbellWrite
  dsimp only
  split
  · exact guardedRes_next (guarded_ringError h)
  · exact guardedRes_ite (guardedRes_next (guarded_ite h (guarded_breakRing h))) (guardedRes_next h)

theorem guarded_addJob {a s : State} {j : Job} (h : Guarded a s) : Guarded a (State.addJob s j) := by
  unfold State.addJob
  exact h

theorem guarded_countPlaced {a s : State} {a' : Option Cand} (h : Guarded a s) : Guarded a (State.countPlaced s a') := by
  unfold State.countPlaced
  split
  · refine guarded_bump h ?_
    split
    · exact (by decide)
    · exact (by decide)
  · exact h

theorem guarded_place1 {a s : State} {j : Job} {unit : ℕ} {cand : Option Cand} (h : Guarded a s) :
    Guarded a (State.place1 s j unit cand) := by
  unfold State.place1
  extract_lets +onlyGivenNames s1 _
  have h1 : Guarded a s1 := guarded_countPlaced (guarded_bump h (by decide))
  clear_value s1
  exact guarded_addJob h1

theorem guarded_linkDescriptor {a s : State} {j : Job} {m : ℕ} (h : Guarded a s) :
    Guarded a (State.linkDescriptor s j m) := by
  unfold State.linkDescriptor
  exact guarded_sendLink h

theorem guarded_carry {a s : State} {j : Job} {m : ℕ} (h : Guarded a s) : Guarded a (State.carry s j m) := by
  unfold State.carry
  exact guarded_linkDescriptor (guarded_addJob h)

theorem guarded_takeUp {a s : State} {j : Job} {v : Verdict} (h : Guarded a s) : Guarded a (State.takeUp s j v) := by
  unfold State.takeUp
  dsimp only
  split
  · exact h
  · exact guarded_ringError h
  · exact guarded_reject (guarded_addJob h)
  · exact guarded_place1 h
  · exact guarded_ite (guarded_addJob (guarded_countPlaced (guarded_bump h (by decide)))) (guarded_ite (guarded_carry
        (guarded_countPlaced (guarded_bump h (by decide)))) (guarded_endJob (guarded_addJob (guarded_countPlaced
        (guarded_bump h (by decide))))))

theorem guarded_readHead {a s : State} {r : Machine.Ring} (h : Guarded a s) : Guarded a (State.readHead s r) := by
  unfold State.readHead
  exact guarded_ite (guarded_readSpan h) h

theorem guarded_takeHead {a s : State} {k : ℕ} {r : Machine.Ring} (h : Guarded a s) :
    Guarded a (State.takeHead s k r) := by
  unfold State.takeHead
  extract_lets +onlyGivenNames _ _ _
  refine guarded_ite (guarded_breakRing (guarded_readHead h)) ?_
  extract_lets +onlyGivenNames s4 s5
  have h4 : Guarded a s4 := guarded_readHead h
  clear_value s4
  have h5 : Guarded a s5 := h4
  clear_value s5
  exact guarded_takeUp h5

theorem guarded_drr {a s : State} {c : ℕ} {el : List ℕ} (h : Guarded a s) : Guarded a (State.drr s c el).1 := by
  unfold State.drr
  dsimp only
  split
  · exact h
  · refine guarded_ite_fst ?_ h
    split
    · exact guarded_ite_fst h h
    · exact h

theorem guarded_pick {a s : State} {p : State × Nat} (h : Guarded a s) (e : s.pick = some p) : Guarded a p.1 := by
  unfold State.pick at e
  split at e
  · cases e
    exact h
  · split at e
    · cases e
      exact guarded_drr h
    · cases e

theorem guarded_execTick {a s : State} (h : Guarded a s) : GuardedRes a (execTick s) := by
  have k : Guarded a (if s.rings.any fun e => s.cqFull e.1 e.2 then s.bump (rk .QE_CQ_FULL_CYCLES) else s) :=
    guarded_ite (guarded_bump h (by decide)) h
  unfold execTick
  refine guardedRes_ite (guardedRes_next h) ?_
  dsimp only
  split
  · exact guardedRes_next k
  · rename_i e
    split
    · exact guardedRes_next (guarded_takeHead (guarded_pick k e))
    · exact guardedRes_next (guarded_pick k e)

theorem guarded_readFailed {a s : State} {o : ReadOwner} (h : Guarded a s) : Guarded a (State.readFailed s o) := by
  unfold State.readFailed
  extract_lets +onlyGivenNames s1
  have h1 : Guarded a s1 := guarded_bump h (by decide)
  clear_value s1
  split
  · exact guarded_ite (guarded_breakRing h1) h1
  · exact guarded_whenJob h1 (fun j => guarded_failJob h1)

theorem guarded_execReadCompletion {a s : State} {o : ReadOwner} {ok : Bool} (h : Guarded a s) :
    GuardedRes a (execReadCompletion o ok s) := by
  unfold execReadCompletion
  exact guardedRes_ite (guardedRes_next h) (guardedRes_next (guarded_readFailed h))

theorem guarded_execCompletionTimeout {a s : State} {o : ReadOwner} (h : Guarded a s) :
    GuardedRes a (execCompletionTimeout o s) := by
  unfold execCompletionTimeout
  exact guardedRes_next (guarded_readFailed h)

theorem guarded_runRows {a s : State} {x : ℕ} {t : LoadedTile} {n : ℕ} (h : Guarded a s) :
    Guarded a (State.runRows s x t n) := by
  unfold State.runRows
  extract_lets +onlyGivenNames _ _ s3
  have h3 : Guarded a s3 := guarded_bump h (by decide)
  clear_value s3
  exact guarded_bump (guarded_bump h3 (by decide)) (by decide)

theorem guarded_retire {a s : State} {x : ℕ} (h : Guarded a s) : Guarded a (State.retire s x) := by
  unfold State.retire
  extract_lets +onlyGivenNames _
  split
  · exact h
  · exact guarded_putSets (guarded_runRows h)

theorem guarded_retireOf {a s : State} {x jid q : ℕ} (h : Guarded a s) : Guarded a (State.retireOf s x jid q) := by
  unfold State.retireOf
  split
  · exact guarded_ite (guarded_retire h) h
  · exact h

theorem guarded_readBooks {a s : State} {j : Job} {at' : List (Bool × ℕ)} (h : Guarded a s) :
    Guarded a (State.readBooks s j at').1 := by
  unfold State.readBooks
  split
  · rename_i e3
    exact Guarded.of_eq e3 (guarded_readSpans h)
  · rename_i e2
    exact Guarded.of_eq e2 (guarded_readSpans h)

theorem guarded_countDense {a s : State} {x : ℕ} {declined busy thin : Bool} (h : Guarded a s) :
    Guarded a (State.countDense s x declined busy thin) := by
  unfold State.countDense
  dsimp only
  split
  · exact h
  · exact guarded_ite (guarded_bump (guarded_ite (guarded_bump (guarded_ite (guarded_bump h (by decide)) h) (by decide))
        (guarded_ite (guarded_bump h (by decide)) h)) (by decide)) (guarded_ite (guarded_bump (guarded_ite (guarded_bump h
        (by decide)) h) (by decide)) (guarded_ite (guarded_bump h (by decide)) h))

theorem guarded_modJob {a s : State} {jid : ℕ} {f : Job → Job} (h : Guarded a s) : Guarded a (State.modJob s jid f) := by
  unfold State.modJob
  exact guarded_whenJob h (fun j => guarded_putJob h)

theorem guarded_addSums {a s : State} {j : Job} {x n : ℕ} {xs : List (ℕ × ℕ × List Machine.Sum)} (h : Guarded a s) :
    Guarded a (State.addSums s j x n xs).1 := by
  unfold State.addSums
  dsimp only
  split
  · exact h
  · exact guarded_modJob (guarded_ite (guarded_bump (guarded_foldl ((guarded_readAcc h).upd) (fun s x h => h)) (by decide))
        (guarded_foldl ((guarded_readAcc h).upd) (fun s x h => h)))

theorem guarded_addTile {a s : State} {j : Job} {x : ℕ} {l : TileLoad} {cols : List Column} (h : Guarded a s) :
    Guarded a (State.addTile s j x l cols).1 := by
  unfold State.addTile
  dsimp only
  split
  · rename_i e3
    exact Guarded.of_eq e3 (guarded_readSpans h)
  · rename_i e2
    exact guarded_addSums (guarded_modJob (Guarded.of_eq e2 (guarded_readSpans h)))

theorem guarded_countSpan {a s : State} {e : ℕ} {j : Job} {sp : EngSpan} {rows : List (List Bool)} (h : Guarded a s) :
    Guarded a (State.countSpan s e j sp rows) := by
  unfold State.countSpan
  extract_lets +onlyGivenNames _ _ _ _ _ _ _ s8 s9
  have h8 : Guarded a s8 := guarded_setReg h (by decide)
  clear_value s8
  have h9 : Guarded a s9 := guarded_setFld h8 (by decide)
  clear_value s9
  exact guarded_bump (guarded_bump (guarded_bump (guarded_bump h9 (by decide)) (by decide)) (by decide)) (by decide)

theorem guarded_addSpan {a s : State} {j : Job} {e : ℕ} {sp : EngSpan} (h : Guarded a s) :
    Guarded a (State.addSpan s j e sp).1 := by
  unfold State.addSpan
  dsimp only
  split
  · exact h
  · split
    · rename_i e6
      exact Guarded.of_eq e6 (guarded_readSpans h)
    · rename_i e5
      exact guarded_addSums (guarded_modJob (guarded_countSpan (Guarded.of_eq e5 (guarded_readSpans h))))

theorem guarded_pushSpans {a s : State} {x : ℕ} {radio : Bool} {ls : List (List TileLoad)} (h : Guarded a s) :
    Guarded a (State.pushSpans s x radio ls) := by
  unfold State.pushSpans
  extract_lets +onlyGivenNames _
  refine guarded_ite h (guarded_ite (guarded_putSets h) ?_)
  extract_lets +onlyGivenNames _ _
  exact guarded_putSets h

theorem guarded_queueNext {a s : State} {x : ℕ} (h : Guarded a s) : Guarded a (State.queueNext s x) := by
  unfold State.queueNext
  dsimp only
  split
  · exact h
  · exact guarded_ite h (guarded_foldl (guarded_putJob h) (fun s x h => guarded_pushSpans h))

theorem guarded_feedSpan {a s : State} {x : ℕ} {sp : List TileLoad} {rest : List (List TileLoad)} (h : Guarded a s) :
    Guarded a (State.feedSpan s x sp rest).1 := by
  unfold State.feedSpan
  dsimp only
  split
  · exact guarded_putSets h
  · refine guarded_ite_fst (guarded_putSets h) ?_
    split
    · rename_i e5
      exact guarded_failJob (Guarded.of_eq e5 (guarded_readSpans h))
    · rename_i e4
      split
      · exact guarded_failJob (Guarded.of_eq e4 (guarded_readSpans h))
      · exact guarded_putSets (guarded_modJob (guarded_foldl (Guarded.of_eq e4 (guarded_readSpans h)) (fun s x h =>
            guarded_countDense h)))
      · exact Guarded.of_eq e4 (guarded_readSpans h)
      · exact guarded_ite_fst (Guarded.of_eq e4 (guarded_readSpans h)) (guarded_putStores (guarded_putSets (Guarded.of_eq e4
            (guarded_readSpans h))))

theorem guarded_feed {a s : State} {x n : Nat} (h : Guarded a s) : Guarded a (s.feed x n) := by
  induction n generalizing s with
  | zero => exact h
  | succ n ih =>
    have k : Guarded a (s.queueNext x) := guarded_queueNext h
    unfold State.feed
    refine guarded_ite k (guarded_ite (ih (guarded_putSets k)) (guarded_ite k (guarded_ite (guarded_putSets k) ?_)))
    split
    · exact guarded_ite (ih k) k
    · exact guarded_ite (ih (guarded_feedSpan k)) (guarded_feedSpan k)

theorem guarded_openTile {a s : State} {j : Job} {q : ℕ} (h : Guarded a s) : Guarded a (State.openTile s j q) := by
  unfold State.openTile
  extract_lets +onlyGivenNames _
  exact guarded_foldl h (fun s x h => guarded_openOn h)

theorem guarded_joinGroup {a s : State} {j : Job} (h : Guarded a s) : Guarded a (State.joinGroup s j).1 := by
  unfold State.joinGroup
  refine guarded_scan h (fun r x h => ?_)
  dsimp only
  split
  · exact h
  · exact h

theorem guarded_feedAll {a s : State} {j : Job} (h : Guarded a s) : Guarded a (State.feedAll s j) := by
  unfold State.feedAll
  exact guarded_foldl h (fun s x h => guarded_feed h)

theorem guarded_afterSwap {a s : State} {jid : ℕ} (h : Guarded a s) : Guarded a (State.afterSwap s jid) := by
  unfold State.afterSwap
  exact guarded_whenJob h (fun j => guarded_endJob (guarded_foldl h (fun s x h => guarded_spanOver (guarded_retireOf h))))

theorem guarded_holdReads {a s : State} {j : Job} (h : Guarded a s) : Guarded a (State.holdReads s j) := by
  unfold State.holdReads
  exact guarded_foldl h (fun s x h => h)

theorem guarded_startMatmul {a s : State} {j : Job} (h : Guarded a s) : Guarded a (State.startMatmul s j) := by
  unfold State.startMatmul
  dsimp only
  split
  · rename_i e4
    exact guarded_failJob (Guarded.of_eq e4 (guarded_readBooks h))
  · rename_i e3
    exact guarded_ite (guarded_endJob (guarded_holdReads (Guarded.of_eq e3 (guarded_readBooks h)))) (guarded_afterSwap
        (guarded_feedAll (guarded_putJob (Guarded.of_eq e3 (guarded_readBooks h)))))

theorem guarded_matmulOp : matmulOp.Guarded where
  check h := h
  last h := h
  opens h := guarded_ite_fst (guarded_foldl h fun _ _ h => guarded_openTile h) (guarded_joinGroup h)
  run h := guarded_startMatmul h

theorem guarded_execMatmul {a s : State} {jid stalls : Nat} (h : Guarded a s) : GuardedRes a (execMatmul jid stalls s) :=
  guardedRes_next (guarded_issueRow h guarded_matmulOp)

theorem guarded_offerSample {a s : State} {x : HaloSample} (h : Guarded a s) : Guarded a (State.offerSample s x).1 := by
  unfold State.offerSample
  dsimp only
  exact guarded_ite_fst (guarded_bump h (by decide)) (guarded_ite_fst (guarded_bump h (by decide)) (guarded_setReg h (by
      decide)))

theorem guarded_joinSample {a s : State} {j : Job} {m t : ℕ} {cs : List (ℕ × ℕ × Bool)} (h : Guarded a s) :
    Guarded a (State.joinSample s j m t cs) := by
  unfold State.joinSample
  exact h

theorem guarded_sampleSegs {a s : State} {j : Job} {n n0 n1 : ℕ} {segs : List (ℕ × ℕ × List (ℕ × ℕ × Bool))}
    (h : Guarded a s) : Guarded a (State.sampleSegs s j n n0 n1 segs).1 := by
  unfold State.sampleSegs
  split
  · exact h
  · refine guarded_scan h fun r g h => guarded_scan_eq h fun r t q h e => ?_
    dsimp only at e
    split at e
    · subst e
      exact h
    · split at e
      · subst e
        exact guarded_ite (guarded_joinSample h) h
      · subst e
        exact guarded_offerSample h

theorem guarded_drainOut {a s : State} {j : Job} {o : Out} {t : TileIn} (h : Guarded a s) :
    Guarded a (State.drainOut s j o t).1 := by
  unfold State.drainOut
  dsimp only
  exact guarded_ite_fst h (guarded_sampleSegs (guarded_ite (guarded_bump (guarded_ite (guarded_bump (guarded_writeAll h) (by
      decide)) (guarded_writeAll h)) (by decide)) (guarded_ite (guarded_bump (guarded_writeAll h) (by decide))
      (guarded_writeAll h))))

theorem guarded_drainParts {a s : State} {j : Job} {gid : ℕ} {ps : List Machine.Part} {merge : Bool} {o : Out} {t : Rect}
    {fill : Bool} (h : Guarded a s) :
    Guarded a (State.drainParts s j gid ps merge o t fill).1 := by
  unfold State.drainParts
  dsimp only
  split
  · exact h
  · exact h
  · split
    · rename_i e7
      exact Guarded.of_eq e7 (guarded_prmRead h)
    · rename_i e6
      exact guarded_drainOut (guarded_readAcc (Guarded.of_eq e6 (guarded_prmRead h)))

theorem guarded_emptyAll {a s : State} {cs : List (ℕ × ℕ)} (h : Guarded a s) : Guarded a (State.emptyAll s cs) := by
  unfold State.emptyAll
  exact guarded_foldl h (fun s x h => guarded_slotEmpty h)

theorem guarded_drainTileStep {a s : State} {j : Job} {q : ℕ} (h : Guarded a s) :
    Guarded a (State.drainTileStep s j q) := by
  unfold State.drainTileStep
  extract_lets +onlyGivenNames _ _ s3
  have h3 : Guarded a s3 := guarded_foldl h (fun s x h => guarded_spanOver (guarded_retireOf h))
  clear_value s3
  dsimp only
  split
  · rename_i e4
    exact guarded_failJob (Guarded.of_eq e4 (guarded_drainParts h3))
  · rename_i e3
    exact guarded_ite (guarded_feedAll (guarded_ite (guarded_openTile (guarded_putJob (guarded_foldl (Guarded.of_eq e3
        (guarded_drainParts h3)) (fun s x h => guarded_shut h)))) (guarded_putJob (guarded_foldl (Guarded.of_eq e3
        (guarded_drainParts h3)) (fun s x h => guarded_shut h))))) (guarded_succeed (guarded_emptyAll (guarded_foldl
        (Guarded.of_eq e3 (guarded_drainParts h3)) (fun s x h => guarded_shut h))))

theorem guarded_drainStep {a s : State} {j : Job} (h : Guarded a s) : Guarded a (State.drainStep s j) := by
  unfold State.drainStep
  exact guarded_drainTileStep h

theorem guarded_tryDrain {a s : State} {j : Job} (h : Guarded a s) : Guarded a (State.tryDrain s j) := by
  unfold State.tryDrain
  split
  · rename_i e4
    exact guarded_waitToken (Guarded.of_eq e4 (guarded_takeTokens h))
  · rename_i e3
    exact guarded_drainStep (Guarded.of_eq e3 (guarded_takeTokens h))

theorem guarded_drainJet {a s : State} {j : Job} {x : ℕ} (h : Guarded a s) : Guarded a (State.drainJet s j x).1 := by
  unfold State.drainJet
  dsimp only
  split
  · exact h
  · exact guarded_drainParts h

theorem guarded_drainJets {a s : State} {j : Job} {xs : List Nat} (h : Guarded a s) : Guarded a (s.drainJets j xs).1 := by
  induction xs generalizing s j with
  | nil => exact h
  | cons x r ih =>
    unfold State.drainJets
    split
    · rename_i e
      exact Guarded.of_eq e (guarded_drainJet h)
    · rename_i e
      exact ih (Guarded.of_eq e (guarded_drainJet h))

theorem guarded_runDrain {a s : State} {j : Job} (h : Guarded a s) : Guarded a (State.runDrain s j) := by
  unfold State.runDrain
  extract_lets +onlyGivenNames _ _ _ s4
  have h4 : Guarded a s4.1 := by
    unfold s4
    split
    · exact h
    · exact guarded_ite_fst (guarded_drainParts h) (guarded_drainJets h)
  clear_value s4
  split
  · exact guarded_failJob h4
  · exact guarded_succeed h4

theorem guarded_drainOp : drainOp.Guarded where
  check h := h
  last h := h
  opens h := h
  run h := guarded_runDrain h

theorem guarded_execDrain {a s : State} {run : IssueRun} (h : Guarded a s) : GuardedRes a (execDrain run s) :=
  guardedRes_next (guarded_issueRow h guarded_drainOp)

theorem guarded_pushTiles {a s : State} {j : Job} {ts : List (ℕ × List TileLoad)} (h : Guarded a s) :
    Guarded a (State.pushTiles s j ts) := by
  unfold State.pushTiles
  extract_lets +onlyGivenNames _
  exact guarded_feedAll (guarded_foldl h (fun s x h => guarded_pushSpans h))

theorem guarded_takeTerms {a s : State} {j : Job} {n : ℕ} (h : Guarded a s) : Guarded a (State.takeTerms s j n).1 := by
  unfold State.takeTerms
  exact guarded_foldl h (fun s x h => h)

theorem guarded_shutAll {a s : State} {j : Job} (h : Guarded a s) : Guarded a (State.shutAll s j) := by
  unfold State.shutAll
  exact guarded_foldl h (fun s x h => guarded_shut h)

theorem guarded_barrierOp : barrierOp.Guarded where
  check h := h
  last h := h
  opens h := h
  run h := guarded_putJob h

theorem guarded_execBarrier {a s : State} {jid : Nat} (h : Guarded a s) : GuardedRes a (execBarrier jid s) := by
  unfold execBarrier
  exact guardedRes_next (guarded_whenJob h fun j =>
    guarded_ite (guarded_issueAs h guarded_barrierOp) (guarded_ite (guarded_linkDescriptor (guarded_putJob h))
        (guarded_endJob h)))

theorem guarded_joinRound {a s : State} {j : Job} {r : Round} (h : Guarded a s) : Guarded a (s.joinRound j r) := by
  unfold State.joinRound
  exact guarded_ite (guarded_foldl h fun _ _ h => guarded_whenJob h fun _ => guarded_succeed h) h

theorem guarded_execBarrierArrival {a s : State} {jid : ℕ} (h : Guarded a s) :
    GuardedRes a (execBarrierArrival jid s) := by
  unfold execBarrierArrival
  refine guardedRes_next (guarded_whenJob h (fun j => ?_))
  split
  · exact guarded_joinRound h
  · exact guarded_ite (guarded_joinRound h) (guarded_putJob h)

theorem guarded_execBarrierTimeout {a s : State} {jid : ℕ} (h : Guarded a s) :
    GuardedRes a (execBarrierTimeout jid s) := by
  unfold execBarrierTimeout
  exact guardedRes_next (guarded_whenJob h (fun j => guarded_failJob h))

theorem guarded_emuStep9 {a s : State} {j : Job} (h : Guarded a s) : Guarded a (State.emuStep9 s j).1 := by
  unfold State.emuStep9
  split
  · exact h
  · exact h

theorem guarded_emuWrite {a s : State} {j : Job} {x : ℕ} {ws : List (ℕ × ℕ × List Byte)} {elements zeros sat : ℕ}
    (h : Guarded a s) :
    Guarded a (State.emuWrite s j x ws elements zeros sat).1 := by
  unfold State.emuWrite
  refine guarded_ite_fst h ?_
  dsimp only
  exact guarded_writeAll h

theorem guarded_emuDone {a s : State} {j : Job} {ws : List (ℕ × ℕ × List Byte)} {elements zeros sat : ℕ} (h :
    Guarded a s) :
    Guarded a (State.emuDone s j ws elements zeros sat) := by
  unfold State.emuDone
  split
  · rename_i e4
    exact guarded_failJob (Guarded.of_eq e4 (guarded_emuWrite h))
  · rename_i e3
    exact guarded_succeed (Guarded.of_eq e3 (guarded_emuWrite h))

theorem guarded_dotTile {a s : State} {j : Job} {q x : ℕ} (h : Guarded a s) : Guarded a (State.dotTile s j q x).1 := by
  unfold State.dotTile
  dsimp only
  split
  · rename_i e3
    exact Guarded.of_eq e3 (guarded_readSpans h)
  · rename_i e2
    exact guarded_emuWrite (Guarded.of_eq e2 (guarded_readSpans h))

theorem guarded_startDot {a s : State} {j : Job} (h : Guarded a s) : Guarded a (State.startDot s j) := by
  unfold State.startDot
  extract_lets +onlyGivenNames _ _ _ _
  exact guarded_pushTiles (guarded_putJob h)

theorem guarded_runStream {a s : State} {j : Job} (h : Guarded a s) : Guarded a (State.runStream s j) := by
  unfold State.runStream
  extract_lets +onlyGivenNames _ _ _
  dsimp only
  split
  · rename_i e3
    exact guarded_failJob (Guarded.of_eq e3 (guarded_readSpans h))
  · rename_i e2
    exact guarded_emuDone (Guarded.of_eq e2 (guarded_readSpans h))

theorem guarded_dotOp : dotOp.Guarded where
  check h := guarded_emuStep9 h
  last h := h
  opens h := h
  run h := guarded_startDot h

theorem guarded_execDot {a s : State} {run : IssueRun} (h : Guarded a s) : GuardedRes a (execDot run s) :=
  guardedRes_next (guarded_issueRow h guarded_dotOp)

theorem guarded_streamOp : streamOp.Guarded where
  check h := guarded_emuStep9 h
  last h := h
  opens h := h
  run h := guarded_runStream h

theorem guarded_execToStream {a s : State} {run : IssueRun} (h : Guarded a s) : GuardedRes a (execToStream run s) :=
  guardedRes_next (guarded_issueRow h guarded_streamOp)

theorem guarded_execFromStream {a s : State} {run : IssueRun} (h : Guarded a s) : GuardedRes a (execFromStream run s) :=
  guardedRes_next (guarded_issueRow h guarded_streamOp)

theorem guarded_nodeStep9 {a s : State} {j : Job} (h : Guarded a s) : Guarded a (State.nodeStep9 s j).1 := by
  unfold State.nodeStep9
  split
  · exact h
  · exact h

theorem guarded_nodeTile {a s : State} {j : Job} {q : ℕ} (h : Guarded a s) : Guarded a (State.nodeTile s j q).1 := by
  unfold State.nodeTile
  dsimp only
  exact (guarded_bump (guarded_bump (guarded_bump h (by decide)) (by decide)) (by decide)).upd

theorem guarded_openNode {a s : State} {j : Job} {q : ℕ} (h : Guarded a s) : Guarded a (State.openNode s j q) := by
  unfold State.openNode
  exact guarded_openOn h

theorem guarded_nodeStep {a s : State} {j : Job} (h : Guarded a s) : Guarded a (State.nodeStep s j) := by
  unfold State.nodeStep
  extract_lets +onlyGivenNames _
  dsimp only
  split
  · rename_i e3
    exact guarded_failJob (Guarded.of_eq e3 (guarded_readSpans h))
  · rename_i e2
    exact guarded_ite (guarded_failJob (guarded_nodeTile (Guarded.of_eq e2 (guarded_readSpans h)))) (guarded_ite
        (guarded_putJob (guarded_ite (guarded_openNode (guarded_shut (guarded_writeAll (guarded_nodeTile (Guarded.of_eq e2
        (guarded_readSpans h)))))) (guarded_shut (guarded_writeAll (guarded_nodeTile (Guarded.of_eq e2 (guarded_readSpans
        h))))))) (guarded_succeed (guarded_emptyAll (guarded_shut (guarded_writeAll (guarded_nodeTile (Guarded.of_eq e2
        (guarded_readSpans h))))))))

theorem guarded_nodeOp : nodeOp.Guarded where
  check h := guarded_nodeStep9 h
  last h := h
  opens h := guarded_foldl h fun _ _ h => guarded_openNode h
  run h := guarded_putJob h

theorem guarded_execChecknode {a s : State} {run : IssueRun} (h : Guarded a s) : GuardedRes a (execChecknode run s) :=
  guardedRes_next (guarded_issueRow h guarded_nodeOp)

theorem guarded_convTile {a s : State} {j : Job} {q : ℕ} (h : Guarded a s) : Guarded a (State.convTile s j q).1 := by
  unfold State.convTile
  dsimp only
  split
  · rename_i e3
    exact Guarded.of_eq e3 (guarded_readSpans h)
  · rename_i e2
    split
    · exact Guarded.of_eq e2 (guarded_readSpans h)
    · split
      · rename_i e6
        exact Guarded.of_eq e6 (guarded_readSpans (Guarded.of_eq e2 (guarded_readSpans h)))
      · rename_i e5
        split
        · rename_i e8
          exact Guarded.of_eq e8 (guarded_prmRead (Guarded.of_eq e5 (guarded_readSpans (Guarded.of_eq e2 (guarded_readSpans
              h)))))
        · rename_i e7
          exact guarded_drainOut (Guarded.of_eq e7 (guarded_prmRead (Guarded.of_eq e5 (guarded_readSpans (Guarded.of_eq e2
              (guarded_readSpans h))))))

theorem guarded_convTiles {a s : State} {j : Job} {ts : List Nat} (h : Guarded a s) : Guarded a (s.convTiles j ts) := by
  induction ts generalizing s j with
  | nil => exact guarded_succeed h
  | cons t r ih =>
    unfold State.convTiles
    split
    · rename_i e
      exact guarded_failJob (Guarded.of_eq e (guarded_convTile h))
    · rename_i e
      exact ih (Guarded.of_eq e (guarded_convTile h))

theorem guarded_convertOp : convertOp.Guarded where
  check h := h
  last h := h
  opens h := h
  run h := guarded_convTiles h

theorem guarded_execConvert {a s : State} {run : IssueRun} (h : Guarded a s) : GuardedRes a (execConvert run s) :=
  guardedRes_next (guarded_issueRow h guarded_convertOp)

theorem guarded_runGather {a s : State} {j : Job} (h : Guarded a s) : Guarded a (State.runGather s j) := by
  unfold State.runGather
  dsimp only
  split
  · rename_i e3
    exact guarded_failJob (Guarded.of_eq e3 (guarded_readSpan h))
  · rename_i e2
    split
    · rename_i e5
      exact guarded_failJob (Guarded.of_eq e5 (guarded_readSpans (Guarded.of_eq e2 (guarded_readSpan h))))
    · rename_i e4
      exact guarded_ite (guarded_failJob (Guarded.of_eq e4 (guarded_readSpans (Guarded.of_eq e2 (guarded_readSpan h)))))
          (guarded_succeed (guarded_writeAll (Guarded.of_eq e4 (guarded_readSpans (Guarded.of_eq e2 (guarded_readSpan h))))))

theorem guarded_gatherOp : gatherOp.Guarded where
  check h := h
  last h := h
  opens h := h
  run h := guarded_runGather h

theorem guarded_execGatherRows {a s : State} {run : IssueRun} (h : Guarded a s) : GuardedRes a (execGatherRows run s) :=
  guardedRes_next (guarded_issueRow h guarded_gatherOp)

theorem guarded_execGatherColumns {a s : State} {run : IssueRun} (h : Guarded a s) : GuardedRes a (execGatherColumns run s) :=
  guardedRes_next (guarded_issueRow h guarded_gatherOp)

theorem guarded_fusedCheck {a s : State} {j : Job} (h : Guarded a s) : Guarded a (State.fusedCheck s j).1 := by
  unfold State.fusedCheck
  split
  · exact h
  · exact h

theorem guarded_placeSlots {a s : State} {q half base n : ℕ} (h : Guarded a s) :
    Guarded a (State.placeSlots s q half base n) := by
  unfold State.placeSlots
  refine guarded_foldl h (fun s x h => ?_)
  extract_lets +onlyGivenNames _
  exact guarded_setFld (guarded_setFld h (by decide)) (by decide)

theorem guarded_placeP {a s : State} {q half R : ℕ} {alone : Bool} (h : Guarded a s) :
    Guarded a (State.placeP s q half R alone) := by
  unfold State.placeP
  extract_lets +onlyGivenNames s1
  have h1 : Guarded a s1 := guarded_placeSlots h
  clear_value s1
  exact guarded_ite (guarded_placeSlots h1) h1

theorem guarded_formP {a s : State} {j : Job} {x i : ℕ} {f : FusedJet} (h : Guarded a s) :
    Guarded a (State.formP s j x i f).1 := by
  unfold State.formP
  dsimp only
  exact guarded_writeAll h

theorem guarded_putFused {a s : State} {j : Job} {x : ℕ} {f : FusedJet} (h : Guarded a s) :
    Guarded a (State.putFused s j x f) := by
  unfold State.putFused
  extract_lets +onlyGivenNames s1
  have h1 : Guarded a s1 := h
  clear_value s1
  exact guarded_modJob h1

theorem guarded_runKeys {a s : State} {j : Job} {x h' : ℕ} {l : TileLoad} {cols : List Column} (h : Guarded a s) :
    Guarded a (State.runKeys s j x h' l cols).1 := by
  unfold State.runKeys
  dsimp only
  split
  · rename_i e3
    exact Guarded.of_eq e3 (guarded_readSpans h)
  · rename_i e2
    exact guarded_putFused (guarded_ite_fst (guarded_formP (Guarded.of_eq e2 (guarded_readSpans h))) (Guarded.of_eq e2
        (guarded_readSpans h)))

theorem guarded_runValues {a s : State} {j : Job} {x : ℕ} {l : TileLoad} {cols : List Column} (h : Guarded a s) :
    Guarded a (State.runValues s j x l cols).1 := by
  unfold State.runValues
  dsimp only
  split
  · rename_i e3
    exact Guarded.of_eq e3 (guarded_readSpans (guarded_ite_fst (guarded_formP h) h))
  · rename_i e2
    exact guarded_putFused (Guarded.of_eq e2 (guarded_readSpans (guarded_ite_fst (guarded_formP h) h)))

theorem guarded_drainRows {a s : State} {j : Job} {softmax : Bool} {stateDst : ℕ} {rows : List RowState} (h : Guarded a s) :
    Guarded a (State.drainRows s j softmax stateDst rows).1 := by
  unfold State.drainRows
  dsimp only
  refine guarded_ite_fst ?_ (guarded_ite_fst h (guarded_writeAll h))
  split
  · rename_i e3
    exact Guarded.of_eq e3 (guarded_prmRead h)
  · rename_i e2
    exact guarded_drainOut (Guarded.of_eq e2 (guarded_prmRead h))

theorem guarded_startFused {a s : State} {j : Job} (h : Guarded a s) : Guarded a (State.startFused s j) := by
  unfold State.startFused
  extract_lets +onlyGivenNames _
  dsimp only
  split
  · rename_i e4
    exact guarded_failJob (Guarded.of_eq e4 (guarded_readBooks h))
  · rename_i e3
    split
    · rename_i e6
      exact guarded_failJob (Guarded.of_eq e6 (guarded_readSpans (Guarded.of_eq e3 (guarded_readBooks h))))
    · rename_i e5
      exact guarded_pushTiles (guarded_putJob (guarded_placeP (Guarded.of_eq e5 (guarded_readSpans (Guarded.of_eq e3
          (guarded_readBooks h))))))

theorem guarded_fusedStep {a s : State} {j : Job} (h : Guarded a s) : Guarded a (State.fusedStep s j) := by
  unfold State.fusedStep
  extract_lets +onlyGivenNames _ _ _ _ _ _ _ _ _ s10
  have h10 : Guarded a s10 := guarded_foldl h (fun s x h => guarded_retireOf h)
  clear_value s10
  split
  · rename_i e4
    exact guarded_failJob (Guarded.of_eq e4 (guarded_drainRows (guarded_takeTerms h10)))
  · rename_i e3
    exact guarded_succeed (guarded_emptyAll (guarded_shutAll (Guarded.of_eq e3 (guarded_drainRows (guarded_takeTerms h10)))))

theorem guarded_openFused {a s : State} {j : Job} (h : Guarded a s) : Guarded a (State.openFused s j).1 := by
  unfold State.openFused
  exact guarded_foldl h (fun s x h => guarded_openOn h)

theorem guarded_fusedOp : fusedOp.Guarded where
  check h := guarded_fusedCheck h
  last h := h
  opens h := guarded_openFused h
  run h := guarded_startFused h

theorem guarded_execFusedPair {a s : State} {run : IssueRun} (h : Guarded a s) : GuardedRes a (execFusedPair run s) :=
  guardedRes_next (guarded_issueRow h guarded_fusedOp)

theorem guarded_reduceStep9 {a s : State} {j : Job} (h : Guarded a s) : Guarded a (State.reduceStep9 s j).1 := by
  unfold State.reduceStep9
  split
  · exact h
  · exact h

theorem guarded_reduceLast {a s : State} {j : Job} (h : Guarded a s) : Guarded a (State.reduceLast s j).1 := by
  unfold State.reduceLast
  refine guarded_ite_fst ?_ h
  split
  · rename_i e3
    exact Guarded.of_eq e3 (guarded_readSpans h)
  · rename_i e2
    exact guarded_ite_fst (Guarded.of_eq e2 (guarded_readSpans h)) (Guarded.of_eq e2 (guarded_readSpans h))

theorem guarded_runReduce {a s : State} {j : Job} (h : Guarded a s) : Guarded a (State.runReduce s j) := by
  unfold State.runReduce
  dsimp only
  split
  · rename_i e3
    exact guarded_failJob (Guarded.of_eq e3 (guarded_readSpans h))
  · rename_i e2
    split
    · rename_i e6
      exact guarded_failJob (Guarded.of_eq e6 (guarded_drainRows (Guarded.of_eq e2 (guarded_readSpans h))))
    · rename_i e5
      exact guarded_succeed (Guarded.of_eq e5 (guarded_drainRows (Guarded.of_eq e2 (guarded_readSpans h))))

theorem guarded_reduceOp : reduceOp.Guarded where
  check h := guarded_reduceStep9 h
  last h := guarded_reduceLast h
  opens h := h
  run h := guarded_runReduce h

theorem guarded_execReduce {a s : State} {run : IssueRun} (h : Guarded a s) : GuardedRes a (execReduce run s) :=
  guardedRes_next (guarded_issueRow h guarded_reduceOp)

theorem guarded_reshardStep9 {a s : State} {j : Job} (h : Guarded a s) : Guarded a (State.reshardStep9 s j).1 := by
  unfold State.reshardStep9
  split
  · exact h
  · split
    · rename_i e4
      exact Guarded.of_eq e4 (guarded_readSpan h)
    · rename_i e3
      exact Guarded.of_eq e3 (guarded_readSpan h)

theorem guarded_runEntries {a s : State} {j : Job} {es : List ReEntry} (h : Guarded a s) : Guarded a (s.runEntries j es) := by
  induction es generalizing s with
  | nil => exact guarded_succeed h
  | cons x r ih =>
    unfold State.runEntries
    dsimp only
    split
    · rename_i e
      exact guarded_failJob (Guarded.of_eq e (guarded_readSpans h))
    · rename_i e
      have k := Guarded.of_eq e (guarded_readSpans h)
      exact guarded_ite (guarded_failJob k) (ih (guarded_writeAll k))

theorem guarded_reshardOp {s : State} : (reshardOp s).Guarded where
  check h := guarded_reshardStep9 h
  last h := h
  opens h := h
  run h := guarded_runEntries h

theorem guarded_execReshard {a s : State} {jid : Nat} (h : Guarded a s) : GuardedRes a (execReshard jid s) :=
  guardedRes_next (guarded_issueRow h guarded_reshardOp)

theorem guarded_sampleRows {a s : State} {j : Job} {exact dropped : Nat} {n : RegName} {picked : List Nat} (h : Guarded a s)
    (hn : n ≠ .SC_STATUS) : Guarded a (s.sampleRows j exact dropped n picked).1 := by
  unfold State.sampleRows
  split
  · exact h
  · refine guarded_scan_eq h fun r m q h e => ?_
    split at e
    · subst e
      exact h
    · subst e
      dsimp only
      exact guarded_ite (guarded_bump (guarded_offerSample h) hn) (guarded_offerSample h)

theorem guarded_openAll {a s : State} {j : Job} (h : Guarded a s) : Guarded a (State.openAll s j).1 := by
  unfold State.openAll
  exact guarded_foldl h (fun s x h => guarded_openOn h)

theorem guarded_forecastStep9 {a s : State} {j : Job} (h : Guarded a s) : Guarded a (State.forecastStep9 s j).1 := by
  unfold State.forecastStep9
  dsimp only
  split
  · exact h
  · exact h

theorem guarded_startForecast {a s : State} {j : Job} (h : Guarded a s) : Guarded a (State.startForecast s j) := by
  unfold State.startForecast
  extract_lets +onlyGivenNames _ _ _ _ _ _
  exact guarded_pushTiles (guarded_putJob h)

theorem guarded_selected {a s : State} {j : Job} {ws : List (Nat × Nat × List Byte)} {entries : List (Nat × Nat)} {bad : Bool}
    {flushed exact tracker : Nat} {n : RegName} {ix : List Nat} (h : Guarded a s) (hn : n ≠ .SC_STATUS) :
    Guarded a (s.selected j ws entries bad flushed exact tracker n ix) := by
  have k : Guarded a ((unitJets j.unit).foldl (fun s x => s.retireOf x j.jid 0) s) :=
    guarded_foldl h fun _ _ h => guarded_retireOf h
  unfold State.selected
  exact guarded_ite (guarded_failJob h) (guarded_succeed (guarded_emptyAll (guarded_sampleRows
    (guarded_shutAll (guarded_writeAll (guarded_takeTerms k))) hn)))

theorem guarded_forecastStep {a s : State} {j : Job} (h : Guarded a s) : Guarded a (State.forecastStep s j) := by
  unfold State.forecastStep
  extract_lets +onlyGivenNames _ _
  dsimp only
  split
  · rename_i e3
    exact guarded_failJob (Guarded.of_eq e3 (guarded_readSpans h))
  · rename_i e2
    exact guarded_selected (Guarded.of_eq e2 (guarded_readSpans h)) (by decide)

theorem guarded_forecastOp : forecastOp.Guarded where
  check h := guarded_forecastStep9 h
  last h := h
  opens h := guarded_openAll h
  run h := guarded_startForecast h

theorem guarded_execForecast {a s : State} {run : IssueRun} (h : Guarded a s) : GuardedRes a (execForecast run s) :=
  guardedRes_next (guarded_issueRow h guarded_forecastOp)

theorem guarded_hazeStep9 {a s : State} {j : Job} (h : Guarded a s) : Guarded a (State.hazeStep9 s j).1 := by
  unfold State.hazeStep9
  split
  · exact h
  · exact h

theorem guarded_startHaze {a s : State} {j : Job} (h : Guarded a s) : Guarded a (State.startHaze s j) := by
  unfold State.startHaze
  extract_lets +onlyGivenNames _ _ _
  exact guarded_pushTiles (guarded_putJob h)

theorem guarded_hazeStep {a s : State} {j : Job} (h : Guarded a s) : Guarded a (State.hazeStep s j) := by
  unfold State.hazeStep
  extract_lets +onlyGivenNames _ _ _ _
  dsimp only
  split
  · rename_i e3
    exact guarded_failJob (Guarded.of_eq e3 (guarded_readSpans h))
  · rename_i e2
    exact guarded_selected (Guarded.of_eq e2 (guarded_readSpans h)) (by decide)

theorem guarded_hazeOp : hazeOp.Guarded where
  check h := guarded_hazeStep9 h
  last h := h
  opens h := guarded_openAll h
  run h := guarded_startHaze h

theorem guarded_execHazeSelect {a s : State} {run : IssueRun} (h : Guarded a s) : GuardedRes a (execHazeSelect run s) :=
  guardedRes_next (guarded_issueRow h guarded_hazeOp)

theorem guarded_updStep9 {a s : State} {j : Job} (h : Guarded a s) : Guarded a (State.updStep9 s j).1 := by
  unfold State.updStep9
  dsimp only
  split
  · exact h
  · refine guarded_ite_fst h ?_
    split
    · rename_i e4
      exact Guarded.of_eq e4 (guarded_readSpans h)
    · rename_i e3
      split
      · exact Guarded.of_eq e3 (guarded_readSpans h)
      · exact Guarded.of_eq e3 (guarded_readSpans h)

theorem guarded_runUpdate {a s : State} {j : Job} (h : Guarded a s) : Guarded a (State.runUpdate s j) := by
  unfold State.runUpdate
  dsimp only
  split
  · rename_i e3
    exact guarded_failJob (Guarded.of_eq e3 (guarded_readSpans h))
  · rename_i e2
    exact guarded_ite (guarded_failJob (Guarded.of_eq e2 (guarded_readSpans h))) (guarded_succeed (guarded_writeAll
        (Guarded.of_eq e2 (guarded_readSpans h))))

theorem guarded_updateOp : updateOp.Guarded where
  check h := guarded_updStep9 h
  last h := h
  opens h := h
  run h := guarded_runUpdate h

theorem guarded_execUpdate {a s : State} {run : IssueRun} (h : Guarded a s) : GuardedRes a (execUpdate run s) :=
  guardedRes_next (guarded_issueRow h guarded_updateOp)

theorem Op.guarded_ite {x y : Op} {c : Prop} [Decidable c] (h : x.Guarded) (k : y.Guarded) : (if c then x else y).Guarded := by
  split <;> assumption

theorem guarded_opOf {s : State} {d : Desc} : (opOf s d).Guarded :=
  Op.guarded_ite guarded_matmulOp <| Op.guarded_ite guarded_fusedOp <| Op.guarded_ite guarded_nodeOp <|
  Op.guarded_ite guarded_reduceOp <| Op.guarded_ite guarded_updateOp <| Op.guarded_ite guarded_convertOp <|
  Op.guarded_ite guarded_gatherOp <| Op.guarded_ite guarded_hazeOp <| Op.guarded_ite guarded_forecastOp <|
  Op.guarded_ite (Op.guarded_ite guarded_dotOp guarded_streamOp) <| Op.guarded_ite guarded_drainOp <|
  Op.guarded_ite guarded_reshardOp guarded_barrierOp

theorem guarded_execSlotWaitEnd {a s : State} {run : IssueRun} (h : Guarded a s) : GuardedRes a (execSlotWaitEnd run s) := by
  unfold execSlotWaitEnd
  exact guardedRes_next (guarded_whenJob h fun j => guarded_ite (guarded_tryDrain (guarded_stall h))
    (guarded_ite (guarded_issueBlock (guarded_stall h) guarded_opOf) (guarded_proceed (guarded_stall h) guarded_opOf)))

theorem guarded_execSlotTimeout {a s : State} {jid : ℕ} (h : Guarded a s) : GuardedRes a (execSlotTimeout jid s) := by
  unfold execSlotTimeout
  refine guardedRes_next (guarded_whenJob h (fun j => ?_))
  split
  · exact h
  · exact guarded_ite (guarded_failJob (guarded_bump h (by decide))) h

theorem guarded_addCounts {a s : State} {n : ℕ} {c : Counts} (h : Guarded a s) : Guarded a (State.addCounts s n c) := by
  unfold State.addCounts
  extract_lets +onlyGivenNames s1
  have h1 : Guarded a s1 := h
  clear_value s1
  exact guarded_ite h1 (guarded_setFld h1 (by decide))

theorem guarded_sendVector {a s : State} {c : ℕ} {q : Cq} (h : Guarded a s) : Guarded a (State.sendVector s c q) := by
  unfold State.sendVector
  exact guarded_send h

theorem guarded_recordTo {a s : State} {c : ℕ} {q : Cq} {bytes : ℕ → List Byte} (h : Guarded a s) :
    Guarded a (State.recordTo s c q bytes) := by
  unfold State.recordTo
  extract_lets +onlyGivenNames _ _ _ _ s5
  have h5 : Guarded a s5 := guarded_ite (guarded_writeDev h) (guarded_send h)
  clear_value s5
  exact guarded_ite (guarded_sendVector h5) h5

theorem guarded_ringGone {a s : State} {k : ℕ} (h : Guarded a s) : Guarded a (State.ringGone s k) := by
  unfold State.ringGone
  split
  · exact guarded_ite h h
  · exact h

theorem guarded_showRings {a s : State} (h : Guarded a s) : Guarded a (State.showRings s) := by
  unfold State.showRings
  exact guarded_setReg h (by decide)

theorem guarded_replan {a s : State} {j : Job} (h : Guarded a s) : Guarded a (State.replan s j) := by
  unfold State.replan
  exact guarded_ite h h

theorem guarded_postRecord {a s : State} {j : Job} (h : Guarded a s) : Guarded a (State.postRecord s j) := by
  unfold State.postRecord
  extract_lets +onlyGivenNames s1 s2 s3 s4 s5 _ s7
  have h1 : Guarded a s1 := guarded_ite h (guarded_addCounts h)
  clear_value s1
  have h2 : Guarded a s2 := guarded_ite (guarded_emptyAll h1) h1
  clear_value s2
  have h3 : Guarded a s3 := by
    unfold s3
    split
    · exact guarded_sendAs h2
    · exact h2
  clear_value s3
  have h4 : Guarded a s4 := guarded_dropJob (guarded_replan h3)
  clear_value s4
  have h5 : Guarded a s5 := guarded_ite (guarded_bump h4 (by decide)) h4
  clear_value s5
  have h7 : Guarded a s7 := by
    unfold s7
    split
    · exact h5
    · split
      · exact guarded_recordTo h5
      · exact h5
  clear_value s7
  exact guarded_showRings (guarded_ringGone h7)

theorem guarded_execCompletionRecordPost {a s : State} {jid : ℕ} (h : Guarded a s) :
    GuardedRes a (execCompletionRecordPost jid s) := by
  unfold execCompletionRecordPost
  exact guardedRes_next (guarded_whenJob h (fun j => guarded_postRecord h))

theorem guarded_execMsixTimer {a s : State} {cq : ℕ} (h : Guarded a s) : GuardedRes a (execMsixTimer cq s) := by
  unfold execMsixTimer
  split
  · exact guardedRes_ite (guardedRes_next (guarded_sendVector h)) (guardedRes_next h)
  · exact guardedRes_next h

theorem guarded_haloCount {a s : State} {t : ℕ} {x : HaloSample} (h : Guarded a s) :
    Guarded a (State.haloCount s t x) := by
  unfold State.haloCount
  extract_lets +onlyGivenNames _ _ _ _ s5
  have h5 : Guarded a s5 := h
  clear_value s5
  exact guarded_ite (guarded_raise h5) h5

/-- None of a tracker's registers is SC_STATUS. -/
def TrkRegs.apart (k : TrkRegs) : Prop :=
  k.stat ≠ .SC_STATUS ∧ k.hits ≠ .SC_STATUS ∧ k.truth ≠ .SC_STATUS ∧ k.openN ≠ .SC_STATUS ∧ k.samples ≠ .SC_STATUS

theorem guarded_trkClose {a s : State} {k : TrkRegs} {n hits truth : Nat} (h : Guarded a s) (hk : k.apart) :
    Guarded a (s.trkClose k n hits truth) := by
  obtain ⟨stat, hit, tru, opn, -⟩ := hk
  unfold State.trkClose
  extract_lets rcl t
  have closed : Guarded a t :=
    guarded_setFld (guarded_setReg (guarded_setReg (guarded_setReg h hit) tru) opn) stat
  exact guarded_ite (guarded_raise (guarded_setFld closed stat)) closed

theorem guarded_trkSample {a s : State} {k : TrkRegs} {n hits truth : Nat} (h : Guarded a s) (hk : k.apart) :
    Guarded a (s.trkSample k n hits truth) := by
  obtain ⟨stat, hit, tru, opn, smp⟩ := id hk
  unfold State.trkSample
  dsimp only
  exact guarded_ite (guarded_trkClose (guarded_bump (guarded_bump (guarded_bump h smp) hit) tru) hk)
    (guarded_setReg (guarded_bump (guarded_bump (guarded_bump h smp) hit) tru) opn)

theorem guarded_forecastSample {a s : State} {x : HaloSample} (h : Guarded a s) : Guarded a (s.forecastSample x) := by
  have apart : fcTrk.apart := by unfold TrkRegs.apart; decide
  unfold State.forecastSample
  exact guarded_trkSample h apart

theorem guarded_hazeSample {a s : State} {x : HaloSample} (h : Guarded a s) : Guarded a (s.hazeSample x) := by
  have apart : hzTrk.apart := by unfold TrkRegs.apart; decide
  unfold State.hazeSample
  exact guarded_trkSample h apart

theorem guarded_execHaloComparison {a s : State} {terrace : ℕ} (h : Guarded a s) :
    GuardedRes a (execHaloComparison terrace s) := by
  unfold execHaloComparison
  extract_lets +onlyGivenNames _
  dsimp only
  split
  · exact guardedRes_next h
  · exact guardedRes_ite (guardedRes_next h) (guardedRes_next (guarded_ite (guarded_haloCount (guarded_readSpans
        (guarded_setReg h (by decide)))) (guarded_ite (guarded_forecastSample (guarded_readSpans (guarded_setReg h (by
        decide)))) (guarded_hazeSample (guarded_readSpans (guarded_setReg h (by decide)))))))

theorem guarded_execPoolWriteRequest {a s : State} {basin addr cls : ℕ} {writer : BitVec 24} {data : List Byte}
    (h : Guarded a s) :
    GuardedRes a (execPoolWriteRequest basin addr cls writer data s) := by
  unfold execPoolWriteRequest
  exact guardedRes_next (guarded_poolRequest h)

theorem guarded_execHostWrite {a s : State} {offset : ℕ} {data : List Byte} (h : Guarded a s) :
    GuardedRes a (execHostWrite offset data s) := by
  unfold execHostWrite
  exact guardedRes_ite (guardedRes_next (guarded_writeDev h)) (guardedRes_next h)

theorem guarded_execHostRead {a s : State} {offset len : ℕ} (h : Guarded a s) :
    GuardedRes a (execHostRead offset len s) := by
  unfold execHostRead
  refine guardedRes_ite ?_ (guardedRes_next h)
  extract_lets +onlyGivenNames _ _ s3 _ s5
  have h3 : Guarded a s3.1 := guarded_readEach h
  clear_value s3
  have h5 : Guarded a s5 := guarded_ite (guarded_bump h3 (by decide)) h3
  clear_value s5
  exact guardedRes_next h5

theorem guarded_linkDown {a s : State} (h : Guarded a s) : Guarded a (State.linkDown s) := by
  unfold State.linkDown
  extract_lets +onlyGivenNames s1
  have h1 : Guarded a s1 := guarded_bump (guarded_setFld h (by decide)) (by decide)
  clear_value s1
  exact guarded_raise (guarded_settle (guarded_setOwn h1))

theorem guarded_execHostLinkDown {a s : State} (h : Guarded a s) : GuardedRes a (execHostLinkDown s) := by
  unfold execHostLinkDown
  exact guardedRes_ite (guardedRes_next (guarded_linkDown h)) (guardedRes_next h)

theorem guarded_execHostLinkUp {a s : State} {rate width : ℕ} {flit : Bool} (h : Guarded a s) :
    GuardedRes a (execHostLinkUp rate width flit s) := by
  unfold execHostLinkUp
  refine guardedRes_ite (guardedRes_next h) ?_
  extract_lets +onlyGivenNames s1 s2 s3
  have h1 : Guarded a s1 := guarded_setReg h (by decide)
  clear_value s1
  have h2 : Guarded a s2 := guarded_setFld (guarded_setFld h1 (by decide)) (by decide)
  clear_value s2
  have h3 : Guarded a s3 := guarded_setFld h2 (by decide)
  clear_value s3
  exact guardedRes_next (guarded_raise (guarded_settle (guarded_setOwn (guarded_flushWait h3))))

theorem guarded_execD3hot {a s : State} (h : Guarded a s) : GuardedRes a (execD3hot s) := by
  unfold execD3hot
  refine guardedRes_next ?_
  extract_lets +onlyGivenNames s1
  have h1 : Guarded a s1 := guarded_setFld h (by decide)
  clear_value s1
  exact h1

theorem guarded_execD0 {a s : State} (h : Guarded a s) : GuardedRes a (execD0 s) := by
  unfold execD0
  refine guardedRes_next (guarded_flushWait ?_)
  extract_lets +onlyGivenNames s1
  have h1 : Guarded a s1 := guarded_setFld h (by decide)
  clear_value s1
  exact h1

theorem guarded_execSmbusReadWord {a s : State} {code : BitVec 8} (h : Guarded a s) :
    GuardedRes a (execSmbusReadWord code s) := by
  unfold execSmbusReadWord
  extract_lets +onlyGivenNames _ ack
  have hack : ∀ w, GuardedRes a (ack w) := fun _ => guardedRes_next h
  exact guardedRes_ite (guardedRes_next h) (guardedRes_ite (hack _) (guardedRes_ite (hack _) (guardedRes_ite (hack _)
    (guardedRes_next h))))

theorem guarded_execDebugHalt {a s : State} (h : Guarded a s) : GuardedRes a (execDebugHalt s) := by
  unfold execDebugHalt
  extract_lets +onlyGivenNames _
  split
  · exact guardedRes_ite (guardedRes_next (guarded_showHalt (guarded_setFld (guarded_setFld h (by decide)) (by decide))))
        (guardedRes_next h)
  · exact guardedRes_next h

theorem guarded_execDebugResume {a s : State} (h : Guarded a s) : GuardedRes a (execDebugResume s) := by
  unfold execDebugResume
  exact guardedRes_ite (guardedRes_next (guarded_showHalt (guarded_resumeU (guarded_setFld h (by decide))))) (guardedRes_next h)

theorem guarded_execEccInjectArm {a s : State} {basin : ℕ} {value : BitVec 64} (h : Guarded a s) :
    GuardedRes a (execEccInjectArm basin value s) := by
  unfold execEccInjectArm
  extract_lets +onlyGivenNames _ _ s3
  have h3 : Guarded a s3 := guarded_setFld (guarded_setFld (guarded_setFld h (by decide)) (by decide)) (by decide)
  clear_value s3
  exact guardedRes_next (guarded_ite (guarded_setFld h3 (by decide)) h3)

/-- SC_STATUS has no field that a read clears. -/
theorem status_clears_nothing : ((regRow .SC_STATUS).fields.any fun f => f.acc = .rc) = false := by decide

theorem guarded_regClear {a s : State} {k : RegKey} {n : Nat} (h : Guarded a s) : Guarded a (s.regClear k n) := by
  by_cases e : k.name = .SC_STATUS
  · simpa only [State.regClear, e, status_clears_nothing, Bool.and_false, Bool.false_eq_true, if_false] using h
  · unfold State.regClear
    exact guarded_ite (guarded_foldl h fun s f h => guarded_ite (guarded_setFld h e) h) h

theorem guarded_viewRead {a s : State} {o : ℕ} (h : Guarded a s) : Guarded a (State.viewRead s o) := by
  unfold State.viewRead
  split
  · exact h
  · exact guarded_ite (guarded_readAcc h) h

theorem guarded_debugPool {a s : State} {x n : ℕ} (h : Guarded a s) : Guarded a (State.debugPool s x n).1 := by
  unfold State.debugPool
  dsimp only
  split
  · exact h
  · exact guarded_setFld h (by decide)

/-- The outcome is named before the cases are split: the kernel does not run into the comparisons of an unfolded one. -/
theorem guarded_barRead_eq {a s : State} {off n : ℕ} {r : State × Nat} (h : Guarded a s) (e : State.barRead s off n = r) :
    Guarded a r.1 := by
  unfold State.barRead at e
  split at e
  · subst e
    exact h
  split at e
  · subst e
    exact h
  split at e
  · split at e
    · subst e
      exact guarded_regClear h
    · subst e
      exact h
  split at e
  · subst e
    exact h
  split at e
  · subst e
    exact h
  split at e
  · extract_lets o at e
    split at e
    · subst e
      exact h
    · split at e <;> (subst e; exact h)
  · extract_lets o at e
    split at e
    · subst e
      exact h
    split at e
    · subst e
      exact guarded_viewRead h
    split at e
    · subst e
      exact guarded_debugPool h
    · split at e <;> (subst e; exact h)

theorem guarded_barRead {a s : State} {off n : ℕ} (h : Guarded a s) : Guarded a (State.barRead s off n).1 :=
  guarded_barRead_eq h rfl

theorem guarded_execRcCounterRead {a s : State} {offset bytes : ℕ} (h : Guarded a s) :
    GuardedRes a (execRcCounterRead offset bytes s) := by
  unfold execRcCounterRead
  extract_lets +onlyGivenNames s1
  have h1 : Guarded a s1.1 := guarded_barRead h
  clear_value s1
  refine guardedRes_next ?_
  extract_lets +onlyGivenNames s2
  have h2 : Guarded a s2 := h1
  clear_value s2
  exact h2

theorem guarded_showWeir {a s : State} (h : Guarded a s) : Guarded a (State.showWeir s) := by
  unfold State.showWeir
  exact guarded_setFld (guarded_setFld h (by decide)) (by decide)

theorem guarded_cutSlot {a s : State} {n : ℕ} (h : Guarded a s) : Guarded a (State.cutSlot s n) := by
  unfold State.cutSlot
  extract_lets +onlyGivenNames _ _ s3
  have h3 : Guarded a s3 := guarded_ite h h
  clear_value s3
  exact guarded_ite (guarded_setFld h3 (by decide)) h3

theorem guarded_execCloseStep {a s : State} {value : BitVec 32} (h : Guarded a s) :
    GuardedRes a (execCloseStep value s) := by
  unfold execCloseStep
  extract_lets +onlyGivenNames _ _
  refine guardedRes_ite (guardedRes_next (guarded_setFld h (by decide))) ?_
  extract_lets +onlyGivenNames _ s4
  have h4 : Guarded a s4 := guarded_foldl h (fun s x h => guarded_cutSlot h)
  clear_value s4
  exact guardedRes_next (guarded_showWeir h4)

theorem guarded_closeSlot {a s : State} {n amax : ℕ} {sat : Bool} (h : Guarded a s) :
    Guarded a (State.closeSlot s n amax sat) := by
  unfold State.closeSlot
  extract_lets +onlyGivenNames _ _ _ _ _ s6 s7
  have h6 : Guarded a s6 := h
  clear_value s6
  have h7 : Guarded a s7 := guarded_setFld h6 (by decide)
  clear_value s7
  split
  · exact guarded_setFld h7 (by decide)
  · exact h7

theorem guarded_endClose {a s : State} (h : Guarded a s) : Guarded a (State.endClose s) := by
  unfold State.endClose
  dsimp only
  split
  · exact h
  · exact guarded_showWeir ((guarded_foldl (guarded_foldl h (fun s x h => guarded_closeSlot h)) (fun s x h => guarded_setFld
        h (by decide))).upd)

theorem guarded_execStepCloseEnd {a s : State} (h : Guarded a s) : GuardedRes a (execStepCloseEnd s) := by
  unfold execStepCloseEnd
  exact guardedRes_next (guarded_endClose h)

theorem guarded_writeScale {a s : State} {n x : ℕ} (h : Guarded a s) : Guarded a (State.writeScale s n x) := by
  unfold State.writeScale
  split
  · exact guarded_ite h (guarded_setFld h (by decide))
  · exact guarded_setFld h (by decide)

theorem guarded_endCloses {a s : State} {first count n : Nat} (h : Guarded a s) : Guarded a (s.endCloses first count n) := by
  induction n generalizing s with
  | zero => exact h
  | succ n ih => exact guarded_ite (ih (guarded_endClose h)) h

theorem guarded_monClear {a s : State} {first count : ℕ} (h : Guarded a s) :
    Guarded a (State.monClear s first count) := by
  unfold State.monClear
  exact h

theorem guarded_monSet {a s : State} {n : ℕ} {bs : List Byte} (h : Guarded a s) : Guarded a (State.monSet s n bs) := by
  unfold State.monSet
  extract_lets +onlyGivenNames _ _
  exact guarded_setReg h (by decide)

theorem guarded_monSetAll {a s : State} {first count : ℕ} {bs : List Byte} (h : Guarded a s) :
    Guarded a (State.monSetAll s first count bs) := by
  unfold State.monSetAll
  exact guarded_foldl h (fun s x h => guarded_monSet h)

theorem guarded_eraseBlock {a s : State} {b : ℕ} (h : Guarded a s) : Guarded a (State.eraseBlock s b) := by
  unfold State.eraseBlock
  extract_lets +onlyGivenNames _ s2 s3
  have h2 : Guarded a s2 := guarded_bump h (by decide)
  clear_value s2
  have h3 : Guarded a s3 := h2
  clear_value s3
  exact guarded_ite (guarded_raise h3) h3

theorem guarded_freshBlock {a s : State} {base n fuel from' : Nat} (h : Guarded a s) :
    Guarded a (s.freshBlock base n fuel from').1 := by
  induction fuel generalizing s from' with
  | zero => exact h
  | succ fuel ih =>
    unfold State.freshBlock
    dsimp only
    split
    · exact h
    · exact guarded_ite_fst (ih (guarded_eraseBlock h)) (guarded_eraseBlock h)

theorem guarded_lifeSave {a s : State} (h : Guarded a s) : Guarded a (State.lifeSave s) := by
  unfold State.lifeSave
  dsimp only
  split
  · rename_i e2
    exact Guarded.of_eq e2 (guarded_freshBlock h)
  · rename_i e3
    exact (guarded_bump (Guarded.of_eq e3 (guarded_freshBlock h)) (by decide)).upd

theorem guarded_execLifetimeSecond {a s : State} (h : Guarded a s) : GuardedRes a (execLifetimeSecond s) := by
  unfold execLifetimeSecond
  refine guardedRes_ite (guardedRes_next h) ?_
  extract_lets +onlyGivenNames _ _ _ _
  refine guardedRes_next (guarded_showSuspects ?_)
  extract_lets +onlyGivenNames s5
  have h5 : Guarded a s5 := guarded_setReg h (by decide)
  clear_value s5
  exact h5

theorem guarded_execLifetimeRecordSave {a s : State} (h : Guarded a s) : GuardedRes a (execLifetimeRecordSave s) := by
  unfold execLifetimeRecordSave
  exact guardedRes_ite (guardedRes_next (guarded_lifeSave h)) (guardedRes_next h)

theorem guarded_execLifetimeSave {a s : State} {value : BitVec 32} (h : Guarded a s) :
    GuardedRes a (execLifetimeSave value s) := by
  unfold execLifetimeSave
  exact guardedRes_ite (guardedRes_next (guarded_lifeSave h)) (guardedRes_next h)

theorem guarded_logBlock {a s : State} (h : Guarded a s) : Guarded a (State.logBlock s) := by
  unfold State.logBlock
  extract_lets +onlyGivenNames _ _
  split
  · rename_i e2
    exact Guarded.of_eq e2 (guarded_ite_fst (guarded_freshBlock h) h)
  · rename_i e3
    exact (Guarded.of_eq e3 (guarded_ite_fst (guarded_freshBlock h) h)).upd

theorem guarded_flashWrite {a s : State} (h : Guarded a s) : Guarded a (State.flashWrite s) := by
  unfold State.flashWrite
  dsimp only
  split
  · exact h
  · refine guarded_ite (guarded_ite ?_ ?_) (Guarded.upd ?_)
    · exact guarded_logBlock h
    · exact h
    · refine (guarded_bump (guarded_ite ?_ ?_) (by decide)).upd
      · exact guarded_logBlock h
      · exact h

theorem guarded_flashAll {a s : State} (h : Guarded a s) : Guarded a (State.flashAll s) := by
  unfold State.flashAll
  exact guarded_foldl h (fun s x h => guarded_flashWrite h)

theorem guarded_execFlashLogWrite {a s : State} (h : Guarded a s) : GuardedRes a (execFlashLogWrite s) := by
  unfold execFlashLogWrite
  exact guardedRes_ite (guardedRes_next (guarded_flashWrite h)) (guardedRes_next h)

theorem guarded_showIds {a s : State} {p : ℕ} (h : Guarded a s) : Guarded a (State.showIds s p) := by
  unfold State.showIds
  extract_lets +onlyGivenNames _ s2 s3 s4 s5
  have h2 : Guarded a s2 := by
    refine guarded_foldl h (fun s x h => ?_)
    extract_lets +onlyGivenNames _ s4
    have h4 : Guarded a s4 := guarded_show h (by decide)
    clear_value s4
    exact guarded_ite (guarded_setFld h4 (by decide)) h4
  clear_value s2
  have h3 : Guarded a s3 := by
    refine guarded_foldl h2 (fun s x h => ?_)
    extract_lets +onlyGivenNames _ _ s6
    have h6 : Guarded a s6 := guarded_show h (by decide)
    clear_value s6
    exact guarded_ite (guarded_setFld h6 (by decide)) h6
  clear_value s3
  have h4 : Guarded a s4 := guarded_foldl h3 (fun s x h => guarded_show h (by decide))
  clear_value s4
  have h5 : Guarded a s5 := guarded_show h4 (by decide)
  clear_value s5
  split
  · exact guarded_setFld h5 (by decide)
  · exact h5

theorem guarded_applyMap {a s : State} (h : Guarded a s) : Guarded a (State.applyMap s) := by
  unfold State.applyMap
  extract_lets +onlyGivenNames s1 s2 s3 s4 s5
  have h1 : Guarded a s1 := h
  clear_value s1
  have h2 : Guarded a s2 := guarded_foldl h1 (fun s x h => guarded_setFld h (by decide))
  clear_value s2
  have h3 : Guarded a s3 := guarded_foldl h2 (fun s x h => guarded_ite (guarded_setFld h (by decide)) h)
  clear_value s3
  have h4 : Guarded a s4 := guarded_foldl h3 (fun s x h => guarded_ite h (guarded_setHolder h))
  clear_value s4
  have h5 : Guarded a s5 := guarded_foldl h4 (fun s x h => guarded_showColumns h)
  clear_value s5
  exact guarded_foldl h5 (fun s x h => guarded_showIds h)

theorem guarded_showSpace {a s : State} (h : Guarded a s) : Guarded a (State.showSpace s) := by
  unfold State.showSpace
  extract_lets +onlyGivenNames s1
  have h1 : Guarded a s1 := guarded_foldl h (fun s x h => guarded_show h (by decide))
  clear_value s1
  exact guarded_setFld h1 (by decide)

theorem guarded_showSc {a s : State} (h : Guarded a s) : Guarded a (State.showSc s) := by
  unfold State.showSc
  extract_lets +onlyGivenNames _ s2 s3
  have h2 : Guarded a s2 := guarded_setFld_status (guarded_setFld_status h (by decide) (by decide) (by decide))
    (by decide) (by decide) (by decide)
  clear_value s2
  have h3 : Guarded a s3 := guarded_setFld_status (guarded_setFld_status h2 (by decide) (by decide) (by decide))
    (by decide) (by decide) (by decide)
  clear_value s3
  exact guarded_setReg h3 (by decide)

theorem guarded_setSlot {a s : State} {b : Bool} {i : Option Image} (h : Guarded a s) :
    Guarded a (State.setSlot s b i) := by
  unfold State.setSlot
  exact guarded_showSc (guarded_ite h h)

theorem guarded_rollback {a s : State} {reason : ℕ} (h : Guarded a s) : Guarded a (State.rollback s reason) := by
  unfold State.rollback
  extract_lets +onlyGivenNames _ s2
  have h2 : Guarded a s2 := guarded_setSlot (guarded_setFld_status h (by decide) (by decide) (by decide))
  clear_value s2
  exact guarded_raise h2

theorem guarded_recover {a s : State} (h : Guarded a s) : Guarded a (State.recover s) := by
  unfold State.recover
  exact guarded_ite h (guarded_setFld (guarded_setOwn h) (by decide))

theorem guarded_bootTrial {a s : State} (h : Guarded a s) : Guarded a (State.bootTrial s) := by
  unfold State.bootTrial
  exact guarded_ite (guarded_ite h (guarded_rollback h)) h

theorem guarded_bootChoice {a s : State} (h : Guarded a s) : Guarded a (State.bootChoice s).1 := by
  unfold State.bootChoice
  dsimp only
  exact guarded_ite_fst (guarded_bootTrial h) (guarded_ite_fst (guarded_setFld_status (guarded_bootTrial h) (by decide) (by
      decide) (by decide)) (guarded_bootTrial h))

/-- A fold over a list of whose members something is known. -/
theorem guarded_foldl_mem {α : Type} {a s : State} {f : State → α → State} {l : List α} (h : Guarded a s)
    (k : ∀ s, ∀ x ∈ l, Guarded a s → Guarded a (f s x)) : Guarded a (l.foldl f s) := by
  induction l generalizing s with
  | nil => exact h
  | cons x r ih =>
    exact ih (k s x (List.mem_cons_self ..) h) fun s y hy => k s y (List.mem_cons_of_mem _ hy)

theorem guarded_quietReady {a s : State} (h : Guarded a s) : Guarded a s.quietReady := by
  have apart : ∀ x ∈ readyWords, x.1 ≠ .SC_STATUS := by decide
  unfold State.quietReady
  exact guarded_setFld (guarded_foldl_mem h fun s x hx h => guarded_show h (apart x hx)) (by decide)

theorem regFind_filter (l : List (RegKey × Word)) (p : RegKey → Bool) (k : RegKey) (hk : p k = true) :
    regFind (l.filter fun e => p e.1) k = regFind l k := by
  induction l with
  | nil => rfl
  | cons e r ih =>
    obtain ⟨x, v⟩ := e
    by_cases hx : x = k
    · subst hx
      simp [hk, regFind]
    · cases hp : p x <;> simp [hp, regFind, hx, ih]

/-- Registers dropped, SC_STATUS not among them. -/
theorem Guarded.filter {a s : State} (h : Guarded a s) (p : RegKey → Bool) (hp : p (rk .SC_STATUS) = true) :
    GuardedAt a s.pending (s.regs.filter fun e => p e.1) := by
  obtain ⟨queue, lock, level⟩ := h
  have same : scWord (s.regs.filter fun e => p e.1) = scWord s.regs := by
    unfold scWord
    rw [regFind_filter _ p _ hp]
  exact ⟨queue, same ▸ lock, same ▸ level⟩

theorem guarded_dieReset {a s : State} {up : List Nat} (h : Guarded a s) : Guarded a (s.dieReset up) := by
  unfold State.dieReset
  extract_lets spares done busy wave _ r r1 r2 r3 r4
  have h0 : Guarded a r := h.filter keptReg (by decide)
  have h1 : Guarded a r1 := guarded_foldl h0 fun s e h => guarded_ite h (guarded_setFld h (by decide))
  have h2 : Guarded a r2 := guarded_ite h1 (guarded_setFld h1 (by decide))
  have h3 : Guarded a r3 := guarded_ite h2 (guarded_setFld h2 (by decide))
  exact guarded_quietReady (guarded_applyMap (guarded_setFld h3 (by decide)))

theorem guarded_flushed {a s : State} {kind unit : ℕ} (h : Guarded a s) : Guarded a (State.flushed s kind unit) := by
  unfold State.flushed
  extract_lets +onlyGivenNames _ s2
  have h2 : Guarded a s2 := h
  clear_value s2
  exact guarded_ite h2 (guarded_raise (guarded_bump h2 (by decide)))

theorem guarded_resetDone {a s : State} {kind : ℕ} (h : Guarded a s) : Guarded a (State.resetDone s kind) := by
  unfold State.resetDone
  exact guarded_raise h

theorem guarded_showShares {a s : State} (h : Guarded a s) : Guarded a (State.showShares s) := by
  unfold State.showShares
  extract_lets +onlyGivenNames s1 s2
  have h1 : Guarded a s1 := guarded_setFld h (by decide)
  clear_value s1
  have h2 : Guarded a s2 := guarded_setFld h1 (by decide)
  clear_value s2
  refine guarded_foldl h2 (fun s x h => ?_)
  extract_lets +onlyGivenNames _
  exact guarded_show h (by decide)

theorem guarded_mbFinish {a s : State} {mb status detail : ℕ} {resp : List Byte} (h : Guarded a s) :
    Guarded a (State.mbFinish s mb status detail resp) := by
  unfold State.mbFinish
  extract_lets +onlyGivenNames _ _ _ _ _ _ _ _ s9
  have h9 : Guarded a s9 := h
  clear_value s9
  refine guarded_ite ?_ ?_
  · extract_lets +onlyGivenNames s10
    have h10 : Guarded a s10 := guarded_setFld (guarded_setFld h9 (by decide)) (by decide)
    clear_value s10
    exact guarded_ite (guarded_send h10) h10
  · extract_lets +onlyGivenNames s10
    have h10 : Guarded a s10 := guarded_setFld h9 (by decide)
    clear_value s10
    exact guarded_ite (guarded_mgtVector h10) h10

theorem guarded_mbStart {a s : State} {mb : ℕ} (h : Guarded a s) : Guarded a (State.mbStart s mb) := by
  unfold State.mbStart
  extract_lets +onlyGivenNames _ s2
  have h2 : Guarded a s2 := h
  clear_value s2
  exact guarded_ite h2 (guarded_mbFinish h2)

theorem guarded_mbAnswer {a s : State} {mb status detail : ℕ} {resp : List Byte} (h : Guarded a s) :
    Guarded a (State.mbAnswer s mb status detail resp) := by
  unfold State.mbAnswer
  refine guarded_ite ?_ (guarded_mbFinish h)
  extract_lets +onlyGivenNames s1
  have h1 : Guarded a s1 := h
  clear_value s1
  exact guarded_ite (guarded_mbStart h1) h1

theorem guarded_endNimbus {a s : State} (h : Guarded a s) : Guarded a (State.endNimbus s) := by
  unfold State.endNimbus
  extract_lets +onlyGivenNames s1
  have h1 : Guarded a s1 := h
  clear_value s1
  exact guarded_foldl h1 (fun s x h => guarded_mbAnswer h)

theorem guarded_deviceReset {a s : State} {cause : ℕ} (h : Guarded a s) : Guarded a (State.deviceReset s cause) := by
  unfold State.deviceReset
  extract_lets +onlyGivenNames s1 s2 s3 s4 s5 _ s7 s8 s9 s10
  have h1 : Guarded a s1 := guarded_ite (guarded_lifeSave h) h
  clear_value s1
  have h2 : Guarded a s2 := guarded_setFld (guarded_setFld_status h1 (by decide) (by decide) (by decide)) (by decide)
  clear_value s2
  have h3 : Guarded a s3 := guarded_bump h2 (by decide)
  clear_value s3
  have h4 : Guarded a s4 := guarded_ite (guarded_setFld h3 (by decide)) h3
  clear_value s4
  have h5 : Guarded a s5 := guarded_setFld h4 (by decide)
  clear_value s5
  have h7 : Guarded a s7 := h5
  clear_value s7
  have h8 : Guarded a s8 := guarded_showShares (guarded_dieReset h7)
  clear_value s8
  have h9 : Guarded a s9 := guarded_ite (guarded_setFld (guarded_setFld (guarded_endNimbus h8) (by decide)) (by decide))
      (guarded_quietReady (guarded_recover (guarded_bootTrial h8)))
  clear_value s9
  have h10 : Guarded a s10 := guarded_flushed h9
  clear_value s10
  exact guarded_ite h10 (guarded_resetDone h10)

theorem guarded_execHotReset {a s : State} (h : Guarded a s) : GuardedRes a (execHotReset s) := by
  unfold execHotReset
  exact guardedRes_ite (guardedRes_next (guarded_deviceReset h)) (guardedRes_next h)

theorem guarded_execDeviceReset {a s : State} {value : BitVec 32} (h : Guarded a s) :
    GuardedRes a (execDeviceReset value s) := by
  unfold execDeviceReset
  exact guardedRes_ite (guardedRes_next (guarded_deviceReset h)) (guardedRes_next h)

theorem guarded_fatal {a s : State} (h : Guarded a s) : Guarded a (State.fatal s) := by
  unfold State.fatal
  exact guarded_flashAll (guarded_setFld h (by decide))

theorem guarded_execRootLockLoss {a s : State} (h : Guarded a s) : GuardedRes a (execRootLockLoss s) := by
  unfold execRootLockLoss
  exact guardedRes_ite (guardedRes_next (guarded_deviceReset (guarded_fatal (guarded_raise h)))) (guardedRes_next h)

theorem guarded_execFatalFault {a s : State} {unitClass cause : ℕ} (h : Guarded a s) :
    GuardedRes a (execFatalFault unitClass cause s) := by
  unfold execFatalFault
  exact guardedRes_ite (guardedRes_next (guarded_deviceReset (guarded_fatal (guarded_raise h)))) (guardedRes_next h)

/-- SC_STATUS set to a value that keeps the fused level, debug locked. -/
theorem Guarded.setStatus {a s t : State} {v : Word} (h : Guarded a s) (queue : t.pending = s.pending)
    (locked : bitsOf v.toNat 0 1 = 0) (level : bitsOf v.toNat 6 7 = bitsOf (s.reg (rk .SC_STATUS)).toNat 6 7) :
    Guarded a (t.setReg (rk .SC_STATUS) v) := by
  obtain ⟨hq, -, hl⟩ := h
  have value : scWord (t.setReg (rk .SC_STATUS) v).regs = v.toNat := by simp [State.setReg, scWord_regPut]
  refine ⟨queue.trans hq, fun _ => by rw [value, locked], ?_⟩
  rw [value, level]
  exact hl

theorem powerOn_status (k b : Bool) (n : Nat) (hn : n < 128) :
    bitsOf (BitVec.ofNat 64 (4 * flagNat k + 8 * flagNat b + 2 ^ 6 * n)).toNat 0 1 = 0 ∧
    bitsOf (BitVec.ofNat 64 (4 * flagNat k + 8 * flagNat b + 2 ^ 6 * n)).toNat 6 7 = n := by
  cases k <;> cases b <;> simp only [flagNat, bitsOf, BitVec.toNat_ofNat, if_true, Bool.false_eq_true, if_false] <;> omega

theorem guarded_powerOn {a s : State} {slot : Nat} (h : Guarded a s) : Guarded a (s.powerOn slot) := by
  unfold State.powerOn
  extract_lets +onlyGivenNames sc keep s1 s2 s3 s4 s5
  obtain ⟨locked, level⟩ := powerOn_status keep (bitOf sc 3) (bitsOf sc 6 7) (bitsOf_lt sc 6 7)
  have h2 : Guarded a s2 := h.setStatus rfl locked level
  clear_value s2
  have h3 : Guarded a s3 := guarded_dieReset h2
  clear_value s3
  have h4 : Guarded a s4 := h3
  clear_value s4
  exact guarded_showSc (guarded_setReg (guarded_setFld h4 (by decide)) (by decide))

theorem guarded_execInputPowerGood {a s : State} {slot : Nat} (h : Guarded a s) : GuardedRes a (execInputPowerGood slot s) := by
  unfold execInputPowerGood
  exact guardedRes_ite (guardedRes_next h) (guardedRes_ite (guardedRes_next (guarded_setFld h (by decide)).upd)
    (guardedRes_next (guarded_powerOn h)))

theorem guarded_snapshotNow {a s : State} (h : Guarded a s) : Guarded a (State.snapshotNow s) := by
  unfold State.snapshotNow
  extract_lets +onlyGivenNames s1
  have h1 : Guarded a s1 := h
  clear_value s1
  exact guarded_flashAll (guarded_lifeSave (guarded_raise h1))

theorem guarded_stopRails {a s : State} (h : Guarded a s) : Guarded a (State.stopRails s) := by
  unfold State.stopRails
  extract_lets +onlyGivenNames s1 s2 s3 s4
  have h1 : Guarded a s1 := guarded_flashAll h
  clear_value s1
  have h2 : Guarded a s2 := guarded_ite (guarded_linkDown h1) h1
  clear_value s2
  have h3 : Guarded a s3 := guarded_setFld h2 (by decide)
  clear_value s3
  have h4 : Guarded a s4 := h3
  clear_value s4
  exact guarded_dieReset h4

theorem guarded_endLadder {a s : State} (h : Guarded a s) : Guarded a (State.endLadder s) := by
  unfold State.endLadder
  exact guarded_ite h (guarded_stopRails (guarded_ite h (guarded_snapshotNow h)))

theorem guarded_execRootPllLock {a s : State} (h : Guarded a s) : GuardedRes a (execRootPllLock s) := by
  unfold execRootPllLock
  exact guardedRes_ite (guardedRes_next (guarded_settle (guarded_setFld h (by decide)))) (guardedRes_next h)

theorem guarded_countBoot {a s : State} (h : Guarded a s) : Guarded a (State.countBoot s) := by
  unfold State.countBoot
  exact guarded_ite (guarded_lifeSave h) h

theorem guarded_execNimbusReady {a s : State} (h : Guarded a s) : GuardedRes a (execNimbusReady s) := by
  unfold execNimbusReady
  refine guardedRes_ite (guardedRes_next h) ?_
  extract_lets +onlyGivenNames _ s2 s3
  have h2 : Guarded a s2.1 := guarded_bootChoice (guarded_countBoot h)
  clear_value s2
  have h3 : Guarded a s3 := h2
  clear_value s3
  refine guardedRes_ite (guardedRes_next (guarded_setFld h3 (by decide))) ?_
  extract_lets +onlyGivenNames s4
  have h4 : Guarded a s4 := guarded_setFld h3 (by decide)
  clear_value s4
  exact guardedRes_next (guarded_resetDone (guarded_settle (guarded_setOwn (guarded_setOwn h4))))

theorem Guarded.perst {a s : State} {b : Bool} (h : Guarded a s) : Guarded a { s with perst := b } := h

theorem guarded_execHstPerstLAssert {a s : State} (h : Guarded a s) : GuardedRes a (execHstPerstLAssert s) := by
  unfold execHstPerstLAssert
  extract_lets +onlyGivenNames s1
  have h1 : Guarded a s1 := h
  refine guardedRes_ite (guardedRes_next ?_) (guardedRes_ite (guardedRes_next (guarded_deviceReset h1)) (guardedRes_next h1))
  exact Guarded.perst (guarded_powerOn (guarded_endLadder h1))

theorem guarded_execHstPerstLRelease {a s : State} (h : Guarded a s) : GuardedRes a (execHstPerstLRelease s) := by
  unfold execHstPerstLRelease
  refine guardedRes_ite (guardedRes_next h) ?_
  extract_lets +onlyGivenNames s1
  have h1 : Guarded a s1 := h
  exact guardedRes_next (guarded_ite (guarded_resetDone h1) h1)

/-- The management link's own registers, set back, are not SC_STATUS. -/
theorem guarded_mgtRegs {a s : State} (h : Guarded a s) :
    GuardedAt a s.pending (s.regs.filter fun e => (regRow e.1.name).blk ≠ .mcf) :=
  h.filter (fun k => decide ((regRow k.name).blk ≠ .mcf)) (by decide)

theorem guarded_execMgtPerstLAssert {a s : State} (h : Guarded a s) : GuardedRes a (execMgtPerstLAssert s) := by
  unfold execMgtPerstLAssert
  extract_lets +onlyGivenNames s1
  have h1 : Guarded a s1 := guarded_mgtRegs h
  clear_value s1
  exact guardedRes_ite (guardedRes_next (guarded_settle (guarded_setOwn (guarded_settle (guarded_setOwn h1)))))
    (guardedRes_next h1)

theorem guarded_readyNow {a s old : State} (h : Guarded a s) : Guarded a (State.readyNow s old) := by
  unfold State.readyNow
  exact guarded_ite h h

theorem guarded_noteReady {a s old : State} (h : Guarded a s) : Guarded a (State.noteReady s old) := by
  unfold State.noteReady
  extract_lets +onlyGivenNames _ s2
  have h2 : Guarded a s2 := guarded_readyNow h
  clear_value s2
  exact guarded_ite (guarded_setFld h2 (by decide)) h2

theorem guarded_execZenithReady {a s : State} (h : Guarded a s) : GuardedRes a (execZenithReady s) := by
  unfold execZenithReady
  refine guardedRes_ite (guardedRes_next h) ?_
  extract_lets +onlyGivenNames s1
  have h1 : Guarded a s1 := guarded_noteReady (guarded_showSpace (guarded_settle (guarded_setOwn h)))
  clear_value s1
  refine guardedRes_ite (guardedRes_next h1) ?_
  extract_lets +onlyGivenNames _ _ _ _ _ s7 s8
  have h7 : Guarded a s7 := guarded_setFld_status (guarded_setFld_status h1 (by decide) (by decide) (by decide))
    (by decide) (by decide) (by decide)
  clear_value s7
  have h8 : Guarded a s8 := guarded_lifeSave (guarded_raise h7)
  clear_value s8
  exact guardedRes_next (guarded_showSc h8).upd

/-- A fuse blown: the fused level is one more. -/
theorem guarded_fuseBlown {a s : State} (h : Guarded a s) (room : s.fused < 64) :
    Guarded a (s.setFld (rk .SC_STATUS) 6 7 (s.fused + 1)) := by
  obtain ⟨queue, lock, level⟩ := h
  have value : scWord (s.setFld (rk .SC_STATUS) 6 7 (s.fused + 1)).regs =
      (setBits (s.reg (rk .SC_STATUS)) 6 7 (s.fused + 1)).toNat := by
    simp [State.setFld, State.setReg, scWord_regPut]
  refine ⟨queue, fun locked => ?_, ?_⟩
  · rw [value, bitsOf_setBits_other _ _ _ _ _ _ (by decide) (by decide)]
    exact lock locked
  · rw [value, bitsOf_setBits_same _ _ _ _ (by decide), Nat.mod_eq_of_lt (by omega)]
    exact level.trans (Nat.le_succ _)

theorem guarded_blowFuse {a s : State} (h : Guarded a s) : Guarded a s.blowFuse := by
  unfold State.blowFuse
  split
  · exact h
  · extract_lets +onlyGivenNames lv t
    refine guarded_ite h ?_
    split
    · exact h
    · next short =>
      have room : s.fused < 64 := by
        have : lv ≤ 64 := Nat.min_le_right _ _
        omega
      have ht : Guarded a t := guarded_showSc (guarded_fuseBlown h room)
      exact guarded_ite ht (guarded_raise ht.upd)

theorem guarded_execFwTrialTimeout {a s : State} (h : Guarded a s) : GuardedRes a (execFwTrialTimeout s) := by
  unfold execFwTrialTimeout
  exact guardedRes_ite (guardedRes_next (guarded_settle (guarded_recover (guarded_rollback h)))) (guardedRes_next h)

theorem guarded_execStackTrained {a s : State} {stack : ℕ} (h : Guarded a s) :
    GuardedRes a (execStackTrained stack s) := by
  unfold execStackTrained
  exact guardedRes_ite (guardedRes_next (guarded_noteReady (guarded_showSpace (guarded_settle (guarded_setOwn h)))))
      (guardedRes_next h)

theorem guarded_execStackTrainingTimeout {a s : State} {stack element : ℕ} (h : Guarded a s) :
    GuardedRes a (execStackTrainingTimeout stack element s) := by
  unfold execStackTrainingTimeout
  refine guardedRes_ite ?_ (guardedRes_next h)
  extract_lets +onlyGivenNames _ s2
  have h2 : Guarded a s2 := guarded_setFld (guarded_setOwn h) (by decide)
  clear_value s2
  exact guardedRes_next (guarded_noteReady (guarded_raise h2))

theorem guarded_beginWait {a s : State} {t : ℕ} (h : Guarded a s) : Guarded a (State.beginWait s t) := by
  unfold State.beginWait
  extract_lets +onlyGivenNames s1
  have h1 : Guarded a s1 := h
  clear_value s1
  exact guarded_ite (guarded_raise h1) h1

theorem guarded_bistOne {a s : State} {t : ℕ} {failed : List (ℕ × ℕ)} (h : Guarded a s) :
    Guarded a (State.bistOne s t failed) := by
  unfold State.bistOne
  extract_lets +onlyGivenNames _ s2 s3
  have h2 : Guarded a s2 := guarded_setFld h (by decide)
  clear_value s2
  have h3 : Guarded a s3 := h2
  clear_value s3
  dsimp only
  split
  · exact guarded_ite (guarded_beginWait (guarded_mapAdd (guarded_raise (guarded_setFld h3 (by decide))))) (guarded_raise
        (guarded_setFld h3 (by decide)))
  · exact guarded_ite h3 (guarded_setTerrace h3)

theorem guarded_execBistWaveEnd {a s : State} {failed : List (ℕ × ℕ)} (h : Guarded a s) :
    GuardedRes a (execBistWaveEnd failed s) := by
  unfold execBistWaveEnd
  refine guardedRes_ite (guardedRes_next h) ?_
  extract_lets +onlyGivenNames _
  exact guardedRes_next (guarded_noteReady (guarded_settle (guarded_foldl h (fun s x h => guarded_bistOne h))))

theorem guarded_clearInternal {a s : State} (h : Guarded a s) : Guarded a (State.clearInternal s) := by
  unfold State.clearInternal
  exact h

theorem guarded_computeBasin {a s : State} {u : ℕ} (h : Guarded a s) : Guarded a (State.computeBasin s u) := by
  unfold State.computeBasin
  extract_lets +onlyGivenNames s1
  have h1 : Guarded a s1 := guarded_foldl h (fun s x h => guarded_ite h (guarded_setFld h (by decide)))
  clear_value s1
  exact guarded_foldl h1 (fun s x h => guarded_show h (by decide))

theorem guarded_computeJet {a s : State} {u : ℕ} (h : Guarded a s) : Guarded a (State.computeJet s u) := by
  unfold State.computeJet
  extract_lets +onlyGivenNames _
  exact guarded_ite h (guarded_ite (guarded_setFld h (by decide)) (guarded_setFld h (by decide)))

theorem guarded_computeEngine {a s : State} {u : ℕ} (h : Guarded a s) : Guarded a (State.computeEngine s u) := by
  unfold State.computeEngine
  extract_lets +onlyGivenNames _
  exact guarded_ite h (guarded_ite (guarded_setFld h (by decide)) (guarded_setFld h (by decide)))

theorem guarded_computeReset {a s : State} (h : Guarded a s) : Guarded a (State.computeReset s) := by
  unfold State.computeReset
  extract_lets +onlyGivenNames s1 s2 s3 _ s5 s6 s7 s8 s9
  have h1 : Guarded a s1 := h
  clear_value s1
  have h2 : Guarded a s2 := guarded_bump (guarded_settle h1) (by decide)
  clear_value s2
  have h3 : Guarded a s3 := guarded_flushed h2
  clear_value s3
  have h5 : Guarded a s5 := guarded_foldl h3 (fun s x h => guarded_endJob (guarded_giveBack h))
  clear_value s5
  have h6 : Guarded a s6 := h5
  clear_value s6
  have h7 : Guarded a s7 := guarded_foldl h6 (fun s x h => guarded_show h (by decide))
  clear_value s7
  have h8 : Guarded a s8 := guarded_foldl h7 (fun s x h => guarded_computeBasin h)
  clear_value s8
  have h9 : Guarded a s9 := guarded_foldl h8 (fun s x h => guarded_computeJet h)
  clear_value s9
  exact guarded_clearInternal (guarded_foldl h9 (fun s x h => guarded_computeEngine h))

theorem guarded_execComputeReset {a s : State} {value : BitVec 32} (h : Guarded a s) :
    GuardedRes a (execComputeReset value s) := by
  unfold execComputeReset
  exact guardedRes_ite (guardedRes_next (guarded_computeReset h)) (guardedRes_next h)

theorem guarded_showSlot {a s : State} (h : Guarded a s) : Guarded a (State.showSlot s) := by
  unfold State.showSlot
  extract_lets +onlyGivenNames _
  exact guarded_setReg h (by decide)

theorem guarded_frameStart {a s : State} {old : ℕ} (h : Guarded a s) : Guarded a (State.frameStart s old) := by
  unfold State.frameStart
  extract_lets +onlyGivenNames _
  exact guarded_ite h h

theorem guarded_radioNs {a s : State} (h : Guarded a s) : Guarded a (State.radioNs s) := by
  unfold State.radioNs
  refine guarded_ite ?_ h
  extract_lets +onlyGivenNames _ _
  exact guarded_showSlot (guarded_frameStart (guarded_setReg h (by decide)))

theorem guarded_basinCycle {a s : State} {q : ℕ} (h : Guarded a s) : Guarded a (State.basinCycle s q) := by
  unfold State.basinCycle
  extract_lets +onlyGivenNames _ _ _ s4 _
  have h4 : Guarded a s4 := guarded_ite (guarded_bump h (by decide)) h
  clear_value s4
  refine guarded_ite (guarded_markBasin (guarded_bump (guarded_setFld h4 (by decide)) (by decide))) ?_
  extract_lets +onlyGivenNames s6
  have h6 : Guarded a s6 := h4
  clear_value s6
  exact guarded_ite (guarded_bump (guarded_setFld h6 (by decide)) (by decide)) (guarded_setReg h6 (by decide))

theorem guarded_throttleCycle {a s : State} (h : Guarded a s) : Guarded a (State.throttleCycle s) := by
  unfold State.throttleCycle
  exact guarded_foldl h (fun s x h => guarded_ite (guarded_bump h (by decide)) h)

theorem guarded_clockTick {a s : State} (h : Guarded a s) : Guarded a s.clockTick := by
  unfold State.clockTick
  extract_lets +onlyGivenNames s1 s2 s3
  have h1 : Guarded a s1 := h
  have h2 : Guarded a s2 := guarded_ite (guarded_blowFuse (guarded_radioNs h1)) h1
  have h3 : Guarded a s3 := guarded_ite (guarded_throttleCycle h2) h2
  exact guarded_ite (guarded_foldl h3 fun _ _ h => guarded_basinCycle h) h3

theorem guarded_countLoad {a s : State} {j : Job} {x : ℕ} {t : LoadedTile} (h : Guarded a s) :
    Guarded a (State.countLoad s j x t) := by
  unfold State.countLoad
  extract_lets +onlyGivenNames _ _
  exact guarded_bump (guarded_bump h (by decide)) (by decide)

theorem guarded_countS24 {a s : State} {x : ℕ} {t : LoadedTile} (h : Guarded a s) : Guarded a (State.countS24 s x t) := by
  unfold State.countS24
  exact guarded_ite (guarded_bump h (by decide)) h

theorem guarded_upset {a s : State} {q : ℕ} {errs : List (ℕ × Bool)} (h : Guarded a s) :
    Guarded a (State.upset s q errs) := by
  unfold State.upset
  exact guarded_foldl h (fun s x h => h)

theorem guarded_loadOn {a s : State} {x : ℕ} {l : TileLoad} {rest : List TileLoad} (h : Guarded a s) :
    Guarded a (State.loadOn s x l rest) := by
  unfold State.loadOn
  refine guarded_whenJob h (fun j => ?_)
  dsimp only
  split
  · rename_i e3
    exact guarded_failJob (Guarded.of_eq e3 (guarded_readSpans h))
  · rename_i e2
    exact guarded_putSets (guarded_countLoad (Guarded.of_eq e2 (guarded_readSpans h)))

theorem guarded_loadOnEngine {a s : State} {e : ℕ} {sp : EngSpan} (h : Guarded a s) :
    Guarded a (State.loadOnEngine s e sp) := by
  unfold State.loadOnEngine
  dsimp only
  split
  · exact h
  · refine guarded_whenJob h (fun j => ?_)
    split
    · rename_i e6
      exact guarded_failJob (Guarded.of_eq e6 (guarded_readSpans h))
    · rename_i e5
      exact guarded_feed (guarded_putStores (Guarded.of_eq e5 (guarded_readSpans h)))

theorem guarded_execWeightTileLoaded {a s : State} {unit : ℕ} {errs : List (ℕ × Bool)} {stalls : ℕ} (h : Guarded a s) :
    GuardedRes a (execWeightTileLoaded unit errs stalls s) := by
  unfold execWeightTileLoaded
  refine guardedRes_ite ?_ ?_
  · extract_lets +onlyGivenNames s1
    have h1 : Guarded a s1 := guarded_feed h
    clear_value s1
    split
    · exact guardedRes_ite (guardedRes_next (guarded_loadOn (guarded_stall (guarded_upset h1)))) (guardedRes_next h1)
    · exact guardedRes_next h1
  · extract_lets +onlyGivenNames _ s2
    have h2 : Guarded a s2 := guarded_feed (guarded_feed h)
    clear_value s2
    split
    · exact guardedRes_ite (guardedRes_next h2) (guardedRes_next (guarded_loadOnEngine (guarded_stall (guarded_upset h2))))
    · exact guardedRes_next h2

theorem guarded_formSums {a s : State} {j : Job} {x : ℕ} {t : LoadedTile} (h : Guarded a s) :
    Guarded a (State.formSums s j x t).1 := by
  unfold State.formSums
  dsimp only
  split
  · exact guarded_addTile (guarded_modJob h)
  · exact guarded_runKeys h
  · exact guarded_runValues h
  · exact guarded_ite_fst (guarded_putJob (guarded_dotTile h)) h

theorem guarded_swapIn {a s : State} {x : ℕ} {t : LoadedTile} {tB wait : ℕ} (h : Guarded a s) :
    Guarded a (State.swapIn s x t tB wait) := by
  unfold State.swapIn
  extract_lets +onlyGivenNames _ s2 s3 _ s5 s6 _ _ s9
  have h2 : Guarded a s2 := guarded_ite (guarded_bump h (by decide)) h
  clear_value s2
  have h3 : Guarded a s3 := guarded_retire h2
  clear_value s3
  have h5 : Guarded a s5 := guarded_ite (guarded_countS24 h3) h3
  clear_value s5
  have h6 : Guarded a s6 := guarded_setReg h5 (by decide)
  clear_value s6
  have h9 : Guarded a s9 := guarded_quiet (guarded_putSets h6)
  clear_value s9
  refine guarded_ite h9 (guarded_whenJob h9 (fun j => ?_))
  split
  · rename_i e2
    exact Guarded.of_eq e2 (guarded_formSums h9)
  · rename_i e3
    exact guarded_whenJob (Guarded.of_eq e3 (guarded_formSums h9)) (fun j => guarded_failJob (Guarded.of_eq e3
        (guarded_formSums h9)))

theorem guarded_idleRows {a s : State} {y tB : ℕ} {l : TileLoad} (h : Guarded a s) :
    Guarded a (State.idleRows s y tB l) := by
  unfold State.idleRows
  extract_lets +onlyGivenNames s1 _ s3 _ gate
  have h1 : Guarded a s1 := guarded_retire h
  clear_value s1
  have h3 : Guarded a s3 := by
    unfold s3
    split
    · exact guarded_putSets h1
    · exact h1
  clear_value s3
  have hgate : ∀ n, Guarded a (gate n) := fun _ => guarded_bump (guarded_bump h3 (by decide)) (by decide)
  refine guarded_ite h3 ?_
  split
  · exact h3
  · refine guarded_ite (hgate _) ?_
    extract_lets +onlyGivenNames _
    split
    · exact h3
    · exact guarded_ite h3 (hgate _)

theorem guarded_afterDot {a s : State} {jid : ℕ} (h : Guarded a s) : Guarded a (State.afterDot s jid) := by
  unfold State.afterDot
  refine guarded_whenJob h (fun j => guarded_succeed (guarded_foldl h (fun s x h => ?_)))
  split
  · exact guarded_ite (guarded_retire h) h
  · exact h

theorem guarded_swapJets {a s : State} {xs : List ℕ} {l : TileLoad} {waits : List ℕ} (h : Guarded a s) :
    Guarded a (State.swapJets s xs l waits) := by
  unfold State.swapJets
  extract_lets +onlyGivenNames _ _ _ s4
  have h4 : Guarded a s4 := by
    refine guarded_foldl h (fun s x h => ?_)
    split
    · exact guarded_swapIn h
    · exact guarded_idleRows h
  clear_value s4
  exact guarded_afterDot (guarded_afterSwap (guarded_foldl h4 (fun s x h => guarded_feed h)))

theorem guarded_execSwap {a s : State} {unit : ℕ} {w : SwapWait} (h : Guarded a s) :
    GuardedRes a (execSwap unit w s) := by
  unfold execSwap
  refine guardedRes_ite ?_ ?_
  · dsimp only
    split
    · exact guardedRes_next h
    · exact guardedRes_ite (guardedRes_next (guarded_swapJets (guarded_upsetAcc (guarded_stall h)))) (guardedRes_next h)
  · extract_lets +onlyGivenNames _
    dsimp only
    split
    · exact guardedRes_next h
    · refine guardedRes_ite (guardedRes_next ?_) (guardedRes_next h)
      split
      · exact guarded_putStores (guarded_endSpan (guarded_upsetAcc (guarded_stall h)))
      · refine guarded_whenJob (guarded_putStores (guarded_endSpan (guarded_upsetAcc (guarded_stall h)))) (fun j => ?_)
        split
        · rename_i e8
          exact guarded_whenJob (Guarded.of_eq e8 (guarded_addSpan (guarded_putStores (guarded_endSpan (guarded_upsetAcc
              (guarded_stall h)))))) (fun j => guarded_failJob (Guarded.of_eq e8 (guarded_addSpan (guarded_putStores
              (guarded_endSpan (guarded_upsetAcc (guarded_stall h)))))))
        · rename_i e7
          exact guarded_afterSwap (guarded_feed (Guarded.of_eq e7 (guarded_addSpan (guarded_putStores (guarded_endSpan
              (guarded_upsetAcc (guarded_stall h)))))))

theorem guarded_execGroupDrain {a s : State} {r : DrainRun} (h : Guarded a s) : GuardedRes a (execGroupDrain r s) := by
  unfold execGroupDrain
  extract_lets +onlyGivenNames s1
  have h1 : Guarded a s1 := by
    unfold s1 Option.elim
    split
    · exact guarded_ite (guarded_feedAll h) h
    · exact h
  clear_value s1
  refine guardedRes_next (guarded_whenJob h1 (fun j => ?_))
  extract_lets +onlyGivenNames s2
  have h2 : Guarded a s2 := guarded_upsetAcc (guarded_stall h1)
  clear_value s2
  exact guarded_ite (guarded_tryDrain h2) (guarded_ite (guarded_nodeStep h2) (guarded_ite (guarded_fusedStep h2)
    (guarded_ite (guarded_forecastStep h2) (guarded_hazeStep h2))))

theorem guarded_preemptJet {a s : State} {x n : ℕ} (h : Guarded a s) : Guarded a (State.preemptJet s x n) := by
  unfold State.preemptJet
  extract_lets +onlyGivenNames _ _ cut _
  have hcut : Guarded a cut.2 := by
    unfold cut
    split
    · split
      · exact guarded_bump (guarded_bump (guarded_runRows h) (by decide)) (by decide)
      · exact h
    · exact h
  clear_value cut
  exact guarded_putSets hcut

theorem guarded_radioFirst {a s : State} {x : ℕ} (h : Guarded a s) : Guarded a (State.radioFirst s x) := by
  unfold State.radioFirst
  extract_lets +onlyGivenNames s1 _ _
  have h1 : Guarded a s1 := guarded_ite (guarded_setFld h (by decide)) h
  clear_value s1
  exact guarded_putSets h1

theorem guarded_execPreemption {a s : State} {jid : ℕ} {i : Interrupt} (h : Guarded a s) :
    GuardedRes a (execPreemption jid i s) := by
  unfold execPreemption
  refine guardedRes_next (guarded_whenJob h (fun j => ?_))
  extract_lets +onlyGivenNames _ _ _ _ _ s6 s7 s8 s9
  have h6 : Guarded a s6 := guarded_setFld h (by decide)
  clear_value s6
  have h7 : Guarded a s7 := guarded_ite h6 (guarded_bump h6 (by decide))
  clear_value s7
  have h8 : Guarded a s8 := guarded_foldl h7 (fun s x h => guarded_preemptJet h)
  clear_value s8
  have h9 : Guarded a s9 := guarded_foldl h8 (fun s x h => guarded_feed (guarded_radioFirst h))
  clear_value s9
  exact h9

theorem guarded_unitFault {a s : State} {j : Job} {unit : ℕ} (h : Guarded a s) :
    Guarded a (State.unitFault s j unit) := by
  unfold State.unitFault
  extract_lets +onlyGivenNames s1 _ s3
  have h1 : Guarded a s1 := guarded_bump h (by decide)
  clear_value s1
  have h3 : Guarded a s3 := h1
  clear_value s3
  exact guarded_failJob (guarded_raise h3)

theorem guarded_unitFaults {a s : State} {js : List ℕ} {unit : ℕ} (h : Guarded a s) :
    Guarded a (State.unitFaults s js unit) := by
  unfold State.unitFaults
  exact guarded_foldl h (fun s x h => guarded_whenJob h (fun j => guarded_unitFault h))

theorem guarded_reopen {a s : State} {x gid : ℕ} (h : Guarded a s) : Guarded a (State.reopen s x gid) := by
  unfold State.reopen
  split
  · exact h
  · exact guarded_openOn h

theorem guarded_replayTile {a s : State} {j : Job} {x : ℕ} {l : TileLoad} (h : Guarded a s) :
    Guarded a (State.replayTile s j x l).1 := by
  unfold State.replayTile
  dsimp only
  split
  · rename_i e3
    exact Guarded.of_eq e3 (guarded_readSpans h)
  · rename_i e2
    exact guarded_addTile (guarded_runRows (guarded_countS24 (guarded_countLoad (Guarded.of_eq e2 (guarded_readSpans h)))))

theorem guarded_replayOnEngine {a s : State} {j : Job} {x e : ℕ} {sp : List TileLoad} (h : Guarded a s) :
    Guarded a (State.replayOnEngine s j x e sp).1 := by
  unfold State.replayOnEngine
  split
  · rename_i e3
    exact Guarded.of_eq e3 (guarded_readSpans h)
  · rename_i e2
    exact guarded_addSpan (guarded_bump (Guarded.of_eq e2 (guarded_readSpans h)) (by decide))

theorem guarded_replayTiles {a s : State} {j : Job} {x : ℕ} {ls : List TileLoad} (h : Guarded a s) :
    Guarded a (State.replayTiles s j x ls).1 := by
  induction ls generalizing s with
  | nil => exact h
  | cons l r ih =>
    unfold State.replayTiles
    split
    · rename_i e
      exact Guarded.of_eq e (guarded_replayTile h)
    · rename_i e
      exact ih (Guarded.of_eq e (guarded_replayTile h))

theorem guarded_replaySpans {a s : State} {j : Job} {x : ℕ} {ls : List (List TileLoad)} (h : Guarded a s) :
    Guarded a (State.replaySpans s j x ls).1 := by
  induction ls generalizing s with
  | nil => exact h
  | cons sp r ih =>
    unfold State.replaySpans
    have one : Guarded a (match s.chooseEngine j x sp, engineOf x with
      | .engine, some e => s.replayOnEngine j x e sp
      | _, _ => s.replayTiles j x (s.mergeS24 j sp)).1 := by
      split
      · exact guarded_replayOnEngine h
      · exact guarded_replayTiles h
    split
    · rename_i e
      exact Guarded.of_eq e one
    · rename_i e
      exact ih (Guarded.of_eq e one)

theorem guarded_replayEntry {a s : State} {xs : List ℕ} {unit : ℕ} {e : Entry} (h : Guarded a s) :
    Guarded a (State.replayEntry s xs unit e).1 := by
  unfold State.replayEntry
  dsimp only
  refine guarded_ite_fst h ?_
  split
  · rename_i e4
    exact Guarded.of_eq e4 (guarded_readBooks h)
  · rename_i e3
    exact (guarded_scan (Guarded.of_eq e3 (guarded_readBooks h)) (fun r x h => guarded_ite_fst h (guarded_replaySpans h))).upd

theorem guarded_replayEntries {a s : State} {xs : List ℕ} {unit : ℕ} {es : List Entry} (h : Guarded a s) :
    Guarded a (State.replayEntries s xs unit es).1 := by
  induction es generalizing s with
  | nil => exact h
  | cons l r ih =>
    unfold State.replayEntries
    split
    · rename_i e
      exact Guarded.of_eq e (guarded_replayEntry h)
    · rename_i e
      exact ih (Guarded.of_eq e (guarded_replayEntry h))

theorem guarded_strip {a s : State} {xs : List ℕ} {jid : ℕ} (h : Guarded a s) : Guarded a (State.strip s xs jid) := by
  unfold State.strip
  refine guarded_foldl h (fun s x h => ?_)
  extract_lets +onlyGivenNames s1
  have h1 : Guarded a s1 := guarded_quiet (guarded_putSets h)
  clear_value s1
  dsimp only
  split
  · exact h1
  · exact guarded_putStores h1

theorem guarded_restart {a s : State} {j : Job} {xs : List ℕ} (h : Guarded a s) : Guarded a (State.restart s j xs) := by
  unfold State.restart
  extract_lets +onlyGivenNames _ _ s3
  have h3 : Guarded a s3 := guarded_strip (guarded_putJob h)
  clear_value s3
  exact guarded_afterSwap (guarded_foldl h3 (fun s x h => guarded_feed h))

theorem guarded_rerun {a s : State} {j : Job} {xs : List ℕ} (h : Guarded a s) : Guarded a (State.rerun s j xs) := by
  unfold State.rerun
  refine guarded_ite (guarded_restart h) ?_
  extract_lets +onlyGivenNames s1
  have h1 : Guarded a s1 := guarded_unload h
  clear_value s1
  exact guarded_ite (guarded_startFused h1) (guarded_ite (guarded_startForecast h1) (guarded_ite (guarded_startHaze h1)
      (guarded_putJob h1)))

theorem guarded_replayGroup {a s : State} {x gid : ℕ} (h : Guarded a s) : Guarded a (State.replayGroup s x gid) := by
  unfold State.replayGroup
  dsimp only
  split
  · exact h
  · refine guarded_ite (guarded_foldl ?_ (fun s x h => guarded_shut h)) ?_
    · split
      · exact guarded_unitFault h
      · exact h
    · split
      · rename_i e7 _
        exact guarded_failJob (Guarded.of_eq e7 (guarded_replayEntries (guarded_foldl h (fun s x h => guarded_reopen h))))
      · rename_i e6 _
        exact guarded_foldl (Guarded.of_eq e6 (guarded_replayEntries (guarded_foldl h (fun s x h => guarded_reopen h)))) (fun
            s x h => guarded_shut h)
      · rename_i e6 _
        exact guarded_rerun (Guarded.of_eq e6 (guarded_replayEntries (guarded_foldl h (fun s x h => guarded_reopen h))))
      · rename_i e5 _
        exact Guarded.of_eq e5 (guarded_replayEntries (guarded_foldl h (fun s x h => guarded_reopen h)))

theorem guarded_redoDot {a s : State} {x : ℕ} {j : Job} (h : Guarded a s) : Guarded a (State.redoDot s x j) := by
  unfold State.redoDot
  extract_lets +onlyGivenNames _
  dsimp only
  split
  · exact h
  · exact guarded_putSets (guarded_putJob h)

theorem guarded_replayOnce {a s : State} {x cause : ℕ} (h : Guarded a s) : Guarded a (State.replayOnce s x cause) := by
  unfold State.replayOnce
  extract_lets +onlyGivenNames _ _ dot _ _ s1 s2 _ s3 s4
  have h1 : Guarded a s1 := guarded_foldl h fun _ _ h => guarded_replayGroup h
  clear_value s1
  have h2 : Guarded a s2 := by
    unfold s2 Option.elim
    split
    · exact guarded_redoDot h1
    · exact h1
  clear_value s2
  refine guarded_ite h2 ?_
  have h3 : Guarded a s3 := h2
  have h4 : Guarded a s4 := guarded_bump (guarded_bump h3 (by decide)) (by decide)
  exact guarded_raise h4

theorem guarded_replay {a s : State} {x cause : ℕ} (h : Guarded a s) : Guarded a (State.replay s x cause) := by
  unfold State.replay
  extract_lets +onlyGivenNames _ s2 _
  have h2 : Guarded a s2 := h
  clear_value s2
  exact guarded_foldl (guarded_replayOnce h2) (fun s x h => guarded_ite (guarded_replayOnce h) h)

theorem guarded_endUnreplayed {a s : State} {unit : ℕ} {on : Job → Bool} (h : Guarded a s) :
    Guarded a (State.endUnreplayed s unit on) := by
  unfold State.endUnreplayed
  exact guarded_unitFaults h

theorem guarded_clearTerrace {a s : State} {t : ℕ} (h : Guarded a s) : Guarded a (State.clearTerrace s t) := by
  unfold State.clearTerrace
  extract_lets +onlyGivenNames _ s2 _ s4
  have h2 : Guarded a s2 := h
  clear_value s2
  have h4 : Guarded a s4 := guarded_foldl h2 (fun s x h => guarded_quiet (guarded_showJet h))
  clear_value s4
  exact guarded_foldl h4 (fun s x h => guarded_showEngine h)

theorem guarded_dropSamples {a s : State} {t : ℕ} (h : Guarded a s) : Guarded a (State.dropSamples s t) := by
  unfold State.dropSamples
  extract_lets +onlyGivenNames _
  refine guarded_ite h ?_
  extract_lets +onlyGivenNames s2
  have h2 : Guarded a s2 := guarded_foldl h (fun s x h => guarded_ite (guarded_bump h (by decide)) (guarded_ite (guarded_bump
      h (by decide)) h))
  clear_value s2
  refine guarded_show ?_ (by decide)
  extract_lets +onlyGivenNames s3
  have h3 : Guarded a s3 := guarded_bump h2 (by decide)
  clear_value s3
  exact h3

theorem guarded_startFailover {a s : State} {t : ℕ} (h : Guarded a s) : Guarded a (State.startFailover s t) := by
  unfold State.startFailover
  extract_lets +onlyGivenNames s1 s2 _ s4
  have h1 : Guarded a s1 := guarded_setTerrace (guarded_mapAdd h)
  clear_value s1
  have h2 : Guarded a s2 := guarded_flushed (guarded_dropSamples h1)
  clear_value s2
  have h4 : Guarded a s4 := guarded_clearTerrace h2
  clear_value s4
  refine guarded_ite (guarded_settle (guarded_unitFaults h4)) ?_
  extract_lets +onlyGivenNames s5
  have h5 : Guarded a s5 := guarded_refreshReady h4
  clear_value s5
  refine guarded_ite ?_ ?_
  · extract_lets +onlyGivenNames s6
    have h6 : Guarded a s6 := guarded_foldl h5 (fun s x h => guarded_putJob (guarded_giveBack h))
    clear_value s6
    exact guarded_settle h6
  · extract_lets +onlyGivenNames s6
    have h6 : Guarded a s6 := guarded_beginWait h5
    clear_value s6
    exact guarded_settle (guarded_unitFaults h6)

theorem guarded_readList {a s : State} {t : ℕ} (h : Guarded a s) : Guarded a (State.readList s t).1 := by
  unfold State.readList
  dsimp only
  exact guarded_ite_fst h (guarded_readSpans h)

theorem guarded_provide {a s : State} {t : ℕ} {e : Provision} (h : Guarded a s) : Guarded a (State.provide s t e) := by
  unfold State.provide
  extract_lets +onlyGivenNames _ _ s3
  have h3 : Guarded a s3 := guarded_readSpan h
  clear_value s3
  exact h3

theorem guarded_copyBasin {a s : State} {u v : ℕ} {full : ℕ → Bool} (h : Guarded a s) :
    Guarded a (State.copyBasin s u v full) := by
  unfold State.copyBasin
  extract_lets +onlyGivenNames s1 s2
  have h1 : Guarded a s1 := guarded_foldl h (fun s x h => guarded_show h (by decide))
  clear_value s1
  have h2 : Guarded a s2 := by
    refine guarded_foldl h1 (fun s x h => ?_)
    extract_lets +onlyGivenNames _ _
    exact guarded_show h (by decide)
  clear_value s2
  exact guarded_show h2 (by decide)

theorem guarded_endFailover {a s : State} {t r us : ℕ} (h : Guarded a s) : Guarded a (State.endFailover s t r us) := by
  unfold State.endFailover
  extract_lets +onlyGivenNames old _ s3 _ _ s6 s7 s8 s9 s10 s11 _ s13 s14 s15 _ s17 s18 s19
  have h3 : Guarded a s3.1 := guarded_readList h
  clear_value s3
  have h6 : Guarded a s6 := h3
  clear_value s6
  have h7 : Guarded a s7 := h6
  clear_value s7
  have h8 : Guarded a s8 := guarded_foldl h7 (fun s x h => guarded_provide h)
  clear_value s8
  have h9 : Guarded a s9 := guarded_foldl h8 (fun s x h => guarded_copyBasin h)
  clear_value s9
  have h10 : Guarded a s10 := guarded_foldl h9 (fun s x h => guarded_show h (by decide))
  clear_value s10
  have h11 : Guarded a s11 := guarded_show h10 (by decide)
  clear_value s11
  have h13 : Guarded a s13 := h11.filter (fun k => !unitOfTerrace old k || k.name.unitCounter) rfl
  clear_value s13
  have h14 : Guarded a s14 := guarded_ite (guarded_setHolder h13) h13
  clear_value s14
  have h15 : Guarded a s15 := guarded_bump (guarded_foldl (guarded_showIds (guarded_showIds h14)) (fun s x h =>
      guarded_showColumns (guarded_showColumns h))) (by decide)
  clear_value s15
  have h17 : Guarded a s17 := h15
  clear_value s17
  have h18 : Guarded a s18 := guarded_unitFaults h17
  clear_value s18
  have h19 : Guarded a s19 := guarded_settle (guarded_setTerrace h18)
  clear_value s19
  exact guarded_raise h19

theorem guarded_execFailoverDone {a s : State} {terrace us : ℕ} (h : Guarded a s) :
    GuardedRes a (execFailoverDone terrace us s) := by
  unfold execFailoverDone
  split
  · exact guardedRes_ite (guardedRes_next h) (guardedRes_next (guarded_endFailover h))
  · exact guardedRes_next h

theorem guarded_reloadSets {a s : State} {x : ℕ} (h : Guarded a s) : Guarded a (State.reloadSets s x) := by
  unfold State.reloadSets
  extract_lets +onlyGivenNames _
  split
  · exact h
  · exact guarded_putSets h

theorem guarded_spareJet {a s : State} {x cause : ℕ} (h : Guarded a s) : Guarded a (State.spareJet s x cause) := by
  unfold State.spareJet
  extract_lets +onlyGivenNames _ u _
  refine guarded_ite (guarded_startFailover h) ?_
  extract_lets +onlyGivenNames s4 s5 s6 _ s8 s9 s10 s11
  have h4 : Guarded a s4 := guarded_ite (guarded_unitFaults h) h
  clear_value s4
  have h5 : Guarded a s5 := guarded_setHolder (guarded_dropSamples h4)
  clear_value s5
  have h6 : Guarded a s6 := guarded_bump (guarded_mapAdd h5) (by decide)
  clear_value s6
  have h8 : Guarded a s8 := h6.filter (fun k => !((regRow k.name).blk = Blk.jt && k.unit = u && !k.name.unitCounter)) rfl
  clear_value s8
  have h9 : Guarded a s9 := guarded_flushed (guarded_showIds h8)
  clear_value s9
  have h10 : Guarded a s10 := guarded_raise h9
  clear_value s10
  have h11 : Guarded a s11 := guarded_endUnreplayed h10
  clear_value s11
  exact guarded_reloadSets (guarded_replay (guarded_settle h11))

theorem guarded_spareColumn {a s : State} {x c : ℕ} (h : Guarded a s) : Guarded a (State.spareColumn s x c) := by
  unfold State.spareColumn
  extract_lets +onlyGivenNames _ _ s3
  have h3 : Guarded a s3 := h
  clear_value s3
  refine guarded_ite (guarded_spareJet (guarded_showColumns h3)) ?_
  extract_lets +onlyGivenNames _ s5 _ s7 s8
  have h5 : Guarded a s5 := guarded_bump (guarded_mapAdd h3) (by decide)
  clear_value s5
  have h7 : Guarded a s7 := h5
  clear_value s7
  have h8 : Guarded a s8 := guarded_raise (guarded_showColumns h7)
  clear_value s8
  exact guarded_replay h8

theorem guarded_execAccumulatorEccError {a s : State} {jet : ℕ} (h : Guarded a s) :
    GuardedRes a (execAccumulatorEccError jet s) := by
  unfold execAccumulatorEccError
  exact guardedRes_ite (guardedRes_next (guarded_spareJet h)) (guardedRes_next h)

theorem guarded_markDense {a s : State} {sp : EngSpan} (h : Guarded a s) : Guarded a (State.markDense s sp) := by
  unfold State.markDense
  split
  · exact h
  · exact guarded_modJob h

theorem guarded_refill {a s : State} {e : ℕ} (h : Guarded a s) : Guarded a (State.refill s e) := by
  unfold State.refill
  extract_lets +onlyGivenNames _
  refine guarded_ite (guarded_putStores h) ?_
  extract_lets +onlyGivenNames s2
  have h2 : Guarded a s2 := guarded_putStores h
  clear_value s2
  refine guarded_foldl h2 (fun s x h => ?_)
  extract_lets +onlyGivenNames _
  exact guarded_putSets h

theorem guarded_spareEngine {a s : State} {e cause : ℕ} (h : Guarded a s) : Guarded a (State.spareEngine s e cause) := by
  unfold State.spareEngine
  extract_lets +onlyGivenNames _ _ _ _ s5 s6 s7 _ s9 s10 s11 s12 s13
  have h5 : Guarded a s5 := guarded_mapAdd h
  clear_value s5
  have h6 : Guarded a s6 := h5
  clear_value s6
  have h7 : Guarded a s7 := guarded_bump h6 (by decide)
  clear_value s7
  have h9 : Guarded a s9 := h7
  clear_value s9
  have h10 : Guarded a s10 := guarded_ite h6 (guarded_raise h9)
  clear_value s10
  have h11 : Guarded a s11 := guarded_flushed (guarded_showIds h10)
  clear_value s11
  have h12 : Guarded a s12 := guarded_foldl h11 (fun s x h => guarded_endUnreplayed h)
  clear_value s12
  have h13 : Guarded a s13 := guarded_foldl (guarded_foldl h12 (fun s x h => guarded_markDense h)) (fun s x h =>
      guarded_refill h)
  clear_value s13
  exact guarded_foldl h13 (fun s x h => guarded_replay h)

theorem guarded_engineFault {a s : State} {e cause : ℕ} (h : Guarded a s) : Guarded a (State.engineFault s e cause) := by
  unfold State.engineFault
  exact guarded_ite (guarded_spareEngine h) h

theorem guarded_execSparseEngineFault {a s : State} {engine : ℕ} (h : Guarded a s) :
    GuardedRes a (execSparseEngineFault engine s) := by
  unfold execSparseEngineFault
  exact guardedRes_next (guarded_engineFault h)

theorem guarded_execResidueMismatch {a s : State} {unit column : ℕ} (h : Guarded a s) :
    GuardedRes a (execResidueMismatch unit column s) := by
  unfold execResidueMismatch
  refine guardedRes_ite ?_ ?_
  · split
    · exact guardedRes_next h
    · exact guardedRes_next (guarded_engineFault (guarded_bump h (by decide)))
  · dsimp only
    split
    · exact guardedRes_next h
    · exact guardedRes_ite (guardedRes_next (guarded_spareColumn (guarded_bump h (by decide)))) (guardedRes_next
          (guarded_replay (guarded_showColumns ((guarded_bump h (by decide)).upd))))

theorem guarded_execProgressFault {a s : State} {unit : ℕ} (h : Guarded a s) :
    GuardedRes a (execProgressFault unit s) := by
  unfold execProgressFault
  split
  · exact guardedRes_ite (guardedRes_next (guarded_spareJet h)) (guardedRes_next h)
  · exact guardedRes_ite (guardedRes_next (guarded_spareJet h)) (guardedRes_next h)
  · exact guardedRes_next (guarded_engineFault h)
  · exact guardedRes_ite (guardedRes_next (guarded_startFailover h)) (guardedRes_next h)
  · exact guardedRes_ite (guardedRes_next (guarded_startFailover h)) (guardedRes_next h)
  · exact guardedRes_next h

theorem guarded_thermalStep {a s : State} {p : ℕ} (h : Guarded a s) : Guarded a (State.thermalStep s p) := by
  unfold State.thermalStep
  extract_lets +onlyGivenNames _ _ _ _ _
  refine guarded_ite h ?_
  extract_lets +onlyGivenNames s6
  have h6 : Guarded a s6 := guarded_setFld h (by decide)
  clear_value s6
  exact guarded_ite (guarded_raise h6) h6

theorem guarded_execTelemetryTick {a s : State} {volts power : ℕ} (h : Guarded a s) :
    GuardedRes a (execTelemetryTick volts power s) := by
  unfold execTelemetryTick
  refine guardedRes_ite (guardedRes_next h) ?_
  extract_lets +onlyGivenNames s1 s2 s3 _ s5 s6 s7 s8 s9 s10
  have h1 : Guarded a s1 := guarded_setReg h (by decide)
  clear_value s1
  have h2 : Guarded a s2 := h1
  clear_value s2
  have h3 : Guarded a s3 := guarded_ite (guarded_bump h2 (by decide)) h2
  clear_value s3
  have h5 : Guarded a s5 := h3
  clear_value s5
  have h6 : Guarded a s6 := guarded_setFld h5 (by decide)
  clear_value s6
  have h7 : Guarded a s7 := guarded_ite (guarded_ite h6 h5) h3
  clear_value s7
  have h8 : Guarded a s8 := guarded_foldl h7 (fun s x h => guarded_thermalStep h)
  clear_value s8
  have h9 : Guarded a s9 := guarded_bump h8 (by decide)
  clear_value s9
  have h10 : Guarded a s10 := guarded_showShares h9
  clear_value s10
  refine guardedRes_next (guarded_foldl h10 (fun s x h => ?_))
  extract_lets +onlyGivenNames _
  exact guarded_show h (by decide)

theorem guarded_stackTemp {a s : State} {st : ℕ} (h : Guarded a s) : Guarded a (State.stackTemp s st) := by
  unfold State.stackTemp
  extract_lets +onlyGivenNames _ _ s3 s4
  have h3 : Guarded a s3 := guarded_show h (by decide)
  clear_value s3
  have h4 : Guarded a s4 := guarded_ite (guarded_setFld h3 (by decide)) (guarded_ite (guarded_setFld h3 (by decide)) h3)
  clear_value s4
  exact guarded_ite (guarded_ite h4 (guarded_raise (guarded_setFld h4 (by decide)))) (guarded_ite (guarded_setFld h4 (by
      decide)) h4)

theorem guarded_excursion {a s : State} (h : Guarded a s) : Guarded a (State.excursion s) := by
  unfold State.excursion
  extract_lets +onlyGivenNames _ _ _
  exact h

theorem guarded_execSensorSample {a s : State} {readings : List (BitVec 16)} (h : Guarded a s) :
    GuardedRes a (execSensorSample readings s) := by
  unfold execSensorSample
  refine guardedRes_ite (guardedRes_next h) ?_
  extract_lets +onlyGivenNames s1 s2
  have h1 : Guarded a s1 := h
  clear_value s1
  have h2 : Guarded a s2 := guarded_excursion h1
  clear_value s2
  refine guardedRes_ite (guardedRes_next h2) ?_
  extract_lets +onlyGivenNames s3
  have h3 : Guarded a s3 := guarded_foldl h2 (fun s x h => guarded_stackTemp h)
  clear_value s3
  split
  · exact guardedRes_next h3
  · exact guardedRes_ite (guardedRes_next (guarded_raise h3)) (guardedRes_next h3)

theorem guarded_execPowerWarn {a s : State} {volts : ℕ} {high : Bool} (h : Guarded a s) :
    GuardedRes a (execPowerWarn volts high s) := by
  unfold execPowerWarn
  extract_lets +onlyGivenNames _
  refine guardedRes_ite (guardedRes_next h) ?_
  extract_lets +onlyGivenNames s2 s3
  have h2 : Guarded a s2 := guarded_bump (guarded_setFld h (by decide)) (by decide)
  clear_value s2
  have h3 : Guarded a s3 := h2
  clear_value s3
  exact guardedRes_next (guarded_raise (guarded_showShares h3))

theorem guarded_execPowerRestored {a s : State} {us : ℕ} (h : Guarded a s) : GuardedRes a (execPowerRestored us s) := by
  unfold execPowerRestored
  refine guardedRes_ite (guardedRes_next h) ?_
  extract_lets +onlyGivenNames s1 s2 s3
  have h1 : Guarded a s1 := guarded_bump h (by decide)
  clear_value s1
  have h2 : Guarded a s2 := guarded_setFld h1 (by decide)
  clear_value s2
  have h3 : Guarded a s3 := guarded_ite h2 (guarded_setFld h1 (by decide))
  clear_value s3
  exact guardedRes_next (guarded_raise h3)

theorem guarded_execOvervoltage {a s : State} {peak us : ℕ} (h : Guarded a s) :
    GuardedRes a (execOvervoltage peak us s) := by
  unfold execOvervoltage
  refine guardedRes_ite (guardedRes_next h) ?_
  extract_lets +onlyGivenNames s1 s2
  have h1 : Guarded a s1 := guarded_setFld h (by decide)
  clear_value s1
  have h2 : Guarded a s2 := h1
  clear_value s2
  exact guardedRes_next (guarded_raise h2)

theorem guarded_execSwitchClose {a s : State} (h : Guarded a s) : GuardedRes a (execSwitchClose s) := by
  unfold execSwitchClose
  refine guardedRes_ite (guardedRes_next ?_) (guardedRes_next h)
  extract_lets +onlyGivenNames s1
  have h1 : Guarded a s1 := guarded_setFld h (by decide)
  clear_value s1
  exact h1

theorem guarded_execConsistentSnapshot {a s : State} (h : Guarded a s) : GuardedRes a (execConsistentSnapshot s) := by
  unfold execConsistentSnapshot
  exact guardedRes_ite (guardedRes_next (guarded_snapshotNow h)) (guardedRes_next h)

theorem guarded_execOrderlyStop {a s : State} (h : Guarded a s) : GuardedRes a (execOrderlyStop s) := by
  unfold execOrderlyStop
  exact guardedRes_ite (guardedRes_next (guarded_stopRails h)) (guardedRes_next h)

theorem guarded_moveAlloc {a s : State} {base : ℕ} {l : Lies} {stacks' : List ℕ} (h : Guarded a s) :
    Guarded a (State.moveAlloc s base l stacks') := by
  unfold State.moveAlloc
  exact h

theorem guarded_copiedOut {a s : State} {x : Alloc} (h : Guarded a s) : Guarded a (State.copiedOut s x) := by
  unfold State.copiedOut
  exact guarded_foldl h (fun s x h => guarded_ite h (guarded_bump h (by decide)))

theorem guarded_copiedIn {a s : State} {x : Alloc} (h : Guarded a s) : Guarded a (State.copiedIn s x) := by
  unfold State.copiedIn
  refine guarded_foldl h (fun s x h => guarded_ite h ?_)
  extract_lets +onlyGivenNames s1
  have h1 : Guarded a s1 := guarded_bump h (by decide)
  clear_value s1
  exact h1

theorem guarded_spilled {a s : State} {x : Alloc} {d : Dest} (h : Guarded a s) : Guarded a (State.spilled s x d) := by
  unfold State.spilled
  extract_lets +onlyGivenNames s1
  have h1 : Guarded a s1 := guarded_bump (guarded_bump h (by decide)) (by decide)
  clear_value s1
  exact guarded_raise h1

theorem Guarded.spoil {a s : State} {m : Mem} {d : Nat} (h : Guarded a s) : Guarded a { s with dev := m, draws := d } := h

theorem guarded_readOut {a s : State} {x : Alloc} (h : Guarded a s) : Guarded a (s.readOut x) := by
  unfold State.readOut
  exact guarded_foldl (guarded_copiedOut h) fun _ _ h => guarded_ite (guarded_dramCorrected (guarded_dieShown h))
      (Guarded.spoil h)

theorem guarded_spillTo {a s : State} {x : Alloc} {d : Dest} (h : Guarded a s) : Guarded a (State.spillTo s x d) := by
  unfold State.spillTo
  extract_lets +onlyGivenNames s1 s2
  have h1 : Guarded a s1 := guarded_readOut h
  clear_value s1
  have h2 : Guarded a s2 := guarded_ite h1 (guarded_sendLink h1)
  clear_value s2
  exact guarded_showSpace (guarded_spilled (guarded_moveAlloc h2))

theorem guarded_spillOne {a s : State} {ws : List Want} {base : ℕ} {d : Dest} (h : Guarded a s) :
    Guarded a (State.spillOne s ws base d) := by
  unfold State.spillOne
  dsimp only
  split
  · exact h
  · exact guarded_ite (guarded_spillTo h) h

theorem guarded_fillOn {a s : State} {x : Alloc} {ls : List ℕ} (h : Guarded a s) : Guarded a (State.fillOn s x ls) := by
  unfold State.fillOn
  extract_lets +onlyGivenNames _ s2 s3
  have h2 : Guarded a s2 := by
    unfold s2
    split
    · exact guarded_sendLink h
    · exact h
  clear_value s2
  have h3 : Guarded a s3 := h2
  clear_value s3
  exact guarded_showSpace (guarded_bump (guarded_copiedIn h3) (by decide))

theorem guarded_execFill {a s : State} {base : ℕ} (h : Guarded a s) : GuardedRes a (execFill base s) := by
  unfold execFill
  refine guardedRes_ite (guardedRes_next h) ?_
  split
  · exact guardedRes_next h
  · split
    · exact guardedRes_ite (guardedRes_next (guarded_fillOn h)) (guardedRes_next h)
    · exact guardedRes_next h

theorem guarded_openHome {a s : State} {h' : ℕ × ℕ × ℕ × ℕ} (h : Guarded a s) : Guarded a (State.openHome s h') := by
  unfold State.openHome
  exact guarded_setReg h (by decide)

theorem guarded_closeHome {a s : State} {h' : ℕ × ℕ × ℕ × ℕ} (h : Guarded a s) : Guarded a (State.closeHome s h') := by
  unfold State.closeHome
  exact guarded_setReg h (by decide)

theorem guarded_loseStack {a s : State} {st : ℕ} (h : Guarded a s) : Guarded a (State.loseStack s st) := by
  unfold State.loseStack
  extract_lets +onlyGivenNames s1 _ s3
  have h1 : Guarded a s1 := guarded_setOwn (guarded_setFld h (by decide))
  clear_value s1
  have h3 : Guarded a s3 := h1
  clear_value s3
  exact guarded_raise (guarded_showSpace (guarded_settle h3))

theorem guarded_dieFails {a s : State} {st d : ℕ} (h : Guarded a s) : Guarded a (State.dieFails s st d) := by
  unfold State.dieFails
  extract_lets +onlyGivenNames _
  refine guarded_ite h ?_
  extract_lets +onlyGivenNames s2
  have h2 : Guarded a s2 := guarded_setFld (guarded_mapAdd h) (by decide)
  clear_value s2
  exact guarded_ite (guarded_raise h2) (guarded_loseStack h2)

theorem guarded_patrolWord {a s : State} {st a' : ℕ} {es : List (ℕ × ℕ)} (h : Guarded a s) :
    Guarded a (State.patrolWord s st a' es) := by
  unfold State.patrolWord
  extract_lets +onlyGivenNames s1
  have h1 : Guarded a s1 := guarded_dieShown h
  clear_value s1
  exact guarded_ite (guarded_dramCorrected h1) h1

theorem guarded_execDramPatrol {a s : State} {stack : ℕ} {errors : List (ℕ × ℕ × ℕ)} (h : Guarded a s) :
    GuardedRes a (execDramPatrol stack errors s) := by
  unfold execDramPatrol
  refine guardedRes_ite (guardedRes_next h) ?_
  extract_lets +onlyGivenNames _ s2 s3 s4 _ s6
  have h2 : Guarded a s2 := h
  clear_value s2
  have h3 : Guarded a s3 := guarded_foldl h2 (fun s x h => guarded_patrolWord h)
  clear_value s3
  have h4 : Guarded a s4 := guarded_bump h3 (by decide)
  clear_value s4
  have h6 : Guarded a s6 := h4
  clear_value s6
  exact guardedRes_next (guarded_foldl h6 (fun s x h => guarded_dieFails h))

theorem guarded_fails {a s : State} {status detail : ℕ} (h : Guarded a s) :
    Guarded a (State.fails s status detail).1 := by
  unfold State.fails
  exact h

theorem guarded_ends {a s : State} {resp : optParam (List Byte) []} (h : Guarded a s) :
    Guarded a (State.ends s resp).1 := by
  unfold State.ends
  exact h

theorem guarded_starts {a s : State} {mb : ℕ} {r : MbRun} (h : Guarded a s) : Guarded a (State.starts s mb r).1 := by
  unfold State.starts
  exact h

theorem guarded_mbRow {a s : State} {mb : ℕ} {c : Cmd} {mine : Bool} {f : State → Ended} (h : Guarded a s)
    (k : Guarded a (f s).1) : Guarded a (State.mbRow s mb c mine f) := by
  unfold State.mbRow
  refine guarded_ite ?_ h
  split
  · exact guarded_mbAnswer h
  · split
    · rename_i e
      exact guarded_mbAnswer (Guarded.of_eq e k)
    · rename_i e
      exact Guarded.of_eq e k

theorem guarded_hostPut {a s : State} {mb a' : ℕ} {bs : List Byte} (h : Guarded a s) :
    Guarded a (State.hostPut s mb a' bs) := by
  unfold State.hostPut
  exact guarded_ite (guarded_send h) h

theorem guarded_execHello {a s : State} {mb : ℕ} (h : Guarded a s) : GuardedRes a (execHello mb s) := by
  unfold execHello
  refine guardedRes_next (guarded_mbRow h (guarded_ite_fst (guarded_fails h) ?_))
  dsimp only
  exact guarded_ends h

theorem guarded_execRingSetup {a s : State} {mb : ℕ} (h : Guarded a s) : GuardedRes a (execRingSetup mb s) := by
  unfold execRingSetup
  refine guardedRes_next (guarded_mbRow h ?_)
  dsimp only
  exact guarded_ite_fst (guarded_fails h) (guarded_ite_fst (guarded_fails h) (guarded_ite_fst (guarded_fails h)
      (guarded_ite_fst (guarded_fails h) (guarded_ends (guarded_showRings h)))))

theorem guarded_closeRing {a s : State} {k : ℕ} (h : Guarded a s) : Guarded a (State.closeRing s k).1 := by
  unfold State.closeRing
  dsimp only
  exact guarded_foldl h (fun s x h => guarded_failJob h)

theorem guarded_execRingTeardown {a s : State} {mb : ℕ} (h : Guarded a s) : GuardedRes a (execRingTeardown mb s) := by
  unfold execRingTeardown
  refine guardedRes_next (guarded_mbRow h ?_)
  dsimp only
  split
  · exact guarded_fails h
  · exact guarded_ite_fst (guarded_fails h) (guarded_starts (guarded_closeRing h))

theorem guarded_execCqSetup {a s : State} {mb : ℕ} (h : Guarded a s) : GuardedRes a (execCqSetup mb s) := by
  unfold execCqSetup
  refine guardedRes_next (guarded_mbRow h ?_)
  dsimp only
  exact guarded_ite_fst (guarded_fails h) (guarded_ite_fst (guarded_fails h) (guarded_ite_fst (guarded_fails h)
      (guarded_ite_fst (guarded_fails h) (guarded_ite_fst (guarded_fails h) (guarded_ends (guarded_showRings (guarded_setReg
      h (by decide))))))))

theorem guarded_execCqTeardown {a s : State} {mb : ℕ} (h : Guarded a s) : GuardedRes a (execCqTeardown mb s) := by
  unfold execCqTeardown
  refine guardedRes_next (guarded_mbRow h ?_)
  dsimp only
  split
  · exact guarded_fails h
  · exact guarded_starts h

theorem guarded_execEventSetup {a s : State} {mb : ℕ} (h : Guarded a s) : GuardedRes a (execEventSetup mb s) := by
  unfold execEventSetup
  refine guardedRes_next (guarded_mbRow h ?_)
  dsimp only
  exact guarded_ite_fst (guarded_fails h) (guarded_ite_fst (guarded_fails h) (guarded_ends (guarded_lostPost
      (guarded_showRings (guarded_setReg h (by decide))))))

theorem guarded_execEventTeardown {a s : State} {mb : ℕ} (h : Guarded a s) : GuardedRes a (execEventTeardown mb s) := by
  unfold execEventTeardown
  exact guardedRes_next (guarded_mbRow h (guarded_ends (guarded_showRings h)))

theorem guarded_bindGroup {a s : State} {g : ℕ} {ms : List ℕ} (h : Guarded a s) :
    Guarded a (State.bindGroup s g ms).1 := by
  unfold State.bindGroup
  refine guarded_ite_fst (guarded_fails h) ?_
  dsimp only
  exact guarded_ite_fst (guarded_fails h) (guarded_ite_fst (guarded_fails h) (guarded_ends h))

theorem guarded_groupStep {a s : State} {mb : ℕ} {f : ℕ → List ℕ → Ended} (h : Guarded a s)
    (k : ∀ g hs, Guarded a (f g hs).1) : Guarded a (State.groupStep s mb f).1 := by
  unfold State.groupStep
  refine guarded_ite_fst (guarded_fails h) (guarded_ite_fst (guarded_fails h) ?_)
  split
  · exact guarded_fails h
  · exact k _ _

theorem guarded_execGroupBindReplace {a s : State} {mb : ℕ} (h : Guarded a s) :
    GuardedRes a (execGroupBindReplace mb s) := by
  unfold execGroupBindReplace
  exact guardedRes_next (guarded_mbRow h (guarded_groupStep h (fun g hs => guarded_bindGroup h)))

theorem guarded_execGroupBindAdd {a s : State} {mb : ℕ} (h : Guarded a s) : GuardedRes a (execGroupBindAdd mb s) := by
  unfold execGroupBindAdd
  exact guardedRes_next (guarded_mbRow h (guarded_groupStep h (fun g hs => guarded_bindGroup h)))

theorem guarded_execGroupBindRemove {a s : State} {mb : ℕ} (h : Guarded a s) :
    GuardedRes a (execGroupBindRemove mb s) := by
  unfold execGroupBindRemove
  refine guardedRes_next (guarded_mbRow h (guarded_groupStep h (fun g hs => ?_)))
  split
  · exact guarded_fails h
  · exact guarded_bindGroup h

theorem guarded_execGroupBindUnbind {a s : State} {mb : ℕ} (h : Guarded a s) :
    GuardedRes a (execGroupBindUnbind mb s) := by
  unfold execGroupBindUnbind
  refine guardedRes_next (guarded_mbRow h (guarded_groupStep h (fun g hs => ?_)))
  split
  · exact guarded_fails h
  · exact guarded_bindGroup h

theorem guarded_allocate {a s : State} {h' : Hint} {c size addr : ℕ} {ls : List ℕ} {f : ℕ} {l : Lies} (h :
    Guarded a s) :
    Guarded a (State.allocate s h' c size addr ls f l).1 := by
  unfold State.allocate
  refine guarded_ite_fst h ?_
  dsimp only
  refine guarded_ends (guarded_showSpace ?_)
  split
  · exact guarded_openHome h
  · exact h

theorem guarded_placeAlloc {a s : State} {h' : Hint} {c size addr f : ℕ} {dest : Dest} (h : Guarded a s) :
    Guarded a (State.placeAlloc s h' c size addr f dest).1 := by
  unfold State.placeAlloc
  dsimp only
  refine guarded_ite_fst (guarded_ite_fst (guarded_allocate h) h) ?_
  split
  · exact guarded_allocate h
  · exact guarded_ite_fst h (guarded_ite_fst (guarded_fails h) (guarded_ite_fst (guarded_allocate h) (guarded_ite_fst h
        (guarded_fails h))))

theorem guarded_execTensorAlloc {a s : State} {mb addr f spillTo : ℕ} (h : Guarded a s) :
    GuardedRes a (execTensorAlloc mb addr f spillTo s) := by
  unfold execTensorAlloc
  refine guardedRes_next (guarded_mbRow h ?_)
  dsimp only
  split
  · exact guarded_fails h
  · exact guarded_placeAlloc h

theorem guarded_execSpill {a s : State} {base dest : ℕ} (h : Guarded a s) : GuardedRes a (execSpill base dest s) := by
  unfold execSpill
  exact guardedRes_next (guarded_spillOne h)

theorem guarded_freeAlloc {a s : State} {x : Alloc} (h : Guarded a s) : Guarded a (State.freeAlloc s x) := by
  unfold State.freeAlloc
  extract_lets +onlyGivenNames s1 s2
  have h1 : Guarded a s1 := h
  clear_value s1
  have h2 : Guarded a s2 := by
    unfold s2
    split
    · exact guarded_closeHome h1
    · exact h1
  clear_value s2
  exact guarded_showSpace h2

theorem guarded_execTensorFree {a s : State} {mb : ℕ} (h : Guarded a s) : GuardedRes a (execTensorFree mb s) := by
  unfold execTensorFree
  refine guardedRes_next (guarded_mbRow h ?_)
  split
  · exact guarded_fails h
  · exact guarded_ite_fst (guarded_ends (guarded_freeAlloc h)) (guarded_fails h)

theorem Guarded.granted {a s : State} {g : List (Nat × Nat)} (h : Guarded a s) : Guarded a { s with grants := g } := h

theorem guarded_execSpillGrant {a s : State} {mb : ℕ} (h : Guarded a s) : GuardedRes a (execSpillGrant mb s) := by
  unfold execSpillGrant
  refine guardedRes_next (guarded_mbRow h ?_)
  split
  · exact guarded_fails h
  · exact guarded_ends (Guarded.granted h)

theorem guarded_fillAll' {a s t : State} {xs : List Alloc} (h : Guarded a s) (e : s.fillAll' xs = some t) : Guarded a t := by
  induction xs generalizing s with
  | nil =>
    cases e
    exact h
  | cons x r ih =>
    unfold State.fillAll' at e
    split at e
    · split at e
      · exact ih (guarded_fillOn h) e
      · cases e
    · cases e

theorem guarded_execSpillRevoke {a s : State} {mb : ℕ} (h : Guarded a s) : GuardedRes a (execSpillRevoke mb s) := by
  unfold execSpillRevoke
  refine guardedRes_next (guarded_mbRow h ?_)
  split
  · exact guarded_fails h
  · extract_lets +onlyGivenNames _ _ _
    split
    · exact guarded_fails h
    · rename_i e
      exact guarded_ends (guarded_fillAll' h e).upd

theorem guarded_execPlaceQuery {a s : State} {mb : ℕ} (h : Guarded a s) : GuardedRes a (execPlaceQuery mb s) := by
  unfold execPlaceQuery
  refine guardedRes_next (guarded_mbRow h ?_)
  split
  · exact guarded_fails h
  · exact guarded_ends h

theorem guarded_mbReads {a s : State} {ps : List Span} (h : Guarded a s) : Guarded a (State.mbReads s ps) := by
  unfold State.mbReads
  exact guarded_readSpans h

theorem guarded_execPhasePlanDefine {a s : State} {mb : ℕ} (h : Guarded a s) :
    GuardedRes a (execPhasePlanDefine mb s) := by
  unfold execPhasePlanDefine
  refine guardedRes_next (guarded_mbRow h ?_)
  dsimp only
  exact guarded_ite_fst (guarded_fails h) (guarded_ite_fst (guarded_fails h) (guarded_ite_fst (guarded_fails (guarded_mbReads
      h)) (guarded_ite_fst (guarded_fails (guarded_mbReads h)) (guarded_ite_fst (guarded_fails (guarded_mbReads h))
      (guarded_ite_fst (guarded_fails (guarded_mbReads (guarded_mbReads h))) (guarded_ends ((guarded_mbReads (guarded_mbReads
      h)).upd)))))))

theorem guarded_execPhasePlanSelect {a s : State} {mb : ℕ} (h : Guarded a s) :
    GuardedRes a (execPhasePlanSelect mb s) := by
  unfold execPhasePlanSelect
  refine guardedRes_next (guarded_mbRow h ?_)
  dsimp only
  refine guarded_ite_fst (guarded_fails h) ?_
  split
  · exact guarded_fails h
  · exact guarded_ite_fst (guarded_fails h) (guarded_ends h)

theorem guarded_execPhasePlanDrop {a s : State} {mb : ℕ} (h : Guarded a s) : GuardedRes a (execPhasePlanDrop mb s) := by
  unfold execPhasePlanDrop
  refine guardedRes_next (guarded_mbRow h ?_)
  dsimp only
  exact guarded_ite_fst (guarded_fails h) (guarded_ite_fst (guarded_fails h) (guarded_ends h))

theorem guarded_loadRead {a s : State} {mb : ℕ} {ps : List (ℕ × ℕ)} (h : Guarded a s) :
    Guarded a (State.loadRead s mb ps) := by
  unfold State.loadRead
  exact guarded_ite (guarded_mbReads h) h

theorem guarded_execTensorLoad {a s : State} {mb : ℕ} (h : Guarded a s) : GuardedRes a (execTensorLoad mb s) := by
  unfold execTensorLoad
  refine guardedRes_next (guarded_mbRow h ?_)
  dsimp only
  exact guarded_ite_fst (guarded_fails h) (guarded_ite_fst (guarded_fails h) (guarded_ite_fst h (guarded_ends
      (guarded_writeAt (guarded_loadRead h)))))

theorem guarded_storeTiles {a s : State} {f : Fmt} {dst dir map stride : ℕ} {ts : List (ℕ × NewTile)} (h :
    Guarded a s) :
    Guarded a (State.storeTiles s f dst dir map stride ts) := by
  unfold State.storeTiles
  refine guarded_foldl h (fun s x h => ?_)
  extract_lets +onlyGivenNames _ _ _ _
  exact guarded_writeAll h

theorem guarded_execTensorLoadEncode {a s : State} {mb : ℕ} (h : Guarded a s) :
    GuardedRes a (execTensorLoadEncode mb s) := by
  unfold execTensorLoadEncode
  refine guardedRes_next (guarded_mbRow h ?_)
  dsimp only
  split
  · exact guarded_fails h
  · exact guarded_ite_fst (guarded_fails h) (guarded_ite_fst h (guarded_ite_fst (guarded_fails h) (guarded_ite_fst
        (guarded_fails h) (guarded_ite_fst (guarded_fails h) (guarded_ends (guarded_storeTiles (guarded_loadRead h)))))))

theorem guarded_execMonitorSnapshot {a s : State} {mb : ℕ} (h : Guarded a s) :
    GuardedRes a (execMonitorSnapshot mb s) := by
  unfold execMonitorSnapshot
  refine guardedRes_next (guarded_mbRow h ?_)
  dsimp only
  split
  · exact guarded_fails h
  · exact guarded_ite_fst h (guarded_ends (guarded_ite (guarded_hostPut (guarded_ite (guarded_monClear h) h))
        (guarded_writeAt (guarded_ite (guarded_monClear h) h))))

theorem guarded_execMonitorRestore {a s : State} {mb : ℕ} (h : Guarded a s) : GuardedRes a (execMonitorRestore mb s) := by
  unfold execMonitorRestore
  refine guardedRes_next (guarded_mbRow h ?_)
  dsimp only
  split
  · exact guarded_fails h
  · refine guarded_ite_fst h ?_
    split
    · exact guarded_fails h
    · exact guarded_ends (guarded_monSetAll (guarded_ite h (guarded_mbReads h)))

theorem guarded_execEmuBasadCfgGet {a s : State} {mb : ℕ} (h : Guarded a s) : GuardedRes a (execEmuBasadCfgGet mb s) := by
  unfold execEmuBasadCfgGet
  exact guardedRes_next (guarded_mbRow h (guarded_ends h))

theorem guarded_execEmuBasadCfgSet {a s : State} {mb : ℕ} (h : Guarded a s) : GuardedRes a (execEmuBasadCfgSet mb s) := by
  unfold execEmuBasadCfgSet
  refine guardedRes_next (guarded_mbRow h ?_)
  dsimp only
  exact guarded_ends h

theorem guarded_setCascade {a s : State} {w who : ℕ} (h : Guarded a s) : Guarded a (State.setCascade s w who) := by
  unfold State.setCascade
  extract_lets +onlyGivenNames _ _ s3
  have h3 : Guarded a s3 := guarded_show h (by decide)
  clear_value s3
  exact guarded_ite h3 (guarded_raise h3)

theorem guarded_showCascade {a s : State} {who : ℕ} (h : Guarded a s) : Guarded a (State.showCascade s who) := by
  unfold State.showCascade
  dsimp only
  split
  · exact guarded_setCascade h
  · exact guarded_setCascade h

theorem guarded_linkError {a s : State} {op : ℕ} (h : Guarded a s) : Guarded a (State.linkError s op) := by
  unfold State.linkError
  exact guarded_ite h (guarded_whenJob h (fun j => guarded_ite (guarded_ite (guarded_putJob h) h) (guarded_ite
      (guarded_endJob h) (guarded_failJob h))))

theorem guarded_resend {a s : State} {gone : List ℕ} {cls op : ℕ} {msg : LinkMsg} (h : Guarded a s) :
    Guarded a (State.resend s gone cls op msg) := by
  unfold State.resend
  refine guarded_ite h ?_
  split
  · exact guarded_enqueue h
  · exact guarded_linkError h

theorem guarded_sendWaiting {a s : State} (h : Guarded a s) : Guarded a (State.sendWaiting s) := by
  unfold State.sendWaiting
  exact guarded_foldl h (fun s x h => guarded_ite h (guarded_flitsOut h))

theorem guarded_portDown {a s : State} {p : ℕ} (h : Guarded a s) : Guarded a (State.portDown s p) := by
  unfold State.portDown
  refine guarded_ite h ?_
  extract_lets +onlyGivenNames _ _ s3 _ s5 s6 s7 s8
  have h3 : Guarded a s3 := guarded_bump (guarded_settle (guarded_setOwn (guarded_setFld h (by decide)))) (by decide)
  clear_value s3
  have h5 : Guarded a s5 := h3
  clear_value s5
  have h6 : Guarded a s6 := guarded_raise h5
  clear_value s6
  have h7 : Guarded a s7 := guarded_foldl h6 (fun s x h => guarded_linkError h)
  clear_value s7
  have h8 : Guarded a s8 := guarded_sendWaiting (guarded_foldl h7 (fun s x h => guarded_resend h))
  clear_value s8
  exact guarded_showCascade h8

theorem guarded_takeSpill {a s : State} {base size f : ℕ} (h : Guarded a s) :
    Guarded a (State.takeSpill s base size f) := by
  unfold State.takeSpill
  extract_lets +onlyGivenNames _
  exact guarded_ite (guarded_showSpace h) h

theorem guarded_bring {a s : State} {a' : Brought} (h : Guarded a s) : Guarded a (State.bring s a') := by
  unfold State.bring
  dsimp only
  split
  · exact h
  · exact guarded_ite (guarded_slotClaim h) (guarded_slotFill h)
  · exact guarded_writeAt h
  · exact guarded_sendAs (guarded_readEach h)
  · exact guarded_takeSpill h
  · split
    · exact guarded_freeAlloc h
    · exact h
  · exact guarded_sendAs h

theorem guarded_flitBad {a s : State} {p : ℕ} (h : Guarded a s) : Guarded a (State.flitBad s p) := by
  unfold State.flitBad
  extract_lets +onlyGivenNames _ s2
  have h2 : Guarded a s2 := guarded_bump h (by decide)
  clear_value s2
  exact h2

theorem guarded_execFlitReceive {a s : State} {port : ℕ} {good : Bool} {acked : ℕ} {tail : FlitEnd} (h : Guarded a s) :
    GuardedRes a (execFlitReceive port good acked tail s) := by
  unfold execFlitReceive
  refine guardedRes_ite (guardedRes_next h) (guardedRes_ite (guardedRes_next (guarded_ite (guarded_portDown (guarded_flitBad
      h)) (guarded_flitBad h))) ?_)
  extract_lets +onlyGivenNames _ _ s3 s4
  have h3 : Guarded a s3 := guarded_bump h (by decide)
  clear_value s3
  have h4 : Guarded a s4 := h3
  clear_value s4
  refine guardedRes_ite (guardedRes_next (guarded_bring h4)) ?_
  extract_lets +onlyGivenNames s5 s6
  have h5 : Guarded a s5 := guarded_bump (guarded_bump h4 (by decide)) (by decide)
  clear_value s5
  have h6 : Guarded a s6 := h5
  clear_value s6
  exact guardedRes_next (guarded_bring (guarded_ite (guarded_portDown h6) h6))

theorem guarded_execLaneFault {a s : State} {port : ℕ} {lane : LaneState} (h : Guarded a s) :
    GuardedRes a (execLaneFault port lane s) := by
  unfold execLaneFault
  extract_lets +onlyGivenNames _ _ _
  refine guardedRes_ite (guardedRes_next h) ?_
  extract_lets +onlyGivenNames _ _ s6 _ s8 _ s10
  have h6 : Guarded a s6 := guarded_bump h (by decide)
  clear_value s6
  have h8 : Guarded a s8 := h6
  clear_value s8
  have h10 : Guarded a s10 := guarded_raise h8
  clear_value s10
  exact guardedRes_ite (guardedRes_next (guarded_portDown h10)) (guardedRes_next (guarded_setFld (guarded_setFld h10 (by
      decide)) (by decide)))

theorem guarded_execRetrainDone {a s : State} {port : ℕ} (h : Guarded a s) : GuardedRes a (execRetrainDone port s) := by
  unfold execRetrainDone
  extract_lets +onlyGivenNames _
  exact guardedRes_ite (guardedRes_next (guarded_flitsOut h)) (guardedRes_next h)

theorem guarded_exchangeOn {a s : State} {p : ℕ} (h : Guarded a s) : Guarded a (State.exchangeOn s p) := by
  unfold State.exchangeOn
  split
  · exact guarded_ite (guarded_sendLink h) h
  · exact h

theorem guarded_execPortUp {a s : State} {port : ℕ} (h : Guarded a s) : GuardedRes a (execPortUp port s) := by
  unfold execPortUp
  extract_lets +onlyGivenNames _
  refine guardedRes_ite (guardedRes_next h) ?_
  extract_lets +onlyGivenNames _ s3 s4 s5
  have h3 : Guarded a s3 := guarded_setOwn (guarded_setFld (guarded_setFld h (by decide)) (by decide))
  clear_value s3
  have h4 : Guarded a s4 := guarded_raise (guarded_settle h3)
  clear_value s4
  have h5 : Guarded a s5 := guarded_exchangeOn h4
  clear_value s5
  exact guardedRes_next (guarded_showCascade h5)

theorem guarded_showPeers {a s : State} (h : Guarded a s) : Guarded a (State.showPeers s) := by
  unfold State.showPeers
  refine guarded_foldl h (fun s x h => ?_)
  extract_lets +onlyGivenNames _
  exact guarded_setFld (guarded_setFld h (by decide)) (by decide)

theorem guarded_execCascadeJoin {a s : State} {mb : ℕ} (h : Guarded a s) : GuardedRes a (execCascadeJoin mb s) := by
  unfold execCascadeJoin
  refine guardedRes_next (guarded_mbRow h ?_)
  dsimp only
  split
  · exact guarded_fails h
  · exact guarded_ite_fst (guarded_fails h) (guarded_ends (guarded_ite (guarded_claimPps (guarded_showCascade (guarded_foldl
        (guarded_setCascade (guarded_showPeers h)) (fun s x h => guarded_exchangeOn h)))) (guarded_showCascade (guarded_foldl
        (guarded_setCascade (guarded_showPeers h)) (fun s x h => guarded_exchangeOn h)))))

theorem guarded_execCascadeLeave {a s : State} {mb : ℕ} (h : Guarded a s) : GuardedRes a (execCascadeLeave mb s) := by
  unfold execCascadeLeave
  exact guardedRes_next (guarded_mbRow h (guarded_ite_fst (guarded_fails h) (guarded_ite_fst (guarded_fails h)
      (guarded_starts h))))

theorem guarded_left {a s : State} (h : Guarded a s) : Guarded a (State.left s) := by
  unfold State.left
  dsimp only
  split
  · exact h
  · exact guarded_ite (guarded_showPps (guarded_freeHolder (guarded_showCascade (guarded_showPeers ((guarded_foldl h (fun s x
        h => guarded_sendLink h)).upd))))) (guarded_showCascade (guarded_showPeers ((guarded_foldl h (fun s x h =>
        guarded_sendLink h)).upd)))

theorem guarded_execCascadeExchange {a s : State} {port index master n bitmap : ℕ} (h : Guarded a s) :
    GuardedRes a (execCascadeExchange port index master n bitmap s) := by
  unfold execCascadeExchange
  exact guardedRes_ite (guardedRes_next h) (guardedRes_next (guarded_showCascade h))

theorem guarded_gopBegin {a s : State} {op : ℕ} (h : Guarded a s) : Guarded a (State.gopBegin s op) := by
  unfold State.gopBegin
  extract_lets +onlyGivenNames s1
  have h1 : Guarded a s1 := guarded_setFld (guarded_setFld (guarded_setFld h (by decide)) (by decide)) (by decide)
  clear_value s1
  exact h1

theorem guarded_gopStart {a s : State} {op : ℕ} (h : Guarded a s) : Guarded a (State.gopStart s op) := by
  unfold State.gopStart
  extract_lets +onlyGivenNames s1
  have h1 : Guarded a s1 := guarded_setFld (guarded_setFld h (by decide)) (by decide)
  clear_value s1
  exact guarded_gopBegin (guarded_setFld h1 (by decide))

theorem guarded_gopEnd {a s : State} {op result answered : ℕ} (h : Guarded a s) :
    Guarded a (State.gopEnd s op result answered) := by
  unfold State.gopEnd
  extract_lets +onlyGivenNames s1 s2
  have h1 : Guarded a s1 := guarded_setFld (guarded_setFld (guarded_setFld h (by decide)) (by decide)) (by decide)
  clear_value s1
  have h2 : Guarded a s2 := h1
  clear_value s2
  exact guarded_raise h2

theorem guarded_release {a s : State} (h : Guarded a s) : Guarded a (State.release s) := by
  unfold State.release
  exact guarded_foldl h (fun s x h => guarded_sendLink h)

theorem Guarded.gop {a s : State} {g : Option Gop} (h : Guarded a s) : Guarded a { s with gop := g } := h

theorem guarded_gopCheck {a s : State} (h : Guarded a s) : Guarded a s.gopCheck := by
  unfold State.gopCheck
  split
  · exact h
  · refine guarded_ite h (guarded_ite ?_ ?_)
    · exact guarded_ite (guarded_release (guarded_gopEnd h)) (guarded_gopEnd h)
    · extract_lets +onlyGivenNames s1
      have h1 : Guarded a s1 := by
        unfold s1
        split
        · exact guarded_sendLink h
        · exact h
      clear_value s1
      refine guarded_ite (Guarded.gop h1) ?_
      have h2 : Guarded a (s1.setFld gopReg 0 1 0) := guarded_setFld h1 (by decide)
      exact guarded_ite (guarded_setFld (Guarded.gop h2) (by decide)) (Guarded.gop h2)

theorem guarded_gopOwn {a s : State} (h : Guarded a s) : Guarded a s.gopOwn := by
  unfold State.gopOwn
  split
  · exact guarded_gopCheck (Guarded.gop h)
  · exact h

theorem guarded_gopWrite {a s : State} {value : BitVec 32} {op : ℕ} {ok : Bool} {run : State → State} (h : Guarded a s)
    (k : Guarded a (run s)) : Guarded a (State.gopWrite s value op ok run) := by
  unfold State.gopWrite
  exact guarded_ite h (guarded_ite (guarded_setFld (guarded_setFld (guarded_setFld h (by decide)) (by decide)) (by decide)) k)

theorem guarded_gopCopy {a s : State} {bs : List Byte} (h : Guarded a s) : Guarded a (State.gopCopy s bs) := by
  unfold State.gopCopy
  extract_lets +onlyGivenNames s1
  have h1 : Guarded a s1 := guarded_foldl h (fun s x h => guarded_sendLink h)
  clear_value s1
  exact guarded_writeDev h1

theorem guarded_execBroadcast {a s : State} {value : BitVec 32} (h : Guarded a s) :
    GuardedRes a (execBroadcast value s) := by
  unfold execBroadcast
  refine guardedRes_next (guarded_gopWrite h ?_)
  extract_lets +onlyGivenNames _ _ _ s4
  have h4 : Guarded a s4 := guarded_gopStart h
  clear_value s4
  split
  · rename_i e3
    exact guarded_gopEnd (Guarded.of_eq e3 (guarded_readSpan h4))
  · rename_i e2
    exact guarded_gopOwn (guarded_gopCopy (Guarded.of_eq e2 (guarded_readSpan h4)))

theorem guarded_execBroadcastCopy {a s : State} {data : List Byte} (h : Guarded a s) :
    GuardedRes a (execBroadcastCopy data s) := by
  unfold execBroadcastCopy
  exact guardedRes_ite (guardedRes_next (guarded_gopOwn (guarded_setFld (guarded_gopCopy (guarded_gopBegin h)) (by decide))))
      (guardedRes_next h)

theorem guarded_takeSnapshot {a s : State} (h : Guarded a s) : Guarded a (State.takeSnapshot s) := by
  unfold State.takeSnapshot
  extract_lets +onlyGivenNames _ _ _ s4 _ s6 s7 s8
  have h4 : Guarded a s4 := guarded_endCloses h
  clear_value s4
  have h6 : Guarded a s6 := guarded_ite (guarded_monClear h4) h4
  clear_value s6
  have h7 : Guarded a s7 := guarded_ite h6 (guarded_writeDev h6)
  clear_value s7
  have h8 : Guarded a s8 := guarded_setReg h7 (by decide)
  clear_value s8
  exact h8

theorem guarded_hold {a s : State} (h : Guarded a s) : Guarded a (State.hold s) := by
  unfold State.hold
  exact guarded_gopOwn (guarded_takeSnapshot (guarded_foldl h (fun s x h => guarded_sendLink h)))

theorem guarded_execSnapshot {a s : State} {value : BitVec 32} (h : Guarded a s) :
    GuardedRes a (execSnapshot value s) := by
  unfold execSnapshot
  exact guardedRes_next (guarded_gopWrite h (guarded_hold (guarded_gopStart h)))

theorem guarded_execSnapshotHold {a s : State} (h : Guarded a s) : GuardedRes a (execSnapshotHold s) := by
  unfold execSnapshotHold
  exact guardedRes_ite (guardedRes_next (guarded_hold (guarded_gopBegin h))) (guardedRes_next h)

theorem guarded_execSnapshotRelease {a s : State} (h : Guarded a s) : GuardedRes a (execSnapshotRelease s) := by
  unfold execSnapshotRelease
  dsimp only
  split
  · exact guardedRes_ite (guardedRes_next ((guarded_setFld (guarded_release h) (by decide)).upd)) (guardedRes_next h)
  · exact guardedRes_next h

theorem guarded_gopReset {a s : State} (h : Guarded a s) : Guarded a (State.gopReset s) := by
  unfold State.gopReset
  exact guarded_computeReset (guarded_foldl h (fun s x h => guarded_sendLink h))

theorem guarded_execReset {a s : State} {value : BitVec 32} (h : Guarded a s) : GuardedRes a (execReset value s) := by
  unfold execReset
  exact guardedRes_next (guarded_gopWrite h (guarded_gopReset (guarded_gopStart h)))

theorem guarded_execResetMessage {a s : State} (h : Guarded a s) : GuardedRes a (execResetMessage s) := by
  unfold execResetMessage
  exact guardedRes_ite (guardedRes_next (guarded_gopReset (guarded_gopBegin h))) (guardedRes_next h)

theorem guarded_execComputeResetDone {a s : State} (h : Guarded a s) : GuardedRes a (execComputeResetDone s) := by
  unfold execComputeResetDone
  refine guardedRes_ite (guardedRes_next h) ?_
  extract_lets +onlyGivenNames s1 s2
  have h1 : Guarded a s1 := h
  clear_value s1
  have h2 : Guarded a s2 := guarded_resetDone (guarded_settle h1)
  clear_value s2
  split
  · exact guardedRes_ite (guardedRes_next (guarded_gopOwn h2)) (guardedRes_next h2)
  · exact guardedRes_next h2

theorem guarded_execGopAnswer {a s : State} {child answered : ℕ} {missing : Bool} (h : Guarded a s) :
    GuardedRes a (execGopAnswer child answered missing s) := by
  unfold execGopAnswer
  split
  · exact guardedRes_ite (guardedRes_next (guarded_gopCheck (Guarded.gop h))) (guardedRes_next h)
  · exact guardedRes_next h

theorem guarded_execGopAnswerTimeout {a s : State} {child : ℕ} (h : Guarded a s) :
    GuardedRes a (execGopAnswerTimeout child s) := by
  unfold execGopAnswerTimeout
  split
  · exact guardedRes_ite (guardedRes_next (guarded_gopCheck (Guarded.gop h))) (guardedRes_next h)
  · exact guardedRes_next h

theorem guarded_execRemoteDescriptor {a s : State} {member ring seq cls : ℕ} {bytes : List Byte} (h :
    Guarded a s) :
    GuardedRes a (execRemoteDescriptor member ring seq cls bytes s) := by
  unfold execRemoteDescriptor
  refine guardedRes_ite (guardedRes_next h) ?_
  extract_lets +onlyGivenNames _
  exact guardedRes_next (guarded_takeUp h)

theorem guarded_execRemoteCompletion {a s : State} {jid : ℕ} {bytes : List Byte} (h : Guarded a s) :
    GuardedRes a (execRemoteCompletion jid bytes s) := by
  unfold execRemoteCompletion
  exact guardedRes_next (guarded_whenJob h (fun j => guarded_endJob h))

theorem guarded_showTime {a s : State} (h : Guarded a s) : Guarded a (State.showTime s) := by
  unfold State.showTime
  exact guarded_settle (guarded_setOwn h)

theorem guarded_timeEvent {a s : State} (h : Guarded a s) : Guarded a (State.timeEvent s) := by
  unfold State.timeEvent
  exact guarded_raise h

theorem guarded_setTimeState {a s : State} {n : ℕ} (h : Guarded a s) : Guarded a (State.setTimeState s n) := by
  unfold State.setTimeState
  exact guarded_showTime (guarded_timeEvent (guarded_setFld (guarded_setFld h (by decide)) (by decide)))

theorem guarded_execReferencePresent {a s : State} (h : Guarded a s) : GuardedRes a (execReferencePresent s) := by
  unfold execReferencePresent
  exact guardedRes_ite (guardedRes_next (guarded_setTimeState (guarded_setFld h (by decide)))) (guardedRes_next h)

theorem guarded_execReferenceLocked {a s : State} (h : Guarded a s) : GuardedRes a (execReferenceLocked s) := by
  unfold execReferenceLocked
  exact guardedRes_ite (guardedRes_next (guarded_setTimeState h)) (guardedRes_next h)

theorem guarded_execReferenceLost {a s : State} (h : Guarded a s) : GuardedRes a (execReferenceLost s) := by
  unfold execReferenceLost
  refine guardedRes_ite ?_ (guardedRes_next h)
  extract_lets +onlyGivenNames s1
  have h1 : Guarded a s1 := guarded_setFld h (by decide)
  clear_value s1
  exact guardedRes_next (guarded_setTimeState h1)

theorem guarded_execHoldoverExpiry {a s : State} (h : Guarded a s) : GuardedRes a (execHoldoverExpiry s) := by
  unfold execHoldoverExpiry
  exact guardedRes_ite (guardedRes_next (guarded_showTime h)) (guardedRes_next h)

theorem guarded_setTime {a s : State} {t : ℕ} (h : Guarded a s) : Guarded a (State.setTime s t) := by
  unfold State.setTime
  extract_lets +onlyGivenNames s1
  have h1 : Guarded a s1 := guarded_setReg h (by decide)
  clear_value s1
  exact guarded_showTime (guarded_showSlot (guarded_setFld h1 (by decide)))

theorem guarded_execTimeSet {a s : State} {mb : ℕ} (h : Guarded a s) : GuardedRes a (execTimeSet mb s) := by
  unfold execTimeSet
  refine guardedRes_next (guarded_mbRow h ?_)
  dsimp only
  exact guarded_ends (guarded_setTime h)

theorem guarded_execTimeSetAtPps {a s : State} {mb : ℕ} (h : Guarded a s) : GuardedRes a (execTimeSetAtPps mb s) := by
  unfold execTimeSetAtPps
  exact guardedRes_next (guarded_mbRow h (guarded_ite_fst (guarded_starts h) (guarded_fails h)))

theorem guarded_setAtEdge {a s : State} {e : ℕ × ℕ} (h : Guarded a s) : Guarded a (State.setAtEdge s e) := by
  unfold State.setAtEdge
  extract_lets +onlyGivenNames s1
  have h1 : Guarded a s1 := guarded_setTime h
  clear_value s1
  exact guarded_ite (guarded_mbAnswer h1) h1

theorem guarded_execPpsEdge {a s : State} (h : Guarded a s) : GuardedRes a (execPpsEdge s) := by
  unfold execPpsEdge
  refine guardedRes_ite (guardedRes_next h) ?_
  extract_lets +onlyGivenNames _ s2 s3 _ s5
  have h2 : Guarded a s2 := guarded_setFld (guarded_bump h (by decide)) (by decide)
  clear_value s2
  have h3 : Guarded a s3 := guarded_setReg h2 (by decide)
  clear_value s3
  have h5 : Guarded a s5 := guarded_ite (guarded_raise h3) (guarded_ite h3 h3)
  clear_value s5
  exact guardedRes_next (guarded_foldl h5 (fun s x h => guarded_setAtEdge h))

theorem guarded_execPpsMissed {a s : State} (h : Guarded a s) : GuardedRes a (execPpsMissed s) := by
  unfold execPpsMissed
  exact guardedRes_ite (guardedRes_next (guarded_timeEvent (guarded_bump (guarded_setFld h (by decide)) (by decide))))
      (guardedRes_next h)

theorem guarded_execPpsOutPulse {a s : State} (h : Guarded a s) : GuardedRes a (execPpsOutPulse s) := by
  unfold execPpsOutPulse
  exact guardedRes_ite (guardedRes_next h) (guardedRes_next h)

theorem guarded_execSlotTick {a s : State} (h : Guarded a s) : GuardedRes a (execSlotTick s) := by
  unfold execSlotTick
  split
  · extract_lets +onlyGivenNames _ _ s3
    have h3 : Guarded a s3 := guarded_showSlot h.upd
    clear_value s3
    exact guardedRes_next (guarded_ite (guarded_raise h3) h3)
  · exact guardedRes_next h

theorem guarded_showGrid {a s : State} {g : ℕ} (h : Guarded a s) : Guarded a (State.showGrid s g) := by
  unfold State.showGrid
  exact guarded_setFld h (by decide)

theorem guarded_dropFlow {a s : State} {k : ℕ} (h : Guarded a s) : Guarded a (State.dropFlow s k) := by
  unfold State.dropFlow
  split
  · exact h
  · extract_lets +onlyGivenNames s1 s2
    have h1 : Guarded a s1 := h
    have h2 : Guarded a s2 := by
      unfold s2
      split
      · exact guarded_ite (guarded_slotFill h1) h1
      · exact h1
    clear_value s2
    exact guarded_ite (guarded_showGrid h2.upd) h1

theorem guarded_newGrid {a s : State} {g : ℕ} {f : Machine.Flow} (h : Guarded a s) : Guarded a (State.newGrid s g f) := by
  unfold State.newGrid
  extract_lets +onlyGivenNames _ s2
  have h2 : Guarded a s2 := h
  clear_value s2
  exact guarded_setReg (guarded_setReg h2 (by decide)) (by decide)

theorem guarded_execCellConfigSet {a s : State} {mb : ℕ} (h : Guarded a s) : GuardedRes a (execCellConfigSet mb s) := by
  unfold execCellConfigSet
  refine guardedRes_next (guarded_mbRow h ?_)
  dsimp only
  split
  · exact guarded_fails h
  · refine guarded_ite_fst (guarded_fails h) ?_
    split
    · exact guarded_fails h
    · exact guarded_ite_fst (guarded_fails h) (guarded_ends (guarded_showGrid ((guarded_ite (guarded_newGrid
          (guarded_dropFlow h)) (guarded_dropFlow h)).upd)))

theorem guarded_execCellConfigClear {a s : State} {mb : ℕ} (h : Guarded a s) :
    GuardedRes a (execCellConfigClear mb s) := by
  unfold execCellConfigClear
  exact guardedRes_next (guarded_mbRow h (guarded_ite_fst (guarded_fails h) (guarded_ends (guarded_dropFlow h))))

theorem guarded_takeMessage {a s : State} {p k : ℕ} {f : Machine.Flow} {m : UMsg} {xs : List Sect} (h : Guarded a s) :
    Guarded a (State.takeMessage s p k f m xs) := by
  unfold State.takeMessage
  extract_lets +onlyGivenNames s1 s2 _ _
  have h1 : Guarded a s1 := guarded_bump h (by decide)
  clear_value s1
  have h2 : Guarded a s2 := h1
  clear_value s2
  refine guarded_ite (guarded_bump h2 (by decide)) (guarded_ite (guarded_bump h2 (by decide)) ?_)
  split
  · exact h2
  · exact guarded_ite (guarded_bump h2 (by decide)) h2

theorem guarded_execFrameReceive {a s : State} {port : ℕ} {fcsOk : Bool} {data : List Byte} (h : Guarded a s) :
    GuardedRes a (execFrameReceive port fcsOk data s) := by
  unfold execFrameReceive
  extract_lets +onlyGivenNames _
  refine guardedRes_ite (guardedRes_next h) ?_
  extract_lets +onlyGivenNames s2
  have h2 : Guarded a s2 := guarded_bump h (by decide)
  clear_value s2
  refine guardedRes_ite (guardedRes_next (guarded_bump h2 (by decide))) ?_
  dsimp only
  split
  · exact guardedRes_next (guarded_bump h2 (by decide))
  · split
    · refine guardedRes_next (guarded_bump h2 ?_)
      split
      · exact (by decide)
      · exact (by decide)
    · split
      · exact guardedRes_next (guarded_bump h2 (by decide))
      · exact guardedRes_ite (guardedRes_next (guarded_bump h2 (by decide))) (guardedRes_next (guarded_takeMessage h2))

theorem guarded_writeRows {a s : State} {f : Machine.Flow} {ps : List Prb} {n sym : ℕ} (h : Guarded a s) :
    Guarded a (State.writeRows s f ps n sym) := by
  unfold State.writeRows
  extract_lets +onlyGivenNames _
  refine guarded_foldl h (fun s x h => ?_)
  extract_lets +onlyGivenNames _ s3
  have h3 : Guarded a s3 := guarded_writeAt h
  clear_value s3
  exact guarded_bump (guarded_bump h3 (by decide)) (by decide)

theorem guarded_gridToken {a s : State} {k : ℕ} {g : Grid} {f : Machine.Flow} {n : ℕ} (h : Guarded a s) :
    Guarded a (State.gridToken s k g f n).1 := by
  unfold State.gridToken
  dsimp only
  split
  · exact h
  · exact guarded_ite_fst h (guarded_ite_fst h (guarded_ite_fst (guarded_slotClaim h) (guarded_raise (guarded_bump h (by
        decide)))))

theorem guarded_gridDone {a s : State} {k : ℕ} {g : Grid} {f : Machine.Flow} {n : ℕ} (h : Guarded a s) :
    Guarded a (State.gridDone s k g f n).1 := by
  unfold State.gridDone
  refine guarded_ite_fst h (guarded_ite_fst h ?_)
  dsimp only
  split
  · exact guarded_ite_fst (guarded_slotFill (guarded_setFld (guarded_setFld (guarded_setFld (guarded_setFld h (by decide))
        (by decide)) (by decide)) (by decide))) (guarded_setFld (guarded_setFld (guarded_setFld (guarded_setFld h (by
        decide)) (by decide)) (by decide)) (by decide))
  · exact guarded_setFld (guarded_setFld (guarded_setFld (guarded_setFld h (by decide)) (by decide)) (by decide)) (by decide)

theorem guarded_writeSymbol {a s : State} {k : ℕ} {g : Grid} {f : Machine.Flow} {fs : List Machine.Flow} {n sym : ℕ} (h
    : Guarded a s) :
    Guarded a (State.writeSymbol s k g f fs n sym) := by
  unfold State.writeSymbol
  extract_lets +onlyGivenNames _ s2 s3 _ _ s6 s7
  have h2 : Guarded a s2.1 := guarded_gridToken h
  clear_value s2
  have h3 : Guarded a s3 := guarded_ite (guarded_writeRows (guarded_bump h2 (by decide))) h2
  clear_value s3
  have h6 : Guarded a s6.1 := guarded_gridDone h3
  clear_value s6
  have h7 : Guarded a s7 := h6
  clear_value s7
  exact h7

theorem guarded_execSymbolWrite {a s : State} {grid symbol : ℕ} (h : Guarded a s) :
    GuardedRes a (execSymbolWrite grid symbol s) := by
  unfold execSymbolWrite
  split
  · exact guardedRes_next h
  · split
    · exact guardedRes_next h
    · refine guardedRes_ite (guardedRes_next h) ?_
      split
      · exact guardedRes_next h
      · exact guardedRes_next (guarded_writeSymbol h)

theorem guarded_execFhPortState {a s : State} {port : ℕ} {up : Bool} (h : Guarded a s) :
    GuardedRes a (execFhPortState port up s) := by
  unfold execFhPortState
  extract_lets +onlyGivenNames _
  refine guardedRes_ite (guardedRes_next h) ?_
  extract_lets +onlyGivenNames s2
  have h2 : Guarded a s2 := guarded_settle (guarded_setOwn (guarded_setFld h (by decide)))
  clear_value s2
  exact guardedRes_next (guarded_raise h2)

theorem guarded_execResourceClaim {a s : State} {mb : ℕ} (h : Guarded a s) : GuardedRes a (execResourceClaim mb s) := by
  unfold execResourceClaim
  refine guardedRes_next (guarded_mbRow h ?_)
  dsimp only
  exact guarded_ite_fst (guarded_fails h) (guarded_ite_fst (guarded_fails h) (guarded_ends (guarded_ite h (guarded_setHolder
      h))))

theorem guarded_execResourceRelease {a s : State} {mb : ℕ} (h : Guarded a s) :
    GuardedRes a (execResourceRelease mb s) := by
  unfold execResourceRelease
  refine guardedRes_next (guarded_mbRow h ?_)
  dsimp only
  exact guarded_ite_fst (guarded_fails h) (guarded_ends (guarded_settle (guarded_ite (guarded_resumeView (guarded_freeHolder
      h)) (guarded_freeHolder h))))

theorem guarded_execSensorRead {a s : State} {mb : ℕ} (h : Guarded a s) : GuardedRes a (execSensorRead mb s) := by
  unfold execSensorRead
  refine guardedRes_next (guarded_mbRow h ?_)
  dsimp only
  exact guarded_ite_fst (guarded_fails h) (guarded_ends h)

theorem guarded_execLogRead {a s : State} {mb : ℕ} (h : Guarded a s) : GuardedRes a (execLogRead mb s) := by
  unfold execLogRead
  refine guardedRes_next (guarded_mbRow h ?_)
  dsimp only
  exact guarded_ite_fst (guarded_fails h) (guarded_ends (guarded_hostPut h))

theorem guarded_putWhole {a s : State} {mb : ℕ} {bs : List Byte} (h : Guarded a s) :
    Guarded a (State.putWhole s mb bs).1 := by
  unfold State.putWhole
  exact guarded_ite_fst (guarded_fails h) (guarded_ends (guarded_hostPut h))

theorem guarded_execLifetimeRead {a s : State} {mb : ℕ} (h : Guarded a s) : GuardedRes a (execLifetimeRead mb s) := by
  unfold execLifetimeRead
  exact guardedRes_next (guarded_mbRow h (guarded_putWhole h))

theorem guarded_execCertRead {a s : State} {mb : ℕ} (h : Guarded a s) : GuardedRes a (execCertRead mb s) := by
  unfold execCertRead
  exact guardedRes_next (guarded_mbRow h (guarded_putWhole h))

theorem guarded_authFailed {a s : State} {code : ℕ} (h : Guarded a s) : Guarded a (State.authFailed s code) := by
  unfold State.authFailed
  exact guarded_raise (guarded_bump h (by decide))

theorem guarded_execFwStage {a s : State} {mb : ℕ} (h : Guarded a s) : GuardedRes a (execFwStage mb s) := by
  unfold execFwStage
  refine guardedRes_next (guarded_mbRow h ?_)
  dsimp only
  exact guarded_ite_fst (guarded_fails h) (guarded_ite_fst (guarded_fails h) (guarded_ite_fst h (guarded_ite_fst
      (guarded_fails (guarded_authFailed h)) (guarded_ite_fst (guarded_fails h) (guarded_starts (guarded_setFld
      (guarded_setSlot h) (by decide)))))))

theorem guarded_markTrial {a s t : State} (h : Guarded a s) (e : s.markTrial = some t) : Guarded a t := by
  unfold State.markTrial at e
  split at e
  · cases e
    exact guarded_setFld_status h (by decide) (by decide) (by decide)
  · cases e

theorem guarded_execFwActivate {a s : State} {mb : ℕ} (h : Guarded a s) : GuardedRes a (execFwActivate mb s) := by
  unfold execFwActivate
  refine guardedRes_next (guarded_mbRow h ?_)
  split
  · exact guarded_fails h
  · rename_i e
    have ht := guarded_markTrial h e
    exact guarded_ite_fst (guarded_deviceReset (guarded_mbAnswer ht)) (guarded_ends ht)

theorem guarded_execFwActivateResetNow {a s : State} {mb : ℕ} (h : Guarded a s) :
    GuardedRes a (execFwActivateResetNow mb s) := by
  unfold execFwActivateResetNow
  refine guardedRes_next (guarded_mbRow h ?_)
  split
  · exact guarded_fails h
  · rename_i e
    exact guarded_deviceReset (guarded_mbAnswer (guarded_markTrial h e))

theorem guarded_execAttest {a s : State} {mb : ℕ} (h : Guarded a s) : GuardedRes a (execAttest mb s) := by
  unfold execAttest
  refine guardedRes_next (guarded_mbRow h ?_)
  dsimp only
  exact guarded_ends (guarded_hostPut h)

theorem guarded_debugEvent {a s : State} (h : Guarded a s) : Guarded a (State.debugEvent s) := by
  unfold State.debugEvent
  exact guarded_raise h

/-- The state with debug unlocked. -/
def State.unlocked (s : State) : State := s.setFld (rk .SC_STATUS) 0 1 1

theorem scWord_setReg (s : State) (v : Word) : scWord (s.setReg (rk .SC_STATUS) v).regs = v.toNat := by
  simp [State.setReg, scWord_regPut]

theorem scWord_setFld (s : State) (lo w x : Nat) :
    scWord (s.setFld (rk .SC_STATUS) lo w x).regs = (setBits (s.reg (rk .SC_STATUS)) lo w x).toNat :=
  scWord_setReg _ _

/-- An unlock keeps the queue and the fused level; the lock of an unlocked state guards nothing. -/
theorem guarded_unlock {a s : State} (h : Guarded a s) : Guarded a.unlocked s.unlocked := by
  obtain ⟨queue, -, level⟩ := h
  unfold State.unlocked
  refine ⟨queue, fun locked => ?_, ?_⟩
  · rw [scWord_setFld, bitsOf_setBits_same _ _ _ _ (by decide)] at locked
    exact absurd locked (by decide)
  · rw [scWord_setFld, scWord_setFld, bitsOf_setBits_other _ _ _ _ _ _ (by decide) (by decide),
      bitsOf_setBits_other _ _ _ _ _ _ (by decide) (by decide)]
    exact level

/-- What keeps the lock of a state keeps that of the unlocked one, where it is open. -/
theorem Guarded.unlock {a s : State} (h : Guarded a s) : Guarded a.unlocked s := by
  obtain ⟨queue, lock, level⟩ := h
  unfold State.unlocked
  refine ⟨queue, fun locked => ?_, ?_⟩
  · rw [scWord_setFld, bitsOf_setBits_same _ _ _ _ (by decide)] at locked
    exact absurd locked (by decide)
  · rw [scWord_setFld, bitsOf_setBits_other _ _ _ _ _ _ (by decide) (by decide)]
    exact level

/-- DEBUG_UNLOCK, from a state whose lock does not count. -/
theorem guarded_execDebugUnlock {a s : State} {mb : ℕ} (h : Guarded a s) :
    GuardedRes a.unlocked (execDebugUnlock mb s) := by
  unfold execDebugUnlock
  refine guardedRes_next (guarded_mbRow h.unlock (guarded_ite_fst h.unlock
    (guarded_ite_fst (guarded_fails (guarded_authFailed h.unlock)) ?_)))
  exact guarded_ends (guarded_debugEvent (guarded_showSc (guarded_unlock h).upd))

theorem guarded_relock {a s : State} (h : Guarded a s) : Guarded a (State.relock s) := by
  unfold State.relock
  extract_lets +onlyGivenNames s1 s2 s3
  have h1 : Guarded a s1 := h
  clear_value s1
  have h2 : Guarded a s2 := guarded_foldl h1 (fun s x h => guarded_ite h (guarded_setHolder h))
  clear_value s2
  have h3 : Guarded a s3 := guarded_foldl h2 (fun s x h => guarded_resumeU h)
  clear_value s3
  refine guarded_foldl h3 (fun s x h => ?_)
  extract_lets +onlyGivenNames s4
  have h4 : Guarded a s4 := guarded_ite (guarded_setFld h (by decide)) h
  clear_value s4
  exact guarded_ite (guarded_setFld h4 (by decide)) h4

/-- Debug locked again. -/
theorem guarded_lock {a s : State} (h : Guarded a s) : Guarded a (s.setFld (rk .SC_STATUS) 0 1 0) := by
  obtain ⟨queue, -, level⟩ := h
  refine ⟨queue, fun _ => ?_, ?_⟩
  · rw [scWord_setFld, bitsOf_setBits_same _ _ _ _ (by decide), Nat.zero_mod]
  · rw [scWord_setFld, bitsOf_setBits_other _ _ _ _ _ _ (by decide) (by decide)]
    exact level

theorem guarded_execDebugRelock {a s : State} {mb : ℕ} (h : Guarded a s) : GuardedRes a (execDebugRelock mb s) := by
  unfold execDebugRelock
  exact guardedRes_next (guarded_mbRow h (guarded_ends (guarded_debugEvent (guarded_lock (guarded_relock h)))))

theorem guarded_clearBasin {a s : State} {q : ℕ} (h : Guarded a s) : Guarded a (State.clearBasin s q) := by
  unfold State.clearBasin
  exact h.filter (fun k => !(match (regRow k.name).blk with
    | .bs => k.unit = s.physB q
    | .jt => k.unit / 17 = s.physB q / 4 && decide (k.unit % 17 / 4 = s.physB q % 4)
    | .se => decide (k.unit / 2 = s.physB q)
    | _ => false)) rfl

theorem guarded_clearPools {a s : State} {q n : ℕ} (h : Guarded a s) : Guarded a (State.clearPools s q n) := by
  unfold State.clearPools
  extract_lets +onlyGivenNames _
  exact h

theorem guarded_stackReset {a s : State} {st : ℕ} (h : Guarded a s) : Guarded a (State.stackReset s st) := by
  unfold State.stackReset
  extract_lets +onlyGivenNames _ _ s3 s4 s5
  have h3 : Guarded a s3 := h.filter (fun k => !((regRow k.name).blk = Blk.dm && k.unit = st)) rfl
  clear_value s3
  have h4 : Guarded a s4 := guarded_setFld h3 (by decide)
  clear_value s4
  have h5 : Guarded a s5 := guarded_ite h4 (guarded_setFld h4 (by decide))
  clear_value s5
  exact guarded_showSpace (guarded_flushed (guarded_settle (guarded_setOwn h5)))

theorem guarded_unitReset {a s : State} {l : ℕ} (h : Guarded a s) : Guarded a (State.unitReset s l) := by
  unfold State.unitReset
  extract_lets +onlyGivenNames _ p s3 s4 s5
  have h3 : Guarded a s3 := guarded_clearPools (guarded_clearTerrace (guarded_setTerrace (guarded_dropSamples h)))
  clear_value s3
  have h4 : Guarded a s4 := by
    refine guarded_ite (guarded_clearPools (guarded_clearBasin (guarded_setOwn h))) ?_
    exact h3.filter (fun k => !unitOfTerrace p k) rfl
  clear_value s4
  have h5 : Guarded a s5 := guarded_showIds (guarded_setHolder h4)
  clear_value s5
  exact guarded_flushed (guarded_settle (guarded_foldl h5 (fun s x h => guarded_showColumns h)))

theorem guarded_testReset {a s : State} {l : ℕ} (h : Guarded a s) : Guarded a (State.testReset s l) := by
  unfold State.testReset
  exact guarded_ite (guarded_stackReset h) (guarded_unitReset h)

theorem guarded_execUnitTest {a s : State} {mb : ℕ} {failing : Option ℕ} (h : Guarded a s) :
    GuardedRes a (execUnitTest mb failing s) := by
  unfold execUnitTest
  refine guardedRes_next (guarded_mbRow h ?_)
  split
  · exact guarded_fails h
  · exact guarded_ite_fst (guarded_fails h) (guarded_ite_fst (guarded_fails h) (guarded_starts (guarded_testReset h)))

theorem guarded_unitPassed {a s : State} {l : ℕ} (h : Guarded a s) : Guarded a (State.unitPassed s l) := by
  unfold State.unitPassed
  exact guarded_settle (guarded_ite (guarded_showSpace (guarded_setOwn h)) (guarded_ite (guarded_setOwn h) (guarded_ite h
      (guarded_setTerrace h))))

theorem guarded_runEnd {a s : State} {r : MbRun} (h : Guarded a s) : Guarded a (State.runEnd s r).1 := by
  unfold State.runEnd
  dsimp only
  split
  · exact guarded_showRings h
  · exact guarded_showRings h
  · exact guarded_left h
  · exact h
  · exact guarded_raise (guarded_setFld (guarded_setSlot h) (by decide))
  · exact guarded_unitPassed h
  · exact h

theorem guarded_execMailboxCompletion {a s : State} {mb : ℕ} (h : Guarded a s) :
    GuardedRes a (execMailboxCompletion mb s) := by
  unfold execMailboxCompletion
  dsimp only
  split
  · exact guardedRes_next h
  · exact guardedRes_ite (guardedRes_next (guarded_mbAnswer (guarded_runEnd h))) (guardedRes_next (guarded_runEnd h))

theorem guarded_detach {a s : State} (h : Guarded a s) : Guarded a (State.detach s) := by
  unfold State.detach
  extract_lets +onlyGivenNames s1
  have h1 : Guarded a s1 := by
    refine guarded_foldl h (fun s x h => ?_)
    extract_lets +onlyGivenNames _
    exact h
  clear_value s1
  exact h1

theorem guarded_releaseHost {a s : State} (h : Guarded a s) : Guarded a (State.releaseHost s) := by
  unfold State.releaseHost
  refine guarded_foldl h (fun s x h => ?_)
  extract_lets +onlyGivenNames s1
  have h1 : Guarded a s1 := guarded_freeHolder h
  clear_value s1
  exact guarded_ite (guarded_resumeView h1) h1

theorem guarded_execFunctionLevelReset {a s : State} (h : Guarded a s) : GuardedRes a (execFunctionLevelReset s) := by
  unfold execFunctionLevelReset
  refine guardedRes_ite (guardedRes_next h) ?_
  extract_lets +onlyGivenNames s1 s2 s3 s4
  have h1 : Guarded a s1 := guarded_foldl h (fun s x h => guarded_ite h (guarded_closeRing h))
  clear_value s1
  have h2 : Guarded a s2 := h1.filter (fun k => !flrReg k) rfl
  clear_value s2
  have h3 : Guarded a s3 := guarded_foldl (guarded_detach h2) (fun s x h => guarded_ringGone h)
  clear_value s3
  have h4 : Guarded a s4 := guarded_showRings (guarded_setReg h3 (by decide))
  clear_value s4
  exact guardedRes_next (guarded_resetDone (guarded_settle (guarded_releaseHost h4)))

theorem guarded_freeVectors {a s : State} (h : Guarded a s) : Guarded a (State.freeVectors s) := by
  unfold State.freeVectors
  refine guarded_ite h (guarded_foldl h (fun s x h => guarded_ite h (guarded_foldl h (fun s x h => ?_))))
  extract_lets +onlyGivenNames _
  exact guarded_ite (guarded_send (guarded_setFld h (by decide))) h

theorem guarded_afterWrite {a s : State} {k : RegKey} (h : Guarded a s) : Guarded a (State.afterWrite s k) := by
  unfold State.afterWrite
  dsimp only
  split
  · exact guarded_lostPost h
  · exact guarded_settle h
  · exact guarded_showSuspects h
  · exact guarded_showHalt h
  · exact guarded_ite h (guarded_portDown h)
  · exact guarded_freeVectors h
  · exact guarded_mgtUnmask h
  · exact guarded_mgtUnmask h
  · exact guarded_ite (guarded_send (guarded_setFld h (by decide))) h
  · exact h

/-- The fields of SC_STATUS are read only: a write leaves the debug bit and the fused level. -/
theorem writtenWord_status (old v : Nat) :
    bitsOf (writtenWord (regRow .SC_STATUS).fields old v).toNat 0 1 = bitsOf old 0 1 ∧
    bitsOf (writtenWord (regRow .SC_STATUS).fields old v).toNat 6 7 = bitsOf old 6 7 := by
  have keeps (f : Field) (mem : f ∈ (regRow .SC_STATUS).fields) (ro : f.acc = .ro) :
      bitsOf (writtenWord (regRow .SC_STATUS).fields old v).toNat f.lo f.w = bitsOf old f.lo f.w := by
    rw [writtenWord_toNat, bitsOf_fieldWord (regRow_ascending _) (fun f _ => f.written_lt old v) mem]
    simp [Field.written, ro]
  exact ⟨keeps ⟨0, 1, .ro, 0⟩ (by decide) rfl, keeps ⟨6, 7, .ro, 0⟩ (by decide) rfl⟩

theorem guarded_written {a s : State} {k : RegKey} {v : ℕ} (h : Guarded a s) :
    Guarded a (s.setReg k (writtenWord (regRow k.name).fields (s.reg k).toNat v)) := by
  obtain ⟨queue, lock, level⟩ := h
  by_cases hk : k = rk .SC_STATUS
  · subst hk
    rw [show (rk .SC_STATUS).name = .SC_STATUS from rfl]
    obtain ⟨same0, same6⟩ := writtenWord_status (s.reg (rk .SC_STATUS)).toNat v
    refine ⟨queue, fun locked => ?_, ?_⟩
    · rw [scWord_setReg, same0]
      exact lock locked
    · rw [scWord_setReg, same6]
      exact level
  · have value : scWord (s.setReg k (writtenWord (regRow k.name).fields (s.reg k).toNat v)).regs = scWord s.regs := by
      simp [State.setReg, scWord_regPut, hk]
    exact ⟨queue, value ▸ lock, value ▸ level⟩

theorem guarded_regWrite {a s : State} {k : RegKey} {n v : ℕ} (h : Guarded a s) : Guarded a (State.regWrite s k n v) := by
  unfold State.regWrite
  exact guarded_ite h (guarded_ite (guarded_writeScale h) (guarded_afterWrite (guarded_written h)))

theorem guarded_mboxWrite {a s : State} {a' : ℕ} {bs : List Byte} (h : Guarded a s) :
    Guarded a (State.mboxWrite s a' bs) := by
  unfold State.mboxWrite
  extract_lets +onlyGivenNames _ _ s3 _ s5
  have h3 : Guarded a s3 := h
  clear_value s3
  have h5 : Guarded a s5 := guarded_ite (guarded_setFld h3 (by decide)) h3
  clear_value s5
  exact guarded_ite (guarded_mbStart h5) h5

theorem guarded_barWrite {a s : State} {bar off n v : ℕ} (h : Guarded a s) :
    Guarded a (State.barWrite s bar off n v) := by
  unfold State.barWrite
  refine guarded_ite (guarded_ite (guarded_mboxWrite h) h) (guarded_ite (guarded_ite (guarded_mboxWrite h) h) (guarded_ite h
      ?_))
  split
  · exact guarded_regWrite h
  · exact h

theorem guarded_execRegisterWrite {a s : State} {bar offset bytes : ℕ} {value : BitVec 64} (h : Guarded a s) :
    GuardedRes a (execRegisterWrite bar offset bytes value s) := by
  unfold execRegisterWrite
  exact guardedRes_next (guarded_barWrite h)

/-! ### Every command -/

theorem GuardedRes.of_eq {a : State} {r r' : Res} (h : GuardedRes a r') (e : r = r') : GuardedRes a r := e ▸ h

/-- Every command but DEBUG_UNLOCK keeps the queue and the debug lock and does not lower the fused level. -/
theorem guarded_exec (c : Instr) (s : State) (other : ∀ mb, c ≠ .debugUnlock mb) : GuardedRes s (exec c s) := by
  cases c with
  | doorbellWrite _ _ _ => exact (guarded_execDoorbellWrite (.refl s)).of_eq (exec_doorbellWrite _ _ _ s)
  | tick => exact (guarded_execTick (.refl s)).of_eq (exec_tick s)
  | matmul _ _ => exact (guarded_execMatmul (.refl s)).of_eq (exec_matmul _ _ s)
  | fusedPair _ => exact (guarded_execFusedPair (.refl s)).of_eq (exec_fusedPair _ s)
  | checknode _ => exact (guarded_execChecknode (.refl s)).of_eq (exec_checknode _ s)
  | reduce _ => exact (guarded_execReduce (.refl s)).of_eq (exec_reduce _ s)
  | update _ => exact (guarded_execUpdate (.refl s)).of_eq (exec_update _ s)
  | convert _ => exact (guarded_execConvert (.refl s)).of_eq (exec_convert _ s)
  | gatherRows _ => exact (guarded_execGatherRows (.refl s)).of_eq (exec_gatherRows _ s)
  | gatherColumns _ => exact (guarded_execGatherColumns (.refl s)).of_eq (exec_gatherColumns _ s)
  | hazeSelect _ => exact (guarded_execHazeSelect (.refl s)).of_eq (exec_hazeSelect _ s)
  | forecast _ => exact (guarded_execForecast (.refl s)).of_eq (exec_forecast _ s)
  | barrier _ => exact (guarded_execBarrier (.refl s)).of_eq (exec_barrier _ s)
  | barrierArrival _ => exact (guarded_execBarrierArrival (.refl s)).of_eq (exec_barrierArrival _ s)
  | barrierTimeout _ => exact (guarded_execBarrierTimeout (.refl s)).of_eq (exec_barrierTimeout _ s)
  | dot _ => exact (guarded_execDot (.refl s)).of_eq (exec_dot _ s)
  | toStream _ => exact (guarded_execToStream (.refl s)).of_eq (exec_toStream _ s)
  | fromStream _ => exact (guarded_execFromStream (.refl s)).of_eq (exec_fromStream _ s)
  | drain _ => exact (guarded_execDrain (.refl s)).of_eq (exec_drain _ s)
  | reshard _ => exact (guarded_execReshard (.refl s)).of_eq (exec_reshard _ s)
  | weightTileLoaded _ _ _ => exact (guarded_execWeightTileLoaded (.refl s)).of_eq (exec_weightTileLoaded _ _ _ s)
  | swap _ _ => exact (guarded_execSwap (.refl s)).of_eq (exec_swap _ _ s)
  | groupDrain _ => exact (guarded_execGroupDrain (.refl s)).of_eq (exec_groupDrain _ s)
  | preemption _ _ => exact (guarded_execPreemption (.refl s)).of_eq (exec_preemption _ _ s)
  | slotWaitEnd _ => exact (guarded_execSlotWaitEnd (.refl s)).of_eq (exec_slotWaitEnd _ s)
  | slotTimeout _ => exact (guarded_execSlotTimeout (.refl s)).of_eq (exec_slotTimeout _ s)
  | completionRecordPost _ => exact (guarded_execCompletionRecordPost (.refl s)).of_eq (exec_completionRecordPost _ s)
  | msixTimer _ => exact (guarded_execMsixTimer (.refl s)).of_eq (exec_msixTimer _ s)
  | haloComparison _ => exact (guarded_execHaloComparison (.refl s)).of_eq (exec_haloComparison _ s)
  | poolWriteRequest _ _ _ _ _ => exact (guarded_execPoolWriteRequest (.refl s)).of_eq (exec_poolWriteRequest _ _ _ _ _ s)
  | hostWrite _ _ => exact (guarded_execHostWrite (.refl s)).of_eq (exec_hostWrite _ _ s)
  | hostRead _ _ => exact (guarded_execHostRead (.refl s)).of_eq (exec_hostRead _ _ s)
  | readCompletion _ _ => exact (guarded_execReadCompletion (.refl s)).of_eq (exec_readCompletion _ _ s)
  | completionTimeout _ => exact (guarded_execCompletionTimeout (.refl s)).of_eq (exec_completionTimeout _ s)
  | hostLinkDown => exact (guarded_execHostLinkDown (.refl s)).of_eq (exec_hostLinkDown s)
  | hostLinkUp _ _ _ => exact (guarded_execHostLinkUp (.refl s)).of_eq (exec_hostLinkUp _ _ _ s)
  | functionLevelReset => exact (guarded_execFunctionLevelReset (.refl s)).of_eq (exec_functionLevelReset s)
  | d3hot => exact (guarded_execD3hot (.refl s)).of_eq (exec_d3hot s)
  | d0 => exact (guarded_execD0 (.refl s)).of_eq (exec_d0 s)
  | hotReset => exact (guarded_execHotReset (.refl s)).of_eq (exec_hotReset s)
  | hstPerstLAssert => exact (guarded_execHstPerstLAssert (.refl s)).of_eq (exec_hstPerstLAssert s)
  | deviceReset _ => exact (guarded_execDeviceReset (.refl s)).of_eq (exec_deviceReset _ s)
  | computeReset _ => exact (guarded_execComputeReset (.refl s)).of_eq (exec_computeReset _ s)
  | computeResetDone => exact (guarded_execComputeResetDone (.refl s)).of_eq (exec_computeResetDone s)
  | mgtPerstLAssert => exact (guarded_execMgtPerstLAssert (.refl s)).of_eq (exec_mgtPerstLAssert s)
  | smbusReadWord _ => exact (guarded_execSmbusReadWord (.refl s)).of_eq (exec_smbusReadWord _ s)
  | registerWrite _ _ _ _ => exact (guarded_execRegisterWrite (.refl s)).of_eq (exec_registerWrite _ _ _ _ s)
  | rcCounterRead _ _ => exact (guarded_execRcCounterRead (.refl s)).of_eq (exec_rcCounterRead _ _ s)
  | debugHalt => exact (guarded_execDebugHalt (.refl s)).of_eq (exec_debugHalt s)
  | debugResume => exact (guarded_execDebugResume (.refl s)).of_eq (exec_debugResume s)
  | eccInjectArm _ _ => exact (guarded_execEccInjectArm (.refl s)).of_eq (exec_eccInjectArm _ _ s)
  | closeStep _ => exact (guarded_execCloseStep (.refl s)).of_eq (exec_closeStep _ s)
  | lifetimeSave _ => exact (guarded_execLifetimeSave (.refl s)).of_eq (exec_lifetimeSave _ s)
  | hello _ => exact (guarded_execHello (.refl s)).of_eq (exec_hello _ s)
  | ringSetup _ => exact (guarded_execRingSetup (.refl s)).of_eq (exec_ringSetup _ s)
  | ringTeardown _ => exact (guarded_execRingTeardown (.refl s)).of_eq (exec_ringTeardown _ s)
  | cqSetup _ => exact (guarded_execCqSetup (.refl s)).of_eq (exec_cqSetup _ s)
  | cqTeardown _ => exact (guarded_execCqTeardown (.refl s)).of_eq (exec_cqTeardown _ s)
  | eventSetup _ => exact (guarded_execEventSetup (.refl s)).of_eq (exec_eventSetup _ s)
  | eventTeardown _ => exact (guarded_execEventTeardown (.refl s)).of_eq (exec_eventTeardown _ s)
  | groupBindReplace _ => exact (guarded_execGroupBindReplace (.refl s)).of_eq (exec_groupBindReplace _ s)
  | groupBindAdd _ => exact (guarded_execGroupBindAdd (.refl s)).of_eq (exec_groupBindAdd _ s)
  | groupBindRemove _ => exact (guarded_execGroupBindRemove (.refl s)).of_eq (exec_groupBindRemove _ s)
  | groupBindUnbind _ => exact (guarded_execGroupBindUnbind (.refl s)).of_eq (exec_groupBindUnbind _ s)
  | tensorAlloc _ _ _ _ => exact (guarded_execTensorAlloc (.refl s)).of_eq (exec_tensorAlloc _ _ _ _ s)
  | tensorFree _ => exact (guarded_execTensorFree (.refl s)).of_eq (exec_tensorFree _ s)
  | spillGrant _ => exact (guarded_execSpillGrant (.refl s)).of_eq (exec_spillGrant _ s)
  | spillRevoke _ => exact (guarded_execSpillRevoke (.refl s)).of_eq (exec_spillRevoke _ s)
  | placeQuery _ => exact (guarded_execPlaceQuery (.refl s)).of_eq (exec_placeQuery _ s)
  | phasePlanDefine _ => exact (guarded_execPhasePlanDefine (.refl s)).of_eq (exec_phasePlanDefine _ s)
  | phasePlanSelect _ => exact (guarded_execPhasePlanSelect (.refl s)).of_eq (exec_phasePlanSelect _ s)
  | phasePlanDrop _ => exact (guarded_execPhasePlanDrop (.refl s)).of_eq (exec_phasePlanDrop _ s)
  | tensorLoad _ => exact (guarded_execTensorLoad (.refl s)).of_eq (exec_tensorLoad _ s)
  | tensorLoadEncode _ => exact (guarded_execTensorLoadEncode (.refl s)).of_eq (exec_tensorLoadEncode _ s)
  | monitorSnapshot _ => exact (guarded_execMonitorSnapshot (.refl s)).of_eq (exec_monitorSnapshot _ s)
  | monitorRestore _ => exact (guarded_execMonitorRestore (.refl s)).of_eq (exec_monitorRestore _ s)
  | emuBasadCfgGet _ => exact (guarded_execEmuBasadCfgGet (.refl s)).of_eq (exec_emuBasadCfgGet _ s)
  | emuBasadCfgSet _ => exact (guarded_execEmuBasadCfgSet (.refl s)).of_eq (exec_emuBasadCfgSet _ s)
  | cascadeJoin _ => exact (guarded_execCascadeJoin (.refl s)).of_eq (exec_cascadeJoin _ s)
  | cascadeLeave _ => exact (guarded_execCascadeLeave (.refl s)).of_eq (exec_cascadeLeave _ s)
  | timeSet _ => exact (guarded_execTimeSet (.refl s)).of_eq (exec_timeSet _ s)
  | timeSetAtPps _ => exact (guarded_execTimeSetAtPps (.refl s)).of_eq (exec_timeSetAtPps _ s)
  | cellConfigSet _ => exact (guarded_execCellConfigSet (.refl s)).of_eq (exec_cellConfigSet _ s)
  | cellConfigClear _ => exact (guarded_execCellConfigClear (.refl s)).of_eq (exec_cellConfigClear _ s)
  | unitTest _ _ => exact (guarded_execUnitTest (.refl s)).of_eq (exec_unitTest _ _ s)
  | resourceClaim _ => exact (guarded_execResourceClaim (.refl s)).of_eq (exec_resourceClaim _ s)
  | resourceRelease _ => exact (guarded_execResourceRelease (.refl s)).of_eq (exec_resourceRelease _ s)
  | sensorRead _ => exact (guarded_execSensorRead (.refl s)).of_eq (exec_sensorRead _ s)
  | logRead _ => exact (guarded_execLogRead (.refl s)).of_eq (exec_logRead _ s)
  | lifetimeRead _ => exact (guarded_execLifetimeRead (.refl s)).of_eq (exec_lifetimeRead _ s)
  | fwStage _ => exact (guarded_execFwStage (.refl s)).of_eq (exec_fwStage _ s)
  | fwActivate _ => exact (guarded_execFwActivate (.refl s)).of_eq (exec_fwActivate _ s)
  | fwActivateResetNow _ => exact (guarded_execFwActivateResetNow (.refl s)).of_eq (exec_fwActivateResetNow _ s)
  | attest _ => exact (guarded_execAttest (.refl s)).of_eq (exec_attest _ s)
  | debugUnlock mb => exact absurd rfl (other mb)
  | debugRelock _ => exact (guarded_execDebugRelock (.refl s)).of_eq (exec_debugRelock _ s)
  | certRead _ => exact (guarded_execCertRead (.refl s)).of_eq (exec_certRead _ s)
  | broadcast _ => exact (guarded_execBroadcast (.refl s)).of_eq (exec_broadcast _ s)
  | broadcastCopy _ => exact (guarded_execBroadcastCopy (.refl s)).of_eq (exec_broadcastCopy _ s)
  | snapshot _ => exact (guarded_execSnapshot (.refl s)).of_eq (exec_snapshot _ s)
  | snapshotHold => exact (guarded_execSnapshotHold (.refl s)).of_eq (exec_snapshotHold s)
  | snapshotRelease => exact (guarded_execSnapshotRelease (.refl s)).of_eq (exec_snapshotRelease s)
  | reset _ => exact (guarded_execReset (.refl s)).of_eq (exec_reset _ s)
  | resetMessage => exact (guarded_execResetMessage (.refl s)).of_eq (exec_resetMessage s)
  | gopAnswer _ _ _ => exact (guarded_execGopAnswer (.refl s)).of_eq (exec_gopAnswer _ _ _ s)
  | gopAnswerTimeout _ => exact (guarded_execGopAnswerTimeout (.refl s)).of_eq (exec_gopAnswerTimeout _ s)
  | remoteDescriptor _ _ _ _ _ => exact (guarded_execRemoteDescriptor (.refl s)).of_eq (exec_remoteDescriptor _ _ _ _ _ s)
  | remoteCompletion _ _ => exact (guarded_execRemoteCompletion (.refl s)).of_eq (exec_remoteCompletion _ _ s)
  | cascadeExchange _ _ _ _ _ => exact (guarded_execCascadeExchange (.refl s)).of_eq (exec_cascadeExchange _ _ _ _ _ s)
  | flitReceive _ _ _ _ => exact (guarded_execFlitReceive (.refl s)).of_eq (exec_flitReceive _ _ _ _ s)
  | laneFault _ _ => exact (guarded_execLaneFault (.refl s)).of_eq (exec_laneFault _ _ s)
  | retrainDone _ => exact (guarded_execRetrainDone (.refl s)).of_eq (exec_retrainDone _ s)
  | portUp _ => exact (guarded_execPortUp (.refl s)).of_eq (exec_portUp _ s)
  | frameReceive _ _ _ => exact (guarded_execFrameReceive (.refl s)).of_eq (exec_frameReceive _ _ _ s)
  | symbolWrite _ _ => exact (guarded_execSymbolWrite (.refl s)).of_eq (exec_symbolWrite _ _ s)
  | fhPortState _ _ => exact (guarded_execFhPortState (.refl s)).of_eq (exec_fhPortState _ _ s)
  | ppsEdge => exact (guarded_execPpsEdge (.refl s)).of_eq (exec_ppsEdge s)
  | ppsMissed => exact (guarded_execPpsMissed (.refl s)).of_eq (exec_ppsMissed s)
  | referencePresent => exact (guarded_execReferencePresent (.refl s)).of_eq (exec_referencePresent s)
  | referenceLocked => exact (guarded_execReferenceLocked (.refl s)).of_eq (exec_referenceLocked s)
  | referenceLost => exact (guarded_execReferenceLost (.refl s)).of_eq (exec_referenceLost s)
  | holdoverExpiry => exact (guarded_execHoldoverExpiry (.refl s)).of_eq (exec_holdoverExpiry s)
  | slotTick => exact (guarded_execSlotTick (.refl s)).of_eq (exec_slotTick s)
  | telemetryTick _ _ => exact (guarded_execTelemetryTick (.refl s)).of_eq (exec_telemetryTick _ _ s)
  | sensorSample _ => exact (guarded_execSensorSample (.refl s)).of_eq (exec_sensorSample _ s)
  | inputPowerGood _ => exact (guarded_execInputPowerGood (.refl s)).of_eq (exec_inputPowerGood _ s)
  | powerWarn _ _ => exact (guarded_execPowerWarn (.refl s)).of_eq (exec_powerWarn _ _ s)
  | powerRestored _ => exact (guarded_execPowerRestored (.refl s)).of_eq (exec_powerRestored _ s)
  | overvoltage _ _ => exact (guarded_execOvervoltage (.refl s)).of_eq (exec_overvoltage _ _ s)
  | switchClose => exact (guarded_execSwitchClose (.refl s)).of_eq (exec_switchClose s)
  | consistentSnapshot => exact (guarded_execConsistentSnapshot (.refl s)).of_eq (exec_consistentSnapshot s)
  | orderlyStop => exact (guarded_execOrderlyStop (.refl s)).of_eq (exec_orderlyStop s)
  | rootLockLoss => exact (guarded_execRootLockLoss (.refl s)).of_eq (exec_rootLockLoss s)
  | bistWaveEnd _ => exact (guarded_execBistWaveEnd (.refl s)).of_eq (exec_bistWaveEnd _ s)
  | stackTrained _ => exact (guarded_execStackTrained (.refl s)).of_eq (exec_stackTrained _ s)
  | stackTrainingTimeout _ _ => exact (guarded_execStackTrainingTimeout (.refl s)).of_eq (exec_stackTrainingTimeout _ _ s)
  | zenithReady => exact (guarded_execZenithReady (.refl s)).of_eq (exec_zenithReady s)
  | fwTrialTimeout => exact (guarded_execFwTrialTimeout (.refl s)).of_eq (exec_fwTrialTimeout s)
  | residueMismatch _ _ => exact (guarded_execResidueMismatch (.refl s)).of_eq (exec_residueMismatch _ _ s)
  | accumulatorEccError _ => exact (guarded_execAccumulatorEccError (.refl s)).of_eq (exec_accumulatorEccError _ s)
  | progressFault _ => exact (guarded_execProgressFault (.refl s)).of_eq (exec_progressFault _ s)
  | failoverDone _ _ => exact (guarded_execFailoverDone (.refl s)).of_eq (exec_failoverDone _ _ s)
  | sparseEngineFault _ => exact (guarded_execSparseEngineFault (.refl s)).of_eq (exec_sparseEngineFault _ s)
  | fatalFault _ _ => exact (guarded_execFatalFault (.refl s)).of_eq (exec_fatalFault _ _ s)
  | dramPatrol _ _ => exact (guarded_execDramPatrol (.refl s)).of_eq (exec_dramPatrol _ _ s)
  | spill _ _ => exact (guarded_execSpill (.refl s)).of_eq (exec_spill _ _ s)
  | fill _ => exact (guarded_execFill (.refl s)).of_eq (exec_fill _ s)
  | lifetimeSecond => exact (guarded_execLifetimeSecond (.refl s)).of_eq (exec_lifetimeSecond s)
  | lifetimeRecordSave => exact (guarded_execLifetimeRecordSave (.refl s)).of_eq (exec_lifetimeRecordSave s)
  | flashLogWrite => exact (guarded_execFlashLogWrite (.refl s)).of_eq (exec_flashLogWrite s)
  | hstPerstLRelease => exact (guarded_execHstPerstLRelease (.refl s)).of_eq (exec_hstPerstLRelease s)
  | nimbusReady => exact (guarded_execNimbusReady (.refl s)).of_eq (exec_nimbusReady s)
  | rootPllLock => exact (guarded_execRootPllLock (.refl s)).of_eq (exec_rootPllLock s)
  | mailboxCompletion _ => exact (guarded_execMailboxCompletion (.refl s)).of_eq (exec_mailboxCompletion _ s)
  | stepCloseEnd => exact (guarded_execStepCloseEnd (.refl s)).of_eq (exec_stepCloseEnd s)
  | ppsOutPulse => exact (guarded_execPpsOutPulse (.refl s)).of_eq (exec_ppsOutPulse s)

/-- Every command, DEBUG_UNLOCK too, keeps the queue and does not lower the fused level. -/
theorem exec_keepsQueue (c : Instr) (s : State) : ∃ t, exec c s = .next t ∧ t.pending = s.pending ∧ s.fused ≤ t.fused := by
  by_cases unlock : ∃ mb, c = .debugUnlock mb
  · obtain ⟨mb, rfl⟩ := unlock
    obtain ⟨t, next, queue, -, level⟩ := guarded_execDebugUnlock (Guarded.refl s) (mb := mb)
    refine ⟨t, next, queue, le_trans (le_of_eq ?_) level⟩
    exact (scWord_setFld s 0 1 1 ▸ bitsOf_setBits_other _ 0 1 1 6 7 (by decide) (by decide)).symm
  · obtain ⟨t, next, queue, -, level⟩ := guarded_exec c s fun mb e => unlock ⟨mb, e⟩
    exact ⟨t, next, queue, level⟩

/-- Settles O4: the walk through every command shows that it answers a next state with the queue it had. -/
theorem commandsAnswerAndLeaveTheQueue : Obligations.CommandsAnswerAndLeaveTheQueue := by
  unfold Obligations.CommandsAnswerAndLeaveTheQueue
  intro c s
  obtain ⟨t, next, queue, -⟩ := exec_keepsQueue c s
  exact ⟨t, next, queue⟩

/-- Settles O5: a step is a clock tick or a command, and only DEBUG_UNLOCK opens the lock. -/
theorem onlyUnlockOpensDebug : Obligations.OnlyUnlockOpensDebug := by
  unfold Obligations.OnlyUnlockOpensDebug
  intro s t locked front stepped
  have keeps {u : State} (shut : u.debugOn = false) (h : Guarded u t) : t.debugOn = false := by
    obtain ⟨-, lock, -⟩ := h
    have off (x : State) : x.debugOn = false ↔ bitsOf (scWord x.regs) 0 1 = 0 := by
      have bit : bitsOf (scWord x.regs) 0 1 < 2 ^ 1 := bitsOf_lt _ 0 1
      show decide (bitsOf (scWord x.regs) 0 1 = 1) = false ↔ _
      rw [decide_eq_false_iff_not]
      omega
    exact (off t).mpr (lock ((off u).mp shut))
  cases queue : s.pending with
  | nil =>
    rw [step_idle s queue] at stepped
    cases stepped
    exact keeps locked (guarded_clockTick (.refl s))
  | cons c r =>
    rw [step_cons s c r queue] at stepped
    have other : ∀ mb, c ≠ .debugUnlock mb := fun mb e => front mb (by rw [queue, e]; rfl)
    obtain ⟨u, next, h⟩ := guarded_exec c { s with pending := r } other
    cases next.symm.trans stepped
    exact keeps (u := { s with pending := r }) locked h

/-- Settles O6: neither the clock nor a command lowers the fused level. -/
theorem fusedLevelNeverFalls : Obligations.FusedLevelNeverFalls := by
  unfold Obligations.FusedLevelNeverFalls
  intro s t stepped
  cases queue : s.pending with
  | nil =>
    rw [step_idle s queue] at stepped
    cases stepped
    obtain ⟨-, -, level⟩ := guarded_clockTick (Guarded.refl s)
    exact level
  | cons c r =>
    rw [step_cons s c r queue] at stepped
    obtain ⟨u, next, -, level⟩ := exec_keepsQueue c { s with pending := r }
    cases next.symm.trans stepped
    exact level

end Sys2Proof.Machine
end

section
/-! PROOFS. Accesses of registers: where a register stands, what a write leaves in it, what a read returns and clears
(00_scope.md, 14_rings_and_mailboxes.md). -/

namespace Sys2Proof.Machine

/-! ### Where registers stand -/

theorem lt_of_regAt_zero {off : Nat} {k : RegKey} (found : regAt 0 off = some k) : off < 0x1510000 := by
  by_contra above
  have reserved : blockAt off = none := by
    unfold blockAt
    rw [if_neg (by omega), if_neg (by omega), if_neg (by omega), if_neg (by omega)]
  simp [regAt, reserved] at found

/-- The register found at an offset is one of the block, and the offset lies within the row's places. -/
theorem mem_blockRegs_of_regInBlock {b : Blk} {unit off : Nat} {k : RegKey} (found : regInBlock b unit off = some k) :
    k.name ∈ blockRegs b ∧ k.unit = unit ∧ off ≤ (regRow k.name).off + (regRow k.name).stride * (regRow k.name).count := by
  unfold regInBlock at found
  obtain ⟨n, mem, row⟩ := List.exists_of_findSome?_eq_some found
  dsimp only at row
  split at row
  · split at row
    · next at' =>
      cases row
      exact ⟨mem, rfl, at'.trans_le (Nat.le_add_right _ _)⟩
    · cases row
  · split at row
    · next among =>
      obtain ⟨low, aligned, index⟩ := among
      cases row
      refine ⟨mem, rfl, ?_⟩
      have whole : (off - (regRow n).off) = (regRow n).stride * ((off - (regRow n).off) / (regRow n).stride) :=
        (Nat.mul_div_cancel' (Nat.dvd_of_mod_eq_zero aligned)).symm
      have := Nat.mul_le_mul_left (regRow n).stride index.le
      dsimp only
      omega
    · cases row

/-- The configuration space of the host link ends before that of the management link begins (log 25). -/
theorem cfg_extent : ∀ n ∈ blockRegs .cfg, (regRow n).off + (regRow n).stride * (regRow n).count < 0x1000000 := by decide

theorem lt_of_regAt_cfg {off : Nat} {k : RegKey} (found : regAt 8 off = some k) : off < 0x1000000 := by
  obtain ⟨mem, -, within⟩ := mem_blockRegs_of_regInBlock (b := .cfg) found
  have := cfg_extent _ mem
  omega

/-- No register of the configuration spaces clears as it is read. -/
theorem config_clears_nothing : ∀ n ∈ blockRegs .cfg ++ blockRegs .mcf, (regRow n).fields.any (fun f => f.acc = .rc) = false := by
  decide

theorem wide_iff (n : RegName) : n = .MGT_MB_COMPLETED ∨ n = .QE_BOUNDS_HI ∨ n = .TM_TICK_CFG ∨
    ((regRow n).wide = true ↔ ∃ f ∈ (regRow n).fields, 32 < f.lo + f.w) := by
  cases n <;> decide

/-! ### Accesses through the BARs -/

theorem barWrite_eq_regWrite {bar off : Nat} {k : RegKey} (space : bar = 0 ∨ bar = 8 ∨ bar = 9) (found : regAt bar off = some k)
    (s : State) (n v : Nat) : s.barWrite bar off n v = s.regWrite k n v := by
  have notMailbox : ¬ (bar = 0 ∧ 0x100000 ≤ off ∧ off + n ≤ 0x140000) := by
    rintro ⟨rfl, -, low⟩
    have := le_of_regAt_zero found
    omega
  rw [State.barWrite, if_neg notMailbox, if_neg (by omega), if_neg (by omega), if_neg (by omega), found]

theorem barRead_eq_regRead_zero {off : Nat} {k : RegKey} (found : regAt 0 off = some k) (s : State) (n : Nat) :
    s.barRead off n = (s.regClear k n, s.regRead k n) := by
  have low := le_of_regAt_zero found
  have high := lt_of_regAt_zero found
  rw [State.barRead, if_neg (by omega), if_neg (by omega), if_pos (by omega), found]

theorem regClear_of_no_rc {k : RegKey} (none : (regRow k.name).fields.any (fun f => f.acc = .rc) = false) (s : State) (n : Nat) :
    s.regClear k n = s := by
  simp only [State.regClear, none, Bool.and_false, Bool.false_eq_true, if_false]

/-- A read of a register, by whichever space: its value, and its RC fields cleared. -/
theorem barRead_eq_regRead {bar off : Nat} {k : RegKey} (space : bar = 0 ∨ bar = 8 ∨ bar = 9) (found : regAt bar off = some k)
    (s : State) (n : Nat) : s.barRead (readOffset bar off) n = (s.regClear k n, s.regRead k n) := by
  rcases space with rfl | rfl | rfl
  · exact barRead_eq_regRead_zero found s n
  · have high := lt_of_regAt_cfg found
    have quiet := config_clears_nothing k.name (List.mem_append_left _ (mem_blockRegs_of_regInBlock (b := .cfg) found).1)
    rw [show readOffset 8 off = 0x6000000 + off from rfl, State.barRead, if_neg (by omega), if_neg (by omega), if_neg (by omega),
      if_neg (by omega), if_pos (by omega), Nat.add_sub_cancel_left, found, regClear_of_no_rc quiet]
  · have quiet := config_clears_nothing k.name (List.mem_append_right _ (mem_blockRegs_of_regInBlock (b := .mcf) found).1)
    rw [show readOffset 9 off = 0x7000000 + off from rfl, State.barRead, if_neg (by omega), if_neg (by omega), if_neg (by omega),
      if_pos (by omega), Nat.add_sub_cancel_left, found, regClear_of_no_rc quiet]

theorem exec_registerWrite_reg {bar off : Nat} {k : RegKey} (space : bar = 0 ∨ bar = 8 ∨ bar = 9) (found : regAt bar off = some k)
    (n : Nat) (v : BitVec 64) (s : State) : exec (.registerWrite bar off n v) s = .next (s.regWrite k n v.toNat) := by
  rw [exec_registerWrite, execRegisterWrite, barWrite_eq_regWrite space found]

theorem exec_rcCounterRead_reg {bar off : Nat} {k : RegKey} (space : bar = 0 ∨ bar = 8 ∨ bar = 9) (found : regAt bar off = some k)
    (n : Nat) (s : State) : exec (.rcCounterRead (readOffset bar off) n) s =
      .next { s.regClear k n with readData := ⟨leBytes n (s.regRead k n), false, true⟩ } := by
  rw [exec_rcCounterRead, execRcCounterRead, barRead_eq_regRead space found]

/-! ### Accesses of another width -/

theorem regWrite_of_width {k : RegKey} {n : Nat} (width : n ≠ k.bytes) (s : State) (v : Nat) : s.regWrite k n v = s := by
  unfold RegKey.bytes at width
  simp [State.regWrite, width]

theorem regRead_of_width {k : RegKey} {n : Nat} (width : n ≠ k.bytes) (s : State) : s.regRead k n = 0 := by
  unfold RegKey.bytes at width
  simp [State.regRead, width]

theorem regClear_of_width {k : RegKey} {n : Nat} (width : n ≠ k.bytes) (s : State) : s.regClear k n = s := by
  unfold RegKey.bytes at width
  simp [State.regClear, width]

/-- Settles O7: the tables by rows, and the width that both the write and the read of a register compare first. -/
theorem otherAccessWidthsHaveNoEffect : Obligations.OtherAccessWidthsHaveNoEffect := by
  unfold Obligations.OtherAccessWidthsHaveNoEffect
  refine ⟨fun n a b c => (((wide_iff n).resolve_left a).resolve_left b).resolve_left c, fun bar off n v s k space found width => ?_, fun off n v s low high none => ?_⟩
  · rw [exec_registerWrite_reg space found, exec_rcCounterRead_reg space found, regWrite_of_width width,
      regClear_of_width width, regRead_of_width width]
    exact ⟨rfl, rfl⟩
  · constructor
    · by_cases empty : n = 0 ∧ off = 0x140000
      · obtain ⟨rfl, rfl⟩ := empty
        rfl
      rw [exec_registerWrite, execRegisterWrite, State.barWrite, if_neg (by omega), if_neg (by omega), if_neg (by omega),
        if_neg (by omega), none]
    · rw [exec_rcCounterRead, execRcCounterRead, State.barRead, if_neg (by omega), if_neg (by omega), if_pos (by omega), none]

/-! ### Writes of a register's width -/

theorem bitOf_eq_testBit (x i : Nat) : bitOf x i = x.testBit i := by
  rw [Nat.testBit_eq_decide_div_mod_eq]
  rfl

theorem written_testBit (f : Field) (old v : Nat) {i : Nat} (hi : i < f.w) :
    (f.written old v).testBit i = writtenBit f.acc (bitOf old (f.lo + i)) (bitOf v (f.lo + i)) := by
  have x : (bitsOf old f.lo f.w).testBit i = bitOf old (f.lo + i) := by simp [testBit_bitsOf, hi, bitOf_eq_testBit]
  have y : (bitsOf v f.lo f.w).testBit i = bitOf v (f.lo + i) := by simp [testBit_bitsOf, hi, bitOf_eq_testBit]
  have complement : (2 ^ f.w - 1 - bitsOf v f.lo f.w).testBit i = !bitOf v (f.lo + i) := by
    rw [show 2 ^ f.w - 1 - bitsOf v f.lo f.w = 2 ^ f.w - (bitsOf v f.lo f.w + 1) by omega,
      Nat.testBit_two_pow_sub_succ (bitsOf_lt v f.lo f.w), y]
    simp [hi]
  cases access : f.acc <;> simp [Field.written, writtenBit, access, x, y, complement]

theorem regWrite_of_width_own {k : RegKey} (s : State) (v : Nat) (row : hasRow k = false) (free : s.writeBarred k = false)
    (scale : k.name ≠ .WR_SLOT_SCALE) :
    s.regWrite k k.bytes v = (s.setReg k (writtenWord (regRow k.name).fields (s.reg k).toNat v)).afterWrite k := by
  simp [State.regWrite, RegKey.bytes, row, free, scale]

theorem regWrite_of_barred {k : RegKey} (s : State) (n v : Nat) (barred : s.writeBarred k = true) : s.regWrite k n v = s := by
  simp [State.regWrite, barred]

/-- Settles O8: the word written is put together from the fields, each by its access code. -/
theorem registerWritesFollowTheTables : Obligations.RegisterWritesFollowTheTables := by
  unfold Obligations.RegisterWritesFollowTheTables
  refine ⟨fun bar off v s k space found row free scale => ?_, fun off n v s k found barred => ?_⟩
  · have small : ∀ f ∈ (regRow k.name).fields, f.written (s.reg k).toNat v.toNat < 2 ^ f.w := fun f _ => f.written_lt _ _
    refine ⟨writtenWord (regRow k.name).fields (s.reg k).toNat v.toNat, ?_, fun f mem i hi => ?_, fun i apart => ?_⟩
    · rw [exec_registerWrite_reg space found, regWrite_of_width_own s _ row free scale]
    · rw [bitOf_eq_testBit, writtenWord_toNat, testBit_fieldWord_mem (regRow_ascending _) small mem hi, written_testBit f _ _ hi]
    · rw [bitOf_eq_testBit, writtenWord_toNat, testBit_fieldWord_apart (regRow_ascending _) small apart]
  · rw [exec_registerWrite_reg (.inl rfl) found, regWrite_of_barred s _ _ barred]

/-! ### Reads of a register's width -/

theorem leNat_leBytes (n x : Nat) : leNat (leBytes n x) = x % 2 ^ (8 * n) := by
  induction n generalizing x with
  | zero => simp [leBytes, leNat, Nat.mod_one]
  | succ n ih =>
    rw [leBytes, leNat, ih, BitVec.toNat_ofNat, show 8 * (n + 1) = 8 + 8 * n by omega, Nat.pow_add]
    exact (Nat.mod_mul).symm

theorem length_leBytes (n x : Nat) : (leBytes n x).length = n := by
  induction n generalizing x with
  | zero => rfl
  | succ n ih => rw [leBytes, List.length_cons, ih]

/-- What a read shows of a field: nothing of one that is write-only or hidden. -/
def State.shownField (s : State) (k : RegKey) (f : Field) : Nat :=
  if f.acc = .wo ∨ s.hides k f = true then 0 else s.fld k f.lo f.w

theorem State.shownField_lt (s : State) (k : RegKey) (f : Field) : s.shownField k f < 2 ^ f.w := by
  unfold State.shownField
  split
  · exact Nat.two_pow_pos _
  · exact bitsOf_lt _ _ _

theorem regRead_eq_fieldWord (s : State) (k : RegKey) : s.regRead k k.bytes = fieldWord (s.shownField k) (regRow k.name).fields := by
  have width : ¬ k.bytes ≠ if (regRow k.name).wide then 8 else 4 := by simp [RegKey.bytes]
  rw [State.regRead, if_neg width, fieldWord]
  congr 1
  refine List.map_congr_left fun f _ => ?_
  show (if (decide (f.acc = .wo) || s.hides k f) = true then 0 else s.fld k f.lo f.w * 2 ^ f.lo) = _
  unfold State.shownField
  by_cases hidden : f.acc = .wo ∨ s.hides k f = true
  · rw [if_pos hidden, if_pos (by simpa using hidden), Nat.zero_mul]
  · rw [if_neg hidden, if_neg (by simpa using hidden)]

/-- A register that is 32 bits wide has its fields in 32 bits. -/
theorem fields_fit (k : RegKey) : ∀ f ∈ (regRow k.name).fields, f.lo + f.w ≤ 8 * k.bytes := by
  unfold RegKey.bytes
  cases k.name <;> decide

theorem regRead_lt (s : State) (k : RegKey) : s.regRead k k.bytes < 2 ^ (8 * k.bytes) := by
  rw [regRead_eq_fieldWord]
  refine Nat.lt_pow_two_of_testBit _ fun i hi =>
    testBit_fieldWord_apart (regRow_ascending _) (fun f _ => s.shownField_lt k f) fun f mem => ?_
  have := fields_fit k f mem
  omega

/-- A read clears one field if it is an RC field. -/
def State.clearField (k : RegKey) (s : State) (f : Field) : State := if f.acc = .rc then s.setFld k f.lo f.w 0 else s

theorem State.reg_clearField_other (k : RegKey) (s : State) (f : Field) {n : RegKey} (other : n ≠ k) :
    (s.clearField k f).reg n = s.reg n := by
  unfold State.clearField
  split
  · exact State.reg_setFld_other s _ _ _ other
  · rfl

theorem State.fld_clearField_apart (k : RegKey) (s : State) (f : Field) (fits : f.lo + f.w ≤ 64) {a b : Nat}
    (apart : a + b ≤ f.lo ∨ f.lo + f.w ≤ a) : (s.clearField k f).fld k a b = s.fld k a b := by
  unfold State.clearField
  split
  · exact State.fld_setFld_apart s k _ _ _ _ _ fits apart
  · rfl

theorem State.fld_clearField_same (k : RegKey) (s : State) (f : Field) (fits : f.lo + f.w ≤ 64) :
    (s.clearField k f).fld k f.lo f.w = if f.acc = .rc then 0 else s.fld k f.lo f.w := by
  unfold State.clearField
  split
  · rw [State.fld_setFld_same s k _ _ _ fits, Nat.zero_mod]
  · rfl

theorem State.clearField_regs (k : RegKey) (s : State) (f : Field) : ∃ r, s.clearField k f = { s with regs := r } := by
  unfold State.clearField
  split
  · exact ⟨_, rfl⟩
  · exact ⟨_, rfl⟩

theorem regClear_eq_foldl (s : State) (k : RegKey) : s.regClear k k.bytes = (regRow k.name).fields.foldl (State.clearField k) s := by
  have width : decide (k.bytes = if (regRow k.name).wide then 8 else 4) = true := by simp [RegKey.bytes]
  by_cases clears : ((regRow k.name).fields.any fun f => f.acc = .rc) = true
  · simp only [State.regClear, width, clears, Bool.and_self, if_true]
    rfl
  · rw [regClear_of_no_rc (by simpa using clears)]
    have same : ∀ f ∈ (regRow k.name).fields, ∀ s : State, s.clearField k f = s := fun f mem s =>
      if_neg fun rc => clears (List.any_eq_true.mpr ⟨f, mem, by simp [rc]⟩)
    generalize (regRow k.name).fields = fs at same
    induction fs with
    | nil => rfl
    | cons f r ih =>
      rw [List.foldl_cons, same f List.mem_cons_self]
      exact ih fun g mem => same g (List.mem_cons_of_mem _ mem)

theorem State.reg_clearFields_other (k : RegKey) (fs : List Field) (s : State) {n : RegKey} (other : n ≠ k) :
    (fs.foldl (State.clearField k) s).reg n = s.reg n := by
  induction fs generalizing s with
  | nil => rfl
  | cons f r ih => rw [List.foldl_cons, ih, s.reg_clearField_other k f other]

theorem State.clearFields_regs (k : RegKey) (fs : List Field) (s : State) :
    ∃ r, fs.foldl (State.clearField k) s = { s with regs := r } := by
  induction fs generalizing s with
  | nil => exact ⟨_, rfl⟩
  | cons f r ih =>
    obtain ⟨x, first⟩ := s.clearField_regs k f
    rw [List.foldl_cons, first]
    exact ih _

theorem State.fld_clearFields_below (k : RegKey) {lo : Nat} {fs : List Field} (h : ascendingFields lo fs = true) (s : State)
    {a b : Nat} (below : a + b ≤ lo) : (fs.foldl (State.clearField k) s).fld k a b = s.fld k a b := by
  induction fs generalizing lo s with
  | nil => rfl
  | cons f r ih =>
    obtain ⟨first, rest⟩ := ascendingFields_cons.mp h
    rw [List.foldl_cons, ih rest _ (by omega)]
    exact s.fld_clearField_apart k f (ascendingFields_le rest) (.inl (by omega))

theorem State.fld_clearFields (k : RegKey) {lo : Nat} {fs : List Field} (h : ascendingFields lo fs = true) (s : State)
    {f : Field} (mem : f ∈ fs) :
    (fs.foldl (State.clearField k) s).fld k f.lo f.w = if f.acc = .rc then 0 else s.fld k f.lo f.w := by
  induction fs generalizing lo s with
  | nil => cases mem
  | cons x r ih =>
    obtain ⟨-, rest⟩ := ascendingFields_cons.mp h
    rw [List.foldl_cons]
    rcases List.mem_cons.mp mem with rfl | mem
    · rw [State.fld_clearFields_below k rest _ le_rfl, s.fld_clearField_same k f (ascendingFields_le rest)]
    · rw [ih rest _ mem, s.fld_clearField_apart k x (ascendingFields_le rest) (.inr (ascendingFields_mem rest mem).1)]

/-- Settles O9: the value read is put together from the fields shown, and a read clears the RC fields one by one. -/
theorem readReturnsFieldsAndClearsCounters : Obligations.ReadReturnsFieldsAndClearsCounters := by
  unfold Obligations.ReadReturnsFieldsAndClearsCounters
  intro bar off s k space found
  refine ⟨_, exec_rcCounterRead_reg space found _ s, rfl, rfl, length_leBytes _ _, fun f mem => ?_, fun f mem => ?_,
    fun n other => ?_, ?_⟩
  · show bitsOf (leNat (leBytes k.bytes (s.regRead k k.bytes))) f.lo f.w = s.shownField k f
    rw [leNat_leBytes, Nat.mod_eq_of_lt (regRead_lt s k), regRead_eq_fieldWord,
      bitsOf_fieldWord (regRow_ascending _) (fun f _ => s.shownField_lt k f) mem]
  · show (s.regClear k k.bytes).fld k f.lo f.w = _
    rw [regClear_eq_foldl, State.fld_clearFields k (regRow_ascending _) s mem]
  · show (s.regClear k k.bytes).reg n = _
    rw [regClear_eq_foldl, State.reg_clearFields_other k _ s other]
  · obtain ⟨r, cleared⟩ := s.clearFields_regs k (regRow k.name).fields
    rw [regClear_eq_foldl, cleared]

end Sys2Proof.Machine
end

section
/-! PROOFS. Dispatch: what taking a head entry leaves, the arbiter's choice, doorbells and failed reads
(14_rings_and_mailboxes.md). -/

namespace Sys2Proof.Machine

/-! ### What taking up a descriptor leaves -/

/-- The rings and the arbiter's cursors. -/
def State.arbiter (s : State) : Tab Ring × Tab Nat := (s.rings, s.cursors)

theorem arbiter_of_rest {s t : State} (h : t.rest = s.rest) : t.arbiter = s.arbiter := of_rest State.arbiter h

theorem arbiter_endJob (s : State) (j : Job) (status detail : Nat) : (s.endJob j status detail).arbiter = s.arbiter := by
  simp [State.arbiter]

theorem rest_countPlaced (s : State) (c : Option Cand) : (s.countPlaced c).rest = s.rest := by
  cases c <;> rfl

theorem rest_ringError (s : State) (ring kind cq : Nat) : (s.ringError ring kind cq).rest = s.rest := by
  unfold State.ringError
  rw [rest_raise, rest_bump]
  split <;> rfl

theorem rest_readHead (s : State) (r : Ring) : (s.readHead r).rest = s.rest := by
  unfold State.readHead
  split
  · exact rest_readSpan ..
  · rfl

/-- Whatever becomes of a descriptor taken up, the rings and cursors stay. -/
theorem arbiter_takeUp (s : State) (j : Job) (v : Verdict) : (s.takeUp j v).arbiter = s.arbiter := by
  have dispatched (c : Option Cand) : ((s.bump (rk .QE_DISPATCHED)).countPlaced c).arbiter = s.arbiter :=
    arbiter_of_rest (rest_countPlaced _ c)
  cases v with
  | held => rfl
  | discard => exact arbiter_of_rest (rest_ringError ..)
  | reject e => exact arbiter_endJob ..
  | go u m c =>
    cases m with
    | none => exact dispatched c
    | some m =>
      unfold State.takeUp
      dsimp only
      split
      · exact dispatched c
      · split
        · exact (arbiter_of_rest (rest_sendLink ..)).trans (dispatched c)
        · exact (arbiter_endJob ..).trans (dispatched c)

/-- The head of the ring taken moves on, and nothing else of the rings and cursors changes. -/
theorem arbiter_takeHead (s : State) (k : Nat) (r : Ring) (reads : s.headFails r = false) :
    (s.takeHead k r).arbiter = (Tab.put s.rings k { r with head := (r.head + 1) % 2 ^ 32 }, s.cursors) := by
  unfold State.takeHead
  simp only [reads, Bool.false_eq_true, if_false]
  rw [arbiter_takeUp]
  exact Prod.ext rfl (of_rest State.cursors (rest_readHead s r))

/-! ### The radio class: earliest deadline first -/

/-- Ring `k` comes before ring `n`: an earlier deadline, or the same and a lower index. -/
def State.before (s : State) (k n : Nat) : Prop :=
  s.headDeadline k < s.headDeadline n ∨ (s.headDeadline k = s.headDeadline n ∧ k < n)

/-- One comparison of `radioPick`. -/
def State.earlier (s : State) : Option Nat → Nat → Option Nat
  | none, k => some k
  | some b, k => if s.headDeadline k < s.headDeadline b then some k else some b

theorem radioPick_eq_foldl (s : State) (el : List Nat) : s.radioPick el = el.foldl s.earlier none := by
  have step : (fun (m : Option Nat) (k : Nat) => match m with
      | none => some k
      | some b => if s.headDeadline k < s.headDeadline b then some k else some b) = s.earlier := by
    funext m k
    cases m <;> rfl
  exact congrArg (fun f => el.foldl f none) step

/-- From the best so far on, a ring that comes before it and every later one is the one picked. -/
theorem foldl_earlier (s : State) (el : List Nat) (b k : Nat) (mem : k ∈ b :: el) (asc : (b :: el).Pairwise (· < ·))
    (first : ∀ n ∈ b :: el, n ≠ k → s.before k n) : el.foldl s.earlier (some b) = some k := by
  induction el generalizing b with
  | nil => simpa using (List.mem_singleton.mp mem).symm
  | cons x r ih =>
    obtain ⟨low, rest⟩ := List.pairwise_cons.mp asc
    have lowX : b < x := low x List.mem_cons_self
    rw [List.foldl_cons, State.earlier]
    split
    · next sooner =>
      have notB : k ≠ b := by
        intro same
        have order := first x (by simp) (by omega)
        rw [State.before, same] at order
        omega
      refine ih x ?_ rest fun n hn => first n (List.mem_cons_of_mem _ hn)
      exact (List.mem_cons.mp mem).resolve_left notB
    · next later =>
      have notX : k ≠ x := by
        intro same
        have order := first b List.mem_cons_self (by omega)
        rw [State.before, same] at order
        omega
      refine ih b ?_ ?_ fun n hn => first n (by simp only [List.mem_cons] at hn ⊢; tauto)
      · simp only [List.mem_cons] at mem ⊢
        tauto
      · exact List.pairwise_cons.mpr ⟨fun n hn => low n (List.mem_cons_of_mem _ hn), (List.pairwise_cons.mp rest).2⟩

theorem radioPick_eq_some (s : State) (el : List Nat) (k : Nat) (mem : k ∈ el) (asc : el.Pairwise (· < ·))
    (first : ∀ n ∈ el, n ≠ k → s.before k n) : s.radioPick el = some k := by
  rw [radioPick_eq_foldl]
  cases el with
  | nil => cases mem
  | cons b r => exact foldl_earlier s r b k mem asc first

theorem eligibles_ascending {s : State} (h : ordered s.rings) (c : Nat) : (s.eligibles c).Pairwise (· < ·) :=
  List.pairwise_map.mpr (h.sublist List.filter_sublist)

theorem find?_of_mem_eligibles {s : State} (h : ordered s.rings) {c k : Nat} (mem : k ∈ s.eligibles c) :
    ∃ r, Tab.find? s.rings k = some r ∧ r.cls = c := by
  obtain ⟨⟨n, r⟩, kept, rfl⟩ := List.mem_map.mp mem
  obtain ⟨inTable, chosen⟩ := List.mem_filter.mp kept
  have nodup : (s.rings.map Prod.fst).Nodup := List.Pairwise.imp (fun lt => Nat.ne_of_lt lt) (List.pairwise_map.mpr h)
  simp only [Bool.and_eq_true, decide_eq_true_eq] at chosen
  exact ⟨r, (Tab.find?_eq_some_iff_mem nodup n r).mpr inTable, chosen.1⟩

/-! ### A tick -/

/-- A tick that may dispatch takes the head of the ring that the arbiter picks. -/
theorem exec_tick_of_pick {s t : State} {k : Nat} {r : Ring} (h : s.tickOpen) (pick : s.pick = some (t, k))
    (found : Tab.find? t.rings k = some r) : exec .tick s = .next (t.takeHead k r) := by
  obtain ⟨ready, held, room, -⟩ := h
  have noneFull : (s.rings.any fun e => s.cqFull e.1 e.2) = false := by
    rw [List.any_eq_false]
    intro e mem
    rw [room e mem]
    decide
  rw [exec_tick, execTick, if_neg (by simp [ready, held])]
  simp only [noneFull, Bool.false_eq_true, if_false, pick, found]

/-! ### The other classes: deficit round robin -/

/-- The turn that a class's next ring begins: it takes its weight, less the entry it sends. -/
def State.serveNext (s : State) (c : Nat) (el : List Nat) (cur : Option Nat) : State × Nat :=
  ({ s with
      rings := Tab.modify s.rings (nextRing el cur) fun r => { r with deficit := r.deficit + r.weight - 1 }
      cursors := Tab.put s.cursors c (nextRing el cur) }, nextRing el cur)

theorem find?_eq_head_or {el : List Nat} (x : Nat) : el.find? (fun k => decide (x < k)) = none ∨
    ∃ k ∈ el, x < k ∧ el.find? (fun k => decide (x < k)) = some k := by
  cases found : el.find? fun k => decide (x < k) with
  | none => exact .inl rfl
  | some k => exact .inr ⟨k, List.mem_of_find?_eq_some found, by simpa using List.find?_some found, rfl⟩

/-- The first ring of an ascending list above a cursor is the lowest above it. -/
theorem find?_above_le {el : List Nat} (asc : el.Pairwise (· < ·)) {x k : Nat}
    (found : el.find? (fun k => decide (x < k)) = some k) : ∀ n ∈ el, x < n → k ≤ n := by
  induction el with
  | nil => simp
  | cons y r ih =>
    obtain ⟨low, rest⟩ := List.pairwise_cons.mp asc
    intro n mem above
    by_cases hy : x < y
    · rw [List.find?_cons_of_pos (by simpa using hy)] at found
      cases found
      rcases List.mem_cons.mp mem with rfl | mem
      · exact le_rfl
      · exact (low n mem).le
    · rw [List.find?_cons_of_neg (by simpa using hy)] at found
      rcases List.mem_cons.mp mem with rfl | mem
      · exact absurd above hy
      · exact ih rest found n mem above

theorem followsCursor_nextRing {el : List Nat} (asc : el.Pairwise (· < ·)) (some' : el ≠ []) (cur : Option Nat) :
    followsCursor el cur (nextRing el cur) := by
  obtain ⟨y, r, rfl⟩ := List.exists_cons_of_ne_nil some'
  have head : ∀ n ∈ y :: r, y ≤ n := by
    intro n mem
    rcases List.mem_cons.mp mem with rfl | mem
    · exact le_rfl
    · exact ((List.pairwise_cons.mp asc).1 n mem).le
  cases cur with
  | none => exact ⟨List.mem_cons_self, head⟩
  | some x =>
    unfold followsCursor nextRing
    dsimp only
    rcases find?_eq_head_or (el := y :: r) x with none | ⟨k, mem, above, found⟩
    · have below : ∀ n ∈ y :: r, n ≤ x := by simpa using List.find?_eq_none.mp none
      simp only [none, Option.getD_none, List.headD_cons]
      rw [if_neg (by simpa using below y List.mem_cons_self)]
      exact ⟨List.mem_cons_self, fun n mem => ⟨below n mem, head n mem⟩⟩
    · simp only [found, Option.getD_some]
      rw [if_pos above]
      exact ⟨mem, find?_above_le asc found⟩

theorem Tab.find?_modify {α : Type} (t : Tab α) (k n : Nat) (f : α → α) :
    Tab.find? (Tab.modify t k f) n = if n = k then (Tab.find? t k).map f else Tab.find? t n := by
  unfold Tab.modify
  split
  · next v found => rw [Tab.find?_put, found, Option.map_some]
  · next none =>
    split
    · next same => rw [same, none, Option.map_none]
    · rfl

/-- The ring under the cursor has left the eligible ones: it loses what was left of its turn. -/
def State.endTurn (s : State) (c n : Nat) : State :=
  { s with rings := Tab.modify s.rings n fun r => if r.cls = c then { r with deficit := 0 } else r }

/-- Deficit round robin serves the ring under the cursor while it has deficit, else the one that follows it. -/
theorem drr_cases (s : State) (c : Nat) (el : List Nat) :
    (∃ k r, Tab.find? s.cursors c = some k ∧ k ∈ el ∧ Tab.find? s.rings k = some r ∧ 1 ≤ r.deficit ∧
      s.drr c el = ({ s with rings := Tab.put s.rings k { r with deficit := r.deficit - 1 } }, k)) ∨
    ((∀ n x, Tab.find? s.cursors c = some n → n ∈ el → Tab.find? s.rings n = some x → x.deficit = 0) ∧
      ∃ u, (u = s ∨ ∃ n, n ∉ el ∧ u = s.endTurn c n) ∧ s.drr c el = u.serveNext c el (Tab.find? s.cursors c)) := by
  unfold State.drr
  dsimp only
  cases cursor : Tab.find? s.cursors c with
  | none => exact .inr ⟨fun n x e => (by cases e), s, .inl rfl, rfl⟩
  | some k =>
    dsimp only
    by_cases among : k ∈ el
    · rw [if_pos (by simpa using among)]
      cases found : Tab.find? s.rings k with
      | none =>
        refine .inr ⟨fun n x e _ ring => ?_, s, .inl rfl, rfl⟩
        cases e
        rw [found] at ring
        cases ring
      | some r =>
        by_cases left : 1 ≤ r.deficit
        · exact .inl ⟨k, r, rfl, among, found, left, if_pos left⟩
        · refine .inr ⟨fun n x e _ ring => ?_, s, .inl rfl, if_neg left⟩
          cases e
          cases found.symm.trans ring
          omega
    · rw [if_neg (by simpa using among)]
      refine .inr ⟨fun n x e mem => ?_, _, .inr ⟨k, among, rfl⟩, rfl⟩
      cases e
      exact absurd mem among

/-- What the other rings keep in a tick. -/
def Ring.heads (r : Ring) : Nat × Nat × Nat := (r.head, r.tail, r.weight)

theorem find?_endTurn_heads (s : State) (c n k : Nat) :
    (Tab.find? (s.endTurn c n).rings k).map Ring.heads = (Tab.find? s.rings k).map Ring.heads := by
  unfold State.endTurn
  rw [Tab.find?_modify]
  split
  · next same =>
    rw [same, Option.map_map]
    congr 1
    funext r
    dsimp only [Function.comp]
    split <;> rfl
  · rfl

/-- After a tick that serves ring `k` of `u`: its head has moved on and the others' rings are those of `u`. -/
theorem takeHead_found {u : State} {k : Nat} {r : Ring} (reads : u.headFails r = false) :
    Tab.find? (u.takeHead k r).rings k = some { r with head := (r.head + 1) % 2 ^ 32 } ∧
    (∀ n, n ≠ k → Tab.find? (u.takeHead k r).rings n = Tab.find? u.rings n) ∧ (u.takeHead k r).cursors = u.cursors := by
  have after := arbiter_takeHead u k r reads
  simp only [State.arbiter, Prod.mk.injEq] at after
  obtain ⟨rings, cursors⟩ := after
  rw [rings]
  exact ⟨Tab.find?_put_same .., fun n other => Tab.find?_put_other _ _ other, cursors⟩

/-- Settles O11: the fold of the radio class keeps the best head so far, and the deficit round robin is that of its two cases. -/
theorem tickServesDeadlineThenDeficit : Obligations.TickServesDeadlineThenDeficit := by
  unfold Obligations.TickServesDeadlineThenDeficit
  refine ⟨fun s k r openTick mem found reads first => ?_, fun s c openTick class' earlier some' reads => ?_⟩
  · have picked := radioPick_eq_some s _ k mem (eligibles_ascending openTick.2.2.2 0) first
    have pick : s.pick = some (s, k) := by rw [State.pick, picked]
    have after := arbiter_takeHead s k r reads
    simp only [State.arbiter, Prod.mk.injEq] at after
    exact ⟨_, exec_tick_of_pick openTick pick found, after⟩
  · have noRadio : s.radioPick (s.eligibles 0) = none := by
      rw [earlier 0 (by omega)]
      rfl
    have chosen : [1, 2, 3].find? (fun c => !(s.eligibles c).isEmpty) = some c := by
      have here : (s.eligibles c).isEmpty = false := by simpa using some'
      rcases class' with rfl | rfl | rfl
      · simp [here]
      · simp [here, earlier 1 (by decide)]
      · simp [here, earlier 1 (by decide), earlier 2 (by decide)]
    have pick : s.pick = some (s.drr c (s.eligibles c)) := by simp only [State.pick, noRadio, chosen]
    have sorted := openTick.2.2.2
    rcases drr_cases s c (s.eligibles c) with ⟨k, r, cursor, mem, found, left, served⟩ | ⟨spent, u, same, served⟩
    · rw [served] at pick
      have now : Tab.find? (Tab.put s.rings k { r with deficit := r.deficit - 1 }) k = some { r with deficit := r.deficit - 1 } :=
        Tab.find?_put_same ..
      obtain ⟨q, others, cursors⟩ := takeHead_found (u := { s with rings := Tab.put s.rings k { r with deficit := r.deficit - 1 } })
        (k := k) (r := { r with deficit := r.deficit - 1 }) (reads k mem r found)
      refine ⟨k, r, _, _, mem, found, exec_tick_of_pick openTick pick now, q, rfl, rfl, rfl, rfl, .inl ⟨cursor, left, rfl, cursors⟩,
        fun n other => ?_⟩
      rw [others n other, Tab.find?_put_other _ _ other]
    · rw [served] at pick
      have follows := followsCursor_nextRing (eligibles_ascending sorted c) some' (Tab.find? s.cursors c)
      generalize next : nextRing (s.eligibles c) (Tab.find? s.cursors c) = k at follows
      obtain ⟨mem, -⟩ := id follows
      obtain ⟨r, found, -⟩ := find?_of_mem_eligibles sorted mem
      obtain ⟨foundU, heads, readsU⟩ : Tab.find? u.rings k = some r ∧
          (∀ n, (Tab.find? u.rings n).map Ring.heads = (Tab.find? s.rings n).map Ring.heads) ∧
          (u.serveNext c (s.eligibles c) (Tab.find? s.cursors c)).1.headFails { r with deficit := r.deficit + r.weight - 1 } = false := by
        rcases same with rfl | ⟨n, notIn, rfl⟩
        · exact ⟨found, fun _ => rfl, reads k mem r found⟩
        · refine ⟨?_, find?_endTurn_heads s c n, reads k mem r found⟩
          rw [State.endTurn, Tab.find?_modify, if_neg fun (e : k = n) => notIn (e ▸ mem), found]
      have rings : (u.serveNext c (s.eligibles c) (Tab.find? s.cursors c)).1.rings =
          Tab.modify u.rings k fun r => { r with deficit := r.deficit + r.weight - 1 } := by rw [State.serveNext, next]
      have cursors : (u.serveNext c (s.eligibles c) (Tab.find? s.cursors c)).1.cursors = Tab.put u.cursors c k := by
        rw [State.serveNext, next]
      have number : (u.serveNext c (s.eligibles c) (Tab.find? s.cursors c)).2 = k := next
      generalize u.serveNext c (s.eligibles c) (Tab.find? s.cursors c) = p at *
      obtain ⟨v, k'⟩ := p
      cases number
      have now : Tab.find? v.rings k' = some { r with deficit := r.deficit + r.weight - 1 } := by
        rw [rings, Tab.find?_modify, if_pos rfl, foundU, Option.map_some]
      obtain ⟨q, others, stay⟩ := takeHead_found (k := k') readsU
      refine ⟨k', r, _, _, mem, found, exec_tick_of_pick openTick pick now, q, rfl, rfl, rfl, rfl,
        .inr ⟨spent, follows, rfl, ?_⟩, fun n other => ?_⟩
      · rw [stay, cursors, Tab.find?_put_same]
      · rw [others n other, rings, Tab.find?_modify, if_neg other]
        exact heads n

/-! ### The head entry's verdict -/

theorem ringError_eq_ringFault (s : State) (ring kind cq : Nat) : s.ringError ring kind cq = s.ringFault ring kind cq := rfl

theorem verdict_of_no_cq {s : State} {d : Desc} (raw : List Byte) (dead : s.liveCq d.cq = none) : s.verdict d raw = .discard := by
  rw [State.verdict, dead]

/-- The state in which a head entry is taken up: its ring's head has moved on. -/
def State.headTaken (s : State) (k : Nat) (r : Ring) : State :=
  { s.readHead r with rings := Tab.put s.rings k { r with head := (r.head + 1) % 2 ^ 32 } }

theorem takeHead_of_reads {s : State} (k : Nat) {r : Ring} (reads : s.headFails r = false) :
    s.takeHead k r = (s.headTaken k r).takeUp
      (Job.fresh (s.headTaken k r).nextJid k r.head r.cls none (Desc.ofBytes (s.headBytes r)) (s.headBytes r))
      (s.verdict (Desc.ofBytes (s.headBytes r)) (s.headBytes r)) := by
  simp only [State.takeHead, reads, Bool.false_eq_true, if_false]
  rfl

theorem headTaken_jobs (s : State) (k : Nat) (r : Ring) : (s.headTaken k r).jobs = s.jobs := by
  show (s.readHead r).jobs = s.jobs
  exact of_rest State.jobs (rest_readHead s r)

theorem headTaken_nextJid (s : State) (k : Nat) (r : Ring) : (s.headTaken k r).nextJid = s.nextJid := by
  show (s.readHead r).nextJid = s.nextJid
  exact of_rest State.nextJid (rest_readHead s r)

/-- A descriptor as it stands once it has ended. -/
def Job.finished (j : Job) (status detail tk : Nat) : Job :=
  { j with
    phase := .done, status := status, detail := detail, ended := tk, carry := [], books := [], fused := [], queued := [], tried := []
    drained := [], dense := [] }

theorem endJob_jobs (s : State) (j : Job) (status detail : Nat) :
    (s.endJob j status detail).jobs = s.jobs.filter (fun x => x.jid ≠ j.jid) ++ [j.finished status detail s.tk] := by
  have tk : (s.unload j.jid).tk = s.tk := State.of_plain (State.plain_unload s j.jid) State.tk fun _ => rfl
  unfold State.endJob Job.finished
  dsimp only
  rw [State.unload_jobs, tk]

/-- A descriptor as it waits for issue on a unit of this device. -/
def Job.placedOn (j : Job) (s : State) (u : Nat) : Job :=
  { j with
    unit := u
    weirX := s.fld (rk .WR_SLOT_SCALE 0 j.d.slot) 0 8
    profile := s.profile (j.d.seed % 16)
    watch := s.debugOn && u ≠ 1 && s.bit (rk .BS_DBG_BOUNDS (s.physB (basinOf u))) 0 }

theorem place1_jobs (s : State) (j : Job) (u : Nat) (c : Option Cand) :
    ∃ t : State, (s.place1 j u c).jobs = s.jobs ++ [j.placedOn t u] ∧ (s.place1 j u c).nextJid = s.nextJid + 1 := by
  have placed : ((s.bump (rk .QE_DISPATCHED)).countPlaced c).rest = s.rest := rest_countPlaced _ c
  exact ⟨_, congrArg (· ++ _) (of_rest State.jobs placed), congrArg (· + 1) (of_rest State.nextJid placed)⟩

/-- Settles O12: a head entry whose read fails breaks its ring, and the others are taken up by their verdict. -/
theorem headEntryFollowsItsVerdict : Obligations.HeadEntryFollowsItsVerdict := by
  unfold Obligations.HeadEntryFollowsItsVerdict
  intro s k r found raw d m
  have taken : m = s.headTaken k r := rfl
  refine ⟨fun fails => ?_, fun reads => ⟨fun none => ?_, fun q cq closing => ?_, fun verdict => ?_, fun e verdict => ?_,
    fun u c verdict => ?_⟩⟩
  · simp only [State.takeHead, fails, if_true]
  · exact verdict_of_no_cq raw (by rw [State.liveCq, none])
  · exact verdict_of_no_cq raw (by rw [State.liveCq, cq]; exact if_pos closing)
  · rw [takeHead_of_reads k reads, verdict]
    rfl
  · rw [takeHead_of_reads k reads, verdict]
    generalize fresh : Job.fresh (s.headTaken k r).nextJid k r.head r.cls none d raw = f
    have jid : f.jid = s.nextJid := fresh ▸ headTaken_nextJid s k r
    have others : ((s.headTaken k r).addJob f).jobs.filter (fun x => x.jid ≠ f.jid) = s.jobs.filter fun x => x.jid ≠ s.nextJid := by
      simp [State.addJob, headTaken_jobs, jid]
    refine ⟨{ f with claimed := [], reads := [] }.finished e.1 e.2 (s.headTaken k r).tk, ?_, jid, ?_⟩
    · rw [← others]
      exact endJob_jobs ..
    subst fresh
    exact ⟨rfl, rfl, rfl, rfl, rfl, rfl, rfl⟩
  · rw [takeHead_of_reads k reads, verdict]
    obtain ⟨t, jobs, next⟩ := place1_jobs (s.headTaken k r)
      (Job.fresh (s.headTaken k r).nextJid k r.head r.cls none d raw) u c
    rw [headTaken_jobs] at jobs
    rw [headTaken_nextJid] at next
    exact ⟨_, jobs, next, headTaken_nextJid s k r, rfl, rfl, rfl, rfl, rfl, rfl, rfl, rfl, rfl⟩

/-! ### Tokens given back -/

theorem slotFill_eq_local {s : State} {q : Nat} (here : isRemote q = false) (n : Nat) (ok : Bool) (op : Nat) :
    s.slotFill q n ok op = (s.setFld (s.slotKey q n) 33 1 0).setFld (s.slotKey q n) 32 1 (flagNat ok) := by
  simp [State.slotFill, here]

theorem slotFill_eq_remote {s : State} {q : Nat} (away : isRemote q = true) (n : Nat) (ok : Bool) (op : Nat) :
    s.slotFill q n ok op = s.sendToken q n ok false op := by
  simp [State.slotFill, away]

theorem rest_slotFill_op (s : State) (q n : Nat) (ok : Bool) (op : Nat) : (s.slotFill q n ok op).rest = s.rest := by
  unfold State.slotFill
  split
  · exact rest_sendLink ..
  · rfl

theorem rest_giveBack (s : State) (cs : List (Nat × Nat)) (op : Nat) : (s.giveBack cs op).rest = s.rest :=
  rest_foldl _ cs s fun t c => rest_slotFill_op t c.1 c.2 false op

theorem rest_fillAll (s : State) (cs : List (Nat × Nat)) (op : Nat) : (s.fillAll cs op).rest = s.rest :=
  rest_foldl _ cs s fun t c => rest_slotFill_op t c.1 c.2 true op

theorem slotKey_of_rest {s t : State} (h : t.rest = s.rest) (q n : Nat) : t.slotKey q n = s.slotKey q n :=
  of_rest (fun u : State => u.slotKey q n) h

/-- A token's registers are those of the slots; a token of another member leaves a mark on its port. -/
theorem slotFill_reg (s : State) (q n : Nat) (ok : Bool) (op : Nat) {k : RegKey} (other : k.name ∉ .BS_SLOT :: eventRegs) :
    (s.slotFill q n ok op).reg k = s.reg k := by
  obtain ⟨notSlot, unmarked⟩ : k.name ≠ .BS_SLOT ∧ k.name ∉ eventRegs := by simpa using other
  have apart : k ≠ s.slotKey q n := fun same => notSlot (congrArg RegKey.name same)
  by_cases away : isRemote q
  · rw [slotFill_eq_remote away]
    exact State.sendLink_reg unmarked s ..
  · rw [slotFill_eq_local (by simpa using away), State.reg_setFld_other _ _ _ _ apart, State.reg_setFld_other _ _ _ _ apart]

theorem giveBack_reg (s : State) (cs : List (Nat × Nat)) (op : Nat) {k : RegKey} (other : k.name ∉ .BS_SLOT :: eventRegs) :
    (s.giveBack cs op).reg k = s.reg k :=
  State.reg_foldl _ k cs s fun t c _ => slotFill_reg t c.1 c.2 false op other

/-- A slot's register shows its token EMPTY and unclaimed. -/
def State.tokenClear (s : State) (k : RegKey) : Prop := s.fld k 32 1 = 0 ∧ s.fld k 33 1 = 0

theorem tokenClear_slotFill_same {s : State} {q : Nat} (here : isRemote q = false) (n op : Nat) :
    (s.slotFill q n false op).tokenClear (s.slotKey q n) := by
  rw [slotFill_eq_local here]
  refine ⟨State.fld_setFld_same _ _ _ _ _ (by decide), ?_⟩
  rw [State.fld_setFld_apart _ _ _ _ _ _ _ (by decide) (.inr le_rfl)]
  exact State.fld_setFld_same _ _ _ _ _ (by decide)

/-- A token that is clear stays so while tokens are given back. -/
theorem tokenClear_slotFill {s : State} {k : RegKey} (slot : k.name = .BS_SLOT) (clear : s.tokenClear k) (q n op : Nat) :
    (s.slotFill q n false op).tokenClear k := by
  by_cases away : isRemote q
  · have same : (s.slotFill q n false op).reg k = s.reg k := by
      rw [slotFill_eq_remote away]
      exact State.sendLink_reg (by rw [slot]; decide) s ..
    simpa only [State.tokenClear, State.fld, same] using clear
  · have here : isRemote q = false := by simpa using away
    by_cases same : k = s.slotKey q n
    · rw [same]
      exact tokenClear_slotFill_same here n op
    · rw [slotFill_eq_local here]
      simpa only [State.tokenClear, State.fld_setFld_other _ _ _ _ _ _ same] using clear

theorem tokenClear_giveBack (s : State) (cs : List (Nat × Nat)) (op : Nat) {c : Nat × Nat} (mem : c ∈ cs)
    (here : isRemote c.1 = false) : (s.giveBack cs op).tokenClear (s.slotKey c.1 c.2) := by
  have stays (l : List (Nat × Nat)) (t : State) {k : RegKey} (slot : k.name = .BS_SLOT) (clear : t.tokenClear k) :
      (t.giveBack l op).tokenClear k :=
    List.foldlRecOn (motive := fun u : State => u.tokenClear k) l _ clear
      fun u cleared x _ => tokenClear_slotFill slot cleared x.1 x.2 op
  induction cs generalizing s with
  | nil => cases mem
  | cons x l ih =>
    rcases List.mem_cons.mp mem with rfl | mem
    · exact stays l _ rfl (tokenClear_slotFill_same here c.2 op)
    · have key := slotKey_of_rest (rest_slotFill_op s x.1 x.2 false op) c.1 c.2
      exact key ▸ ih _ mem

/-! ### A descriptor that ends leaves its units -/

/-- The registers of the jets and engines that a descriptor leaves. -/
def storeRegs : List RegName := [.JT_STATUS, .SE_STATUS]

theorem reg_setFld_storeRegs (s : State) {n : RegName} (mem : n ∈ storeRegs) (u i lo w x : Nat) {k : RegKey}
    (other : k.name ∉ storeRegs) : (s.setFld (rk n u i) lo w x).reg k = s.reg k :=
  s.reg_setFld_other _ _ _ fun same => other (same ▸ mem)

theorem showJet_reg (s : State) (x : Nat) {k : RegKey} (other : k.name ∉ storeRegs) : (s.showJet x).reg k = s.reg k := by
  unfold State.showJet
  dsimp only
  rw [reg_setFld_storeRegs _ (by decide) _ _ _ _ _ other]
  split
  · rfl
  · exact reg_setFld_storeRegs _ (by decide) _ _ _ _ _ other

theorem showEngine_reg (s : State) (e : Nat) {k : RegKey} (other : k.name ∉ storeRegs) : (s.showEngine e).reg k = s.reg k := by
  unfold State.showEngine
  dsimp only
  rw [reg_setFld_storeRegs _ (by decide) _ _ _ _ _ other]
  split
  · rfl
  · exact reg_setFld_storeRegs _ (by decide) _ _ _ _ _ other

theorem quiet_reg (s : State) (x : Nat) {k : RegKey} (other : k.name ∉ storeRegs) : (s.quiet x).reg k = s.reg k := by
  refine State.reg_foldl _ k _ s fun t y _ => ?_
  split
  · exact reg_setFld_storeRegs _ (by decide) _ _ _ _ _ other
  · rfl

theorem putSets_reg (s : State) (x : Nat) (js : JetSets) {k : RegKey} (other : k.name ∉ storeRegs) :
    (s.putSets x js).reg k = s.reg k := showJet_reg _ x other

theorem putStores_reg (s : State) (e : Nat) (es : EngSets) {k : RegKey} (other : k.name ∉ storeRegs) :
    (s.putStores e es).reg k = s.reg k := showEngine_reg _ e other

theorem unload_reg (s : State) (jid : Nat) {k : RegKey} (other : k.name ∉ storeRegs) : (s.unload jid).reg k = s.reg k := by
  unfold State.unload
  dsimp only
  rw [State.reg_foldl _ k _ _ fun t e _ => putStores_reg t e.1 _ other,
    State.reg_foldl _ k _ _ fun t e _ => (quiet_reg _ e.1 other).trans (putSets_reg t e.1 _ other)]

theorem endJob_reg (s : State) (j : Job) (status detail : Nat) {k : RegKey} (other : k.name ∉ storeRegs) :
    (s.endJob j status detail).reg k = s.reg k := unload_reg s j.jid other

/-- The groups a failed descriptor leaves half accumulated are shut. -/
def State.shutGroups (s : State) (j : Job) : State :=
  if j.issued.isSome && j.d.readsAcc && !(j.unissued && j.d.accBegin) then j.jets.foldl (fun s x => s.shut x j.d.accGroup) s else s

theorem failJob_eq (s : State) (j : Job) (status detail : Nat) : s.failJob j status detail =
    ((s.shutGroups j).giveBack j.claimed (j.jid + 1)).endJob { j with claimed := [], reads := [] } status detail := rfl

theorem shutGroups_keeps {α : Type} (f : State → α) (keeps : ∀ (s : State) (x g : Nat), f (s.shut x g) = f s) (s : State) (j : Job) :
    f (s.shutGroups j) = f s := by
  unfold State.shutGroups
  split
  · exact List.foldlRecOn (motive := fun t : State => f t = f s) j.jets _ rfl fun t same x _ => (keeps t x _).trans same
  · rfl

theorem failJob_reg (s : State) (j : Job) (status detail : Nat) {k : RegKey} (other : k.name ∉ storeRegs ++ .BS_SLOT :: eventRegs) :
    (s.failJob j status detail).reg k = s.reg k := by
  obtain ⟨notStore, notToken⟩ : k.name ∉ storeRegs ∧ k.name ∉ .BS_SLOT :: eventRegs := by
    simpa only [List.mem_append, not_or] using other
  rw [failJob_eq, endJob_reg _ _ _ _ notStore, giveBack_reg _ _ _ notToken]
  exact shutGroups_keeps (fun t : State => t.reg k) (fun _ _ _ => rfl) s j

theorem failJob_jobs (s : State) (j : Job) (status detail : Nat) : ∃ tk, (s.failJob j status detail).jobs =
    s.jobs.filter (fun x => x.jid ≠ j.jid) ++ [{ j with claimed := [], reads := [] }.finished status detail tk] := by
  have jobs : ((s.shutGroups j).giveBack j.claimed (j.jid + 1)).jobs = s.jobs :=
    (of_rest State.jobs (rest_giveBack ..)).trans (shutGroups_keeps State.jobs (fun _ _ _ => rfl) s j)
  exact ⟨_, jobs ▸ failJob_eq s j status detail ▸ endJob_jobs ..⟩

/-- A failed descriptor gives back the tokens of its own module that it claimed. -/
theorem tokenClear_failJob (s : State) (j : Job) (status detail : Nat) {c : Nat × Nat} (mem : c ∈ j.claimed)
    (here : isRemote c.1 = false) : (s.failJob j status detail).tokenClear ((s.failJob j status detail).slotKey c.1 c.2) := by
  have key : (s.failJob j status detail).slotKey c.1 c.2 = (s.shutGroups j).slotKey c.1 c.2 := by
    refine Eq.trans ?_ (slotKey_of_rest (rest_giveBack (s.shutGroups j) j.claimed (j.jid + 1)) c.1 c.2)
    rw [failJob_eq, State.slotKey, State.slotKey, State.physB, State.physB, State.physT, State.physT, State.endJob_lmap]
  have clear := tokenClear_giveBack (s.shutGroups j) j.claimed (j.jid + 1) mem here
  rw [key]
  have same : (s.failJob j status detail).reg ((s.shutGroups j).slotKey c.1 c.2) =
      ((s.shutGroups j).giveBack j.claimed (j.jid + 1)).reg ((s.shutGroups j).slotKey c.1 c.2) := by
    rw [failJob_eq]
    exact endJob_reg _ _ _ _ (show RegName.BS_SLOT ∉ storeRegs by decide)
  simpa only [State.tokenClear, State.fld, same] using clear

/-! ### Doorbells and failed reads -/

theorem modify_of_found {α : Type} {t : Tab α} {k : Nat} {v : α} (found : Tab.find? t k = some v) (f : α → α) :
    Tab.modify t k f = Tab.put t k (f v) := by
  rw [Tab.modify, found]

theorem breakRing_of_found {s : State} {k : Nat} {r : Ring} (found : Tab.find? s.rings k = some r) (kind : Nat) :
    s.breakRing k kind = { s with rings := Tab.put s.rings k { r with error := true } }.ringFault k kind 0 := by
  rw [State.breakRing, modify_of_found found]
  rfl

theorem bit_of_fld_zero {s : State} {k : RegKey} {i : Nat} (zero : s.fld k i 1 = 0) : s.bit k i = false := by
  simp [State.bit, zero]

/-- Settles O13: a doorbell by the ring it finds, and a failed read by its owner. -/
theorem doorbellsAndReadsMoveOrBreakRings : Obligations.DoorbellsAndReadsMoveOrBreakRings := by
  unfold Obligations.DoorbellsAndReadsMoveOrBreakRings
  refine ⟨fun ring wide v s => ⟨fun r found => ⟨fun room => ?_, fun tooFar => ?_⟩, fun none => ?_⟩,
    fun s o => ⟨rfl, rfl, fun k r owner found => ?_, fun n j owner found running => ?_⟩⟩
  · rw [exec_doorbellWrite, execDoorbellWrite, found]
    exact if_neg (by omega)
  · rw [exec_doorbellWrite, execDoorbellWrite, found, ← breakRing_of_found found]
    exact if_pos tooFar
  · rw [exec_doorbellWrite, execDoorbellWrite, none]
    rfl
  · subst owner
    have here : Tab.find? (s.bump (rk .HI_READ_ERRORS)).rings k = some r := found
    rw [exec_completionTimeout, execCompletionTimeout, State.readFailed]
    dsimp only
    rw [here, Option.isSome_some, if_pos rfl, breakRing_of_found here]
    rfl
  · subst owner
    have here : (s.bump (rk .HI_READ_ERRORS)).job? n = some j := found
    have failed : exec (.completionTimeout (.job n)) s = .next ((s.bump (rk .HI_READ_ERRORS)).failJob j stLink 0) := by
      rw [exec_completionTimeout, execCompletionTimeout, State.readFailed]
      exact congrArg _ ((State.whenJob_eq here _ _).trans (if_pos (by simpa using running)))
    obtain ⟨tk, jobs⟩ := failJob_jobs (s.bump (rk .HI_READ_ERRORS)) j stLink 0
    refine ⟨_, failed, failJob_reg _ _ _ _ (by decide), ⟨_, jobs, rfl, rfl, rfl, rfl⟩, fun own c mem => ?_⟩
    obtain ⟨full, claimed⟩ := tokenClear_failJob (s.bump (rk .HI_READ_ERRORS)) j stLink 0 mem (own c mem)
    exact ⟨bit_of_fld_zero full, bit_of_fld_zero claimed⟩

end Sys2Proof.Machine
end

section
/-! PROOFS. Stores and loads within one codeword or through one window (10_basin_pools.md, 13_memory_and_placement.md). -/

namespace Sys2Proof.Machine

/-! ### Pieces of an access -/

theorem cutAt_one {u a n : Nat} (fuel : Nat) (some' : 0 < n) (fits : a % u + n ≤ u) : cutAt u (fuel + 1) a n = [(a, n)] := by
  have whole : min n (u - a % u) = n := by omega
  have rest : cutAt u fuel (a + n) 0 = [] := by
    cases fuel <;> rfl
  simp only [cutAt, if_neg some'.ne', whole, Nat.sub_self, rest]

theorem pieces_one {u a n : Nat} (some' : 0 < n) (fits : a % u + n ≤ u) : pieces u a n = [(a, n)] :=
  cutAt_one _ some' fits

theorem devPieces_dram {s : State} {a n l st : Nat} (onStack : s.loc (a % 2 ^ 56) = .dram l st) (some' : 0 < n)
    (fits : a % 64 + n ≤ 64) : s.devPieces a n = [(a, n)] := by
  have near : s.oneFar a n = false := by
    unfold State.oneFar
    rw [onStack]
    cases s.loc ((a + n - 1) % 2 ^ 56) <;> simp
  have coarse : pieces 256 a n = [(a, n)] := pieces_one some' (by omega)
  simp only [State.devPieces, near, Bool.false_eq_true, if_false, coarse, List.flatMap_cons, List.flatMap_nil, List.append_nil,
    onStack]
  exact pieces_one some' fits

theorem dramStore_clean {s : State} {st l : Nat} (clean : Tab.find? s.dramErr (codeKey st l) = none) (bs : List Byte) :
    s.dramStore st l bs = s.stackStore st l bs := by
  unfold State.dramStore
  dsimp only
  rw [show (s.stackStore st l bs).dramErr = s.dramErr from rfl, clean]

/-- A store within one codeword of a stack that holds no error. -/
theorem writeDev_dram {s : State} (w : Who) {a l st : Nat} {bs : List Byte} (onStack : s.loc (a % 2 ^ 56) = .dram l st)
    (clean : Tab.find? s.dramErr (codeKey st l) = none) (some' : 0 < bs.length) (fits : a % 64 + bs.length ≤ 64) :
    s.writeDev w a bs = (s.used (a % 2 ^ 47)).stackStore st l bs := by
  unfold State.writeDev
  rw [devPieces_dram onStack some' fits]
  simp only [List.foldl_cons, List.foldl_nil, Nat.sub_self, List.drop_zero, List.take_length, State.writePiece, onStack]
  exact dramStore_clean (s := s.used (a % 2 ^ 47)) clean bs

/-! ### Writes to the host -/

theorem send_now {s : State} (openNow : s.hostOpen = true) (none : s.hostWait = []) (p : Post) : s.send p = s.post p := by
  simp [State.send, openNow, none]

theorem send_waits {s : State} (waits : s.hostOpen = false ∨ s.hostWait ≠ []) (p : Post) :
    s.send p = { s with hostWait := s.hostWait ++ [p] } := by
  unfold State.send
  rw [if_neg]
  rcases waits with shut | some'
  · simp [shut]
  · simp [some']

theorem post_dev (s : State) (p : Post) : (s.post p).dev = s.dev := by
  cases p with
  | write a bs => rfl
  | vector v =>
    unfold State.post
    dsimp only
    split
    · rfl
    · split <;> rfl

theorem send_dev (s : State) (p : Post) : (s.send p).dev = s.dev := by
  unfold State.send
  split
  · exact post_dev s p
  · rfl

end Sys2Proof.Machine
end

section
/-! PROOFS. Completion records (14_rings_and_mailboxes.md). -/

namespace Sys2Proof.Machine

/-! ### What comes before a record -/

/-- The registers that the counts, the emptied tokens and the count of cancelled descriptors change. -/
def countRegs : List RegName := [.WR_SLOT_SCALE, .BS_SLOT, .QE_CANCELLED]

/-- State `t` differs from `s` in the monitor slots, the plans and the registers of `countRegs`. -/
def Counted (s t : State) : Prop :=
  (∃ regs mon plans, t = { s with regs := regs, mon := mon, plans := plans }) ∧ ∀ k : RegKey, k.name ∉ countRegs → t.reg k = s.reg k

theorem Counted.refl (s : State) : Counted s s := ⟨⟨_, _, _, rfl⟩, fun _ _ => rfl⟩

theorem Counted.trans {s t u : State} (h : Counted s t) (k : Counted t u) : Counted s u := by
  obtain ⟨⟨r, m, p, rfl⟩, regs⟩ := h
  obtain ⟨⟨r', m', p', rfl⟩, regs'⟩ := k
  exact ⟨⟨_, _, _, rfl⟩, fun x other => (regs' x other).trans (regs x other)⟩

theorem counted_setFld (s : State) {n : RegName} (mem : n ∈ countRegs) (u i lo w x : Nat) : Counted s (s.setFld (rk n u i) lo w x) :=
  ⟨⟨_, _, _, rfl⟩, fun _ other => s.reg_setFld_other _ _ _ fun same => other (same ▸ mem)⟩

theorem counted_addCounts (s : State) (n : Nat) (c : Counts) : Counted s (s.addCounts n c) := by
  have added : Counted s { s with mon := Tab.put s.mon n ((s.slotMon n).plus c) } := ⟨⟨_, _, _, rfl⟩, fun _ _ => rfl⟩
  unfold State.addCounts
  dsimp only
  split
  · exact added
  · exact added.trans (counted_setFld _ (by decide) ..)

theorem counted_emptyAll (s : State) (cs : List (Nat × Nat)) : Counted s (s.emptyAll cs) :=
  List.foldlRecOn cs _ (Counted.refl s) fun t h c _ => h.trans (counted_setFld t (by decide) ..)

theorem counted_replan (s : State) (j : Job) : Counted s (s.replan j) := by
  unfold State.replan
  split
  · exact ⟨⟨_, _, _, rfl⟩, fun _ _ => rfl⟩
  · exact .refl s

/-- The state with a descriptor's counts added and the slots it read emptied. -/
def State.counted (s : State) (j : Job) : State :=
  let s := if j.counts = Counts.zero then s else s.addCounts j.d.slot j.counts
  if j.status = 0 then s.emptyAll j.reads else s

theorem counted_counted (s : State) (j : Job) : Counted s (s.counted j) := by
  have added : Counted s (if j.counts = Counts.zero then s else s.addCounts j.d.slot j.counts) := by
    split
    · exact .refl s
    · exact counted_addCounts ..
  unfold State.counted
  dsimp only
  split
  · exact added.trans (counted_emptyAll ..)
  · exact added

/-- The state that writes the record of a descriptor of this module: the descriptor is gone. -/
def State.beforeRecord (s : State) (j : Job) : State :=
  let s := ((s.counted j).replan j).dropJob j.jid
  if j.status = stCancelled then s.bump (rk .QE_CANCELLED) else s

theorem counted_beforeRecord (s : State) (j : Job) : Counted (s.dropJob j.jid) (s.beforeRecord j) := by
  obtain ⟨⟨r, m, p, eq⟩, regs⟩ := (counted_counted s j).trans (counted_replan _ j)
  have dropped : Counted (s.dropJob j.jid) (((s.counted j).replan j).dropJob j.jid) := by
    refine ⟨⟨r, m, p, ?_⟩, regs⟩
    rw [eq]
    rfl
  unfold State.beforeRecord
  dsimp only
  split
  · exact dropped.trans ⟨⟨_, _, _, rfl⟩, fun _ other => State.reg_bump_other _ _ fun same => other (same ▸ by decide)⟩
  · exact dropped

theorem postRecord_own {s : State} {j : Job} {q : Cq} (own : j.origin = none) (here : bitOf j.flags flRemote = false)
    (cq : Tab.find? s.cqs j.d.cq = some q) : s.postRecord j = (((s.beforeRecord j).recordTo j.d.cq q
      (j.record s.tk 0xFF (s.lateFlags j.cls j.d.deadline j.flags))).ringGone j.ring).showRings := by
  obtain ⟨⟨r, m, p, eq⟩, regs⟩ := counted_beforeRecord s j
  have cqs : Tab.find? (s.beforeRecord j).cqs j.d.cq = some q := by rw [eq]; exact cq
  have tk : (s.beforeRecord j).tk = s.tk := by rw [eq]; rfl
  have late : (s.beforeRecord j).lateFlags j.cls j.d.deadline j.flags = s.lateFlags j.cls j.d.deadline j.flags := by
    have now : (s.beforeRecord j).now = s.now := congrArg BitVec.toNat (regs (rk .TM_NOW) (by decide))
    rw [State.lateFlags, State.lateFlags, now]
  have unfolded : s.postRecord j = ((match Tab.find? (s.beforeRecord j).cqs j.d.cq with
      | some q => (s.beforeRecord j).recordTo j.d.cq q (if bitOf j.flags flRemote then
          remoteRecord j.block ((s.beforeRecord j).lateFlags j.cls j.d.deadline j.flags) else
          j.record (s.beforeRecord j).tk 0xFF ((s.beforeRecord j).lateFlags j.cls j.d.deadline j.flags))
      | none => s.beforeRecord j).ringGone j.ring).showRings := by
    unfold State.postRecord
    rw [own]
    rfl
  rw [unfolded, cqs, tk, late, here]
  rfl

/-! ### The record and its vector -/

theorem length_record (j : Job) (tk index flags phase : Nat) : (j.record tk index flags phase).length = 32 := by
  simp [Job.record, length_leBytes]

/-- The completion ring with one record more. -/
def Cq.next (q : Cq) : Cq := { q with posted := q.posted + 1, since := if q.sends = [] then q.since + 1 else 0 }

/-- The place of the next record of a completion ring. -/
def Cq.spot (q : Cq) : Nat := q.place.base + 32 * (q.posted % 2 ^ q.place.z)

/-- The phase of the next record of a completion ring. -/
def Cq.phase (q : Cq) : Nat := if q.posted / 2 ^ q.place.z % 2 = 0 then 1 else 0

/-- The bytes of a record stored or sent. -/
def State.storeRecordAt (s : State) (q : Cq) (bs : List Byte) : State :=
  if q.place.device then s.writeDev queueWho q.spot bs else s.send (.write q.spot bs)

theorem recordTo_eq (s : State) (c : Nat) (q : Cq) (bytes : Nat → List Byte) :
    s.recordTo c q bytes = q.sends.foldl State.send { s.storeRecordAt q (bytes q.phase) with
      cqs := Tab.put (s.storeRecordAt q (bytes q.phase)).cqs c q.next } := by
  unfold State.recordTo Cq.next Cq.sends State.storeRecordAt Cq.spot Cq.phase
  dsimp only
  by_cases due : max q.n 1 ≤ q.since + 1
  · simp only [due, if_true]
    rfl
  · simp only [due, if_false]
    rfl

theorem rest_storeRecordAt (s : State) (q : Cq) (bs : List Byte) : (s.storeRecordAt q bs).rest = s.rest := by
  unfold State.storeRecordAt
  split
  · exact rest_writeDev ..
  · exact rest_send ..

/-- A field that a write or vector for the host leaves alone stays while several go out. -/
theorem foldl_send {α : Type} (f : State → α) (keeps : ∀ s p, f (s.send p) = f s) (ps : List Post) (s : State) :
    f (ps.foldl State.send s) = f s :=
  List.foldlRecOn (motive := fun t : State => f t = f s) ps _ rfl fun t same p _ => (keeps t p).trans same

/-- The fields of the descriptors and completion rings after a record. -/
theorem recordTo_table (s : State) (c : Nat) (q : Cq) (bytes : Nat → List Byte) :
    (s.recordTo c q bytes).jobs = s.jobs ∧ (s.recordTo c q bytes).cqs = Tab.put s.cqs c q.next := by
  rw [recordTo_eq, foldl_send State.jobs (fun s p => of_rest State.jobs (rest_send s p)),
    foldl_send State.cqs (fun s p => of_rest State.cqs (rest_send s p))]
  have jobs := of_rest State.jobs (rest_storeRecordAt s q (bytes q.phase))
  have cqs := of_rest State.cqs (rest_storeRecordAt s q (bytes q.phase))
  exact ⟨jobs, congrArg (Tab.put · c q.next) cqs⟩

theorem recordTo_dev (s : State) (c : Nat) (q : Cq) (bytes : Nat → List Byte) :
    (s.recordTo c q bytes).dev = (s.storeRecordAt q (bytes q.phase)).dev := by
  rw [recordTo_eq, foldl_send State.dev send_dev]

/-- Posting closes with what the ring's end and QE_STATUS show. -/
theorem posted_keeps {α : Type} (f : State → α) (rings : ∀ (s : State) r, f { s with rings := r } = f s)
    (status : ∀ s v, f (s.setReg (rk .QE_STATUS) v) = f s) (s : State) (k : Nat) : f ((s.ringGone k).showRings) = f s := by
  refine (status ..).trans ?_
  unfold State.ringGone
  split
  · split
    · exact rings ..
    · rfl
  · rfl

/-- A record bound for a stack stands there, and no other byte of device memory changes. -/
theorem storeRecordAt_dram {s : State} {q : Cq} {bs : List Byte} {l st : Nat} (device : q.place.device = true)
    (onStack : s.loc (q.spot % 2 ^ 56) = .dram l st) (clean : Tab.find? s.dramErr (codeKey st l) = none)
    (length : bs.length = 32) (aligned : q.spot % 32 = 0) : (s.storeRecordAt q bs).dev = Mem.write s.dev l bs := by
  unfold State.storeRecordAt
  rw [if_pos device, writeDev_dram queueWho onStack clean (by omega) (by omega)]
  rfl

theorem storeRecordAt_host {s : State} {q : Cq} {bs : List Byte} (host : q.place.device = false) :
    s.storeRecordAt q bs = s.send (.write q.spot bs) := if_neg (by simp [host])

theorem foldl_send_waits (ps : List Post) {s : State} (waits : s.hostOpen = false ∨ s.hostWait ≠ []) :
    ps.foldl State.send s = { s with hostWait := s.hostWait ++ ps } := by
  induction ps generalizing s with
  | nil => simp
  | cons p r ih =>
    have still : State.hostOpen { s with hostWait := s.hostWait ++ [p] } = false ∨ s.hostWait ++ [p] ≠ [] := .inr (by simp)
    rw [List.foldl_cons, send_waits waits, ih still]
    simp

theorem recordTo_host_now {s : State} {q : Cq} (host : q.place.device = false) (openNow : s.hostOpen = true) (none : s.hostWait = [])
    (quiet : q.sends = []) (c : Nat) (bytes : Nat → List Byte) :
    (s.recordTo c q bytes).host = Mem.write s.host q.spot (bytes q.phase) := by
  rw [recordTo_eq, quiet, storeRecordAt_host host, send_now openNow none]
  rfl

theorem recordTo_host_waits {s : State} {q : Cq} (host : q.place.device = false) (waits : s.hostOpen = false ∨ s.hostWait ≠ [])
    (c : Nat) (bytes : Nat → List Byte) : (s.recordTo c q bytes).host = s.host ∧
      (s.recordTo c q bytes).hostWait = s.hostWait ++ .write q.spot (bytes q.phase) :: q.sends := by
  rw [recordTo_eq, storeRecordAt_host host, send_waits waits]
  dsimp only
  rw [foldl_send_waits _ (.inr (by simp))]
  exact ⟨rfl, by simp⟩

/-- Settles O14: the record's own write and its vector are the only things that reach memory; the timer sends the vector alone. -/
theorem recordsLandAndVectorsFollow : Obligations.RecordsLandAndVectorsFollow := by
  unfold Obligations.RecordsLandAndVectorsFollow
  constructor
  · intro s jid j q memories found due own here cq off bytes
    obtain ⟨⟨r, m, p, before⟩, regs⟩ := counted_beforeRecord s j
    have sameJid := State.jid_of_job? found
    have posted : exec (.completionRecordPost jid) s = .next (s.postRecord j) := by
      rw [exec_completionRecordPost, execCompletionRecordPost, State.whenJob_eq found, if_pos due]
    have record := postRecord_own own here cq
    have length : bytes.length = 32 := length_record ..
    obtain ⟨jobs, cqs⟩ := recordTo_table (s.beforeRecord j) j.d.cq q (j.record s.tk 0xFF (s.lateFlags j.cls j.d.deadline j.flags))
    have dev : ((s.beforeRecord j).recordTo j.d.cq q (j.record s.tk 0xFF (s.lateFlags j.cls j.d.deadline j.flags))).dev =
        ((s.beforeRecord j).storeRecordAt q bytes).dev := recordTo_dev ..
    have openSame : (s.beforeRecord j).hostOpen = s.hostOpen := by
      have link : (s.beforeRecord j).reg (rk .HI_LINK) = s.reg (rk .HI_LINK) := regs _ (by decide)
      have low : (s.beforeRecord j).d3 = s.d3 := by rw [before]; rfl
      rw [State.hostOpen, State.hostOpen, State.bit, State.bit, State.fld, State.fld, link, low]
    have waitSame : (s.beforeRecord j).hostWait = s.hostWait := by rw [before]; rfl
    have hostSame : (s.beforeRecord j).host = s.host := by rw [before]; rfl
    have keeps {α : Type} (f : State → α) (rings : ∀ (s : State) r, f { s with rings := r } = f s)
        (status : ∀ s v, f (s.setReg (rk .QE_STATUS) v) = f s) : f (s.postRecord j) =
          f ((s.beforeRecord j).recordTo j.d.cq q (j.record s.tk 0xFF (s.lateFlags j.cls j.d.deadline j.flags))) := by
      rw [record]
      exact posted_keeps f rings status _ _
    have table : (s.postRecord j).cqs = Tab.put s.cqs j.d.cq q.next := by
      rw [keeps State.cqs (fun _ _ => rfl) fun _ _ => rfl, cqs, before]
      rfl
    refine ⟨_, posted, ?_, ?_, fun c other => ?_, fun l st device aligned onStack clean => ?_, fun host => ⟨?_, ?_, ?_⟩⟩
    · rw [keeps State.jobs (fun _ _ => rfl) fun _ _ => rfl, jobs, before, ← sameJid]
      rfl
    · rw [table, Tab.find?_put_same]
      rfl
    · rw [table, Tab.find?_put_other _ _ other]
    · have written : (s.postRecord j).dev = Mem.write s.dev l bytes := by
        rw [keeps State.dev (fun _ _ => rfl) fun _ _ => rfl, dev, storeRecordAt_dram device (l := l) (st := st) ?_ ?_ length ?_,
          before]
        · rfl
        · rw [before]
          exact onStack
        · rw [before]
          exact clean
        · unfold Cq.spot
          omega
      rw [written]
      refine ⟨?_, fun a out => Mem.get_write_outside _ _ _ _ (by omega)⟩
      rw [← length]
      exact Mem.read_write _ _ _ memories.1
    · rw [keeps State.dev (fun _ _ => rfl) fun _ _ => rfl, dev, storeRecordAt_host host, send_dev, before]
      rfl
    · rintro ⟨openNow, none, quiet⟩
      have written : (s.postRecord j).host = Mem.write s.host q.spot bytes := by
        rw [keeps State.host (fun _ _ => rfl) fun _ _ => rfl, ← hostSame]
        exact recordTo_host_now host (openSame.trans openNow) (waitSame.trans none) quiet _ _
      rw [written]
      refine ⟨?_, fun a out => Mem.get_write_outside _ _ _ _ (by rw [length]; exact out)⟩
      rw [← length]
      exact Mem.read_write _ _ _ memories.2.1
    · intro waits
      obtain ⟨hostAfter, waitAfter⟩ := recordTo_host_waits (s := s.beforeRecord j) host (by rwa [openSame, waitSame]) j.d.cq
        (j.record s.tk 0xFF (s.lateFlags j.cls j.d.deadline j.flags))
      rw [keeps State.host (fun _ _ => rfl) fun _ _ => rfl, keeps State.hostWait (fun _ _ => rfl) fun _ _ => rfl, ← hostSame,
        ← waitSame]
      exact ⟨hostAfter, waitAfter⟩
  · intro s c q cq some' t
    rw [exec_msixTimer, execMsixTimer, cq]
    exact if_pos ⟨some', t⟩

end Sys2Proof.Machine
end

section
/-! PROOFS. Events: their entry in the on-die log, then their record (14_rings_and_mailboxes.md, 19_nimbus_security_lifetime.md). -/

namespace Sys2Proof.Machine

/-! ### Into the log -/

theorem logEvent_reg_other (s : State) (c u : Nat) (p : List Byte) {k : RegKey} (other : k ≠ rk .NB_LOG_DIE) :
    (s.logEvent c u p).reg k = s.reg k := State.reg_bump_other s 1 other

theorem logEvent_getLast (s : State) (c u : Nat) (p : List Byte) :
    (s.logEvent c u p).dieLog.getLast? = some (s.logEntry c u p) := by
  unfold State.logEvent State.logEntry
  dsimp only
  rw [List.getLast?_drop, if_neg (by simp), List.getLast?_append, List.getLast?_singleton]
  rfl

theorem length_fixLen (n : Nat) (bs : List Byte) : (fixLen n bs).length = n := by
  simp [fixLen]

theorem length_eventBytes (code seq time unit : Nat) (pay : List Byte) (last : Nat) :
    (eventBytes code seq time unit pay last).length = 64 := by
  simp [eventBytes, length_leBytes, length_fixLen]

/-! ### Then into the event ring -/

/-- The place of the next record of the event ring. -/
def EvRing.spot (r : EvRing) : Nat := r.place.base + 64 * (r.posted % 2 ^ r.place.z)

/-- The bytes of an event's record. -/
def State.eventRecord (s : State) (r : EvRing) (code unit : Nat) (pay : List Byte) : List Byte :=
  eventBytes code (s.evSeq % 2 ^ 32) s.now unit pay (if r.posted / 2 ^ r.place.z % 2 = 0 then 128 else 0)

theorem raise_logged_only {s : State} {code : Nat} (only : s.evRing = none ∨ code = 0x303 ∨ code = 0x406) (unit : Nat)
    (pay : List Byte) : s.raise code unit pay = s.logEvent code unit pay := by
  unfold State.raise State.raiseN
  dsimp only
  split
  · rfl
  · next other =>
    have none : (s.logEvent code unit pay).evRing = none := by tauto
    rw [none]

theorem evRoom_logEvent (s : State) (c u : Nat) (p : List Byte) (r : EvRing) : (s.logEvent c u p).evRoom r = s.evRoom r := by
  rw [State.evRoom, State.evRoom, State.fld, State.fld, logEvent_reg_other s c u p (by decide)]

theorem raise_lost {s : State} {r : EvRing} {code : Nat} (ring : s.evRing = some r) (posted : ¬ (code = 0x303 ∨ code = 0x406))
    (full : s.evRoom r = false) (unit : Nat) (pay : List Byte) :
    s.raise code unit pay =
      { (s.logEvent code unit pay).bump (rk .QE_EV_LOST) with evLost := (s.logEvent code unit pay).evLost + 1 } := by
  have full' : (s.logEvent code unit pay).evRoom r = false := (evRoom_logEvent ..).trans full
  have ring' : (s.logEvent code unit pay).evRing = some r := ring
  unfold State.raise State.raiseN
  simp only [if_neg posted, ring', full', Bool.false_eq_true, if_false]

/-- A record whose write is not latched: the record, then vector 2047. -/
theorem raise_posted {s t : State} {r : EvRing} {code : Nat} (ring : s.evRing = some r)
    (posted : ¬ (code = 0x303 ∨ code = 0x406)) (room : s.evRoom r = true) {unit : Nat} {pay : List Byte}
    (stored : State.recordStore { s.logEvent code unit pay with evRing := some { r with posted := r.posted + 1 } } r.place
      (64 * (r.posted % 2 ^ r.place.z)) (s.eventRecord r code unit pay) = (t, none)) :
    s.raise code unit pay = t.send (.vector 2047) := by
  have room' : (s.logEvent code unit pay).evRoom r = true := (evRoom_logEvent ..).trans room
  have ring' : (s.logEvent code unit pay).evRing = some r := ring
  have record : State.recordStore { s.logEvent code unit pay with evRing := some { r with posted := r.posted + 1 } } r.place
      (64 * (r.posted % 2 ^ r.place.z)) (eventBytes code (s.evSeq % 2 ^ 32) s.now unit pay
        (if r.posted / 2 ^ r.place.z % 2 = 0 then 128 else 0)) = (t, none) := stored
  unfold State.raise State.raiseN
  simp only [if_neg posted, ring', room', if_true, record]

/-- The state that writes an event's record: the event is in the log and its ring has posted one more. -/
def State.beforeEvent (s : State) (r : EvRing) (code unit : Nat) (pay : List Byte) : State :=
  { s.logEvent code unit pay with evRing := some { r with posted := r.posted + 1 } }

theorem beforeEvent_reg (s : State) (r : EvRing) (code unit : Nat) (pay : List Byte) {k : RegKey} (other : k ≠ rk .NB_LOG_DIE) :
    (s.beforeEvent r code unit pay).reg k = s.reg k := logEvent_reg_other s code unit pay other

/-- A record bound for a stack. -/
theorem recordStore_dram {s : State} {p : Place} {off l st : Nat} (device : p.device = true)
    (onStack : s.loc ((p.base + off) % 2 ^ 56) = .dram l st) (bs : List Byte) : ∃ errs,
    s.recordStore p off bs = ({ (s.used ((p.base + off) % 2 ^ 47)).stackStore st l bs with dramErr := errs }, none) := by
  unfold State.recordStore
  simp only [device, Bool.not_true, Bool.false_eq_true, if_false]
  rw [onStack]
  exact ⟨_, rfl⟩

/-- What a vector does in host memory. -/
theorem post_vector_host (s : State) (v : Nat) : (s.post (.vector v)).host =
    if s.bit (rk .PCI_MSIX) 31 = true ∧ s.bit (rk .PCI_MSIX) 30 = false ∧ s.bit (rk .MSIX_CTRL 0 v) 0 = false then
      Mem.write s.host (s.vectorAddr v) (leBytes 4 (s.reg (rk .MSIX_DATA 0 v)).toNat) else s.host := by
  unfold State.post
  dsimp only
  by_cases on : s.bit (rk .PCI_MSIX) 31 = true
  · rw [if_neg (by simp [State.msixOn, on])]
    by_cases masked : (s.bit (rk .PCI_MSIX) 30 || s.bit (rk .MSIX_CTRL 0 v) 0) = true
    · rw [if_pos masked, if_neg]
      · rfl
      · rintro ⟨-, function, own⟩
        simp [function, own] at masked
    · rw [if_neg masked, if_pos]
      · rfl
      · simpa [on] using masked
  · rw [if_pos (by simp [State.msixOn, on]), if_neg fun h => on h.1]

theorem post_hostWait (s : State) (p : Post) : (s.post p).hostWait = s.hostWait := by
  cases p with
  | write a bs => rfl
  | vector v =>
    unfold State.post
    dsimp only
    split
    · rfl
    · split <;> rfl

/-- The event log, its numbers and its ring stay while something goes to the host. -/
theorem send_events (s : State) (p : Post) :
    (s.send p).dieLog = s.dieLog ∧ (s.send p).evSeq = s.evSeq ∧ (s.send p).evRing = s.evRing := by
  unfold State.send
  split
  · cases p with
    | write a bs => exact ⟨rfl, rfl, rfl⟩
    | vector v =>
      unfold State.post
      dsimp only
      split
      · exact ⟨rfl, rfl, rfl⟩
      · split <;> exact ⟨rfl, rfl, rfl⟩
  · exact ⟨rfl, rfl, rfl⟩

theorem sent_stackStore_dev (s : State) (a st l : Nat) (bs : List Byte) (errs : Tab (List (Nat × Nat))) (p : Post) :
    (State.send { (s.used a).stackStore st l bs with dramErr := errs } p).dev = Mem.write s.dev l bs :=
  (send_dev ..).trans rfl

/-- A write and a vector that go out at once. -/
theorem sends_host_now {s : State} (openNow : s.hostOpen = true) (none : s.hostWait = []) (a v : Nat) (bs : List Byte) :
    ((s.send (.write a bs)).send (.vector v)).hostWait = [] ∧ ((s.send (.write a bs)).send (.vector v)).host =
      if s.bit (rk .PCI_MSIX) 31 = true ∧ s.bit (rk .PCI_MSIX) 30 = false ∧ s.bit (rk .MSIX_CTRL 0 v) 0 = false then
        Mem.write (Mem.write s.host a bs) (s.vectorAddr v) (leBytes 4 (s.reg (rk .MSIX_DATA 0 v)).toNat)
      else Mem.write s.host a bs := by
  rw [send_now openNow none, send_now (s := s.post (.write a bs)) openNow none]
  exact ⟨(post_hostWait ..).trans none, post_vector_host ..⟩

theorem evRing_beforeEvent (s : State) (r : EvRing) (code unit : Nat) (pay : List Byte) :
    (s.beforeEvent r code unit pay).evRing = some { r with posted := r.posted + 1 } ∧
    (s.beforeEvent r code unit pay).dieLog = (s.logEvent code unit pay).dieLog ∧
    (s.beforeEvent r code unit pay).evSeq = s.evSeq + 1 := by
  have seq : (s.logEvent code unit pay).evSeq = s.evSeq + 1 := rfl
  unfold State.beforeEvent
  generalize s.logEvent code unit pay = x at seq ⊢
  exact ⟨rfl, rfl, seq⟩

theorem beforeEvent_memory (s : State) (r : EvRing) (code unit : Nat) (pay : List Byte) :
    (s.beforeEvent r code unit pay).dev = s.dev ∧ (s.beforeEvent r code unit pay).host = s.host ∧
    (s.beforeEvent r code unit pay).hostWait = s.hostWait ∧ (s.beforeEvent r code unit pay).d3 = s.d3 := ⟨rfl, rfl, rfl, rfl⟩

theorem hostOpen_beforeEvent (s : State) (r : EvRing) (code unit : Nat) (pay : List Byte) :
    (s.beforeEvent r code unit pay).hostOpen = s.hostOpen := by
  rw [State.hostOpen, State.hostOpen, State.bit, State.bit, State.fld, State.fld, beforeEvent_reg s r code unit pay (by decide),
    (beforeEvent_memory s r code unit pay).2.2.2]

section
variable {s : State} {r : EvRing} {code : Nat} (ring : s.evRing = some r) (posted : ¬ (code = 0x303 ∨ code = 0x406))
  (room : s.evRoom r = true) (unit : Nat) (pay : List Byte)
include ring posted room

theorem raise_dram {l st : Nat} (device : r.place.device = true) (onStack : s.loc (r.spot % 2 ^ 56) = .dram l st) :
    ∃ errs, s.raise code unit pay = State.send
      { ((s.beforeEvent r code unit pay).used (r.spot % 2 ^ 47)).stackStore st l (s.eventRecord r code unit pay) with
        dramErr := errs } (.vector 2047) := by
  obtain ⟨errs, stored⟩ := recordStore_dram (s := s.beforeEvent r code unit pay) device onStack (s.eventRecord r code unit pay)
  exact ⟨errs, raise_posted ring posted room stored⟩

theorem raise_host (host : r.place.device = false) : s.raise code unit pay =
    ((s.beforeEvent r code unit pay).send (.write r.spot (s.eventRecord r code unit pay))).send (.vector 2047) :=
  raise_posted ring posted room (State.recordStore_host _ _ _ _ host)

/-- The ring counts the record, and no other event is raised. -/
theorem raise_events (place : r.place.device = false ∨ ∃ l st : Nat, s.loc (r.spot % 2 ^ 56) = .dram l st) :
    (s.raise code unit pay).evRing = some { r with posted := r.posted + 1 } ∧
    (s.raise code unit pay).dieLog = (s.logEvent code unit pay).dieLog ∧ (s.raise code unit pay).evSeq = s.evSeq + 1 := by
  obtain ⟨ringAfter, logAfter, seqAfter⟩ := evRing_beforeEvent s r code unit pay
  rcases Bool.eq_false_or_eq_true r.place.device with device | host
  · obtain ⟨l, st, onStack⟩ := place.resolve_left (by simp [device])
    obtain ⟨errs, after⟩ := raise_dram ring posted room unit pay device onStack
    obtain ⟨log, seq, same⟩ := send_events { ((s.beforeEvent r code unit pay).used (r.spot % 2 ^ 47)).stackStore st l
      (s.eventRecord r code unit pay) with dramErr := errs } (.vector 2047)
    rw [after, log, seq, same]
    generalize s.beforeEvent r code unit pay = b at ringAfter logAfter seqAfter ⊢
    exact ⟨ringAfter, logAfter, seqAfter⟩
  · obtain ⟨log, seq, same⟩ := send_events ((s.beforeEvent r code unit pay).send
      (.write r.spot (s.eventRecord r code unit pay))) (.vector 2047)
    obtain ⟨log', seq', same'⟩ := send_events (s.beforeEvent r code unit pay) (.write r.spot (s.eventRecord r code unit pay))
    rw [raise_host ring posted room unit pay host, log, seq, same, log', seq', same']
    exact ⟨ringAfter, logAfter, seqAfter⟩

theorem raise_dram_dev {l st : Nat} (device : r.place.device = true) (onStack : s.loc (r.spot % 2 ^ 56) = .dram l st) :
    (s.raise code unit pay).dev = Mem.write s.dev l (s.eventRecord r code unit pay) := by
  obtain ⟨errs, after⟩ := raise_dram ring posted room unit pay device onStack
  rw [after, sent_stackStore_dev, (beforeEvent_memory s r code unit pay).1]

theorem raise_host_dev (host : r.place.device = false) : (s.raise code unit pay).dev = s.dev := by
  rw [raise_host ring posted room unit pay host, send_dev, send_dev]
  exact (beforeEvent_memory s r code unit pay).1

theorem raise_host_now (host : r.place.device = false) (openNow : s.hostOpen = true) (none : s.hostWait = []) :
    (s.raise code unit pay).hostWait = [] ∧ (s.raise code unit pay).host =
      if s.bit (rk .PCI_MSIX) 31 = true ∧ s.bit (rk .PCI_MSIX) 30 = false ∧ s.bit (rk .MSIX_CTRL 0 2047) 0 = false then
        Mem.write (Mem.write s.host r.spot (s.eventRecord r code unit pay)) (s.vectorAddr 2047)
          (leBytes 4 (s.reg (rk .MSIX_DATA 0 2047)).toNat)
      else Mem.write s.host r.spot (s.eventRecord r code unit pay) := by
  have after := raise_host ring posted room unit pay host
  have same {k : RegKey} (other : k ≠ rk .NB_LOG_DIE) : (s.beforeEvent r code unit pay).reg k = s.reg k :=
    beforeEvent_reg s r code unit pay other
  have openThen := (hostOpen_beforeEvent s r code unit pay).trans openNow
  obtain ⟨-, hostSame, waitSame, -⟩ := beforeEvent_memory s r code unit pay
  generalize s.beforeEvent r code unit pay = b at after same openThen hostSame waitSame
  have bit {k : RegKey} (i : Nat) (other : k ≠ rk .NB_LOG_DIE) : b.bit k i = s.bit k i := by
    rw [State.bit, State.bit, State.fld, State.fld, same other]
  have addr : b.vectorAddr 2047 = s.vectorAddr 2047 := by
    rw [State.vectorAddr, State.vectorAddr, same (by decide), same (by decide)]
  obtain ⟨wait, sent⟩ := sends_host_now openThen (waitSame.trans none) r.spot 2047 (s.eventRecord r code unit pay)
  rw [bit 31 (by decide), bit 30 (by decide), bit 0 (by decide), addr, same (by decide), hostSame] at sent
  rw [after]
  exact ⟨wait, sent⟩

theorem raise_host_waits (host : r.place.device = false) (waits : s.hostOpen = false ∨ s.hostWait ≠ []) :
    (s.raise code unit pay).host = s.host ∧
    (s.raise code unit pay).hostWait = s.hostWait ++ [.write r.spot (s.eventRecord r code unit pay), .vector 2047] := by
  have waitsThen : (s.beforeEvent r code unit pay).hostOpen = false ∨ (s.beforeEvent r code unit pay).hostWait ≠ [] := by
    rw [hostOpen_beforeEvent s r code unit pay]
    exact waits
  have two := foldl_send_waits [.write r.spot (s.eventRecord r code unit pay), .vector 2047] waitsThen
  have after := (raise_host ring posted room unit pay host).trans two
  obtain ⟨-, hostSame, waitSame, -⟩ := beforeEvent_memory s r code unit pay
  rw [after]
  exact ⟨hostSame, congrArg (· ++ _) waitSame⟩

end

/-- Settles O15: the event is logged first; its record's write, where nothing is latched, is followed by vector 2047. -/
theorem eventsAreLoggedThenPosted : Obligations.EventsAreLoggedThenPosted := by
  unfold Obligations.EventsAreLoggedThenPosted
  intro s code unit pay
  refine ⟨⟨s.logEntry code unit pay, logEvent_getLast .., rfl, rfl, rfl, rfl, rfl⟩, rfl, fun only => raise_logged_only only unit pay, ?_⟩
  intro r ring notPatrol notFail a bytes
  have posted : ¬ (code = 0x303 ∨ code = 0x406) := by tauto
  refine ⟨fun room place => ?_, fun full => ?_⟩
  · obtain ⟨ringAfter, logAfter, seqAfter⟩ := raise_events ring posted room unit pay place
    refine ⟨ringAfter, logAfter, seqAfter, fun l st device onStack memories => ?_, raise_host_dev ring posted room unit pay,
      raise_host_now ring posted room unit pay, raise_host_waits ring posted room unit pay⟩
    have length : (s.eventRecord r code unit pay).length = 64 := length_eventBytes ..
    rw [raise_dram_dev ring posted room unit pay device onStack]
    refine ⟨?_, fun x out => Mem.get_write_outside _ _ _ _ (by rw [length]; exact out)⟩
    rw [← length]
    exact Mem.read_write _ _ _ memories.1
  · rw [raise_lost ring posted full]
    have counted : ((s.logEvent code unit pay).bump (rk .QE_EV_LOST)).reg (rk .QE_EV_LOST) =
        (s.bump (rk .QE_EV_LOST)).reg (rk .QE_EV_LOST) := by
      rw [State.bump, State.bump, State.reg_setReg_same, State.reg_setReg_same, logEvent_reg_other s code unit pay (by decide)]
    have kept : (s.logEvent code unit pay).evRing = some r ∧ (s.logEvent code unit pay).evLost = s.evLost ∧
        (s.logEvent code unit pay).dev = s.dev ∧ (s.logEvent code unit pay).host = s.host := ⟨ring, rfl, rfl, rfl⟩
    generalize s.logEvent code unit pay = x at counted kept ⊢
    obtain ⟨ringSame, lost, dev, host⟩ := kept
    exact ⟨rfl, ringSame, congrArg (· + 1) lost, counted, dev, host⟩

end Sys2Proof.Machine
end

section
/-! PROOFS. Write requests to a pool through its windows (10_basin_pools.md). -/

namespace Sys2Proof.Machine

/-- What writing words without an error leaves of a state: device and host memory and every register but the error injection's. -/
structure WordsKeep (s t : State) : Prop where
  dev : t.dev = s.dev
  host : t.host = s.host
  reg : ∀ k : RegKey, k.name ≠ .BS_ECC_INJECT → t.reg k = s.reg k

theorem WordsKeep.refl (s : State) : WordsKeep s s := ⟨rfl, rfl, fun _ _ => rfl⟩

theorem WordsKeep.trans {s t u : State} (h : WordsKeep s t) (k : WordsKeep t u) : WordsKeep s u :=
  ⟨k.dev.trans h.dev, k.host.trans h.host, fun x other => (k.reg x other).trans (h.reg x other)⟩

theorem wholeWord_keeps (s : State) (q x : Nat) : WordsKeep s (s.wholeWord q x) ∧
    ∀ n, n ≠ (poolBase q + x) / 32 → Tab.find? (s.wholeWord q x).poolErr n = Tab.find? s.poolErr n := by
  unfold State.wholeWord
  dsimp only
  split
  · exact ⟨⟨rfl, rfl, fun k other => State.reg_setFld_other _ _ _ _ fun same => other (same ▸ rfl)⟩,
      fun n other => Tab.find?_put_other _ _ other⟩
  · exact ⟨⟨rfl, rfl, fun _ _ => rfl⟩, fun n other => Tab.find?_del_other _ other⟩

/-- A write into a word without an error touches no other word. -/
theorem wordWritten_keeps {s : State} {q x : Nat} (clean : Tab.find? s.poolErr ((poolBase q + x) / 32) = none) (n : Nat) :
    WordsKeep s (s.wordWritten q x n) ∧
    ∀ m, m ≠ (poolBase q + x) / 32 → Tab.find? (s.wordWritten q x n).poolErr m = Tab.find? s.poolErr m := by
  unfold State.wordWritten
  dsimp only
  split
  · exact wholeWord_keeps s q x
  · rw [clean]
    exact ⟨.refl s, fun _ _ => rfl⟩

theorem poolBase_aligned (q : Nat) : poolBase q % 32 = 0 := by
  unfold poolBase
  omega

/-- So does a write into several words. -/
theorem words_keep (q fuel x n : Nat) (s : State)
    (clean : ∀ b, x ≤ b → b < x + n → Tab.find? s.poolErr ((poolBase q + b) / 32) = none) :
    WordsKeep s ((cutAt 32 fuel x n).foldl (fun s p => s.wordWritten q p.1 p.2) s) := by
  induction fuel generalizing x n s with
  | zero => exact .refl s
  | succ fuel ih =>
    unfold cutAt
    split
    · exact .refl s
    · next some' =>
      have aligned := poolBase_aligned q
      obtain ⟨one, others⟩ := wordWritten_keeps (clean x le_rfl (by omega)) (min n (32 - x % 32))
      refine one.trans (ih _ _ _ fun b low high => ?_)
      rw [others _ (by omega)]
      exact clean b (by omega) (by omega)

theorem poolStore_keeps {s : State} {q x : Nat} {bs : List Byte} (clean : s.soundWords (poolBase q + x) bs.length) :
    WordsKeep { s with dev := Mem.write s.dev (poolBase q + x) bs } (s.poolStore q x bs) := by
  refine words_keep q _ x bs.length _ fun b low high => ?_
  exact clean (poolBase q + b) (by omega) (by omega)

theorem admits_iff (s : State) (u k x n cls : Nat) : s.admits u k x n cls = true ↔ s.windowAdmits u k x n cls := by
  simp only [State.admits, State.windowAdmits, Bool.and_eq_true, decide_eq_true_eq, and_assoc, Nat.mul_comm]

theorem any_admits_iff (s : State) (u x n cls : Nat) : ((List.range 16).any fun k => s.admits u k x n cls) = true ↔
    ∃ k < 16, s.windowAdmits u k x n cls := by
  simp only [List.any_eq_true, List.mem_range, admits_iff]

/-- Settles O16: a request is stored or dropped as one, by the windows that take it whole. -/
theorem poolRequestLandsOnlyThroughWindow : Obligations.PoolRequestLandsOnlyThroughWindow := by
  unfold Obligations.PoolRequestLandsOnlyThroughWindow
  intro q x cls w bs s wf clean
  refine ⟨fun admitted => ?_, fun barred => ?_⟩
  · have stored : exec (.poolWriteRequest q x cls w bs) s = .next (s.poolStore q x bs) := by
      rw [exec_poolWriteRequest, execPoolWriteRequest, State.poolRequest]
      exact congrArg _ (if_pos ((any_admits_iff ..).mpr admitted))
    obtain ⟨dev, host, reg⟩ := poolStore_keeps clean
    refine ⟨_, stored, ?_, fun a out => ?_, host, fun k => reg _ (by decide : RegName.BS_WIN ≠ .BS_ECC_INJECT)⟩
    · rw [dev]
      exact Mem.read_write _ _ _ wf
    · rw [dev]
      exact Mem.get_write_outside _ _ _ _ out
  · intro u d
    have dropped : exec (.poolWriteRequest q x cls w bs) s = .next (s.poolDrop q x cls w.toNat) := by
      rw [exec_poolWriteRequest, execPoolWriteRequest, State.poolRequest]
      refine congrArg _ (if_neg ?_)
      rw [any_admits_iff]
      exact fun ⟨k, low, admitted⟩ => barred k low admitted
    have latch : d.bit (rk .BS_WIN_DROP_INFO u) 63 = s.bit (rk .BS_WIN_DROP_INFO u) 63 := by
      rw [State.bit, State.bit, State.fld, State.fld, State.reg_bump_other s 1 (by simp [rk])]
    rw [dropped, State.poolDrop, State.dropLatch]
    rw [← latch]
    change Host.Outcome.next (State.raising (if d.bit (rk .BS_WIN_DROP_INFO u) 63 then (d, none) else _)) = _
    split <;> rfl

end Sys2Proof.Machine
end

section
/-! PROOFS. The host's side: accesses through BAR2, the link's events, what is posted (15_host_fronthaul_timing.md). -/

namespace Sys2Proof.Machine

/-! ### Accesses through BAR2 (R375 to R377) -/

theorem rest_readEach (s : State) (w : Who) (a n : Nat) : (s.readEach w a n).1.rest = s.rest :=
  rest_scan _ _ (s, []) fun r c => rest_readPiece r.1 w c.1 c.2 11

/-- A read through BAR2: the bytes that stand in the window, poisoned where a codeword cannot be corrected. -/
def State.hostAnswer (s : State) (off len : Nat) : State :=
  let r := s.readEach hostWho (s.bar2 off) len
  let bad := r.2.any fun e => e.1 = stDramEcc
  { (if bad then r.1.bump (rk .HI_POISON_SENT) else r.1) with readData := ⟨s.peek hostWho (s.bar2 off) 0 len, bad, true⟩ }

theorem exec_hostRead_inbound {s : State} {off len : Nat} (inside : s.inbound off len = true) :
    exec (.hostRead off len) s = .next (s.hostAnswer off len) := by
  rw [exec_hostRead, execHostRead, if_pos inside]
  rfl

theorem hostAnswer_keeps {α : Type} (f : State → α) (answer : ∀ s d, f { s with readData := d } = f s)
    (count : ∀ s v, f (s.setReg (rk .HI_POISON_SENT) v) = f s) (s : State) (off len : Nat) :
    f (s.hostAnswer off len) = f (s.readEach hostWho (s.bar2 off) len).1 := by
  refine (answer ..).trans ?_
  split
  · exact count ..
  · rfl

theorem any_ecc_iff (es : List Err) : (es.any fun e => e.1 = stDramEcc) = true ↔ ∃ d, (0x44, d) ∈ es := by
  rw [List.any_eq_true]
  constructor
  · rintro ⟨⟨c, d⟩, mem, code⟩
    exact ⟨d, (show c = 0x44 from of_decide_eq_true code) ▸ mem⟩
  · rintro ⟨d, mem⟩
    exact ⟨_, mem, by simp [stDramEcc]⟩

/-- Settles O17: a write within one codeword is one store, and a read answers before it counts what it met. -/
theorem hostAccessesReachTheWindow : Obligations.HostAccessesReachTheWindow := by
  unfold Obligations.HostAccessesReachTheWindow
  refine ⟨fun off bs s => ⟨fun outside => ?_, fun l st inside onStack place wf clean some' fits => ?_⟩,
    fun off len s => ⟨fun outside => ?_, fun inside => ⟨_, exec_hostRead_inbound inside, rfl, rfl, any_ecc_iff _, ?_, ?_, ?_, ?_, ?_⟩⟩⟩
  · rw [exec_hostWrite, execHostWrite]
    exact if_neg (by simp [outside])
  · have written : exec (.hostWrite off bs) s = .next ((s.used (s.bar2 off % 2 ^ 47)).stackStore st l bs) := by
      have below : s.bar2 off % 2 ^ 56 = s.bar2 off := Nat.mod_mod _ _
      rw [exec_hostWrite, execHostWrite, if_pos inside, writeDev_dram hostWho (below.symm ▸ onStack) clean some' fits]
    subst place
    exact ⟨_, written, Mem.read_write _ _ _ wf, fun a out => Mem.get_write_outside _ _ _ _ out, rfl, rfl, rfl⟩
  · rw [exec_hostRead, execHostRead]
    exact if_neg (by simp [outside])
  · intro v
    show (if (s.readEach hostWho (s.bar2 off) len).2.any (fun e => e.1 = stDramEcc) then v.bump (rk .HI_POISON_SENT) else v).reg
      (rk .HI_POISON_SENT) = if (s.readEach hostWho (s.bar2 off) len).2.any (fun e => e.1 = stDramEcc) = true then _ else _
    split <;> rfl
  · exact (hostAnswer_keeps State.mbox (fun _ _ => rfl) (fun _ _ => rfl) ..).trans (of_rest State.mbox (rest_readEach ..))
  · exact (hostAnswer_keeps State.site (fun _ _ => rfl) (fun _ _ => rfl) ..).trans (of_rest State.site (rest_readEach ..))
  · exact (hostAnswer_keeps State.jobs (fun _ _ => rfl) (fun _ _ => rfl) ..).trans (of_rest State.jobs (rest_readEach ..))
  · exact (hostAnswer_keeps State.rings (fun _ _ => rfl) (fun _ _ => rfl) ..).trans (of_rest State.rings (rest_readEach ..))

/-! ### The link's events (R374, R380, R434) -/

/-- Settles O18: each event of the link by its guard. -/
theorem hostLinkStateFollowsItsEvents : Obligations.HostLinkStateFollowsItsEvents := by
  unfold Obligations.HostLinkStateFollowsItsEvents
  intro s
  refine ⟨fun up => ?_, fun down => ?_, fun rate width flit rateFits widthFits down free power => ?_, fun rate width flit held => ?_, rfl, rfl⟩
  · rw [exec_hostLinkDown, execHostLinkDown, if_pos up]
    rfl
  · rw [exec_hostLinkDown, execHostLinkDown]
    exact if_neg (by simp [down])
  · rw [exec_hostLinkUp, execHostLinkUp, if_neg (by simp [down, free, power]), Nat.mod_eq_of_lt rateFits, Nat.mod_eq_of_lt widthFits]
    rfl
  · rw [exec_hostLinkUp, execHostLinkUp]
    refine if_pos ?_
    simpa using held

end Sys2Proof.Machine
end

section
/-! PROOFS. What goes out to the host, and debug behind its lock (15_host_fronthaul_timing.md, 19_nimbus_security_lifetime.md). -/

namespace Sys2Proof.Machine

/-! ### Posts at once or in order -/

theorem post_vector_off {s : State} (off : s.bit (rk .PCI_MSIX) 31 = false) (v : Nat) : s.post (.vector v) = s := by
  unfold State.post
  exact if_pos (by simp [State.msixOn, off])

theorem post_vector_masked {s : State} {v : Nat} (on : s.bit (rk .PCI_MSIX) 31 = true)
    (masked : s.bit (rk .PCI_MSIX) 30 = true ∨ s.bit (rk .MSIX_CTRL 0 v) 0 = true) :
    s.post (.vector v) = s.setFld (rk .MSIX_PBA 0 (v / 32)) (v % 32) 1 1 := by
  unfold State.post
  dsimp only
  rw [if_neg (by simp [State.msixOn, on]), if_pos (by simpa using masked)]

theorem post_vector_sent {s : State} {v : Nat} (on : s.bit (rk .PCI_MSIX) 31 = true) (function : s.bit (rk .PCI_MSIX) 30 = false)
    (own : s.bit (rk .MSIX_CTRL 0 v) 0 = false) :
    s.post (.vector v) = { s with host := Mem.write s.host (s.vectorAddr v) (leBytes 4 (s.reg (rk .MSIX_DATA 0 v)).toNat) } := by
  unfold State.post
  dsimp only
  rw [if_neg (by simp [State.msixOn, on]), if_neg (by simp [function, own])]
  rfl

/-- Writes that go out store their bytes in order. -/
theorem foldl_post_writes (ps : List Post) (s : State) (m : Mem) :
    (ps.filter Post.isWrite).foldl State.post { s with host := m } = { s with host := ps.foldl Post.store m } := by
  induction ps generalizing m with
  | nil => rfl
  | cons p r ih =>
    cases p with
    | write a bs => exact ih (Mem.write m a bs)
    | vector v => exact ih m

theorem post_hostOpen (s : State) (p : Post) : (s.post p).hostOpen = s.hostOpen := by
  have link : (s.post p).reg (rk .HI_LINK) = s.reg (rk .HI_LINK) := State.post_reg (by decide) s p
  have d3 : (s.post p).d3 = s.d3 := of_rest State.d3 (rest_post s p)
  rw [State.hostOpen, State.hostOpen, State.bit, State.bit, State.fld, State.fld, link, d3]

/-- With the host open and nothing waiting, what is sent goes out. -/
theorem foldl_send_now (ps : List Post) {s : State} (openNow : s.hostOpen = true) (none : s.hostWait = []) :
    ps.foldl State.send s = ps.foldl State.post s ∧ (ps.foldl State.post s).hostWait = [] := by
  induction ps generalizing s with
  | nil => exact ⟨rfl, none⟩
  | cons p r ih =>
    rw [List.foldl_cons, List.foldl_cons, send_now openNow none]
    exact ih ((post_hostOpen s p).trans openNow) ((post_hostWait s p).trans none)

theorem flushWait_open {s : State} (openNow : s.hostOpen = true) (free : s.snapshotBegun = false) :
    s.flushWait = (s.hostWait.filter fun p => !p.isWrite).foldl State.post
      { s with hostWait := [], host := s.hostWait.foldl Post.store s.host } := by
  unfold State.flushWait
  rw [if_pos (by simp [openNow, free])]
  exact congrArg (fun t => List.foldl State.post t (s.hostWait.filter fun p => !p.isWrite))
    (foldl_post_writes s.hostWait { s with hostWait := [] } s.host)

/-- Settles O20: a post that goes out at once is one of four, and what waited goes out as if each were sent. -/
theorem postsGoOutOrWaitInOrder : Obligations.PostsGoOutOrWaitInOrder := by
  unfold Obligations.PostsGoOutOrWaitInOrder
  refine ⟨fun s p => ⟨fun waits => send_waits waits p, fun openNow none => ?_⟩, fun s => ⟨fun held => ?_, ?_⟩⟩
  · rw [send_now openNow none]
    refine ⟨fun a bs write => write ▸ rfl, fun v vector off => vector ▸ post_vector_off off v, fun v vector on masked => ?_,
      fun v vector on function own => ?_⟩
    · exact vector ▸ post_vector_masked on masked
    · exact vector ▸ post_vector_sent on function own
  · unfold State.flushWait
    rw [if_neg]
    rcases held with shut | begun
    · simp [shut]
    · simp [begun]
  · intro openNow free u
    obtain ⟨sent, waitsNot⟩ := foldl_send_now (s.hostWait.filter fun p => !p.isWrite) (s := u) openNow rfl
    have flushed := flushWait_open openNow free
    refine ⟨flushed.trans sent.symm, flushed ▸ waitsNot, fun writes => ?_⟩
    have noVector : (s.hostWait.filter fun p => !p.isWrite) = [] := by
      refine List.filter_eq_nil_iff.mpr fun p mem => ?_
      simp [List.all_eq_true.mp writes p mem]
    rw [flushed, noVector]
    rfl

/-! ### Debug behind its lock -/

theorem bit_setFld_other (s : State) {k n : RegKey} (lo w x i : Nat) (h : n ≠ k) : (s.setFld k lo w x).bit n i = s.bit n i := by
  rw [State.bit, State.bit, State.fld_setFld_other s lo w x i 1 h]

theorem bit_setFld_apart (s : State) (k : RegKey) (lo w x i : Nat) (h : lo + w ≤ 64) (apart : i + 1 ≤ lo ∨ lo + w ≤ i) :
    (s.setFld k lo w x).bit k i = s.bit k i := by
  rw [State.bit, State.bit, State.fld_setFld_apart s k lo w x i 1 h apart]

theorem bit_setFld_same (s : State) (k : RegKey) (i : Nat) (b : Bool) (h : i + 1 ≤ 64) :
    (s.setFld k i 1 (flagNat b)).bit k i = b := by
  rw [State.bit, State.fld_setFld_same s k i 1 _ h]
  cases b <;> rfl

/-- An injection's address, bit and double fields set. -/
def State.injectAt (s : State) (k : RegKey) (v : Nat) : State :=
  ((s.setFld k 0 23 v).setFld k 24 8 (v / 2 ^ 24)).setFld k 32 1 (v / 2 ^ 32)

theorem injectAt_flds (s : State) (k : RegKey) (v : Nat) :
    (s.injectAt k v).fld k 0 23 = bitsOf v 0 23 ∧ (s.injectAt k v).fld k 24 8 = bitsOf v 24 8 ∧
    (s.injectAt k v).fld k 32 1 = bitsOf v 32 1 ∧ (s.injectAt k v).bit k 33 = s.bit k 33 := by
  unfold State.injectAt
  refine ⟨?_, ?_, ?_, ?_⟩
  · rw [State.fld_setFld_apart _ _ _ _ _ _ _ (by decide) (by decide), State.fld_setFld_apart _ _ _ _ _ _ _ (by decide) (by decide),
      State.fld_setFld_same _ _ _ _ _ (by decide), bitsOf, Nat.pow_zero, Nat.div_one]
  · rw [State.fld_setFld_apart _ _ _ _ _ _ _ (by decide) (by decide), State.fld_setFld_same _ _ _ _ _ (by decide), bitsOf]
  · rw [State.fld_setFld_same _ _ _ _ _ (by decide), bitsOf]
  · rw [bit_setFld_apart _ _ _ _ _ _ (by decide) (by decide), bit_setFld_apart _ _ _ _ _ _ (by decide) (by decide),
      bit_setFld_apart _ _ _ _ _ _ (by decide) (by decide)]

theorem injectAt_reg (s : State) {k n : RegKey} (v : Nat) (other : n ≠ k) : (s.injectAt k v).reg n = s.reg n := by
  rw [State.injectAt, State.reg_setFld_other _ _ _ _ other, State.reg_setFld_other _ _ _ _ other,
    State.reg_setFld_other _ _ _ _ other]

theorem exec_eccInjectArm_eq (basin : Nat) (v : BitVec 64) (s : State) : exec (.eccInjectArm basin v) s =
    .next (if s.debugOn && bitOf v.toNat 33 then (s.injectAt (rk .BS_ECC_INJECT basin) v.toNat).setFld (rk .BS_ECC_INJECT basin) 33 1 1
      else s.injectAt (rk .BS_ECC_INJECT basin) v.toNat) := by
  have lock : (s.injectAt (rk .BS_ECC_INJECT basin) v.toNat).debugOn = s.debugOn := by
    rw [State.debugOn, State.debugOn, State.bit, State.bit, State.fld, State.fld, injectAt_reg s _ (by simp [rk])]
  rw [exec_eccInjectArm, execEccInjectArm, ← lock]
  rfl

theorem bar4On_false {s : State} (shut : s.debugOn = false ∨ s.bar4 = false) : s.bar4On = false := by
  rcases shut with locked | closed
  · simp [State.bar4On, locked]
  · simp [State.bar4On, closed]

theorem exec_debugHalt_shut {s : State} (shut : s.bar4On = false) : exec .debugHalt s = .next s := by
  rw [exec_debugHalt, execDebugHalt]
  split
  · exact if_neg (by simp [shut])
  · rfl

theorem barRead_bar4_shut {s : State} (shut : s.bar4On = false) {off n : Nat} (low : 0x4000000 ≤ off) (high : off < 0x5000000) :
    s.barRead off n = (s, 0) := by
  rw [State.barRead, if_neg (by omega), if_neg (by omega), if_neg (by omega), if_neg (by omega), if_neg (by omega),
    if_neg (by omega)]
  exact if_pos (by simp [shut])

/-- The registers in which a halt and a resume show. -/
theorem showHalt_reg (s : State) {k : RegKey} (other : k ≠ rk .HI_DBG_HALT) : s.showHalt.reg k = s.reg k :=
  State.reg_setFld_other s _ _ _ other

theorem showHalt_bits (s : State) : s.showHalt.bit (rk .HI_DBG_HALT) 0 = s.bit (rk .HI_DBG_HALT) 0 ∧
    s.showHalt.bit (rk .HI_DBG_HALT) 1 = s.haltedU (s.fld (rk .HI_DBG_SEL) 0 10) :=
  ⟨bit_setFld_apart _ _ _ _ _ _ (by decide) (by decide), bit_setFld_same _ _ _ _ (by decide)⟩

theorem haltedU_of_reg {s t : State} {u : Nat} (same : t.reg (rk .JT_STATUS u) = s.reg (rk .JT_STATUS u)) :
    t.haltedU u = s.haltedU u := by
  rw [State.haltedU, State.haltedU, State.fld, State.fld, same]

/-- A change of the registers alone that leaves every one but JT_STATUS of a jet and HI_DBG_HALT. -/
def HaltOnly (u : Nat) (s t : State) : Prop :=
  (∀ k, k ≠ rk .JT_STATUS u → k ≠ rk .HI_DBG_HALT → t.reg k = s.reg k) ∧ t = { s with regs := t.regs }

theorem HaltOnly.setJet {u : Nat} {s t : State} (h : HaltOnly u s t) (lo w x : Nat) : HaltOnly u s (t.setFld (rk .JT_STATUS u) lo w x) := by
  obtain ⟨regs, eq⟩ := h
  refine ⟨fun k jet halt => (State.reg_setFld_other t _ _ _ jet).trans (regs k jet halt), ?_⟩
  rw [eq]
  rfl

theorem HaltOnly.setHalt {u : Nat} {s t : State} (h : HaltOnly u s t) (lo w x : Nat) : HaltOnly u s (t.setFld (rk .HI_DBG_HALT) lo w x) := by
  obtain ⟨regs, eq⟩ := h
  refine ⟨fun k jet halt => (State.reg_setFld_other t _ _ _ halt).trans (regs k jet halt), ?_⟩
  rw [eq]
  rfl

theorem HaltOnly.refl (u : Nat) (s : State) : HaltOnly u s s := ⟨fun _ _ _ => rfl, rfl⟩

/-- The jet that HI_DBG_SEL names, as a halt leaves it. -/
theorem halted_shown (s : State) (u : Nat) (sel : u = s.fld (rk .HI_DBG_SEL) 0 10) :
    let r := ((s.setFld (rk .JT_STATUS u) 0 2 2).setFld (rk .HI_DBG_HALT) 0 1 1).showHalt
    r.haltedU u = true ∧ r.bit (rk .HI_DBG_HALT) 0 = true ∧ r.bit (rk .HI_DBG_HALT) 1 = true ∧ HaltOnly u s r := by
  intro r
  have jet : r.haltedU u = true := by
    rw [haltedU_of_reg (s := s.setFld (rk .JT_STATUS u) 0 2 2)
      ((showHalt_reg _ (by simp [rk])).trans (State.reg_setFld_other _ _ _ _ (by simp [rk])))]
    rw [State.haltedU, State.fld_setFld_same _ _ _ _ _ (by decide)]
    rfl
  obtain ⟨first, second⟩ := showHalt_bits ((s.setFld (rk .JT_STATUS u) 0 2 2).setFld (rk .HI_DBG_HALT) 0 1 1)
  have selSame : ((s.setFld (rk .JT_STATUS u) 0 2 2).setFld (rk .HI_DBG_HALT) 0 1 1).fld (rk .HI_DBG_SEL) 0 10 = u := by
    rw [State.fld_setFld_other _ _ _ _ _ _ (by decide), State.fld_setFld_other _ _ _ _ _ _ (by simp [rk]), ← sel]
  refine ⟨jet, first.trans (bit_setFld_same _ _ 0 true (by decide)), second.trans ?_, ?_⟩
  · rw [selSame]
    exact (haltedU_of_reg (showHalt_reg _ (by simp [rk]))).symm.trans jet
  · exact (((HaltOnly.refl u s).setJet 0 2 2).setHalt 0 1 1).setHalt 1 1 _

/-- A jet resumed is not halted. -/
theorem resumeU_not_halted (s : State) (u : Nat) : (s.resumeU u).haltedU u = false := by
  unfold State.resumeU
  split
  · rw [haltedU_of_reg (showHalt_reg _ (by simp [rk])), State.haltedU, State.fld_setFld_same _ _ _ _ _ (by decide)]
    generalize (s.jets.any fun e => s.physJ e.1 = u && e.2.active.isSome) = on
    cases on <;> rfl
  · next idle => simpa using idle

theorem HaltOnly.resume {u : Nat} {s t : State} (h : HaltOnly u s t) : HaltOnly u s (t.resumeU u) := by
  unfold State.resumeU
  split
  · exact (h.setJet 0 2 _).setHalt 1 1 _
  · exact h

theorem resumeU_reg (s : State) (u : Nat) {k : RegKey} (jet : k ≠ rk .JT_STATUS u) (halt : k ≠ rk .HI_DBG_HALT) :
    (s.resumeU u).reg k = s.reg k := (HaltOnly.refl u s).resume.1 k jet halt

theorem resumeU_bit0 (s : State) (u : Nat) : (s.resumeU u).bit (rk .HI_DBG_HALT) 0 = s.bit (rk .HI_DBG_HALT) 0 := by
  unfold State.resumeU
  split
  · rw [(showHalt_bits _).1, bit_setFld_other _ _ _ _ _ (by simp [rk])]
  · rfl

theorem resumed_shown (s : State) (u : Nat) (sel : u = s.fld (rk .HI_DBG_SEL) 0 10) :
    let r := ((s.setFld (rk .HI_DBG_HALT) 0 1 0).resumeU u).showHalt
    r.haltedU u = false ∧ r.bit (rk .HI_DBG_HALT) 0 = false ∧ r.bit (rk .HI_DBG_HALT) 1 = false ∧ HaltOnly u s r := by
  intro r
  have jet : r.haltedU u = false := (haltedU_of_reg (showHalt_reg _ (by simp [rk]))).trans (resumeU_not_halted _ u)
  obtain ⟨first, second⟩ := showHalt_bits ((s.setFld (rk .HI_DBG_HALT) 0 1 0).resumeU u)
  have selSame : ((s.setFld (rk .HI_DBG_HALT) 0 1 0).resumeU u).fld (rk .HI_DBG_SEL) 0 10 = u := by
    rw [State.fld, resumeU_reg _ _ (by simp [rk]) (by decide), ← State.fld, State.fld_setFld_other _ _ _ _ _ _ (by decide), ← sel]
  refine ⟨jet, (first.trans (resumeU_bit0 ..)).trans (bit_setFld_same _ _ 0 false (by decide)), second.trans ?_, ?_⟩
  · rw [selSame]
    exact resumeU_not_halted _ u
  · exact (((HaltOnly.refl u s).setHalt 0 1 0).resume).setHalt 1 1 _

/-- Settles O21: every debug act first asks whether BAR4 is there and debug is unlocked. -/
theorem debugActsOnlyUnlocked : Obligations.DebugActsOnlyUnlocked := by
  unfold Obligations.DebugActsOnlyUnlocked
  refine ⟨fun basin v s => ⟨_, exec_eccInjectArm_eq basin v s, ?_⟩, fun s => ⟨fun shut => ?_, fun t u unlocked there sel low terrace held service => ?_,
    fun u unlocked there sel => ?_⟩⟩
  · obtain ⟨addr, bit, double, arm⟩ := injectAt_flds s (rk .BS_ECC_INJECT basin) v.toNat
    by_cases armed : (s.debugOn && bitOf v.toNat 33) = true
    · simp only [armed, if_true]
      refine ⟨?_, ?_, ?_, ?_, fun k other => ?_, rfl⟩
      · rw [State.fld_setFld_apart _ _ _ _ _ _ _ (by decide) (by decide), addr]
      · rw [State.fld_setFld_apart _ _ _ _ _ _ _ (by decide) (by decide), bit]
      · rw [State.fld_setFld_apart _ _ _ _ _ _ _ (by decide) (by decide), double]
      · exact (bit_setFld_same _ _ 33 true (by decide)).trans (Bool.or_true _).symm
      · rw [State.reg_setFld_other _ _ _ _ other, injectAt_reg s _ other]
    · have off : (s.debugOn && bitOf v.toNat 33) = false := by simpa using armed
      simp only [off, Bool.false_eq_true, if_false, Bool.or_false]
      exact ⟨addr, bit, double, arm, fun k other => injectAt_reg s _ other, rfl⟩
  · have closed := bar4On_false shut
    refine ⟨exec_debugHalt_shut closed, ?_, fun off n v => ?_, fun off n low high => ?_⟩
    · rw [exec_debugResume, execDebugResume]
      exact if_neg (by simp [closed])
    · rw [exec_registerWrite, execRegisterWrite, State.barWrite, if_neg (by omega), if_neg (by omega)]
      exact congrArg _ (if_pos (by simp [closed]))
    · rw [exec_rcCounterRead, execRcCounterRead, barRead_bar4_shut closed low high]
  · obtain ⟨halted, first, second, regs, eq⟩ := halted_shown s u sel
    refine ⟨_, ?_, halted, first, second, regs, eq⟩
    have here : s.logicalTof (s.fld (rk .HI_DBG_SEL) 0 10) = some t := sel ▸ terrace
    rw [exec_debugHalt, execDebugHalt, here]
    subst sel
    exact if_pos (by simp [State.bar4On, unlocked, there, low, held, service])
  · obtain ⟨running, first, second, regs, eq⟩ := resumed_shown s u sel
    refine ⟨_, ?_, running, first, second, regs, eq⟩
    rw [exec_debugResume, execDebugResume, if_pos (by simp [State.bar4On, unlocked, there]), sel]

end Sys2Proof.Machine
end


section
/-! PROOFS. Registers that a read of memory can change, and a Halo comparison (08_training_numerics.md, 13_memory_and_placement.md). -/

namespace Sys2Proof.Machine

/-! ### Registers that reading memory can change -/

/-- The registers in which reads of pools, stacks and host memory leave a mark. -/
def readRegs : List RegName :=
  [.BS_ECC_CORRECTED, .BS_ECC_UNCORR, .BS_BOUNDS_HITS, .SP_POOL_ROWS_RETIRED, .DM_READ_BYTES, .DM_CORRECTED, .DM_UNCORR, .DM_ERR_INFO,
    .DM_STATUS, .DM_ROWS_SPARED, .PL_SPILL_READ_BYTES]

/-- A fold that carries a result beside the state and stops at the first. -/
theorem State.reg_scan {α β : Type} (f : State × Option β → α → State × Option β) (k : RegKey) (l : List α) (r : State × Option β)
    (keeps : ∀ r x, (f r x).1.reg k = r.1.reg k) : (l.foldl f r).1.reg k = r.1.reg k :=
  List.foldlRecOn (motive := fun t : State × Option β => t.1.reg k = r.1.reg k) l f rfl fun t same x _ => (keeps t x).trans same

section
variable {k : RegKey} (unread : k.name ∉ readRegs ++ eventRegs)
include unread

theorem unmarked_of_unread : k.name ∉ eventRegs := fun mem => unread (List.mem_append_right _ mem)

theorem State.reg_setReg_readRegs (s : State) (n : RegName) (mem : n ∈ readRegs) (u i : Nat) (v : Word) :
    (s.setReg (rk n u i) v).reg k = s.reg k :=
  s.reg_setReg_other v fun same => unread (List.mem_append_left _ (same ▸ mem))

theorem State.raise_unread (s : State) (c u : Nat) (p : List Byte) : (s.raise c u p).reg k = s.reg k :=
  State.raise_reg (unmarked_of_unread unread) s c u p

theorem State.mapAdd_unread (s : State) (kind unit loc : Nat) : (s.mapAdd kind unit loc).reg k = s.reg k := by
  unfold State.mapAdd
  split
  · rfl
  · exact State.raise_unread unread ..

theorem State.poolCorrected_unread (s : State) (q x : Nat) : (s.poolCorrected q x).reg k = s.reg k := by
  have counted : (s.bump (rk .BS_ECC_CORRECTED (s.physB q))).reg k = s.reg k := State.reg_setReg_readRegs unread s _ (by decide) ..
  unfold State.poolCorrected
  dsimp only
  split
  · rw [State.raise_unread unread, State.bump, State.reg_setReg_readRegs unread _ _ (by decide), State.mapAdd_unread unread]
    exact counted
  · exact counted

theorem State.poolUncorr_unread (s : State) (q x req : Nat) : (s.poolUncorr q x req).reg k = s.reg k :=
  (State.raise_unread unread ..).trans (State.reg_setReg_readRegs unread s .BS_ECC_UNCORR (by decide) ..)

theorem State.poolRowRead_unread (s : State) (q x n req : Nat) : (s.poolRowRead q x n req).1.reg k = s.reg k := by
  have fixed (l m : List Nat) : (l.foldl (fun (t : State) y => t.poolCorrected q y)
      { s with poolErr := m.foldl (fun t y => Tab.del t ((poolBase q + y) / 32)) s.poolErr }).reg k = s.reg k :=
    (State.reg_foldl _ k _ _ fun t y _ => State.poolCorrected_unread unread t q y).trans rfl
  unfold State.poolRowRead
  dsimp only
  split
  · exact fixed ..
  · exact (State.poolUncorr_unread unread ..).trans (fixed ..)

theorem State.dramCorrected_unread (s : State) (st a : Nat) : (s.dramCorrected st a).reg k = s.reg k := by
  have counted : (s.bump (rk .DM_CORRECTED st)).reg k = s.reg k := State.reg_setReg_readRegs unread s _ (by decide) ..
  unfold State.dramCorrected
  dsimp only
  split
  · rw [State.raise_unread unread, State.bump, State.reg_setReg_readRegs unread _ _ (by decide), State.setFld,
      State.reg_setReg_readRegs unread _ _ (by decide)]
    exact counted
  · exact counted

theorem State.dramUncorr_unread (s : State) (st a : Nat) (es : List (Nat × Nat)) : (s.dramUncorr st a es).reg k = s.reg k := by
  have counted : (s.bump (rk .DM_UNCORR st)).reg k = s.reg k := State.reg_setReg_readRegs unread s _ (by decide) ..
  unfold State.dramUncorr
  dsimp only
  rw [State.raise_unread unread]
  split
  · exact counted
  · rw [State.reg_setReg_readRegs unread _ _ (by decide)]
    exact counted

theorem State.dramRead_unread (s : State) (st a n : Nat) : (s.dramRead st a n).1.reg k = s.reg k := by
  have counted : (s.bump (rk .DM_READ_BYTES st) n).reg k = s.reg k := State.reg_setReg_readRegs unread s _ (by decide) ..
  unfold State.dramRead
  dsimp only
  split
  · exact counted
  · split
    · exact (State.dramCorrected_unread unread ..).trans counted
    · exact (State.dramUncorr_unread unread ..).trans counted

theorem State.spillRead_unread (s : State) (w : Who) (n : Nat) : (s.spillRead w n).reg k = s.reg k := by
  unfold State.spillRead
  split
  · rfl
  · exact State.reg_setReg_readRegs unread s _ (by decide) ..

theorem State.unmapped_unread (s : State) (a : Nat) : (s.unmapped a).reg k = s.reg k := by
  have latched := State.unmappedLatch_reg (unmarked_of_unread unread) s a
  unfold State.unmapped State.raising
  split
  · exact (State.raise_unread unread ..).trans latched
  · exact latched

theorem State.readPiece_unread (s : State) (w : Who) (a n req : Nat) : (s.readPiece w a n req).1.reg k = s.reg k := by
  have unmarked := unmarked_of_unread unread
  unfold State.readPiece
  split
  case h_1 => exact State.unmapped_unread unread ..
  case h_2 =>
    split
    · exact State.poolRowRead_unread unread ..
    · rfl
  case h_3 => exact (State.dramRead_unread unread ..).trans rfl
  case h_4 =>
    split
    · exact (State.spillRead_unread unread ..).trans rfl
    · rfl
  case h_5 =>
    split
    · exact (State.sendLink_reg unmarked ..).trans rfl
    · rfl
  case h_6 =>
    split
    · exact (State.sendLink_reg unmarked ..).trans ((State.spillRead_unread unread ..).trans rfl)
    · rfl
  case h_7 => exact State.dramUncorr_unread unread ..

theorem State.boundsHit_unread (s : State) (q n o : Nat) : (s.boundsHit q n o).reg k = s.reg k := by
  have counted : (s.bump (rk .BS_BOUNDS_HITS (s.physB q))).reg k = s.reg k := State.reg_setReg_readRegs unread s _ (by decide) ..
  unfold State.boundsHit
  dsimp only
  split
  · exact (State.raise_unread unread ..).trans counted
  · exact counted

theorem State.slotPiece_unread (s : State) (w : Who) (q n o len req : Nat) : (s.slotPiece w q n o len req).1.reg k = s.reg k := by
  unfold State.slotPiece
  dsimp only
  split
  · exact State.reg_foldl _ k _ _ fun t o _ => State.boundsHit_unread unread t q n o
  · split
    · exact State.poolRowRead_unread unread ..
    · rfl

theorem State.readSpan_unread (s : State) (w : Who) (p : Span) (req : Nat) : (s.readSpan w p req).1.reg k = s.reg k := by
  unfold State.readSpan
  split
  · split
    · rfl
    · refine State.reg_scan _ k _ _ fun r c => ?_
      split
      · rfl
      · exact State.slotPiece_unread unread ..
  · refine State.reg_scan _ k _ _ fun r c => ?_
    split
    · rfl
    · exact State.readPiece_unread unread ..

theorem State.readSpans_unread (s : State) (w : Who) (ps : List Span) (req : Nat) : (s.readSpans w ps req).1.reg k = s.reg k := by
  refine State.reg_scan _ k _ _ fun r p => ?_
  split
  · rfl
  · exact State.readSpan_unread unread ..

end

/-! ### A comparison -/

theorem Tab.getD_del_same {α : Type} (t : Tab α) (k : Nat) (d : α) : Tab.getD (Tab.del t k) k d = d := by
  rw [Tab.getD, Tab.find?_del_same, Option.getD_none]

theorem Tab.getD_put_same {α : Type} (t : Tab α) (k : Nat) (v d : α) : Tab.getD (Tab.put t k v) k d = v := by
  rw [Tab.getD, Tab.find?_put_same, Option.getD_some]

theorem Tab.getD_put_other {α : Type} (t : Tab α) {k n : Nat} (v d : α) (other : n ≠ k) :
    Tab.getD (Tab.put t k v) n d = Tab.getD t n d := by
  rw [Tab.getD, Tab.find?_put_other _ _ other, ← Tab.getD]

/-- The sample leaves the queue of its terrace. -/
theorem haloQ_sampleTaken (s : State) (t : Nat) (x : HaloSample) :
    Tab.getD (s.sampleTaken t x).haloQ t [] = (Tab.getD s.haloQ t []).erase x := by
  have left : (s.sampleTaken t x).haloQ = if ((Tab.getD s.haloQ t []).erase x).isEmpty then Tab.del s.haloQ t
      else Tab.put s.haloQ t ((Tab.getD s.haloQ t []).erase x) := of_rest State.haloQ (rest_readSpans ..)
  rw [left]
  split
  · next none => rw [Tab.getD_del_same, List.isEmpty_iff.1 none]
  · exact Tab.getD_put_same ..

/-- Nothing but the queues changes beside what memory reads can change. -/
theorem rest_sampleTaken (s : State) (t : Nat) (x : HaloSample) :
    (s.sampleTaken t x).rest = { s with haloQ := (s.sampleTaken t x).haloQ }.rest := by
  have taken : (s.sampleTaken t x).rest = State.rest { s with
      haloQ := if ((Tab.getD s.haloQ t []).erase x).isEmpty then Tab.del s.haloQ t
        else Tab.put s.haloQ t ((Tab.getD s.haloQ t []).erase x) } := rest_readSpans ..
  rw [taken, of_rest State.haloQ taken]

/-- HL_PENDING shows how many samples are left, through the reads of the comparison. -/
theorem pending_sampleTaken (s : State) (t : Nat) (x : HaloSample) :
    (s.sampleTaken t x).reg (rk .HL_PENDING 0 t) = BitVec.ofNat 64 ((Tab.getD s.haloQ t []).erase x).length :=
  (State.readSpans_unread (by decide : RegName.HL_PENDING ∉ readRegs ++ eventRegs) ..).trans (State.reg_setReg_same ..)

/-- The counts of a slot once a sample of it has been compared. -/
def State.sampleCounts (s : State) (x : HaloSample) : MonSlot :=
  let r := compareRow (s.segColumns x)
  { s.slotMon x.d.slot with
    haloSamples := satAdd 32 (s.slotMon x.d.slot).haloSamples 1
    haloOver := satAdd 32 (s.slotMon x.d.slot).haloOver (flagNat (s.overThresh x.d.slot r.1 r.2))
    haloMaxUlps := max (s.slotMon x.d.slot).haloMaxUlps r.1 }

/-- Counting a sample sets its slot's counts and may raise an event. -/
theorem rest_haloCount (s : State) (t : Nat) (x : HaloSample) :
    (s.haloCount t x).rest = { s with mon := Tab.put s.mon x.d.slot (s.sampleCounts x) }.rest := by
  unfold State.haloCount
  dsimp only
  split
  · exact rest_raise ..
  · rfl

theorem haloCount_pending (s : State) (t u : Nat) (x : HaloSample) :
    (s.haloCount t x).reg (rk .HL_PENDING 0 u) = s.reg (rk .HL_PENDING 0 u) := by
  unfold State.haloCount
  dsimp only
  split
  · exact (State.raise_reg (by decide : RegName.HL_PENDING ∉ eventRegs) ..).trans rfl
  · rfl

/-- A comparison that nothing holds back counts the sample it takes. -/
theorem exec_haloComparison_matmul {s : State} {t : Nat} {x : HaloSample}
    (oldest : (Tab.getD s.haloQ t []).find? (fun y => !s.inFlight y) = some x)
    (view : s.viewOpen t = false) (spare : s.spared t = false) (held : s.holdPost = false) (matmul : x.d.opcode = opMatmul) :
    exec (.haloComparison t) s = .next ((s.sampleTaken t x).haloCount t x) := by
  rw [exec_haloComparison, execHaloComparison, oldest]
  dsimp only
  rw [if_neg (by simp [view, spare, held]), if_pos matmul]
  rfl

end Sys2Proof.Machine

open Sys2Proof.Machine in
/-- Settles O22: the reads of a comparison touch neither the queues nor the counts, and counting sets one slot's. -/
theorem haloComparisonCountsOneSample : Obligations.HaloComparisonCountsOneSample := by
  intro s t x oldest
  constructor
  · intro heldBack
    rw [exec_haloComparison, execHaloComparison, oldest]
    exact if_pos heldBack
  · intro view spare held matmul v D rel
    have counted : (v.haloCount t x).rest = { v with mon := Tab.put v.mon x.d.slot (v.sampleCounts x) }.rest := rest_haloCount v t x
    have taken : v.rest = { s with haloQ := v.haloQ }.rest := rest_sampleTaken s t x
    have sameMon (n : Nat) : v.slotMon n = s.slotMon n := congrArg (Tab.getD · n MonSlot.zero) ((of_rest State.mon taken).trans rfl)
    have mon : (v.haloCount t x).mon = Tab.put v.mon x.d.slot (v.sampleCounts x) := of_rest State.mon counted
    refine ⟨v.haloCount t x, exec_haloComparison_matmul oldest view spare held matmul, ?_, ?_, ?_, ?_, ?_, ?_, ?_, ?_⟩
    · rw [of_rest State.haloQ counted]
      exact haloQ_sampleTaken s t x
    · rw [haloCount_pending]
      exact pending_sampleTaken s t x
    · rw [State.slotMon, mon, Tab.getD_put_same, ← sameMon]
      rfl
    · intro n other
      rw [State.slotMon, mon, Tab.getD_put_other _ _ _ other]
      exact sameMon n
    · exact (of_rest State.jobs counted).trans ((of_rest State.jobs taken).trans rfl)
    · exact (of_rest State.rings counted).trans ((of_rest State.rings taken).trans rfl)
    · exact (of_rest State.grp counted).trans ((of_rest State.grp taken).trans rfl)
    · exact (of_rest State.acc counted).trans ((of_rest State.acc taken).trans rfl)

end


section
/-! PROOFS. The front of the queue, and the checks of mailbox commands (14_rings_and_mailboxes.md). -/

namespace Sys2Proof.Machine

/-! ### The least of a list of bad bytes -/

theorem firstBad_cons (x : Nat) (l : List Nat) :
    firstBad (x :: l) = some (l.foldl min x) := by
  have go (l : List Nat) (y : Nat) :
      l.foldl (fun m x => match m with | none => some x | some y => some (min x y)) (some y) = some (l.foldl min y) := by
    induction l generalizing y with
    | nil => rfl
    | cons x l ih => rw [List.foldl_cons, List.foldl_cons, ih, min_comm]
  exact go l x

theorem foldl_min_mem (l : List Nat) (x : Nat) : l.foldl min x ∈ x :: l := by
  induction l generalizing x with
  | nil => exact List.mem_singleton_self x
  | cons y l ih =>
    rcases List.mem_cons.1 (ih (min x y)) with same | mem
    · rw [List.foldl_cons, same]
      rcases min_choice x y with h | h <;> rw [h] <;> simp
    · exact List.mem_cons_of_mem _ (List.mem_cons_of_mem _ mem)

theorem foldl_min_le (l : List Nat) (x : Nat) : ∀ y ∈ x :: l, l.foldl min x ≤ y := by
  induction l generalizing x with
  | nil => simp
  | cons y l ih =>
    have least := ih (min x y)
    have head := least _ (List.mem_cons_self ..)
    intro z mem
    rcases List.mem_cons.1 mem with rfl | mem
    · exact head.trans (min_le_left ..)
    · rcases List.mem_cons.1 mem with rfl | mem
      · exact head.trans (min_le_right ..)
      · exact least z (List.mem_cons_of_mem _ mem)

/-- Of several bad bytes the lowest is the first. -/
theorem firstBad_of_least {l : List Nat} {o : Nat} (mem : o ∈ l) (least : ∀ x < o, x ∉ l) : firstBad l = some o := by
  cases l with
  | nil => cases mem
  | cons x l =>
    rw [firstBad_cons]
    have found := foldl_min_mem l x
    have below := foldl_min_le l x o mem
    rcases below.lt_or_eq with lower | same
    · exact absurd found (least _ lower)
    · rw [same]

theorem firstBad_of_none {l : List Nat} (none_bad : ∀ x, x ∉ l) : firstBad l = none := by
  rw [List.eq_nil_iff_forall_not_mem.2 none_bad]
  rfl

/-! ### What the checks look at -/

theorem mem_headerBad (s : State) (mb o : Nat) : o ∈ s.headerBad mb ↔ s.headerFault mb o := by
  have flags : (o ∈ if 8 ≤ s.mbField mb 16 1 then [16] else ([] : List Nat)) ↔ o = 16 ∧ 8 ≤ s.mbField mb 16 1 := by
    split <;> simp [*]
  have place : o ∈ (List.range 47).map (17 + ·) ↔ 17 ≤ o ∧ o < 64 := by
    rw [List.mem_map]
    constructor
    · rintro ⟨i, small, rfl⟩
      have := List.mem_range.1 small
      omega
    · rintro ⟨low, high⟩
      exact ⟨o - 17, List.mem_range.2 (by omega), by omega⟩
  rw [State.headerBad, List.mem_append, flags, List.mem_filter, place, decide_eq_true_iff, and_assoc]
  rfl

theorem mem_payloadBad (s : State) (mb : Nat) (c : Cmd) (o : Nat) :
    o ∈ s.strayBytes mb (c.len s mb) (c.named s mb) ++ c.bad s mb ↔ s.payloadFault mb c o := by
  have unnamed : (!(c.named s mb).any fun r => decide (r.1 ≤ o) && decide (o < r.1 + r.2)) = true ↔
      ∀ r ∈ c.named s mb, o < r.1 ∨ r.1 + r.2 ≤ o := by
    simp only [Bool.not_eq_true', List.any_eq_false, Bool.and_eq_true, decide_eq_true_iff, not_and_or, not_le, not_lt]
  rw [List.mem_append, State.strayBytes, List.mem_filter, List.mem_range, Bool.and_eq_true, unnamed, decide_eq_true_iff,
    State.payloadFault]
  tauto

/-! ### The checks in their order -/

section
variable {s : State} {mb : Nat} {c : Cmd}

theorem mbRefuse_header {o : Nat} (bad : s.headerFault mb o) (least : ∀ x < o, ¬ s.headerFault mb x) :
    s.mbRefuse mb c = some (msField, o) := by
  rw [State.mbRefuse, firstBad_of_least ((mem_headerBad s mb o).2 bad) fun x low mem => least x low ((mem_headerBad s mb x).1 mem)]

/-- With a clean header the checks go on with whose command it is. -/
theorem mbRefuse_clean (clean : ∀ o, ¬ s.headerFault mb o) :
    s.mbRefuse mb c = if nimbusCmd c.code ≠ decide (56 ≤ mb) then some (msWrong, 0)
      else if !s.servant mb c.code then some (msNotReady, 0)
      else if !nimbusCmd c.code && c.code ≠ 1 && !s.helloDone then some (msFeature, 0)
      else if !nimbusCmd c.code && c.code ≠ 1 && !bitOf s.feat c.feat then some (msFeature, c.feat)
      else if s.mbField mb 12 2 ≠ c.len s mb then some (msLength, c.len s mb)
      else (firstBad (s.strayBytes mb (c.len s mb) (c.named s mb) ++ c.bad s mb)).map fun o => (msField, 64 + o) := by
  rw [State.mbRefuse, firstBad_of_none fun x mem => clean x ((mem_headerBad s mb x).1 mem)]
  cases firstBad (s.strayBytes mb (c.len s mb) (c.named s mb) ++ c.bad s mb) <;> rfl

theorem nimbusCmd_eq_iff : nimbusCmd c.code = decide (56 ≤ mb) ↔ (56 ≤ mb ↔ 0x100 ≤ c.code) := by
  rw [nimbusCmd, decide_eq_decide]
  exact Iff.comm

/-- A command that its mailbox's processor serves goes on to the features and the length. -/
theorem mbRefuse_served (clean : ∀ o, ¬ s.headerFault mb o) (own : 56 ≤ mb ↔ 0x100 ≤ c.code) (served : s.servant mb c.code = true) :
    s.mbRefuse mb c = if !nimbusCmd c.code && c.code ≠ 1 && !s.helloDone then some (msFeature, 0)
      else if !nimbusCmd c.code && c.code ≠ 1 && !bitOf s.feat c.feat then some (msFeature, c.feat)
      else if s.mbField mb 12 2 ≠ c.len s mb then some (msLength, c.len s mb)
      else (firstBad (s.strayBytes mb (c.len s mb) (c.named s mb) ++ c.bad s mb)).map fun o => (msField, 64 + o) := by
  rw [mbRefuse_clean clean, if_neg (not_not.2 (nimbusCmd_eq_iff.2 own)), served]
  exact if_neg (by decide)

/-- The features that a command needs have been negotiated: none for Nimbus's and HELLO. -/
theorem mbRefuse_negotiated (clean : ∀ o, ¬ s.headerFault mb o) (own : 56 ≤ mb ↔ 0x100 ≤ c.code) (served : s.servant mb c.code = true)
    (features : c.code < 0x100 → c.code ≠ 1 → s.helloDone = true ∧ bitOf s.feat c.feat = true) :
    s.mbRefuse mb c = if s.mbField mb 12 2 ≠ c.len s mb then some (msLength, c.len s mb)
      else (firstBad (s.strayBytes mb (c.len s mb) (c.named s mb) ++ c.bad s mb)).map fun o => (msField, 64 + o) := by
  have needs : (!nimbusCmd c.code && decide (c.code ≠ 1)) = true → c.code < 0x100 ∧ c.code ≠ 1 := by simp [nimbusCmd]
  rw [mbRefuse_served clean own served, if_neg, if_neg]
  · intro lacks
    obtain ⟨needy, lacking⟩ := Bool.and_eq_true_iff.1 lacks
    simp [(features (needs needy).1 (needs needy).2).2] at lacking
  · intro lacks
    obtain ⟨needy, lacking⟩ := Bool.and_eq_true_iff.1 lacks
    simp [(features (needs needy).1 (needs needy).2).1] at lacking

end

/-- Every mailbox command is its table row's checks with a step of its own. -/
theorem exec_eq_mbRow {s : State} {c : Instr} {mb : Nat} {r : Cmd} {mine : Bool} (row : mbRowOf s c = some (mb, r, mine)) :
    ∃ f, exec c s = .next (s.mbRow mb r mine f) := by
  unfold mbRowOf at row
  split at row <;> cases row <;> exact ⟨_, rfl⟩

/-- A command that a check refuses is answered with that check's status and detail. -/
theorem exec_of_refused {s : State} {c : Instr} {mb : Nat} {r : Cmd} (row : mbRowOf s c = some (mb, r, true)) (waits : s.mbWaits mb = true)
    (code : s.mbField mb 0 2 = r.code) {status detail : Nat} (refused : s.mbRefuse mb r = some (status, detail)) :
    exec c s = .next (s.mbAnswer mb status detail []) := by
  obtain ⟨f, run⟩ := exec_eq_mbRow row
  rw [run, mbRow_refused waits code rfl refused]

end Sys2Proof.Machine

open Sys2Proof.Machine in
/-- Settles O1, by the definition of a step on a queue that is not empty. -/
theorem stepRunsFrontCommand : Obligations.StepRunsFrontCommand :=
  fun c s => step_cons _ c s.pending rfl

open Sys2Proof.Machine in
/-- Settles O24: each check refuses where the ones before it pass, and of several bad bytes the least is the first. -/
theorem mailboxChecksComeInOrder : Obligations.MailboxChecksComeInOrder := by
  intro s c mb r row waits code fails clean
  have refused {status detail : Nat} (h : s.mbRefuse mb r = some (status, detail)) : fails status detail :=
    exec_of_refused row waits code h
  refine ⟨fun o bad least => refused (mbRefuse_header bad least), fun ok wrong => ?_, fun ok own served => ?_,
    fun ok low zenith served other => ?_, fun ok own served features => ⟨fun length => ?_, fun length o bad least => ?_⟩⟩
  · refine refused ((mbRefuse_clean ok).trans (if_pos fun same => ?_))
    have := nimbusCmd_eq_iff.1 same
    omega
  · exact refused ((mbRefuse_clean ok).trans ((if_neg (not_not.2 (nimbusCmd_eq_iff.2 own))).trans (if_pos (by rw [served]; rfl))))
  · have own : 56 ≤ mb ↔ 0x100 ≤ r.code := by omega
    have needy : (!nimbusCmd r.code && decide (r.code ≠ 1)) = true := by simp [nimbusCmd, other]; omega
    refine ⟨fun none_yet => refused ((mbRefuse_served ok own served).trans (if_pos (by rw [needy, none_yet]; rfl))),
      fun done lacks => refused ((mbRefuse_served ok own served).trans ((if_neg ?_).trans (if_pos (by rw [needy, lacks]; rfl))))⟩
    rw [done]
    simp
  · exact refused ((mbRefuse_negotiated ok own served features).trans (if_pos length))
  · refine refused ((mbRefuse_negotiated ok own served features).trans ((if_neg (not_not.2 length)).trans ?_))
    rw [firstBad_of_least ((mem_payloadBad s mb r o).2 bad) fun x low mem => least x low ((mem_payloadBad s mb r x).1 mem)]
    rfl

end


section
/-! PROOFS. The end of a mailbox command (14_rings_and_mailboxes.md). -/

namespace Sys2Proof.Machine

/-! ### Bytes of a memory, one write beside another -/

theorem Mem.read_write_outside (m : Mem) (bs : List Byte) {a x n : Nat} (apart : x + n ≤ a ∨ a + bs.length ≤ x) :
    Mem.read (Mem.write m a bs) x n = Mem.read m x n := by
  refine List.map_congr_left fun i mem => Mem.get_write_outside _ _ _ _ ?_
  have := List.mem_range.1 mem
  omega

theorem Mem.read_put_outside (m : Mem) (b : Byte) {a x n : Nat} (apart : a < x ∨ x + n ≤ a) :
    Mem.read (Mem.put m a b) x n = Mem.read m x n := by
  refine List.map_congr_left fun i mem => Mem.get_put_other _ _ ?_
  have := List.mem_range.1 mem
  omega

/-! ### What the mailbox holds at the end -/

/-- The bytes of the mailboxes once a command has ended. -/
def State.mbEnd (s : State) (mb status detail : Nat) (resp : List Byte) : Mem :=
  let b := mbBase mb
  Mem.put (Mem.write (Mem.write (Mem.write (Mem.write s.mbox (b + 64) resp) (b + 2) (leBytes 2 status)) (b + 8) (leBytes 4 detail))
    (b + 14) (leBytes 2 resp.length)) (b + 16) (BitVec.ofNat 8 ((Mem.get s.mbox (b + 16)).toNat / 4 * 4 + 2))

section
variable {s : State} {mb : Nat} (status detail : Nat) (resp : List Byte)

theorem mbEnd_response (wf : Mem.wf s.mbox = true) :
    Mem.read (s.mbEnd mb status detail resp) (mbBase mb + 64) resp.length = resp := by
  rw [State.mbEnd, Mem.read_put_outside, Mem.read_write_outside, Mem.read_write_outside, Mem.read_write_outside,
    Mem.read_write _ _ _ wf]
  all_goals
    try simp only [length_leBytes]
    omega

theorem mbEnd_status (wf : Mem.wf s.mbox = true) :
    Mem.read (s.mbEnd mb status detail resp) (mbBase mb + 2) 2 = leBytes 2 status := by
  have written := Mem.read_write (leBytes 2 status) (Mem.write s.mbox (mbBase mb + 64) resp) (mbBase mb + 2) (Mem.wf_write _ _ _ wf)
  rw [length_leBytes] at written
  rw [State.mbEnd, Mem.read_put_outside, Mem.read_write_outside, Mem.read_write_outside, written]
  all_goals
    try simp only [length_leBytes]
    omega

theorem mbEnd_detail (wf : Mem.wf s.mbox = true) :
    Mem.read (s.mbEnd mb status detail resp) (mbBase mb + 8) 4 = leBytes 4 detail := by
  have written := Mem.read_write (leBytes 4 detail) (Mem.write (Mem.write s.mbox (mbBase mb + 64) resp) (mbBase mb + 2)
    (leBytes 2 status)) (mbBase mb + 8) (Mem.wf_write _ _ _ (Mem.wf_write _ _ _ wf))
  rw [length_leBytes] at written
  rw [State.mbEnd, Mem.read_put_outside, Mem.read_write_outside, written]
  all_goals omega

theorem mbEnd_length (wf : Mem.wf s.mbox = true) :
    Mem.read (s.mbEnd mb status detail resp) (mbBase mb + 14) 2 = leBytes 2 resp.length := by
  have written := Mem.read_write (leBytes 2 resp.length) (Mem.write (Mem.write (Mem.write s.mbox (mbBase mb + 64) resp) (mbBase mb + 2)
    (leBytes 2 status)) (mbBase mb + 8) (leBytes 4 detail)) (mbBase mb + 14)
    (Mem.wf_write _ _ _ (Mem.wf_write _ _ _ (Mem.wf_write _ _ _ wf)))
  rw [length_leBytes] at written
  rw [State.mbEnd, Mem.read_put_outside, written]
  omega

theorem mbEnd_flags (wf : Mem.wf s.mbox = true) :
    (Mem.get (s.mbEnd mb status detail resp) (mbBase mb + 16)).toNat = (Mem.get s.mbox (mbBase mb + 16)).toNat / 4 * 4 + 2 := by
  have byte := (Mem.get s.mbox (mbBase mb + 16)).isLt
  rw [State.mbEnd, Mem.get_put_same _ _ _ (Mem.wf_write _ _ _ (Mem.wf_write _ _ _ (Mem.wf_write _ _ _ (Mem.wf_write _ _ _ wf)))),
    BitVec.toNat_ofNat, Nat.mod_eq_of_lt (by omega)]

theorem mbEnd_other {a : Nat} (response : a < mbBase mb + 64 ∨ mbBase mb + 64 + resp.length ≤ a) (low : a ≠ mbBase mb + 2)
    (high : a ≠ mbBase mb + 3) (outDetail : a < mbBase mb + 8 ∨ mbBase mb + 12 ≤ a) (outLength : a < mbBase mb + 14 ∨ mbBase mb + 17 ≤ a) :
    Mem.get (s.mbEnd mb status detail resp) a = Mem.get s.mbox a := by
  rw [State.mbEnd, Mem.get_put_other, Mem.get_write_outside, Mem.get_write_outside, Mem.get_write_outside, Mem.get_write_outside]
  all_goals
    try simp only [length_leBytes]
    omega

/-! ### The end in two steps: the bytes, then who is told -/

/-- The state with the answer in the mailbox, before anyone is told. -/
def State.mbFiled (s : State) (mb status detail : Nat) (resp : List Byte) : State :=
  { s with mbox := s.mbEnd mb status detail resp, mbReq := Mem.erase s.mbReq (mbBase mb) 4096, mbRun := Tab.del s.mbRun mb, mbMark := Tab.del s.mbMark mb }

/-- The completion bits of the host's mailbox. -/
def State.mbShownHost (s : State) (mb : Nat) : State := (s.setFld (rk .MB_COMPLETED) mb 1 1).setFld (rk .MB_PENDING) mb 1 0

theorem bit_mbShownHost (t : State) (mb : Nat) {k : RegKey} (notDone : k.name ≠ .MB_COMPLETED) (notPending : k.name ≠ .MB_PENDING)
    (i : Nat) : (t.mbShownHost mb).bit k i = t.bit k i :=
  (bit_setFld_other _ _ _ _ _ fun same => notPending (congrArg RegKey.name same)).trans
    (bit_setFld_other _ _ _ _ _ fun same => notDone (congrArg RegKey.name same))

theorem mbFinish_host (own : mb < 64) :
    s.mbFinish mb status detail resp = if bitOf (s.mbField mb 16 1) 2 && s.bit (rk .HI_LINK) 10 && s.msixOn then
      ((s.mbFiled mb status detail resp).mbShownHost mb).send (.vector 2046) else (s.mbFiled mb status detail resp).mbShownHost mb := by
  have link : ((s.mbFiled mb status detail resp).mbShownHost mb).bit (rk .HI_LINK) 10 = s.bit (rk .HI_LINK) 10 :=
    (bit_mbShownHost _ mb (by decide) (by decide) 10).trans rfl
  have vectors : ((s.mbFiled mb status detail resp).mbShownHost mb).msixOn = s.msixOn :=
    (bit_mbShownHost _ mb (by decide) (by decide) 31).trans rfl
  rw [← link, ← vectors]
  exact if_pos own

theorem mbFinish_site (own : 64 ≤ mb) :
    s.mbFinish mb status detail resp = if bitOf (s.mbField mb 16 1) 2 then
      ((s.mbFiled mb status detail resp).setFld (rk .MGT_MB_COMPLETED) (mb - 64) 1 1).mgtVector
      else (s.mbFiled mb status detail resp).setFld (rk .MGT_MB_COMPLETED) (mb - 64) 1 1 :=
  if_neg (Nat.not_lt.2 own)

end

/-- A vector on its way touches its pending bit, the memory of the host and what waits for it. -/
theorem send_vector_eq (s : State) (v : Nat) :
    s.send (.vector v) = { s with regs := (s.send (.vector v)).regs, host := (s.send (.vector v)).host, hostWait := (s.send (.vector v)).hostWait } := by
  unfold State.send
  split
  · unfold State.post
    dsimp only
    split
    · rfl
    · split <;> rfl
  · rfl

theorem send_vector_reg (s : State) (v : Nat) {k : RegKey} (other : k.name ≠ .MSIX_PBA) : (s.send (.vector v)).reg k = s.reg k := by
  unfold State.send
  split
  · unfold State.post
    dsimp only
    split
    · rfl
    · split
      · exact s.reg_setReg_other _ fun same => other (congrArg RegKey.name same)
      · rfl
  · rfl

/-- The site controller's vector touches its pending bit and the site's memory. -/
theorem mgtVector_eq (s : State) : s.mgtVector = { s with regs := s.mgtVector.regs, site := s.mgtVector.site } := by
  unfold State.mgtVector
  split
  · rfl
  · split <;> rfl

theorem mgtVector_reg (s : State) {k : RegKey} (other : k.name ≠ .MCF_VEC_PENDING) : s.mgtVector.reg k = s.reg k := by
  unfold State.mgtVector
  split
  · rfl
  · split
    · exact s.reg_setReg_other _ fun same => other (congrArg RegKey.name same)
    · rfl

/-! ### What the end leaves -/

/-- The parts of a state that a command's end can change. -/
def State.mbEnded (s : State) (mb status detail : Nat) (resp : List Byte) (t : State) : Prop :=
  t = { s.mbFiled mb status detail resp with regs := t.regs, host := t.host, hostWait := t.hostWait, site := t.site }

theorem mbEnded_mbFinish (s : State) (mb status detail : Nat) (resp : List Byte) :
    s.mbEnded mb status detail resp (s.mbFinish mb status detail resp) := by
  have shown : s.mbEnded mb status detail resp ((s.mbFiled mb status detail resp).mbShownHost mb) := rfl
  have siteShown : s.mbEnded mb status detail resp ((s.mbFiled mb status detail resp).setFld (rk .MGT_MB_COMPLETED) (mb - 64) 1 1) := rfl
  rcases Nat.lt_or_ge mb 64 with host | site
  · rw [mbFinish_host _ _ _ host]
    generalize (s.mbFiled mb status detail resp).mbShownHost mb = u at *
    split
    · rw [State.mbEnded, send_vector_eq, shown]
    · exact shown
  · rw [mbFinish_site _ _ _ site]
    generalize (s.mbFiled mb status detail resp).setFld (rk .MGT_MB_COMPLETED) (mb - 64) 1 1 = u at *
    split
    · rw [State.mbEnded, mgtVector_eq, siteShown]
    · exact siteShown

theorem mbFinish_reg_host {s : State} {mb : Nat} (own : mb < 64) (status detail : Nat) (resp : List Byte) {k : RegKey}
    (notVector : k.name ≠ .MSIX_PBA) :
    (s.mbFinish mb status detail resp).reg k = (s.mbShownHost mb).reg k := by
  rw [mbFinish_host _ _ _ own]
  split
  · exact (send_vector_reg _ _ notVector).trans rfl
  · rfl

theorem mbFinish_reg_site {s : State} {mb : Nat} (own : 64 ≤ mb) (status detail : Nat) (resp : List Byte) {k : RegKey}
    (notVector : k.name ≠ .MCF_VEC_PENDING) :
    (s.mbFinish mb status detail resp).reg k = (s.setFld (rk .MGT_MB_COMPLETED) (mb - 64) 1 1).reg k := by
  rw [mbFinish_site _ _ _ own]
  split
  · exact (mgtVector_reg _ notVector).trans rfl
  · rfl

/-- Registers that no end of a command touches. -/
theorem mbFinish_reg_other (s : State) (mb status detail : Nat) (resp : List Byte) {k : RegKey} (notDone : k.name ≠ .MB_COMPLETED)
    (notPending : k.name ≠ .MB_PENDING) (notSite : k.name ≠ .MGT_MB_COMPLETED) (notPba : k.name ≠ .MSIX_PBA)
    (notVec : k.name ≠ .MCF_VEC_PENDING) : (s.mbFinish mb status detail resp).reg k = s.reg k := by
  rcases Nat.lt_or_ge mb 64 with host | site
  · rw [mbFinish_reg_host host _ _ _ notPba, State.mbShownHost, State.reg_setFld_other _ _ _ _ fun same => notPending (congrArg RegKey.name same),
      State.reg_setFld_other _ _ _ _ fun same => notDone (congrArg RegKey.name same)]
  · rw [mbFinish_reg_site site _ _ _ notVec, State.reg_setFld_other _ _ _ _ fun same => notSite (congrArg RegKey.name same)]

theorem bit_congr {s t : State} {k : RegKey} (same : t.reg k = s.reg k) (i : Nat) : t.bit k i = s.bit k i := by
  rw [State.bit, State.fld, same]
  rfl

/-- A host mailbox: its bits, its vector and what no host mailbox touches. -/
theorem mbFinish_hostSide {s : State} {mb : Nat} (own : mb < 64) (status detail : Nat) (resp : List Byte) :
    let t := s.mbFinish mb status detail resp
    let asks : Prop := bitOf (s.mbField mb 16 1) 2 = true ∧ s.bit (rk .HI_LINK) 10 = true ∧ s.bit (rk .PCI_MSIX) 31 = true
    t.bit (rk .MB_COMPLETED) mb = true ∧ t.bit (rk .MB_PENDING) mb = false ∧
      (∀ i, i < 64 → i ≠ mb → t.bit (rk .MB_COMPLETED) i = s.bit (rk .MB_COMPLETED) i ∧ t.bit (rk .MB_PENDING) i = s.bit (rk .MB_PENDING) i) ∧
      (asks → (s.hostOpen = false ∨ s.hostWait ≠ []) → t.hostWait = s.hostWait ++ [.vector 2046]) ∧
      (¬ asks → t.hostWait = s.hostWait ∧ t.host = s.host) ∧ t.site = s.site ∧
      t.reg (rk .MCF_VEC_PENDING) = s.reg (rk .MCF_VEC_PENDING) := by
  intro t asks
  have asks_iff : (bitOf (s.mbField mb 16 1) 2 && s.bit (rk .HI_LINK) 10 && s.msixOn) = true ↔ asks := by
    rw [Bool.and_eq_true, Bool.and_eq_true, and_assoc, State.msixOn]
  have shown (k : RegKey) (plain : k.name ≠ .MSIX_PBA) (i : Nat) : t.bit k i = (s.mbShownHost mb).bit k i :=
    bit_congr (mbFinish_reg_host own _ _ _ plain) i
  have done (i : Nat) : t.bit (rk .MB_COMPLETED) i = (s.setFld (rk .MB_COMPLETED) mb 1 1).bit (rk .MB_COMPLETED) i :=
    (shown _ (by decide) i).trans (bit_setFld_other _ _ _ _ _ (by decide))
  have pending (i : Nat) : t.bit (rk .MB_PENDING) i =
      ((s.setFld (rk .MB_COMPLETED) mb 1 1).setFld (rk .MB_PENDING) mb 1 0).bit (rk .MB_PENDING) i := shown _ (by decide) i
  have run : t = if bitOf (s.mbField mb 16 1) 2 && s.bit (rk .HI_LINK) 10 && s.msixOn then _ else _ := mbFinish_host status detail resp own
  have stillShut : ((s.mbFiled mb status detail resp).mbShownHost mb).hostOpen = s.hostOpen :=
    congrArg (· && !s.d3) ((bit_mbShownHost _ mb (by decide) (by decide) 10).trans rfl)
  generalize hu : (s.mbFiled mb status detail resp).mbShownHost mb = u at run stillShut
  have uWait : u.hostWait = s.hostWait := hu ▸ rfl
  have uHost : u.host = s.host := hu ▸ rfl
  have uSite : u.site = s.site := hu ▸ rfl
  refine ⟨?_, ?_, fun i small other => ⟨?_, ?_⟩, fun wants waits => ?_, fun quiet => ?_, ?_, ?_⟩
  · rw [done]
    exact bit_setFld_same s _ mb true (by omega)
  · rw [pending]
    exact bit_setFld_same _ _ mb false (by omega)
  · rw [done, bit_setFld_apart _ _ _ _ _ _ (by omega) (by omega)]
  · rw [pending, bit_setFld_apart _ _ _ _ _ _ (by omega) (by omega), bit_setFld_other _ _ _ _ _ (by decide)]
  · rw [run, if_pos (asks_iff.2 wants), send_waits (stillShut ▸ uWait.symm ▸ waits)]
    exact congrArg (· ++ [Post.vector 2046]) uWait
  · rw [run, if_neg fun wants => quiet (asks_iff.1 wants)]
    exact ⟨uWait, uHost⟩
  · rw [run]
    split
    · rw [send_vector_eq]
      exact uSite
    · exact uSite
  · exact (mbFinish_reg_host own _ _ _ (by decide)).trans
      ((State.reg_setFld_other _ _ _ _ (by decide)).trans (State.reg_setFld_other _ _ _ _ (by decide)))

/-- A site controller's mailbox: its bit, its vector and what no site mailbox touches. -/
theorem mbFinish_siteSide {s : State} {mb : Nat} (own : 64 ≤ mb) (small : mb < 72) (status detail : Nat) (resp : List Byte) :
    let t := s.mbFinish mb status detail resp
    let irq : Prop := bitOf (s.mbField mb 16 1) 2 = true
    let masked : Prop := s.bit (rk .MCF_MSIX) 30 = true ∨ s.bit (rk .MCF_VEC_CTRL) 0 = true
    t.bit (rk .MGT_MB_COMPLETED) (mb - 64) = true ∧ t.hostWait = s.hostWait ∧ t.host = s.host ∧
      (¬ irq ∨ s.bit (rk .MCF_MSIX) 31 = false → t.site = s.site ∧ t.reg (rk .MCF_VEC_PENDING) = s.reg (rk .MCF_VEC_PENDING)) ∧
      (irq → s.bit (rk .MCF_MSIX) 31 = true → masked → t.site = s.site ∧ t.bit (rk .MCF_VEC_PENDING) 0 = true) ∧
      (irq → s.bit (rk .MCF_MSIX) 31 = true → ¬ masked → t.reg (rk .MCF_VEC_PENDING) = s.reg (rk .MCF_VEC_PENDING) ∧
        t.site = Mem.write s.site ((s.reg (rk .MCF_VEC_ADDR_LO)).toNat + 2 ^ 32 * (s.reg (rk .MCF_VEC_ADDR_HI)).toNat)
          (leBytes 4 (s.reg (rk .MCF_VEC_DATA)).toNat)) := by
  intro t irq masked
  have run : t = if bitOf (s.mbField mb 16 1) 2 then _ else _ := mbFinish_site status detail resp own
  have other (k : RegKey) (apart : k ≠ rk .MGT_MB_COMPLETED) :
      ((s.mbFiled mb status detail resp).setFld (rk .MGT_MB_COMPLETED) (mb - 64) 1 1).reg k = s.reg k :=
    (State.reg_setFld_other _ _ _ _ apart).trans rfl
  generalize hu : (s.mbFiled mb status detail resp).setFld (rk .MGT_MB_COMPLETED) (mb - 64) 1 1 = u at run other
  have uWait : u.hostWait = s.hostWait := hu ▸ rfl
  have uHost : u.host = s.host := hu ▸ rfl
  have uSite : u.site = s.site := hu ▸ rfl
  have mask_iff : u.mgtMasked = true ↔ masked := by
    rw [State.mgtMasked, bit_congr (other _ (by decide)), bit_congr (other _ (by decide)), Bool.or_eq_true]
  have on : u.bit (rk .MCF_MSIX) 31 = s.bit (rk .MCF_MSIX) 31 := bit_congr (other _ (by decide)) 31
  have vector : u.mgtVector = if !s.bit (rk .MCF_MSIX) 31 then u else if u.mgtMasked then u.setFld (rk .MCF_VEC_PENDING) 0 1 1
      else { u with site := (Mem.write s.site ((s.reg (rk .MCF_VEC_ADDR_LO)).toNat + 2 ^ 32 * (s.reg (rk .MCF_VEC_ADDR_HI)).toNat)
        (leBytes 4 (s.reg (rk .MCF_VEC_DATA)).toNat)) } := by
    rw [State.mgtVector, on, other _ (by decide), other _ (by decide), other _ (by decide), uSite]
  have plain : (!bitOf (s.mbField mb 16 1) 2 || !s.bit (rk .MCF_MSIX) 31) = true → t = u := by
    intro quiet
    rw [run, vector]
    rcases Bool.or_eq_true_iff.1 quiet with h | h
    · exact if_neg (by simpa using h)
    · rw [if_pos h, ite_self]
  refine ⟨?_, ?_, ?_, fun quiet => ?_, fun wants enabled hidden => ?_, fun wants enabled plainly => ?_⟩
  · rw [bit_congr (mbFinish_reg_site own _ _ _ (by decide))]
    exact bit_setFld_same s _ (mb - 64) true (by omega)
  · rw [run]
    split
    · rw [mgtVector_eq]
      exact uWait
    · exact uWait
  · rw [run]
    split
    · rw [mgtVector_eq]
      exact uHost
    · exact uHost
  · rw [plain (Bool.or_eq_true_iff.2 (quiet.imp (fun h => by rw [Bool.eq_false_iff.2 h]; rfl) fun h => by rw [h]; rfl))]
    exact ⟨uSite, other _ (by decide)⟩
  · rw [run, if_pos wants, vector, if_neg (by simp [enabled]), if_pos (mask_iff.2 hidden)]
    exact ⟨uSite, bit_setFld_same u _ 0 true (by omega)⟩
  · rw [run, if_pos wants, vector, if_neg (by simp [enabled]), if_neg fun h => plainly (mask_iff.1 h)]
    exact ⟨other _ (by decide), rfl⟩

theorem inProgress_of_erased {t : State} {mb : Nat} {m : Mem} (erased : t.mbReq = Mem.erase m (mbBase mb) 4096) :
    t.inProgress mb = false := by
  have flag : Mem.read t.mbReq (mbBase mb + 16) 1 = [memDefault] := by
    rw [erased, Mem.read]
    simp only [List.range_one, List.map_cons, List.map_nil, Mem.get_erase]
    rw [if_pos (by omega)]
  rw [State.inProgress, State.mbField, flag]
  rfl

end Sys2Proof.Machine

open Sys2Proof.Machine in
/-- Settles O23: the end files the answer, then shows and tells it, and an overtaken answer is dropped. -/
theorem mailboxAnswerWritesCompletion : Obligations.MailboxAnswerWritesCompletion := by
  intro s mb status detail resp wf short small b t irq asks masked
  refine ⟨fun gone => ?_, fun current => ?_⟩
  · have run : t = if _ then _ else _ := if_pos (List.contains_iff_mem.2 gone)
    exact ⟨fun empty => run.trans (if_neg (Bool.not_eq_true _ ▸ empty)), fun waits => run.trans (if_pos waits)⟩
  · have run : t = s.mbFinish mb status detail resp := if_neg fun mem => current (List.contains_iff_mem.1 mem)
    have ended : t = { s.mbFiled mb status detail resp with regs := t.regs, host := t.host, hostWait := t.hostWait, site := t.site } := by
      rw [run]
      exact mbEnded_mbFinish s mb status detail resp
    have box : t.mbox = s.mbEnd mb status detail resp := congrArg State.mbox ended
    have req : t.mbReq = Mem.erase s.mbReq (mbBase mb) 4096 := congrArg State.mbReq ended
    have runs : t.mbRun = Tab.del s.mbRun mb := congrArg State.mbRun ended
    refine ⟨box ▸ mbEnd_response status detail resp wf, box ▸ mbEnd_status status detail resp wf, box ▸ mbEnd_detail status detail resp wf,
      box ▸ mbEnd_length status detail resp wf, box ▸ mbEnd_flags status detail resp wf, inProgress_of_erased req, fun a out => ?_,
      fun a response low high outDetail outLength => box ▸ mbEnd_other status detail resp response low high outDetail outLength,
      runs ▸ Tab.find?_del_same .., fun n other => runs ▸ Tab.find?_del_other _ other,
      fun host => run ▸ mbFinish_hostSide host status detail resp, fun site => run ▸ mbFinish_siteSide site small status detail resp,
      fun k notDone notPending notSite notPba notVec => run ▸ mbFinish_reg_other s mb status detail resp notDone notPending notSite notPba notVec,
      ended.trans ?_⟩
    · rw [req, Mem.get_erase, if_neg]
      show ¬ (4096 * mb ≤ a ∧ a < 4096 * mb + 4096)
      omega
    · rw [box, req, runs, show t.mbMark = Tab.del s.mbMark mb from congrArg State.mbMark ended]
      rfl

end


section
/-! PROOFS. What settling the ready state and raising its events leaves (14_rings_and_mailboxes.md, 17_clocks_resets_bringup.md). -/

namespace Sys2Proof.Machine

/-- The registers that settling the ready state can change. -/
def settleRegs : List RegName :=
  readyWords.map Prod.fst ++ [.READY_GENERATION, .DM_STATUS, .PL_STATUS, .NB_STATUS, .JT_STATUS, .TR_RESERVE, .SP_STATUS] ++ eventRegs

/-- A state without what settling can change, wherever its event ring lies. -/
def State.core (s : State) : State := { s.rest with up := [], failing := [], holders := [], ppsWait := false }

/-- A state without what settling can change while its event ring does not lie in device memory. -/
def State.tidy (s : State) : State :=
  { s with
    regs := [], up := [], failing := [], holders := [], ppsWait := false, dieLog := [], flashPend := [], evSeq := 0, evRing := none
    evLost := 0, host := [], hostWait := [] }

/-- What settling leaves: everything but the ready state, its registers, the holders and the marks of its events. -/
structure Settles (s t : State) : Prop where
  core : t.core = s.core
  reg : ∀ k : RegKey, k.name ∉ settleRegs → t.reg k = s.reg k
  plain : s.plainEvents → t.plainEvents ∧ t.tidy = s.tidy
  mute : s.evRing = none → t.evRing = none ∧ t.hostWait = s.hostWait ∧ t.host = s.host
  held : ∀ r, t.holder r = 1 → s.holder r = 1

theorem Settles.refl (s : State) : Settles s s := ⟨rfl, fun _ _ => rfl, fun h => ⟨h, rfl⟩, fun h => ⟨h, rfl, rfl⟩, fun _ h => h⟩

theorem Settles.trans {s t u : State} (st : Settles s t) (tu : Settles t u) : Settles s u where
  core := tu.core.trans st.core
  reg k out := (tu.reg k out).trans (st.reg k out)
  plain h := by
    obtain ⟨hp, same⟩ := st.plain h
    obtain ⟨hq, same'⟩ := tu.plain hp
    exact ⟨hq, same'.trans same⟩
  mute h := by
    obtain ⟨none, wait, host⟩ := st.mute h
    obtain ⟨none', wait', host'⟩ := tu.mute none
    exact ⟨none', wait'.trans wait, host'.trans host⟩
  held r h := st.held r (tu.held r h)

theorem Settles.foldl {α : Type} (f : State → α → State) (l : List α) (s : State) (step : ∀ s x, Settles s (f s x)) :
    Settles s (l.foldl f s) :=
  List.foldlRecOn l f (Settles.refl s) fun t same x _ => same.trans (step t x)

theorem settles_setReg (s : State) {n : RegName} (mem : n ∈ settleRegs) (u i : Nat) (v : Word) : Settles s (s.setReg (rk n u i) v) :=
  ⟨rfl, fun _ out => s.reg_setReg_other v fun same => out (same ▸ mem), fun h => ⟨h, rfl⟩, fun h => ⟨h, rfl, rfl⟩, fun _ h => h⟩

theorem settles_setFld (s : State) {n : RegName} (mem : n ∈ settleRegs) (u i lo w x : Nat) :
    Settles s (s.setFld (rk n u i) lo w x) := settles_setReg s mem u i _

/-- A state that differs in what the ready state is made of. -/
theorem settles_of_eq {s t : State} (same : t = { s with up := t.up, failing := t.failing }) : Settles s t := by
  rw [same]
  exact ⟨rfl, fun _ _ => rfl, fun h => ⟨h, rfl⟩, fun h => ⟨h, rfl, rfl⟩, fun _ h => h⟩

/-! ### Events -/

theorem core_of_rest {s t : State} (same : t.rest = s.rest) : t.core = s.core := by
  rw [State.core, State.core, same]

theorem tidy_send (s : State) (p : Post) : (s.send p).tidy = s.tidy := by
  unfold State.send
  split
  · cases p with
    | write a bs => rfl
    | vector v =>
      unfold State.post
      dsimp only
      split
      · rfl
      · split <;> rfl
  · rfl

theorem tidy_raise {s : State} (plain : s.plainEvents) (c u : Nat) (p : List Byte) : (s.raise c u p).tidy = s.tidy := by
  by_cases only : s.evRing = none ∨ c = 0x303 ∨ c = 0x406
  · rw [raise_logged_only only]
    rfl
  · obtain ⟨some', posted⟩ := not_or.1 only
    obtain ⟨r, ring⟩ := Option.ne_none_iff_exists'.1 some'
    rcases Bool.eq_false_or_eq_true (s.evRoom r) with room | full
    · rw [raise_host ring posted room u p (plain r ring), tidy_send, tidy_send]
      rfl
    · rw [raise_lost ring posted full]
      rfl

theorem settles_raise (s : State) (c u : Nat) (p : List Byte) : Settles s (s.raise c u p) where
  core := core_of_rest (rest_raise ..)
  reg k out := State.raise_reg (fun mem => out (List.mem_append_right _ mem)) s c u p
  plain h := ⟨(sameLog_raise s c u p h).plain h, tidy_raise h c u p⟩
  mute h := by
    rw [raise_logged_only (.inl h)]
    exact ⟨h, rfl, rfl⟩
  held r h := (congrArg (Tab.getD · r 0) (of_rest State.holders (rest_raise s c u p))).symm.trans h

theorem settles_raises (s : State) (es : List Ev) : Settles s (s.raises es) :=
  Settles.foldl _ es s fun t e => settles_raise t e.1 e.2.1 e.2.2

/-! ### The ready words -/

theorem settles_publishReady (s : State) : Settles s s.publishReady := by
  have words : Settles s s.setReadyWords := by
    refine List.foldlRecOn readyWords _ (Settles.refl s) fun t same x mem => same.trans (settles_setReg t ?_ ..)
    exact List.mem_append_left _ (List.mem_append_left _ (List.mem_map_of_mem mem))
  exact (((words.trans (settles_setReg _ (by decide) ..)).trans (Settles.foldl _ _ _ fun t i => settles_setFld t (by decide) ..)).trans
    (settles_setFld _ (by decide) ..)).trans (settles_setFld _ (by decide) ..)

theorem settles_refreshReady (s : State) : Settles s s.refreshReady := by
  by_cases same : s.readyChanges = []
  · rw [State.refreshReady_of_nil same]
    exact .refl s
  · rw [State.refreshReady_of_ne_nil same]
    exact (settles_publishReady s).trans (settles_raises ..)

/-! ### Units and their holders -/

theorem settles_setOwn (s : State) (i : Nat) (b : Bool) : Settles s (s.setOwn i b) := settles_of_eq rfl

theorem settles_setTerrace (s : State) (t : Nat) (b : Bool) : Settles s (s.setTerrace t b) :=
  (settles_setOwn s ..).trans (Settles.foldl _ _ _ fun u _ => settles_setOwn u ..)

/-- The table of holders with one changed. -/
theorem getD_holders (l : Tab Nat) (r h n : Nat) :
    Tab.getD (if h = 0 then Tab.del l r else Tab.put l r h) n 0 = if n = r then h else Tab.getD l n 0 := by
  by_cases same : n = r
  · subst same
    rw [if_pos rfl]
    split
    · next zero => rw [Tab.getD_del_same, zero]
    · exact Tab.getD_put_same ..
  · rw [if_neg same]
    split
    · rw [Tab.getD, Tab.find?_del_other _ same]
      rfl
    · exact Tab.getD_put_other _ _ _ same

theorem holder_setHolder (s : State) (r h n : Nat) : (s.setHolder r h).holder n = if n = r then h else s.holder n := by
  have kept : (s.setHolder r h).holders = if h = 0 then Tab.del s.holders r else Tab.put s.holders r h := by
    unfold State.setHolder
    dsimp only
    split <;> rfl
  rw [State.holder, kept]
  exact getD_holders ..

theorem settles_setHolder (s : State) (r : Nat) {h : Nat} (other : h ≠ 1) : Settles s (s.setHolder r h) := by
  have table : Settles s { s with holders := if h = 0 then Tab.del s.holders r else Tab.put s.holders r h } :=
    ⟨rfl, fun _ _ => rfl, fun h => ⟨h, rfl⟩, fun h => ⟨h, rfl, rfl⟩, fun n one => by
      have found := (getD_holders s.holders r h n).symm.trans one
      split at found
      · exact absurd found other
      · exact found⟩
  unfold State.setHolder
  dsimp only
  split
  · exact ((table.trans (settles_setFld _ (by decide) ..)).trans (settles_setFld _ (by decide) ..)).trans (settles_setFld _ (by decide) ..)
  · exact table

theorem settles_takeReserve (s : State) : Settles s s.takeReserve := by
  unfold State.takeReserve
  split
  · exact ((settles_of_eq rfl).trans (settles_setTerrace ..)).trans (settles_refreshReady _)
  · exact .refl s

theorem settles_holdDefaults (s : State) : Settles s s.holdDefaults := by
  have timer : Settles s (if s.nimbus && s.holder resTimer = 0 then s.setHolder resTimer 5 else s) := by
    split
    · exact settles_setHolder s _ (by decide)
    · exact .refl s
  unfold State.holdDefaults
  dsimp only
  generalize (if s.nimbus && s.holder resTimer = 0 then s.setHolder resTimer 5 else s) = u at timer ⊢
  refine timer.trans (Settles.foldl _ _ _ fun t x => ?_)
  split
  · split
    · exact settles_setHolder t _ (by decide)
    · exact .refl t
  · split
    · exact settles_setHolder t _ (by decide)
    · exact .refl t

theorem settles_showSpares (s : State) : Settles s s.showSpares := by
  unfold State.showSpares
  dsimp only
  split
  · exact .refl s
  · exact settles_setReg s (by decide) ..

theorem settles_settle (s : State) : Settles s s.settle :=
  (((((settles_refreshReady s).trans (settles_takeReserve _)).trans (settles_takeReserve _)).trans (settles_takeReserve _)).trans
    (settles_holdDefaults _)).trans (settles_showSpares _)

theorem settles_resetDone (s : State) (kind : Nat) : Settles s (s.resetDone kind) := settles_raise ..

/-- A field that settling cannot change. -/
theorem Settles.field {α : Type} {s t : State} (same : Settles s t) (f : State → α) (hf : ∀ x : State, f x.core = f x := by intro; rfl) :
    f t = f s := by
  rw [← hf, same.core, hf]

/-- A field that settling cannot change while the event ring does not lie in device memory. -/
theorem Settles.plainField {α : Type} {s t : State} (same : Settles s t) (plain : s.plainEvents) (f : State → α)
    (hf : ∀ x : State, f x.tidy = f x := by intro; rfl) : f t = f s := by
  obtain ⟨-, tidy⟩ := same.plain plain
  rw [← hf, tidy, hf]

theorem plainEvents_of_none {s : State} (none : s.evRing = none) : s.plainEvents := fun r some' => by
  rw [none] at some'
  cases some'

end Sys2Proof.Machine
end


section
/-! PROOFS. A function level reset (17_clocks_resets_bringup.md, 15_host_fronthaul_timing.md). -/

namespace Sys2Proof.Machine

/-! ### Parts of tables, memories and registers -/

theorem Tab.find?_filter_out {α : Type} (t : Tab α) (p : Nat → Bool) {k : Nat} (out : p k = false) :
    Tab.find? (t.filter fun e => p e.1) k = none := by
  induction t with
  | nil => rfl
  | cons e r ih =>
    obtain ⟨x, y⟩ := e
    by_cases same : x = k
    · subst same
      simpa [out] using ih
    · cases kept : p x <;> simp [kept, Tab.find?, same, ih]

theorem Mem.get_filter (m : Mem) (p : Nat → Bool) (a : Nat) :
    Mem.get (m.filter fun c => p c.1) a = if p a then Mem.get m a else memDefault := by
  induction m with
  | nil => simp [Mem.get]
  | cons c r ih =>
    obtain ⟨x, b⟩ := c
    by_cases same : x = a
    · subst same
      cases kept : p x <;> simp [kept, Mem.get, ih]
    · cases kept : p x <;> simp [kept, Mem.get, same, ih]

theorem regFind_filter_out (l : List (RegKey × Word)) (p : RegKey → Bool) {k : RegKey} (out : p k = false) :
    regFind (l.filter fun e => p e.1) k = none := by
  induction l with
  | nil => rfl
  | cons e r ih =>
    obtain ⟨x, v⟩ := e
    by_cases same : x = k
    · subst same
      simpa [out] using ih
    · cases kept : p x <;> simp [kept, regFind, same, ih]

theorem ordered_put {α : Type} {t : Tab α} (h : ordered t) (k : Nat) (v : α) : ordered (Tab.put t k v) := by
  induction t with
  | nil => exact List.pairwise_singleton ..
  | cons e r ih =>
    obtain ⟨x, y⟩ := e
    obtain ⟨above, rest⟩ := List.pairwise_cons.1 h
    unfold Tab.put
    split
    · next lower =>
      refine List.pairwise_cons.2 ⟨fun a mem => ?_, h⟩
      rcases List.mem_cons.1 mem with rfl | mem
      · exact lower
      · exact lower.trans (above a mem)
    · split
      · next same => exact List.pairwise_cons.2 ⟨fun a mem => same ▸ above a mem, rest⟩
      · refine List.pairwise_cons.2 ⟨fun a mem => ?_, ih rest⟩
        rcases Tab.mem_put mem with mem | rfl
        · exact above a mem
        · show x < k
          omega

theorem ordered_modify {α : Type} {t : Tab α} (h : ordered t) (k : Nat) (f : α → α) : ordered (Tab.modify t k f) := by
  unfold Tab.modify
  split
  · exact ordered_put h ..
  · exact h

theorem find?_of_ordered {α : Type} {t : Tab α} (h : ordered t) {e : Nat × α} (mem : e ∈ t) : Tab.find? t e.1 = some e.2 := by
  refine (Tab.find?_eq_some_iff_mem ?_ e.1 e.2).2 mem
  exact (List.pairwise_map.2 h).imp Nat.ne_of_lt

/-! ### Rings closed -/

/-- A state without what closing a ring can change. -/
def State.unringed (s : State) : State :=
  { s with rings := [], rounds := [], jobs := [], jets := [], engines := [], grp := [], regs := [], linkOut := [], ports := [], draws := 0 }

theorem unringed_foldl {α : Type} (f : State → α → State) (l : List α) (s : State) (step : ∀ s x, (f s x).unringed = s.unringed) :
    (l.foldl f s).unringed = s.unringed :=
  List.foldlRecOn (motive := fun t : State => t.unringed = s.unringed) l f rfl fun t same x _ => (step t x).trans same

theorem unringed_slotFill (s : State) (q n : Nat) (ok : Bool) (op : Nat) : (s.slotFill q n ok op).unringed = s.unringed := by
  unfold State.slotFill
  split
  · unfold State.sendToken State.sendLink State.sendAs
    split
    · rfl
    · dsimp only
      split <;> rfl
  · rfl

theorem unringed_unload (s : State) (jid : Nat) : (s.unload jid).unringed = s.unringed := by
  have plain : (s.unload jid).plain = s.plain := State.plain_unload s jid
  have through (t : State) : t.unringed = t.plain.unringed := rfl
  rw [through, plain]
  rfl

theorem unringed_failJob (s : State) (j : Job) (status detail : Nat) : (s.failJob j status detail).unringed = s.unringed := by
  have ended (t : State) (j : Job) : (t.endJob j status detail).unringed = t.unringed := unringed_unload t j.jid
  rw [failJob_eq, ended]
  exact (unringed_foldl _ _ _ fun t c => unringed_slotFill t ..).trans (shutGroups_keeps State.unringed (fun _ _ _ => rfl) s j)

/-- A descriptor of a closing ring cancelled: it leaves its barrier round first. -/
def State.cancelOne (s : State) (j : Job) : State :=
  ({ s with rounds := Tab.modify s.rounds j.barrierId fun r => { r with arrivals := r.arrivals.filter (· ≠ j.jid) } }).failJob j stCancelled 0

/-- A ring's table entry closed. -/
def State.ringShut (s : State) (k : Nat) : State :=
  { s with rings := Tab.modify s.rings k fun r => { r with closing := true } }

theorem closeRing_eq (s : State) (k : Nat) :
    (s.closeRing k).1 = (s.jobs.filter fun j => j.cancels k).foldl State.cancelOne (s.ringShut k) := rfl

theorem unringed_closeRing (s : State) (k : Nat) : (s.closeRing k).1.unringed = s.unringed :=
  closeRing_eq s k ▸ unringed_foldl State.cancelOne _ (s.ringShut k) fun t j => unringed_failJob _ j stCancelled 0

theorem failJob_rings (s : State) (j : Job) (status detail : Nat) : (s.failJob j status detail).rings = s.rings := by
  rw [failJob_eq, State.endJob_rings, of_rest State.rings (rest_giveBack ..)]
  exact shutGroups_keeps State.rings (fun _ _ _ => rfl) s j

theorem closeRing_rings (s : State) (k : Nat) : (s.closeRing k).1.rings = Tab.modify s.rings k fun r => { r with closing := true } := by
  rw [closeRing_eq]
  exact List.foldlRecOn (motive := fun t : State => t.rings = (s.ringShut k).rings) _ _ rfl fun t same j _ =>
    (failJob_rings _ j stCancelled 0).trans same

theorem closeRing_reg (s : State) (k : Nat) {r : RegKey} (other : r.name ∉ storeRegs ++ .BS_SLOT :: eventRegs) :
    (s.closeRing k).1.reg r = s.reg r :=
  closeRing_eq s k ▸ State.reg_foldl State.cancelOne r _ (s.ringShut k) fun _ j _ => failJob_reg _ j stCancelled 0 other

/-- Every ring of the table closed, in turn. -/
def State.closeAll (s : State) : State := s.rings.foldl (fun s e => if e.2.closing then s else (s.closeRing e.1).1) s

theorem unringed_closeAll (s : State) : s.closeAll.unringed = s.unringed :=
  unringed_foldl _ _ _ fun t e => by
    split
    · rfl
    · exact unringed_closeRing ..

theorem closeAll_reg (s : State) {r : RegKey} (other : r.name ∉ storeRegs ++ .BS_SLOT :: eventRegs) : s.closeAll.reg r = s.reg r :=
  State.reg_foldl _ r _ _ fun t e _ => by
    split
    · rfl
    · exact closeRing_reg t e.1 other

/-- One ring closed: of a table in order only rings that were there before stay open, and not that one. -/
theorem mem_closeRing {s : State} (h : ordered s.rings) {k : Nat} {r : Ring} {e : Nat × Ring}
    (mem : e ∈ (s.closeRing k).1.rings) : e.2.closing = true ∨ e ∈ s.rings ∧ e ≠ (k, r) ∨ r.closing = true := by
  rw [closeRing_rings] at mem
  by_cases same : e = (k, r)
  · have here := find?_of_ordered (ordered_modify h ..) mem
    subst same
    rw [Tab.find?_modify, if_pos rfl] at here
    obtain ⟨x, -, eq⟩ := Option.map_eq_some_iff.1 here
    exact .inr (.inr (congrArg Ring.closing eq.symm))
  · rcases Tab.mem_modify mem with old | ⟨x, -, rfl⟩
    · exact .inr (.inl ⟨old, same⟩)
    · exact .inl rfl

theorem closeAll_closing {s : State} (h : ordered s.rings) : ∀ e ∈ s.closeAll.rings, e.2.closing = true := by
  have go (l : List (Nat × Ring)) (t : State) (order : ordered t.rings) (left : ∀ e ∈ t.rings, e.2.closing = true ∨ e ∈ l) :
      ∀ e ∈ (l.foldl (fun s e => if e.2.closing then s else (s.closeRing e.1).1) t).rings, e.2.closing = true := by
    induction l generalizing t with
    | nil => exact fun e mem => (left e mem).resolve_right (List.not_mem_nil)
    | cons x l ih =>
      rw [List.foldl_cons]
      split
      · next closed =>
        refine ih t order fun e mem => ?_
        rcases left e mem with done | mem
        · exact .inl done
        · rcases List.mem_cons.1 mem with rfl | mem
          · exact .inl closed
          · exact .inr mem
      · next isOpen =>
        refine ih _ (closeRing_rings t x.1 ▸ ordered_modify order ..) fun e mem => ?_
        rcases mem_closeRing (r := x.2) order mem with done | ⟨old, other⟩ | closed
        · exact .inl done
        · rcases left e old with done | mem
          · exact .inl done
          · exact .inr ((List.mem_cons.1 mem).resolve_left other)
        · exact absurd closed isOpen
  exact go s.rings s h fun e mem => .inr mem

/-! ### The host's mailboxes and rings let go -/

theorem detach_eq (s : State) : s.detach = { s with mbReq := s.detach.mbReq, mbRun := s.detach.mbRun, mbGone := s.detach.mbGone } := by
  have runs (l : List (Nat × MbRun)) (t : State) :
      l.foldl (fun (s : State) e =>
        let top := ((s.runsOf e.1).map Prod.fst).foldl max 0
        { s with mbReq := Mem.erase s.mbReq (mbBase e.1) 4096, mbRun := Tab.put (Tab.del s.mbRun e.1) (top + 1000) e.2 }) t =
      { t with
        mbReq := (l.foldl (fun (s : State) e =>
          let top := ((s.runsOf e.1).map Prod.fst).foldl max 0
          { s with mbReq := Mem.erase s.mbReq (mbBase e.1) 4096, mbRun := Tab.put (Tab.del s.mbRun e.1) (top + 1000) e.2 }) t).mbReq
        mbRun := (l.foldl (fun (s : State) e =>
          let top := ((s.runsOf e.1).map Prod.fst).foldl max 0
          { s with mbReq := Mem.erase s.mbReq (mbBase e.1) 4096, mbRun := Tab.put (Tab.del s.mbRun e.1) (top + 1000) e.2 }) t).mbRun } := by
    induction l generalizing t with
    | nil => rfl
    | cons e l ih => exact ih _
  unfold State.detach
  dsimp only
  rw [runs]

theorem ringGone_eq (s : State) (k : Nat) : s.ringGone k = { s with rings := (s.ringGone k).rings } := by
  unfold State.ringGone
  split
  · split <;> rfl
  · rfl

theorem mem_ringGone {s : State} {k : Nat} {e : Nat × Ring} (mem : e ∈ (s.ringGone k).rings) : e ∈ s.rings := by
  unfold State.ringGone at mem
  split at mem
  · split at mem
    · exact List.mem_of_mem_filter mem
    · exact mem
  · exact mem

/-- The rings of a list of indices that are done with, gone. -/
def State.ringsGone (s : State) (l : List Nat) : State := l.foldl State.ringGone s

theorem ringsGone_eq (s : State) (l : List Nat) : s.ringsGone l = { s with rings := (s.ringsGone l).rings } := by
  refine List.foldlRecOn (motive := fun t : State => t = { s with rings := t.rings }) l _ rfl fun t same k _ => ?_
  rw [ringGone_eq, same]

theorem mem_ringsGone {s : State} {l : List Nat} {e : Nat × Ring} (mem : e ∈ (s.ringsGone l).rings) : e ∈ s.rings :=
  (List.foldlRecOn (motive := fun t : State => e ∈ t.rings → e ∈ s.rings) l _ id fun _ back _ _ mem => back (mem_ringGone mem)) mem

/-! ### What the host held -/

/-- The registers in which a release shows. -/
def releaseRegs : List RegName := [.JT_STATUS, .TR_RESERVE, .HI_DBG_HALT, .TM_STATUS]

/-- Nothing but the holders and what shows them changes. -/
structure ReleaseOnly (s t : State) : Prop where
  reg : ∀ k : RegKey, k.name ∉ releaseRegs → t.reg k = s.reg k
  eq : t = { s with regs := t.regs, holders := t.holders, ppsWait := t.ppsWait }

theorem ReleaseOnly.refl (s : State) : ReleaseOnly s s := ⟨fun _ _ => rfl, rfl⟩

theorem ReleaseOnly.trans {s t u : State} (st : ReleaseOnly s t) (tu : ReleaseOnly t u) : ReleaseOnly s u where
  reg k out := (tu.reg k out).trans (st.reg k out)
  eq := by
    rw [tu.eq, st.eq]

theorem releaseOnly_setFld (s : State) {n : RegName} (mem : n ∈ releaseRegs) (u i lo w x : Nat) :
    ReleaseOnly s (s.setFld (rk n u i) lo w x) :=
  ⟨fun _ out => s.reg_setFld_other _ _ _ fun same => out (same ▸ mem), rfl⟩

theorem releaseOnly_setHolder (s : State) (r h : Nat) : ReleaseOnly s (s.setHolder r h) := by
  have table : ReleaseOnly s { s with holders := if h = 0 then Tab.del s.holders r else Tab.put s.holders r h } :=
    ⟨fun _ _ => rfl, rfl⟩
  unfold State.setHolder
  dsimp only
  split
  · exact ((table.trans (releaseOnly_setFld _ (by decide) ..)).trans (releaseOnly_setFld _ (by decide) ..)).trans
      (releaseOnly_setFld _ (by decide) ..)
  · exact table

theorem releaseOnly_claimPps (s : State) : ReleaseOnly s s.claimPps := by
  unfold State.claimPps
  split
  · have waitOver : ReleaseOnly s { s with ppsWait := false } := ⟨fun _ _ => rfl, rfl⟩
    exact (waitOver.trans (releaseOnly_setHolder ..)).trans (releaseOnly_setFld _ (by decide) ..)
  · split
    · exact .refl s
    · exact ⟨fun _ _ => rfl, rfl⟩

theorem releaseOnly_freeHolder (s : State) (r : Nat) : ReleaseOnly s (s.freeHolder r) := by
  unfold State.freeHolder
  dsimp only
  split
  · exact (releaseOnly_setHolder ..).trans (releaseOnly_claimPps _)
  · exact releaseOnly_setHolder ..

theorem holder_claimPps (s : State) {r : Nat} (one : s.claimPps.holder r = 1) :
    s.holder r = 1 := by
  unfold State.claimPps at one
  split at one
  · have shown : (({ s with ppsWait := false } : State).setHolder resPps 6).holder r = 1 := one
    rw [holder_setHolder] at shown
    split at shown
    · cases shown
    · exact shown
  · split at one
    · exact one
    · exact one

/-- A resource given back is not the host's any more, and no other becomes so. -/
theorem holder_freeHolder (s : State) {r n : Nat} (one : (s.freeHolder r).holder n = 1) : n ≠ r ∧ s.holder n = 1 := by
  have given : (s.setHolder r 0).holder n = 1 := by
    unfold State.freeHolder at one
    dsimp only at one
    split at one
    · exact holder_claimPps _ one
    · exact one
  rw [holder_setHolder] at given
  split at given
  · cases given
  · next other => exact ⟨other, given⟩

theorem releaseOnly_resumeView (s : State) (t : Nat) : ReleaseOnly s (s.resumeView t) := by
  refine List.foldlRecOn (motive := fun u => ReleaseOnly s u) _ _ (ReleaseOnly.refl s) fun u same x _ => same.trans ?_
  unfold State.resumeU
  split
  · exact (releaseOnly_setFld _ (by decide) ..).trans (releaseOnly_setFld _ (by decide) ..)
  · exact .refl u

theorem holders_resumeView (s : State) (t : Nat) : (s.resumeView t).holders = s.holders := by
  refine List.foldlRecOn (motive := fun u : State => u.holders = s.holders) _ _ rfl fun u same x _ => ?_
  unfold State.resumeU
  split
  · exact same
  · exact same

/-- One of the host's resources released, and its view's jets resumed. -/
def State.releaseOne (s : State) (r : Nat) : State :=
  if isView r then (s.freeHolder r).resumeView (r - 0x200) else s.freeHolder r

theorem releaseOnly_releaseOne (s : State) (r : Nat) : ReleaseOnly s (s.releaseOne r) := by
  unfold State.releaseOne
  split
  · exact (releaseOnly_freeHolder s r).trans (releaseOnly_resumeView ..)
  · exact releaseOnly_freeHolder s r

theorem holder_releaseOne (s : State) {r n : Nat} (one : (s.releaseOne r).holder n = 1) : n ≠ r ∧ s.holder n = 1 := by
  unfold State.releaseOne at one
  split at one
  · rw [State.holder, holders_resumeView] at one
    exact holder_freeHolder s one
  · exact holder_freeHolder s one

theorem releaseHost_eq (s : State) : s.releaseHost = ((s.holders.filter fun e => e.2 = 1).map Prod.fst).foldl State.releaseOne s := rfl

theorem releaseOnly_releaseHost (s : State) : ReleaseOnly s s.releaseHost := by
  rw [releaseHost_eq]
  exact List.foldlRecOn (motive := fun u => ReleaseOnly s u) _ _ (ReleaseOnly.refl s) fun u same r _ => same.trans (releaseOnly_releaseOne u r)

theorem holder_releaseHost (s : State) (r : Nat) : s.releaseHost.holder r ≠ 1 := by
  have go (l : List Nat) (t : State) (left : ∀ n, t.holder n = 1 → n ∈ l) : (l.foldl State.releaseOne t).holder r ≠ 1 := by
    induction l generalizing t with
    | nil => exact fun one => List.not_mem_nil (left r one)
    | cons x l ih =>
      refine ih _ fun n one => ?_
      obtain ⟨other, before⟩ := holder_releaseOne t one
      exact (List.mem_cons.1 (left n before)).resolve_left other
  rw [releaseHost_eq]
  refine go _ s fun n one => ?_
  have found : Tab.find? s.holders n = some 1 := by
    unfold State.holder Tab.getD at one
    cases h : Tab.find? s.holders n with
    | none => rw [h] at one; cases one
    | some v => rw [h] at one; exact congrArg some one
  exact List.mem_map.2 ⟨_, List.mem_filter.2 ⟨Tab.mem_of_find? found, by simp⟩, rfl⟩

/-! ### The reset as a whole -/

/-- What a function level reset takes away at once. -/
def State.hostCleared (s : State) : State :=
  { s with
    cqs := [], evRing := none, evLost := 0, hostWait := [], groups := [], feat := 0, helloDone := false
    jobs := s.jobs.filterMap Job.orphan
    cursors := s.cursors.filter fun e => decide (4 ≤ e.1)
    mbox := s.mbox.filter fun c => !hostHeader c.1
    regs := s.regs.filter fun e => !flrReg e.1 }

/-- The state whose holders the reset then looks at. -/
def State.flrUnheld (s : State) : State :=
  ((s.closeAll.hostCleared.detach.ringsGone (s.closeAll.rings.map Prod.fst)).setReg (rk .MB_PENDING) 0).showRings

theorem exec_functionLevelReset_powered {s : State} (powered : s.powerGood = true) :
    exec .functionLevelReset s = .next ((s.flrUnheld.releaseHost.settle).resetDone 2) := by
  rw [exec_functionLevelReset, execFunctionLevelReset, powered]
  rfl

/-- The reset leaves what its parts leave. -/
theorem flrUnheld_eq (s : State) : s.flrUnheld =
    { s.closeAll.hostCleared with
      mbReq := s.flrUnheld.mbReq, mbRun := s.flrUnheld.mbRun, mbGone := s.flrUnheld.mbGone, rings := s.flrUnheld.rings, regs := s.flrUnheld.regs } := by
  unfold State.flrUnheld State.showRings
  rw [ringsGone_eq, detach_eq]
  rfl

theorem flrUnheld_reg (s : State) {k : RegKey} (notPending : k ≠ rk .MB_PENDING) (notRings : k ≠ rk .QE_STATUS) :
    s.flrUnheld.reg k = s.closeAll.hostCleared.reg k := by
  refine (State.reg_setReg_other _ _ notRings).trans ((State.reg_setReg_other _ _ notPending).trans ?_)
  rw [ringsGone_eq, detach_eq]
  rfl

theorem hostCleared_reg_kept (s : State) {k : RegKey} (kept : flrReg k = false) : s.hostCleared.reg k = s.reg k :=
  congrArg (·.getD (resetWord k)) (regFind_filter s.regs (fun k => !flrReg k) k (by rw [kept]; rfl))

theorem hostCleared_reg_cleared (s : State) {k : RegKey} (cleared : flrReg k = true) : s.hostCleared.reg k = resetWord k :=
  congrArg (·.getD (resetWord k)) (regFind_filter_out s.regs (fun k => !flrReg k) (by rw [cleared]; rfl))

end Sys2Proof.Machine

open Sys2Proof.Machine in
/-- Settles O40: the rings are closed, the host's side is dropped, and the release and the settling that follow touch none of it. -/
theorem functionLevelResetClearsTheHostSide : Obligations.FunctionLevelResetClearsTheHostSide := by
  intro s powered order
  have closed := unringed_closeAll s
  have unheld := flrUnheld_eq s
  have released := releaseOnly_releaseHost s.flrUnheld
  have settled : Settles s.flrUnheld.releaseHost (s.flrUnheld.releaseHost.settle.resetDone 2) :=
    (settles_settle _).trans (settles_resetDone _ 2)
  have mute : s.flrUnheld.releaseHost.evRing = none := (congrArg State.evRing released.eq).trans (congrArg State.evRing unheld)
  have plain := plainEvents_of_none mute
  obtain ⟨noRing, noWait, -⟩ := settled.mute mute
  have cleared {α : Type} (f : State → α) (hf : ∀ x : State, f x.core = f x := by intro; rfl) :
      f (s.flrUnheld.releaseHost.settle.resetDone 2) = f s.flrUnheld.releaseHost := settled.field f hf
  have kept {α : Type} (f : State → α) (hs : ∀ x : State, f x.tidy = f x := by intro; rfl)
      (hr : ∀ x : State, f { s.flrUnheld with regs := x.regs, holders := x.holders, ppsWait := x.ppsWait } = f s.flrUnheld := by intro; rfl)
      (hu : ∀ x : State, f { s.closeAll.hostCleared with mbReq := x.mbReq, mbRun := x.mbRun, mbGone := x.mbGone, rings := x.rings, regs := x.regs } =
        f s.closeAll.hostCleared := by intro; rfl) :
      f (s.flrUnheld.releaseHost.settle.resetDone 2) = f s.closeAll.hostCleared :=
    (settled.plainField plain f hs).trans ((congrArg f released.eq).trans ((hr _).trans ((congrArg f unheld).trans (hu _))))
  have box : (s.flrUnheld.releaseHost.settle.resetDone 2).mbox = s.mbox.filter fun c => !hostHeader c.1 :=
    (kept State.mbox).trans (congrArg (fun x : State => x.mbox.filter fun c : Host.Cell => !hostHeader c.1) closed :)
  refine ⟨_, exec_functionLevelReset_powered powered, kept State.cqs, noRing, kept State.groups, kept State.feat, kept State.helloDone,
    noWait.trans ((congrArg State.hostWait released.eq).trans (congrArg State.hostWait unheld)), fun c small => ?_, fun e mem => ?_,
    fun a low header => ?_, fun a out => ?_, fun r _ one => holder_releaseHost _ r (settled.held r one), ?_, ?_, ?_, ?_, ?_, ?_, ?_⟩
  · rw [kept State.cursors]
    exact Tab.find?_filter_out _ (fun k => decide (4 ≤ k)) (by simpa using small)
  · rw [cleared State.rings, congrArg State.rings released.eq] at mem
    exact closeAll_closing order e (congrArg State.rings (detach_eq s.closeAll.hostCleared) ▸ mem_ringsGone mem)
  · rw [box, Mem.get_filter _ (fun x => !hostHeader x)]
    exact if_neg (by simp [hostHeader, low, header])
  · rw [box, Mem.get_filter _ (fun x => !hostHeader x)]
    exact if_pos (by rw [hostHeader, ← Bool.decide_and, decide_eq_false out]; rfl)
  · rw [settled.reg _ (by decide), released.reg _ (by decide), flrUnheld_reg _ (by decide) (by decide)]
    exact hostCleared_reg_cleared _ (by decide)
  · exact (kept State.allocs).trans (congrArg State.allocs closed :)
  · exact (kept State.plans).trans (congrArg State.plans closed :)
  · exact (kept State.profiles).trans (congrArg State.profiles closed :)
  · exact (kept State.flows).trans (congrArg State.flows closed :)
  · exact (kept State.casc).trans (congrArg State.casc closed :)
  · rw [settled.reg _ (by decide), released.reg _ (by decide), flrUnheld_reg _ (by decide) (by decide), hostCleared_reg_kept _ (by decide)]
    exact closeAll_reg s (by decide)

end


section
/-! PROOFS. A compute reset (17_clocks_resets_bringup.md). -/

namespace Sys2Proof.Machine

/-! ### Changes of registers alone -/

/-- Only registers of the names given differ. -/
structure Shows (ks : List RegName) (s t : State) : Prop where
  reg : ∀ k : RegKey, k.name ∉ ks → t.reg k = s.reg k
  eq : t = { s with regs := t.regs }

section
variable {ks : List RegName}

theorem Shows.refl (s : State) : Shows ks s s := ⟨fun _ _ => rfl, rfl⟩

theorem Shows.trans {s t u : State} (st : Shows ks s t) (tu : Shows ks t u) : Shows ks s u where
  reg k out := (tu.reg k out).trans (st.reg k out)
  eq := by rw [tu.eq, st.eq]

theorem Shows.mono {ks' : List RegName} {s t : State} (same : Shows ks s t) (sub : ks ⊆ ks') : Shows ks' s t :=
  ⟨fun k out => same.reg k fun mem => out (sub mem), same.eq⟩

theorem Shows.foldl {α : Type} (f : State → α → State) (l : List α) (s : State) (step : ∀ s x, Shows ks s (f s x)) :
    Shows ks s (l.foldl f s) :=
  List.foldlRecOn l f (Shows.refl s) fun t same x _ => same.trans (step t x)

theorem shows_setReg (s : State) {n : RegName} (mem : n ∈ ks) (u i : Nat) (v : Word) : Shows ks s (s.setReg (rk n u i) v) :=
  ⟨fun _ out => s.reg_setReg_other v fun same => out (same ▸ mem), rfl⟩

theorem shows_setFld (s : State) {n : RegName} (mem : n ∈ ks) (u i lo w x : Nat) : Shows ks s (s.setFld (rk n u i) lo w x) :=
  shows_setReg s mem u i _

theorem shows_bump (s : State) {n : RegName} (mem : n ∈ ks) (u i m : Nat) : Shows ks s (s.bump (rk n u i) m) := shows_setReg s mem u i _

theorem shows_show (s : State) {n : RegName} (mem : n ∈ ks) (u i v : Nat) : Shows ks s (s.show (rk n u i) v) := by
  unfold State.show
  split
  · exact .refl s
  · exact shows_setReg s mem u i _

theorem shows_ite {p : Prop} [Decidable p] {s t u : State} (st : Shows ks s t) (su : Shows ks s u) : Shows ks s (if p then t else u) := by
  split
  · exact st
  · exact su

theorem Shows.field {α : Type} {s t : State} (same : Shows ks s t) (f : State → α)
    (hf : ∀ x : State, f { s with regs := x.regs } = f s := by intro; rfl) : f t = f s := by
  rw [same.eq]
  exact hf t

theorem Shows.fld {s t : State} (same : Shows ks s t) {k : RegKey} (out : k.name ∉ ks) (lo w : Nat) : t.fld k lo w = s.fld k lo w := by
  rw [State.fld, same.reg k out, ← State.fld]

end

/-- What one element of a list sets and no other unsets holds at the end. -/
theorem foldl_sets {α : Type} (f : State → α → State) {l : List α} {x : α} (mem : x ∈ l) (s : State) (P : State → Prop)
    (sets : ∀ s, P (f s x)) (keeps : ∀ s y, P s → P (f s y)) : P (l.foldl f s) := by
  obtain ⟨before, after, rfl⟩ := List.append_of_mem mem
  rw [List.foldl_append, List.foldl_cons]
  exact List.foldlRecOn (motive := P) after f (sets _) fun t h y _ => keeps t y h

/-! ### Items discarded at crossings -/

section
variable (s : State) (kind unit : Nat)

theorem flushed_reg {k : RegKey} (other : k.name ∉ .CK_CDC_FLUSHED :: eventRegs) : (s.flushed kind unit).reg k = s.reg k := by
  obtain ⟨notCount, unmarked⟩ : k.name ≠ .CK_CDC_FLUSHED ∧ k.name ∉ eventRegs := by simpa using other
  unfold State.flushed
  dsimp only
  split
  · rfl
  · refine (State.raise_reg unmarked ..).trans ((State.reg_setReg_other _ _ fun same => notCount (congrArg RegKey.name same)).trans rfl)

theorem flushed_field {α : Type} (f : State → α) (hf : ∀ x : State, f x.core = f x := by intro; rfl)
    (hd : ∀ n : Nat, f { s with draws := n } = f s := by intro; rfl)
    (hr : ∀ (n : Nat) (x : State), f { s with draws := n, regs := x.regs } = f s := by intro _ _; rfl) : f (s.flushed kind unit) = f s := by
  unfold State.flushed
  dsimp only
  split
  · exact hd _
  · exact ((settles_raise ..).field f hf).trans (hr _ (State.bump { s with draws := s.draws + 1 } _ _))

theorem flushed_plainField (plain : s.plainEvents) {α : Type} (f : State → α) (hf : ∀ x : State, f x.tidy = f x := by intro; rfl)
    (hd : ∀ n : Nat, f { s with draws := n } = f s := by intro; rfl)
    (hr : ∀ (n : Nat) (x : State), f { s with draws := n, regs := x.regs } = f s := by intro _ _; rfl) : f (s.flushed kind unit) = f s := by
  unfold State.flushed
  dsimp only
  split
  · exact hd _
  · refine ((settles_raise _ _ _ _).plainField ?_ f hf).trans (hr _ (State.bump { s with draws := s.draws + 1 } _ _))
    exact plain

end

/-! ### The descriptors that end -/

/-- A descriptor ended by a compute reset: its tokens are given back. -/
def State.cancelLive (s : State) (j : Job) : State :=
  (s.giveBack j.claimed (j.jid + 1)).endJob { j with claimed := [], reads := [] } stCancelled 0

theorem unringed_cancelLive (s : State) (j : Job) : (s.cancelLive j).unringed = s.unringed :=
  (unringed_unload _ j.jid).trans (unringed_foldl _ _ _ fun t c => unringed_slotFill t ..)

theorem rings_cancelLive (s : State) (j : Job) : (s.cancelLive j).rings = s.rings :=
  (State.endJob_rings ..).trans (of_rest State.rings (rest_giveBack ..))

theorem jobs_cancelLive (s : State) (j : Job) : ∃ tk, (s.cancelLive j).jobs =
    s.jobs.filter (fun x => x.jid ≠ j.jid) ++ [{ j with claimed := [], reads := [] }.finished stCancelled 0 tk] :=
  ⟨_, of_rest State.jobs (rest_giveBack s j.claimed (j.jid + 1)) ▸ endJob_jobs ..⟩

theorem mem_cancelLive {s : State} {j x : Job} (mem : x ∈ (s.cancelLive j).jobs) : x.phase = .done ∨ x ∈ s.jobs ∧ x ≠ j := by
  obtain ⟨tk, jobs⟩ := jobs_cancelLive s j
  rw [jobs] at mem
  rcases List.mem_append.1 mem with old | new
  · obtain ⟨mem, other⟩ := List.mem_filter.1 old
    exact .inr ⟨mem, fun same => by simp [same] at other⟩
  · rw [List.mem_singleton.1 new]
    exact .inl rfl

/-- A descriptor of this number has ended with CANCELLED. -/
def State.cancelled (s : State) (jid : Nat) : Prop := ∃ k ∈ s.jobs, k.jid = jid ∧ k.phase = .done ∧ k.status = stCancelled

theorem cancelled_cancelLive (s : State) (j : Job) : (s.cancelLive j).cancelled j.jid := by
  obtain ⟨tk, jobs⟩ := jobs_cancelLive s j
  refine ⟨{ j with claimed := [], reads := [] }.finished stCancelled 0 tk, ?_, rfl, rfl, rfl⟩
  rw [jobs]
  exact List.mem_append_right _ (List.mem_singleton_self _)

theorem cancelled_keeps {s : State} {jid : Nat} (h : s.cancelled jid) (j : Job) : (s.cancelLive j).cancelled jid := by
  by_cases same : jid = j.jid
  · exact same ▸ cancelled_cancelLive s j
  · obtain ⟨k, mem, own, done, status⟩ := h
    obtain ⟨tk, jobs⟩ := jobs_cancelLive s j
    exact ⟨k, jobs ▸ List.mem_append_left _ (List.mem_filter.2 ⟨mem, by simpa [own] using same⟩), own, done, status⟩

/-- Every descriptor that has not completed, ended. -/
def State.cancelAll (s : State) : State := (s.jobs.filter fun j => j.phase ≠ .done).foldl State.cancelLive s

theorem unringed_cancelAll (s : State) : s.cancelAll.unringed = s.unringed := unringed_foldl _ _ s fun t j => unringed_cancelLive t j

theorem rings_cancelAll (s : State) : s.cancelAll.rings = s.rings :=
  List.foldlRecOn (motive := fun t : State => t.rings = s.rings) _ _ rfl fun t same j _ => (rings_cancelLive t j).trans same

theorem done_cancelAll (s : State) : ∀ j ∈ s.cancelAll.jobs, j.phase = .done := by
  have go (l : List Job) (t : State) (left : ∀ j ∈ t.jobs, j.phase = .done ∨ j ∈ l) : ∀ j ∈ (l.foldl State.cancelLive t).jobs, j.phase = .done := by
    induction l generalizing t with
    | nil => exact fun j mem => (left j mem).resolve_right List.not_mem_nil
    | cons x l ih =>
      refine ih _ fun j mem => ?_
      rcases mem_cancelLive mem with done | ⟨old, other⟩
      · exact .inl done
      · exact (left j old).imp id fun mem => (List.mem_cons.1 mem).resolve_left other
  refine go _ s fun j mem => ?_
  by_cases done : j.phase = .done
  · exact .inl done
  · exact .inr (List.mem_filter.2 ⟨mem, by simpa using done⟩)

theorem cancelled_cancelAll {s : State} {j : Job} (mem : j ∈ s.jobs) (live : j.phase ≠ .done) : s.cancelAll.cancelled j.jid :=
  foldl_sets State.cancelLive (List.mem_filter.2 ⟨mem, by simpa using live⟩) s (State.cancelled · j.jid)
    (fun t => cancelled_cancelLive t j) fun _ x h => cancelled_keeps h x

/-- A token register keeps its base and size as tokens are given back. -/
theorem slotFill_low (s : State) (q n : Nat) (ok : Bool) (op : Nat) {k : RegKey} (slot : k.name = .BS_SLOT) :
    (s.slotFill q n ok op).fld k 0 32 = s.fld k 0 32 := by
  by_cases away : isRemote q
  · rw [slotFill_eq_remote away]
    exact congrArg (fun w : Word => bitsOf w.toNat 0 32) (State.sendLink_reg (by rw [slot]; decide) s ..)
  · rw [slotFill_eq_local (by simpa using away)]
    by_cases same : k = s.slotKey q n
    · rw [same, State.fld_setFld_apart _ _ _ _ _ _ _ (by decide) (by decide), State.fld_setFld_apart _ _ _ _ _ _ _ (by decide) (by decide)]
    · rw [State.fld_setFld_other _ _ _ _ _ _ same, State.fld_setFld_other _ _ _ _ _ _ same]

theorem cancelAll_low (s : State) {k : RegKey} (slot : k.name = .BS_SLOT) : s.cancelAll.fld k 0 32 = s.fld k 0 32 := by
  refine List.foldlRecOn (motive := fun t : State => t.fld k 0 32 = s.fld k 0 32) _ _ rfl fun t same j _ => Eq.trans ?_ same
  have given : (t.giveBack j.claimed (j.jid + 1)).fld k 0 32 = t.fld k 0 32 :=
    List.foldlRecOn (motive := fun u : State => u.fld k 0 32 = t.fld k 0 32) _ _ rfl fun u same c _ => (slotFill_low u _ _ _ _ slot).trans same
  exact (congrArg (fun w : Word => bitsOf w.toNat 0 32) (endJob_reg _ _ _ _ (by rw [slot]; decide))).trans given

/-! ### The units cleared -/

theorem shows_computeBasin (s : State) (u : Nat) : Shows [.BS_SLOT] s (s.computeBasin u) :=
  (Shows.foldl _ _ s fun t n => shows_ite (.refl t) (shows_setFld t (by decide) ..)).trans
    (Shows.foldl _ _ _ fun t i => shows_show t (by decide) ..)

theorem shows_computeJet (s : State) (u : Nat) : Shows [.JT_STATUS] s (s.computeJet u) :=
  shows_ite (.refl s) (shows_ite (shows_setFld s (by decide) ..) (shows_setFld s (by decide) ..))

theorem shows_computeEngine (s : State) (u : Nat) : Shows [.SE_STATUS] s (s.computeEngine u) :=
  shows_ite (.refl s) (shows_ite (shows_setFld s (by decide) ..) (shows_setFld s (by decide) ..))

/-- A token register at slots 0 to 47: EMPTY and unclaimed once its basin is cleared, with its base and size as before. -/
theorem show_fld_other (s : State) {k n : RegKey} (v lo w : Nat) (other : n ≠ k) : (s.show k v).fld n lo w = s.fld n lo w := by
  unfold State.show
  split
  · rfl
  · rw [State.fld, State.reg_setReg_other _ _ other, ← State.fld]

/-- The tokens of a basin's first 48 slots, cleared. -/
def State.tokensCleared (s : State) (u : Nat) : State :=
  (List.range 48).foldl (fun s n => if s.fld (rk .BS_SLOT u n) 32 2 = 0 then s else s.setFld (rk .BS_SLOT u n) 32 2 0) s

theorem token_keeps (s : State) (u n v m : Nat) (clear : s.fld (rk .BS_SLOT u n) 32 2 = 0) :
    (if s.fld (rk .BS_SLOT v m) 32 2 = 0 then s else s.setFld (rk .BS_SLOT v m) 32 2 0).fld (rk .BS_SLOT u n) 32 2 = 0 := by
  split
  · exact clear
  · by_cases here : (rk .BS_SLOT u n) = rk .BS_SLOT v m
    · rw [← here, State.fld_setFld_same _ _ _ _ _ (by decide)]
      rfl
    · rw [State.fld_setFld_other _ _ _ _ _ _ here, clear]

section
variable {n : Nat} (own : n < 48)
include own

/-- Other slots of a basin shown EMPTY at their reset size leave the first 48. -/
theorem computeBasin_fld (s : State) (u v lo w : Nat) : (s.computeBasin v).fld (rk .BS_SLOT u n) lo w = (s.tokensCleared v).fld (rk .BS_SLOT u n) lo w := by
  refine List.foldlRecOn (motive := fun t : State => t.fld (rk .BS_SLOT u n) lo w = (s.tokensCleared v).fld (rk .BS_SLOT u n) lo w) _ _ rfl fun t same i _ => ?_
  refine (show_fld_other t _ lo w fun eq => ?_).trans same
  have := congrArg RegKey.idx eq
  simp only [rk] at this
  omega

theorem computeBasin_low (s : State) (u v : Nat) : (s.computeBasin v).fld (rk .BS_SLOT u n) 0 32 = s.fld (rk .BS_SLOT u n) 0 32 := by
  rw [computeBasin_fld own]
  refine List.foldlRecOn (motive := fun t : State => t.fld (rk .BS_SLOT u n) 0 32 = s.fld (rk .BS_SLOT u n) 0 32) _ _ rfl fun t same m _ => ?_
  split
  · exact same
  · by_cases here : (rk .BS_SLOT u n) = rk .BS_SLOT v m
    · rw [← here, State.fld_setFld_apart _ _ _ _ _ _ _ (by decide) (by decide), same]
    · rw [State.fld_setFld_other _ _ _ _ _ _ here, same]

theorem computeBasin_token (s : State) (u : Nat) : (s.computeBasin u).fld (rk .BS_SLOT u n) 32 2 = 0 := by
  rw [computeBasin_fld own]
  refine foldl_sets _ (List.mem_range.2 own) s (fun t : State => t.fld (rk .BS_SLOT u n) 32 2 = 0) (fun t => ?_)
    fun t m clear => token_keeps t u n u m clear
  split
  · assumption
  · rw [State.fld_setFld_same _ _ _ _ _ (by decide)]
    rfl

theorem computeBasin_token_keeps (s : State) (u v : Nat) (clear : s.fld (rk .BS_SLOT u n) 32 2 = 0) :
    (s.computeBasin v).fld (rk .BS_SLOT u n) 32 2 = 0 := by
  rw [computeBasin_fld own]
  exact List.foldlRecOn (motive := fun t : State => t.fld (rk .BS_SLOT u n) 32 2 = 0) _ _ clear fun t clear m _ => token_keeps t u n v m clear

theorem computeBasins_token (s : State) {u : Nat} (here : u < 140) :
    ((List.range 140).foldl State.computeBasin s).fld (rk .BS_SLOT u n) 32 2 = 0 :=
  foldl_sets _ (List.mem_range.2 here) s (fun t : State => t.fld (rk .BS_SLOT u n) 32 2 = 0) (fun t => computeBasin_token own t u)
    fun t v clear => computeBasin_token_keeps own t u v clear

theorem computeBasins_low (s : State) (u : Nat) :
    ((List.range 140).foldl State.computeBasin s).fld (rk .BS_SLOT u n) 0 32 = s.fld (rk .BS_SLOT u n) 0 32 :=
  List.foldlRecOn (motive := fun t : State => t.fld (rk .BS_SLOT u n) 0 32 = s.fld (rk .BS_SLOT u n) 0 32) _ _ rfl
    fun t same v _ => (computeBasin_low own t u v).trans same

end

/-! ### The reset in its stages -/

/-- Dispatch is held, the ready state settled and the crossings flushed. -/
def State.computeHeld (s : State) : State :=
  (({ s with resetting := true, dispatchHeld := true } : State).settle.bump (rk .CK_COMPUTE_RESETS)).flushed 3 devHandle

/-- What the descriptors that ended had in hand, dropped. -/
def State.workDropped (s : State) : State :=
  { s with
    rounds := [], acc := [], accErr := [], reruns := [], grp := [], jets := [], engines := [], stallDue := [], haloQ := []
    grids := s.grids.map fun e => (e.1, { e.2 with claim := none }) }

/-- HL_PENDING of every terrace at 0. -/
def State.pendingShown (s : State) : State := (List.range 35).foldl (fun s t => s.show (rk .HL_PENDING 0 t) 0) s

/-- The tokens, then the status of jets and engines, cleared. -/
def State.unitsCleared (s : State) : State :=
  (List.range 280).foldl State.computeEngine ((List.range 595).foldl State.computeJet ((List.range 140).foldl State.computeBasin s))

/-- The stages after the descriptors have ended, over any state. -/
def State.afterCancel (s : State) : State :=
  let s := { s with
    rounds := [], acc := [], accErr := [], reruns := [], grp := [], jets := [], engines := [], stallDue := [], haloQ := []
    grids := s.grids.map fun e => (e.1, { e.2 with claim := none }) }
  let s := (List.range 35).foldl (fun s t => s.show (rk .HL_PENDING 0 t) 0) s
  let s := (List.range 140).foldl State.computeBasin s
  let s := (List.range 595).foldl State.computeJet s
  ((List.range 280).foldl State.computeEngine s).clearInternal

theorem afterCancel_eq (s : State) : s.afterCancel = s.workDropped.pendingShown.unitsCleared.clearInternal := rfl

theorem computeReset_eq (s : State) : s.computeReset = s.computeHeld.cancelAll.workDropped.pendingShown.unitsCleared.clearInternal := by
  rw [← afterCancel_eq]
  unfold State.computeReset State.afterCancel State.computeHeld State.cancelAll State.cancelLive
  rfl

theorem shows_pendingShown (s : State) : Shows [.HL_PENDING] s s.pendingShown := Shows.foldl _ _ s fun t _ => shows_show t (by decide) ..

theorem shows_unitsCleared (s : State) : Shows [.BS_SLOT, .JT_STATUS, .SE_STATUS] s s.unitsCleared :=
  ((Shows.foldl State.computeBasin _ s fun t u => (shows_computeBasin t u).mono (by decide)).trans
    (Shows.foldl State.computeJet _ _ fun t u => (shows_computeJet t u).mono (by decide))).trans
    (Shows.foldl State.computeEngine _ _ fun t u => (shows_computeEngine t u).mono (by decide))

theorem unitsCleared_slot (s : State) (u n : Nat) (lo w : Nat) : s.unitsCleared.fld (rk .BS_SLOT u n) lo w =
    ((List.range 140).foldl State.computeBasin s).fld (rk .BS_SLOT u n) lo w :=
  ((Shows.foldl State.computeEngine _ _ shows_computeEngine).fld (by simp only [rk]; decide) lo w).trans
    ((Shows.foldl State.computeJet _ _ shows_computeJet).fld (by simp only [rk]; decide) lo w)

section
variable (s : State)

theorem computeHeld_field {α : Type} (f : State → α) (hf : ∀ x : State, f x.core = f x := by intro; rfl)
    (hr : ∀ (n : Nat) (t x : State), f { t with draws := n, regs := x.regs } = f t := by intro _ _ _; rfl) :
    f s.computeHeld = f { s with resetting := true, dispatchHeld := true } := by
  have counted (t : State) (k : RegKey) (m : Nat) : f (t.bump k m) = f t := hr t.draws t (t.bump k m)
  exact ((flushed_field _ 3 devHandle f hf (fun n => hr n _ _) fun n x => hr n _ x).trans (counted ..)).trans
    ((settles_settle _).field f hf)

/-- A field that no stage but the first can change. -/
theorem computeReset_field {α : Type} (f : State → α) (hu : ∀ x : State, f x.unringed = f x := by intro; rfl)
    (hd : ∀ x : State, f x.workDropped = f x := by intro; rfl) (hr : ∀ t x : State, f { t with regs := x.regs } = f t := by intro _ _; rfl)
    (hc : ∀ x : State, f x.clearInternal = f x := by intro; rfl) : f s.computeReset = f s.computeHeld := by
  have cancelled : f s.computeHeld.cancelAll = f s.computeHeld := by rw [← hu, unringed_cancelAll, hu]
  rw [computeReset_eq, hc, (shows_unitsCleared _).eq, hr, (shows_pendingShown _).eq, hr, hd, cancelled]

/-- A field that the reset leaves altogether. -/
theorem computeReset_keeps {α : Type} (f : State → α) (hf : ∀ x : State, f x.core = f x := by intro; rfl)
    (hu : ∀ x : State, f x.unringed = f x := by intro; rfl) (hd : ∀ x : State, f x.workDropped = f x := by intro; rfl)
    (hr : ∀ (n : Nat) (t x : State), f { t with draws := n, regs := x.regs } = f t := by intro _ _ _; rfl)
    (hc : ∀ x : State, f x.clearInternal = f x := by intro; rfl)
    (hh : f { s with resetting := true, dispatchHeld := true } = f s := by rfl) : f s.computeReset = f s :=
  (computeReset_field s f hu hd (fun t x => hr t.draws t x) hc).trans ((computeHeld_field s f hf hr).trans hh)

/-- What the reset drops stays dropped. -/
theorem computeReset_dropped {α : Type} (f : State → α) (hr : ∀ t x : State, f { t with regs := x.regs } = f t := by intro _ _; rfl)
    (hc : ∀ x : State, f x.clearInternal = f x := by intro; rfl) :
    f s.computeReset = f s.computeHeld.cancelAll.workDropped := by
  rw [computeReset_eq, hc, (shows_unitsCleared _).eq, hr, (shows_pendingShown _).eq, hr]

theorem computeReset_allocs (plain : s.plainEvents) : s.computeReset.allocs = s.allocs := by
  have held : s.computeHeld.allocs = s.allocs := by
    have settled := settles_settle ({ s with resetting := true, dispatchHeld := true } : State)
    obtain ⟨still, -⟩ := settled.plain plain
    refine (flushed_plainField _ 3 devHandle ?_ State.allocs).trans (settled.plainField plain State.allocs :)
    exact still
  exact (computeReset_field s State.allocs).trans held

theorem clearInternal_fld (s : State) (k : RegKey) (lo w : Nat) : s.clearInternal.fld k lo w = s.fld k lo w := rfl

theorem computeReset_slot (u n : Nat) (lo w : Nat) : s.computeReset.fld (rk .BS_SLOT u n) lo w =
    ((List.range 140).foldl State.computeBasin s.computeHeld.cancelAll.workDropped.pendingShown).fld (rk .BS_SLOT u n) lo w := by
  rw [computeReset_eq, clearInternal_fld, unitsCleared_slot]

theorem computeReset_low (u : Nat) {n : Nat} (own : n < 48) : s.computeReset.fld (rk .BS_SLOT u n) 0 32 = s.fld (rk .BS_SLOT u n) 0 32 := by
  have held : s.computeHeld.reg (rk .BS_SLOT u n) = s.reg (rk .BS_SLOT u n) :=
    (flushed_reg _ 3 devHandle (by simp only [rk]; decide)).trans
      ((State.reg_setReg_other _ _ (by simp [rk])).trans ((settles_settle _).reg _ (by simp only [rk]; decide)))
  rw [computeReset_slot, computeBasins_low own, (shows_pendingShown _).fld (by simp only [rk]; decide)]
  exact (cancelAll_low _ rfl).trans (congrArg (fun w : Word => bitsOf w.toNat 0 32) held)

theorem computeReset_internal (q x : Nat) (small : q < 140) (low : 0x6C0000 ≤ x) (high : x < 0x700000) :
    Mem.get s.computeReset.dev (poolBase q + x) = memDefault := by
  rw [computeReset_eq, State.clearInternal, Mem.get_filter _ fun a => !(decide (poolBase 0 ≤ a) && decide (a < poolBase 140) &&
    decide (0x6C0000 ≤ a % 0x800000) && decide (a % 0x800000 < 0x700000))]
  have inside : poolBase 0 ≤ poolBase q + x ∧ poolBase q + x < poolBase 140 ∧ (poolBase q + x) % 0x800000 = x := by
    unfold poolBase
    omega
  obtain ⟨above, below, place⟩ := inside
  exact if_neg (by simp [above, below, place, low, high])

end

/-- Readiness of terraces and basins ends while units are being reset. -/
theorem isReady_of_resetting {s : State} (resetting : s.resetting = true) {i : Nat} (low : 128 ≤ i) (high : i < 332) : s.isReady i = false := by
  have terrace (t : Nat) : s.terraceReady t = false := by simp [State.terraceReady, resetting]
  have basin (q : Nat) : s.basinReady q = false := by simp [State.basinReady, terrace]
  unfold State.isReady
  rw [if_neg (by omega), if_neg (by omega), if_neg (by omega), if_neg (by omega), if_neg (by omega), if_neg (by omega),
    if_neg (by omega), if_neg (by omega), if_neg (by omega), if_neg (by omega), if_neg (by omega), terrace, basin]
  split
  · rfl
  · split
    · rfl
    · exact if_neg (by omega)

end Sys2Proof.Machine

open Sys2Proof.Machine in
/-- Settles O39: the reset by its stages, each of which touches its own part. -/
theorem computeResetCancelsAndKeepsTheRest : Obligations.ComputeResetCancelsAndKeepsTheRest := by
  refine ⟨fun v s powered locked confirm kind => ?_, fun v s wrong => ?_, fun s resetting idle => ?_⟩
  · have run : exec (.computeReset v) s = .next s.computeReset := by
      rw [exec_computeReset, execComputeReset, powered, locked, resetKind, if_pos confirm, kind]
      rfl
    have heldJobs : s.computeHeld.jobs = s.jobs := computeHeld_field s State.jobs
    have jobs : s.computeReset.jobs = s.computeHeld.cancelAll.jobs := computeReset_dropped s State.jobs
    have ongoing : s.computeReset.resetting = true := (computeReset_field s State.resetting).trans (computeHeld_field s State.resetting)
    refine ⟨_, run, ongoing, (computeReset_field s State.dispatchHeld).trans (computeHeld_field s State.dispatchHeld), fun j mem => ?_,
      fun j mem live => ?_, computeReset_dropped s State.rounds, computeReset_dropped s State.acc, computeReset_dropped s State.grp,
      computeReset_dropped s State.jets, computeReset_dropped s State.engines, computeReset_dropped s State.haloQ,
      fun i low high => isReady_of_resetting ongoing low high, fun u here n own => ⟨?_, computeReset_low s u own⟩,
      fun q small x low high => computeReset_internal s q x small low high, ?_, computeReset_allocs s, computeReset_keeps s State.plans,
      computeReset_keeps s State.profiles, computeReset_keeps s State.feat, computeReset_keeps s State.mbox, computeReset_keeps s State.flows,
      computeReset_keeps s State.casc⟩
    · exact done_cancelAll _ j (jobs ▸ mem)
    · obtain ⟨k, mem, own, done, status⟩ := cancelled_cancelAll (heldJobs ▸ mem) live
      exact ⟨k, jobs ▸ mem, own, done, status⟩
    · rw [computeReset_slot]
      exact computeBasins_token own _ here
    · exact (computeReset_dropped s State.rings).trans ((rings_cancelAll _).trans (computeHeld_field s State.rings))
  · rw [exec_computeReset, execComputeReset]
    refine if_neg ?_
    rw [resetKind]
    split
    · next confirm => simp [wrong.resolve_left (not_not.2 confirm)]
    · simp
  · have still : (({ s with resetting := false, dispatchHeld := s.snapshotBegun } : State).settle.resetDone 3).gop = none :=
      ((settles_settle _).trans (settles_resetDone _ 3)).field State.gop |>.trans idle
    rw [exec_computeResetDone, execComputeResetDone, resetting]
    dsimp only
    rw [if_neg (by decide), still]

end


section
/-! PROOFS. What events and a reset of the die leave (14_rings_and_mailboxes.md, 17_clocks_resets_bringup.md). -/

namespace Sys2Proof.Machine

/-! ### What no event touches, wherever its ring lies -/

/-- A state without what raising an event can change. -/
def State.eventless (s : State) : State :=
  { s with
    regs := [], dev := [], host := [], hostWait := [], poolErr := [], dramErr := [], allocs := [], dieLog := [], flashPend := [], evSeq := 0
    evRing := none, evLost := 0, linkOut := [], ports := [], draws := 0, life := { s.life with dramWritten := [] } }

theorem eventless_send (s : State) (p : Post) : (s.send p).eventless = s.eventless := by
  unfold State.send
  split
  · cases p with
    | write a bs => rfl
    | vector v =>
      unfold State.post
      dsimp only
      split
      · rfl
      · split <;> rfl
  · rfl

theorem eventless_sendLink (s : State) (m : LinkMsg) (op : Nat) : (s.sendLink m op).eventless = s.eventless := by
  unfold State.sendLink State.sendAs
  split
  · rfl
  · dsimp only
    split <;> rfl

theorem eventless_dropLatch (s : State) (q x c w : Nat) : (s.dropLatch q x c w).1.eventless = s.eventless := by
  unfold State.dropLatch
  dsimp only
  split <;> rfl

theorem eventless_unmappedLatch (s : State) (a : Nat) : (s.unmappedLatch a).1.eventless = s.eventless := by
  unfold State.unmappedLatch
  dsimp only
  split <;> rfl

theorem eventless_wholeWord (s : State) (q x : Nat) : (s.wholeWord q x).eventless = s.eventless := by
  unfold State.wholeWord
  dsimp only
  split <;> rfl

theorem eventless_recordRequest (s : State) (q x : Nat) (bs : List Byte) : (s.recordRequest q x bs).1.eventless = s.eventless := by
  unfold State.recordRequest
  split
  · exact List.foldlRecOn (motive := fun t : State => t.eventless = s.eventless) _ _ rfl
      fun t same p _ => (eventless_wholeWord t q p.1).trans same
  · exact eventless_dropLatch ..

theorem eventless_spillStore (s : State) (m x : Nat) (bs : List Byte) (op : Nat) : (s.spillStore m x bs op).eventless = s.eventless := by
  unfold State.spillStore
  exact (eventless_sendLink ..).trans rfl

theorem eventless_stackStore (s : State) (st x : Nat) (bs : List Byte) : (s.stackStore st x bs).eventless = s.eventless := by
  unfold State.stackStore
  rfl

theorem eventless_recordStore (s : State) (p : Place) (o : Nat) (bs : List Byte) : (s.recordStore p o bs).1.eventless = s.eventless := by
  unfold State.recordStore
  dsimp only
  split
  · exact eventless_send ..
  · split
    case h_1 => exact eventless_unmappedLatch ..
    case h_2 => exact eventless_recordRequest ..
    case h_3 l st _ => exact Eq.trans rfl (eventless_stackStore (s.used ((p.base + o) % 2 ^ 47)) st l bs)
    case h_4 => exact (eventless_send ..).trans rfl
    case h_5 => exact eventless_sendLink ..
    case h_6 =>
      split
      · exact (eventless_spillStore ..).trans rfl
      · rfl
    case h_7 => rfl

theorem eventless_raiseN (fuel : Nat) (s : State) (c u : Nat) (p : List Byte) : (s.raiseN fuel c u p).eventless = s.eventless := by
  induction fuel generalizing s c u p with
  | zero => rfl
  | succ n ih =>
    have logged : (s.logEvent c u p).eventless = s.eventless := rfl
    unfold State.raiseN
    dsimp only
    generalize s.logEvent c u p = x at logged ⊢
    split
    · exact logged
    · split
      · exact logged
      · next r _ =>
        split
        · have written (t : State) (bs : List Byte) (o : Nat) (counted : t.eventless = s.eventless) :
              ((t.recordStore r.place o bs).1.send (.vector 2047)).eventless = s.eventless :=
            (eventless_send ..).trans ((eventless_recordStore ..).trans counted)
          split
          · exact (ih ..).trans (written _ _ _ (Eq.trans rfl logged))
          · exact written _ _ _ (Eq.trans rfl logged)
        · exact Eq.trans rfl logged

theorem raise_field (s : State) (c u : Nat) (p : List Byte) {α : Type} (f : State → α) (hf : ∀ x : State, f x.eventless = f x := by intro; rfl) :
    f (s.raise c u p) = f s := by
  rw [← hf, State.raise, eventless_raiseN, hf]

/-! ### A save of the lifetime record -/

/-- A state without what a save, its block's erase and their event can change, but for the record. -/
def State.saveless (s : State) : State :=
  { s.eventless with blockErases := [], worn := [], copies := [], cursors := [] }

theorem saveless_eraseBlock (s : State) (b : Nat) : (s.eraseBlock b).saveless = s.saveless := by
  have through (t : State) : t.saveless = t.eventless.saveless := rfl
  unfold State.eraseBlock
  dsimp only
  split
  · rw [through, State.raise, eventless_raiseN]
    rfl
  · rfl

theorem saveless_freshBlock (s : State) (base n fuel cur : Nat) : (s.freshBlock base n fuel cur).1.saveless = s.saveless := by
  induction fuel generalizing s cur with
  | zero => rfl
  | succ m ih =>
    unfold State.freshBlock
    split
    · rfl
    · dsimp only
      split
      · exact (ih ..).trans (saveless_eraseBlock ..)
      · exact saveless_eraseBlock ..

/-- A save changes the record's count of saves and its last time of day alone. -/
theorem saveless_lifeSave (s : State) : ∃ n tod, s.lifeSave.saveless =
    { s.saveless with life := { s.saveless.life with saves := n, lastTod := tod } } := by
  have block := saveless_freshBlock s 256 64 64 (Tab.getD s.cursors curRecord 0)
  unfold State.lifeSave
  split
  · next t eq =>
    rw [eq] at block
    exact ⟨s.saveless.life.saves, s.saveless.life.lastTod, block⟩
  · next t b eq =>
    rw [eq] at block
    refine ⟨satAdd 32 t.life.saves 1, if t.timeSet then t.now else t.life.lastTod, ?_⟩
    rw [← block]
    rfl

theorem lifeSave_field (s : State) {α : Type} (f : State → α)
    (hf : ∀ x : State, f x.saveless = f x := by intro; rfl)
    (hl : ∀ (x : State) (l : Life), f { x with life := l } = f x := by intro _ _; rfl) : f s.lifeSave = f s := by
  obtain ⟨n, tod, save⟩ := saveless_lifeSave s
  rw [← hf, save, hl, hf]

theorem lifeSave_deviceResets (s : State) : s.lifeSave.life.deviceResets = s.life.deviceResets := by
  obtain ⟨n, tod, save⟩ := saveless_lifeSave s
  exact (congrArg (fun t : State => t.life.deviceResets) save :)

/-! ### Registers that a save can change -/

/-- The registers in which a save leaves a mark. -/
def saveRegs : List RegName := [.NB_FLASH_ERASES, .NB_LIFETIME_SAVES] ++ eventRegs

section
variable {k : RegKey} (out : k.name ∉ saveRegs)
include out

theorem eraseBlock_reg (s : State) (b : Nat) : (s.eraseBlock b).reg k = s.reg k := by
  have counted : (s.bump (rk .NB_FLASH_ERASES)).reg k = s.reg k :=
    State.reg_setReg_other _ _ fun same => out (by rw [same]; decide)
  unfold State.eraseBlock
  dsimp only
  split
  · exact (State.raise_reg (fun mem => out (List.mem_append_right _ mem)) ..).trans counted
  · exact counted

theorem freshBlock_reg (s : State) (base n fuel cur : Nat) : (s.freshBlock base n fuel cur).1.reg k = s.reg k := by
  induction fuel generalizing s cur with
  | zero => rfl
  | succ m ih =>
    unfold State.freshBlock
    split
    · rfl
    · dsimp only
      split
      · exact (ih ..).trans (eraseBlock_reg out ..)
      · exact eraseBlock_reg out ..

theorem lifeSave_reg (s : State) : s.lifeSave.reg k = s.reg k := by
  have block := freshBlock_reg out s 256 64 64 (Tab.getD s.cursors curRecord 0)
  unfold State.lifeSave
  split
  · next t eq =>
    rw [eq] at block
    exact block
  · next t b eq =>
    rw [eq] at block
    exact (State.reg_setReg_other t _ fun same => out (by rw [same]; decide)).trans block

end

/-! ### A reset of the die -/

/-- What a reset of the die keeps, before anything is shown. -/
def State.dieKept (s : State) (up : List Nat) : State :=
  { State.reset with
    pending := s.pending, tk := s.tk, nextJid := s.nextJid, regs := s.regs.filter fun e => keptReg e.1, host := s.host, site := s.site
    mbox := s.mbox.filter fun c => decide (56 * 4096 ≤ c.1), mbReq := s.mbReq.filter fun c => decide (56 * 4096 ≤ c.1)
    mbGone := s.mbGone.filter fun mb => decide (56 ≤ mb), mbMark := s.mbMark.filter fun e => decide (56 ≤ e.1)
    mbRun := s.mbRun.filter fun e => decide (56 ≤ e.1 % 1000), up := up, readData := s.readData
    cursors := s.cursors.filter fun e => decide (curRecord ≤ e.1), holders := s.holders.filter fun e => e.2 = 2 || e.2 = 5
    uCut := s.uCut, pwrAlert := s.pwrAlert, perst := s.perst, tripped := s.tripped, switchOpen := s.switchOpen, powerGood := s.powerGood
    snapshotBegun := s.snapshotBegun, dispatchHeld := s.snapshotBegun, overSample := s.overSample, tripNow := s.tripNow
    tripStays := s.tripStays, lastVolt := s.lastVolt, bistWave := 2 ^ min (s.fld (rk .CK_BRINGUP_CFG) 0 2) 2, upSince := s.tk
    dieLog := s.dieLog, flashPend := s.flashPend, flashLog := s.flashLog, blockErases := s.blockErases, worn := s.worn, life := s.life
    copies := s.copies, sensors := s.sensors, slotA := s.slotA, slotB := s.slotB, staged := s.staged, trialRun := s.trialRun, fuse := s.fuse
    cold := s.cold, readyAt := s.tk, bar4 := s.debugOn, draws := s.draws }

/-- The registers that show what a reset of the die leaves. -/
def dieRegs : List RegName :=
  readyWords.map Prod.fst ++ [.DM_STATUS, .MB_COMPLETED, .MB_PENDING, .CK_BRINGUP_STATUS, .NB_STATUS, .TR_COLUMN_SPARES, .JT_ID, .JT_STATUS,
    .SE_ID, .SE_STATUS, .BS_ID, .PL_TERRACE_HOME, .TR_RESERVE]

/-- What showing the repair map can change beside registers. -/
structure Maps (s t : State) : Prop where
  reg : ∀ k : RegKey, k.name ∉ dieRegs → t.reg k = s.reg k
  eq : t = { s with
    regs := t.regs, lmap := t.lmap, jmap := t.jmap, emap := t.emap, spareCols := t.spareCols, suspects := t.suspects, failing := t.failing
    holders := t.holders }

theorem Maps.refl (s : State) : Maps s s := ⟨fun _ _ => rfl, rfl⟩

theorem Maps.trans {s t u : State} (st : Maps s t) (tu : Maps t u) : Maps s u where
  reg k out := (tu.reg k out).trans (st.reg k out)
  eq := by rw [tu.eq, st.eq]

theorem Maps.foldl {α : Type} (f : State → α → State) (l : List α) (s : State) (step : ∀ s x, Maps s (f s x)) : Maps s (l.foldl f s) :=
  List.foldlRecOn l f (Maps.refl s) fun t same x _ => same.trans (step t x)

theorem Shows.maps {s t : State} (same : Shows dieRegs s t) : Maps s t := ⟨same.reg, same.eq.trans (by rw [same.eq])⟩

theorem maps_setHolder (s : State) (r h : Nat) : Maps s (s.setHolder r h) := by
  have table : Maps s { s with holders := if h = 0 then Tab.del s.holders r else Tab.put s.holders r h } := ⟨fun _ _ => rfl, rfl⟩
  unfold State.setHolder
  dsimp only
  split
  · exact ((table.trans (shows_setFld _ (by decide) ..).maps).trans (shows_setFld _ (by decide) ..).maps).trans
      (shows_setFld _ (by decide) ..).maps
  · exact table

theorem shows_showColumns (s : State) (u : Nat) : Shows dieRegs s (s.showColumns u) :=
  shows_ite (.refl s) ((shows_setFld s (by decide) ..).trans (shows_setFld _ (by decide) ..))

theorem shows_showIds (s : State) (p : Nat) : Shows dieRegs s (s.showIds p) := by
  unfold State.showIds
  extract_lets t a b c d
  have jets : Shows dieRegs s a :=
    Shows.foldl _ _ s fun t i => (shows_show t (by decide) ..).trans (shows_ite (shows_setFld _ (by decide) ..) (.refl _))
  have engines : Shows dieRegs a b :=
    Shows.foldl _ _ a fun t i => (shows_show t (by decide) ..).trans (shows_ite (shows_setFld _ (by decide) ..) (.refl _))
  have basins : Shows dieRegs b c := Shows.foldl _ _ b fun t i => shows_show t (by decide) ..
  have homes : Shows dieRegs c d := shows_show c (by decide) ..
  refine ((jets.trans engines).trans (basins.trans homes)).trans ?_
  split
  · exact shows_setFld d (by decide) ..
  · exact .refl d

theorem maps_applyMap (s : State) : Maps s s.applyMap := by
  unfold State.applyMap
  extract_lets a b c d e
  have ha : Maps s a := ⟨fun _ _ => rfl, rfl⟩
  have hb : Maps a b := Maps.foldl _ _ a fun t e => (shows_setFld t (by decide) ..).maps
  have hc : Maps b c := Maps.foldl _ _ b fun t st => (shows_ite (shows_setFld t (by decide) ..) (.refl t)).maps
  have hd : Maps c d := Maps.foldl _ _ c fun t e => by
    split
    · exact .refl t
    · exact maps_setHolder ..
  have he : Maps d e := Maps.foldl _ _ d fun t u => (shows_showColumns t u).maps
  exact ((((ha.trans hb).trans hc).trans hd).trans he).trans (Maps.foldl _ _ e fun t p => (shows_showIds t p).maps)

theorem shows_quietReady (s : State) : Shows dieRegs s s.quietReady := by
  have words : Shows dieRegs s (readyWords.foldl (fun s x => s.show (rk x.1) (s.readyWord x.2.1 x.2.2)) s) := by
    refine List.foldlRecOn readyWords _ (Shows.refl s) fun t same x mem => same.trans (shows_show t ?_ ..)
    exact List.mem_append_left _ (List.mem_map_of_mem mem)
  exact words.trans (shows_setFld _ (by decide) ..)

theorem maps_dieReset (s : State) (up : List Nat) : Maps (s.dieKept up) (s.dieReset up) := by
  unfold State.dieReset
  extract_lets spares done busy wave _ r r1 r2 r3 r4
  have h0 : r = s.dieKept up := rfl
  have h1 : Maps r r1 := Maps.foldl _ _ r fun t e => (shows_ite (.refl t) (shows_setFld t (by decide) ..)).maps
  have h2 : Maps r1 r2 := (shows_ite (.refl r1) (shows_setFld r1 (by decide) ..)).maps
  have h3 : Maps r2 r3 := (shows_ite (.refl r2) (shows_setFld r2 (by decide) ..)).maps
  have h4 : Maps r3 r4 := (shows_setFld r3 (by decide) ..).maps
  exact h0 ▸ ((((h1.trans h2).trans h3).trans h4).trans (maps_applyMap _)).trans (shows_quietReady _).maps

/-- A register that shows nothing of the reset keeps its value where Nimbus holds it. -/
theorem dieReset_reg_kept (s : State) (up : List Nat) {k : RegKey} (out : k.name ∉ dieRegs) (kept : keptReg k = true) :
    (s.dieReset up).reg k = s.reg k :=
  ((maps_dieReset s up).reg k out).trans (congrArg (·.getD (resetWord k)) (regFind_filter s.regs keptReg k kept))

/-- A register that shows nothing of the reset has its reset value where Nimbus does not hold it. -/
theorem dieReset_reg_cleared (s : State) (up : List Nat) {k : RegKey} (out : k.name ∉ dieRegs) (gone : keptReg k = false) :
    (s.dieReset up).reg k = resetWord k :=
  ((maps_dieReset s up).reg k out).trans (congrArg (·.getD (resetWord k)) (regFind_filter_out s.regs keptReg gone))

/-- A field that the repair map does not bear on. -/
theorem Maps.field {s t : State} (same : Maps s t) {α : Type} (f : State → α) (hf : ∀ x : State, f { s with
    regs := x.regs, lmap := x.lmap, jmap := x.jmap, emap := x.emap, spareCols := x.spareCols, suspects := x.suspects, failing := x.failing
    holders := x.holders } = f s := by intro; rfl) : f t = f s := by
  rw [same.eq]
  exact hf t

theorem dieReset_field (s : State) (up : List Nat) {α : Type} (f : State → α) (hf : ∀ x : State, f { s.dieKept up with
    regs := x.regs, lmap := x.lmap, jmap := x.jmap, emap := x.emap, spareCols := x.spareCols, suspects := x.suspects, failing := x.failing
    holders := x.holders } = f (s.dieKept up) := by intro; rfl) : f (s.dieReset up) = f (s.dieKept up) :=
  (maps_dieReset s up).field f hf

end Sys2Proof.Machine
end


section
/-! PROOFS. Device resets (17_clocks_resets_bringup.md). -/

namespace Sys2Proof.Machine

/-! ### What sets a reset off -/

theorem hottest_perst (s : State) (b : Bool) (i n : Nat) : ({ s with perst := b } : State).hottest i n = s.hottest i n := rfl

/-- A trip of a module that has cooled does not stand. -/
theorem not_cooled {s : State} (warm : s.tripped = false ∨ 680 ≤ s.hottest 0 70) :
    ¬ (({ s with perst := true } : State).tripped = true ∧ ({ s with perst := true } : State).hottest 0 70 < 680) := by
  rw [hottest_perst]
  rintro ⟨trip, cool⟩
  rcases warm with off | hot
  · exact Bool.false_ne_true (off.symm.trans trip)
  · exact absurd cool (not_lt.2 hot)

theorem exec_hstPerstLAssert_warm {s : State} (warm : s.tripped = false ∨ 680 ≤ s.hottest 0 70) :
    exec .hstPerstLAssert s = if s.powerGood then .next ({ s with perst := true }.deviceReset 1) else .next { s with perst := true } := by
  rw [exec_hstPerstLAssert, execHstPerstLAssert]
  exact if_neg (not_cooled warm)

theorem exec_deviceReset_kind (v : BitVec 32) (s : State) : exec (.deviceReset v) s =
    .next (if s.powerGood = true ∧ bitsOf v.toNat 8 8 = 0xA5 ∧ bitsOf v.toNat 0 2 = 2 then s.deviceReset 6 else s) := by
  have kind : resetKind v = 2 ↔ bitsOf v.toNat 8 8 = 0xA5 ∧ bitsOf v.toNat 0 2 = 2 := by
    unfold resetKind
    split
    · next confirm => simp [confirm]
    · next wrong => simp [wrong]
  rw [exec_deviceReset, execDeviceReset]
  simp only [kind]
  split <;> rfl

/-! ### The reset in its stages -/

/-- The reset latched: its cause, its count, and the clock's state. -/
def State.resetLatched (s : State) (cause : Nat) : State :=
  let s := (s.setFld (rk .SC_STATUS) 1 1 (flagNat s.debugOn)).setFld (rk .CK_RESET_CAUSE) 0 3 cause
  let s := s.bump (rk .CK_DEVICE_RESETS)
  let s := if cause = 4 then s.setFld (rk .CK_STATUS) 0 1 0 else s
  { s.setFld (rk .CK_STATUS) 1 1 (flagNat (s.bit (rk .CK_STATUS) 0)) with life := { s.life with deviceResets := satAdd 32 s.life.deviceResets 1 } }

/-- The registers of a latched reset. -/
def latchRegs : List RegName := [.SC_STATUS, .CK_RESET_CAUSE, .CK_DEVICE_RESETS, .CK_STATUS]

theorem resetLatched_eq (s : State) (cause : Nat) : s.resetLatched cause =
    { s with regs := (s.resetLatched cause).regs, life := { s.life with deviceResets := satAdd 32 s.life.deviceResets 1 } } := by
  unfold State.resetLatched
  dsimp only
  split <;> rfl

/-- The state before the die is reset: a save first where the reset is Nimbus's own to order or a fault. -/
def State.beforeReset (s : State) (cause : Nat) : State := (if 3 ≤ cause ∧ cause ≤ 5 then s.lifeSave else s).resetLatched cause

/-- The die reset and the shares shown. -/
def State.dieFresh (s : State) : State := (s.dieReset (s.up.filter fun i => i = 0 || i = 9)).showShares

/-- A trial not yet run begins, or a boot that cannot go on stops, and the ready words follow. -/
def State.rebooted (s : State) : State := s.bootTrial.recover.quietReady

/-- The stages from the reset of the die on. -/
def State.afterLatch (s : State) (cause : Nat) : State :=
  let s := (s.dieReset (if cause = 3 then [] else s.up.filter fun i => i = 0 || i = 9)).showShares
  let s := if cause = 3 then (s.endNimbus.setFld (rk .NB_STATUS) 2 1 0).setFld (rk .NB_STATUS) 1 1 0 else s.bootTrial.recover.quietReady
  let s := s.flushed 1 devHandle
  if cause = 1 ∨ cause = 3 then s else s.resetDone 1

theorem deviceReset_eq_afterLatch (s : State) (cause : Nat) : s.deviceReset cause = (s.beforeReset cause).afterLatch cause := by
  unfold State.deviceReset State.afterLatch State.beforeReset State.resetLatched
  rfl

theorem deviceReset_eq (s : State) {cause : Nat} (other : cause ≠ 3) : s.deviceReset cause =
    if cause = 1 then (s.beforeReset cause).dieFresh.rebooted.flushed 1 devHandle
    else ((s.beforeReset cause).dieFresh.rebooted.flushed 1 devHandle).resetDone 1 := by
  rw [deviceReset_eq_afterLatch, State.afterLatch]
  simp only [if_neg other, or_iff_left other]
  rfl

/-! ### What the boot after a reset can change -/

/-- A state without what its boot and its events can change. -/
def State.bootless (s : State) : State :=
  { s.tidy with trialRun := false, staged := none, slotA := none, slotB := none, draws := 0 }

/-- The registers in which a boot shows. -/
def bootRegs : List RegName := .SC_STATUS :: .SC_UNLOCKS :: .CK_CDC_FLUSHED :: dieRegs ++ eventRegs

/-- What a boot leaves of a state without an event ring. -/
structure Boots (s t : State) : Prop where
  reg : ∀ k : RegKey, k.name ∉ bootRegs → t.reg k = s.reg k
  lock : t.debugOn = s.debugOn
  ring : t.evRing = none
  rest : t.bootless = s.bootless
  asleep : s.own 1 = false → t.own 1 = false

theorem Boots.refl {s : State} (mute : s.evRing = none) : Boots s s := ⟨fun _ _ => rfl, rfl, mute, rfl, id⟩

theorem Boots.trans {s t u : State} (st : Boots s t) (tu : Boots t u) : Boots s u :=
  ⟨fun k out => (tu.reg k out).trans (st.reg k out), tu.lock.trans st.lock, tu.ring, tu.rest.trans st.rest, tu.asleep ∘ st.asleep⟩

/-- A register set other than the lock. -/
theorem boots_shows {ks : List RegName} {s t : State} (same : Shows ks s t) (mute : s.evRing = none) (sub : ks ⊆ bootRegs)
    (apart : RegName.SC_STATUS ∉ ks) : Boots s t where
  reg k out := same.reg k fun mem => out (sub mem)
  lock := congrArg (fun w : Word => decide (bitsOf w.toNat 0 1 = 1)) (same.reg (rk .SC_STATUS) apart)
  ring := (congrArg State.evRing same.eq).trans mute
  rest := by rw [same.eq]; rfl
  asleep h := (congrArg (fun x : State => x.own 1) same.eq).trans h

theorem boots_setSc {s : State} (mute : s.evRing = none) (lo w x : Nat) (apart : 1 ≤ lo) (fits : lo + w ≤ 64) :
    Boots s (s.setFld (rk .SC_STATUS) lo w x) where
  reg k out := State.reg_setFld_other s _ _ _ fun same => out (by rw [same]; decide)
  lock := bit_setFld_apart s (rk .SC_STATUS) lo w x 0 fits (.inl apart)
  ring := mute
  rest := rfl
  asleep := id

theorem boots_raise {s : State} (mute : s.evRing = none) (c u : Nat) (p : List Byte) : Boots s (s.raise c u p) := by
  rw [raise_logged_only (.inl mute)]
  exact ⟨fun k out => State.logEvent_reg (fun mem => out (List.mem_append_right _ mem)) s c u p,
    congrArg (fun w : Word => decide (bitsOf w.toNat 0 1 = 1)) (State.logEvent_reg (k := rk .SC_STATUS) (by decide) s c u p), mute, rfl, id⟩

/-- Settings of the boot itself. -/
theorem boots_of_eq {s t : State} (mute : s.evRing = none)
    (same : t = { s with trialRun := t.trialRun, staged := t.staged, slotA := t.slotA, slotB := t.slotB, draws := t.draws, up := t.up })
    (asleep : s.own 1 = false → t.own 1 = false) : Boots s t := by
  rw [same] at asleep ⊢
  exact ⟨fun _ _ => rfl, rfl, mute, rfl, asleep⟩

theorem boots_showSc {s : State} (mute : s.evRing = none) : Boots s s.showSc := by
  unfold State.showSc
  extract_lets k a b
  have ha : Boots s a := (boots_setSc mute 4 1 _ (by decide) (by decide)).trans
    (boots_setSc (s := s.setFld k 4 1 (flagNat (s.bootable false))) mute 5 1 _ (by decide) (by decide))
  have hb : Boots a b := (boots_setSc ha.ring 13 7 _ (by decide) (by decide)).trans
    (boots_setSc (s := a.setFld k 13 7 (a.slotLevel false)) ha.ring 20 7 _ (by decide) (by decide))
  have shown : Shows [.SC_UNLOCKS] b (b.setReg (rk .SC_UNLOCKS) (BitVec.ofNat 64 b.life.unlocks)) := shows_setReg b (by decide) ..
  exact (ha.trans hb).trans (boots_shows shown hb.ring (by decide) (by decide))

theorem boots_rollback {s : State} (mute : s.evRing = none) (reason : Nat) : Boots s (s.rollback reason) := by
  unfold State.rollback State.setSlot
  extract_lets b a
  have given : Boots s { s with trialRun := false, staged := none } := boots_of_eq mute rfl id
  have trial := given.trans (boots_setSc given.ring 3 1 0 (by decide) (by decide))
  have slot : Boots s (if b then { (({ s with trialRun := false, staged := none } : State).setFld (rk .SC_STATUS) 3 1 0) with slotB := none }
      else { (({ s with trialRun := false, staged := none } : State).setFld (rk .SC_STATUS) 3 1 0) with slotA := none }) := by
    split
    · exact trial.trans (boots_of_eq trial.ring rfl id)
    · exact trial.trans (boots_of_eq trial.ring rfl id)
  have shown := slot.trans (boots_showSc slot.ring)
  exact shown.trans (boots_raise shown.ring ..)

theorem boots_bootTrial {s : State} (mute : s.evRing = none) : Boots s s.bootTrial := by
  unfold State.bootTrial
  split
  · split
    · exact boots_of_eq mute rfl id
    · exact boots_rollback mute 0
  · exact .refl mute

theorem boots_recover {s : State} (mute : s.evRing = none) : Boots s s.recover := by
  unfold State.recover
  split
  · exact .refl mute
  · have stopped : Boots s (({ s with trialRun := false } : State).setOwn 0 false) := boots_of_eq mute rfl fun h => by
      simp only [State.own, State.setOwn, List.contains_eq_mem, decide_eq_false_iff_not] at h ⊢
      exact fun mem => h (List.mem_of_mem_filter mem)
    have shown : Shows [.NB_STATUS] _ ((({ s with trialRun := false } : State).setOwn 0 false).setFld (rk .NB_STATUS) 1 1 1) :=
      shows_setFld _ (by decide) ..
    exact stopped.trans (boots_shows shown stopped.ring (by decide) (by decide))

theorem boots_rebooted {s : State} (mute : s.evRing = none) : Boots s s.rebooted := by
  have trial := boots_bootTrial mute
  have going := trial.trans (boots_recover trial.ring)
  exact going.trans (boots_shows (shows_quietReady _) going.ring (by decide) (by decide))

theorem boots_flushed {s : State} (mute : s.evRing = none) (kind unit : Nat) : Boots s (s.flushed kind unit) := by
  have drawn : Boots s { s with draws := s.draws + 1 } := boots_of_eq mute rfl id
  unfold State.flushed
  dsimp only
  split
  · exact drawn
  · have counted : Shows [.CK_CDC_FLUSHED] _ (({ s with draws := s.draws + 1 } : State).bump (rk .CK_CDC_FLUSHED)
        (Config.flushed s.draws kind).toNat) := shows_bump _ (by decide) ..
    have told := drawn.trans (boots_shows counted drawn.ring (by decide) (by decide))
    exact told.trans (boots_raise told.ring ..)

theorem boots_afterDie {s : State} (mute : s.evRing = none) (cause : Nat) : Boots s
    (if cause = 1 then s.rebooted.flushed 1 devHandle else (s.rebooted.flushed 1 devHandle).resetDone 1) := by
  have booted := boots_rebooted mute
  have flushed := booted.trans (boots_flushed booted.ring 1 devHandle)
  split
  · exact flushed
  · exact flushed.trans (boots_raise flushed.ring ..)

/-! ### The die fresh from its reset -/

theorem shows_showShares (s : State) : Shows [.PW_STATUS, .PW_SHARE] s s.showShares :=
  ((shows_setFld s (by decide) ..).trans (shows_setFld _ (by decide) ..)).trans (Shows.foldl _ _ _ fun t _ => shows_show t (by decide) ..)

theorem dieFresh_field (s : State) {α : Type} (f : State → α) (hr : ∀ t x : State, f { t with regs := x.regs } = f t := by intro _ _; rfl)
    (hf : ∀ t x : State, f { t with
      regs := x.regs, lmap := x.lmap, jmap := x.jmap, emap := x.emap, spareCols := x.spareCols, suspects := x.suspects, failing := x.failing
      holders := x.holders } = f t := by intro _ _; rfl) : f s.dieFresh = f (s.dieKept (s.up.filter fun i => i = 0 || i = 9)) :=
  ((shows_showShares _).field f (hr _)).trans (dieReset_field s _ f (hf _))

theorem dieFresh_reg_kept (s : State) {k : RegKey} (out : k.name ∉ [.PW_STATUS, .PW_SHARE] ++ dieRegs) (kept : keptReg k = true) :
    s.dieFresh.reg k = s.reg k :=
  ((shows_showShares _).reg k fun mem => out (List.mem_append_left _ mem)).trans
    (dieReset_reg_kept s _ (fun mem => out (List.mem_append_right _ mem)) kept)

theorem dieFresh_reg_cleared (s : State) {k : RegKey} (out : k.name ∉ [.PW_STATUS, .PW_SHARE] ++ dieRegs) (gone : keptReg k = false) :
    s.dieFresh.reg k = resetWord k :=
  ((shows_showShares _).reg k fun mem => out (List.mem_append_left _ mem)).trans
    (dieReset_reg_cleared s _ (fun mem => out (List.mem_append_right _ mem)) gone)

/-! ### What the latch leaves -/

theorem resetLatched_cause (s : State) {cause : Nat} (small : cause < 8) : (s.resetLatched cause).fld (rk .CK_RESET_CAUSE) 0 3 = cause := by
  have latched (t : State) : (t.setFld (rk .CK_RESET_CAUSE) 0 3 cause).fld (rk .CK_RESET_CAUSE) 0 3 = cause := by
    rw [State.fld_setFld_same _ _ _ _ _ (by decide), Nat.mod_eq_of_lt (show cause < 2 ^ 3 from small)]
  have status (t : State) (lo w x : Nat) : (t.setFld (rk .CK_STATUS) lo w x).fld (rk .CK_RESET_CAUSE) 0 3 = t.fld (rk .CK_RESET_CAUSE) 0 3 :=
    State.fld_setFld_other _ _ _ _ _ _ (by decide)
  have counted (t : State) : (t.bump (rk .CK_DEVICE_RESETS)).fld (rk .CK_RESET_CAUSE) 0 3 = t.fld (rk .CK_RESET_CAUSE) 0 3 :=
    congrArg (fun w : Word => bitsOf w.toNat 0 3) (State.reg_setReg_other _ _ (by decide))
  have through (t : State) (l : Life) : ({ t with life := l } : State).fld (rk .CK_RESET_CAUSE) 0 3 = t.fld (rk .CK_RESET_CAUSE) 0 3 := rfl
  unfold State.resetLatched
  dsimp only
  rw [through, status]
  split
  · rw [status, counted, latched]
  · rw [counted, latched]

theorem resetLatched_lock (s : State) (cause : Nat) : (s.resetLatched cause).debugOn = s.debugOn := by
  have causes (t : State) : (t.setFld (rk .CK_RESET_CAUSE) 0 3 cause).debugOn = t.debugOn := bit_setFld_other _ _ _ _ _ (by decide)
  have status (t : State) (lo w x : Nat) : (t.setFld (rk .CK_STATUS) lo w x).debugOn = t.debugOn := bit_setFld_other _ _ _ _ _ (by decide)
  have counted (t : State) : (t.bump (rk .CK_DEVICE_RESETS)).debugOn = t.debugOn :=
    congrArg (fun w : Word => decide (bitsOf w.toNat 0 1 = 1)) (State.reg_setReg_other _ _ (by decide))
  have through (t : State) (l : Life) : ({ t with life := l } : State).debugOn = t.debugOn := rfl
  have shown (t : State) (x : Nat) : (t.setFld (rk .SC_STATUS) 1 1 x).debugOn = t.debugOn :=
    bit_setFld_apart _ _ _ _ _ _ (by decide) (by decide)
  unfold State.resetLatched
  dsimp only
  rw [through, status]
  split
  · rw [status, counted, causes, shown]
  · rw [counted, causes, shown]

theorem beforeReset_lock (s : State) (cause : Nat) : (s.beforeReset cause).debugOn = s.debugOn := by
  rw [State.beforeReset, resetLatched_lock]
  split
  · exact congrArg (fun w : Word => decide (bitsOf w.toNat 0 1 = 1)) (lifeSave_reg (k := rk .SC_STATUS) (by decide) s)
  · rfl

theorem beforeReset_field (s : State) (cause : Nat) {α : Type} (f : State → α) (hf : ∀ x : State, f x.saveless = f x := by intro; rfl)
    (hl : ∀ (x : State) (l : Life), f { x with life := l } = f x := by intro _ _; rfl)
    (hr : ∀ (t x : State) (l : Life), f { t with regs := x.regs, life := l } = f t := by intro _ _ _; rfl) :
    f (s.beforeReset cause) = f s := by
  rw [State.beforeReset, resetLatched_eq, hr]
  split
  · exact lifeSave_field s f hf hl
  · rfl

theorem beforeReset_count (s : State) (cause : Nat) :
    (s.beforeReset cause).life.deviceResets = min (s.life.deviceResets + 1) (2 ^ 32 - 1) := by
  have count (t : State) : (t.resetLatched cause).life.deviceResets = satAdd 32 t.life.deviceResets 1 := by
    rw [resetLatched_eq]
  rw [State.beforeReset, count]
  split
  · rw [lifeSave_deviceResets]
    rfl
  · rfl

/-- The reset by its stages: what stands in the fresh die stands at the end. -/
theorem deviceReset_field (s : State) {c : Nat} (other : c ≠ 3) {α : Type} (f : State → α)
    (hb : ∀ x : State, f x.bootless = f x := by intro; rfl)
    (hr : ∀ t x : State, f { t with regs := x.regs } = f t := by intro _ _; rfl)
    (hf : ∀ t x : State, f { t with
      regs := x.regs, lmap := x.lmap, jmap := x.jmap, emap := x.emap, spareCols := x.spareCols, suspects := x.suspects, failing := x.failing
      holders := x.holders } = f t := by intro _ _; rfl) :
    f (s.deviceReset c) = f ((s.beforeReset c).dieKept ((s.beforeReset c).up.filter fun i => i = 0 || i = 9)) := by
  have boots : Boots (s.beforeReset c).dieFresh (s.deviceReset c) := deviceReset_eq s other ▸ boots_afterDie (dieFresh_field _ State.evRing) c
  rw [← hb, boots.rest, hb]
  exact dieFresh_field _ f hr hf

theorem deviceReset_keeps (s : State) {c : Nat} (other : c ≠ 3) (small : c < 8) :
    let t := s.deviceReset c
    t.fld (rk .CK_RESET_CAUSE) 0 3 = c ∧ t.reg (rk .TM_NOW) = 0 ∧ t.rings = [] ∧ t.cqs = [] ∧ t.evRing = none ∧ t.jobs = [] ∧ t.allocs = [] ∧ t.plans = [] ∧
      t.groups = [] ∧ t.grants = [] ∧ t.casc = none ∧ t.flows = [] ∧ t.feat = 0 ∧ t.helloDone = false ∧ t.profiles = [] ∧ t.mon = [] ∧ t.acc = [] ∧
      (∀ a, Mem.get t.dev a = memDefault) ∧ (∀ a, a < 56 * 4096 → Mem.get t.mbox a = memDefault) ∧
      (∀ a, 56 * 4096 ≤ a → Mem.get t.mbox a = Mem.get s.mbox a) ∧ t.debugOn = s.debugOn ∧ t.bar4 = s.debugOn ∧ t.d3 = false ∧ t.sensors = s.sensors ∧ t.site = s.site ∧
      t.life.deviceResets = min (s.life.deviceResets + 1) (2 ^ 32 - 1) ∧ t.isReady 1 = false := by
  intro t
  have mute : (s.beforeReset c).dieFresh.evRing = none := dieFresh_field _ State.evRing
  have boots : Boots (s.beforeReset c).dieFresh (s.deviceReset c) := deviceReset_eq s other ▸ boots_afterDie mute c
  have box : (s.deviceReset c).mbox = s.mbox.filter fun c => decide (56 * 4096 ≤ c.1) :=
    (deviceReset_field s other State.mbox).trans (congrArg (List.filter _) (beforeReset_field s c State.mbox))
  have asleep : (s.deviceReset c).own 1 = false := boots.asleep <| (dieFresh_field _ fun t => t.own 1).trans <| by
    simp [State.own, State.dieKept]
  refine ⟨?_, ?_, deviceReset_field s other State.rings, deviceReset_field s other State.cqs, boots.ring, deviceReset_field s other State.jobs, deviceReset_field s other State.allocs, deviceReset_field s other State.plans, deviceReset_field s other State.groups,
    deviceReset_field s other State.grants, deviceReset_field s other State.casc, deviceReset_field s other State.flows, deviceReset_field s other State.feat, deviceReset_field s other State.helloDone, deviceReset_field s other State.profiles, deviceReset_field s other State.mon, deviceReset_field s other State.acc,
    fun a => ?_, fun a low => ?_, fun a high => ?_, ?_, ?_, deviceReset_field s other State.d3, ?_, ?_, ?_, ?_⟩
  · rw [State.fld, boots.reg _ (by decide), dieFresh_reg_kept _ (by decide) (by decide)]
    have cause : ((if 3 ≤ c ∧ c ≤ 5 then s.lifeSave else s).resetLatched c).fld (rk .CK_RESET_CAUSE) 0 3 = c :=
      resetLatched_cause _ small
    exact cause
  · rw [boots.reg _ (by decide), dieFresh_reg_cleared _ (by decide) (by decide)]
    decide
  · rw [deviceReset_field s other State.dev]
    rfl
  · rw [box, Mem.get_filter _ fun x => decide (56 * 4096 ≤ x)]
    exact if_neg (by simpa using low)
  · rw [box, Mem.get_filter _ fun x => decide (56 * 4096 ≤ x)]
    exact if_pos (by simpa using high)
  · refine boots.lock.trans (Eq.trans ?_ (beforeReset_lock s c))
    exact congrArg (fun w : Word => decide (bitsOf w.toNat 0 1 = 1)) (dieFresh_reg_kept _ (k := rk .SC_STATUS) (by decide) (by decide))
  · exact (deviceReset_field s other State.bar4).trans (beforeReset_lock s c)
  · exact (deviceReset_field s other State.sensors).trans (beforeReset_field s c State.sensors)
  · exact (deviceReset_field s other State.site).trans (beforeReset_field s c State.site)
  · exact (deviceReset_field s other fun t => t.life.deviceResets).trans (beforeReset_count s c)
  · show (s.deviceReset c).zenith = false
    rw [State.zenith, asleep]
    rfl

end Sys2Proof.Machine

open Sys2Proof.Machine in
/-- Settles O38: each trigger by its case, and the reset by its stages, the last of which run without an event ring. -/
theorem deviceResetsKeepOnlyNimbus : Obligations.DeviceResetsKeepOnlyNimbus := by
  refine ⟨fun s => ⟨fun powered => ⟨?_, fun warm => ?_, fun locked => ?_, fun c n => ?_, fun v => ?_⟩, fun dark => ⟨?_, ?_, fun c n => ?_, fun v => ?_⟩,
    fun held quiet => ?_, fun held powered cause => ?_, fun trip cool => ?_, fun dark warm => ?_, fun dark => ?_, fun powered => ?_, ?_⟩,
    fun s c known => ?_⟩
  · rw [exec_hotReset, execHotReset, powered]
    rfl
  · rw [exec_hstPerstLAssert_warm warm, powered]
    rfl
  · rw [exec_rootLockLoss, execRootLockLoss, if_pos ⟨powered, locked⟩]
  · rw [exec_fatalFault, execFatalFault, if_pos powered]
  · rw [exec_deviceReset_kind]
    simp only [powered, true_and]
  · rw [exec_hotReset, execHotReset, dark]
    rfl
  · rw [exec_rootLockLoss, execRootLockLoss, if_neg (by simp [dark])]
  · rw [exec_fatalFault, execFatalFault, if_neg (by simp [dark])]
  · rw [exec_deviceReset_kind, if_neg (by simp [dark])]
  · rw [exec_hstPerstLRelease, execHstPerstLRelease, held]
    refine congrArg Host.Outcome.next (if_neg ?_)
    rintro ⟨powered, cause⟩
    rcases quiet with dark | other
    · exact Bool.false_ne_true (dark.symm.trans powered)
    · exact other cause
  · rw [exec_hstPerstLRelease, execHstPerstLRelease, held]
    have shown : (({ s with perst := false } : State).resetDone 1) =
        ({ s with perst := false } : State).raise 0x300 devHandle (payload [(24, 1, 1), (25, 1, 1)]) := by
      rw [State.resetDone, show ({ s with perst := false } : State).fld (rk .CK_RESET_CAUSE) 0 3 = 1 from cause]
    exact congrArg Host.Outcome.next ((if_pos ⟨powered, cause⟩).trans shown)
  · rw [exec_hstPerstLAssert, execHstPerstLAssert]
    exact if_pos ⟨trip, (hottest_perst s true 0 70).trans_lt cool⟩
  · rw [exec_hstPerstLAssert_warm warm, dark]
    rfl
  · rw [State.endLadder, dark]
    rfl
  · rw [State.endLadder, powered, if_neg (by decide)]
    by_cases begun : s.snapshotBegun = true
    · rw [if_pos begun, if_pos begun]
    · rw [if_neg begun, if_neg begun]
  · refine ⟨{ s with regs := s.regs.filter fun e => (regRow e.1.name).blk ≠ .mcf }, fun k => ?_, rfl, fun up => ?_, fun down => ?_⟩
    · split
      · next own => exact congrArg (·.getD (resetWord k)) (regFind_filter_out s.regs (fun k => (regRow k.name).blk ≠ .mcf) (by simpa using own))
      · next other => exact congrArg (·.getD (resetWord k)) (regFind_filter s.regs (fun k => (regRow k.name).blk ≠ .mcf) k (by simpa using other))
    · rw [exec_mgtPerstLAssert, execMgtPerstLAssert]
      exact if_pos up
    · rw [exec_mgtPerstLAssert, execMgtPerstLAssert]
      exact if_neg (Bool.eq_false_iff.1 down)
  · exact deviceReset_keeps s (by omega) (by omega)

end


section
/-! PROOFS. The governor's credit (20_module_power_thermal.md). -/

namespace Sys2Proof.Machine

theorem bump_reg_congr {s t : State} {k : RegKey} (same : t.reg k = s.reg k) (n : Nat) : (t.bump k n).reg k = (s.bump k n).reg k := by
  rw [State.bump, State.bump, State.reg_setReg_same, State.reg_setReg_same, same]

theorem fld_setReg_ofNat (s : State) (k : RegKey) {v lo w : Nat} (small : v < 2 ^ 64) :
    (s.setReg k (BitVec.ofNat 64 v)).fld k lo w = bitsOf v lo w := by
  rw [State.fld, State.reg_setReg_same, BitVec.toNat_ofNat, Nat.mod_eq_of_lt small]

/-! ### One b-cycle in its three outcomes -/

/-- The wait of a basin's descriptors counted. -/
def State.waitCounted (s : State) (q : Nat) : State :=
  if s.jobs.any fun j => (j.phase = .waiting || j.phase = .drainWait) && j.waitsIn q then s.bump (rk .BS_SLOT_WAIT_CYCLES (s.physB q)) else s

theorem shows_waitCounted (s : State) (q : Nat) : Shows [.BS_SLOT_WAIT_CYCLES] s (s.waitCounted q) :=
  shows_ite (shows_bump s (by decide) ..) (.refl s)

/-- A basin's credit set. -/
def State.charged (s : State) (q c : Nat) : State := { s with credit := Tab.put s.credit q c }

/-- A withheld b-cycle. -/
def State.withheld (s : State) (q u c : Nat) : State :=
  ((({ s with credit := Tab.put s.credit q c } : State).setFld (rk .BS_FRAME u) 5 1 1).bump (rk .PW_WITHHELD_CYCLES)).markBasin q flGov

/-- A b-cycle in which the basin stalls. -/
def State.stalled (s : State) (q u due : Nat) : State :=
  (State.setFld { s with stallDue := if due = 1 then Tab.del s.stallDue q else Tab.put s.stallDue q (due - 1) } (rk .BS_FRAME u) 5 1 1).bump
    (rk .BS_SLIP_COUNT u)

/-- A b-cycle that runs. -/
def State.framed (s : State) (u : Nat) : State := s.setReg (rk .BS_FRAME u) (BitVec.ofNat 64 ((s.fld (rk .BS_FRAME u) 0 5 + 1) % 32))

theorem basinCycle_eq (s : State) (q : Nat) : s.basinCycle q =
    if Tab.getD s.credit q 0 + s.share (q / 4) < 256 then (s.waitCounted q).withheld q (s.physB q) (Tab.getD s.credit q 0 + s.share (q / 4))
    else if Tab.getD s.stallDue q 0 ≠ 0 then
      State.stalled ((s.waitCounted q).charged q (Tab.getD s.credit q 0 + s.share (q / 4) - 256)) q (s.physB q)
        (Tab.getD s.stallDue q 0)
    else State.framed ((s.waitCounted q).charged q (Tab.getD s.credit q 0 + s.share (q / 4) - 256)) (s.physB q) := by
  rw [← (shows_waitCounted s q).field State.stallDue]
  unfold State.basinCycle
  extract_lets u c wait v due
  have counted : v = s.waitCounted q := rfl
  rw [← counted]
  split
  · rfl
  · split <;> rfl

section
variable (s : State) (q u c : Nat)

theorem withheld_fields : (s.withheld q u c).credit = Tab.put s.credit q c ∧ (s.withheld q u c).stallDue = s.stallDue ∧
    (s.withheld q u c).fld (rk .BS_FRAME u) 0 5 = s.fld (rk .BS_FRAME u) 0 5 ∧ (s.withheld q u c).bit (rk .BS_FRAME u) 5 = true ∧
    (s.withheld q u c).reg (rk .BS_SLIP_COUNT u) = s.reg (rk .BS_SLIP_COUNT u) ∧
    (s.withheld q u c).reg (rk .PW_WITHHELD_CYCLES) = (s.bump (rk .PW_WITHHELD_CYCLES)).reg (rk .PW_WITHHELD_CYCLES) := by
  have reg (k : RegKey) (other : k ≠ rk .PW_WITHHELD_CYCLES) :
      (s.withheld q u c).reg k = (s.setFld (rk .BS_FRAME u) 5 1 1).reg k := (State.reg_setReg_other _ _ other).trans rfl
  have frame := reg (rk .BS_FRAME u) (by simp [rk])
  refine ⟨rfl, rfl, ?_, ?_, ?_, ?_⟩
  · rw [State.fld, frame, ← State.fld, State.fld_setFld_apart _ _ _ _ _ _ _ (by decide) (by decide)]
  · exact (bit_congr frame 5).trans (bit_setFld_same s _ 5 true (by decide))
  · rw [reg _ (by simp [rk]), State.reg_setFld_other _ _ _ _ (by simp [rk])]
  · exact bump_reg_congr ((State.reg_setFld_other _ _ _ _ (by simp [rk])).trans rfl) 1

theorem withheld_marks {j : Job} (mem : j ∈ s.jobs) (issued : j.issued.isSome = true) (going : j.phase ≠ .done) (unit : 2 ≤ j.unit)
    (here : basinOf j.unit = q) : ∃ e ∈ (s.withheld q u c).jobs, e.jid = j.jid ∧ bitOf e.flags flGov = true := by
  have marked : (j.issued.isSome && j.phase ≠ .done && j.unit ≠ 0 && j.unit ≠ 1 && basinOf j.unit = q) = true := by
    simp only [issued, going, here, ne_eq, not_false_eq_true, decide_true, Bool.and_self, Bool.true_and, Bool.and_true, Bool.and_eq_true,
      decide_eq_true_eq]
    omega
  refine ⟨_, List.mem_map_of_mem mem, ?_, ?_⟩
  · rw [Job.mark]
    split <;> rfl
  · rw [Job.mark, if_pos marked, bitOf_eq_testBit, Nat.testBit_or, Nat.testBit_two_pow_self, Bool.or_true]

theorem stalled_fields {due : Nat} (some' : due ≠ 0) : (s.stalled q u due).credit = s.credit ∧
    Tab.getD (s.stalled q u due).stallDue q 0 = due - 1 ∧
    (∀ p, p ≠ q → Tab.getD (s.stalled q u due).stallDue p 0 = Tab.getD s.stallDue p 0) ∧
    (s.stalled q u due).jobs = s.jobs ∧ (s.stalled q u due).fld (rk .BS_FRAME u) 0 5 = s.fld (rk .BS_FRAME u) 0 5 ∧
    (s.stalled q u due).bit (rk .BS_FRAME u) 5 = true ∧
    (s.stalled q u due).reg (rk .BS_SLIP_COUNT u) = (s.bump (rk .BS_SLIP_COUNT u)).reg (rk .BS_SLIP_COUNT u) ∧
    (s.stalled q u due).reg (rk .PW_WITHHELD_CYCLES) = s.reg (rk .PW_WITHHELD_CYCLES) := by
  have reg (k : RegKey) (other : k ≠ rk .BS_SLIP_COUNT u) : (s.stalled q u due).reg k = (s.setFld (rk .BS_FRAME u) 5 1 1).reg k :=
    (State.reg_setReg_other _ _ other).trans rfl
  have frame := reg (rk .BS_FRAME u) (by simp [rk])
  have table : (s.stalled q u due).stallDue = if due = 1 then Tab.del s.stallDue q else Tab.put s.stallDue q (due - 1) := rfl
  refine ⟨rfl, ?_, fun p other => ?_, rfl, ?_, ?_, ?_, ?_⟩
  · rw [table]
    split
    · next one => rw [Tab.getD_del_same, one]
    · exact Tab.getD_put_same ..
  · rw [table]
    split
    · rw [Tab.getD, Tab.find?_del_other _ other]
      rfl
    · exact Tab.getD_put_other _ _ _ other
  · rw [State.fld, frame, ← State.fld, State.fld_setFld_apart _ _ _ _ _ _ _ (by decide) (by decide)]
  · exact (bit_congr frame 5).trans (bit_setFld_same s _ 5 true (by decide))
  · exact bump_reg_congr ((State.reg_setFld_other _ _ _ _ (by simp [rk])).trans rfl) 1
  · rw [reg _ (by simp [rk]), State.reg_setFld_other _ _ _ _ (by simp [rk])]

theorem framed_fields : (s.framed u).fld (rk .BS_FRAME u) 0 5 = (s.fld (rk .BS_FRAME u) 0 5 + 1) % 32 ∧
    (s.framed u).bit (rk .BS_FRAME u) 5 = false ∧ (s.framed u).reg (rk .BS_SLIP_COUNT u) = s.reg (rk .BS_SLIP_COUNT u) ∧
    (s.framed u).reg (rk .PW_WITHHELD_CYCLES) = s.reg (rk .PW_WITHHELD_CYCLES) := by
  have small : (s.fld (rk .BS_FRAME u) 0 5 + 1) % 32 < 32 := Nat.mod_lt _ (by decide)
  refine ⟨?_, ?_, State.reg_setReg_other _ _ (by simp [rk]), State.reg_setReg_other _ _ (by simp [rk])⟩
  · rw [State.framed, fld_setReg_ofNat _ _ (by omega), bitsOf]
    omega
  · rw [State.framed, State.bit, fld_setReg_ofNat _ _ (by omega), bitsOf, decide_eq_false_iff_not]
    omega

end

/-! ### Many b-cycles -/

theorem basinCycle_credit (s : State) (q : Nat) : (s.basinCycle q).credit = Tab.put s.credit q
    (if Tab.getD s.credit q 0 + s.share (q / 4) < 256 then Tab.getD s.credit q 0 + s.share (q / 4)
      else Tab.getD s.credit q 0 + s.share (q / 4) - 256) := by
  rw [basinCycle_eq]
  split
  · rw [(withheld_fields ..).1, (shows_waitCounted s q).field State.credit]
  · split
    · next due => exact (stalled_fields _ q _ due).1.trans (congrArg (Tab.put · q _) ((shows_waitCounted s q).field State.credit))
    · exact congrArg (Tab.put · q _) ((shows_waitCounted s q).field State.credit)

theorem basinCycle_share (s : State) (q t : Nat) : (s.basinCycle q).share t = s.share t := by
  have waited : (s.waitCounted q).reg (rk .PW_SHARE 0 t) = s.reg (rk .PW_SHARE 0 t) := (shows_waitCounted s q).reg _ (by simp [rk])
  refine congrArg (fun w : Word => bitsOf w.toNat 0 9) (Eq.trans ?_ waited)
  have apart {u i : Nat} {n : RegName} (other : n ≠ .PW_SHARE) : rk .PW_SHARE 0 t ≠ rk n u i := fun same => other (congrArg RegKey.name same).symm
  rw [basinCycle_eq]
  split
  · exact (State.reg_setReg_other _ _ (apart (by decide))).trans ((State.reg_setReg_other _ _ (apart (by decide))).trans rfl)
  · split
    · exact (State.reg_setReg_other _ _ (apart (by decide))).trans ((State.reg_setReg_other _ _ (apart (by decide))).trans rfl)
    · exact (State.reg_setReg_other _ _ (apart (by decide))).trans rfl

/-- With a credit below 256 and a share of at most 256, one b-cycle leaves the sum's remainder by 256. -/
theorem basinCycle_credit_mod {s : State} {q : Nat} (low : Tab.getD s.credit q 0 < 256) (part : s.share (q / 4) ≤ 256) :
    Tab.getD (s.basinCycle q).credit q 0 = (Tab.getD s.credit q 0 + s.share (q / 4)) % 256 := by
  rw [basinCycle_credit, Tab.getD_put_same]
  split <;> omega

theorem repeat_credit (n q : Nat) (s : State) (low : Tab.getD s.credit q 0 < 256) (part : s.share (q / 4) ≤ 256) :
    Tab.getD (n.repeat (fun s : State => s.basinCycle q) s).credit q 0 = (Tab.getD s.credit q 0 + n * s.share (q / 4)) % 256 ∧
    (n.repeat (fun s : State => s.basinCycle q) s).share (q / 4) = s.share (q / 4) := by
  induction n with
  | zero => exact ⟨by rw [Nat.zero_mul, Nat.add_zero, Nat.mod_eq_of_lt low]; rfl, rfl⟩
  | succ n ih =>
    obtain ⟨credit, share⟩ := ih
    rw [Nat.repeat]
    refine ⟨?_, (basinCycle_share ..).trans share⟩
    rw [basinCycle_credit_mod (credit ▸ Nat.mod_lt _ (by decide)) (share ▸ part), credit, share, Nat.mod_add_mod, Nat.add_mul, Nat.one_mul,
      Nat.add_assoc]

end Sys2Proof.Machine

open Sys2Proof.Machine in
/-- Settles O59: one b-cycle by its outcome, and many by the remainder that the credit keeps. -/
theorem issueCreditSharesTheCycles : Obligations.IssueCreditSharesTheCycles := by
  refine ⟨fun q => rfl, fun s q => ?_, fun n q s low part => ?_⟩
  · intro c k t due
    have wait := shows_waitCounted s q
    have waited {k : RegKey} (other : k.name ∉ [RegName.BS_SLOT_WAIT_CYCLES]) := wait.reg k other
    have waitedFld {n : RegName} {u : Nat} (other : n ∉ [RegName.BS_SLOT_WAIT_CYCLES]) (lo w : Nat) :
        (s.waitCounted q).fld (rk n u) lo w = s.fld (rk n u) lo w := wait.fld other lo w
    have cycle : t = if c < 256 then _ else if due ≠ 0 then _ else _ := basinCycle_eq s q
    have credit : t.credit = Tab.put s.credit q (if c < 256 then c else c - 256) := basinCycle_credit s q
    refine ⟨fun p other => ⟨?_, ?_⟩, fun enough => ⟨?_, ?_, ?_, fun none => ?_, fun some' => ?_⟩, fun short => ?_⟩
    · rw [credit, Tab.getD_put_other _ _ _ other]
    · rw [cycle]
      split
      · rw [(withheld_fields ..).2.1, wait.field State.stallDue]
      · split
        · next some' =>
          obtain ⟨-, -, others, -⟩ := stalled_fields ((s.waitCounted q).charged q (c - 256)) q (s.physB q) some'
          exact (others p other).trans (congrArg (Tab.getD · p 0) (wait.field State.stallDue))
        · exact congrArg (Tab.getD · p 0) (wait.field State.stallDue)
    · rw [credit, Tab.getD_put_same, if_neg (by omega)]
    · rw [cycle, if_neg (by omega)]
      split
      · exact wait.field State.jobs
      · exact wait.field State.jobs
    · rw [cycle, if_neg (by omega)]
      split
      · next some' =>
        obtain ⟨-, -, -, -, -, -, -, withheld⟩ := stalled_fields ((s.waitCounted q).charged q (c - 256)) q (s.physB q) some'
        exact withheld.trans (waited (by decide))
      · exact (framed_fields ..).2.2.2.trans (waited (by decide))
    · obtain ⟨frame, runs, slips, -⟩ := framed_fields ((s.waitCounted q).charged q (c - 256)) (s.physB q)
      rw [cycle, if_neg (by omega), if_neg (not_not.2 none)]
      refine ⟨wait.field State.stallDue, frame.trans ?_, runs, slips.trans (waited (by simp [rk]))⟩
      exact congrArg (fun x => (x + 1) % 32) (waitedFld (by decide) 0 5)
    · obtain ⟨-, left, -, -, frame, stalls, slips, -⟩ :=
        stalled_fields ((s.waitCounted q).charged q (c - 256)) q (s.physB q) some'
      rw [cycle, if_neg (by omega), if_pos some']
      exact ⟨left, frame.trans (waitedFld (by decide) 0 5), stalls, slips.trans (bump_reg_congr (waited (by simp [rk])) 1)⟩
    · obtain ⟨-, stalls, frame, holds, slips, counted⟩ := withheld_fields (s.waitCounted q) q (s.physB q) c
      rw [cycle, if_pos short]
      refine ⟨?_, stalls.trans (wait.field State.stallDue), frame.trans (waitedFld (by decide) 0 5), holds, slips.trans (waited (by simp [rk])),
        counted.trans (bump_reg_congr (waited (by simp [rk])) 1), fun j mem issued going unit here =>
          withheld_marks _ q _ c (wait.field State.jobs ▸ mem) issued going unit here⟩
      rw [(withheld_fields ..).1, Tab.getD_put_same]
  · obtain ⟨credit, -⟩ := repeat_credit n q s low part
    intro t
    rw [show Tab.getD t.credit q 0 = _ from credit]
    exact ⟨Nat.div_add_mod .., Nat.mod_lt _ (by decide)⟩

end


section
/-! PROOFS. The reset state; HELLO, the setups of rings and what resets do to the feature word (14_rings_and_mailboxes.md). -/

namespace Sys2Proof.Machine

/-! ### After reset -/

theorem own_reset (i : Nat) : State.reset.own i = false := rfl

theorem isReady_reset (i : Nat) : State.reset.isReady i = false := by
  have nimbus : State.reset.nimbus = false := rfl
  have zenith : State.reset.zenith = false := rfl
  have placement : State.reset.placement = false := rfl
  have halo : State.reset.haloReady = false := rfl
  have queue : State.reset.queueReady = false := rfl
  have stack (t : Nat) : State.reset.stackReady t = false := rfl
  have terrace (t : Nat) : State.reset.terraceReady t = false := rfl
  have basin (t : Nat) : State.reset.basinReady t = false := rfl
  simp only [State.isReady, nimbus, zenith, placement, halo, queue, stack, terrace, basin, own_reset, Bool.false_and, ite_self]

theorem bounded_reset : State.reset.bounded :=
  ⟨⟨rfl, rfl, rfl, rfl, rfl⟩, fun _ mem => absurd mem List.not_mem_nil, Nat.zero_le _, Nat.zero_le _⟩

/-! ### A mailbox command that is due -/

/-- A step of a mailbox command with its answer, if it ends. -/
def Ended.answered (r : Ended) (mb : Nat) : State :=
  match r with
  | (t, some a) => t.mbAnswer mb a.1 a.2.1 a.2.2
  | (t, none) => t

theorem mbRow_due {s : State} {mb : Nat} {c : Cmd} {mine : Bool} (due : MbDue s mb c) (own : mine = true) (f : State → Ended) :
    s.mbRow mb c mine f = (f s).answered mb := by
  obtain ⟨waits, code, clean⟩ := due
  rcases h : f s with ⟨t, a⟩
  cases a with
  | none => exact mbRow_running waits code own clean h
  | some a => exact mbRow_ended waits code own clean h

/-- A due command runs its own step. -/
theorem exec_due {s : State} {c : Instr} {mb : Nat} {r : Cmd} {mine : Bool} {f : State → Ended}
    (run : exec c s = .next (s.mbRow mb r mine f)) (due : MbDue s mb r ∧ mine = true) : exec c s = .next ((f s).answered mb) := by
  rw [run, mbRow_due due.1 due.2]

theorem answered_fails (s : State) (mb status detail : Nat) : (s.fails status detail).answered mb = s.mbAnswer mb status detail [] := rfl

theorem answered_ends (s : State) (mb : Nat) (resp : List Byte) : (s.ends resp).answered mb = s.mbAnswer mb 0 0 resp := rfl

theorem answered_starts (s : State) (mb : Nat) (r : MbRun) : (s.starts mb r).answered mb = { s with mbRun := Tab.put s.mbRun mb r } := rfl

/-! ### HELLO -/

/-- The feature word that HELLO negotiates. -/
def State.common (s : State) (mb : Nat) : Nat := (s.pay mb 8 16 &&& featAdvertised) ||| 1

/-- HELLO's response. -/
def State.helloResp (s : State) (mb : Nat) : List Byte :=
  leBytes 2 5 ++ leBytes 2 s.firmware.1 ++ leBytes 4 s.firmware.2 ++ leBytes 16 featAdvertised ++ leBytes 16 (s.common mb) ++
    leBytes 4 65536 ++ leBytes 2 4096 ++ leBytes 2 2048 ++ leBytes 1 32 ++ leBytes 15 0

theorem exec_hello_due {mb : Nat} {s : State} (due : MailboxDue s (.hello mb)) : exec (.hello mb) s =
    .next (Ended.answered (if !s.rings.isEmpty || !s.cqs.isEmpty then s.fails msBusy 0
      else State.ends { s with feat := s.common mb, helloDone := true } (s.helloResp mb)) mb) := (exec_due rfl due).trans rfl

theorem bitOf_common (s : State) (mb i : Nat) : bitOf (s.common mb) i = (i = 0 || (bitOf (s.pay mb 8 16) i && bitOf featAdvertised i)) := by
  have always : Nat.testBit 1 i = decide (i = 0) := (Nat.testBit_two_pow (n := 0) (m := i)).trans (by simp only [eq_comm])
  rw [State.common, bitOf_eq_testBit, bitOf_eq_testBit, bitOf_eq_testBit, Nat.testBit_or, Nat.testBit_and, always, Bool.or_comm]

theorem common_lt (s : State) (mb : Nat) : s.common mb < 2 ^ 12 :=
  Nat.or_lt_two_pow (Nat.and_lt_two_pow _ (by decide)) (by decide)

/-- A field of a byte string that is one of its pieces. -/
theorem fieldAt_piece (l r : List Byte) {o n : Nat} (x : Nat) (place : l.length = o) : fieldAt (l ++ (leBytes n x ++ r)) o n = x % 2 ^ (8 * n) := by
  rw [fieldAt, List.drop_append_of_le_length place.ge, List.drop_of_length_le place.le, List.nil_append,
    List.take_append_of_le_length (length_leBytes n x).ge, List.take_of_length_le (length_leBytes n x).le, leNat_leBytes]

theorem helloResp_fields (s : State) (mb : Nat) : (s.helloResp mb).length = 64 ∧ fieldAt (s.helloResp mb) 0 2 = 5 ∧
    fieldAt (s.helloResp mb) 8 16 = featAdvertised ∧ fieldAt (s.helloResp mb) 24 16 = s.common mb ∧ fieldAt (s.helloResp mb) 40 4 = 65536 ∧
    fieldAt (s.helloResp mb) 44 2 = 4096 ∧ fieldAt (s.helloResp mb) 46 2 = 2048 := by
  have small := common_lt s mb
  have piece (l : List Byte) (o n x : Nat) (whole : ∃ r, s.helloResp mb = l ++ (leBytes n x ++ r)) (place : l.length = o) (fits : x < 2 ^ (8 * n)) :
      fieldAt (s.helloResp mb) o n = x := by
    obtain ⟨r, whole⟩ := whole
    rw [whole, fieldAt_piece l r x place, Nat.mod_eq_of_lt fits]
  have head : (leBytes 2 5 ++ leBytes 2 s.firmware.1 ++ leBytes 4 s.firmware.2).length = 8 := by simp [length_leBytes]
  have words : (leBytes 2 5 ++ leBytes 2 s.firmware.1 ++ leBytes 4 s.firmware.2 ++ leBytes 16 featAdvertised).length = 24 := by
    simp [length_leBytes]
  have limits : (leBytes 2 5 ++ leBytes 2 s.firmware.1 ++ leBytes 4 s.firmware.2 ++ leBytes 16 featAdvertised ++ leBytes 16 (s.common mb)).length
      = 40 := by simp [length_leBytes]
  have both : (leBytes 2 5 ++ leBytes 2 s.firmware.1 ++ leBytes 4 s.firmware.2 ++ leBytes 16 featAdvertised ++ leBytes 16 (s.common mb) ++
      leBytes 4 65536).length = 44 := by simp [length_leBytes]
  have three : (leBytes 2 5 ++ leBytes 2 s.firmware.1 ++ leBytes 4 s.firmware.2 ++ leBytes 16 featAdvertised ++ leBytes 16 (s.common mb) ++
      leBytes 4 65536 ++ leBytes 2 4096).length = 46 := by simp [length_leBytes]
  refine ⟨by simp [State.helloResp, length_leBytes], piece [] 0 2 5 ?_ rfl (by decide), piece _ 8 16 featAdvertised ?_ head (by decide),
    piece _ 24 16 (s.common mb) ?_ words (by omega), piece _ 40 4 65536 ?_ limits (by decide), piece _ 44 2 4096 ?_ both (by decide),
    piece _ 46 2 2048 ?_ three (by decide)⟩
  all_goals
    simp only [State.helloResp, List.append_assoc, List.nil_append]
    exact ⟨_, rfl⟩

/-! ### Rings set up -/

section
variable {s : State} {mb : Nat}

theorem baseOk_of {device base n : Nat} (aligned : base % 4096 = 0) (mapped : device = 1 → s.mappedRange base n = true) :
    s.baseOk (device = 1) base n = true := by
  by_cases dev : device = 1
  · simp [State.baseOk, aligned, mapped dev]
  · simp [State.baseOk, aligned, dev]

theorem exec_ringSetup_due (due : MailboxDue s (.ringSetup mb)) : exec (.ringSetup mb) s = .next (Ended.answered
    (if s.pay mb 3 1 = 0 then s.fails msLimit 67
    else if s.pay mb 4 1 < 4 || 16 < s.pay mb 4 1 then s.fails msLimit 68
    else if !s.baseOk (s.pay mb 5 1 = 1) (s.pay mb 8 8) (128 * 2 ^ s.pay mb 4 1) then s.fails msAddr 72
    else if (Tab.find? s.rings (s.pay mb 0 2)).isSome then s.fails msBusy 0
    else State.ends ({ s with rings := (Tab.put s.rings (s.pay mb 0 2)
      ⟨s.pay mb 2 1, s.pay mb 3 1, ⟨s.pay mb 5 1 = 1, s.pay mb 8 8, s.pay mb 4 1⟩, 0, 0, 0, false, false⟩) }).showRings) mb) :=
  (exec_due rfl due).trans rfl

theorem exec_cqSetup_due (due : MailboxDue s (.cqSetup mb)) : exec (.cqSetup mb) s = .next (Ended.answered
    (if 4096 ≤ s.pay mb 0 2 then s.fails msLimit 64
    else if s.pay mb 2 1 < 4 || 16 < s.pay mb 2 1 then s.fails msLimit 66
    else if 2046 ≤ s.pay mb 4 2 then s.fails msLimit 68
    else if !s.baseOk (s.pay mb 3 1 = 1) (s.pay mb 8 8) (32 * 2 ^ s.pay mb 2 1) then s.fails msAddr 72
    else if (Tab.find? s.cqs (s.pay mb 0 2)).isSome then s.fails msBusy 0
    else State.ends (({ s with cqs := (Tab.put s.cqs (s.pay mb 0 2)
      ⟨⟨s.pay mb 3 1 = 1, s.pay mb 8 8, s.pay mb 2 1⟩, s.pay mb 4 2, s.pay mb 6 1, s.pay mb 7 1, 0, 0, false⟩) }).setReg
        (rk .QE_CQ_HEAD 0 (s.pay mb 0 2)) 0).showRings) mb) := (exec_due rfl due).trans rfl

end

theorem lostPost_of_none_lost {s : State} (none : s.evLost = 0) : s.lostPost = s := by
  unfold State.lostPost
  split
  · exact if_neg fun lost => lost.1 none
  · rfl

/-! ### The feature word through resets -/

/-- What HELLO has set. -/
def State.greeted (s : State) : Nat × Bool := (s.feat, s.helloDone)

theorem greeted_eq (s : State) : s.greeted = (s.feat, s.helloDone) := rfl

theorem greeted_of_shows {ks : List RegName} {s t : State} (same : Shows ks s t) : t.greeted = s.greeted := by
  rw [same.eq]
  rfl

theorem greeted_mbFinish (s : State) (mb status detail : Nat) (resp : List Byte) : (s.mbFinish mb status detail resp).greeted = s.greeted :=
  (congrArg State.greeted (mbEnded_mbFinish s mb status detail resp) :)

theorem greeted_mbAnswer (s : State) (mb status detail : Nat) (resp : List Byte) : (s.mbAnswer mb status detail resp).greeted = s.greeted := by
  unfold State.mbAnswer State.mbStart
  dsimp only
  split
  · split
    · split
      · rfl
      · exact (greeted_mbFinish ..).trans rfl
    · rfl
  · exact greeted_mbFinish ..

theorem greeted_foldl {α : Type} (f : State → α → State) (l : List α) (s : State) (step : ∀ s x, (f s x).greeted = s.greeted) :
    (l.foldl f s).greeted = s.greeted :=
  List.foldlRecOn (motive := fun t : State => t.greeted = s.greeted) l f rfl fun t same x _ => (step t x).trans same

theorem greeted_flushed (s : State) (kind unit : Nat) : (s.flushed kind unit).greeted = s.greeted := flushed_field s kind unit State.greeted

theorem greeted_endNimbus (s : State) : s.endNimbus.greeted = s.greeted :=
  (greeted_foldl _ _ _ fun t mb => greeted_mbAnswer t mb ..).trans rfl

theorem greeted_dieReset (s : State) (up : List Nat) : (s.dieReset up).greeted = (0, false) := by
  have word : (s.dieReset up).feat = 0 := dieReset_field s up State.feat
  have done : (s.dieReset up).helloDone = false := dieReset_field s up State.helloDone
  rw [greeted_eq, word, done]

theorem greeted_dieFresh (s : State) (up : List Nat) : (s.dieReset up).showShares.greeted = (0, false) :=
  (greeted_of_shows (shows_showShares _)).trans (greeted_dieReset s up)

theorem greeted_deviceReset (s : State) {c : Nat} (known : c ∈ [1, 2, 3, 4, 5, 6]) : (s.deviceReset c).greeted = (0, false) := by
  by_cases own : c = 3
  · subst own
    rw [deviceReset_eq_afterLatch, State.afterLatch]
    simp only [if_pos, or_true]
    refine (greeted_flushed _ 1 devHandle).trans ?_
    exact ((greeted_endNimbus _).trans (greeted_dieFresh ..) :)
  · have word : (s.deviceReset c).feat = 0 := deviceReset_field s own State.feat
    have done : (s.deviceReset c).helloDone = false := deviceReset_field s own State.helloDone
    rw [greeted_eq, word, done]

theorem greeted_powerOn (s : State) (slot : Nat) : (s.powerOn slot).greeted = (0, false) := by
  have showSc (t : State) : t.showSc.greeted = t.greeted := rfl
  unfold State.powerOn
  extract_lets sc keep a b c d
  have shown (t : State) (k n : RegKey) (lo w x : Nat) (v : Word) : ((t.setFld k lo w x).setReg n v).greeted = t.greeted := rfl
  have shut (t : State) (v : Bool) : ({ t with bar4 := v } : State).greeted = t.greeted := rfl
  rw [showSc]
  exact ((shown ..).trans (shut ..)).trans (greeted_dieReset b [])

theorem greeted_functionLevelReset (s : State) : ((s.flrUnheld.releaseHost.settle).resetDone 2).greeted = (0, false) := by
  have settled := (settles_settle s.flrUnheld.releaseHost).trans (settles_resetDone _ 2)
  have released := releaseOnly_releaseHost s.flrUnheld
  exact (settled.field State.greeted).trans ((congrArg State.greeted released.eq).trans (congrArg State.greeted (flrUnheld_eq s)))

theorem greeted_dropSamples (s : State) (t : Nat) : (s.dropSamples t).greeted = s.greeted := by
  unfold State.dropSamples
  dsimp only
  split
  · rfl
  · have counted : Shows [.FC_TRK_DROPPED, .HZ_TRK_DROPPED] s ((Tab.getD s.haloQ t []).foldl (fun (s : State) x =>
        if x.d.opcode = opForecast then s.bump (rk .FC_TRK_DROPPED 0 (ForecastBlk.ofBytes x.block).tracker)
        else if x.d.opcode = opHaze then s.bump (rk .HZ_TRK_DROPPED 0 (HazeBlk.ofBytes x.block).tracker)
        else s) s) :=
      Shows.foldl _ _ s fun t x => shows_ite (shows_bump t (by decide) ..) (shows_ite (shows_bump t (by decide) ..) (.refl t))
    refine ((shows_show (ks := [.HL_PENDING]) _ (by decide) ..).field State.greeted).trans ?_
    exact (counted.field State.greeted :)

theorem greeted_clearTerrace (s : State) (t : Nat) : (s.clearTerrace t).greeted = s.greeted := by
  have jet (x : State) (y : Nat) : ((x.showJet y).quiet y).plain = x.plain :=
    (State.plain_quiet ..).trans (by simp only [State.showJet]; split <;> rfl)
  have engine (x : State) (y : Nat) : (x.showEngine y).plain = x.plain := by
    simp only [State.showEngine]
    split <;> rfl
  have through (x : State) : x.greeted = x.plain.greeted := rfl
  unfold State.clearTerrace
  dsimp only
  rw [through, State.plain_foldl _ _ _ fun x i => engine x _, State.plain_foldl _ _ _ fun x y => jet x y]
  rfl

theorem greeted_unitReset (s : State) (l : Nat) : (s.unitReset l).greeted = s.greeted := by
  have held (t : State) (r h : Nat) : (t.setHolder r h).greeted = t.greeted := (congrArg State.greeted (maps_setHolder t r h).eq :)
  have terrace (t : State) (n : Nat) (b : Bool) : (t.setTerrace n b).greeted = t.greeted := (settles_setTerrace t n b).field State.greeted
  have columns (t : State) (p : Nat) : ((List.range 16).foldl (fun s i => s.showColumns (17 * p + i)) t).greeted = t.greeted :=
    greeted_foldl _ _ t fun x i => (shows_showColumns x _).field State.greeted
  unfold State.unitReset
  extract_lets t p _ a b
  have ha : a.greeted = s.greeted := by
    unfold a
    split
    · rfl
    · exact ((greeted_clearTerrace ..).trans ((terrace ..).trans (greeted_dropSamples ..)) :)
  have hb : b.greeted = s.greeted := (((shows_showIds _ p).field State.greeted).trans (held a _ _)).trans ha
  exact ((flushed_field _ 4 _ State.greeted).trans ((settles_settle _).field State.greeted)).trans ((columns b p).trans hb)

theorem greeted_stackReset (s : State) (st : Nat) : (s.stackReset st).greeted = s.greeted := by
  have space (t : State) : Shows [.PL_FREE, .PL_STATUS] t t.showSpace :=
    (Shows.foldl _ _ t fun x i => shows_show x (by decide) ..).trans (shows_setFld _ (by decide) ..)
  unfold State.stackReset
  extract_lets out left a b c
  have hb : b.greeted = s.greeted := rfl
  have hc : c.greeted = s.greeted := (show Shows [.DM_STATUS] b c from shows_ite (.refl b) (shows_setFld b (by decide) ..)).field State.greeted |>.trans hb
  refine ((space _).field State.greeted).trans ((flushed_field _ 4 _ State.greeted).trans (((settles_settle _).field State.greeted).trans ?_))
  exact hc

theorem greeted_testReset (s : State) (l : Nat) : (s.testReset l).greeted = s.greeted := by
  unfold State.testReset
  split
  · exact greeted_stackReset ..
  · exact greeted_unitReset ..

end Sys2Proof.Machine

open Sys2Proof.Machine in
/-- Settles O2: by evaluation, field by field. -/
theorem resetLeavesTableValues : Obligations.ResetLeavesTableValues :=
  ⟨⟨fun _ => rfl, fun _ => ⟨rfl, rfl, rfl, rfl⟩, rfl, rfl, rfl, rfl, rfl, rfl, rfl, rfl, rfl, rfl, rfl, rfl, isReady_reset⟩, bounded_reset⟩

open Sys2Proof.Machine in
/-- Settles O25: each command by its row, and the feature word by the parts of each reset. -/
theorem helloAndSetupsBeginTheRings : Obligations.HelloAndSetupsBeginTheRings := by
  refine ⟨fun mb s due => ⟨fun some' => ?_, fun noRing noCq => ?_⟩, fun mb s => ?_, fun s => ⟨fun c known => ?_, fun slot => ?_, fun powered => ?_, ?_, ?_, fun l => ?_⟩⟩
  · rw [exec_hello_due due, if_pos]
    · rfl
    · simpa [or_iff_not_imp_left] using some'
  · have run : exec (.hello mb) s = answersOk mb { s with feat := s.common mb, helloDone := true } (s.helloResp mb) := by
      rw [exec_hello_due due, noRing, noCq]
      rfl
    exact ⟨s.common mb, s.helloResp mb, run, bitOf_common s mb, helloResp_fields s mb⟩
  · intro k base
    refine ⟨fun due weight low high aligned mapped fresh => ?_, fun due small low high vector aligned mapped fresh => ?_,
      fun due low high aligned mapped kept => ?_, fun due => ?_⟩
    · rw [exec_ringSetup_due due, if_neg (by omega), if_neg (by simp only [Bool.or_eq_true, decide_eq_true_eq]; omega), baseOk_of aligned mapped, if_neg (by decide), fresh]
      rfl
    · rw [exec_cqSetup_due due, if_neg (by omega), if_neg (by simp only [Bool.or_eq_true, decide_eq_true_eq]; omega), if_neg (by omega), baseOk_of aligned mapped, if_neg (by decide), fresh]
      rfl
    · refine (exec_due rfl due).trans ?_
      dsimp only
      rw [if_neg (by simp only [Bool.or_eq_true, decide_eq_true_eq]; omega), baseOk_of aligned mapped, if_neg (by decide),
        lostPost_of_none_lost (by exact kept)]
      rfl
    · exact (exec_due rfl due).trans rfl
  · exact Prod.mk.inj (greeted_deviceReset s known)
  · exact Prod.mk.inj (greeted_powerOn s slot)
  · exact ⟨_, exec_functionLevelReset_powered powered, Prod.mk.inj (greeted_functionLevelReset s)⟩
  · exact computeReset_keeps s State.feat
  · exact computeReset_keeps s State.helloDone
  · exact Prod.mk.inj (greeted_testReset s l)

end


section
/-! PROOFS. Teardowns of rings, and groups (14_rings_and_mailboxes.md). -/

namespace Sys2Proof.Machine

/-! ### The descriptors of a ring that closes -/

theorem find?_closeRing {s : State} {k : Nat} {r : Ring} (found : Tab.find? s.rings k = some r) :
    Tab.find? (s.closeRing k).1.rings k = some { r with closing := true } := by
  rw [closeRing_rings, Tab.find?_modify, if_pos rfl, found]
  rfl

/-- Cancelling descriptors leaves those of other numbers. -/
theorem mem_cancelOne {s : State} {j x : Job} (mem : x ∈ s.jobs) (other : x.jid ≠ j.jid) : x ∈ (s.cancelOne j).jobs := by
  obtain ⟨tk, jobs⟩ := failJob_jobs (s := ({ s with rounds := Tab.modify s.rounds j.barrierId fun r =>
    { r with arrivals := r.arrivals.filter (· ≠ j.jid) } })) j stCancelled 0
  have jobs : (s.cancelOne j).jobs = _ := jobs
  rw [jobs]
  exact List.mem_append_left _ (List.mem_filter.2 ⟨mem, by simpa using other⟩)

theorem cancelled_cancelOne (s : State) (j : Job) :
    ∃ e ∈ (s.cancelOne j).jobs, e.jid = j.jid ∧ e.phase = .done ∧ e.status = stCancelled ∧ e.detail = 0 := by
  obtain ⟨tk, jobs⟩ := failJob_jobs (s := ({ s with rounds := Tab.modify s.rounds j.barrierId fun r =>
    { r with arrivals := r.arrivals.filter (· ≠ j.jid) } })) j stCancelled 0
  have jobs : (s.cancelOne j).jobs = _ := jobs
  refine ⟨({ j with claimed := [], reads := [] } : Job).finished stCancelled 0 tk, ?_, rfl, rfl, rfl, rfl⟩
  rw [jobs]
  exact List.mem_append_right _ (List.mem_singleton_self _)

theorem closeRing_cancels {s : State} (distinct : (s.jobs.map Job.jid).Nodup) {k : Nat} {j : Job} (mem : j ∈ s.jobs)
    (own : j.cancels k = true) : ∃ e ∈ (s.closeRing k).1.jobs, e.jid = j.jid ∧ e.phase = .done ∧ e.status = stCancelled ∧ e.detail = 0 := by
  have names : ((s.jobs.filter fun j => j.cancels k).map Job.jid).Nodup := distinct.sublist (List.filter_sublist.map _)
  obtain ⟨before, after, split⟩ := List.append_of_mem ((List.mem_filter (p := fun j : Job => j.cancels k)).2 ⟨mem, own⟩)
  rw [closeRing_eq, split, List.foldl_append, List.foldl_cons]
  rw [split, List.map_append, List.map_cons, List.nodup_append, List.nodup_cons] at names
  obtain ⟨-, ⟨fresh, -⟩, -⟩ := names
  refine List.foldlRecOn (motive := fun t : State => ∃ e ∈ t.jobs, e.jid = j.jid ∧ e.phase = .done ∧ e.status = stCancelled ∧ e.detail = 0)
    after _ (cancelled_cancelOne _ j) fun t h x later => ?_
  obtain ⟨e, there, name, rest⟩ := h
  exact ⟨e, mem_cancelOne there fun same => fresh (name ▸ same ▸ List.mem_map_of_mem later), name, rest⟩

theorem closeRing_spares {s : State} (distinct : (s.jobs.map Job.jid).Nodup) {k : Nat} {j : Job} (mem : j ∈ s.jobs)
    (other : j.cancels k = false) : j ∈ (s.closeRing k).1.jobs := by
  rw [closeRing_eq]
  refine List.foldlRecOn (motive := fun t : State => j ∈ t.jobs) _ _ mem fun t there x cancelled => mem_cancelOne there fun same => ?_
  obtain ⟨xMem, xOwn⟩ := List.mem_filter.1 cancelled
  rw [List.inj_on_of_nodup_map distinct mem xMem same, xOwn] at other
  cases other

theorem not_mem_eligibles {s : State} (h : ordered s.rings) {k : Nat} {r : Ring} (found : Tab.find? s.rings k = some r) (closed : r.closing = true)
    (c : Nat) : k ∉ s.eligibles c := by
  intro mem
  obtain ⟨e, inTable, rfl⟩ := List.mem_map.1 mem
  obtain ⟨inRings, able⟩ := List.mem_filter.1 inTable
  have same : e.2 = r := Option.some.inj ((find?_of_ordered h inRings).symm.trans found)
  simp [State.eligible, State.hasEntry, same, closed] at able

/-! ### A teardown that ends -/

/-- The one command that runs of a mailbox, and what its end does. -/
theorem exec_mailboxCompletion_one {s : State} {mb : Nat} {r : MbRun} (only : s.mbRun = [(mb, r)]) (small : mb < 1000) :
    exec (.mailboxCompletion mb) s = .next (if s.runDue r then
      (({ s with mbRun := [] } : State).runEnd r).1.mbAnswer mb msOk 0 (({ s with mbRun := [] } : State).runEnd r).2 else s) := by
  have own : s.runsOf mb = [(mb, r)] := by
    rw [State.runsOf, only, List.filter_cons, if_pos (by simpa using Nat.mod_eq_of_lt small)]
    rfl
  have gone : Tab.del s.mbRun mb = [] := by
    rw [only, Tab.del, List.filter_cons, if_neg (by simp)]
    rfl
  rw [exec_mailboxCompletion, execMailboxCompletion, own]
  by_cases due : s.runDue r = true
  · rw [List.find?_cons_of_pos (by exact due), if_pos due]
    dsimp only
    rw [if_pos rfl, gone]
  · rw [List.find?_cons_of_neg (by exact due), if_neg due]
    rfl

/-! ### Unbinding groups -/

/-- A table of groups that has only lost groups and members. -/
def Shrunk (gs r : Tab (List Nat)) : Prop := ∀ e ∈ r, ∃ ms, (e.1, ms) ∈ gs ∧ e.2 ⊆ ms

theorem Shrunk.refl (gs : Tab (List Nat)) : Shrunk gs gs := fun e mem => ⟨e.2, mem, fun _ h => h⟩

theorem Shrunk.trans {a b c : Tab (List Nat)} (ab : Shrunk a b) (bc : Shrunk b c) : Shrunk a c := fun e mem => by
  obtain ⟨ms, inB, sub⟩ := bc e mem
  obtain ⟨ms', inA, sub'⟩ := ab _ inB
  exact ⟨ms', inA, fun _ h => sub' (sub h)⟩

theorem Tab.find?_eq_none_of {α : Type} {t : Tab α} {k : Nat} (absent : ∀ e ∈ t, e.1 ≠ k) : Tab.find? t k = none := by
  cases found : Tab.find? t k with
  | none => rfl
  | some v => exact absurd rfl (absent _ (Tab.mem_of_find? found))

theorem Tab.absent_of_find?_none {α : Type} {t : Tab α} {k : Nat} (none : Tab.find? t k = none) : ∀ e ∈ t, e.1 ≠ k := by
  induction t with
  | nil => exact fun e mem => absurd mem List.not_mem_nil
  | cons x r ih =>
    obtain ⟨a, v⟩ := x
    unfold Tab.find? at none
    split at none
    · cases none
    · next other =>
      intro e mem
      rcases List.mem_cons.1 mem with rfl | mem
      · exact other
      · exact ih none e mem

/-- A member that names the group. -/
def names (own : Nat → Bool) (g h : Nat) : Bool := own (h / 2 ^ 16) && h % 2 ^ 16 = g

/-- The table with a group and every mention of it gone. -/
def struck (own : Nat → Bool) (gs : Tab (List Nat)) (g : Nat) : Tab (List Nat) :=
  (Tab.del gs g).map fun e => (e.1, e.2.filter fun h => !names own g h)

/-- An emptied group unbound in turn. -/
def unbindEmpty (own : Nat → Bool) (n : Nat) (gs : Tab (List Nat)) (k : Nat) : Tab (List Nat) :=
  if Tab.find? gs k = some [] then unbind own gs n k else gs

theorem unbind_succ (own : Nat → Bool) (gs : Tab (List Nat)) (n g : Nat) : unbind own gs (n + 1) g =
    ((gs.filter fun e => e.2.any (names own g)).map Prod.fst).foldl (unbindEmpty own n) (struck own gs g) := by
  rw [unbind]
  rfl

theorem mem_struck {own : Nat → Bool} {gs : Tab (List Nat)} {g : Nat} {e : Nat × List Nat} (mem : e ∈ struck own gs g) :
    e.1 ≠ g ∧ ∃ ms, (e.1, ms) ∈ gs ∧ e.2 = ms.filter fun h => !names own g h := by
  obtain ⟨x, kept, rfl⟩ := List.mem_map.1 mem
  obtain ⟨inTable, other⟩ := List.mem_filter.1 kept
  exact ⟨by simpa using other, x.2, inTable, rfl⟩

theorem shrunk_struck (own : Nat → Bool) (gs : Tab (List Nat)) (g : Nat) : Shrunk gs (struck own gs g) := fun e mem => by
  obtain ⟨-, ms, inTable, kept⟩ := mem_struck mem
  exact ⟨ms, inTable, kept ▸ List.filter_subset' _⟩

theorem shrunk_unbind (own : Nat → Bool) (n : Nat) (gs : Tab (List Nat)) (g : Nat) : Shrunk gs (unbind own gs n g) := by
  induction n generalizing gs g with
  | zero => exact fun e mem => ⟨e.2, List.mem_of_mem_filter mem, fun _ h => h⟩
  | succ n ih =>
    rw [unbind_succ]
    refine (shrunk_struck own gs g).trans (List.foldlRecOn (motive := fun t => Shrunk (struck own gs g) t) _ _ (Shrunk.refl _) fun t h k _ => h.trans ?_)
    unfold unbindEmpty
    split
    · exact ih t k
    · exact .refl t

theorem shrunk_unbindEmpty (own : Nat → Bool) (n : Nat) (gs : Tab (List Nat)) (k : Nat) : Shrunk gs (unbindEmpty own n gs k) := by
  unfold unbindEmpty
  split
  · exact shrunk_unbind own n gs k
  · exact .refl gs

theorem shrunk_unbindAll (own : Nat → Bool) (n : Nat) (l : List Nat) (gs : Tab (List Nat)) : Shrunk gs (l.foldl (unbindEmpty own n) gs) :=
  List.foldlRecOn (motive := fun t => Shrunk gs t) l _ (Shrunk.refl gs) fun t h k _ => h.trans (shrunk_unbindEmpty own n t k)

/-- An unbound group is in the table no more. -/
theorem unbind_gone (own : Nat → Bool) (n : Nat) (gs : Tab (List Nat)) (g : Nat) : ∀ e ∈ unbind own gs n g, e.1 ≠ g := by
  cases n with
  | zero =>
    intro e mem
    simpa using (List.mem_filter.1 mem).2
  | succ n =>
    intro e mem
    rw [unbind_succ] at mem
    obtain ⟨ms, inStruck, -⟩ := shrunk_unbindAll own n _ _ e mem
    exact (mem_struck inStruck).1

/-- No group names an unbound one. -/
theorem unbind_unnamed (own : Nat → Bool) (n : Nat) (gs : Tab (List Nat)) (g : Nat) : ∀ e ∈ unbind own gs (n + 1) g, ∀ h ∈ e.2, names own g h = false := by
  intro e mem h inGroup
  rw [unbind_succ] at mem
  obtain ⟨ms, inStruck, sub⟩ := shrunk_unbindAll own n _ _ e mem
  obtain ⟨-, ms', -, kept⟩ := mem_struck inStruck
  have kept : ms = ms'.filter fun h => !names own g h := kept
  have := (List.mem_filter.1 (kept ▸ sub inGroup)).2
  simpa using this

/-- A group that held only the unbound one is unbound too. -/
theorem unbind_emptied {own : Nat → Bool} {gs : Tab (List Nat)} (h : ordered gs) (n g : Nat) {k : Nat} {ms : List Nat}
    (found : Tab.find? gs k = some ms) (member : ∃ x ∈ ms, names own g x = true) (all : ∀ x ∈ ms, names own g x = true) :
    ∀ e ∈ unbind own gs (n + 1) g, e.1 ≠ k := by
  rw [unbind_succ]
  have had : k ∈ (gs.filter fun e => e.2.any (names own g)).map Prod.fst := by
    obtain ⟨x, inGroup, named⟩ := member
    exact List.mem_map.2 ⟨(k, ms), List.mem_filter.2 ⟨Tab.mem_of_find? found, List.any_eq_true.2 ⟨x, inGroup, named⟩⟩, rfl⟩
  have empty : ∀ e ∈ struck own gs g, e.1 = k → e.2 = [] := by
    intro e mem key
    obtain ⟨-, ms', inTable, kept⟩ := mem_struck mem
    have same : ms' = ms := Option.some.inj ((find?_of_ordered h (key ▸ inTable : (k, ms') ∈ gs)).symm.trans found)
    rw [kept, same, List.filter_eq_nil_iff]
    exact fun x inGroup => by simp [all x inGroup]
  obtain ⟨before, after, split⟩ := List.append_of_mem had
  rw [split, List.foldl_append, List.foldl_cons]
  intro e mem key
  obtain ⟨ms', inStep, -⟩ := shrunk_unbindAll own n after _ e mem
  generalize reached : before.foldl (unbindEmpty own n) (struck own gs g) = cur at inStep
  have still : ∀ e ∈ cur, e.1 = k → e.2 = [] := by
    intro e mem key
    rw [← reached] at mem
    obtain ⟨ms', inStruck, sub⟩ := shrunk_unbindAll own n before _ e mem
    have none : ms' = [] := empty _ inStruck key
    rw [none] at sub
    exact List.subset_nil.1 sub
  unfold unbindEmpty at inStep
  split at inStep
  · exact unbind_gone own n cur k _ inStep key
  · next other =>
    cases here : Tab.find? cur k with
    | none => exact Tab.absent_of_find?_none here _ inStep key
    | some v => exact other (here.trans (congrArg some (still _ (Tab.mem_of_find? here) rfl)))

/-! ### A group bound -/

section
variable {s : State} {mb : Nat}

/-- The checks that all four actions share, passed. -/
theorem groupStep_of_ok (group : 0x1000 ≤ s.pay mb 0 2) (few : (s.groupArgs mb).length ≤ 1006)
    (ok : ∀ h ∈ s.groupArgs mb, s.handleOk h = true ∨ s.canonical h = hereHandle (s.pay mb 0 2)) (f : Nat → List Nat → Ended) :
    s.groupStep mb f = f (s.pay mb 0 2) ((s.groupArgs mb).map s.canonical).eraseDups := by
  have none : (((List.range (s.groupArgs mb).length).zip (s.groupArgs mb)).find? fun e =>
      !(s.handleOk e.2 || s.canonical e.2 = hereHandle (s.pay mb 0 2))) = none := by
    rw [List.find?_eq_none]
    intro e mem
    rcases ok e.2 (List.of_mem_zip mem).2 with known | own
    · simp [known]
    · simp [own]
  unfold State.groupStep
  dsimp only
  rw [if_neg (by omega), if_neg (by omega), none]

/-- The table that a member list leaves. -/
def State.groupTable (s : State) (g : Nat) (l : List Nat) : Tab (List Nat) := if l = [] then unbind s.isHere s.groups 32 g else Tab.put s.groups g l

theorem bindGroup_eq (s : State) (g : Nat) (l : List Nat) : s.bindGroup g l =
    if 1006 < l.length then s.fails msLimit 68
    else if l.any (groupReaches s.isHere s.groups g 32) then s.fails msCycle (hereHandle g)
    else if (s.groupTable g l).any fun e => decide (16 < groupDepth s.isHere (s.groupTable g l) 18 (hereHandle e.1)) then s.fails msDepth (hereHandle g)
    else State.ends { s with groups := s.groupTable g l } (leBytes 2 (Tab.getD (s.groupTable g l) g []).length ++
      leBytes 1 (groupDepth s.isHere (s.groupTable g l) 18 (hereHandle g)) ++ [0]) := by
  cases l <;> rfl

theorem answered_bindGroup (s : State) (mb g : Nat) (l : List Nat) :
    let loops : Prop := ∃ m ∈ l, groupReaches s.isHere s.groups g 32 m = true
    let deep : Prop := ∃ e ∈ s.groupTable g l, 16 < groupDepth s.isHere (s.groupTable g l) 18 (hereHandle e.1)
    (1006 < l.length → (s.bindGroup g l).answered mb = s.mbAnswer mb 0x16 68 []) ∧
    (l.length ≤ 1006 → loops → (s.bindGroup g l).answered mb = s.mbAnswer mb 0x19 (hereHandle g) []) ∧
    (l.length ≤ 1006 → ¬ loops → deep → (s.bindGroup g l).answered mb = s.mbAnswer mb 0x18 (hereHandle g) []) ∧
    (l.length ≤ 1006 → ¬ loops → ¬ deep → (s.bindGroup g l).answered mb = ({ s with groups := s.groupTable g l } : State).mbAnswer mb 0 0
      (leBytes 2 (Tab.getD (s.groupTable g l) g []).length ++ leBytes 1 (groupDepth s.isHere (s.groupTable g l) 18 (hereHandle g)) ++ [0])) := by
  intro loops deep
  have loops_iff : l.any (groupReaches s.isHere s.groups g 32) = true ↔ loops := List.any_eq_true
  have deep_iff : ((s.groupTable g l).any fun e => decide (16 < groupDepth s.isHere (s.groupTable g l) 18 (hereHandle e.1))) = true ↔ deep := by
    rw [List.any_eq_true]
    simp only [decide_eq_true_eq]
    rfl
  rw [bindGroup_eq]
  refine ⟨fun long => ?_, fun short loop => ?_, fun short noLoop deeper => ?_, fun short noLoop flat => ?_⟩
  · rw [if_pos long]
    rfl
  · rw [if_neg (by omega), if_pos (loops_iff.2 loop)]
    rfl
  · rw [if_neg (by omega), if_neg fun h => noLoop (loops_iff.1 h), if_pos (deep_iff.2 deeper)]
    rfl
  · rw [if_neg (by omega), if_neg fun h => noLoop (loops_iff.1 h), if_neg fun h => flat (deep_iff.1 h)]
    rfl

end

end Sys2Proof.Machine

open Sys2Proof.Machine in
/-- Settles O26: a teardown closes its ring and starts, and its completion waits for the last descriptor. -/
theorem teardownsEndWithTheLastRecord : Obligations.TeardownsEndWithTheLastRecord := by
  refine ⟨fun mb s r due found isOpen => ?_, fun s r raw q found closing => ?_, fun mb s q due found isOpen => ?_, fun mb s => ⟨fun due => ⟨fun none => ?_,
    fun r found closed => ?_⟩, fun due absent => ?_⟩, fun mb k n d s only small => ⟨fun used => ?_, fun free => ?_⟩,
    fun mb c s only small => ⟨fun used => ?_, fun free => ?_⟩⟩
  · have run : exec (.ringTeardown mb) s = .next { (s.closeRing (s.pay mb 0 2)).1 with
        mbRun := Tab.put (s.closeRing (s.pay mb 0 2)).1.mbRun mb
          (.ringTeardown (s.pay mb 0 2) (s.closeRing (s.pay mb 0 2)).2 ((r.tail + 2 ^ 32 - r.head) % 2 ^ 32)) } := by
      refine (exec_due rfl due).trans ?_
      dsimp only
      rw [found]
      dsimp only
      rw [if_neg (Bool.eq_false_iff.1 isOpen), answered_starts]
    have count : (s.closeRing (s.pay mb 0 2)).2 = (s.jobs.filter fun j => j.cancels (s.pay mb 0 2)).length := rfl
    have box : (s.closeRing (s.pay mb 0 2)).1.mbox = s.mbox := (congrArg State.mbox (unringed_closeRing s (s.pay mb 0 2)) :)
    have shut := find?_closeRing found
    refine ⟨_, _, run, Tab.find?_put_same .., shut, count, box, fun distinct j mem =>
      ⟨fun own => closeRing_cancels distinct mem own, fun other => closeRing_spares distinct mem other⟩, fun order c => ?_⟩
    have later (t : State) (same : t.rings = (s.closeRing (s.pay mb 0 2)).1.rings) : s.pay mb 0 2 ∉ t.eligibles c :=
      not_mem_eligibles (r := { r with closing := true }) (by rw [same, closeRing_rings]; exact ordered_modify order ..) (same ▸ shut) rfl c
    exact later _ rfl
  · rw [State.verdict, State.liveCq, found]
    dsimp only
    rw [closing]
    rfl
  · refine (exec_due rfl due).trans ?_
    dsimp only
    rw [State.liveCq, found]
    dsimp only
    rw [isOpen]
    rfl
  · refine (exec_due rfl due).trans ?_
    dsimp only
    rw [none]
    rfl
  · refine (exec_due rfl due).trans ?_
    dsimp only
    rw [found]
    dsimp only
    rw [closed]
    rfl
  · refine (exec_due rfl due).trans ?_
    dsimp only
    rw [State.liveCq]
    rcases absent with none | ⟨q, found, closed⟩
    · rw [none]
      rfl
    · rw [found]
      dsimp only
      rw [closed]
      rfl
  · rw [exec_mailboxCompletion_one only small, if_neg]
    simp [State.runDue, used]
  · rw [exec_mailboxCompletion_one only small, if_pos]
    · rfl
    · simp [State.runDue, free]
  · rw [exec_mailboxCompletion_one only small, if_neg]
    obtain ⟨j, mem, own, named⟩ := used
    simp only [State.runDue, Bool.not_eq_true', Bool.not_eq_false, List.any_eq_true]
    exact ⟨j, mem, by simp [own, named]⟩
  · rw [exec_mailboxCompletion_one only small, if_pos]
    · rfl
    · simp only [State.runDue, Bool.not_eq_true', List.any_eq_false]
      intro j mem
      simpa using free j mem

open Sys2Proof.Machine in
/-- Settles O27: the shared checks pass, a list is bound under its own checks, and unbinding only takes away. -/
theorem groupBindChangesTheMemberList : Obligations.GroupBindChangesTheMemberList := by
  refine ⟨fun mb s => ?_, fun own gs g n order => ⟨Tab.find?_eq_none_of (unbind_gone own _ gs g), fun e mem h inGroup => ?_, fun k ms _ found member all => ?_⟩⟩
  · intro g hs ms table loops deep binds group few ok
    have step (f : Nat → List Nat → Ended) : s.groupStep mb f = f g hs := groupStep_of_ok group few ok f
    have bound {c : Sys2Proof.Instr} {l : List Nat} (run : exec c s = .next ((s.bindGroup g l).answered mb)) : binds c l := by
      obtain ⟨long, loop, deeper, fine⟩ := answered_bindGroup s mb g l
      exact ⟨fun h => run.trans (congrArg _ (long h)), fun h hl => run.trans (congrArg _ (loop h hl)),
        fun h hl hd => run.trans (congrArg _ (deeper h hl hd)), fun h hl hd => run.trans (congrArg _ (fine h hl hd))⟩
    refine ⟨fun due => bound ?_, fun due => bound ?_, fun isBound => ⟨fun due => bound ?_, fun due => bound ?_⟩, fun none => ⟨fun due => ?_, fun due => ?_⟩⟩
    · refine (exec_due rfl due).trans ?_
      rw [step]
    · refine (exec_due rfl due).trans ?_
      rw [step]
    · obtain ⟨l, found⟩ := Option.isSome_iff_exists.1 isBound
      refine (exec_due rfl due).trans ?_
      have own : ms = l := congrArg (·.getD []) found
      rw [step, found, own]
    · obtain ⟨l, found⟩ := Option.isSome_iff_exists.1 isBound
      refine (exec_due rfl due).trans ?_
      rw [step, found]
    · refine (exec_due rfl due).trans ?_
      rw [step, none]
      rfl
    · refine (exec_due rfl due).trans ?_
      rw [step, none]
      rfl
  · have unnamed := unbind_unnamed own n gs g e mem h inGroup
    simpa [names] using unnamed
  · refine Tab.find?_eq_none_of (unbind_emptied order n g found ?_ ?_)
    · simpa [names] using member
    · simpa [names] using all

end


section
/-! PROOFS. Allocations, spill space, spills and fills (13_memory_and_placement.md, R325 to R336, R362). -/

namespace Sys2Proof.Machine

/-! ### Allocations made, freed and queried -/

theorem shows_showSpace (s : State) : Shows [.PL_FREE, .PL_STATUS] s s.showSpace :=
  (Shows.foldl _ _ s fun u _ => shows_show u (by decide) ..).trans (shows_setFld _ (by decide) ..)

theorem roomAny_of_roomOn {s : State} {ls : List Nat} {size f : Nat} (inside : f < ls.length) (room : s.roomOn ls size f = true) :
    s.roomAny ls size = true := List.any_eq_true.mpr ⟨f, List.mem_range.mpr inside, room⟩

theorem addrFree_of {s : State} {a size : Nat} (aligned : a % 65536 = 0) (inside : a + size ≤ 2 ^ 40)
    (apart : ∀ y ∈ s.allocs, a + size ≤ y.base ∨ y.base + y.size ≤ a) : s.addrFree a size = true := by
  have clear : (s.allocs.all fun x => decide (a + size ≤ x.base) || decide (x.base + x.size ≤ a)) = true :=
    List.all_eq_true.mpr fun y mem => by simpa using apart y mem
  simp only [State.addrFree, aligned, inside, clear, decide_true, Bool.and_true]

theorem allocate_free {s : State} {h : Hint} {c size addr f : Nat} {ls : List Nat} {l : Lies} (free : s.addrFree addr size = true) :
    s.allocate h c size addr ls f l =
      let home := if h.pool = 0 then none else s.findHome c h.pool h.poolBytes
      let made : State := { s with allocs := s.allocs ++ [⟨addr, size, h, ls, f, l, home, s.tk, c⟩] }
      (home.elim made made.openHome).showSpace.ends (leBytes 8 addr ++ leBytes 8 (home.elim 0 homeAddr)) := by
  simp only [State.allocate, free, Bool.not_true, Bool.false_eq_true, if_false]
  cases if h.pool = 0 then none else s.findHome c h.pool h.poolBytes <;> rfl

theorem placeAlloc_onStacks {s : State} {h : Hint} {c size addr f : Nat} {d : Dest} (inside : f < (s.chosen h c).length)
    (room : s.roomOn (s.chosen h c) size f = true) : s.placeAlloc h c size addr f d = s.allocate h c size addr (s.chosen h c) f .onStacks := by
  simp only [State.placeAlloc, roomAny_of_roomOn inside room, inside, room, decide_true, Bool.and_true, if_true]

/-- The registers and memories that freeing an allocation sets. -/
theorem shows_closeHome (s : State) (h : Nat × Nat × Nat × Nat) : Shows [.BS_WIN] s (s.closeHome h) := shows_setReg s (by decide) ..

theorem freeAlloc_eq (s : State) (x : Alloc) : s.freeAlloc x =
    (x.home.elim { s with allocs := s.allocs.filter fun y => y.base ≠ x.base, dev := Mem.erase s.dev x.base x.size, fillDue := true }
      { s with allocs := s.allocs.filter fun y => y.base ≠ x.base, dev := Mem.erase s.dev x.base x.size, fillDue := true }.closeHome).showSpace := by
  unfold State.freeAlloc
  cases x.home <;> rfl

theorem shows_freeAlloc (s : State) (x : Alloc) : Shows [.BS_WIN, .PL_FREE, .PL_STATUS]
    { s with allocs := s.allocs.filter fun y => y.base ≠ x.base, dev := Mem.erase s.dev x.base x.size, fillDue := true } (s.freeAlloc x) := by
  rw [freeAlloc_eq]
  refine Shows.trans ?_ ((shows_showSpace _).mono (by decide))
  cases x.home with
  | none => exact .refl _
  | some h => exact (shows_closeHome _ h).mono (by decide)

theorem freeAlloc_window (s : State) {x : Alloc} {p : Nat × Nat × Nat × Nat} (home : x.home = some p) :
    (s.freeAlloc x).bit (rk .BS_WIN (s.physB p.1) p.2.2.2) 40 = false := by
  have closed : (s.freeAlloc x).reg (rk .BS_WIN (s.physB p.1) p.2.2.2) = BitVec.ofNat 64 (2 ^ 41) := by
    rw [freeAlloc_eq, home]
    exact ((shows_showSpace _).reg _ (by simp [rk])).trans (State.reg_setReg_same ..)
  rw [State.bit, State.fld, closed]
  decide

theorem exec_tensorAlloc_due {mb addr f d : Nat} {s : State} (due : MailboxDue s (.tensorAlloc mb addr f d))
    (checked : s.allocCheck mb (Hint.ofBytes (s.payBytes mb 8 32)) = none) : exec (.tensorAlloc mb addr f d) s =
    .next ((s.placeAlloc (Hint.ofBytes (s.payBytes mb 8 32)) ((s.consumerOf (Hint.ofBytes (s.payBytes mb 8 32))).getD 0) (s.allocSize mb)
      addr f d).answered mb) := by
  refine (exec_due rfl due).trans ?_
  dsimp only
  rw [checked]

theorem exec_tensorFree_due {mb : Nat} {s : State} (due : MailboxDue s (.tensorFree mb)) : exec (.tensorFree mb) s =
    .next (Ended.answered (match s.allocOf (s.pay mb 0 8) with
      | none => s.fails msNotFound 0
      | some x => if s.pay mb 0 8 % 2 ^ 47 = x.base then (s.freeAlloc x).ends else s.fails msNotFound 0) mb) := (exec_due rfl due).trans rfl

theorem exec_placeQuery_due {mb : Nat} {s : State} (due : MailboxDue s (.placeQuery mb)) : exec (.placeQuery mb) s =
    .next (Ended.answered (match s.allocOf (s.pay mb 0 8) with
      | none => s.fails msNotFound 0
      | some x => s.ends x.answer) mb) := (exec_due rfl due).trans rfl

end Sys2Proof.Machine

open Sys2Proof.Machine in
/-- Settles O28: each command's own step under its hypotheses; what a free leaves is `shows_freeAlloc`. -/
theorem allocationsAreMadeQueriedAndFreed : Obligations.AllocationsAreMadeQueriedAndFreed := by
  refine ⟨fun mb addr f d s => ?_, fun mb s x due found base => ?_, fun mb s x due found => ?_⟩
  · intro h c size home x due checked inside room aligned fits apart
    rw [exec_tensorAlloc_due due checked, show s.allocSize mb = size from rfl, placeAlloc_onStacks inside room, allocate_free (addrFree_of aligned fits apart)]
    rfl
  · rw [exec_tensorFree_due due]
    simp only [found, base, if_true]
    have shown := shows_freeAlloc s x
    have dev : (s.freeAlloc x).dev = Mem.erase s.dev x.base x.size := shown.field State.dev
    refine ⟨s.freeAlloc x, rfl, shown.field State.allocs, fun a from_ upto => ?_, fun a out => ?_, fun p home => freeAlloc_window s home,
      shown.field State.host, shown.field State.rings, shown.field State.jobs, shown.field State.mbox⟩
    · rw [dev, Mem.get_erase, if_pos ⟨from_, upto⟩]
    · rw [dev, Mem.get_erase, if_neg (by omega)]
  · rw [exec_placeQuery_due due]
    simp only [found]
    rfl
end


section
/-! PROOFS. Spill space, spills and fills (13_memory_and_placement.md, R329, R333 to R336). -/

namespace Sys2Proof.Machine

/-! ### Granted ranges -/

theorem foldl_minOf {α : Type} (f : α → Nat) (l : List α) (a : Nat) : l.foldl (fun m g => min m (f g)) a ≤ a ∧
    (∀ g ∈ l, l.foldl (fun m g => min m (f g)) a ≤ f g) ∧
    (l.foldl (fun m g => min m (f g)) a = a ∨ ∃ g ∈ l, l.foldl (fun m g => min m (f g)) a = f g) := by
  induction l generalizing a with
  | nil => simp
  | cons x l ih =>
    obtain ⟨le, all, some⟩ := ih (min a (f x))
    simp only [List.foldl_cons, List.forall_mem_cons, List.exists_mem_cons_iff]
    refine ⟨by omega, ⟨by omega, all⟩, ?_⟩
    rcases some with eq | some
    · omega
    · exact .inr (.inr some)

theorem foldl_maxOf {α : Type} (f : α → Nat) (l : List α) (a : Nat) : a ≤ l.foldl (fun m g => max m (f g)) a ∧
    (∀ g ∈ l, f g ≤ l.foldl (fun m g => max m (f g)) a) ∧
    (l.foldl (fun m g => max m (f g)) a = a ∨ ∃ g ∈ l, l.foldl (fun m g => max m (f g)) a = f g) := by
  induction l generalizing a with
  | nil => simp
  | cons x l ih =>
    obtain ⟨le, all, some⟩ := ih (max a (f x))
    simp only [List.foldl_cons, List.forall_mem_cons, List.exists_mem_cons_iff]
    refine ⟨by omega, ⟨by omega, all⟩, ?_⟩
    rcases some with eq | some
    · omega
    · exact .inr (.inr some)

/-- A byte of host memory is granted. -/
def covers (gs : List (Nat × Nat)) (y : Nat) : Prop := ∃ g ∈ gs, g.1 ≤ y ∧ y < g.1 + g.2

theorem covers_nil (y : Nat) : covers [] y ↔ False := by simp [covers]

theorem covers_one (g : Nat × Nat) (y : Nat) : covers [g] y ↔ g.1 ≤ y ∧ y < g.1 + g.2 := by simp [covers]

theorem covers_append (gs hs : List (Nat × Nat)) (y : Nat) : covers (gs ++ hs) y ↔ covers gs y ∨ covers hs y := by
  simp only [covers, List.mem_append, or_and_right, exists_or]

/-- A granted range touches the `n` bytes from `a`. -/
def touches (a n : Nat) (g : Nat × Nat) : Bool := decide (g.1 ≤ a + n) && decide (a ≤ g.1 + g.2)

theorem touches_iff {a n : Nat} {g : Nat × Nat} : touches a n g = true ↔ g.1 ≤ a + n ∧ a ≤ g.1 + g.2 := by simp [touches]

theorem not_touches_iff {a n : Nat} {g : Nat × Nat} : (!touches a n g) = true ↔ a + n < g.1 ∨ g.1 + g.2 < a := by
  simp only [touches, Bool.not_eq_true', Bool.and_eq_false_iff, decide_eq_false_iff_not]
  omega

/-- The joined range: its first byte and the one past its last. -/
def joined (gs : List (Nat × Nat)) (a n : Nat) : Nat × Nat :=
  ((gs.filter (touches a n)).foldl (fun m g => min m g.1) a, (gs.filter (touches a n)).foldl (fun m g => max m (g.1 + g.2)) (a + n))

theorem grantAdd_eq (gs : List (Nat × Nat)) (a n : Nat) : grantAdd gs a n = if n = 0 then gs
    else (gs.filter fun g => !touches a n g) ++ [((joined gs a n).1, (joined gs a n).2 - (joined gs a n).1)] := rfl

theorem joined_bounds (gs : List (Nat × Nat)) (a n : Nat) : (joined gs a n).1 ≤ a ∧ a + n ≤ (joined gs a n).2 ∧
    (∀ g ∈ gs, touches a n g = true → (joined gs a n).1 ≤ g.1 ∧ g.1 + g.2 ≤ (joined gs a n).2) ∧
    ((joined gs a n).1 = a ∨ ∃ g ∈ gs, touches a n g = true ∧ (joined gs a n).1 = g.1) ∧
    ((joined gs a n).2 = a + n ∨ ∃ g ∈ gs, touches a n g = true ∧ (joined gs a n).2 = g.1 + g.2) := by
  obtain ⟨low, lows, lowest⟩ := foldl_minOf Prod.fst (gs.filter (touches a n)) a
  obtain ⟨high, highs, highest⟩ := foldl_maxOf (fun g : Nat × Nat => g.1 + g.2) (gs.filter (touches a n)) (a + n)
  simp only [List.mem_filter, and_imp, and_assoc] at lows lowest highs highest
  exact ⟨low, high, fun g mem near => ⟨lows g mem near, highs g mem near⟩, lowest, highest⟩

theorem covers_grantAdd (gs : List (Nat × Nat)) (a n y : Nat) : covers (grantAdd gs a n) y ↔ covers gs y ∨ (a ≤ y ∧ y < a + n) := by
  rw [grantAdd_eq]
  obtain ⟨low, high, inside, lowest, highest⟩ := joined_bounds gs a n
  by_cases none : n = 0
  · rw [if_pos none]
    exact ⟨.inl, fun h => h.resolve_right (by omega)⟩
  rw [if_neg none]
  constructor
  · rintro ⟨g, mem, from_, upto⟩
    rcases List.mem_append.mp mem with mem | mem
    · exact .inl ⟨g, (List.mem_filter.mp mem).1, from_, upto⟩
    obtain rfl := List.mem_singleton.mp mem
    dsimp only at from_ upto
    by_cases below : y < a
    · rcases lowest with eq | ⟨g, mem, near, eq⟩
      · omega
      · have := touches_iff.mp near
        exact .inl ⟨g, mem, by omega, by omega⟩
    by_cases above : a + n ≤ y
    · rcases highest with eq | ⟨g, mem, near, eq⟩
      · omega
      · have := touches_iff.mp near
        exact .inl ⟨g, mem, by omega, by omega⟩
    · exact .inr (by omega)
  · rintro (⟨g, mem, from_, upto⟩ | added)
    · by_cases near : touches a n g = true
      · obtain ⟨lo, hi⟩ := inside g mem near
        exact ⟨_, List.mem_append_right _ (List.mem_singleton.mpr rfl), by dsimp only; omega, by dsimp only; omega⟩
      · exact ⟨g, List.mem_append_left _ (List.mem_filter.mpr ⟨mem, by simp [near]⟩), from_, upto⟩
    · exact ⟨_, List.mem_append_right _ (List.mem_singleton.mpr rfl), by dsimp only; omega, by dsimp only; omega⟩

theorem grantsApart_grantAdd {gs : List (Nat × Nat)} (apart : grantsApart gs) (a n : Nat) : grantsApart (grantAdd gs a n) := by
  rw [grantAdd_eq]
  obtain ⟨low, high, -, lowest, highest⟩ := joined_bounds gs a n
  split
  · exact apart
  have symm : ∀ g ∈ gs, ∀ h ∈ gs, touches a n g = false → touches a n h = true → g.1 + g.2 < h.1 ∨ h.1 + h.2 < g.1 := by
    intro g memG h memH far near
    have ne : g ≠ h := fun same => by simp [same, near] at far
    have swap : Std.Symm fun g h : Nat × Nat => g.1 + g.2 < h.1 ∨ h.1 + h.2 < g.1 := ⟨fun _ _ h => h.symm⟩
    exact List.Pairwise.forall apart memG memH ne
  refine List.pairwise_append.mpr ⟨apart.filter _, List.pairwise_singleton _ _, fun g mem h last => ?_⟩
  obtain rfl := List.mem_singleton.mp last
  obtain ⟨mem, far⟩ := List.mem_filter.mp mem
  have away := not_touches_iff.mp far
  have far : touches a n g = false := by simpa using far
  dsimp only
  rcases away with above | below
  · refine .inr ?_
    rcases highest with eq | ⟨h, memH, near, eq⟩
    · omega
    · have := symm g mem h memH far near
      have := touches_iff.mp near
      omega
  · refine .inl ?_
    rcases lowest with eq | ⟨h, memH, near, eq⟩
    · omega
    · have := symm g mem h memH far near
      have := touches_iff.mp near
      omega

theorem grantAdd_apart {gs : List (Nat × Nat)} {a n : Nat} (some : 0 < n) (apart : ∀ g ∈ gs, a + n < g.1 ∨ g.1 + g.2 < a) :
    grantAdd gs a n = gs ++ [(a, n)] := by
  have none : gs.filter (touches a n) = [] := List.filter_eq_nil_iff.mpr fun g mem near => by
    have := touches_iff.mp near
    have := apart g mem
    omega
  have all : (gs.filter fun g => !touches a n g) = gs := List.filter_eq_self.mpr fun g mem => not_touches_iff.mpr (apart g mem)
  rw [grantAdd_eq, if_neg (by omega), all, joined, none]
  simp

theorem covers_grantCut (gs : List (Nat × Nat)) (a n y : Nat) : covers (grantCut gs a n) y ↔ covers gs y ∧ ¬ (a ≤ y ∧ y < a + n) := by
  have piece (g : Nat × Nat) : covers ((if min (g.1 + g.2) a - g.1 = 0 then [] else [(g.1, min (g.1 + g.2) a - g.1)]) ++
      (if g.1 + g.2 - max g.1 (a + n) = 0 then []
        else [(g.1 + g.2 - (g.1 + g.2 - max g.1 (a + n)), g.1 + g.2 - max g.1 (a + n))])) y ↔
      (g.1 ≤ y ∧ y < g.1 + g.2) ∧ ¬ (a ≤ y ∧ y < a + n) := by
    rcases g with ⟨g, k⟩
    dsimp only
    rw [covers_append]
    have lower : min (g + k) a = g + k ∧ g + k ≤ a ∨ min (g + k) a = a ∧ a ≤ g + k := by omega
    have upper : max g (a + n) = g ∧ a + n ≤ g ∨ max g (a + n) = a + n ∧ g ≤ a + n := by omega
    generalize min (g + k) a = l at *
    generalize max g (a + n) = r at *
    split <;> split <;> simp only [covers_nil, covers_one, false_or, or_false, false_iff] <;> omega
  constructor
  · rintro ⟨g, mem, inside⟩
    obtain ⟨g', mem', part⟩ := List.mem_flatMap.mp mem
    obtain ⟨inG, out⟩ := (piece g').mp ⟨g, part, inside⟩
    exact ⟨⟨g', mem', inG⟩, out⟩
  · rintro ⟨⟨g, mem, inG⟩, out⟩
    obtain ⟨g', part, inside⟩ := (piece g).mpr ⟨inG, out⟩
    exact ⟨g', List.mem_flatMap.mpr ⟨g, mem, part⟩, inside⟩

/-! ### Fills -/

theorem sendLink_field {α : Type} (s : State) (m : LinkMsg) (op : Nat) (f : State → α)
    (hf : ∀ (r : List (RegKey × Word)) (l : List LinkMsg) (p : Tab Port), f { s with regs := r, linkOut := l, ports := p } = f s := by intros; rfl) :
    f (s.sendLink m op) = f s := by
  unfold State.sendLink State.sendAs
  split
  · exact hf s.regs s.linkOut s.ports
  · dsimp only
    split
    · exact hf s.regs s.linkOut _
    · exact hf _ _ _

/-- The allocation as it stands once it is filled back. -/
def Alloc.filled (x : Alloc) (ls : List Nat) : Alloc := { x with lies := .onStacks, stackList := ls, f := x.f % max ls.length 1 }

/-- The state in which a fill has moved the bytes and the allocation, before its counts. -/
def State.filledIn (s : State) (x : Alloc) (ls : List Nat) : State :=
  let s := match x.lies with
    | .peer i => s.sendLink (.read i x.base x.size)
    | _ => s
  { s with
    dev := match x.lies with
      | .host a => Mem.puts (Mem.erase s.dev x.base x.size) (Mem.moved s.host a x.size x.base)
      | _ => s.dev
    dramErr := (s.errorsOf (x.filled ls)).foldl (fun t e => Tab.del t (codeKey e.1 e.2.1)) s.dramErr
    fillDue := true
    allocs := s.allocs.map fun z => if z.base = x.base then x.filled ls else z }

theorem fillOn_eq (s : State) (x : Alloc) (ls : List Nat) :
    s.fillOn x ls = (((s.filledIn x ls).copiedIn (x.filled ls)).bump (rk .PL_FILLS)).showSpace := rfl

theorem filledIn_field {α : Type} (s : State) (x : Alloc) (ls : List Nat) (f : State → α)
    (hf : ∀ (r : List (RegKey × Word)) (l : List LinkMsg) (p : Tab Port) (d : Mem) (e : Tab (List (Nat × Nat))) (b : Bool) (as : List Alloc),
      f { s with regs := r, linkOut := l, ports := p, dev := d, dramErr := e, fillDue := b, allocs := as } = f s := by intros; rfl) :
    f (s.filledIn x ls) = f s := by
  have sent (t : State) (eq : ∃ r l p, t = { s with regs := r, linkOut := l, ports := p }) (d : Mem) (e : Tab (List (Nat × Nat))) (b : Bool)
      (as : List Alloc) : f { t with dev := d, dramErr := e, fillDue := b, allocs := as } = f s := by
    obtain ⟨r, l, p, rfl⟩ := eq
    exact hf ..
  refine sent _ ?_ ..
  split
  · unfold State.sendLink State.sendAs
    split
    · exact ⟨s.regs, s.linkOut, s.ports, rfl⟩
    · dsimp only
      split
      · exact ⟨s.regs, s.linkOut, _, rfl⟩
      · exact ⟨_, _, _, rfl⟩
  · exact ⟨s.regs, s.linkOut, s.ports, rfl⟩

theorem copiedIn_keeps (s : State) (x : Alloc) : (s.copiedIn x).rest = s.rest ∧ (s.copiedIn x).dev = s.dev ∧ (s.copiedIn x).host = s.host ∧
    (s.copiedIn x).allocs = s.allocs ∧ ∀ k : RegKey, k.name ≠ .DM_WRITE_BYTES → (s.copiedIn x).reg k = s.reg k := by
  refine List.foldlRecOn (motive := fun t : State => t.rest = s.rest ∧ t.dev = s.dev ∧ t.host = s.host ∧ t.allocs = s.allocs ∧
    ∀ k : RegKey, k.name ≠ .DM_WRITE_BYTES → t.reg k = s.reg k) _ _ ⟨rfl, rfl, rfl, rfl, fun _ _ => rfl⟩ fun t same st _ => ?_
  obtain ⟨rest, dev, host, allocs, reg⟩ := same
  split
  · exact ⟨rest, dev, host, allocs, reg⟩
  · exact ⟨rest, dev, host, allocs, fun k out => (State.reg_setReg_other t _ fun same => out (congrArg RegKey.name same)).trans (reg k out)⟩

/-- What a fill leaves as it was. -/
theorem fillOn_keeps (s : State) (x : Alloc) (ls : List Nat) : (s.fillOn x ls).host = s.host ∧ (s.fillOn x ls).rings = s.rings ∧
    (s.fillOn x ls).jobs = s.jobs ∧ (s.fillOn x ls).grants = s.grants ∧
    (s.fillOn x ls).allocs = (s.allocs.map fun z => if z.base = x.base then x.filled ls else z) := by
  obtain ⟨rest, -, host, allocs, -⟩ := copiedIn_keeps (s.filledIn x ls) (x.filled ls)
  have shown := shows_showSpace (((s.filledIn x ls).copiedIn (x.filled ls)).bump (rk .PL_FILLS))
  have through {α : Type} (f : State → α) (hf : ∀ t : State, f t.rest = f t) : f ((s.filledIn x ls).copiedIn (x.filled ls)) = f (s.filledIn x ls) := by
    rw [← hf, rest, hf]
  rw [fillOn_eq]
  refine ⟨(shown.field State.host).trans (host.trans ?_), (shown.field State.rings).trans ((through State.rings fun _ => rfl).trans ?_),
    (shown.field State.jobs).trans ((through State.jobs fun _ => rfl).trans ?_),
    (shown.field State.grants).trans ((through State.grants fun _ => rfl).trans ?_), (shown.field State.allocs).trans (allocs.trans ?_)⟩
  · exact filledIn_field s x ls State.host
  · exact filledIn_field s x ls State.rings
  · exact filledIn_field s x ls State.jobs
  · exact filledIn_field s x ls State.grants
  · unfold State.filledIn
    dsimp only
    split
    · rw [sendLink_field s _ _ State.allocs]
    · rfl

theorem fillOn_dev (s : State) (x : Alloc) (ls : List Nat) : (s.fillOn x ls).dev = match x.lies with
    | .host a => Mem.puts (Mem.erase s.dev x.base x.size) (Mem.moved s.host a x.size x.base)
    | _ => s.dev := by
  obtain ⟨-, dev, -⟩ := copiedIn_keeps (s.filledIn x ls) (x.filled ls)
  rw [fillOn_eq]
  refine ((shows_showSpace _).field State.dev).trans (dev.trans ?_)
  unfold State.filledIn
  cases x.lies with
  | peer i => exact sendLink_field s _ _ State.dev
  | onStacks | host a | lost => rfl

theorem fillOn_fills (s : State) (x : Alloc) (ls : List Nat) :
    (s.fillOn x ls).fld (rk .PL_FILLS) 0 64 = min (s.fld (rk .PL_FILLS) 0 64 + 1) (2 ^ 64 - 1) := by
  obtain ⟨-, -, -, -, reg⟩ := copiedIn_keeps (s.filledIn x ls) (x.filled ls)
  have before : (s.filledIn x ls).reg (rk .PL_FILLS) = s.reg (rk .PL_FILLS) := by
    unfold State.filledIn
    cases x.lies with
    | peer i => exact State.sendLink_reg (by decide) s _ _
    | onStacks | host a | lost => rfl
  have whole (n : Nat) (lt : n < 2 ^ 64) : bitsOf n 0 64 = n := by rw [bitsOf, Nat.pow_zero, Nat.div_one, Nat.mod_eq_of_lt lt]
  rw [fillOn_eq, (shows_showSpace _).fld (by decide), State.fld, countersSaturate, whole _ (by omega), reg _ (by decide), before, State.fld,
    whole _ (BitVec.isLt _)]

theorem mem_foldl_insert {α : Type} (p : α → α → Bool) (l : List α) (m : List α) (x : α) :
    x ∈ l.foldl (fun (l : List α) x => (l.takeWhile fun y => p y x) ++ x :: l.dropWhile fun y => p y x) m ↔ x ∈ m ∨ x ∈ l := by
  induction l generalizing m with
  | nil => simp
  | cons y l ih =>
    have split : x ∈ m ↔ x ∈ m.takeWhile (fun z => p z y) ∨ x ∈ m.dropWhile fun z => p z y := by
      rw [← List.mem_append, List.takeWhile_append_dropWhile]
    rw [List.foldl_cons, ih, List.mem_append, List.mem_cons, List.mem_cons, split]
    tauto

theorem mem_fillOrder {s : State} {x : Alloc} : x ∈ s.fillOrder ↔ x ∈ s.allocs ∧ ((∃ a, x.lies = .host a) ∨ ∃ i, x.lies = .peer i) := by
  unfold State.fillOrder
  simp only
  rw [mem_foldl_insert (fun y x : Alloc => decide (x.hint.prio < y.hint.prio) || (y.hint.prio = x.hint.prio && decide (x.lastUse ≤ y.lastUse)))]
  simp only [List.not_mem_nil, false_or, List.mem_filter]
  cases x.lies <;> simp

/-! ### Fills of a revoke -/

theorem fillAll'_nil (s : State) : s.fillAll' [] = some s := rfl

theorem fillAll'_cons_some {s : State} {x : Alloc} {r : List Alloc} {ks : List Nat} (room : s.fillStacks x = some ks) (reach : s.fillReach x = true) :
    s.fillAll' (x :: r) = (s.fillOn x ks).fillAll' r := by
  simp only [State.fillAll', room, reach, if_true]

theorem fillAll'_cons_none {s : State} {x : Alloc} {r : List Alloc} (stays : s.fillStacks x = none ∨ s.fillReach x = false) :
    s.fillAll' (x :: r) = none := by
  unfold State.fillAll'
  rcases stays with room | reach
  · rw [room]
  · rw [reach]
    cases s.fillStacks x <;> rfl

/-- The first step of a fill that comes to its end. -/
theorem fillAll'_cons_cases {s t : State} {x : Alloc} {r : List Alloc} (all : s.fillAll' (x :: r) = some t) :
    ∃ ks, (s.fillOn x ks).fillAll' r = some t := by
  cases room : s.fillStacks x with
  | none => rw [fillAll'_cons_none (.inl room)] at all; cases all
  | some ks =>
    cases reach : s.fillReach x with
    | false => rw [fillAll'_cons_none (.inr reach)] at all; cases all
    | true => exact ⟨ks, (fillAll'_cons_some room reach).symm.trans all⟩

theorem fillAll'_grants {xs : List Alloc} {s t : State} (all : s.fillAll' xs = some t) : t.grants = s.grants := by
  induction xs generalizing s with
  | nil =>
    cases all
    rfl
  | cons x r ih =>
    obtain ⟨ks, all⟩ := fillAll'_cons_cases all
    obtain ⟨-, -, -, grants, -⟩ := fillOn_keeps s x ks
    exact (ih all).trans grants

/-- An allocation that no fill names stays as it is. -/
theorem fillAll'_keeps {xs : List Alloc} {s t : State} (all : s.fillAll' xs = some t) {y : Alloc} (mem : y ∈ s.allocs)
    (other : ∀ x ∈ xs, y.base ≠ x.base) : y ∈ t.allocs := by
  induction xs generalizing s with
  | nil =>
    cases all
    exact mem
  | cons x r ih =>
    obtain ⟨ks, all⟩ := fillAll'_cons_cases all
    obtain ⟨-, -, -, -, allocs⟩ := fillOn_keeps s x ks
    refine ih all ?_ fun z memZ => other z (List.mem_cons_of_mem _ memZ)
    rw [allocs]
    exact List.mem_map.mpr ⟨y, mem, if_neg (other x List.mem_cons_self)⟩

/-- An allocation on the stacks, at the base and with the size of another. -/
def Alloc.backOf (x y : Alloc) : Prop := y.base = x.base ∧ y.size = x.size ∧ y.lies = .onStacks

/-- An allocation that a fill names, or that is back already, is back on the stacks at the end. -/
theorem fillAll'_back {xs : List Alloc} {s t : State} (all : s.fillAll' xs = some t) {x : Alloc} (named : ∀ z ∈ xs, z.base = x.base → z = x)
    (here : (∃ y ∈ s.allocs, y.base = x.base) ∧ (x ∈ xs ∨ ∃ y ∈ s.allocs, x.backOf y)) : ∃ y ∈ t.allocs, x.backOf y := by
  induction xs generalizing s with
  | nil =>
    cases all
    exact here.2.resolve_left List.not_mem_nil
  | cons z r ih =>
    obtain ⟨ks, all⟩ := fillAll'_cons_cases all
    obtain ⟨-, -, -, -, allocs⟩ := fillOn_keeps s z ks
    have image {y : Alloc} (mem : y ∈ s.allocs) : (if y.base = z.base then z.filled ks else y) ∈ (s.fillOn z ks).allocs := by
      rw [allocs]
      exact List.mem_map.mpr ⟨y, mem, rfl⟩
    refine ih all (fun w mem => named w (List.mem_cons_of_mem _ mem)) ?_
    obtain ⟨⟨y, memY, base⟩, back⟩ := here
    by_cases same : x.base = z.base
    · obtain rfl := named z List.mem_cons_self same.symm
      have filled := image memY
      rw [if_pos base] at filled
      exact ⟨⟨_, filled, rfl⟩, .inr ⟨_, filled, rfl, rfl, rfl⟩⟩
    · have kept {w : Alloc} (mem : w ∈ s.allocs) (base : w.base = x.base) : w ∈ (s.fillOn z ks).allocs := by
        have := image mem
        rwa [if_neg (by rw [base]; exact same)] at this
      refine ⟨⟨y, kept memY base, base⟩, back.imp (fun mem => ?_) fun ⟨w, mem, b⟩ => ⟨w, kept mem b.1, b⟩⟩
      exact (List.mem_cons.mp mem).resolve_left fun eq => same (congrArg Alloc.base eq)

/-! ### The commands -/

theorem exec_spillGrant_due {mb : Nat} {s : State} (due : MailboxDue s (.spillGrant mb)) (addr : s.pay mb 0 8 % 4096 = 0) (size : s.pay mb 8 8 % 4096 = 0) :
    exec (.spillGrant mb) s = answersOk mb { s with grants := grantAdd s.grants (s.pay mb 0 8) (s.pay mb 8 8) }
      (leBytes 8 ((grantAdd s.grants (s.pay mb 0 8) (s.pay mb 8 8)).map Prod.snd).sum) := by
  have sound : s.grantCheck mb = none := by simp [State.grantCheck, addr, size]
  refine (exec_due rfl due).trans ?_
  dsimp only
  rw [sound]
  dsimp only
  generalize grantAdd s.grants (s.pay mb 0 8) (s.pay mb 8 8) = gs
  rfl

theorem exec_spillRevoke_busy {mb : Nat} {s : State} (due : MailboxDue s (.spillRevoke mb)) (addr : s.pay mb 0 8 % 4096 = 0)
    (size : s.pay mb 8 8 % 4096 = 0) (stays : s.fillAll' (s.fillOrder.filter fun x => s.hostLies x (s.pay mb 0 8) (s.pay mb 8 8)) = none) :
    exec (.spillRevoke mb) s = .next (s.mbAnswer mb 0x13 0 []) := by
  have sound : s.grantCheck mb = none := by simp [State.grantCheck, addr, size]
  refine (exec_due rfl due).trans ?_
  dsimp only
  rw [sound]
  dsimp only
  erw [stays]
  rfl

theorem exec_spillRevoke_filled {mb : Nat} {s t : State} (due : MailboxDue s (.spillRevoke mb)) (addr : s.pay mb 0 8 % 4096 = 0)
    (size : s.pay mb 8 8 % 4096 = 0) (filled : s.fillAll' (s.fillOrder.filter fun x => s.hostLies x (s.pay mb 0 8) (s.pay mb 8 8)) = some t) :
    exec (.spillRevoke mb) s = answersOk mb { t with grants := grantCut s.grants (s.pay mb 0 8) (s.pay mb 8 8) }
      (leBytes 8 ((grantCut s.grants (s.pay mb 0 8) (s.pay mb 8 8)).map Prod.snd).sum) := by
  have sound : s.grantCheck mb = none := by simp [State.grantCheck, addr, size]
  refine (exec_due rfl due).trans ?_
  dsimp only
  rw [sound]
  dsimp only
  erw [filled, ← fillAll'_grants filled]
  rfl

/-! ### Spills -/

theorem shows_copiedOut (s : State) (x : Alloc) : Shows [.DM_READ_BYTES] s (s.copiedOut x) :=
  Shows.foldl _ _ s fun t _ => shows_ite (.refl t) (shows_bump t (by decide) ..)

theorem spillOne_due {s : State} {x : Alloc} {w : Want} {ws : List Want} {d : Dest} (found : (s.allocs.find? fun y => y.base = x.base) = some x)
    (onStacks : x.lies = .onStacks) (mem : w ∈ ws) (victim : ((s.victims w.1 w.2.1).find? fun v => (s.spillPlace v).isSome) = some x)
    (fits : s.destOk x.hint x.size d = true) (reach : d < 2 ^ 56 → s.hostOpen = true) : s.spillOne ws x.base d = s.spillTo x d := by
  have near : (if d < 2 ^ 56 then s.hostOpen else true) = true := by
    split
    · next h => exact reach h
    · rfl
  unfold State.spillOne
  rw [found]
  refine if_pos ?_
  simp only [Bool.and_eq_true]
  exact ⟨⟨⟨List.any_eq_true.mpr ⟨w, mem, by rw [victim]; exact decide_eq_true rfl⟩, decide_eq_true onStacks⟩, fits⟩, near⟩

theorem readOut_clean {s : State} {x : Alloc} (clean : s.errorsOf x = []) : s.readOut x = s.copiedOut x := by
  unfold State.readOut
  rw [clean]
  rfl

theorem spillOne_idle (s : State) (b d : Nat) : s.spillOne [] b d = s := by
  unfold State.spillOne
  split <;> rfl

end Sys2Proof.Machine

open Sys2Proof.Machine in
/-- Settles O29: grants by the ranges they cover, revokes by the fills they name, spills and fills by what they move. -/
theorem spillsAndFillsMoveAllocationsWhole : Obligations.SpillsAndFillsMoveAllocationsWhole := by
  refine ⟨fun mb s => ?_, fun s x ls r => ⟨fillAll'_nil s, fun ks => fillAll'_cons_some, fillAll'_cons_none⟩, ?_, ?_, ?_, ?_⟩
  · intro a n addr size
    refine ⟨fun due action some apart => ?_, fun due action => ⟨grantAdd s.grants a n, exec_spillGrant_due due addr size,
      covers_grantAdd s.grants a n, fun apart => grantsApart_grantAdd apart a n⟩, fun due action apart => ⟨?_, covers_grantCut s.grants a n⟩,
      fun due action => ⟨exec_spillRevoke_busy due addr size, fun t filled => ⟨fillAll'_grants filled, exec_spillRevoke_filled due addr size filled,
        fun distinct x mem => ⟨fun lies => ?_, fun lies => ?_⟩⟩⟩⟩
    · have added : grantAdd s.grants (s.pay mb 0 8) (s.pay mb 8 8) = s.grants ++ [(a, n)] := grantAdd_apart some apart
      rw [exec_spillGrant_due due addr size, added]
      simp
    · have none : (s.fillOrder.filter fun x => s.hostLies x a n) = [] := List.filter_eq_nil_iff.mpr fun x mem lies => by
        obtain ⟨mem, -⟩ := mem_fillOrder.mp mem
        unfold State.hostLies at lies
        split at lies
        · next h eq =>
          have := apart x mem h eq
          simp at lies
          omega
        · cases lies
      have filled : s.fillAll' (s.fillOrder.filter fun x => s.hostLies x a n) = some s := by rw [none]; rfl
      exact exec_spillRevoke_filled due addr size filled
    · have host : ∃ h, x.lies = .host h := by
        unfold State.hostLies at lies
        split at lies
        · next h eq => exact ⟨h, eq⟩
        · cases lies
      refine fillAll'_back filled (fun z memZ base => ?_) ⟨⟨x, mem, rfl⟩, .inl (List.mem_filter.mpr ⟨mem_fillOrder.mpr ⟨mem, .inl host⟩, lies⟩)⟩
      exact List.inj_on_of_nodup_map distinct (mem_fillOrder.mp (List.mem_filter.mp memZ).1).1 mem base
    · refine fillAll'_keeps filled mem fun z memZ base => ?_
      obtain ⟨memZ, liesZ⟩ := List.mem_filter.mp memZ
      have same := List.inj_on_of_nodup_map distinct mem (mem_fillOrder.mp memZ).1 base
      rw [← same, lies] at liesZ
      cases liesZ
  · intro s x w found onStacks clean mem victim
    refine ⟨fun a low fits link => ?_, fun i fits => ?_⟩
    · have spill : exec (.spill x.base a) s = .next (s.spillTo x a) :=
        congrArg Host.Outcome.next (spillOne_due found onStacks mem victim fits fun _ => link)
      have shown := shows_copiedOut s x
      rw [spill, State.spillTo, readOut_clean clean, if_pos low, shown.field State.host, shown.field State.dev]
      have peer : ¬ 2 ^ 56 ≤ a := by omega
      have here : a - 2 ^ 56 = 0 := by omega
      simp only [State.spilled, Dest.lies, if_pos low, peer, here, decide_false]
      rfl
    · have far : ¬ 2 ^ 56 + i < 2 ^ 56 := by omega
      have spill : exec (.spill x.base (2 ^ 56 + i)) s = .next (s.spillTo x (2 ^ 56 + i)) :=
        congrArg Host.Outcome.next (spillOne_due found onStacks mem victim fits fun low => absurd low far)
      have shown := shows_copiedOut s x
      rw [spill, State.spillTo, readOut_clean clean, if_neg far, shown.field State.dev]
      have peer : 2 ^ 56 ≤ 2 ^ 56 + i := by omega
      simp only [State.spilled, Dest.lies, if_neg far, peer, decide_true, Nat.add_sub_cancel_left]
      rfl
  · intro s b d none
    have run : exec (.spill b d) s = .next (s.spillOne s.wants b d) := rfl
    rw [run, none, spillOne_idle]
  · intro s x ls auto placed due first room
    have run : exec (.fill x.base) s = .next (s.fillOn x ls) := by
      have run : exec (.fill x.base) s = execFill x.base s := rfl
      rw [run, execFill, auto, placed, due]
      simp only [Bool.not_true, Bool.or_self, Bool.false_eq_true, if_false, first, room, if_true]
    obtain ⟨host, rings, jobs, -, allocs⟩ := fillOn_keeps s x ls
    refine ⟨_, run, fun a lies => ?_, fun i lies => ?_, allocs, fillOn_fills s x ls, host, rings, jobs⟩
    · rw [fillOn_dev, lies]
    · rw [fillOn_dev, lies]
  · intro s b stays
    have run : exec (.fill b) s = execFill b s := rfl
    have idle : (!s.bit (rk .PL_CFG) 0 || !s.placement || !s.fillDue) = true := by
      rcases stays with off | off <;> simp [off]
    rw [run, execFill, if_pos idle]
end


section
/-! PROOFS. Mailbox commands that move data, monitor slots, plans and profiles (R144 to R161, R206 to R209, R236, R237, R325, R363). -/

namespace Sys2Proof.Machine

/-! ### TENSOR_LOAD -/

section
variable {s : State} {mb : Nat}

theorem exec_tensorLoad_due (due : MailboxDue s (.tensorLoad mb)) (source : s.loadDev mb = true → s.reaches (s.pay mb 0 8) (s.pay mb 16 8) = true)
    (dest : s.reaches (s.pay mb 8 8) (s.pay mb 16 8) = true) (link : s.loadDev mb = false → s.hostOpen = true) :
    exec (.tensorLoad mb) s = answersOk mb ((s.loadRead mb [(0, s.pay mb 16 8)]).writeAt zenithWho (s.pay mb 8 8) 0
      (s.loadBytes mb 0 (s.pay mb 16 8))) (leBytes 8 (s.pay mb 16 8)) := by
  have reached : (s.loadDev mb && !s.reaches (s.pay mb 0 8) (s.pay mb 16 8)) = false := by
    cases dev : s.loadDev mb <;> simp [dev, source]
  have opened : s.hostShut (s.loadDev mb) = false := by
    cases dev : s.loadDev mb <;> simp [State.hostShut, dev, link]
  refine (exec_due rfl due).trans ?_
  dsimp only
  rw [reached, dest, opened]
  rfl

theorem exec_tensorLoadEncode_due {f : Fmt} (due : MailboxDue s (.tensorLoadEncode mb)) (fmt : s.loadFmt mb = some f) (tiles : f.tileable = true)
    (lead : f.lead = 0) (host : s.loadDev mb = false) (opened : s.hostOpen = true)
    (data : s.reaches (s.pay mb 8 8) ((s.loadTiles mb f).foldl (fun m x => max m (x.1 + x.2.data.length)) 0) true = true)
    (heads : s.reaches (s.pay mb 40 8) (64 * (ceilDiv (s.pay mb 28 4) 32 * ceilDiv (s.pay mb 32 4) 128)) true = true)
    (maps : s.reaches (s.pay mb 48 8) (512 * (ceilDiv (s.pay mb 28 4) 32 * ceilDiv (s.pay mb 32 4) 128)) true = true) :
    exec (.tensorLoadEncode mb) s = answersOk mb
      (s.storeTiles f (s.pay mb 8 8) (s.pay mb 40 8) (s.pay mb 48 8) (ceilDiv (s.pay mb 32 4) 128) (s.loadTiles mb f))
      (leBytes 8 ((s.loadTiles mb f).map fun x => x.2.data.length).sum) := by
  have unread (ps : List (Nat × Nat)) : s.loadRead mb ps = s := by rw [State.loadRead, host]; rfl
  have ready : s.hostShut (s.loadDev mb) = false := by rw [State.hostShut, host, opened]; rfl
  have chosen : (s.loadFmt mb).filter Fmt.tileable = some f := by rw [fmt, Option.filter_some, tiles]; rfl
  refine (exec_due rfl due).trans ?_
  dsimp only
  rw [chosen]
  dsimp only
  rw [ready, host, data, heads, maps, unread]
  rfl

end

/-! ### A byte string made of fields -/

/-- Fields, each with its length in bytes, one after another. -/
def pieceBytes (ps : List (Nat × Nat)) : List Byte := ps.flatMap fun p => leBytes p.1 p.2

theorem pieceBytes_append (ps qs : List (Nat × Nat)) : pieceBytes (ps ++ qs) = pieceBytes ps ++ pieceBytes qs := List.flatMap_append

theorem length_pieceBytes (ps : List (Nat × Nat)) : (pieceBytes ps).length = (ps.map Prod.fst).sum := by
  simp only [pieceBytes, List.length_flatMap, length_leBytes]

theorem fieldAt_pieceBytes (ps : List (Nat × Nat)) (i : Nat) {n x : Nat} (place : ps[i]? = some (n, x)) :
    fieldAt (pieceBytes ps) ((ps.map Prod.fst).take i).sum n = x % 2 ^ (8 * n) := by
  obtain ⟨lt, eq⟩ := List.getElem?_eq_some_iff.mp place
  have whole : ps = ps.take i ++ ((n, x) :: ps.drop (i + 1)) := by
    rw [← eq, ← List.drop_eq_getElem_cons lt, List.take_append_drop]
  have bytes : pieceBytes ps = pieceBytes (ps.take i) ++ (leBytes n x ++ pieceBytes (ps.drop (i + 1))) := by
    conv_lhs => rw [whole, pieceBytes_append]
    rfl
  rw [bytes, ← List.map_take]
  exact fieldAt_piece _ _ x (length_pieceBytes _)

/-! ### Monitor slots -/

/-- A slot's record as its fields: those of the counters and of the scale, then the 64 of the history. -/
def State.recordPieces (s : State) (n mark : Nat) : List (Nat × Nat) :=
  [(8, (s.slotMon n).elements), (8, (s.slotMon n).zeros), (8, (s.slotMon n).satOut), (8, (s.slotMon n).flushOut), (4, (s.slotMon n).nonfinite),
    (4, (s.slotMon n).flushIn), (4, (s.slotMon n).accSat), (4, (s.stepAt n mark).1), (4, (s.slotMon n).haloSamples), (4, (s.slotMon n).haloOver),
    (4, (s.slotMon n).haloMaxUlps), (1, s.fld (rk .WR_SLOT_SCALE 0 n) 0 8), (1, (s.slotMon n).hist.length), (1, flagNat (s.stepAt n mark).2), (1, 0)] ++
  (List.range 64).map fun i => (1, (s.slotMon n).hist.getD i 0)

/-- The lengths of a record's fields. -/
def recordLengths : List Nat := [8, 8, 8, 8, 4, 4, 4, 4, 4, 4, 4, 1, 1, 1, 1] ++ List.replicate 64 1

theorem recordPieces_lengths (s : State) (n mark : Nat) : (s.recordPieces n mark).map Prod.fst = recordLengths := by
  simp [State.recordPieces, recordLengths, Function.comp_def]

theorem monRecord_eq (s : State) (n mark : Nat) : s.monRecord n mark = pieceBytes (s.recordPieces n mark) := by
  rw [State.recordPieces, pieceBytes_append]
  simp only [pieceBytes, List.flatMap_map, List.flatMap_cons, List.flatMap_nil, List.append_nil]
  simp only [State.monRecord, List.append_assoc]

theorem length_monRecord (s : State) (n mark : Nat) : (s.monRecord n mark).length = 128 := by
  rw [monRecord_eq, length_pieceBytes, recordPieces_lengths]
  decide

theorem monRecord_field (s : State) (n mark : Nat) (i : Nat) {o k x : Nat} (place : (s.recordPieces n mark)[i]? = some (k, x))
    (offset : (recordLengths.take i).sum = o) : fieldAt (s.monRecord n mark) o k = x % 2 ^ (8 * k) := by
  rw [monRecord_eq, ← offset, ← recordPieces_lengths s n mark]
  exact fieldAt_pieceBytes _ _ place

theorem monRecord_hist (s : State) (n mark : Nat) {x : Nat} (lt : x < 64) :
    fieldAt (s.monRecord n mark) (64 + x) 1 = (s.slotMon n).hist.getD x 0 % 256 := by
  have place : (s.recordPieces n mark)[15 + x]? = some (1, (s.slotMon n).hist.getD x 0) := by
    rw [State.recordPieces, List.getElem?_append_right (by simp)]
    simp [lt]
  refine monRecord_field s n mark (15 + x) place ?_
  rw [recordLengths, List.take_append, List.sum_append, List.take_replicate]
  simp [lt.le, Nat.add_comm 15 x]

theorem stepAt_idle {s : State} (idle : s.weirQ = []) (n mark : Nat) :
    s.stepAt n mark = ((s.slotMon n).stepAmax, s.bit (rk .WR_SLOT_SCALE 0 n) 15) := by
  rw [State.stepAt, idle]
  rfl

theorem flagNat_bit (s : State) (k : RegKey) (i : Nat) : flagNat (s.bit k i) = s.fld k i 1 := by
  have lt : s.fld k i 1 < 2 := Nat.mod_lt _ (by decide)
  unfold flagNat State.bit
  by_cases one : s.fld k i 1 = 1
  · simp [one]
  · have zero : s.fld k i 1 = 0 := by omega
    simp [zero]

/-- Cutting a string of records of one length gives back each of them. -/
theorem drop_take_flatMap_range {α : Type} (f : Nat → List α) (n : Nat) (count : Nat) (len : ∀ i, (f i).length = n) {i : Nat} (lt : i < count) :
    (((List.range count).flatMap f).drop (n * i)).take n = f i := by
  have split : List.range count = List.range i ++ i :: (List.range count).drop (i + 1) := by
    have cut := List.drop_eq_getElem_cons (l := List.range count) (i := i) (by simpa)
    rw [List.getElem_range] at cut
    rw [← cut, ← Nat.min_eq_left lt.le, ← List.take_range, Nat.min_eq_left lt.le, List.take_append_drop]
  have before : ((List.range i).flatMap f).length = n * i := by
    simp [List.length_flatMap, len, Nat.mul_comm]
  rw [split, List.flatMap_append, List.flatMap_cons, List.drop_left' before, List.take_left' (len i)]

theorem monRecords_slot (s : State) (first count mark : Nat) {i : Nat} (lt : i < count) :
    ((s.monRecords first count mark).drop (128 * i)).take 128 = s.monRecord (first + i) mark :=
  drop_take_flatMap_range (fun i => s.monRecord (first + i) mark) 128 count (fun _ => length_monRecord s _ _) lt

theorem length_monRecords (s : State) (first count mark : Nat) : (s.monRecords first count mark).length = 128 * count := by
  simp [State.monRecords, List.length_flatMap, length_monRecord, Nat.mul_comm]

theorem closeCovers_iff (s : State) (first count mark : Nat) :
    s.closeCovers first count mark = true ↔ ∃ c ∈ s.weirQ, c.seq < mark ∧ c.first < first + count ∧ first ≤ c.last := by
  simp only [State.closeCovers, List.any_eq_true, Bool.and_eq_true, decide_eq_true_eq, and_assoc]

/-- What a lookup finds in a table whose entries that hold the default are left out, and whose others are put through a function. -/
theorem getD_filter_map {α : Type} [DecidableEq α] (t : Tab α) (nd : (t.map Prod.fst).Nodup) (d : α) (f : Nat → α → α) (n : Nat)
    (zero : f n d = d) : Tab.getD ((t.map fun e => (e.1, f e.1 e.2)).filter fun e => e.2 ≠ d) n d = f n (Tab.getD t n d) := by
  induction t with
  | nil => exact zero.symm
  | cons e t ih =>
    obtain ⟨k, v⟩ := e
    rw [List.map_cons, List.nodup_cons] at nd
    have rest := ih nd.2
    have absent : Tab.find? ((t.map fun e => (e.1, f e.1 e.2)).filter fun e => e.2 ≠ d) k = none := by
      refine Tab.find?_eq_none_of fun e mem same => nd.1 ?_
      obtain ⟨e', mem', rfl⟩ := List.mem_map.mp (List.mem_filter.mp mem).1
      exact List.mem_map.mpr ⟨e', mem', same⟩
    have head (l : Tab α) (v : α) : Tab.getD ((k, v) :: l) n d = if k = n then v else Tab.getD l n d := by
      by_cases same : k = n <;> simp [Tab.getD, Tab.find?, same]
    rw [head, List.map_cons, List.filter_cons]
    by_cases same : k = n
    · subst same
      simp only [if_true]
      split
      · rw [head, if_pos rfl]
      · next out =>
        rw [Tab.getD, absent]
        have same : f k v = d := by simpa using out
        exact same.symm
    · rw [if_neg same]
      split
      · rw [head, if_neg same, rest]
      · exact rest

theorem cleared_zero : MonSlot.zero.cleared = MonSlot.zero := rfl

theorem monClear_slotMon {s : State} (nd : (s.mon.map Prod.fst).Nodup) (first count n : Nat) : (s.monClear first count).slotMon n =
    if first ≤ n ∧ n < first + count then { MonSlot.zero with stepAmax := (s.slotMon n).stepAmax, hist := (s.slotMon n).hist } else s.slotMon n := by
  have found := getD_filter_map s.mon nd MonSlot.zero (fun k m => if first ≤ k ∧ k < first + count then m.cleared else m) n
    (by simp only [cleared_zero, ite_self])
  have shape : (s.monClear first count).mon =
      (s.mon.map fun e => (e.1, if first ≤ e.1 ∧ e.1 < first + count then e.2.cleared else e.2)).filter fun e => e.2 ≠ MonSlot.zero := by
    refine congrArg (List.filter _) (List.map_congr_left fun e _ => ?_)
    split <;> rfl
  rw [State.slotMon, shape, found]
  rfl

/-! ### Slots set from records -/

/-- What a record says of its slot. -/
def recordMon (bs : List Byte) : MonSlot :=
  ⟨fieldAt bs 0 8, fieldAt bs 8 8, fieldAt bs 16 8, fieldAt bs 24 8, fieldAt bs 32 4, fieldAt bs 36 4, fieldAt bs 40 4, fieldAt bs 44 4, fieldAt bs 48 4,
    fieldAt bs 52 4, fieldAt bs 56 4, (List.range (fieldAt bs 61 1)).map fun x => fieldAt bs (64 + x) 1⟩

/-- What a record says of its slot's scale. -/
def recordScale (bs : List Byte) : Nat := fieldAt bs 60 1 + 2 ^ 8 * fieldAt bs 61 1 + 2 ^ 15 * (fieldAt bs 62 1 % 2)

theorem recordScale_lt (bs : List Byte) : recordScale bs < 2 ^ 64 := by
  have byte (o : Nat) : fieldAt bs o 1 < 2 ^ 8 := by
    unfold fieldAt
    rcases (bs.drop o) with _ | ⟨b, r⟩
    · decide
    · simp only [List.take_succ_cons, List.take_zero, leNat]
      have := b.isLt
      omega
  have a := byte 60
  have b := byte 61
  unfold recordScale
  omega

theorem monSet_slotMon (s : State) (n k : Nat) (bs : List Byte) : (s.monSet n bs).slotMon k = if k = n then recordMon bs else s.slotMon k := by
  have mon : (s.monSet n bs).mon = if recordMon bs = MonSlot.zero then Tab.del s.mon n else Tab.put s.mon n (recordMon bs) := rfl
  rw [State.slotMon, mon]
  by_cases same : k = n
  · subst same
    rw [if_pos rfl]
    split
    · next zero => rw [Tab.getD_del_same, zero]
    · exact Tab.getD_put_same ..
  · rw [if_neg same]
    split
    · rw [Tab.getD, Tab.find?_del_other _ same]
      rfl
    · exact Tab.getD_put_other _ _ _ same

theorem monSet_reg (s : State) (n : Nat) (bs : List Byte) (k : RegKey) :
    (s.monSet n bs).reg k = if k = rk .WR_SLOT_SCALE 0 n then BitVec.ofNat 64 (recordScale bs) else s.reg k := by
  split
  · next same => subst same; exact State.reg_setReg_same ..
  · next other => exact State.reg_setReg_other _ _ other

theorem monSetAll_eq (s : State) (first count : Nat) (bs : List Byte) :
    s.monSetAll first count bs = { s with mon := (s.monSetAll first count bs).mon, regs := (s.monSetAll first count bs).regs } := by
  refine List.foldlRecOn (motive := fun t : State => t = { s with mon := t.mon, regs := t.regs }) _ _ rfl fun t same i _ => ?_
  have step (bs : List Byte) (n : Nat) : t.monSet n bs = { t with mon := (t.monSet n bs).mon, regs := (t.monSet n bs).regs } := rfl
  rw [step, same]

/-- Every slot of a range holds what its record says, and every other is as it was. -/
theorem monSetAll_slots (s : State) (first : Nat) (bs : List Byte) (count : Nat) :
    (∀ n, (s.monSetAll first count bs).slotMon n = if first ≤ n ∧ n < first + count then recordMon ((bs.drop (128 * (n - first))).take 128)
      else s.slotMon n) ∧
    (∀ i < count, (s.monSetAll first count bs).reg (rk .WR_SLOT_SCALE 0 (first + i)) = BitVec.ofNat 64 (recordScale ((bs.drop (128 * i)).take 128))) ∧
    ∀ k : RegKey, (∀ i < count, k ≠ rk .WR_SLOT_SCALE 0 (first + i)) → (s.monSetAll first count bs).reg k = s.reg k := by
  induction count with
  | zero =>
    refine ⟨fun n => ?_, fun i lt => absurd lt (Nat.not_lt_zero _), fun k _ => rfl⟩
    rw [if_neg (by omega)]
    rfl
  | succ count ih =>
    obtain ⟨slots, scales, others⟩ := ih
    have step : s.monSetAll first (count + 1) bs = (s.monSetAll first count bs).monSet (first + count) ((bs.drop (128 * count)).take 128) := by
      simp only [State.monSetAll, List.range_succ, List.foldl_append, List.foldl_cons, List.foldl_nil]
    refine ⟨fun n => ?_, fun i lt => ?_, fun k out => ?_⟩
    · rw [step, monSet_slotMon, slots]
      by_cases last : n = first + count
      · subst last
        rw [if_pos rfl, if_pos (by omega), Nat.add_sub_cancel_left]
      · rw [if_neg last]
        by_cases inside : first ≤ n ∧ n < first + count
        · rw [if_pos inside, if_pos (by omega)]
        · rw [if_neg inside, if_neg (by omega)]
    · rw [step, monSet_reg]
      by_cases last : i = count
      · subst last
        rw [if_pos rfl]
      · rw [if_neg fun same => last (by simpa [rk] using same)]
        exact scales i (by omega)
    · rw [step, monSet_reg, if_neg (out count (by omega))]
      exact others k fun i lt => out i (by omega)

/-! ### The monitor commands -/

section
variable {s : State} {mb : Nat}

theorem monCheck_sound (first : s.pay mb 0 2 < 4096) (last : s.pay mb 0 2 + s.pay mb 2 2 ≤ 4096) (some : 1 ≤ s.pay mb 2 2)
    (reach : bitOf (s.pay mb 4 1) 1 = true ∨ s.reaches (s.pay mb 8 8) (128 * s.pay mb 2 2) = true) : s.monCheck mb = none := by
  have range : (decide (s.pay mb 2 2 = 0) || decide (4096 < s.pay mb 0 2 + s.pay mb 2 2)) = false := by
    simp only [Bool.or_eq_false_iff, decide_eq_false_iff_not]
    omega
  have place : (!bitOf (s.pay mb 4 1) 1 && !s.reaches (s.pay mb 8 8) (128 * s.pay mb 2 2)) = false := by
    rcases reach with reach | reach <;> simp [reach]
  have low : ¬ 4096 ≤ s.pay mb 0 2 := by omega
  simp only [State.monCheck, low, range, place, if_false, Bool.false_eq_true]

theorem exec_monitorSnapshot_waits (due : MailboxDue s (.monitorSnapshot mb)) (sound : s.monCheck mb = none)
    (covered : s.closeCovers (s.pay mb 0 2) (s.pay mb 2 2) (s.closeMark mb) = true) : exec (.monitorSnapshot mb) s = .next s := by
  refine (exec_due rfl due).trans ?_
  dsimp only
  rw [sound]
  dsimp only
  rw [covered]
  rfl

theorem exec_monitorSnapshot_due (due : MailboxDue s (.monitorSnapshot mb)) (sound : s.monCheck mb = none)
    (free : s.closeCovers (s.pay mb 0 2) (s.pay mb 2 2) (s.closeMark mb) = false) : exec (.monitorSnapshot mb) s =
    let t := if bitOf (s.pay mb 4 1) 0 = true then s.monClear (s.pay mb 0 2) (s.pay mb 2 2) else s
    let bs := s.monRecords (s.pay mb 0 2) (s.pay mb 2 2) (s.closeMark mb)
    answersOk mb (if bitOf (s.pay mb 4 1) 1 = true then t.hostPut mb (s.pay mb 8 8) bs else t.writeAt zenithWho (s.pay mb 8 8) 0 bs)
      (leBytes 8 s.now) := by
  refine (exec_due rfl due).trans ?_
  dsimp only
  rw [sound]
  dsimp only
  rw [free]
  rfl

theorem exec_monitorRestore_waits (due : MailboxDue s (.monitorRestore mb)) (sound : s.monCheck mb = none)
    (covered : s.closeCovers (s.pay mb 0 2) (s.pay mb 2 2) = true) : exec (.monitorRestore mb) s = .next s := by
  refine (exec_due rfl due).trans ?_
  dsimp only
  rw [sound]
  dsimp only
  rw [covered, Bool.true_or]
  rfl

theorem exec_monitorRestore_due (due : MailboxDue s (.monitorRestore mb)) (sound : s.monCheck mb = none)
    (free : s.closeCovers (s.pay mb 0 2) (s.pay mb 2 2) = false) (link : bitOf (s.pay mb 4 1) 1 = true → s.hostOpen = true) :
    exec (.monitorRestore mb) s =
    let bs := if bitOf (s.pay mb 4 1) 1 = true then Mem.read s.host (s.pay mb 8 8) (128 * s.pay mb 2 2)
      else s.peek zenithWho (s.pay mb 8 8) 0 (128 * s.pay mb 2 2)
    .next (Ended.answered (match recordsFault bs (s.pay mb 2 2) with
      | some o => s.fails msLimit o
      | none => State.ends (State.monSetAll (if bitOf (s.pay mb 4 1) 1 = true then s
          else (s.readSpans zenithWho [⟨s.pay mb 8 8, 0, 128 * s.pay mb 2 2⟩] 10).1) (s.pay mb 0 2) (s.pay mb 2 2) bs)) mb) := by
  have opened : s.hostShut (!bitOf (s.pay mb 4 1) 1) = false := by
    cases host : bitOf (s.pay mb 4 1) 1
    · rfl
    · rw [State.hostShut, link host]
      rfl
  refine (exec_due rfl due).trans ?_
  dsimp only
  rw [sound]
  dsimp only
  rw [free, opened]
  rfl

/-! ### Plans and profiles -/

theorem planNumber_sound (low : 1 ≤ s.pay mb 1 1) (high : s.pay mb 1 1 ≤ 15) : (decide (s.pay mb 1 1 = 0) || decide (15 < s.pay mb 1 1)) = false := by
  simp only [Bool.or_eq_false_iff, decide_eq_false_iff_not]
  omega

theorem exec_phasePlanSelect_due (due : MailboxDue s (.phasePlanSelect mb)) (low : 1 ≤ s.pay mb 1 1) (high : s.pay mb 1 1 ≤ 15) :
    exec (.phasePlanSelect mb) s = .next (Ended.answered (match Tab.find? s.plans (s.pay mb 1 1) with
      | none => s.fails msNotFound 0
      | some p => if p.p ≤ s.pay mb 2 1 then s.fails msLimit 66
        else State.ends { s with plans := Tab.put s.plans (s.pay mb 1 1) { p with phase := s.pay mb 2 1 } }) mb) := by
  refine (exec_due rfl due).trans ?_
  dsimp only
  rw [planNumber_sound low high]
  rfl

theorem exec_phasePlanDrop_due (due : MailboxDue s (.phasePlanDrop mb)) (low : 1 ≤ s.pay mb 1 1) (high : s.pay mb 1 1 ≤ 15) :
    exec (.phasePlanDrop mb) s = .next (Ended.answered (if (Tab.find? s.plans (s.pay mb 1 1)).isNone then s.fails msNotFound 0
      else State.ends { s with plans := Tab.del s.plans (s.pay mb 1 1) }) mb) := by
  refine (exec_due rfl due).trans ?_
  dsimp only
  rw [planNumber_sound low high]
  rfl

theorem exec_phasePlanDefine_due (due : MailboxDue s (.phasePlanDefine mb)) (low : 1 ≤ s.pay mb 1 1) (high : s.pay mb 1 1 ≤ 15)
    (head : s.reaches (s.pay mb 8 8) 64 true = true) {h : List Byte} (read : s.peek zenithWho (s.pay mb 8 8) 0 64 = h)
    (number : fieldAt h 0 2 = s.pay mb 1 1) (reserved : fieldAt h 3 1 = 0) (clear : ∀ o ∈ h.drop 6, o = 0) (phases : 1 ≤ fieldAt h 2 1)
    (few : fieldAt h 2 1 ≤ 8) (shards : 1 ≤ fieldAt h 4 2) (fits : fieldAt h 4 2 ≤ 256)
    (table : s.reaches (s.pay mb 8 8) (64 + 4 * fieldAt h 2 1 * fieldAt h 4 2) true = true)
    (entries : ∀ i < fieldAt h 2 1 * fieldAt h 4 2, fieldAt (s.peek zenithWho (s.pay mb 8 8) (64 + 4 * i) 4) 0 4 < 2 ^ 24) :
    exec (.phasePlanDefine mb) s =
    let t := ((s.readSpans zenithWho [⟨s.pay mb 8 8, 0, 64⟩] 10).1.readSpans zenithWho
      [⟨s.pay mb 8 8, 64, 4 * fieldAt h 2 1 * fieldAt h 4 2⟩] 10).1
    answersOk mb { t with plans := Tab.put t.plans (s.pay mb 1 1) ⟨fieldAt h 2 1, fieldAt h 4 2, 0,
      (List.range (fieldAt h 2 1 * fieldAt h 4 2)).map fun i => fieldAt (s.peek zenithWho (s.pay mb 8 8) (64 + 4 * i) 4) 0 4⟩ } [] := by
  have blank : (decide (fieldAt h 3 1 ≠ 0) || (h.drop 6).any (· ≠ 0)) = false := by
    rw [Bool.or_eq_false_iff, List.any_eq_false]
    exact ⟨by simp [reserved], fun o mem => by simp [clear o mem]⟩
  have limits : (decide (fieldAt h 0 2 ≠ s.pay mb 1 1) || decide (fieldAt h 2 1 = 0) || decide (8 < fieldAt h 2 1) || decide (fieldAt h 4 2 = 0) ||
      decide (256 < fieldAt h 4 2)) = false := by
    simp only [Bool.or_eq_false_iff, decide_eq_false_iff_not, number]
    omega
  have handles : (((List.range (fieldAt h 2 1 * fieldAt h 4 2)).map fun i => fieldAt (s.peek zenithWho (s.pay mb 8 8) (64 + 4 * i) 4) 0 4).any
      fun e => decide (2 ^ 24 ≤ e)) = false := by
    rw [List.any_eq_false]
    intro e mem
    obtain ⟨i, lt, rfl⟩ := List.mem_map.mp mem
    simpa using entries i (List.mem_range.mp lt)
  refine (exec_due rfl due).trans ?_
  dsimp only
  rw [planNumber_sound low high, head, read, blank, limits, table, handles]
  rfl

end

end Sys2Proof.Machine

open Sys2Proof.Machine in
/-- Settles O30: the command's own step, whose checks the hypotheses pass. -/
theorem tensorLoadCopiesOrEncodes : Obligations.TensorLoadCopiesOrEncodes := by
  intro mb s n dst
  refine ⟨fun due host dest opened => ?_, fun due dev source dest => ?_, fun f due fmt tiles lead host opened =>
    exec_tensorLoadEncode_due due fmt tiles lead host opened⟩
  · rw [exec_tensorLoad_due due (by simp [host]) dest fun _ => opened, State.loadRead, State.loadBytes, host,
      if_neg Bool.false_ne_true, if_neg Bool.false_ne_true, Nat.add_zero]
  · rw [exec_tensorLoad_due due (fun _ => source) dest (by simp [dev]), State.loadRead, State.loadBytes, dev, if_pos rfl,
      if_pos rfl]
    rfl

open Sys2Proof.Machine in
/-- Settles O31: the records as the string of their fields, the clearing over the table of slots, and the setting by induction on the count. -/
theorem monitorSlotsAreSnappedAndRestored : Obligations.MonitorSlotsAreSnappedAndRestored := by
  refine ⟨fun mb s => ?_, fun s first count mark => ?_, fun s first count bs _ => ?_⟩
  · intro first count a toHost mark low last some reach
    have sound := monCheck_sound low last some reach
    refine ⟨fun due => ⟨exec_monitorSnapshot_waits due sound, exec_monitorSnapshot_due due sound⟩,
      fun due => ⟨exec_monitorRestore_waits due sound, fun free link => ?_⟩⟩
    intro bs u
    have run := exec_monitorRestore_due due sound free link
    refine ⟨fun o fault => run.trans ?_, fun clean => run.trans ?_⟩
    · have fault : recordsFault (if Sys2Proof.bitOf (s.pay mb 4 1) 1 = true then Mem.read s.host (s.pay mb 8 8) (128 * s.pay mb 2 2)
          else s.peek zenithWho (s.pay mb 8 8) 0 (128 * s.pay mb 2 2)) (s.pay mb 2 2) = _ := fault
      dsimp only
      rw [fault]
      rfl
    · have clean : recordsFault (if Sys2Proof.bitOf (s.pay mb 4 1) 1 = true then Mem.read s.host (s.pay mb 8 8) (128 * s.pay mb 2 2)
          else s.peek zenithWho (s.pay mb 8 8) 0 (128 * s.pay mb 2 2)) (s.pay mb 2 2) = none := clean
      dsimp only
      rw [clean]
      rfl
  · refine ⟨closeCovers_iff s first count mark, ⟨rfl, fun nd n => monClear_slotMon nd first count n⟩, length_monRecords s first count mark,
      fun i lt => ?_⟩
    rw [monRecords_slot s first count mark lt]
    intro b n m
    have small (lo w : Nat) (le : w ≤ 8) : s.fld (rk .WR_SLOT_SCALE 0 n) lo w % 2 ^ (8 * 1) = s.fld (rk .WR_SLOT_SCALE 0 n) lo w :=
      Nat.mod_eq_of_lt (lt_of_lt_of_le (Nat.mod_lt _ (by positivity)) (Nat.pow_le_pow_right (by decide) le))
    have scale : fieldAt b 60 1 = s.fld (rk .WR_SLOT_SCALE 0 n) 0 8 := by
      rw [← small 0 8 (by decide)]
      exact monRecord_field s n mark 11 rfl (by decide)
    have blank : fieldAt b 63 1 = 0 := monRecord_field s n mark 14 (x := 0) rfl (by decide)
    have amax : fieldAt b 44 4 = (s.stepAt n mark).1 % 2 ^ 32 := monRecord_field s n mark 7 rfl (by decide)
    have sat : fieldAt b 62 1 = Sys2Proof.flagNat (s.stepAt n mark).2 % 2 ^ (8 * 1) := monRecord_field s n mark 13 rfl (by decide)
    have field (i : Nat) {o k x : Nat} := monRecord_field s n mark i (o := o) (k := k) (x := x)
    refine ⟨field 0 rfl (by decide), field 1 rfl (by decide), field 2 rfl (by decide), field 3 rfl (by decide), field 4 rfl (by decide),
      field 5 rfl (by decide), field 6 rfl (by decide), fun idle => ⟨?_, ?_⟩, field 8 rfl (by decide), field 9 rfl (by decide),
      field 10 rfl (by decide), scale, field 12 rfl (by decide), blank, fun x lt => monRecord_hist s n mark lt⟩
    · rw [amax, stepAt_idle idle]
    · rw [sat, stepAt_idle idle, flagNat_bit, small 15 1 (by decide)]
  · intro t
    obtain ⟨slots, scales, others⟩ := monSetAll_slots s first bs count
    refine ⟨monSetAll_eq s first count bs, fun i lt => ⟨?_, ?_⟩, fun n out => ?_, others⟩
    · refine (slots (first + i)).trans ?_
      rw [if_pos (by omega), Nat.add_sub_cancel_left]
      rfl
    · rw [scales i lt, BitVec.toNat_ofNat, Nat.mod_eq_of_lt (recordScale_lt _)]
      rfl
    · exact (slots n).trans (if_neg (by omega))

open Sys2Proof.Machine in
/-- Settles O32: each command's own step under its hypotheses. -/
theorem plansAndProfilesAreSet : Obligations.PlansAndProfilesAreSet := by
  refine ⟨fun mb s => ?_, fun mb s => ⟨fun due => (exec_due rfl due).trans rfl, fun due => (exec_due rfl due).trans rfl⟩⟩
  intro k a byte P S entry low high
  refine ⟨fun due head number reserved clear phases few shards fits table entries =>
      exec_phasePlanDefine_due due low high head rfl number reserved clear phases few shards fits table entries,
    fun p found => ⟨fun due inside => ?_, fun due => ?_⟩, fun absent => ⟨fun due => ?_, fun due => ?_⟩⟩
  · have found : Tab.find? s.plans (s.pay mb 1 1) = some p := found
    rw [exec_phasePlanSelect_due due low high, found]
    dsimp only
    rw [if_neg (by omega)]
    rfl
  · have found : Tab.find? s.plans (s.pay mb 1 1) = some p := found
    rw [exec_phasePlanDrop_due due low high, found]
    rfl
  · have absent : Tab.find? s.plans (s.pay mb 1 1) = none := absent
    rw [exec_phasePlanSelect_due due low high, absent]
    rfl
  · have absent : Tab.find? s.plans (s.pay mb 1 1) = none := absent
    rw [exec_phasePlanDrop_due due low high, absent]
    rfl
end


section
/-! PROOFS. Resources, Nimbus's reads and debug unlock (14_rings_and_mailboxes.md, 17_clocks_resets_bringup.md,
19_nimbus_security_lifetime.md). -/

namespace Sys2Proof.Machine

/-! ### Resources -/

section
variable {s : State} {mb : Nat}

theorem exec_resourceClaim_due (due : MailboxDue s (.resourceClaim mb)) : exec (.resourceClaim mb) s = .next (Ended.answered
    (if isView (s.pay mb 0 2) && !(claimant mb = 1 && s.debugOn) then s.fails msDebug 0
    else if s.holder (s.pay mb 0 2) ≠ 0 && s.holder (s.pay mb 0 2) ≠ claimant mb then s.fails msHeld (s.holder (s.pay mb 0 2))
    else (if s.holder (s.pay mb 0 2) = claimant mb then s else s.setHolder (s.pay mb 0 2) (claimant mb)).ends (leBytes 4 (claimant mb))) mb) :=
  (exec_due rfl due).trans rfl

theorem exec_resourceRelease_due (due : MailboxDue s (.resourceRelease mb)) : exec (.resourceRelease mb) s = .next (Ended.answered
    (if s.holder (s.pay mb 0 2) ≠ claimant mb then s.fails msNotFound 0
    else State.ends (State.settle (if isView (s.pay mb 0 2) then (s.freeHolder (s.pay mb 0 2)).resumeView (s.pay mb 0 2 - 0x200)
      else s.freeHolder (s.pay mb 0 2)))) mb) := (exec_due rfl due).trans rfl

theorem claimant_eq (mb : Nat) : claimant mb = 1 ∨ claimant mb = 2 := by
  unfold claimant
  split <;> simp

end

end Sys2Proof.Machine

open Sys2Proof.Machine in
/-- Settles O33: the two commands' own steps, by who holds the resource. -/
theorem resourcesGoToOneHolder : Obligations.ResourcesGoToOneHolder := by
  intro mb s r me
  have mine : claimant mb = me := rfl
  have real : me ≠ 0 := by rcases claimant_eq mb with one | two <;> omega
  refine ⟨fun due => ⟨fun view barred => ?_, fun allowed => ?_⟩, fun due => ⟨fun other => ?_, fun held low free => ?_⟩⟩
  · have stop : (isView r && !(decide (claimant mb = 1) && s.debugOn)) = true := by
      have isView : isView r = true := decide_eq_true view
      rw [isView, mine]
      rcases barred with site | locked
      · simp [site]
      · simp [locked]
    rw [exec_resourceClaim_due due, if_pos stop]
    rfl
  · have pass : (isView r && !(decide (claimant mb = 1) && s.debugOn)) = false := by
      by_cases view : 0x200 ≤ r
      · obtain ⟨host, unlocked⟩ := allowed view
        rw [mine, host, unlocked]
        simp
      · have plain : isView r = false := decide_eq_false view
        rw [plain, Bool.false_and]
    rw [exec_resourceClaim_due due, if_neg (by rw [pass]; exact Bool.false_ne_true), mine]
    refine ⟨fun some other => ?_, fun held => ?_, fun none => ?_⟩
    · rw [if_pos (by simp [some, other, r])]
      rfl
    · have held : s.holder (s.pay mb 0 2) = me := held
      rw [if_neg (by simp [held]), if_pos held]
      rfl
    · have none : s.holder (s.pay mb 0 2) = 0 := none
      rw [if_neg (by simp [none]), if_neg (by omega)]
      rfl
  · rw [exec_resourceRelease_due due, if_pos (by rw [mine]; exact other)]
    rfl
  · have held : s.holder (s.pay mb 0 2) = me := held
    have plain : isView (s.pay mb 0 2) = false := decide_eq_false (Nat.not_le.mpr low)
    have freed : s.freeHolder (s.pay mb 0 2) = s.setHolder (s.pay mb 0 2) 0 := by
      refine if_neg fun ⟨pps, waits⟩ => ?_
      have same : (s.setHolder (s.pay mb 0 2) 0).ppsWait = s.ppsWait := by
        unfold State.setHolder
        dsimp only
        split <;> rfl
      rcases free with other | idle
      · exact other pps
      · rw [same, idle] at waits
        cases waits
    rw [exec_resourceRelease_due due, if_neg (by rw [mine]; exact not_not.mpr held), plain, freed]
    rfl

namespace Sys2Proof.Machine

/-! ### What Nimbus answers -/

theorem bitOf_smbStatus (s : State) : bitOf s.smbStatus.toNat 0 = s.powerGood ∧ bitOf s.smbStatus.toNat 1 = s.nimbus ∧
    bitOf s.smbStatus.toNat 2 = s.zenith ∧ bitOf s.smbStatus.toNat 3 = s.bit (rk .PW_STATUS) 3 ∧ bitOf s.smbStatus.toNat 4 = s.tripped ∧
    bitOf s.smbStatus.toNat 5 = s.bit (rk .NB_STATUS) 3 ∧ s.smbStatus.toNat < 2 ^ 6 := by
  have flags : ∀ a b c d e f : Bool,
      let w := (BitVec.ofNat 16 (flagNat a + 2 * flagNat b + 4 * flagNat c + 8 * flagNat d + 16 * flagNat e + 32 * flagNat f)).toNat
      bitOf w 0 = a ∧ bitOf w 1 = b ∧ bitOf w 2 = c ∧ bitOf w 3 = d ∧ bitOf w 4 = e ∧ bitOf w 5 = f ∧ w < 2 ^ 6 := by decide
  exact flags s.powerGood s.nimbus s.zenith (s.bit (rk .PW_STATUS) 3) s.tripped (s.bit (rk .NB_STATUS) 3)

theorem smbusReadWord_answers (c : BitVec 8) (s : State) : exec (.smbusReadWord c) s = .next (
    if s.powered = false then { s with readData := ⟨[], false, false⟩ }
    else if c.toNat < 0x78 then { s with readData := ⟨leBytes 2 (s.sensor c.toNat).toNat, false, true⟩ }
    else if c.toNat = 0x80 then { s with readData := ⟨leBytes 2 s.smbStatus.toNat, false, true⟩ }
    else if c.toNat = 0x81 then { s with readData := ⟨leBytes 2 Config.moduleRevision.toNat, false, true⟩ }
    else { s with readData := ⟨[], false, false⟩ }) := by
  rw [exec_smbusReadWord, execSmbusReadWord]
  cases s.powered
  · rfl
  · simp only [Bool.not_true, Bool.false_eq_true, if_false, Bool.true_eq_false]
    split_ifs <;> rfl

theorem fixLen_whole {n : Nat} {l : List Byte} (len : l.length = n) : fixLen n l = l := by
  rw [fixLen, List.take_left' len]

theorem length_payBytes (s : State) (mb o n : Nat) : (s.payBytes mb o n).length = n := by
  simp [State.payBytes, Mem.read]

/-- The report's bytes before its nonce. -/
def State.reportHead (s : State) : List (Nat × Nat) :=
  [(2, 1), (2, 288), (1, s.fld (rk .SC_STATUS) 1 1), (1, s.fld (rk .SC_STATUS) 0 1), (1, s.fused), (1, flagNat s.activeB + 2 * flagNat s.trialPending)]

theorem reportBody_head (s : State) (nonce : List Byte) : ∃ r, s.reportBody nonce = pieceBytes s.reportHead ++ (fixLen 32 nonce ++ r) := by
  refine ⟨identityDigest ++ (leBytes 8 s.now ++ (leBytes 4 s.life.poweredS ++ (leBytes 4 s.life.powerCycles ++ (leBytes 2 s.firmware.1 ++ (leBytes 6 0 ++
    (fixLen 32 (Config.sm3 Config.bootRom) ++ (fixLen 32 (Config.sm3 s.stages.1) ++ (fixLen 32 (Config.sm3 s.stages.2) ++
    fixLen 32 (Config.sm3 ((List.range 16).flatMap fun i => (s.profile i).answer 0 i)))))))))), ?_⟩
  simp only [State.reportBody, State.reportHead, pieceBytes, List.flatMap_cons, List.flatMap_nil, List.append_nil, List.append_assoc]

theorem length_reportBody (s : State) (nonce : List Byte) : (s.reportBody nonce).length = 224 := by
  simp only [State.reportBody, List.length_append, length_leBytes, length_fixLen, identityDigest]

theorem fieldAt_append_left {l r : List Byte} {o n : Nat} (inside : o + n ≤ l.length) : fieldAt (l ++ r) o n = fieldAt l o n := by
  rw [fieldAt, fieldAt, List.drop_append_of_le_length (by omega), List.take_append_of_le_length (by simp; omega)]

theorem reportBody_field (s : State) (nonce : List Byte) (i : Nat) {o k x : Nat} (place : s.reportHead[i]? = some (k, x))
    (offset : (([2, 2, 1, 1, 1, 1] : List Nat).take i).sum = o) (inside : o + k ≤ 8) (fits : x < 2 ^ (8 * k)) :
    fieldAt (s.reportBody nonce) o k = x := by
  obtain ⟨r, whole⟩ := reportBody_head s nonce
  rw [whole, fieldAt_append_left (by rw [length_pieceBytes]; exact inside), ← offset]
  exact (fieldAt_pieceBytes s.reportHead i place).trans (Nat.mod_eq_of_lt fits)

theorem reportBody_now (s : State) (nonce : List Byte) : fieldAt (s.reportBody nonce) 72 8 = s.now := by
  have before : (pieceBytes s.reportHead ++ (fixLen 32 nonce ++ identityDigest)).length = 72 := by
    simp only [List.length_append, length_fixLen, identityDigest, length_pieceBytes]
    rfl
  have whole : ∃ r, s.reportBody nonce = (pieceBytes s.reportHead ++ (fixLen 32 nonce ++ identityDigest)) ++ (leBytes 8 s.now ++ r) := by
    refine ⟨leBytes 4 s.life.poweredS ++ (leBytes 4 s.life.powerCycles ++ (leBytes 2 s.firmware.1 ++ (leBytes 6 0 ++
      (fixLen 32 (Config.sm3 Config.bootRom) ++ (fixLen 32 (Config.sm3 s.stages.1) ++ (fixLen 32 (Config.sm3 s.stages.2) ++
      fixLen 32 (Config.sm3 ((List.range 16).flatMap fun i => (s.profile i).answer 0 i)))))))), ?_⟩
    simp only [State.reportBody, State.reportHead, pieceBytes, List.flatMap_cons, List.flatMap_nil, List.append_nil, List.append_assoc]
  obtain ⟨r, whole⟩ := whole
  rw [whole, fieldAt_piece _ _ _ before]
  exact Nat.mod_eq_of_lt (BitVec.isLt _)

section
variable {s : State} {mb : Nat}

theorem exec_sensorRead_due (due : MailboxDue s (.sensorRead mb)) : exec (.sensorRead mb) s = .next (Ended.answered
    (if s.pay mb 1 1 = 0 || 120 < s.pay mb 0 1 + s.pay mb 1 1 then s.fails msLimit 65
    else s.ends ((List.range (s.pay mb 1 1)).flatMap fun i => leBytes 2 (s.sensor (s.pay mb 0 1 + i)).toNat)) mb) := (exec_due rfl due).trans rfl

theorem exec_logRead_due (due : MailboxDue s (.logRead mb)) (room : 64 ≤ s.pay mb 8 4) : exec (.logRead mb) s =
    let es := ((if s.pay mb 12 1 = 0 then s.dieLog else s.flashLog).filter fun e =>
      decide (s.pay mb 16 8 ≤ e.num) && decide (e.num < s.logEnd mb (s.pay mb 12 1))).take (s.pay mb 8 4 / 64)
    answersOk mb (s.hostPut mb (s.pay mb 0 8) (es.flatMap LogEntry.bytes)) (leBytes 4 es.length ++ leBytes 4 (64 * es.length)) := by
  refine (exec_due rfl due).trans ?_
  dsimp only
  rw [if_neg (Nat.not_lt.mpr room)]
  rfl

theorem answered_putWhole (s : State) (mb : Nat) (bs : List Byte) : Host.Outcome.next ((s.putWhole mb bs).answered mb) =
    if s.pay mb 8 4 < bs.length then .next (s.mbAnswer mb 0x16 72 [])
    else answersOk mb (s.hostPut mb (s.pay mb 0 8) bs) (leBytes 4 bs.length) := by
  unfold State.putWhole
  split <;> rfl

theorem mbMark_mbStart {m : Nat × Nat × Nat} (mark : Tab.find? (s.mbStart mb).mbMark mb = some m) :
    m.2 = ((s.reg (rk .NB_LOG_DIE)).toNat, (s.reg (rk .NB_LOG_FLASH)).toNat) := by
  unfold State.mbStart at mark
  dsimp only at mark
  split at mark
  · rw [Tab.find?_put_same] at mark
    cases mark
    rfl
  · have ended := congrArg State.mbMark (mbEnded_mbFinish { s with
      mbReq := Mem.puts (Mem.erase s.mbReq (mbBase mb) 4096) (Mem.moved s.mbox (mbBase mb) 4096 (mbBase mb))
      mbMark := Tab.put s.mbMark mb (s.weirSeq, (s.reg (rk .NB_LOG_DIE)).toNat, (s.reg (rk .NB_LOG_FLASH)).toNat) } mb 0x2 0 [])
    rw [ended] at mark
    exact absurd mark (by
      rw [show ∀ (u v : State), State.mbMark { u with regs := v.regs, host := v.host, hostWait := v.hostWait, site := v.site } = u.mbMark from
        fun _ _ => rfl, State.mbFiled, Tab.find?_del_same]
      exact nofun)

end

end Sys2Proof.Machine

open Sys2Proof.Machine in
/-- Settles O34: each read's own step; the report as the string of its fields. -/
theorem nimbusReadsAnswerWhatStands : Obligations.NimbusReadsAnswerWhatStands := by
  refine ⟨fun c s => ?_, fun mb s => ?_⟩
  · rw [smbusReadWord_answers]
    refine ⟨fun power low => ?_, fun power status => ?_, fun power revision => ?_, fun other => ?_⟩
    · rw [power, if_neg (by decide), if_pos low]
    · obtain ⟨good, nimbus, zenith, hot, tripped, busy, lt⟩ := bitOf_smbStatus s
      refine ⟨s.smbStatus.toNat, ?_, good, nimbus, zenith, hot, tripped, busy, lt⟩
      rw [power, if_neg (by decide), if_neg (by omega), if_pos status]
    · rw [power, if_neg (by decide), if_neg (by omega), if_neg (by omega), if_pos revision]
    · rcases other with off | ⟨high, status, revision⟩
      · rw [if_pos off]
      · rw [if_neg (Nat.not_lt.mpr high), if_neg status, if_neg revision, ite_self]
  · refine ⟨fun due some fits => ?_, fun due beyond => ?_, fun due room => exec_logRead_due due room, fun m mark => ?_, fun none => ?_,
      fun m => mbMark_mbStart, fun due => ((exec_due rfl due).trans rfl).trans (answered_putWhole s mb _),
      fun due => ((exec_due rfl due).trans rfl).trans (answered_putWhole s mb _), fun due => ?_⟩
    · have sound : (decide (s.pay mb 1 1 = 0) || decide (120 < s.pay mb 0 1 + s.pay mb 1 1)) = false := by
        simp only [Bool.or_eq_false_iff, decide_eq_false_iff_not]
        omega
      rw [exec_sensorRead_due due, if_neg (by rw [sound]; exact Bool.false_ne_true)]
      rfl
    · rw [exec_sensorRead_due due, if_pos (by simp [beyond])]
      rfl
    · exact ⟨by rw [State.logEnd, mark]; rfl, by rw [State.logEnd, mark]; rfl⟩
    · rw [State.logEnd, none]
    · have flag (i w : Nat) (le : w ≤ 8) : s.fld (rk .SC_STATUS) i w < 2 ^ (8 * 1) :=
        lt_of_lt_of_le (Nat.mod_lt _ (by positivity)) (Nat.pow_le_pow_right (by decide) le)
      have nonce := reportBody_head s (s.payBytes mb 0 32)
      obtain ⟨r, whole⟩ := nonce
      have headLen : (pieceBytes s.reportHead).length = 8 := by
        rw [length_pieceBytes]
        rfl
      refine ⟨s.reportBody (s.payBytes mb 0 32), (exec_due rfl due).trans rfl, length_reportBody s _, ?_, ?_, ?_, ?_, ?_, ?_, reportBody_now s _⟩
      · exact reportBody_field s _ 0 rfl rfl (by decide) (by decide)
      · exact reportBody_field s _ 1 rfl rfl (by decide) (by decide)
      · exact reportBody_field s _ 2 rfl rfl (by decide) (flag 1 1 (by decide))
      · exact reportBody_field s _ 3 rfl rfl (by decide) (flag 0 1 (by decide))
      · exact reportBody_field s _ 4 rfl rfl (by decide) (flag 6 7 (by decide))
      · rw [whole, fixLen_whole (length_payBytes s mb 0 32), List.drop_left' headLen, List.take_left' (length_payBytes s mb 0 32)]

namespace Sys2Proof.Machine

/-! ### Debug -/

theorem shows_showSc (s : State) : Shows [.SC_STATUS, .SC_UNLOCKS] s s.showSc :=
  ((((shows_setFld s (by decide) ..).trans (shows_setFld _ (by decide) ..)).trans (shows_setFld _ (by decide) ..)).trans
    (shows_setFld _ (by decide) ..)).trans (shows_setReg _ (by decide) ..)

theorem showSc_debug (s : State) : s.showSc.fld (rk .SC_STATUS) 0 1 = s.fld (rk .SC_STATUS) 0 1 := by
  unfold State.showSc
  dsimp only
  rw [State.fld, State.reg_setReg_other _ _ (by decide), ← State.fld, State.fld_setFld_apart _ _ 20 7 _ 0 1 (by decide) (by decide),
    State.fld_setFld_apart _ _ 13 7 _ 0 1 (by decide) (by decide), State.fld_setFld_apart _ _ 5 1 _ 0 1 (by decide) (by decide),
    State.fld_setFld_apart _ _ 4 1 _ 0 1 (by decide) (by decide)]

/-- The state unlocked by a sound token, before the event. -/
def State.debugUnlocked (s : State) : State :=
  ({ s.setFld (rk .SC_STATUS) 0 1 1 with life := { s.life with unlocks := satAdd 32 s.life.unlocks 1 } } : State).showSc

theorem debugUnlocked_debug (s : State) : s.debugUnlocked.fld (rk .SC_STATUS) 0 1 = 1 :=
  (showSc_debug _).trans ((s.fld_setFld_same (rk .SC_STATUS) 0 1 1 (by decide)))

theorem debugUnlocked_eq (s : State) : s.debugUnlocked = { s with regs := s.debugUnlocked.regs, life := { s.life with unlocks := satAdd 32 s.life.unlocks 1 } } := by
  have shown := shows_showSc { s.setFld (rk .SC_STATUS) 0 1 1 with life := { s.life with unlocks := satAdd 32 s.life.unlocks 1 } }
  exact shown.eq

/-- The views released, and the jets resumed. -/
def State.viewsFreed (s : State) : State :=
  (List.range 35).foldl (fun (s : State) t => if s.holder (resView t) = 0 then s else s.setHolder (resView t) 0) { s with bar4 := false }

/-- One basin's bounds watch and injection arm cleared. -/
def State.watchCleared (s : State) (u : Nat) : State :=
  let s := if s.bit (rk .BS_DBG_BOUNDS u) 0 then s.setFld (rk .BS_DBG_BOUNDS u) 0 1 0 else s
  if s.bit (rk .BS_ECC_INJECT u) 33 then s.setFld (rk .BS_ECC_INJECT u) 33 1 0 else s

theorem relock_eq (s : State) : s.relock = (List.range 140).foldl State.watchCleared ((List.range 595).foldl State.resumeU s.viewsFreed) := rfl

theorem viewsFreed_holder (s : State) {n : Nat} (lt : n < 35) : s.viewsFreed.holder (0x200 + n) = 0 := by
  refine foldl_sets _ (List.mem_range.mpr lt) _ (fun t => t.holder (0x200 + n) = 0) (fun t => ?_) fun t m free => ?_
  · split
    · next free => exact free
    · exact (holder_setHolder t _ _ _).trans (if_pos rfl)
  · split
    · exact free
    · rw [holder_setHolder, free, ite_self]

theorem viewsFreed_life (s : State) : s.viewsFreed.life = s.life := by
  refine List.foldlRecOn (motive := fun t : State => t.life = s.life) _ _ rfl fun t same n _ => ?_
  split
  · exact same
  · refine Eq.trans ?_ same
    unfold State.setHolder
    dsimp only
    split <;> rfl

theorem shows_resumeU (s : State) (u : Nat) : Shows [.JT_STATUS, .HI_DBG_HALT] s (s.resumeU u) :=
  ⟨fun k out => resumeU_reg s u (fun same => out (by rw [same]; simp [rk])) fun same => out (by rw [same]; simp [rk]), (HaltOnly.refl u s).resume.2⟩

theorem resumed_not_halted (s : State) {u : Nat} (lt : u < 595) : ((List.range 595).foldl State.resumeU s).haltedU u = false := by
  refine foldl_sets _ (List.mem_range.mpr lt) _ (fun t => t.haltedU u = false) (fun t => resumeU_not_halted t u) fun t v free => ?_
  by_cases same : v = u
  · subst same
    exact resumeU_not_halted t v
  · rw [haltedU_of_reg (resumeU_reg t v (by simpa [rk] using Ne.symm same) (by simp [rk]))]
    exact free

theorem shows_watchCleared (s : State) (u : Nat) : Shows [.BS_DBG_BOUNDS, .BS_ECC_INJECT] s (s.watchCleared u) :=
  Shows.trans (shows_ite (shows_setFld s (by decide) ..) (.refl s)) (shows_ite (shows_setFld _ (by decide) ..) (.refl _))

theorem clearBit_off (s : State) (k : RegKey) (i : Nat) (inside : i + 1 ≤ 64) : (if s.bit k i then s.setFld k i 1 0 else s).bit k i = false := by
  split
  · exact bit_setFld_same s k i false inside
  · next off => simpa using off

/-- Clearing one bit leaves a bit of a register that is off as it is. -/
theorem clearBit_keeps_off (s : State) (k n : RegKey) (i j : Nat) (inside : i + 1 ≤ 64) (apart : k = n → i = j) (off : s.bit n j = false) :
    (if s.bit k i then s.setFld k i 1 0 else s).bit n j = false := by
  by_cases same : k = n
  · obtain rfl := same
    obtain rfl := apart rfl
    exact clearBit_off s k i inside
  · split
    · exact (bit_setFld_other s _ _ _ _ (Ne.symm same)).trans off
    · exact off

theorem watches_off (s : State) {u : Nat} (lt : u < 140) : ((List.range 140).foldl State.watchCleared s).bit (rk .BS_DBG_BOUNDS u) 0 = false ∧
    ((List.range 140).foldl State.watchCleared s).bit (rk .BS_ECC_INJECT u) 33 = false := by
  refine foldl_sets _ (List.mem_range.mpr lt) _ (fun t => t.bit (rk .BS_DBG_BOUNDS u) 0 = false ∧ t.bit (rk .BS_ECC_INJECT u) 33 = false)
    (fun t => ⟨?_, clearBit_off _ _ 33 (by decide)⟩) fun t v off => ⟨?_, ?_⟩
  · exact clearBit_keeps_off _ _ _ 33 0 (by decide) (by simp [rk]) (clearBit_off t _ 0 (by decide))
  · exact clearBit_keeps_off _ _ _ 33 0 (by decide) (by simp [rk]) (clearBit_keeps_off t _ _ 0 0 (by decide) (fun _ => rfl) off.1)
  · exact clearBit_keeps_off _ _ _ 33 33 (by decide) (fun _ => rfl) (clearBit_keeps_off t _ _ 0 33 (by decide) (by simp [rk]) off.2)

/-- What the sweeps over jets and basins leave. -/
theorem relock_field {α : Type} (s : State) (f : State → α) (hf : ∀ (x : State) (r : List (RegKey × Word)), f { x with regs := r } = f x) :
    f s.relock = f s.viewsFreed := by
  rw [relock_eq]
  have resumed := (Shows.foldl State.resumeU (List.range 595) s.viewsFreed shows_resumeU).field f fun _ => hf ..
  exact ((Shows.foldl State.watchCleared (List.range 140) _ shows_watchCleared).field f fun _ => hf ..).trans resumed

/-- What a relock ends, and the record that it leaves. -/
theorem relock_ends (s : State) : s.relock.life = s.life ∧ (∀ n < 35, s.relock.holder (0x200 + n) = 0) ∧
    (∀ u < 595, s.relock.haltedU u = false) ∧
    ∀ u < 140, s.relock.bit (rk .BS_DBG_BOUNDS u) 0 = false ∧ s.relock.bit (rk .BS_ECC_INJECT u) 33 = false := by
  refine ⟨(relock_field s State.life fun _ _ => rfl).trans (viewsFreed_life s), fun n lt => ?_, fun u lt => ?_, fun u lt => ?_⟩
  · exact (relock_field s (fun x => x.holder (0x200 + n)) fun _ _ => rfl).trans (viewsFreed_holder s lt)
  · rw [relock_eq, haltedU_of_reg ((Shows.foldl State.watchCleared (List.range 140) _ shows_watchCleared).reg _ (by simp [rk]))]
    exact resumed_not_halted _ lt
  · rw [relock_eq]
    exact watches_off _ lt

section
variable {s : State} {mb : Nat}

theorem exec_debugUnlock_due (due : MailboxDue s (.debugUnlock mb)) (link : 64 ≤ mb ∨ s.hostOpen = true) : exec (.debugUnlock mb) s =
    .next (Ended.answered (if !s.tokenOk (Mem.read (s.hostMem mb) (s.pay mb 0 8) (s.pay mb 8 4)) then (s.authFailed 0x113).fails msAuth 0
      else s.debugUnlocked.debugEvent.ends (leBytes 4 1)) mb) := by
  have ready : s.hostWaits mb = false := by
    rcases link with site | opened
    · rw [State.hostWaits, decide_eq_false (Nat.not_lt.mpr site), Bool.false_and]
    · rw [State.hostWaits, opened, Bool.not_true, Bool.and_false]
  refine (exec_due rfl due).trans ?_
  dsimp only
  rw [ready]
  rfl

theorem exec_debugRelock_due (due : MailboxDue s (.debugRelock mb)) : exec (.debugRelock mb) s =
    answersOk mb ((s.relock.setFld (rk .SC_STATUS) 0 1 0).debugEvent) (leBytes 4 0) := by
  refine (exec_due rfl due).trans ?_
  generalize s.relock = v
  rfl

/-- The state that a relock leaves, locked. -/
theorem locked_shown {v : State} {l : Life} (mb : Nat) (life : v.life = l) (views : ∀ n < 35, v.holder (0x200 + n) = 0)
    (halts : ∀ u < 595, v.haltedU u = false)
    (watches : ∀ u < 140, v.bit (rk .BS_DBG_BOUNDS u) 0 = false ∧ v.bit (rk .BS_ECC_INJECT u) 33 = false) :
    ∃ t : State, answersOk mb ((v.setFld (rk .SC_STATUS) 0 1 0).debugEvent) (leBytes 4 0) =
        answersOk mb (t.raise 0x504 devHandle (payload [(24, 1, 0), (28, 4, l.unlocks)])) (leBytes 4 0) ∧
      t.debugOn = false ∧ (∀ n < 35, t.holder (0x200 + n) = 0) ∧ (∀ u < 595, t.haltedU u = false) ∧
      (∀ u < 140, t.bit (rk .BS_DBG_BOUNDS u) 0 = false ∧ t.bit (rk .BS_ECC_INJECT u) 33 = false) := by
  have other (k : RegKey) (out : k ≠ rk .SC_STATUS) : (v.setFld (rk .SC_STATUS) 0 1 0).reg k = v.reg k := State.reg_setFld_other _ _ _ _ out
  refine ⟨v.setFld (rk .SC_STATUS) 0 1 0, ?_, bit_setFld_same _ _ 0 false (by decide), views, fun u lt => ?_, fun u lt => ?_⟩
  · rw [State.debugEvent, State.fld_setFld_same _ _ _ _ _ (by decide), show (v.setFld (rk .SC_STATUS) 0 1 0).life = l from life,
      Nat.zero_mod]
  · exact (haltedU_of_reg (other _ (by simp [rk]))).trans (halts u lt)
  · obtain ⟨bounds, inject⟩ := watches u lt
    exact ⟨(bit_congr (other _ (by simp [rk])) 0).trans bounds, (bit_congr (other _ (by simp [rk])) 33).trans inject⟩

end

end Sys2Proof.Machine

open Sys2Proof.Machine in
/-- Settles O35: the unlocked state by what shows in it; the relocked one by the three sweeps of `State.relock`. -/
theorem debugUnlocksByTokenAndRelocks : Obligations.DebugUnlocksByTokenAndRelocks := by
  intro mb s token
  refine ⟨fun due link => ⟨fun bad => ?_, fun good => ?_⟩, fun due => ?_⟩
  · have bad : s.tokenOk (Mem.read (s.hostMem mb) (s.pay mb 0 8) (s.pay mb 8 4)) = false := bad
    rw [exec_debugUnlock_due due link, bad]
    rfl
  · have good : s.tokenOk (Mem.read (s.hostMem mb) (s.pay mb 0 8) (s.pay mb 8 4)) = true := good
    have shown := shows_showSc { s.setFld (rk .SC_STATUS) 0 1 1 with life := { s.life with unlocks := satAdd 32 s.life.unlocks 1 } }
    refine ⟨s.debugUnlocked, ?_, decide_eq_true (debugUnlocked_debug s), ?_, fun k status unlocks => ?_, ?_⟩
    · rw [exec_debugUnlock_due due link, good, State.debugEvent, debugUnlocked_debug]
      rfl
    · rw [debugUnlocked_eq]
      rfl
    · refine (shown.reg k (by simp [status, unlocks])).trans ?_
      exact State.reg_setFld_other s _ _ _ fun same => status (congrArg RegKey.name same)
    · rw [debugUnlocked_eq]
  · obtain ⟨life, views, halts, watches⟩ := relock_ends s
    obtain ⟨t, same, shown⟩ := locked_shown mb life views halts watches
    exact ⟨t, (exec_debugRelock_due due).trans same, shown⟩
end


section
/-! PROOFS. Firmware slots, the boot and the fuses (19_nimbus_security_lifetime.md, R479 to R484). -/

namespace Sys2Proof.Machine

/-! ### Firmware staged and activated -/

theorem setSlot_shows (s : State) (b : Bool) (i : Option Image) :
    Shows [.SC_STATUS, .SC_UNLOCKS] (if b then { s with slotB := i } else { s with slotA := i }) (s.setSlot b i) := shows_showSc _

theorem setSlot_field {α : Type} (s : State) (b : Bool) (i : Option Image) (f : State → α)
    (hf : ∀ (x : State) (r : List (RegKey × Word)) (p q : Option Image), f { x with regs := r, slotA := p, slotB := q } = f x := by intros; rfl) :
    f (s.setSlot b i) = f s := by
  rw [(setSlot_shows s b i).eq]
  cases b
  · exact hf s (s.setSlot false i).regs i s.slotB
  · exact hf s (s.setSlot true i).regs s.slotA i

theorem slotImage_setSlot (s : State) (b c : Bool) (i : Option Image) : (s.setSlot b i).slotImage c = if c = b then i else s.slotImage c := by
  have kept := (setSlot_shows s b i).field (fun t => t.slotImage c)
  refine kept.trans ?_
  cases b <;> cases c <;> rfl

section
variable {s : State} {mb : Nat}

theorem exec_fwStage_due (due : MailboxDue s (.fwStage mb)) : exec (.fwStage mb) s = .next (Ended.answered
    (if 2 ^ 24 < s.pay mb 8 4 then s.fails msLimit 72
    else if s.staging || s.trialPending then s.fails msBusy 0
    else if s.hostWaits mb then (s, none)
    else if !(Image.ofBytes (Mem.read (s.hostMem mb) (s.pay mb 0 8) (s.pay mb 8 4))).verifies then (s.authFailed 0x110).fails msAuth 0
    else if (Image.ofBytes (Mem.read (s.hostMem mb) (s.pay mb 0 8) (s.pay mb 8 4))).level < s.fused then s.fails msRollback s.fused
    else (({ s with staged := none } : State).setSlot (!s.activeB) none |>.setFld (rk .NB_STATUS) 2 1 1).starts mb
      (.fwStage (!s.activeB) (Image.ofBytes (Mem.read (s.hostMem mb) (s.pay mb 0 8) (s.pay mb 8 4))))) mb) := (exec_due rfl due).trans rfl

/-- A staging that passes its checks but for those of the image. -/
theorem exec_fwStage_checked (due : MailboxDue s (.fwStage mb)) (short : s.pay mb 8 4 ≤ 2 ^ 24) (free : s.staging = false)
    (noTrial : s.trialPending = false) (link : 64 ≤ mb ∨ s.hostOpen = true) {i : Image}
    (image : Image.ofBytes (Mem.read (s.hostMem mb) (s.pay mb 0 8) (s.pay mb 8 4)) = i) : exec (.fwStage mb) s = .next (Ended.answered
    (if !i.verifies then (s.authFailed 0x110).fails msAuth 0
    else if i.level < s.fused then s.fails msRollback s.fused
    else (({ s with staged := none } : State).setSlot (!s.activeB) none |>.setFld (rk .NB_STATUS) 2 1 1).starts mb
      (.fwStage (!s.activeB) i)) mb) := by
  have idle : ¬ (s.staging || s.trialPending) = true := by simp [free, noTrial]
  have ready : ¬ s.hostWaits mb = true := by
    rcases link with site | opened
    · simp [State.hostWaits, site]
    · simp [State.hostWaits, opened]
  rw [exec_fwStage_due due, if_neg (Nat.not_lt.mpr short), if_neg idle, if_neg ready, image]

theorem markTrial_staged (staged : s.staged = some !s.activeB) : s.markTrial = some (s.setFld (rk .SC_STATUS) 3 1 1) := if_pos staged

theorem markTrial_none (other : s.staged ≠ some !s.activeB) : s.markTrial = none := if_neg other

theorem exec_fwActivate_due (due : MailboxDue s (.fwActivate mb)) : exec (.fwActivate mb) s = .next (Ended.answered (match s.markTrial with
      | none => s.fails msNotFound 0
      | some t => if t.inRecovery then ((t.mbAnswer mb msOk 0 []).deviceReset 3, none) else t.ends) mb) := (exec_due rfl due).trans rfl

theorem exec_fwActivateResetNow_due (due : MailboxDue s (.fwActivateResetNow mb)) :
    exec (.fwActivateResetNow mb) s = .next (Ended.answered (match s.markTrial with
      | none => s.fails msNotFound 0
      | some t => ((t.mbAnswer mb msOk 0 []).deviceReset 3, none)) mb) := (exec_due rfl due).trans rfl

theorem emptied_shown (v : State) {b c : Bool} (other : c ≠ b) : (v.setSlot b none).mbRun = v.mbRun ∧ (v.setSlot b none).staged = v.staged ∧
    (v.setSlot b none).slotImage b = none ∧ (v.setSlot b none).slotImage c = v.slotImage c ∧ (v.setSlot b none).mbox = v.mbox ∧
    (v.setSlot b none).dev = v.dev ∧ (v.setSlot b none).host = v.host :=
  ⟨setSlot_field v b none State.mbRun, setSlot_field v b none State.staged, (slotImage_setSlot v b b none).trans (if_pos rfl),
    (slotImage_setSlot v b c none).trans (if_neg other), setSlot_field v b none State.mbox, setSlot_field v b none State.dev,
    setSlot_field v b none State.host⟩

/-- What a staging that has started shows, `u` being the state whose inactive slot it has emptied. -/
theorem staging_shown {u : State} (mb : Nat) (r : MbRun) (mbRun : u.mbRun = s.mbRun) (staged : u.staged = none)
    (emptied : u.slotImage (!s.activeB) = none) (kept : u.slotImage s.activeB = s.slotImage s.activeB) (mbox : u.mbox = s.mbox)
    (dev : u.dev = s.dev) (host : u.host = s.host) : ∃ t : State, ((u.setFld (rk .NB_STATUS) 2 1 1).starts mb r).answered mb = t ∧
      t.mbRun = Tab.put s.mbRun mb r ∧ t.staged = none ∧ t.slotImage (!s.activeB) = none ∧ t.slotImage s.activeB = s.slotImage s.activeB ∧
      t.mbox = s.mbox ∧ t.dev = s.dev ∧ t.host = s.host :=
  ⟨_, rfl, congrArg (Tab.put · mb r) mbRun, staged, emptied, kept, mbox, dev, host⟩

end

end Sys2Proof.Machine

open Sys2Proof.Machine in
/-- Settles O36: the commands' own steps, and the end of a staging. -/
theorem firmwareIsStagedThenActivated : Obligations.FirmwareIsStagedThenActivated := by
  intro mb s n i slot
  refine ⟨fun due => ⟨fun long => ?_, fun short busy => ?_, fun short free noTrial link => ⟨fun bad => ?_, fun good old => ?_, fun good level => ?_⟩⟩,
    fun b only small => ?_, fun due awake => ⟨fun staged => ?_, fun other => ?_⟩, fun due => ⟨fun staged => ?_, fun other => ?_⟩⟩
  · rw [exec_fwStage_due due, if_pos long]
    rfl
  · have busy : (s.staging || s.trialPending) = true := by simpa using busy
    rw [exec_fwStage_due due, if_neg (Nat.not_lt.mpr short), if_pos busy]
    rfl
  · rw [exec_fwStage_checked due short free noTrial link (i := i) rfl, bad]
    rfl
  · rw [exec_fwStage_checked due short free noTrial link (i := i) rfl, good, if_neg (by decide), if_pos old]
    rfl
  · obtain ⟨mbRun, staged, emptied, kept, mbox, dev, host⟩ := emptied_shown { s with staged := none } (b := !s.activeB) (c := s.activeB) (by simp)
    obtain ⟨t, started, shown⟩ := staging_shown (s := s) mb (.fwStage (!s.activeB) i) mbRun staged emptied kept mbox dev host
    refine ⟨t, ?_, shown⟩
    rw [exec_fwStage_checked due short free noTrial link (i := i) rfl, good, if_neg (by decide), if_neg (Nat.not_lt.mpr level), started]
  · rw [exec_mailboxCompletion_one only small]
    rfl
  · have quiet : (s.setFld (rk .SC_STATUS) 3 1 1).inRecovery = false := by
      exact (bit_setFld_other _ _ _ _ _ (by decide)).trans awake
    rw [exec_fwActivate_due due, markTrial_staged staged]
    dsimp only
    rw [quiet]
    rfl
  · rw [exec_fwActivate_due due, markTrial_none other]
    rfl
  · rw [exec_fwActivateResetNow_due due, markTrial_staged staged]
    rfl
  · rw [exec_fwActivateResetNow_due due, markTrial_none other]
    rfl
end


section
/-! PROOFS. The boot, Zenith's start, the fuses and a trial's end (19_nimbus_security_lifetime.md, R480 to R484). -/

namespace Sys2Proof.Machine

/-! ### What settling leaves alone -/

/-- A state without what settling and its events can change. -/
def State.unsettled (s : State) : State := { s.eventless with up := [], failing := [], holders := [] }

theorem unsettled_raise (s : State) (c u : Nat) (p : List Byte) : (s.raise c u p).unsettled = s.unsettled := by
  have through (t : State) : t.unsettled = t.eventless.unsettled := rfl
  rw [through, State.raise, eventless_raiseN, ← through]

theorem unsettled_foldl {α : Type} (f : State → α → State) (l : List α) (s : State) (step : ∀ s x, (f s x).unsettled = s.unsettled) :
    (l.foldl f s).unsettled = s.unsettled :=
  List.foldlRecOn (motive := fun t : State => t.unsettled = s.unsettled) l f rfl fun t same x _ => (step t x).trans same

theorem unsettled_publishReady (s : State) : s.publishReady.unsettled = s.unsettled := by
  have words : s.setReadyWords.unsettled = s.unsettled := unsettled_foldl _ readyWords s fun _ _ => rfl
  have generation (t : State) (v : Word) : (t.setReg (rk .READY_GENERATION) v).unsettled = t.unsettled := rfl
  have dramReady (t : State) : ((List.range 16).foldl (fun (t : State) i => t.setFld (rk .DM_STATUS i) 0 1 (flagNat (s.stackReady i))) t).unsettled =
      t.unsettled := unsettled_foldl _ _ t fun _ _ => rfl
  have last (t : State) (a b : Nat) : ((t.setFld (rk .PL_STATUS) 0 1 a).setFld (rk .NB_STATUS) 0 1 b).unsettled = t.unsettled := rfl
  exact (last ..).trans ((dramReady _).trans ((generation ..).trans words))

theorem unsettled_raises (s : State) (es : List Ev) : (s.raises es).unsettled = s.unsettled :=
  unsettled_foldl _ es s fun t e => unsettled_raise t e.1 e.2.1 e.2.2

theorem unsettled_refreshReady (s : State) : s.refreshReady.unsettled = s.unsettled := by
  by_cases same : s.readyChanges = []
  · rw [State.refreshReady_of_nil same]
  · rw [State.refreshReady_of_ne_nil same]
    exact (unsettled_raises ..).trans (unsettled_publishReady s)

theorem unsettled_setTerrace (s : State) (t : Nat) (b : Bool) : (s.setTerrace t b).unsettled = s.unsettled :=
  unsettled_foldl (fun (u : State) i => u.setOwn (192 + 4 * t + i) b) (List.range 4) (s.setOwn (128 + t) b) fun _ _ => rfl

theorem unsettled_takeReserve (s : State) : s.takeReserve.unsettled = s.unsettled := by
  unfold State.takeReserve
  split
  · exact (unsettled_refreshReady _).trans ((unsettled_setTerrace ..).trans rfl)
  · rfl

theorem unsettled_setHolder (s : State) (r h : Nat) : (s.setHolder r h).unsettled = s.unsettled := by
  unfold State.setHolder
  dsimp only
  split <;> rfl

theorem unsettled_holdDefaults (s : State) : s.holdDefaults.unsettled = s.unsettled := by
  have timer : (if s.nimbus && s.holder resTimer = 0 then s.setHolder resTimer 5 else s).unsettled = s.unsettled := by
    split
    · exact unsettled_setHolder ..
    · rfl
  unfold State.holdDefaults
  dsimp only
  generalize (if s.nimbus && s.holder resTimer = 0 then s.setHolder resTimer 5 else s) = u at timer ⊢
  refine (unsettled_foldl _ _ _ fun t x => ?_).trans timer
  split
  · split
    · exact unsettled_setHolder ..
    · rfl
  · split
    · exact unsettled_setHolder ..
    · rfl

theorem unsettled_showSpares (s : State) : s.showSpares.unsettled = s.unsettled := by
  unfold State.showSpares
  dsimp only
  split <;> rfl

theorem unsettled_settle (s : State) : s.settle.unsettled = s.unsettled :=
  (unsettled_showSpares _).trans ((unsettled_holdDefaults _).trans ((unsettled_takeReserve _).trans ((unsettled_takeReserve _).trans
    ((unsettled_takeReserve _).trans (unsettled_refreshReady s)))))

theorem settle_field {α : Type} (s : State) (f : State → α) (hf : ∀ x : State, f x.unsettled = f x := by intro; rfl) : f s.settle = f s := by
  rw [← hf, unsettled_settle, hf]

theorem mem_setIns (l : List Nat) (k x : Nat) : x ∈ setIns l k ↔ x = k ∨ x ∈ l := by
  induction l with
  | nil => simp [setIns]
  | cons y r ih =>
    unfold setIns
    split
    · simp
    · split
      · next same => simp [same]
      · simp only [List.mem_cons, ih]
        tauto

theorem own_setOwn (s : State) (i j : Nat) (b : Bool) : (s.setOwn i b).own j = if j = i then b else s.own j := by
  unfold State.setOwn State.own
  cases b
  · by_cases same : j = i <;> simp [same]
  · by_cases same : j = i <;> simp [same, mem_setIns]

/-- The functions below the units are up as they were. -/
def Awake (s t : State) : Prop := ∀ i < 128, t.own i = s.own i

theorem Awake.trans {s t u : State} (st : Awake s t) (tu : Awake t u) : Awake s u := fun i lt => (tu i lt).trans (st i lt)

theorem awake_of_up {s t : State} (same : t.up = s.up) : Awake s t := fun i _ => by rw [State.own, same, ← State.own]

theorem awake_setTerrace (s : State) (t : Nat) (b : Bool) : Awake s (s.setTerrace t b) := by
  refine List.foldlRecOn (motive := Awake s) _ _ (fun i lt => ?_) fun u same x _ i lt => ?_
  · rw [own_setOwn, if_neg (by omega)]
  · rw [own_setOwn, if_neg (by omega)]
    exact same i lt

theorem awake_refreshReady (s : State) : Awake s s.refreshReady := awake_of_up (of_rest State.up (rest_refreshReady s))

theorem awake_takeReserve (s : State) : Awake s s.takeReserve := by
  unfold State.takeReserve
  split
  · next e r _ _ =>
    have moved : Awake s { s with failing := Tab.put s.failing e.1 r } := awake_of_up rfl
    exact (moved.trans (awake_setTerrace _ r false)).trans (awake_refreshReady _)
  · exact awake_of_up rfl

theorem up_setHolder (s : State) (r h : Nat) : (s.setHolder r h).up = s.up := by
  unfold State.setHolder
  dsimp only
  split <;> rfl

theorem up_holdDefaults (s : State) : s.holdDefaults.up = s.up := by
  have timer : (if s.nimbus && s.holder resTimer = 0 then s.setHolder resTimer 5 else s).up = s.up := by
    split
    · exact up_setHolder ..
    · rfl
  unfold State.holdDefaults
  dsimp only
  generalize (if s.nimbus && s.holder resTimer = 0 then s.setHolder resTimer 5 else s) = u at timer ⊢
  refine List.foldlRecOn (motive := fun t : State => t.up = s.up) _ _ timer fun t same x _ => ?_
  split
  · split
    · exact (up_setHolder ..).trans same
    · exact same
  · split
    · exact (up_setHolder ..).trans same
    · exact same

theorem up_showSpares (s : State) : s.showSpares.up = s.up := by
  unfold State.showSpares
  dsimp only
  split <;> rfl

theorem awake_settle (s : State) : Awake s s.settle :=
  (((((awake_refreshReady s).trans (awake_takeReserve _)).trans (awake_takeReserve _)).trans (awake_takeReserve _)).trans
    (awake_of_up (up_holdDefaults _))).trans (awake_of_up (up_showSpares _))

/-! ### The boot -/

theorem bootTrial_none {s : State} (none : s.trialPending = false) : s.bootTrial = s := by
  simp [State.bootTrial, none]

theorem bootTrial_running {s : State} (running : s.trialRun = true) : s.bootTrial = s := by
  simp [State.bootTrial, running]

theorem bootTrial_starts {s : State} (pending : s.trialPending = true) (notRun : s.trialRun = false) (sound : s.bootable (!s.activeB) = true) :
    s.bootTrial = { s with trialRun := true } := by
  simp [State.bootTrial, pending, notRun, sound]

theorem bootTrial_givenUp {s : State} (pending : s.trialPending = true) (notRun : s.trialRun = false) (bad : s.bootable (!s.activeB) = false) :
    s.bootTrial = s.rollback 0 := by
  simp [State.bootTrial, pending, notRun, bad]

theorem bootChoice_eq (s : State) : s.bootChoice = if s.bootTrial.trialRun || s.bootTrial.bootable s.bootTrial.activeB then (s.bootTrial, true)
    else if s.bootTrial.bootable !s.bootTrial.activeB then
      (s.bootTrial.setFld (rk .SC_STATUS) 2 1 (flagNat !s.bootTrial.activeB), true)
    else (s.bootTrial, false) := rfl

/-- The kind of reset that a start of stage 1 reports. -/
def State.startKind (s : State) : Nat := if s.fld (rk .CK_RESET_CAUSE) 0 3 = 0 then 0 else 1

theorem exec_nimbusReady_boots {s : State} (power : s.powerGood = true) (off : s.own 0 = false) {t : State} (choice : s.countBoot.bootChoice = (t, true)) :
    exec .nimbusReady s = .next (t.nimbusStart s.startKind) := by
  rw [exec_nimbusReady, execNimbusReady, power, off, choice]
  rfl

theorem exec_nimbusReady_recovers {s : State} (power : s.powerGood = true) (off : s.own 0 = false) {t : State}
    (choice : s.countBoot.bootChoice = (t, false)) : exec .nimbusReady s = .next (t.setFld (rk .NB_STATUS) 1 1 1) := by
  rw [exec_nimbusReady, execNimbusReady, power, off, choice]
  rfl

/-! ### A trial given up -/

/-- The state of a trial given up, before its event. -/
def State.gaveUp (s : State) : State := (({ s with trialRun := false, staged := none } : State).setFld (rk .SC_STATUS) 3 1 0).setSlot (!s.activeB) none

theorem rollback_eq (s : State) (n : Nat) : s.rollback n =
    s.gaveUp.raise 0x502 devHandle (payload [(24, 1, flagNat (!s.activeB)), (25, 1, flagNat s.activeB), (26, 1, n)]) := by
  unfold State.rollback
  dsimp only
  rw [Bool.not_not]
  rfl

theorem showSc_fld (s : State) {a b : Nat} (out : a + b ≤ 4 ∨ 6 ≤ a ∧ a + b ≤ 13) :
    s.showSc.fld (rk .SC_STATUS) a b = s.fld (rk .SC_STATUS) a b := by
  unfold State.showSc
  dsimp only
  rw [State.fld, State.reg_setReg_other _ _ (by decide), ← State.fld, State.fld_setFld_apart _ _ 20 7 _ _ _ (by decide) (by omega),
    State.fld_setFld_apart _ _ 13 7 _ _ _ (by decide) (by omega), State.fld_setFld_apart _ _ 5 1 _ _ _ (by decide) (by omega),
    State.fld_setFld_apart _ _ 4 1 _ _ _ (by decide) (by omega)]

theorem showSc_bit (s : State) {i : Nat} (low : i < 4 ∨ (6 ≤ i ∧ i < 13)) : s.showSc.bit (rk .SC_STATUS) i = s.bit (rk .SC_STATUS) i := by
  rw [State.bit, showSc_fld s (by omega), ← State.bit]

theorem setSlot_bit (s : State) (b : Bool) (x : Option Image) {i : Nat} (low : i < 4 ∨ (6 ≤ i ∧ i < 13)) :
    (s.setSlot b x).bit (rk .SC_STATUS) i = s.bit (rk .SC_STATUS) i := by
  refine (showSc_bit _ low).trans ?_
  cases b <;> rfl

theorem gaveUp_shown (s : State) : s.gaveUp.trialRun = false ∧ s.gaveUp.staged = none ∧ s.gaveUp.trialPending = false ∧
    s.gaveUp.slotImage (!s.activeB) = none ∧ s.gaveUp.slotImage s.activeB = s.slotImage s.activeB ∧ s.gaveUp.activeB = s.activeB ∧
    s.gaveUp.jobs = s.jobs ∧ s.gaveUp.dev = s.dev := by
  have trial : (({ s with trialRun := false, staged := none } : State).setFld (rk .SC_STATUS) 3 1 0).bit (rk .SC_STATUS) 3 = false :=
    bit_setFld_same _ _ 3 false (by decide)
  have active : (({ s with trialRun := false, staged := none } : State).setFld (rk .SC_STATUS) 3 1 0).bit (rk .SC_STATUS) 2 = s.activeB :=
    bit_setFld_apart _ _ 3 1 0 2 (by decide) (by decide)
  unfold State.gaveUp
  have images (c : Bool) := slotImage_setSlot (({ s with trialRun := false, staged := none } : State).setFld (rk .SC_STATUS) 3 1 0) (!s.activeB) c none
  exact ⟨setSlot_field _ _ _ State.trialRun, setSlot_field _ _ _ State.staged, (setSlot_bit _ _ _ (by decide)).trans trial,
    (images _).trans (if_pos rfl), (images _).trans (if_neg (by simp)), (setSlot_bit _ _ _ (by decide)).trans active,
    setSlot_field _ _ _ State.jobs, setSlot_field _ _ _ State.dev⟩

theorem raise_sc (s : State) (c u : Nat) (p : List Byte) (i : Nat) : (s.raise c u p).bit (rk .SC_STATUS) i = s.bit (rk .SC_STATUS) i :=
  bit_congr (State.raise_reg (by decide) ..) i

/-- The slot given up cannot boot, and the trial is over. -/
theorem rollback_shown (s : State) (n : Nat) : (s.rollback n).trialRun = false ∧ (s.rollback n).bootable (!(s.rollback n).activeB) = false := by
  obtain ⟨run, -, -, emptied, -, active, -, -⟩ := gaveUp_shown s
  have same : (s.rollback n).activeB = s.activeB := by
    rw [rollback_eq]
    exact (raise_sc ..).trans active
  have image : (s.rollback n).slotImage (!s.activeB) = none := by
    rw [rollback_eq]
    exact (raise_field s.gaveUp _ _ _ (fun t => t.slotImage (!s.activeB))).trans emptied
  refine ⟨?_, ?_⟩
  · rw [rollback_eq]
    exact (raise_field s.gaveUp _ _ _ State.trialRun).trans run
  · rw [same, State.bootable, image]

/-! ### Zenith's start -/

theorem Shows.unsettled {ks : List RegName} {s t : State} (same : Shows ks s t) : t.unsettled = s.unsettled := by
  rw [same.eq]
  rfl

/-- A step of bring-up noted: the registers of bring-up, and the clock of the last bit. -/
theorem noteReady_eq (s old : State) : (s.noteReady old).up = s.up ∧ (s.noteReady old).unsettled = { s.unsettled with readyAt := (s.noteReady old).readyAt } ∧
    ∀ k : RegKey, k.name ≠ .CK_BRINGUP_STATUS → (s.noteReady old).reg k = s.reg k := by
  have now : s.readyNow old = { s with readyAt := (s.readyNow old).readyAt } := by
    unfold State.readyNow
    split <;> rfl
  unfold State.noteReady
  dsimp only
  generalize s.readyNow old = v at now
  rw [now]
  split
  · exact ⟨rfl, rfl, fun k other => State.reg_setFld_other _ _ _ _ fun same => other (congrArg RegKey.name same)⟩
  · exact ⟨rfl, rfl, fun _ _ => rfl⟩

/-- Zenith up, before its trial is confirmed. -/
def State.zenithUp (s : State) : State := ((s.setOwn 1 true).settle.showSpace).noteReady s

theorem zenithUp_field {α : Type} (s : State) (f : State → α) (hf : ∀ x : State, f x.unsettled = f x := by intro; rfl)
    (ht : ∀ (x : State) (t : Nat), f { x with readyAt := t } = f x := by intro _ _; rfl) : f s.zenithUp = f s := by
  obtain ⟨-, noted, -⟩ := noteReady_eq (s.setOwn 1 true).settle.showSpace s
  have space : (s.setOwn 1 true).settle.showSpace.unsettled = (s.setOwn 1 true).settle.unsettled  :=
    (shows_showSpace _).unsettled
  calc f s.zenithUp = f { (s.setOwn 1 true).settle.showSpace.unsettled with readyAt := s.zenithUp.readyAt } := by
        rw [← hf, State.zenithUp, noted]
    _ = f (s.setOwn 1 true).unsettled := by rw [ht, space, unsettled_settle]
    _ = f s := hf s

theorem zenithUp_reg (s : State) {k : RegKey} (out : k.name ∉ .CK_BRINGUP_STATUS :: .PL_FREE :: settleRegs) :
    s.zenithUp.reg k = s.reg k := by
  obtain ⟨-, -, noted⟩ := noteReady_eq (s.setOwn 1 true).settle.showSpace s
  have notStatus : k.name ≠ .PL_STATUS := fun same => out (by rw [same]; decide)
  refine (noted k fun same => out (by rw [same]; decide)).trans (((shows_showSpace _).reg k ?_).trans ((settles_settle _).reg k ?_))
  · simp only [List.mem_cons, not_or] at out ⊢
    exact ⟨out.2.1, notStatus, List.not_mem_nil⟩
  · exact fun mem => out (List.mem_cons_of_mem _ (List.mem_cons_of_mem _ mem))

theorem zenithUp_own (s : State) {i : Nat} (lt : i < 128) : s.zenithUp.own i = if i = 1 then true else s.own i := by
  obtain ⟨up, -, -⟩ := noteReady_eq (s.setOwn 1 true).settle.showSpace s
  have space : (s.setOwn 1 true).settle.showSpace.up = (s.setOwn 1 true).settle.up := (shows_showSpace _).field State.up
  exact (awake_of_up (up.trans space) i lt).trans ((awake_settle _ i lt).trans (own_setOwn ..))

/-- A trial confirmed, before its save. -/
def State.confirmed (s : State) : State :=
  ((({ s with trialRun := false, staged := none, life := { s.life with fwConfirmed := satAdd 32 s.life.fwConfirmed 1 } } : State).setFld
    (rk .SC_STATUS) 2 1 (flagNat !s.activeB)).setFld (rk .SC_STATUS) 3 1 0).raise 0x501 devHandle
    (payload [(24, 1, flagNat !s.activeB), (25, 1, s.slotLevel !s.activeB), (26, 1, s.fused)])

theorem exec_zenithReady_started {s : State} (bringing : s.bringing = true) (off : s.own 1 = false) : exec .zenithReady s =
    .next (if !s.zenithUp.trialRun then s.zenithUp else
      { s.zenithUp.confirmed.lifeSave.showSc with
        fuse := (if s.zenithUp.fused < min (s.zenithUp.slotLevel !s.zenithUp.activeB) 64 then some (!s.zenithUp.activeB, s.zenithUp.fused)
          else none) }) := by
  rw [exec_zenithReady, execZenithReady, bringing, off]
  simp only [Bool.not_true, Bool.or_self, Bool.false_eq_true, if_false]
  change (if !s.zenithUp.trialRun then Host.Outcome.next s.zenithUp else _) = _
  split <;> rfl

/-- What marks a slot as active and no trial as pending. -/
theorem activated_sc (t : State) (b : Bool) : let u := (t.setFld (rk .SC_STATUS) 2 1 (flagNat b)).setFld (rk .SC_STATUS) 3 1 0
    u.activeB = b ∧ u.trialPending = false ∧ u.fused = t.fused :=
  ⟨(bit_setFld_apart _ _ 3 1 0 2 (by decide) (by decide)).trans (bit_setFld_same _ _ 2 b (by decide)), bit_setFld_same _ _ 3 false (by decide),
    (State.fld_setFld_apart _ _ 3 1 0 6 7 (by decide) (by decide)).trans (State.fld_setFld_apart _ _ 2 1 _ 6 7 (by decide) (by decide))⟩

/-- The bits of SC_STATUS that a raised event, a save and what shows the slots leave. -/
structure SameSc (s t : State) : Prop where
  active : t.activeB = s.activeB
  pending : t.trialPending = s.trialPending
  fused : t.fused = s.fused

theorem SameSc.trans {s t u : State} (st : SameSc s t) (tu : SameSc t u) : SameSc s u :=
  ⟨tu.active.trans st.active, tu.pending.trans st.pending, tu.fused.trans st.fused⟩

theorem sameSc_of_reg {s t : State} (same : t.reg (rk .SC_STATUS) = s.reg (rk .SC_STATUS)) : SameSc s t :=
  ⟨bit_congr same 2, bit_congr same 3, congrArg (fun w : Word => bitsOf w.toNat 6 7) same⟩

theorem sameSc_showSc (s : State) : SameSc s s.showSc := ⟨showSc_bit s (by decide), showSc_bit s (by decide), showSc_fld s (by decide)⟩

theorem confirmed_sc (s : State) : s.confirmed.activeB = (!s.activeB) ∧ s.confirmed.trialPending = false ∧ s.confirmed.fused = s.fused := by
  obtain ⟨active, pending, fused⟩ := activated_sc
    { s with trialRun := false, staged := none, life := { s.life with fwConfirmed := satAdd 32 s.life.fwConfirmed 1 } } (!s.activeB)
  have raised := fun (t : State) c u p => sameSc_of_reg (t := t.raise c u p) (s := t) (State.raise_reg (by decide) ..)
  exact ⟨(raised ..).active.trans active, (raised ..).pending.trans pending, (raised ..).fused.trans fused⟩

theorem confirmed_field {α : Type} (s : State) (f : State → α) (hf : ∀ x : State, f x.eventless = f x := by intro; rfl) :
    f s.confirmed = f { s with trialRun := false, staged := none, life := { s.life with fwConfirmed := satAdd 32 s.life.fwConfirmed 1 } } := by
  have marked (t : State) (a b c d : Nat) : f ((t.setFld (rk .SC_STATUS) a b c).setFld (rk .SC_STATUS) d 1 0) = f t :=
    (hf _).symm.trans (hf t)
  exact (raise_field _ _ _ _ f hf).trans (marked ..)

/-- The state that Zenith's start leaves of a trial. -/
theorem confirmed_saved (s : State) : let t := s.confirmed.lifeSave.showSc
    t.trialRun = false ∧ t.staged = none ∧ t.activeB = (!s.activeB) ∧ t.trialPending = false ∧ t.fused = s.fused ∧
      t.life.fwConfirmed = min (s.life.fwConfirmed + 1) (2 ^ 32 - 1) ∧ t.up = s.up := by
  obtain ⟨active, pending, fused⟩ := confirmed_sc s
  have saved : SameSc s.confirmed s.confirmed.lifeSave := sameSc_of_reg (lifeSave_reg (by decide) _)
  have shown := saved.trans (sameSc_showSc _)
  have field {α : Type} (f : State → α) (hs : ∀ (x : State) (r : List (RegKey × Word)), f { x with regs := r } = f x)
      (hf : ∀ x : State, f x.saveless = f x) (hl : ∀ (x : State) (l : Life), f { x with life := l } = f x) :
      f s.confirmed.lifeSave.showSc = f s.confirmed := by
    generalize s.confirmed = c
    have save := lifeSave_field c f hf hl
    generalize c.lifeSave = d at save
    rw [(shows_showSc d).eq, hs, save]
  have counts : s.confirmed.lifeSave.showSc.life.fwConfirmed = s.confirmed.life.fwConfirmed := by
    generalize s.confirmed = c
    obtain ⟨n, tod, save⟩ := saveless_lifeSave c
    have kept : c.lifeSave.life.fwConfirmed = c.life.fwConfirmed := (congrArg (fun t : State => t.life.fwConfirmed) save :)
    generalize c.lifeSave = d at kept
    exact ((shows_showSc d).field fun t => t.life.fwConfirmed).trans kept
  refine ⟨(field State.trialRun (fun _ _ => rfl) (fun _ => rfl) fun _ _ => rfl).trans (confirmed_field s State.trialRun),
    (field State.staged (fun _ _ => rfl) (fun _ => rfl) fun _ _ => rfl).trans (confirmed_field s State.staged), shown.active.trans active,
    shown.pending.trans pending, shown.fused.trans fused, counts.trans (confirmed_field s fun t => t.life.fwConfirmed),
    (field State.up (fun _ _ => rfl) (fun _ => rfl) fun _ _ => rfl).trans (confirmed_field s State.up)⟩

/-! ### Fuses -/

theorem radioNs_eq (s : State) : s.radioNs = { s with regs := s.radioNs.regs, slew := s.radioNs.slew, tickCfg := s.radioNs.tickCfg } := by
  have framed (t : State) (same : t = { s with regs := t.regs, slew := t.slew, tickCfg := t.tickCfg }) (old : Nat) :
      (t.frameStart old).showSlot = { s with
        regs := (t.frameStart old).showSlot.regs, slew := (t.frameStart old).showSlot.slew, tickCfg := (t.frameStart old).showSlot.tickCfg } := by
    unfold State.frameStart
    dsimp only
    split
    · exact (congrArg (fun u : State => ({ u with tickCfg := t.reg (rk .TM_TICK_CFG) } : State).showSlot) same).trans rfl
    · exact (congrArg State.showSlot same).trans rfl
  unfold State.radioNs
  split
  · exact framed _ rfl _
  · rfl

theorem radioNs_reg (s : State) {k : RegKey} (now : k ≠ rk .TM_NOW) (slot : k ≠ rk .TM_SLOT) : s.radioNs.reg k = s.reg k := by
  have framed (t : State) (old : Nat) : (t.frameStart old).reg k = t.reg k := by
    unfold State.frameStart
    dsimp only
    split <;> rfl
  unfold State.radioNs
  split
  · exact (State.reg_setReg_other _ _ slot).trans ((framed ..).trans (State.reg_setReg_other _ _ now))
  · rfl

/-- The registers in which the clocks of the units show. -/
def cycleRegs : List RegName := [.BS_SLOT_WAIT_CYCLES, .BS_FRAME, .PW_WITHHELD_CYCLES, .BS_SLIP_COUNT, .DM_THROTTLE_CYCLES]

theorem basinCycle_reg (s : State) (q : Nat) {k : RegKey} (out : k.name ∉ cycleRegs) : (s.basinCycle q).reg k = s.reg k := by
  have apart {n : RegName} {u i : Nat} (mem : n ∈ cycleRegs) : k ≠ rk n u i := fun same => out (by rw [same]; exact mem)
  have waited : (s.waitCounted q).reg k = s.reg k := (shows_waitCounted s q).reg _ fun mem => out (by
    rw [List.mem_singleton.mp mem]
    decide)
  refine Eq.trans ?_ waited
  rw [basinCycle_eq]
  split
  · exact (State.reg_setReg_other _ _ (apart (by decide))).trans ((State.reg_setReg_other _ _ (apart (by decide))).trans rfl)
  · split
    · exact (State.reg_setReg_other _ _ (apart (by decide))).trans ((State.reg_setReg_other _ _ (apart (by decide))).trans rfl)
    · exact (State.reg_setReg_other _ _ (apart (by decide))).trans rfl

theorem throttleCycle_reg (s : State) {k : RegKey} (out : k.name ∉ cycleRegs) : s.throttleCycle.reg k = s.reg k := by
  refine List.foldlRecOn (motive := fun t : State => t.reg k = s.reg k) _ _ rfl fun t same x _ => ?_
  split
  · exact (State.reg_setReg_other _ _ fun eq => out (by rw [eq]; exact (by decide : RegName.DM_THROTTLE_CYCLES ∈ cycleRegs))).trans same
  · exact same

/-- The d-cycle that falls on a tick. -/
def State.dCycled (b : State) : State := if b.tk % 60 = 0 ∧ b.bit (rk .CK_STATUS) 0 then b.throttleCycle else b

/-- The b-cycles that fall on a tick. -/
def State.bCycled (c : State) : State :=
  if c.tk % 20 = 0 ∧ c.bit (rk .CK_STATUS) 0 then (List.range 140).foldl State.basinCycle c else c

/-- Radio time and the fuses on a tick. -/
def State.nsTicked (a : State) : State := if a.tk % 33 = 0 then a.radioNs.blowFuse else a

theorem clockTick_eq (s : State) : s.clockTick = (State.nsTicked { s with tk := s.tk + 1 }).dCycled.bCycled := rfl

theorem dCycled_reg (b : State) {k : RegKey} (out : k.name ∉ cycleRegs) : b.dCycled.reg k = b.reg k := by
  unfold State.dCycled
  split
  · exact throttleCycle_reg b out
  · rfl

theorem bCycled_reg (c : State) {k : RegKey} (out : k.name ∉ cycleRegs) : c.bCycled.reg k = c.reg k := by
  unfold State.bCycled
  split
  · exact State.reg_foldl _ k _ c fun t q _ => basinCycle_reg t q out
  · rfl

/-- Whether it was the last fuse or not, the level is the one blown. -/
theorem fused_eventually {t : State} {n : Nat} (fused : t.fused = n) (more : Prop) [Decidable more] (c u : Nat) (p : List Byte) :
    (if more then t else ({ t with fuse := none } : State).raise c u p).fused = n := by
  split
  · exact fused
  · exact (sameSc_of_reg (State.raise_reg (by decide) ..)).fused.trans fused

theorem fuseBlown_fused {s : State} (low : s.fused < 64) : (s.setFld (rk .SC_STATUS) 6 7 (s.fused + 1)).showSc.fused = s.fused + 1 := by
  refine (sameSc_showSc _).fused.trans ?_
  rw [State.fused, State.fld_setFld_same _ _ _ _ _ (by decide)]
  exact Nat.mod_eq_of_lt (by omega)

/-- One ns of the fuses. -/
theorem blowFuse_fused {s : State} {b : Bool} {old : Nat} (due : s.fuse = some (b, old)) : s.blowFuse.fused =
    if s.zenith = true ∧ s.trialRun = false ∧ s.activeB = b ∧ s.fused < min (s.slotLevel b) 64 then s.fused + 1 else s.fused := by
  unfold State.blowFuse
  rw [due]
  dsimp only
  by_cases runs : s.zenith = true ∧ s.trialRun = false ∧ s.activeB = b
  · obtain ⟨zenith, notTrial, active⟩ := runs
    rw [if_neg (by simp [zenith, notTrial, active])]
    by_cases ahead : s.fused < min (s.slotLevel b) 64
    · rw [if_neg (Nat.not_le.mpr ahead)]
      exact (fused_eventually (fuseBlown_fused (by omega)) _ _ _ _).trans (if_pos ⟨zenith, notTrial, active, ahead⟩).symm
    · rw [if_pos (Nat.not_lt.mp ahead)]
      exact (if_neg fun h => ahead h.2.2.2).symm
  · have idle : (!s.zenith || s.trialRun || decide (s.activeB ≠ b)) = true := by
      by_contra off
      refine runs ?_
      simpa [and_assoc] using off
    rw [if_pos idle]
    exact (if_neg fun h => runs ⟨h.1, h.2.1, h.2.2.1⟩).symm

theorem clockTick_fused {s : State} {b : Bool} {old : Nat} (ns : (s.tk + 1) % 33 = 0) (due : s.fuse = some (b, old)) : s.clockTick.fused =
    if s.zenith = true ∧ s.trialRun = false ∧ s.activeB = b ∧ s.fused < min (s.slotLevel b) 64 then s.fused + 1 else s.fused := by
  have radio := radioNs_eq { s with tk := s.tk + 1 }
  have sc : SameSc s (State.radioNs { s with tk := s.tk + 1 }) := sameSc_of_reg ((radioNs_reg _ (by decide) (by decide)).trans rfl)
  have ticked : State.nsTicked { s with tk := s.tk + 1 } = (State.radioNs { s with tk := s.tk + 1 }).blowFuse := if_pos ns
  rw [clockTick_eq, ticked]
  generalize State.radioNs { s with tk := s.tk + 1 } = r at radio sc
  have fuse : r.fuse = some (b, old) := by rw [radio]; exact due
  have zenith : r.zenith = s.zenith := by rw [radio]; rfl
  have trial : r.trialRun = s.trialRun := by rw [radio]
  have level : r.slotLevel b = s.slotLevel b := by rw [radio]; rfl
  have blown := blowFuse_fused fuse
  rw [zenith, trial, level, sc.active, sc.fused] at blown
  rw [← blown]
  generalize r.blowFuse = f
  exact ((sameSc_of_reg (dCycled_reg f (by decide))).trans (sameSc_of_reg (bCycled_reg _ (by decide)))).fused

/-- What Zenith's start of a trial in a state `s` leaves. -/
def State.confirmedFrom (s t : State) : Prop := t.trialRun = false ∧ t.staged = none ∧ t.activeB = (!s.activeB) ∧ t.trialPending = false ∧
  t.fused = s.fused ∧ t.fuse = (if s.fused < min (s.slotLevel (!s.activeB)) 64 then some (!s.activeB, s.fused) else none) ∧
  t.life.fwConfirmed = min (s.life.fwConfirmed + 1) (2 ^ 32 - 1) ∧ t.isReady 1 = true

/-- The fuses named, in a state that has saved the confirmed trial. -/
theorem confirmedFrom_fuse {s w : State} (trialRun : w.trialRun = false) (staged : w.staged = none) (active : w.activeB = (!s.activeB))
    (pending : w.trialPending = false) (fused : w.fused = s.fused) (confirmed : w.life.fwConfirmed = min (s.life.fwConfirmed + 1) (2 ^ 32 - 1))
    (one : w.own 1 = true) (zero : w.own 0 = true) : s.confirmedFrom { w with
      fuse := (if s.fused < min (s.slotLevel (!s.activeB)) 64 then some (!s.activeB, s.fused) else none) } := by
  have ready : w.zenith = true := by
    rw [State.zenith, State.nimbus, one, zero]
    rfl
  exact ⟨trialRun, staged, active, pending, fused, rfl, confirmed, ready⟩

/-- Zenith's start of a trial. -/
theorem exec_zenithReady_confirms {s : State} (bringing : s.bringing = true) (off : s.own 1 = false) (trial : s.trialRun = true) :
    ∃ t : State, exec .zenithReady s = .next t ∧ s.confirmedFrom t := by
  have same : s.zenithUp.trialRun = true := (zenithUp_field s State.trialRun).trans trial
  have sc : SameSc s s.zenithUp := sameSc_of_reg (zenithUp_reg s (by decide))
  have level (b : Bool) : s.zenithUp.slotLevel b = s.slotLevel b := zenithUp_field s fun t => t.slotLevel b
  have count : s.zenithUp.life.fwConfirmed = s.life.fwConfirmed := zenithUp_field s fun t => t.life.fwConfirmed
  have nimbus : s.own 0 = true := by
    simp only [State.bringing, Bool.and_eq_true] at bringing
    exact bringing.1.1.1.1
  have one : s.zenithUp.own 1 = true := (zenithUp_own s (by decide)).trans (if_pos rfl)
  have zero : s.zenithUp.own 0 = true := ((zenithUp_own s (by decide)).trans (if_neg (by decide))).trans nimbus
  have run := exec_zenithReady_started bringing off
  rw [same, sc.active, sc.fused, level] at run
  obtain ⟨trialRun, staged, active, pending, fused, confirmed, up⟩ := confirmed_saved s.zenithUp
  refine ⟨_, run, confirmedFrom_fuse trialRun staged (active.trans (by rw [sc.active])) pending (fused.trans sc.fused)
    (confirmed.trans (by rw [count])) ?_ ?_⟩
  · rw [State.own, up, ← State.own, one]
  · rw [State.own, up, ← State.own, zero]

theorem exec_zenithReady_plain {s : State} (bringing : s.bringing = true) (off : s.own 1 = false) (noTrial : s.trialRun = false) :
    exec .zenithReady s = .next ((s.setOwn 1 true).settle.showSpace.noteReady s) := by
  have same : s.zenithUp.trialRun = false := (zenithUp_field s State.trialRun).trans noTrial
  rw [exec_zenithReady_started bringing off, same]
  rfl

theorem recover_none {s : State} (active : s.bootable s.activeB = false) (other : s.bootable (!s.activeB) = false) :
    s.recover = (({ s with trialRun := false } : State).setOwn 0 false).setFld (rk .NB_STATUS) 1 1 1 := by
  simp [State.recover, active, other]

theorem recover_some {s : State} (sound : s.bootable s.activeB = true ∨ s.bootable (!s.activeB) = true) : s.recover = s := by
  rcases sound with sound | sound <;> simp [State.recover, sound]

end Sys2Proof.Machine

open Sys2Proof.Machine in
/-- Settles O37: the boot ROM's choice case by case; a trial confirmed and given up by what their steps leave; a ns of the fuses. -/
theorem bootPicksABootableSlot : Obligations.BootPicksABootableSlot := by
  refine ⟨fun s => ⟨fun warm => by rw [State.countBoot, warm]; rfl, fun cold => by rw [State.countBoot, cold]; rfl⟩, fun s power => ?_, fun s => ?_,
    fun s => ⟨fun trial nimbus off => ?_, fun n => ⟨s.gaveUp, rollback_eq s n, gaveUp_shown s⟩, recover_some, recover_none⟩⟩
  · refine ⟨fun up => by rw [exec_nimbusReady, execNimbusReady, power, up]; rfl, fun off => ?_⟩
    intro c kind
    have boots {t : State} (choice : c.bootChoice = (t, true)) : exec .nimbusReady s = .next (t.nimbusStart kind) :=
      exec_nimbusReady_boots power off choice
    have recovers {t : State} (choice : c.bootChoice = (t, false)) : exec .nimbusReady s = .next (t.setFld (rk .NB_STATUS) 1 1 1) :=
      exec_nimbusReady_recovers power off choice
    refine ⟨fun noTrial notRun => ⟨fun active other => recovers ?_, fun active => boots ?_, fun active other => boots ?_⟩, fun run => boots ?_,
      fun pending notRun => ⟨fun sound => boots ?_, fun bad => ?_⟩⟩
    · rw [bootChoice_eq, bootTrial_none noTrial, notRun, active, other]
      rfl
    · rw [bootChoice_eq, bootTrial_none noTrial, notRun, active]
      rfl
    · rw [bootChoice_eq, bootTrial_none noTrial, notRun, active, other]
      rfl
    · rw [bootChoice_eq, bootTrial_running run, run]
      rfl
    · rw [bootChoice_eq, bootTrial_starts pending notRun sound]
      rfl
    · intro r
      obtain ⟨ended, gone⟩ := rollback_shown c 0
      have choice : c.bootChoice = if r.bootable r.activeB then (r, true) else (r, false) := by
        rw [bootChoice_eq, bootTrial_givenUp pending notRun bad, ended, gone]
        rfl
      exact ⟨fun active => boots (choice.trans (if_pos active)), fun active => recovers (choice.trans (if_neg (by rw [active]; exact Bool.false_ne_true)))⟩
  · exact ⟨exec_zenithReady_plain, exec_zenithReady_confirms, fun b old idle ns due => ⟨s.clockTick, step_idle s idle, clockTick_fused ns due⟩⟩
  · rw [exec_fwTrialTimeout, execFwTrialTimeout, trial, nimbus, off]
    rfl
end


section
/-! PROOFS. Power-on and bring-up (17_clocks_resets_bringup.md, R431, R435 to R437, R442, R475). -/

namespace Sys2Proof.Machine

/-! ### No function ready -/

theorem isReady_of_down {s : State} (down : s.up = []) (i : Nat) : s.isReady i = false := by
  have own (i : Nat) : s.own i = false := by rw [State.own, down]; rfl
  have nimbus : s.nimbus = false := own 0
  have zenith : s.zenith = false := by rw [State.zenith, own, Bool.false_and]
  have placement : s.placement = false := by rw [State.placement, zenith, Bool.false_and]
  have halo : s.haloReady = false := by rw [State.haloReady, zenith, Bool.false_and]
  have queue : s.queueReady = false := by rw [State.queueReady, zenith, Bool.false_and]
  have stack (t : Nat) : s.stackReady t = false := by rw [State.stackReady, own, Bool.false_and]
  have terrace (t : Nat) : s.terraceReady t = false := by rw [State.terraceReady, own, Bool.false_and, Bool.false_and]
  have basin (t : Nat) : s.basinReady t = false := by rw [State.basinReady, own, Bool.false_and]
  simp only [State.isReady, nimbus, zenith, placement, halo, queue, stack, terrace, basin, own, Bool.false_and, ite_self]

theorem readyWord_of_down {s : State} (down : s.up = []) (lo w : Nat) : s.readyWord lo w = 0 := by
  simp [State.readyWord, isReady_of_down down]

/-! ### A die with nothing in its repair map -/

theorem show_reg (s : State) (k n : RegKey) (v : Nat) : (s.show k v).reg n = if n = k then BitVec.ofNat 64 v else s.reg n := by
  unfold State.show
  split
  · next same =>
    split
    · next eq => rw [eq, same]
    · rfl
  · split
    · next eq => rw [eq, State.reg_setReg_same]
    · next other => exact State.reg_setReg_other _ _ other

/-- Registers at their reset values but for some. -/
def AtReset (ks : List RegName) (s : State) : Prop := ∀ k : RegKey, k.name ∉ ks → s.reg k = resetWord k

theorem AtReset.shows {ks : List RegName} {s t : State} (clear : AtReset ks s) (same : Shows ks s t) : AtReset ks t :=
  fun k out => (same.reg k out).trans (clear k out)

theorem AtReset.setFld {ks : List RegName} {s : State} (clear : AtReset ks s) (k : RegKey) (lo w x : Nat)
    (same : k.name ∉ ks → setBits (resetWord k) lo w x = resetWord k) : AtReset ks (s.setFld k lo w x) := fun n out => by
  by_cases eq : n = k
  · subst eq
    rw [State.setFld, State.reg_setReg_same, clear n out]
    exact same out
  · exact (State.reg_setFld_other _ _ _ _ eq).trans (clear n out)

/-- What shows the ready state of a die on which nothing is ready is at reset already. -/
theorem AtReset.quietReady {ks : List RegName} {s : State} (clear : AtReset ks s) (down : s.up = []) : AtReset ks s.quietReady := by
  have words : AtReset ks (readyWords.foldl (fun t x => t.show (rk x.1) (t.readyWord x.2.1 x.2.2)) s) ∧
      (readyWords.foldl (fun t x => t.show (rk x.1) (t.readyWord x.2.1 x.2.2)) s).up = [] := by
    refine List.foldlRecOn (motive := fun t : State => AtReset ks t ∧ t.up = []) readyWords _ ⟨clear, down⟩ fun t ih x mem => ?_
    obtain ⟨at_, down⟩ := ih
    have zero : ∀ x ∈ readyWords, BitVec.ofNat 64 0 = resetWord (rk x.1) := by decide
    refine ⟨fun k out => ?_, ((shows_show (ks := [x.1]) t (by simp) ..).field State.up).trans down⟩
    rw [show_reg, readyWord_of_down down]
    split
    · next eq => rw [eq, zero x mem]
    · exact at_ k out
  unfold State.quietReady
  generalize readyWords.foldl (fun t x => t.show (rk x.1) (t.readyWord x.2.1 x.2.2)) s = t at words
  obtain ⟨at_, down⟩ := words
  have off : t.nimbus = false := isReady_of_down down 0
  dsimp only
  rw [off]
  exact at_.setFld _ 0 1 _ fun _ => by decide

/-- A die's tables with nothing in the repair map, none of the stacks lost: the registers of the stacks alone are touched. -/
theorem applyMap_unmapped {s : State} (empty : s.life.map = []) :
    Shows [.DM_STATUS] { s with lmap := [], jmap := [], emap := [], spareCols := [], suspects := [], failing := [] } s.applyMap := by
  have none (kind : Nat) : s.mapped kind = [] := by rw [State.mapped, empty]; rfl
  have alive : (List.range 32).filter s.deadT = [] := List.filter_eq_nil_iff.mpr fun p _ dead => by
    rw [State.deadT, none] at dead
    cases dead
  unfold State.applyMap
  extract_lets a b c d e
  have ha : a = { s with lmap := [], jmap := [], emap := [], spareCols := [], suspects := [], failing := [] } := by
    change ({ s with
      lmap := [], jmap := (s.mapped 1).foldl jetOut [], emap := (s.mapped 2).eraseDups, suspects := [],
      spareCols := ((s.mapped 0).foldl (fun t u => Tab.put t u (Tab.getD t u 0 + 1)) []),
      failing := (((List.range 32).filter s.deadT).map fun t => (t, 0)) } : State) = _
    rw [none, none, none, alive]
    rfl
  have hb : Shows [.DM_STATUS] a b := Shows.foldl _ _ a fun t e => shows_setFld t (by decide) ..
  have hc : Shows [.DM_STATUS] b c := Shows.foldl _ _ b fun t st => shows_ite (shows_setFld t (by decide) ..) (.refl t)
  have jmap : c.jmap = [] := (hc.field State.jmap).trans ((hb.field State.jmap).trans (by rw [ha]))
  have hd : d = c := by
    change c.jmap.foldl _ c = c
    rw [jmap]
    rfl
  have life : d.life.map = [] := by
    rw [hd]
    exact (hc.field fun t => t.life.map).trans ((hb.field fun t => t.life.map).trans (by rw [ha]; exact empty))
  have he : e = d := by
    change (d.mapped 0).eraseDups.foldl _ d = d
    rw [State.mapped, life]
    rfl
  have jets : e.jmap = [] := by rw [he, hd, jmap]
  have engines : e.emap = [] := by
    rw [he, hd]
    exact (hc.field State.emap).trans ((hb.field State.emap).trans (by rw [ha]))
  rw [jets, engines, he, hd, ← ha, List.map_nil, List.map_nil, List.append_nil, List.eraseDups_nil, List.foldl_nil]
  exact hb.trans hc

/-- The registers that a reset of a die with an empty repair map shows something in. -/
def bareRegs : List RegName := [.DM_STATUS, .MB_COMPLETED, .MB_PENDING, .CK_BRINGUP_STATUS]

/-- The state in which a reset of the die has what it keeps, its stacks' spare rows and its site controller's mailboxes, before the repair map. -/
def State.dieBare (s : State) (up : List Nat) : State :=
  let r := ((List.range 16).zip ((List.range 16).map fun st => s.fld (rk .DM_STATUS st) 8 12)).foldl (fun (r : State) e =>
    if e.2 = 2048 then r else r.setFld (rk .DM_STATUS e.1) 8 12 e.2) (s.dieKept up)
  let r := if s.fld (rk .MB_COMPLETED) 56 8 = 0 then r else r.setFld (rk .MB_COMPLETED) 56 8 (s.fld (rk .MB_COMPLETED) 56 8)
  let r := if s.fld (rk .MB_PENDING) 56 8 = 0 then r else r.setFld (rk .MB_PENDING) 56 8 (s.fld (rk .MB_PENDING) 56 8)
  r.setFld (rk .CK_BRINGUP_STATUS) 17 15 32767

theorem dieReset_eq (s : State) (up : List Nat) : s.dieReset up = (s.dieBare up).applyMap.quietReady := rfl

theorem shows_dieBare (s : State) (up : List Nat) : Shows bareRegs (s.dieKept up) (s.dieBare up) := by
  unfold State.dieBare
  extract_lets a b c
  have ha : Shows bareRegs (s.dieKept up) a := Shows.foldl _ _ _ fun t e => shows_ite (.refl t) (shows_setFld t (by decide) ..)
  have hb : Shows bareRegs a b := shows_ite (.refl a) (shows_setFld a (by decide) ..)
  have hc : Shows bareRegs b c := shows_ite (.refl b) (shows_setFld b (by decide) ..)
  exact ((ha.trans hb).trans hc).trans (shows_setFld c (by decide) ..)

theorem dieBare_status (s : State) (up : List Nat) (cleared : (s.dieKept up).reg (rk .CK_BRINGUP_STATUS) = resetWord (rk .CK_BRINGUP_STATUS)) :
    (s.dieBare up).reg (rk .CK_BRINGUP_STATUS) = BitVec.ofNat 64 (2 ^ 17 * 32767) := by
  unfold State.dieBare
  extract_lets a b c
  have ha : a.reg (rk .CK_BRINGUP_STATUS) = (s.dieKept up).reg (rk .CK_BRINGUP_STATUS) :=
    (Shows.foldl (ks := [.DM_STATUS]) _ _ _ fun t e => shows_ite (.refl t) (shows_setFld t (by decide) ..)).reg _ (by decide)
  have hb : b.reg (rk .CK_BRINGUP_STATUS) = a.reg (rk .CK_BRINGUP_STATUS) :=
    (shows_ite (ks := [.MB_COMPLETED]) (.refl a) (shows_setFld a (by decide) ..)).reg _ (by decide)
  have hc : c.reg (rk .CK_BRINGUP_STATUS) = b.reg (rk .CK_BRINGUP_STATUS) :=
    (shows_ite (ks := [.MB_PENDING]) (.refl b) (shows_setFld b (by decide) ..)).reg _ (by decide)
  rw [State.setFld, State.reg_setReg_same, hc, hb, ha, cleared]
  decide

theorem AtReset.dieKept {ks : List RegName} {s : State} (clear : AtReset ks s) (up : List Nat) : AtReset ks (s.dieKept up) := fun k out => by
  cases kept : keptReg k with
  | true => exact (congrArg (·.getD (resetWord k)) (regFind_filter s.regs keptReg k kept)).trans (clear k out)
  | false => exact congrArg (·.getD (resetWord k)) (regFind_filter_out s.regs keptReg kept)

/-- The registers of a die before its power-on that are not at reset. -/
def inputRegs : List RegName := [.DM_STATUS, .SC_STATUS, .NB_LOG_FLASH]

theorem AtReset.dieBare {s : State} (clear : AtReset inputRegs s) : AtReset (.CK_BRINGUP_STATUS :: inputRegs) (s.dieBare []) := by
  have done : s.fld (rk .MB_COMPLETED) 56 8 = 0 := by
    rw [State.fld, clear _ (by decide)]
    decide
  have busy : s.fld (rk .MB_PENDING) 56 8 = 0 := by
    rw [State.fld, clear _ (by decide)]
    decide
  have kept : AtReset (.CK_BRINGUP_STATUS :: inputRegs) (s.dieKept []) := fun k out => clear.dieKept [] k fun mem => out (List.mem_cons_of_mem _ mem)
  unfold State.dieBare
  rw [done, busy]
  dsimp only
  rw [if_pos rfl, if_pos rfl]
  refine kept.shows (Shows.trans (Shows.foldl _ _ _ fun t e => shows_ite (.refl t) (shows_setFld t (by decide) ..)) (shows_setFld _ (by decide) ..))

/-- A die whose repair map is empty and on which nothing is up. -/
theorem dieReset_unmapped {s : State} (empty : s.life.map = []) (clear : AtReset inputRegs s) :
    s.dieReset [] = { s.dieKept [] with regs := (s.dieReset []).regs } ∧ AtReset (.CK_BRINGUP_STATUS :: inputRegs) (s.dieReset []) ∧
    (s.dieReset []).reg (rk .CK_BRINGUP_STATUS) = BitVec.ofNat 64 (2 ^ 17 * 32767) := by
  have bare := shows_dieBare s []
  have mapped := applyMap_unmapped (s := s.dieBare []) ((bare.field fun t => t.life.map).trans empty)
  have down : (s.dieBare []).applyMap.up = [] := (mapped.field State.up).trans (bare.field State.up)
  have shown : Shows dieRegs (s.dieBare []).applyMap (s.dieReset []) := shows_quietReady _
  have table : ({ s.dieBare [] with lmap := [], jmap := [], emap := [], spareCols := [], suspects := [], failing := [] } : State) =
      { s.dieKept [] with regs := (s.dieBare []).regs } := by rw [bare.eq]; rfl
  refine ⟨?_, ?_, ?_⟩
  · rw [shown.eq, mapped.eq, table]
  · have at_ : AtReset (.CK_BRINGUP_STATUS :: inputRegs) (s.dieBare []).applyMap := fun k out =>
      (mapped.reg k (fun mem => out (by rw [List.mem_singleton.mp mem]; decide))).trans (clear.dieBare k out)
    exact at_.quietReady down
  · have words : Shows (.NB_STATUS :: readyWords.map Prod.fst) (s.dieBare []).applyMap (s.dieBare []).applyMap.quietReady := by
      refine Shows.trans (List.foldlRecOn readyWords _ (Shows.refl _) fun t same x mem => same.trans (shows_show t ?_ ..)) (shows_setFld _ (by decide) ..)
      exact List.mem_cons_of_mem _ (List.mem_map_of_mem mem)
    exact (words.reg _ (by decide)).trans ((mapped.reg _ (by decide)).trans
      (dieBare_status s [] (clear.dieKept [] _ (by decide))))

/-! ### Input power -/

/-- What a power-on keeps, before the reset of the die. -/
def State.inputOn (s : State) : State :=
  let t : State := { s with
    tk := 0, life := s.newestCopy, cold := true, dieLog := [], flashPend := [], sensors := [], holders := [], mbox := [], mbReq := [], mbGone := []
    mbMark := [], mbRun := [], uCut := 256, pwrAlert := false, tripped := false, switchOpen := false, powerGood := true, snapshotBegun := false
    overSample := false, tripNow := false, tripStays := false, lastVolt := none, d3 := false, trialRun := false
    regs := s.regs.filter fun e => e.1.name = RegName.DM_STATUS || e.1.name = RegName.NB_LOG_FLASH }
  t.setReg (rk .SC_STATUS) (BitVec.ofNat 64 (4 * flagNat (bitOf (s.reg (rk .SC_STATUS)).toNat 2) +
    8 * flagNat (bitOf (s.reg (rk .SC_STATUS)).toNat 3) + 2 ^ 6 * bitsOf (s.reg (rk .SC_STATUS)).toNat 6 7))

/-- The slot's number and the powered time shown, and then the state of the images. -/
def State.stamped (s : State) (slot : Nat) : State :=
  ((s.setFld (rk .PW_STATUS) 5 3 slot).setReg (rk .NB_POWERED) (BitVec.ofNat 64 (2 ^ 32 * s.life.poweredS))).showSc

theorem stamped_eq (s : State) (slot : Nat) :
    ((s.setFld (rk .PW_STATUS) 5 3 slot).setReg (rk .NB_POWERED) (BitVec.ofNat 64 (2 ^ 32 * s.life.poweredS))).showSc = s.stamped slot := rfl

theorem shows_stamped (s : State) (slot : Nat) : Shows [.PW_STATUS, .NB_POWERED, .SC_STATUS, .SC_UNLOCKS] s (s.stamped slot) :=
  ((shows_setFld s (by decide) ..).trans (shows_setReg _ (by decide) ..)).trans ((shows_showSc _).mono (by decide))

/-- The die after its reset at a power-on. -/
def State.inputDie (s : State) : State := { s.inputOn.dieReset [] with bar4 := false }

theorem inputOn_life (s : State) : s.inputOn.life = s.newestCopy := rfl

theorem inputDie_reg (s : State) (k : RegKey) : s.inputDie.reg k = (s.inputOn.dieReset []).reg k := by
  unfold State.inputDie
  generalize s.inputOn.dieReset [] = t
  rfl

theorem powerOn_eq (s : State) (slot : Nat) : s.powerOn slot = s.inputDie.stamped slot := by
  unfold State.powerOn
  extract_lets sc keep a b c d e
  have input : b = s.inputOn := rfl
  have die : d = s.inputDie := by
    have reset : c = s.inputOn.dieReset [] := congrArg (State.dieReset · []) input
    unfold State.inputDie
    rw [← reset]
  rw [← die]
  exact stamped_eq d slot

theorem atReset_inputOn (s : State) : AtReset inputRegs s.inputOn := fun k out => by
  have other : k ≠ rk .SC_STATUS := fun eq => out (by rw [eq]; decide)
  have gone : (decide (k.name = RegName.DM_STATUS) || decide (k.name = RegName.NB_LOG_FLASH)) = false := by
    simp only [inputRegs, List.mem_cons, not_or] at out
    simp [out]
  exact (State.reg_setReg_other _ _ other).trans (congrArg (·.getD (resetWord k))
    (regFind_filter_out s.regs (fun k => decide (k.name = RegName.DM_STATUS) || decide (k.name = RegName.NB_LOG_FLASH)) gone))

/-- The state's word of the site controller after a power-on: active slot, its lock, and the fuses. -/
theorem inputWord_bits (n : Nat) : let x := 4 * flagNat (bitOf n 2) + 8 * flagNat (bitOf n 3) + 2 ^ 6 * bitsOf n 6 7
    bitsOf (BitVec.ofNat 64 x).toNat 0 1 = 0 ∧ bitsOf (BitVec.ofNat 64 x).toNat 2 1 = bitsOf n 2 1 ∧ bitsOf (BitVec.ofNat 64 x).toNat 6 7 = bitsOf n 6 7 := by
  intro x
  have two : flagNat (bitOf n 2) = n / 4 % 2 := by
    unfold flagNat bitOf
    rcases Nat.mod_two_eq_zero_or_one (n / 4) with h | h <;> simp [h]
  have three : flagNat (bitOf n 3) ≤ 1 := by
    unfold flagNat
    split <;> omega
  have small : x < 2 ^ 64 := by
    have : bitsOf n 6 7 < 2 ^ 7 := Nat.mod_lt _ (by decide)
    omega
  rw [BitVec.toNat_ofNat, Nat.mod_eq_of_lt small]
  simp only [x, bitsOf, two]
  omega

/-- A field of a state that no register is in, nor the bounds of BAR4, after a power-on. -/
theorem powerOn_field (s : State) (slot : Nat) {α : Type} (f : State → α) (hr : ∀ (t : State) r, f { t with regs := r } = f t)
    (hb : ∀ t : State, f { t with bar4 := false } = f t) : f (s.powerOn slot) = f (s.inputOn.dieReset []) := by
  rw [powerOn_eq, (shows_stamped _ slot).eq, hr]
  exact hb _

theorem powerOn_kept (s : State) (slot : Nat) {α : Type} (f : State → α) (hr : ∀ (t : State) r, f { t with regs := r } = f t)
    (hb : ∀ t : State, f { t with bar4 := false } = f t) (hf : ∀ x : State, f { s.inputOn.dieKept [] with
      regs := x.regs, lmap := x.lmap, jmap := x.jmap, emap := x.emap, spareCols := x.spareCols, suspects := x.suspects, failing := x.failing
      holders := x.holders } = f (s.inputOn.dieKept [])) : f (s.powerOn slot) = f (s.inputOn.dieKept []) :=
  (powerOn_field s slot f hr hb).trans (dieReset_field s.inputOn [] f hf)

theorem powerOn_sc (s : State) (slot : Nat) {a b : Nat} (out : a + b ≤ 4 ∨ 6 ≤ a ∧ a + b ≤ 13) :
    (s.powerOn slot).fld (rk .SC_STATUS) a b = s.inputOn.fld (rk .SC_STATUS) a b := by
  rw [powerOn_eq, State.stamped, showSc_fld _ out, State.fld, State.reg_setReg_other _ _ (by decide), State.reg_setFld_other _ _ _ _ (by decide)]
  rw [inputDie_reg, dieReset_reg_kept s.inputOn [] (by decide) (by decide)]
  rfl

/-- Of the word of the site controller a power-on keeps the active slot and the fuses; debug is locked. -/
theorem powerOn_locks (s : State) (slot : Nat) : (s.powerOn slot).debugOn = false ∧ (s.powerOn slot).fused = s.fused ∧
    (s.powerOn slot).activeB = s.activeB := by
  obtain ⟨locked, active, fuses⟩ := inputWord_bits (s.reg (rk .SC_STATUS)).toNat
  have word (a b : Nat) : s.inputOn.fld (rk .SC_STATUS) a b = bitsOf (BitVec.ofNat 64 (4 * flagNat (bitOf (s.reg (rk .SC_STATUS)).toNat 2) +
      8 * flagNat (bitOf (s.reg (rk .SC_STATUS)).toNat 3) + 2 ^ 6 * bitsOf (s.reg (rk .SC_STATUS)).toNat 6 7)).toNat a b := by
    unfold State.fld State.inputOn
    rw [State.reg_setReg_same]
  refine ⟨?_, ?_, ?_⟩
  · rw [State.debugOn, State.bit, powerOn_sc s slot (by decide), word, locked]
    rfl
  · rw [State.fused, powerOn_sc s slot (by decide), word, fuses]
    rfl
  · rw [State.activeB, State.bit, powerOn_sc s slot (by decide), word, active]
    rfl

theorem powerOn_field_of_input (s : State) (slot : Nat) : (s.powerOn slot).powerGood = true ∧ (s.powerOn slot).tk = 0 ∧ (s.powerOn slot).bar4 = false ∧
    (s.powerOn slot).rings = [] ∧ (s.powerOn slot).jobs = [] ∧ (s.powerOn slot).allocs = [] ∧ (s.powerOn slot).dieLog = [] ∧
    (s.powerOn slot).sensors = [] ∧ (s.powerOn slot).flashLog = s.flashLog ∧ (s.powerOn slot).slotA = s.slotA ∧ (s.powerOn slot).slotB = s.slotB ∧
    (s.powerOn slot).life = s.newestCopy ∧ (s.powerOn slot).up = [] ∧ (s.powerOn slot).dev = [] := by
  have kept {α : Type} (f : State → α) (hr : ∀ (t : State) r, f { t with regs := r } = f t) (hb : ∀ t : State, f { t with bar4 := false } = f t)
      (hf : ∀ x : State, f { s.inputOn.dieKept [] with
        regs := x.regs, lmap := x.lmap, jmap := x.jmap, emap := x.emap, spareCols := x.spareCols, suspects := x.suspects, failing := x.failing
        holders := x.holders } = f (s.inputOn.dieKept [])) : f (s.powerOn slot) = f (s.inputOn.dieKept []) := powerOn_kept s slot f hr hb hf
  have bar4 : (s.powerOn slot).bar4 = false := by
    rw [powerOn_eq, (shows_stamped _ slot).field State.bar4]
    rfl
  generalize s.powerOn slot = t at kept bar4 ⊢
  exact ⟨kept State.powerGood (fun _ _ => rfl) (fun _ => rfl) (fun _ => rfl), kept State.tk (fun _ _ => rfl) (fun _ => rfl) (fun _ => rfl), bar4,
    kept State.rings (fun _ _ => rfl) (fun _ => rfl) (fun _ => rfl), kept State.jobs (fun _ _ => rfl) (fun _ => rfl) (fun _ => rfl),
    kept State.allocs (fun _ _ => rfl) (fun _ => rfl) (fun _ => rfl), kept State.dieLog (fun _ _ => rfl) (fun _ => rfl) (fun _ => rfl),
    kept State.sensors (fun _ _ => rfl) (fun _ => rfl) (fun _ => rfl), kept State.flashLog (fun _ _ => rfl) (fun _ => rfl) (fun _ => rfl),
    kept State.slotA (fun _ _ => rfl) (fun _ => rfl) (fun _ => rfl), kept State.slotB (fun _ _ => rfl) (fun _ => rfl) (fun _ => rfl),
    kept State.life (fun _ _ => rfl) (fun _ => rfl) (fun _ => rfl), kept State.up (fun _ _ => rfl) (fun _ => rfl) (fun _ => rfl),
    kept State.dev (fun _ _ => rfl) (fun _ => rfl) (fun _ => rfl)⟩

/-- The registers that a power-on of a die with an empty repair map leaves at other than their reset values. -/
def powerRegs : List RegName := [.SC_STATUS, .SC_UNLOCKS, .PW_STATUS, .NB_POWERED, .NB_LOG_FLASH, .DM_STATUS, .CK_BRINGUP_STATUS]

theorem inputReset_unmapped {s : State} (empty : s.newestCopy.map = []) :
    s.inputOn.dieReset [] = { s.inputOn.dieKept [] with regs := (s.inputOn.dieReset []).regs } ∧
    AtReset (.CK_BRINGUP_STATUS :: inputRegs) (s.inputOn.dieReset []) ∧
    (s.inputOn.dieReset []).reg (rk .CK_BRINGUP_STATUS) = BitVec.ofNat 64 (2 ^ 17 * 32767) :=
  dieReset_unmapped (by rw [inputOn_life, empty]) (atReset_inputOn s)

theorem atReset_powerOn {s : State} (slot : Nat) (empty : s.newestCopy.map = []) : AtReset powerRegs (s.powerOn slot) := fun k out => by
  have shown := shows_stamped s.inputDie slot
  have stamps : [RegName.PW_STATUS, .NB_POWERED, .SC_STATUS, .SC_UNLOCKS] ⊆ powerRegs := by decide
  have inputs : RegName.CK_BRINGUP_STATUS :: inputRegs ⊆ powerRegs := by decide
  rw [powerOn_eq, shown.reg k fun mem => out (stamps mem), inputDie_reg]
  obtain ⟨_, clear, _⟩ := inputReset_unmapped empty
  exact clear k fun mem => out (inputs mem)

theorem powerOn_bringup {s : State} (slot : Nat) (empty : s.newestCopy.map = []) :
    (s.powerOn slot).reg (rk .CK_BRINGUP_STATUS) = BitVec.ofNat 64 (2 ^ 17 * 32767) := by
  obtain ⟨_, _, status⟩ := inputReset_unmapped empty
  rw [powerOn_eq, (shows_stamped s.inputDie slot).reg _ (by decide), inputDie_reg, status]

/-- A power-on of a die with an empty repair map: reset but for what a power-on keeps. -/
theorem powerOn_unmapped {s : State} (slot : Nat) (empty : s.newestCopy.map = []) :
    s.powerOn slot = { State.reset with
      pending := s.pending, nextJid := s.nextJid, regs := (s.powerOn slot).regs, host := s.host, site := s.site, readData := s.readData, perst := s.perst
      powerGood := true, cold := true, life := s.newestCopy, copies := s.copies, blockErases := s.blockErases, worn := s.worn, flashLog := s.flashLog
      slotA := s.slotA, slotB := s.slotB, staged := s.staged, fuse := s.fuse, draws := s.draws, bistWave := (s.powerOn slot).bistWave
      cursors := s.cursors.filter fun e => decide (curRecord ≤ e.1) } := by
  obtain ⟨reset, _, _⟩ := inputReset_unmapped empty
  have die : s.inputDie = { s.inputOn.dieKept [] with bar4 := false, regs := s.inputDie.regs } := by
    unfold State.inputDie
    rw [reset]
  have fields := (shows_stamped s.inputDie slot).eq
  rw [← powerOn_eq, die] at fields
  generalize s.powerOn slot = t at fields ⊢
  have wave : t.bistWave = (s.inputOn.dieKept []).bistWave := by rw [fields]
  rw [wave]
  refine fields.trans ?_
  unfold State.dieKept State.inputOn
  rfl

/-! ### The record's newest copy -/

/-- Which of two copies of the record is taken. -/
def newerOf (m : Option Life) (c : Nat × LifeCopy) : Option Life :=
  match m with
  | some l => if l.saves < c.2.life.saves then some c.2.life else some l
  | none => some c.2.life

theorem newestCopy_eq (s : State) : s.newestCopy = ((s.copies.filter fun c => c.2.verifies).foldl newerOf none).getD Life.zero := rfl

/-- Among copies, and one taken before them, the one taken has the most saves. -/
theorem foldl_newerOf (cs : List (Nat × LifeCopy)) (l : Life) : ∃ r : Life, cs.foldl newerOf (some l) = some r ∧ l.saves ≤ r.saves ∧
    (∀ c ∈ cs, c.2.life.saves ≤ r.saves) ∧ (r = l ∨ ∃ b ∈ cs, r = b.2.life) := by
  induction cs generalizing l with
  | nil => exact ⟨l, rfl, le_refl _, (fun _ mem => by cases mem), .inl rfl⟩
  | cons c cs ih =>
    have step : newerOf (some l) c = some (if l.saves < c.2.life.saves then c.2.life else l) := by
      unfold newerOf
      dsimp only
      split <;> rfl
    obtain ⟨r, eq, above, all, source⟩ := ih (if l.saves < c.2.life.saves then c.2.life else l)
    refine ⟨r, by rw [List.foldl_cons, step, eq], ?_⟩
    split at above
    · next newer =>
      rw [if_pos newer] at source
      refine ⟨by omega, List.forall_mem_cons.mpr ⟨above, all⟩, .inr ?_⟩
      obtain rfl | ⟨b, mem, eq⟩ := source
      · exact ⟨c, List.mem_cons_self, rfl⟩
      · exact ⟨b, List.mem_cons_of_mem _ mem, eq⟩
    · next older =>
      rw [if_neg older] at source
      refine ⟨above, List.forall_mem_cons.mpr ⟨by omega, all⟩, ?_⟩
      obtain rfl | ⟨b, mem, eq⟩ := source
      · exact .inl rfl
      · exact .inr ⟨b, List.mem_cons_of_mem _ mem, eq⟩

theorem newestCopy_of_verifies {s : State} {c : Nat × LifeCopy} (mem : c ∈ s.copies) (verifies : c.2.verifies = true) :
    c.2.life.saves ≤ s.newestCopy.saves ∧ ∃ b ∈ s.copies, b.2.verifies = true ∧ s.newestCopy = b.2.life := by
  have sound : ∀ x, x ∈ (s.copies.filter fun c => c.2.verifies) ↔ x ∈ s.copies ∧ x.2.verifies = true := fun x => List.mem_filter
  rw [newestCopy_eq]
  generalize (s.copies.filter fun c => c.2.verifies) = cs at sound ⊢
  cases cs with
  | nil => cases (sound c).mpr ⟨mem, verifies⟩
  | cons x xs =>
    obtain ⟨r, eq, first, rest, source⟩ := foldl_newerOf xs x.2.life
    have fold : (x :: xs).foldl newerOf none = some r := eq
    rw [fold]
    refine ⟨?_, ?_⟩
    · obtain rfl | later := List.mem_cons.mp ((sound c).mpr ⟨mem, verifies⟩)
      · exact first
      · exact rest c later
    · obtain rfl | ⟨b, mem, rfl⟩ := source
      · obtain ⟨copy, ok⟩ := (sound x).mp List.mem_cons_self
        exact ⟨x, copy, ok, rfl⟩
      · obtain ⟨copy, ok⟩ := (sound b).mp (List.mem_cons_of_mem _ mem)
        exact ⟨b, copy, ok, rfl⟩

/-! ### Waves and stacks -/

/-- The units of a wave of BIST. -/
theorem wave_eq (first n : Nat) : ((List.range n).map (first + ·)).filter (· < 35) = List.range' first (min n (35 - first)) := by
  rw [← List.range'_eq_map_range]
  induction n generalizing first with
  | zero => rw [Nat.zero_min]; rfl
  | succ n ih =>
    rw [List.range'_succ, List.filter_cons, ih (first + 1)]
    by_cases low : first < 35
    · rw [if_pos (by simpa using low), show min (n + 1) (35 - first) = min n (35 - (first + 1)) + 1 by omega, List.range'_succ]
    · rw [if_neg (by simpa using low), show min (n + 1) (35 - first) = 0 by omega, show min n (35 - (first + 1)) = 0 by omega]
      rfl

theorem bistOne_passes {s : State} {t : Nat} {failed : List (Nat × Nat)} (passes : ∀ f ∈ failed, f.1 ≠ t) :
    let d : State := { s.setFld (rk .CK_BRINGUP_STATUS) 0 6 (t + 1) with bistNext := t + 1 }
    s.bistOne t failed = if d.terraceOut t = true then d else d.setTerrace t true := by
  intro d
  have none : (failed.find? fun f => f.1 = t) = none := List.find?_eq_none.mpr fun f mem => by simpa using passes f mem
  rw [State.bistOne, none]

theorem bistOne_fails {s : State} {t : Nat} {failed : List (Nat × Nat)} {f : Nat × Nat} (fails : (failed.find? fun x => x.1 = t) = some f) :
    let d : State := { s.setFld (rk .CK_BRINGUP_STATUS) 0 6 (t + 1) with bistNext := t + 1 }
    let u := (d.setFld (rk .CK_BRINGUP_STATUS) 6 6 (d.fld (rk .CK_BRINGUP_STATUS) 6 6 + 1)).raise 0x302 (hereHandle (0x100 + t)) (payload [(24, 1, 0), (28, 4, f.2)])
    s.bistOne t failed = if t < 32 ∧ (Tab.find? u.failing t).isNone then (u.mapAdd 4 (u.physT t) 0).beginWait t else u := by
  intro d u
  rw [State.bistOne, fails]

/-- What a unit's readiness is compared with are the ready words alone. -/
theorem noteReady_congr (s : State) {old old' : State} (same : ∀ x ∈ readyWords, old'.reg (rk x.1) = old.reg (rk x.1)) :
    s.noteReady old' = s.noteReady old := by
  have now : s.readyNow old' = s.readyNow old := by
    have any : (readyWords.any fun x => (s.reg (rk x.1)).toNat &&& (2 ^ 64 - 1 - (old'.reg (rk x.1)).toNat) ≠ 0) =
        readyWords.any fun x => (s.reg (rk x.1)).toNat &&& (2 ^ 64 - 1 - (old.reg (rk x.1)).toNat) ≠ 0 := by
      rw [Bool.eq_iff_iff, List.any_eq_true, List.any_eq_true]
      exact ⟨fun ⟨x, mem, fresh⟩ => ⟨x, mem, by rwa [same x mem] at fresh⟩, fun ⟨x, mem, fresh⟩ => ⟨x, mem, by rwa [same x mem]⟩⟩
    rw [State.readyNow, State.readyNow, any]
  rw [State.noteReady, State.noteReady, now]

theorem not_bringing {s : State} (off : s.bringing = false) : (∀ st e : Nat, exec (.stackTrained st) s = .next s ∧
    exec (.stackTrainingTimeout st e) s = .next s) ∧ (∀ failed, exec (.bistWaveEnd failed) s = .next s) ∧ exec .zenithReady s = .next s := by
  refine ⟨fun st e => ⟨?_, ?_⟩, fun failed => ?_, ?_⟩
  · rw [exec_stackTrained, execStackTrained, off]
    rfl
  · rw [exec_stackTrainingTimeout, execStackTrainingTimeout, off]
    rfl
  · rw [exec_bistWaveEnd, execBistWaveEnd, off]
    rfl
  · rw [exec_zenithReady, execZenithReady, off]
    rfl

end Sys2Proof.Machine

open Sys2Proof.Machine in
/-- Settles O41: a power-on is a reset of the die over what it keeps; each later event of bring-up is its case of `exec`. -/
theorem bringUpReportsUnitsAsTheyCome : Obligations.BringUpReportsUnitsAsTheyCome := by
  unfold Obligations.BringUpReportsUnitsAsTheyCome
  refine ⟨fun slot s off standing => ?_, fun slot s off tripped stays => ?_, fun s => ⟨fun none => ?_, fun c => newestCopy_of_verifies⟩,
    fun slot s on => ?_, fun s on => ?_, fun st s bringing off sound => ⟨?_, fun e => ?_⟩, fun s failed bringing under => ?_,
    fun s t failed => ⟨bistOne_passes, fun f fails => ⟨fun high => ?_, fun low sound => ?_⟩⟩, fun s => not_bringing⟩
  · have gate : (s.tripped && s.tripStays) = false := by
      obtain off | off := standing <;> simp [off]
    obtain ⟨good, tk, bar4, rings, jobs, allocs, log, sensors, flash, slotA, slotB, life, up, dev⟩ := powerOn_field_of_input s slot
    obtain ⟨locked, fuses, active⟩ := powerOn_locks s slot
    refine ⟨s.powerOn slot, ?_, good, tk, locked, bar4, rings, jobs, allocs, log, sensors, flash, slotA, slotB, fuses, active, life,
      isReady_of_down up, fun a => by rw [dev]; rfl, fun empty => ⟨atReset_powerOn slot empty, ?_, ?_, powerOn_unmapped slot empty⟩⟩
    · rw [exec_inputPowerGood, execInputPowerGood, off, gate]
      rfl
    · rw [State.fld, powerOn_bringup slot empty]
      decide
    · rw [State.fld, powerOn_bringup slot empty]
      decide
  · rw [exec_inputPowerGood, execInputPowerGood, off, tripped, stays]
    rfl
  · rw [newestCopy_eq, none]
    rfl
  · rw [exec_inputPowerGood, execInputPowerGood, on]
    rfl
  · rw [exec_rootPllLock, execRootPllLock, on]
    rfl
  · rw [exec_stackTrained, execStackTrained, bringing, off, sound]
    rfl
  · have apart : ∀ x ∈ readyWords, x.1 ≠ .CK_BRINGUP_STATUS := by decide
    rw [exec_stackTrainingTimeout, execStackTrainingTimeout, bringing, off, sound]
    exact congrArg Host.Outcome.next (noteReady_congr _ fun x mem =>
      State.reg_setFld_other _ _ _ _ fun same => apart x mem (congrArg RegKey.name same))
  · rw [exec_bistWaveEnd, execBistWaveEnd, bringing, State.reserveUnderBist, decide_eq_true under]
    dsimp only [Bool.not_true, Bool.or_self]
    rw [wave_eq]
    rfl
  · rw [bistOne_fails fails, if_neg (by omega)]
  · rw [bistOne_fails fails, if_pos ⟨low, by rw [sound]; rfl⟩]
end


section
/-! PROOFS. Radio time and the clock's ticks (15_host_fronthaul_timing.md, R394 to R398). -/

namespace Sys2Proof.Machine

/-! ### A tick -/

/-- A state without what the clocks of the basins and stacks can change. -/
def State.uncycled (s : State) : State := { s with regs := [], credit := [], stallDue := [], jobs := [] }

theorem uncycled_basinCycle (s : State) (q : Nat) : (s.basinCycle q).uncycled = s.uncycled := by
  unfold State.basinCycle
  extract_lets u c wait t due
  have ht : t.uncycled = s.uncycled := by
    unfold t
    split <;> rfl
  split
  · exact ht
  · split <;> exact ht

theorem uncycled_throttleCycle (s : State) : s.throttleCycle.uncycled = s.uncycled := by
  refine List.foldlRecOn (motive := fun t : State => t.uncycled = s.uncycled) _ _ rfl fun t same x _ => ?_
  split <;> exact same

theorem uncycled_cycles (s : State) : s.dCycled.bCycled.uncycled = s.uncycled := by
  have dram : s.dCycled.uncycled = s.uncycled := by
    unfold State.dCycled
    split
    · exact uncycled_throttleCycle s
    · rfl
  unfold State.bCycled
  split
  · exact List.foldlRecOn (motive := fun t : State => t.uncycled = s.uncycled) _ _ dram fun t same q _ =>
      (uncycled_basinCycle t q).trans same
  · exact dram

/-- A tick's cycles are those of the clocks of 500 MHz and less. -/
theorem cycles_quiet {s : State} (quiet : s.tk % 20 ≠ 0) : s.dCycled.bCycled = s := by
  have dram : s.dCycled = s := if_neg fun ⟨due, _⟩ => quiet (by omega)
  rw [dram]
  exact if_neg fun ⟨due, _⟩ => quiet due

/-- The tick, the commands that wait and the counter are the same. -/
def SameClock (s t : State) : Prop := t.tk = s.tk ∧ t.pending = s.pending ∧ t.reg (rk .TM_NOW) = s.reg (rk .TM_NOW)

theorem SameClock.trans {s t u : State} (st : SameClock s t) (tu : SameClock t u) : SameClock s u := by
  obtain ⟨tk, pending, now⟩ := st
  obtain ⟨tk', pending', now'⟩ := tu
  exact ⟨tk'.trans tk, pending'.trans pending, now'.trans now⟩

theorem Shows.sameClock {ks : List RegName} {s t : State} (same : Shows ks s t) (out : RegName.TM_NOW ∉ ks) : SameClock s t :=
  ⟨same.field State.tk, same.field State.pending, same.reg _ out⟩

theorem sameClock_unfused (s : State) (c u : Nat) (p : List Byte) : SameClock s (({ s with fuse := none } : State).raise c u p) :=
  ⟨raise_field _ _ _ _ State.tk, raise_field _ _ _ _ State.pending, State.raise_reg (by decide) ..⟩

theorem sameClock_blowFuse (s : State) : SameClock s s.blowFuse := by
  have same : SameClock s s := ⟨rfl, rfl, rfl⟩
  unfold State.blowFuse
  split
  · exact same
  · next b old _ =>
    have blown : SameClock s (s.setFld (rk .SC_STATUS) 6 7 (s.fused + 1)).showSc :=
      ((shows_setFld (ks := [.SC_STATUS, .SC_UNLOCKS]) s (by decide) ..).trans (shows_showSc _)).sameClock (by decide)
    dsimp only
    split
    · exact same
    · split
      · exact same
      · split
        · exact blown
        · exact blown.trans (sameClock_unfused ..)

theorem nsTicked_core (s : State) : s.nsTicked.tk = s.tk ∧ s.nsTicked.pending = s.pending := by
  unfold State.nsTicked
  split
  · obtain ⟨tk, pending, _⟩ := sameClock_blowFuse s.radioNs
    rw [tk, pending, radioNs_eq]
    exact ⟨rfl, rfl⟩
  · exact ⟨rfl, rfl⟩

theorem clockTick_core (s : State) : s.clockTick.tk = s.tk + 1 ∧ s.clockTick.pending = s.pending := by
  obtain ⟨tk, pending⟩ := nsTicked_core { s with tk := s.tk + 1 }
  have cycles := uncycled_cycles (State.nsTicked { s with tk := s.tk + 1 })
  rw [clockTick_eq]
  exact ⟨(congrArg State.tk cycles).trans tk, (congrArg State.pending cycles).trans pending⟩

theorem clockTick_quiet {s : State} (ns : (s.tk + 1) % 33 ≠ 0) (cycle : (s.tk + 1) % 20 ≠ 0) : s.clockTick = { s with tk := s.tk + 1 } := by
  rw [clockTick_eq, State.nsTicked, if_neg ns]
  exact cycles_quiet cycle

/-- The counter on a tick of the ns, with nothing to slew away. -/
theorem radioNs_now {s : State} (level : s.slew = 0) (room : s.now + 1 < 2 ^ 64) :
    s.radioNs.now = if s.timeSet? = true then s.now + 1 else s.now := by
  unfold State.radioNs
  have set : s.bit (rk .TM_STATUS) 4 = s.timeSet? := rfl
  rw [set]
  split
  · have still : (if s.tk % 330000 = 0 then (if 0 < s.slew then 1 else if s.slew < 0 then -1 else 0) else 0 : Int) = 0 := by
      rw [level]
      split <;> rfl
    rw [still]
    have framed (u : State) (old : Nat) : (u.frameStart old).showSlot.now = u.now := by
      have frame : (u.frameStart old).now = u.now := by
        unfold State.frameStart
        dsimp only
        split <;> rfl
      exact (congrArg BitVec.toNat (State.reg_setReg_other _ _ (by decide))).trans frame
    refine (framed _ _).trans ?_
    rw [State.now, State.reg_setReg_same, BitVec.toNat_ofNat, Nat.mod_eq_of_lt (by omega)]
    omega
  · rfl

theorem clockTick_now {s : State} (ns : (s.tk + 1) % 33 = 0) (cycle : (s.tk + 1) % 20 ≠ 0) (level : s.slew = 0) (room : s.now + 1 < 2 ^ 64) :
    s.clockTick.now = if s.timeSet? = true then s.now + 1 else s.now := by
  obtain ⟨tk, _, now⟩ := sameClock_blowFuse (State.radioNs { s with tk := s.tk + 1 })
  have start : (State.radioNs { s with tk := s.tk + 1 }).tk = s.tk + 1 := by rw [radioNs_eq]
  have ticked : State.nsTicked { s with tk := s.tk + 1 } = (State.radioNs { s with tk := s.tk + 1 }).blowFuse := if_pos ns
  rw [clockTick_eq, ticked, cycles_quiet (by rw [tk, start]; exact cycle), State.now, now]
  exact radioNs_now (s := { s with tk := s.tk + 1 }) level room

/-! ### Readiness bit 7 -/

/-- What showing readiness bit 7 leaves. -/
theorem showTime_reg (s : State) {k : RegKey} (out : k.name ∉ settleRegs) : s.showTime.reg k = s.reg k := (settles_settle _).reg k out

theorem showTime_field (s : State) {α : Type} (f : State → α) (hf : ∀ x : State, f x.unsettled = f x) : f s.showTime = f s := by
  have settled : f s.showTime = f (s.setOwn 7 s.disciplined) := settle_field _ f hf
  rw [settled, ← hf (s.setOwn 7 s.disciplined), ← hf s]
  rfl

theorem showTime_ready (s : State) : s.showTime.isReady 7 = (s.disciplined && s.zenith) := by
  have own (i : Nat) (low : i < 128) : s.showTime.own i = if i = 7 then s.disciplined else s.own i :=
    (awake_settle (s.setOwn 7 s.disciplined) i low).trans (own_setOwn s 7 i s.disciplined)
  change (s.showTime.own 7 && (s.showTime.own 1 && s.showTime.own 0)) = _
  rw [own 7 (by decide), own 1 (by decide), own 0 (by decide)]
  rfl

/-- The discipline changed, with its event. -/
def State.timed (s : State) (n : Nat) : State :=
  ((s.setFld (rk .TM_STATUS) 0 2 n).setFld (rk .CK_STATUS) 1 1 (flagNat (n ≠ 1))).timeEvent

theorem timed_reg (s : State) (n : Nat) {k : RegKey} (quiet : k.name ∉ eventRegs) (clock : k ≠ rk .CK_STATUS) :
    (s.timed n).reg k = (s.setFld (rk .TM_STATUS) 0 2 n).reg k :=
  (State.raise_reg quiet ..).trans (State.reg_setFld_other _ _ _ _ clock)

theorem timed_fld (s : State) (n : Nat) {lo w : Nat} (high : 2 ≤ lo) : (s.timed n).fld (rk .TM_STATUS) lo w = s.fld (rk .TM_STATUS) lo w := by
  rw [State.fld, timed_reg s n (by decide) (by decide)]
  exact State.fld_setFld_apart _ _ 0 2 _ _ _ (by decide) (by omega)

theorem timed_timeState (s : State) {n : Nat} (small : n < 4) : (s.timed n).timeState = n := by
  rw [State.timeState, State.fld, timed_reg s n (by decide) (by decide)]
  exact (State.fld_setFld_same _ _ _ _ _ (by decide)).trans (Nat.mod_eq_of_lt small)

/-- A state reached by changing the discipline: it shows it with its event, and bit 7 follows. -/
theorem setTimeState_shown (s : State) {n : Nat} (small : n < 4) : (s.setTimeState n).timeState = n ∧
    (s.setTimeState n).bit (rk .TM_STATUS) 2 = s.bit (rk .TM_STATUS) 2 ∧ (s.setTimeState n).reg (rk .TM_NOW) = s.reg (rk .TM_NOW) ∧
    (s.setTimeState n).onceLocked = s.onceLocked ∧ (s.setTimeState n).holdoverDone = s.holdoverDone ∧
    (s.setTimeState n).isReady 7 = (s.timeSet? && (n = 2 || (n = 3 && !s.holdoverDone)) && s.zenith) := by
  have shown : s.setTimeState n = (s.timed n).showTime := rfl
  have status : (s.setTimeState n).reg (rk .TM_STATUS) = (s.timed n).reg (rk .TM_STATUS) := showTime_reg _ (by decide)
  have set : (s.timed n).timeSet? = s.timeSet? := congrArg (fun x => decide (x = 1)) (timed_fld s n (by decide))
  have held : (s.timed n).holdoverDone = s.holdoverDone := raise_field _ _ _ _ State.holdoverDone
  have zenith : (s.timed n).zenith = s.zenith := raise_field _ _ _ _ State.zenith
  refine ⟨?_, ?_, ?_, ?_, ?_, ?_⟩
  · rw [State.timeState, State.fld, status]
    exact timed_timeState s small
  · rw [State.bit, State.fld, status]
    exact congrArg (fun x => decide (x = 1)) (timed_fld s n (lo := 2) (w := 1) (by decide))
  · exact (showTime_reg _ (by decide)).trans ((timed_reg s n (by decide) (by decide)).trans (State.reg_setFld_other _ _ _ _ (by decide)))
  · rw [shown, showTime_field _ State.onceLocked fun _ => rfl]
    exact raise_field _ _ _ _ State.onceLocked
  · rw [shown, showTime_field _ State.holdoverDone fun _ => rfl, held]
  · rw [shown, showTime_ready, State.disciplined, set, timed_timeState s small, held, zenith]

end Sys2Proof.Machine

open Sys2Proof.Machine in
/-- Settles O46: each event is the setting of the discipline, and readiness bit 7 follows it. -/
theorem radioTimeStateFollowsTheReference : Obligations.RadioTimeStateFollowsTheReference := by
  intro s ready
  refine ⟨fun good absent => ?_, fun locking => ?_, fun present => ?_, fun holdover early => ?_, fun present => ?_, fun other => ?_, fun absent => ?_,
    fun other => ?_⟩
  · obtain ⟨state, bit, now, _, _, seven⟩ := setTimeState_shown (s.setFld (rk .TM_STATUS) 2 1 1) (n := 1) (by decide)
    refine ⟨_, ?_, state, bit.trans ?_, ?_, now.trans ?_⟩
    · rw [exec_referencePresent, execReferencePresent, good, absent]
      rfl
    · exact bit_setFld_same s _ 2 true (by decide)
    · rw [seven]
      simp
    · exact State.reg_setFld_other _ _ _ _ (by decide)
  · obtain ⟨state, _, _, once, _, seven⟩ := setTimeState_shown { s with onceLocked := true } (n := 2) (by decide)
    refine ⟨_, ?_, state, once, ?_⟩
    · rw [exec_referenceLocked, execReferenceLocked, if_pos locking]
    · change State.isReady _ 7 = _
      rw [seven]
      simp
      rfl
  · obtain ⟨state, bit, _, _, held, seven⟩ := setTimeState_shown { s.setFld (rk .TM_STATUS) 2 1 0 with holdoverDone := false }
      (n := if s.onceLocked then 3 else 0) (by split <;> decide)
    refine ⟨_, ?_, bit.trans ?_, fun once => ⟨?_, held, ?_⟩, fun never => ⟨?_, ?_⟩⟩
    · rw [exec_referenceLost, execReferenceLost, present]
      rfl
    · exact bit_setFld_same s _ 2 false (by decide)
    · rw [state, once]
      rfl
    · change State.isReady _ 7 = _
      have set : (s.setFld (rk .TM_STATUS) 2 1 0).timeSet? = s.timeSet? := bit_setFld_apart s _ 2 1 0 4 (by decide) (by decide)
      rw [seven, once]
      exact congrArg (· && s.zenith) ((Bool.and_true _).trans set)
    · rw [state, never]
      rfl
    · rw [seven, never]
      simp
  · have gate : (decide (s.timeState = 3) && !s.holdoverDone) = true := by simp [holdover, early]
    refine ⟨{ s with holdoverDone := true }.showTime, ?_, ?_, showTime_field _ State.holdoverDone fun _ => rfl, ?_⟩
    · rw [exec_holdoverExpiry, execHoldoverExpiry, gate]
      rfl
    · rw [State.timeState, State.fld, showTime_reg _ (by decide)]
      exact holdover
    · rw [showTime_ready, State.disciplined, show ({ s with holdoverDone := true } : State).timeState = 3 from holdover]
      simp
  · rw [exec_referencePresent, execReferencePresent, present]
    simp
  · rw [exec_referenceLocked, execReferenceLocked, if_neg other]
  · rw [exec_referenceLost, execReferenceLost, absent]
    rfl
  · rw [exec_holdoverExpiry, execHoldoverExpiry, decide_eq_false other]
    rfl

namespace Sys2Proof.Machine

/-! ### The counter set -/

theorem leNat_lt (bs : List Byte) : leNat bs < 256 ^ bs.length := by
  induction bs with
  | nil => exact Nat.one_pos
  | cons b r ih =>
    have byte := b.isLt
    rw [leNat, List.length_cons, Nat.pow_succ]
    omega

theorem pay_lt (s : State) (mb o n : Nat) : s.pay mb o n < 256 ^ n := by
  have whole : (Mem.read s.mbReq (mbBase mb + (64 + o)) n).length = n := by rw [Mem.read, List.length_map, List.length_range]
  exact (leNat_lt _).trans_eq (congrArg (256 ^ ·) whole)

theorem setTime_shown (s : State) {t : Nat} (small : t < 2 ^ 64) : (s.setTime t).now = t ∧ (s.setTime t).slew = 0 ∧ (s.setTime t).timeSet? = true ∧
    (s.setTime t).jobs = s.jobs := by
  let u : State := ({ s with slew := 0 }.setReg (rk .TM_NOW) (BitVec.ofNat 64 t)).setFld (rk .TM_STATUS) 4 1 1
  have shown : s.setTime t = u.showSlot.showTime := rfl
  have reg {k : RegKey} (out : k.name ∉ settleRegs) (slot : k ≠ rk .TM_SLOT) : (s.setTime t).reg k = u.reg k :=
    (showTime_reg u.showSlot out).trans (State.reg_setReg_other _ _ slot)
  refine ⟨?_, ?_, ?_, ?_⟩
  · rw [State.now, reg (by decide) (by decide), State.reg_setFld_other _ _ _ _ (by decide), State.reg_setReg_same, BitVec.toNat_ofNat,
      Nat.mod_eq_of_lt small]
  · rw [shown, showTime_field _ State.slew fun _ => rfl]
    rfl
  · rw [State.timeSet?, State.bit, State.fld, reg (by decide) (by decide)]
    exact bit_setFld_same _ _ 4 true (by decide)
  · rw [shown, showTime_field _ State.jobs fun _ => rfl]
    rfl

theorem exec_timeSet_due {s : State} {mb : Nat} (due : MailboxDue s (.timeSet mb)) :
    exec (.timeSet mb) s = answersOk mb (s.setTime (s.pay mb 0 8)) (leBytes 8 (s.pay mb 0 8)) := by
  obtain ⟨now, _⟩ := setTime_shown s (pay_lt s mb 0 8)
  refine (exec_due rfl due).trans ?_
  dsimp only
  rw [now]
  rfl

theorem exec_timeSetAtPps_due {s : State} {mb : Nat} (due : MailboxDue s (.timeSetAtPps mb)) : exec (.timeSetAtPps mb) s = .next (Ended.answered
    (if s.bit (rk .TM_STATUS) 3 then s.starts mb (.timeSetAtPps (s.pay mb 0 8)) else s.fails msNotReady 0) mb) :=
  (exec_due rfl due).trans rfl

/-! ### Edges -/

theorem ppsError_near (n : Nat) : (ppsError n).natAbs ≤ 500000000 ∧ ∃ k : Int, (n : Int) + ppsError n = 1000000000 * k := by
  have split := Nat.div_add_mod n 1000000000
  have short := Nat.mod_lt n (by decide : 1000000000 > 0)
  unfold ppsError
  dsimp only
  split
  · exact ⟨by omega, n / 1000000000, by omega⟩
  · exact ⟨by omega, n / 1000000000 + 1, by omega⟩

/-- An edge shown in its count, its presence and the distance. -/
def State.edged (s : State) : State :=
  ((s.bump (rk .TM_PPS_EDGES)).setFld (rk .TM_STATUS) 3 1 1).setReg (rk .TM_PPS_ERR) (BitVec.ofNat 64 (bitsOfInt (ppsError s.now) 32))

/-- What an edge does about the distance. -/
def State.slewing (s : State) : State :=
  if (s.fld (rk .TM_CFG) 0 16 : Int) < (ppsError s.now).natAbs then
    { s.edged with slew := 0 }.raise 0x121 devHandle (payload [(24, 4, bitsOfInt (ppsError s.now) 32)])
  else if s.timeSet? && s.timeState = 2 then { s.edged with slew := ppsError s.now } else s.edged

theorem edged_reg (s : State) {k : RegKey} (out : k.name ∉ [RegName.TM_PPS_EDGES, .TM_STATUS, .TM_PPS_ERR]) : s.edged.reg k = s.reg k := by
  have apart {n : RegName} (mem : n ∈ [RegName.TM_PPS_EDGES, .TM_STATUS, .TM_PPS_ERR]) : k ≠ rk n := fun same => out (same ▸ mem)
  exact (State.reg_setReg_other _ _ (apart (by decide))).trans ((State.reg_setFld_other _ _ _ _ (apart (by decide))).trans
    (State.reg_setReg_other _ _ (apart (by decide))))

theorem edged_status (s : State) {lo w : Nat} (apart : lo + w ≤ 3 ∨ 4 ≤ lo) : s.edged.fld (rk .TM_STATUS) lo w = s.fld (rk .TM_STATUS) lo w := by
  rw [State.edged, State.fld, State.reg_setReg_other _ _ (by decide)]
  refine (State.fld_setFld_apart _ _ 3 1 _ _ _ (by decide) apart).trans ?_
  rw [State.fld, State.bump, State.reg_setReg_other _ _ (by decide), State.fld]

theorem exec_ppsEdge_due {s : State} (good : s.powerGood = true) (input : s.bit (rk .TM_STATUS) 5 = false) :
    exec .ppsEdge s = .next (s.slewing.armedSets.foldl State.setAtEdge s.slewing) := by
  have limit : s.edged.fld (rk .TM_CFG) 0 16 = s.fld (rk .TM_CFG) 0 16 := congrArg (fun w : Word => bitsOf w.toNat 0 16) (edged_reg s (by decide))
  have set : s.edged.timeSet? = s.timeSet? := congrArg (fun x => decide (x = 1)) (edged_status s (lo := 4) (w := 1) (by decide))
  have state : s.edged.timeState = s.timeState := edged_status s (lo := 0) (w := 2) (by decide)
  rw [exec_ppsEdge, execPpsEdge, input, good, State.slewing, ← limit, ← set, ← state]
  rfl

theorem slewing_mbRun (s : State) : s.slewing.mbRun = s.mbRun := by
  unfold State.slewing
  split
  · exact raise_field _ _ _ _ State.mbRun
  · split <;> rfl

theorem armedSets_none {s : State} (none : ∀ m ∈ s.mbRun, ∀ x, m.2 ≠ .timeSetAtPps x) : s.armedSets = [] :=
  List.filterMap_eq_nil_iff.mpr fun m mem => by
    split
    · next t eq => exact absurd eq (none m mem t)
    · rfl

/-- An edge that no TIME_SET waits for. -/
theorem exec_ppsEdge_unarmed {s : State} (good : s.powerGood = true) (input : s.bit (rk .TM_STATUS) 5 = false)
    (none : ∀ m ∈ s.mbRun, ∀ x, m.2 ≠ .timeSetAtPps x) : exec .ppsEdge s = .next s.slewing := by
  rw [exec_ppsEdge_due good input, armedSets_none (by rw [slewing_mbRun]; exact none)]
  rfl

/-- An edge that one TIME_SET waits for. -/
theorem exec_ppsEdge_armed {s : State} (good : s.powerGood = true) (input : s.bit (rk .TM_STATUS) 5 = false) {mb x : Nat}
    (only : s.mbRun = [(mb, .timeSetAtPps x)]) (own : mb < 72) (small : x < 2 ^ 64) :
    exec .ppsEdge s = answersOk mb (s.slewing.setTime x) (leBytes 8 x) := by
  obtain ⟨now, _⟩ := setTime_shown s.slewing small
  have armed : s.slewing.armedSets = [(mb, x)] := by
    rw [State.armedSets, slewing_mbRun, only]
    rfl
  rw [exec_ppsEdge_due good input, armed, List.foldl_cons, List.foldl_nil, State.setAtEdge]
  dsimp only
  rw [if_pos (by omega), now]
  rfl

end Sys2Proof.Machine

open Sys2Proof.Machine in
/-- Settles O47: a tick by its clocks, the settings by what `State.setTime` shows, an edge by its three cases. -/
theorem timeIsSetSlewedAndTicked : Obligations.TimeIsSetSlewedAndTicked := by
  refine ⟨fun s idle => ?_, ⟨fun mb s => ⟨fun due => ?_, fun due => ⟨fun absent => ?_, fun present => ?_⟩⟩, ppsError_near, fun s good input => ?_, fun s off => ?_,
    fun s => ⟨?_, ?_, fun none => ?_, fun set new => ?_, fun idle ns cycle level room => ?_⟩⟩⟩
  · obtain ⟨tk, pending⟩ := clockTick_core s
    exact ⟨s.clockTick, step_idle s idle, tk, pending.trans idle, clockTick_quiet⟩
  · obtain ⟨now, slew, set, jobs⟩ := setTime_shown s (pay_lt s mb 0 8)
    exact ⟨_, exec_timeSet_due due, now, slew, set, jobs⟩
  · rw [exec_timeSetAtPps_due due, absent]
    rfl
  · rw [exec_timeSetAtPps_due due, present]
    rfl
  · intro e u
    refine ⟨fun none => ⟨fun beyond => ?_, fun within set locked => ?_, fun within free => ?_⟩, fun mb x only own small => ?_⟩
    · rw [exec_ppsEdge_unarmed good input none, State.slewing, if_pos (by omega)]
      rfl
    · rw [exec_ppsEdge_unarmed good input none, State.slewing, if_neg (by omega), if_pos (by simp [set, locked])]
      rfl
    · have gate : ¬ (s.timeSet? && decide (s.timeState = 2)) = true := by
        obtain free | free := free <;> simp [free]
      rw [exec_ppsEdge_unarmed good input none, State.slewing, if_neg (by omega), if_neg gate]
      rfl
    · obtain ⟨now, slew, set, _⟩ := setTime_shown s.slewing small
      exact ⟨_, exec_ppsEdge_armed good input only own small, now, slew, set⟩
  · have gate : (s.bit (rk .TM_STATUS) 5 || !s.powerGood) = true := by
      obtain off | off := off <;> simp [off]
    rw [exec_ppsEdge, execPpsEdge, if_pos gate]
  · rw [exec_ppsMissed, execPpsMissed]
    split <;> rfl
  · rw [exec_ppsOutPulse, execPpsOutPulse]
    simp only [Bool.and_eq_true, decide_eq_true_eq, and_assoc]
    exact (apply_ite Host.Outcome.next _ _ _).symm
  · have gate : ¬ (s.timeSet? && decide (s.slotStart ≠ s.lastSlot)) = true := by
      obtain none | none := none <;> simp [none]
    rw [exec_slotTick, execSlotTick, if_neg gate]
  · rw [exec_slotTick, execSlotTick, if_pos (by simp [set, new])]
    rfl
  · exact ⟨s.clockTick, step_idle s idle, clockTick_now ns cycle level room⟩
end


section
/-! PROOFS. The lifetime record, its saves and the flash log (19_nimbus_security_lifetime.md, R469, R473 to R477). -/

namespace Sys2Proof.Machine

theorem shows_showSuspects (s : State) : Shows [.TR_COLUMN_SPARES] s s.showSuspects :=
  Shows.foldl _ _ s fun t u => shows_ite (.refl t) ((shows_setFld t (by decide) ..).trans (shows_setFld _ (by decide) ..))

/-- The record with one powered second more. -/
def State.secondLife (s : State) : Life :=
  { s.life with
    poweredS := satAdd 32 s.life.poweredS 1
    logicBins := addAt 32 s.life.logicBins (binOf logicBounds (s.hottest 0 70))
    dramBins := addAt 32 s.life.dramBins (binOf dramBounds (s.hottest 70 16))
    voltBins := if s.sensor 96 = 0x8000#16 then s.life.voltBins else addAt 32 s.life.voltBins (binOf voltBounds ((s.sensor 96).toNat : Int)) }

/-- The second counted, with the powered time shown. -/
def State.secondCounted (s : State) : State :=
  { s.setReg (rk .NB_POWERED) (BitVec.ofNat 64 (satAdd 32 (s.fld (rk .NB_POWERED) 0 32) 1 + 2 ^ 32 * s.secondLife.poweredS)) with life := s.secondLife }

theorem exec_lifetimeSecond_powered {s : State} (on : s.powered = true) : exec .lifetimeSecond s = .next s.secondCounted.showSuspects := by
  rw [exec_lifetimeSecond, execLifetimeSecond, on]
  rfl

theorem secondCounted_reg (s : State) {k : RegKey} (other : k ≠ rk .NB_POWERED) : s.secondCounted.reg k = s.reg k := State.reg_setReg_other s _ other

theorem secondCounted_eq (s : State) : s.secondCounted = { s with regs := s.secondCounted.regs, life := s.secondLife } := rfl

/-! ### A block erased -/

theorem nextBlock_sound {s : State} {base n r b : Nat} (found : s.nextBlock base n r = some b) : s.worn.contains b = false := by
  simpa using List.find?_some found

theorem eraseBlock_field (s : State) (b : Nat) {α : Type} (f : State → α) (hf : ∀ x : State, f x.eventless = f x) :
    f (s.eraseBlock b) = f { s with
      blockErases := Tab.put s.blockErases b (Tab.getD s.blockErases b 0 + 1)
      worn := if 100000 ≤ Tab.getD s.blockErases b 0 + 1 then setIns s.worn b else s.worn } := by
  have counted (u : State) (e : Tab Nat) (w : List Nat) :
      f { u.bump (rk .NB_FLASH_ERASES) with blockErases := e, worn := w } = f { u with blockErases := e, worn := w } := by
    rw [← hf, ← hf { u with blockErases := e, worn := w }]
    rfl
  have raised (u : State) (c h : Nat) (p : List Byte) : f (u.raise c h p) = f u := raise_field u c h p f hf
  unfold State.eraseBlock
  dsimp only
  split
  · exact (raised ..).trans (counted ..)
  · exact counted ..

theorem eraseBlock_worn {s : State} {b : Nat} (fresh : s.worn.contains b = false) :
    (s.eraseBlock b).worn.contains b = decide (100000 ≤ Tab.getD s.blockErases b 0 + 1) := by
  have worn : (s.eraseBlock b).worn = if 100000 ≤ Tab.getD s.blockErases b 0 + 1 then setIns s.worn b else s.worn :=
    eraseBlock_field s b State.worn fun _ => rfl
  rw [worn]
  split
  · next old =>
    rw [List.contains_iff_mem.mpr ((mem_setIns ..).mpr (.inl rfl)), decide_eq_true old]
  · next young => rw [fresh, decide_eq_false young]

theorem freshBlock_succ {s : State} {base n c r b : Nat} (found : s.nextBlock base n r = some b) : s.freshBlock base n (c + 1) r =
    if 100000 ≤ Tab.getD s.blockErases b 0 + 1 then (s.eraseBlock b).freshBlock base n c (b - base + 1) else (s.eraseBlock b, some b) := by
  rw [State.freshBlock, found]
  dsimp only
  rw [eraseBlock_worn (nextBlock_sound found)]
  simp only [decide_eq_true_eq]

/-- A save into a block whose erase does not retire it. -/
theorem lifeSave_saved {s : State} {b : Nat} (found : s.nextBlock 256 64 (Tab.getD s.cursors curRecord 0) = some b)
    (young : Tab.getD s.blockErases b 0 + 1 < 100000) : ∃ t : State, t = s.eraseBlock b ∧ s.lifeSave.life.saves = satAdd 32 t.life.saves 1 ∧
    s.lifeSave.copies = Tab.put t.copies (b - 256) ⟨s.lifeSave.life, true⟩ ∧ s.lifeSave.blockErases = t.blockErases := by
  have block : s.freshBlock 256 64 64 (Tab.getD s.cursors curRecord 0) = (s.eraseBlock b, some b) := by
    rw [freshBlock_succ found, if_neg (Nat.not_le.mpr young)]
  refine ⟨_, rfl, ?_⟩
  rw [State.lifeSave, block]
  generalize s.eraseBlock b = t
  exact ⟨rfl, rfl, rfl⟩

end Sys2Proof.Machine

open Sys2Proof.Machine in
/-- Settles O51: a second by its record, a save by the block it takes, the flash log by its front entry. -/
theorem lifetimeCountsAndSaves : Obligations.LifetimeCountsAndSaves := by
  intro s on
  refine ⟨?_, fun v => ?_, fun nimbus => ?_, fun b found young high => ?_, fun b c r found => freshBlock_succ found, fun none => ?_, fun e r pend mid room => ?_⟩
  · have shown := shows_showSuspects s.secondCounted
    have life : s.secondCounted.showSuspects.life = s.secondLife := shown.field State.life
    refine ⟨_, exec_lifetimeSecond_powered on, ?_⟩
    rw [life]
    refine ⟨rfl, rfl, rfl, fun sampled => if_neg sampled, fun none => if_pos none, fun k powered spares => ?_, ?_⟩
    · exact (shown.reg k fun mem => spares (List.mem_singleton.mp mem)).trans (secondCounted_reg s powered)
    · exact shown.eq.trans (by rw [secondCounted_eq])
  · rw [exec_lifetimeSave, execLifetimeSave, on, Bool.true_and, apply_ite Host.Outcome.next]
  · rw [exec_lifetimeRecordSave, execLifetimeRecordSave, nimbus]
    rfl
  · obtain ⟨t, erased, saves, copies, erases⟩ := lifeSave_saved found young
    have copied : t.copies = s.copies := erased ▸ eraseBlock_field s b State.copies fun _ => rfl
    refine ⟨saves.trans ?_, ?_, fun i other => ?_, ?_⟩
    · rw [erased, eraseBlock_field s b (fun u => u.life.saves) fun _ => rfl]
      rfl
    · rw [copies, Tab.find?_put_same]
    · rw [copies, Tab.find?_put_other _ _ other, copied]
    · rw [erases, erased, eraseBlock_field s b State.blockErases fun _ => rfl, Tab.getD_put_same]
  · rw [exec_flashLogWrite, execFlashLogWrite, on, State.flashWrite, none]
    rfl
  · rw [exec_flashLogWrite, execFlashLogWrite, on, State.flashWrite, pend]
    dsimp only
    rw [if_pos rfl, if_neg mid]
    exact congrArg Host.Outcome.next (if_neg room)
end


section
/-! PROOFS. The brownout ladder (20_module_power_thermal.md, R499, R500). -/

namespace Sys2Proof.Machine

/-! ### What the flash log's writes leave alone -/

/-- A state without what a write of the flash log can change. -/
def State.flashless (s : State) : State := { s.saveless with flashLog := [], flashPend := [] }

theorem flashless_of_saveless {s t : State} (same : t.saveless = s.saveless) : t.flashless = s.flashless := by
  rw [State.flashless, same, ← State.flashless]

theorem flashless_logBlock (s : State) : s.logBlock.flashless = s.flashless := by
  unfold State.logBlock
  extract_lets full cur
  have block : (if full then s.freshBlock 0 256 256 cur else (s, s.nextBlock 0 256 cur)).1.flashless = s.flashless := by
    split
    · exact flashless_of_saveless (saveless_freshBlock ..)
    · rfl
  generalize (if full then s.freshBlock 0 256 256 cur else (s, s.nextBlock 0 256 cur)) = x at block
  obtain ⟨t, b⟩ := x
  cases b <;> exact block

theorem flashless_flashWrite (s : State) : s.flashWrite.flashless = s.flashless := by
  unfold State.flashWrite
  split
  · rfl
  · next e r pend =>
    extract_lets n t u
    have hu : u.flashless = s.flashless := by
      unfold u
      split
      · exact flashless_logBlock t
      · rfl
    split <;> exact hu

theorem flashless_flashAll (s : State) : s.flashAll.flashless = s.flashless :=
  List.foldlRecOn (motive := fun t : State => t.flashless = s.flashless) _ _ rfl fun t same _ _ => (flashless_flashWrite t).trans same

theorem unsettled_linkDown (s : State) : s.linkDown.unsettled = s.unsettled := by
  unfold State.linkDown
  exact (unsettled_raise ..).trans ((unsettled_settle _).trans rfl)

theorem exec_orderlyStop_due {s : State} (good : s.powerGood = true) (begun : s.snapshotBegun = true) : exec .orderlyStop s = .next s.stopRails := by
  rw [exec_orderlyStop, execOrderlyStop, good, begun]
  rfl

/-- A reset of the die behind a stop: what it leaves nothing of. -/
theorem dieReset_stopped (s : State) (up : List Nat) : (s.dieReset up).jobs = [] ∧ (s.dieReset up).rings = [] ∧ (s.dieReset up).allocs = [] ∧
    (s.dieReset up).dev = [] ∧ (s.dieReset up).bit (rk .HI_LINK) 10 = false ∧ (s.dieReset up).powerGood = s.powerGood ∧
    (s.dieReset up).snapshotBegun = s.snapshotBegun ∧ (s.dieReset up).tripped = s.tripped := by
  refine ⟨dieReset_field s up State.jobs, dieReset_field s up State.rings, dieReset_field s up State.allocs, dieReset_field s up State.dev, ?_,
    dieReset_field s up State.powerGood, dieReset_field s up State.snapshotBegun, dieReset_field s up State.tripped⟩
  rw [State.bit, State.fld, dieReset_reg_cleared s up (by decide) (by decide)]
  decide

theorem stopRails_shown (s : State) : s.stopRails.powerGood = false ∧ s.stopRails.snapshotBegun = false ∧ s.stopRails.bit (rk .HI_LINK) 10 = false ∧
    s.stopRails.jobs = [] ∧ s.stopRails.rings = [] ∧ s.stopRails.allocs = [] ∧ s.stopRails.tripped = s.tripped ∧
    ∀ a, Mem.get s.stopRails.dev a = memDefault := by
  unfold State.stopRails
  extract_lets t u w v
  have ht : t.tripped = s.tripped := (congrArg State.tripped (flashless_flashAll s) :)
  have hu : u.tripped = t.tripped := by
    unfold u
    split
    · exact (congrArg State.tripped (unsettled_linkDown t) :)
    · rfl
  have hv : v.tripped = u.tripped := rfl
  have off : v.powerGood = false := rfl
  have ended : v.snapshotBegun = false := rfl
  clear_value v
  obtain ⟨jobs, rings, allocs, dev, link, power, begun, tripped⟩ := dieReset_stopped v (if v.tripped then v.up.filter fun i => i = 0 || i = 9 else [])
  exact ⟨power.trans off, begun.trans ended, link, jobs, rings, allocs, tripped.trans (hv.trans (hu.trans ht)), fun a => by rw [dev]; rfl⟩

end Sys2Proof.Machine

open Sys2Proof.Machine in
/-- Settles O49: each step of the ladder under its condition. -/
theorem brownoutLadderRunsInOrder : Obligations.BrownoutLadderRunsInOrder := by
  intro s
  refine ⟨fun v high good early calm out => ?_, fun v inside => ?_, rfl, fun us warned early => ?_, fun us off => ?_, fun v us off => ?_,
    fun v us good shut high => ?_, fun opened => ?_, fun good early cause => ?_, fun good begun => ?_, fun early => ?_⟩
  · have outside : (if high then decide (600 < v) else decide (v < 400)) = true := by
      cases high <;> exact decide_eq_true out
    rw [exec_powerWarn, execPowerWarn, outside, good, early, decide_eq_false calm]
    rfl
  · have inside : (if false = true then decide (600 < v) else decide (v < 400)) = false := decide_eq_false (Nat.not_lt.mpr inside)
    rw [exec_powerWarn, execPowerWarn, inside]
    simp
  · have gate : ¬ (decide (s.fld (rk .PW_STATUS) 0 2 ≠ 1) || s.snapshotBegun) = true := by simp [warned, early]
    rw [exec_powerRestored, execPowerRestored, if_neg gate]
    rfl
  · have gate : (decide (s.fld (rk .PW_STATUS) 0 2 ≠ 1) || s.snapshotBegun) = true := by
      obtain off | off := off <;> simp [off]
    rw [exec_powerRestored, execPowerRestored, if_pos gate]
  · have gate : (!s.powerGood || s.switchOpen || !overvolt v us) = true := by
      obtain low | off | off := off
      · have low : overvolt v us = false := by
          rw [overvolt]
          simpa [imp_iff_not_or] using low
        rw [low, Bool.not_false, Bool.or_true]
      · rw [off, Bool.or_true, Bool.true_or]
      · rw [off, Bool.not_false, Bool.true_or, Bool.true_or]
    rw [exec_overvoltage, execOvervoltage, if_pos gate]
  · have beyond : overvolt v us = true := by simpa [overvolt] using high
    rw [exec_overvoltage, execOvervoltage, good, shut, beyond]
    rfl
  · rw [exec_switchClose, execSwitchClose, opened]
    rfl
  · have due : (s.powerGood && !s.snapshotBegun && (s.brownout || s.tripped)) = true := by
      rw [good, early, State.brownout]
      simpa [or_assoc] using cause
    rw [exec_consistentSnapshot, execConsistentSnapshot, if_pos due]
    rfl
  · exact ⟨s.stopRails, exec_orderlyStop_due good begun, stopRails_shown s⟩
  · rw [exec_orderlyStop, execOrderlyStop, early, Bool.and_false]
    rfl
end


section
/-! PROOFS. Telemetry ticks and sensor samples (20_module_power_thermal.md, R493 to R498, R501 to R503). -/

namespace Sys2Proof.Machine

theorem Shows.rest {ks : List RegName} {s t : State} (same : Shows ks s t) : t.rest = s.rest := by
  rw [same.eq]
  rfl

/-! ### Steps that each change a register of their own -/

/-- A sweep over units that each change a register of their own: what it leaves in one's register is what that one's step does. -/
theorem foldl_own {f : State → Nat → State} {key : Nat → RegKey} {l : List Nat} (nd : l.Nodup) {n : Nat} (mem : n ∈ l) (s : State)
    (rest : ∀ t x, (f t x).rest = t.rest) (apart : ∀ t : State, t.rest = s.rest → ∀ x, x ≠ n → (f t x).reg (key n) = t.reg (key n)) :
    (l.foldl f s).rest = s.rest ∧
    ∃ u : State, u.rest = s.rest ∧ u.reg (key n) = s.reg (key n) ∧ (l.foldl f s).reg (key n) = (f u n).reg (key n) := by
  have others (l : List Nat) (out : n ∉ l) (a : State) (start : a.rest = s.rest) :
      (l.foldl f a).rest = s.rest ∧ (l.foldl f a).reg (key n) = a.reg (key n) :=
    List.foldlRecOn (motive := fun t : State => t.rest = s.rest ∧ t.reg (key n) = a.reg (key n)) l f ⟨start, rfl⟩ fun t same x mem => by
      obtain ⟨kept, reg⟩ := same
      exact ⟨(rest t x).trans kept, (apart t kept x fun eq => out (eq ▸ mem)).trans reg⟩
  obtain ⟨before, after, rfl⟩ := List.append_of_mem mem
  obtain ⟨-, ⟨late, -⟩, early⟩ := List.nodup_append.mp nd |>.imp_right fun h => h.imp_left List.nodup_cons.mp
  obtain ⟨kept, reg⟩ := others before (fun mem => early n mem n List.mem_cons_self rfl) s rfl
  obtain ⟨all, last⟩ := others after late (f (before.foldl f s) n) ((rest _ n).trans kept)
  rw [List.foldl_append, List.foldl_cons]
  exact ⟨all, before.foldl f s, kept, reg, last⟩

/-! ### The thermal shares -/

/-- A terrace's thermal share after a tick at a temperature. -/
def warmed (old : Nat) (hot : Int) : Nat := if 800 ≤ hot then max (old - 8) 1 else if hot ≤ 776 then min (old + 2) 256 else old

theorem warmed_lt {old : Nat} (hot : Int) (small : old < 512) : warmed old hot < 512 := by
  unfold warmed
  split
  · omega
  · split <;> omega

theorem logicalT_unmapped {s : State} (empty : s.lmap = []) (p : Nat) : s.logicalT p = p := by
  have own (t : Nat) : s.physT t = t := by rw [State.physT, empty]; rfl
  unfold State.logicalT
  simp only [own]
  cases found : (List.range 35).find? fun t => decide (t = p) with
  | none => rfl
  | some t => simpa using List.find?_some found

theorem thermalStep_eq {s : State} (empty : s.lmap = []) (p : Nat) : ∃ c u pay, s.thermalStep p =
    if warmed (s.fld (rk .PW_SHARE 0 p) 9 9) (s.terraceTemp p) = s.fld (rk .PW_SHARE 0 p) 9 9 then s
    else if s.fld (rk .PW_SHARE 0 p) 9 9 = 256 ∨ warmed (s.fld (rk .PW_SHARE 0 p) 9 9) (s.terraceTemp p) = 256 then
      (s.setFld (rk .PW_SHARE 0 p) 9 9 (warmed (s.fld (rk .PW_SHARE 0 p) 9 9) (s.terraceTemp p))).raise c u pay
    else s.setFld (rk .PW_SHARE 0 p) 9 9 (warmed (s.fld (rk .PW_SHARE 0 p) 9 9) (s.terraceTemp p)) := by
  unfold State.thermalStep
  rw [logicalT_unmapped empty]
  exact ⟨_, _, _, rfl⟩

theorem rest_thermalStep (s : State) (p : Nat) : (s.thermalStep p).rest = s.rest := by
  unfold State.thermalStep
  extract_lets t k old hot new u
  split
  · rfl
  · split
    · exact rest_raise ..
    · rfl

theorem thermalStep_reg {s : State} (empty : s.lmap = []) (p : Nat) {k : RegKey} (quiet : k.name ∉ eventRegs) (other : k ≠ rk .PW_SHARE 0 p) :
    (s.thermalStep p).reg k = s.reg k := by
  obtain ⟨c, u, pay, eq⟩ := thermalStep_eq empty p
  rw [eq]
  split
  · rfl
  · split
    · exact (State.raise_reg quiet ..).trans (State.reg_setFld_other _ _ _ _ other)
    · exact State.reg_setFld_other _ _ _ _ other

theorem thermalStep_share {s : State} (empty : s.lmap = []) (p : Nat) :
    (s.thermalStep p).fld (rk .PW_SHARE 0 p) 9 9 = warmed (s.fld (rk .PW_SHARE 0 p) 9 9) (s.terraceTemp p) := by
  have small : s.fld (rk .PW_SHARE 0 p) 9 9 < 512 := Nat.mod_lt _ (by decide)
  have set : (s.setFld (rk .PW_SHARE 0 p) 9 9 (warmed (s.fld (rk .PW_SHARE 0 p) 9 9) (s.terraceTemp p))).fld (rk .PW_SHARE 0 p) 9 9 =
      warmed (s.fld (rk .PW_SHARE 0 p) 9 9) (s.terraceTemp p) :=
    (State.fld_setFld_same _ _ _ _ _ (by decide)).trans (Nat.mod_eq_of_lt (warmed_lt _ small))
  obtain ⟨c, u, pay, eq⟩ := thermalStep_eq empty p
  rw [eq]
  split
  · next same => exact same.symm
  · split
    · rw [State.fld, State.raise_reg (by simp [eventRegs, rk])]
      exact set
    · exact set

/-- All the thermal shares after a tick. -/
theorem thermal_shares {s : State} (empty : s.lmap = []) {n : Nat} (own : n < 35) :
    ((List.range 35).foldl State.thermalStep s).rest = s.rest ∧
    ((List.range 35).foldl State.thermalStep s).fld (rk .PW_SHARE 0 n) 9 9 = warmed (s.fld (rk .PW_SHARE 0 n) 9 9) (s.terraceTemp n) := by
  have lmap {t : State} (same : t.rest = s.rest) : t.lmap = [] := (of_rest State.lmap same).trans empty
  obtain ⟨rest, u, kept, reg, last⟩ := foldl_own (f := State.thermalStep) (key := fun n => rk .PW_SHARE 0 n) List.nodup_range (List.mem_range.mpr own) s
    rest_thermalStep fun t same x other => thermalStep_reg (lmap same) x (by simp [eventRegs, rk]) fun eq => other (congrArg RegKey.idx eq).symm
  have temp : u.terraceTemp n = s.terraceTemp n := of_rest (fun t => t.terraceTemp n) kept
  refine ⟨rest, ?_⟩
  rw [State.fld, last, ← State.fld, thermalStep_share (lmap kept), temp, State.fld, reg, ← State.fld]

/-! ### A tick -/

/-- A tick's measurements, and the shares of the cap and of the cut after them. -/
def State.metered (s : State) (volts power : Nat) : State :=
  let s := s.setReg (rk .PW_INPUT) (BitVec.ofNat 64 (volts % 65536 + 2 ^ 16 * (power % 65536)))
  let s := { s with uCap := s.capStep power }
  let s := if s.uCap < 256 then s.bump (rk .PW_CAP_TICKS) else s
  if s.fld (rk .PW_STATUS) 0 2 = 2 then
    let u := min (s.uCut + 16) 256
    let s := { s with uCut := u }
    if u = 256 then { s.setFld (rk .PW_STATUS) 0 2 0 with pwrAlert := false } else s
  else s

/-- The thermal shares after the measurements, with those that throttle counted. -/
def State.cooled (s : State) : State :=
  let s := (List.range 35).foldl State.thermalStep s
  s.bump (rk .PW_THERMAL_TICKS) ((List.range 35).filter fun t => decide (s.fld (rk .PW_SHARE 0 t) 9 9 < 256)).length

/-- The Drizzle pressures shown. -/
def State.pressed (s : State) (power : Nat) : State :=
  (List.range 35).foldl (fun s t => s.show (rk .DZ_PRESSURE 0 t) ((s.pressure t power).1 + 2 ^ 9 * flagNat (s.pressure t power).2)) s

theorem exec_telemetryTick_good {s : State} (good : s.powerGood = true) (volts power : Nat) :
    exec (.telemetryTick volts power) s = .next ((s.metered volts power).cooled.showShares.pressed power) := by
  rw [exec_telemetryTick, execTelemetryTick, good]
  rfl

theorem shows_pressed (s : State) (power : Nat) : Shows [.DZ_PRESSURE] s (s.pressed power) :=
  Shows.foldl _ _ s fun t _ => shows_show t (by decide) ..

/-- The measurements, and the share of the cap after them. -/
def State.capped (s : State) (volts power : Nat) : State :=
  let s := s.setReg (rk .PW_INPUT) (BitVec.ofNat 64 (volts % 65536 + 2 ^ 16 * (power % 65536)))
  let s := { s with uCap := s.capStep power }
  if s.uCap < 256 then s.bump (rk .PW_CAP_TICKS) else s

/-- The share of the cut with a tick of its release. -/
def State.released (s : State) : State :=
  if s.fld (rk .PW_STATUS) 0 2 = 2 then
    let u := min (s.uCut + 16) 256
    let s := { s with uCut := u }
    if u = 256 then { s.setFld (rk .PW_STATUS) 0 2 0 with pwrAlert := false } else s
  else s

theorem metered_eq (s : State) (volts power : Nat) : s.metered volts power = (s.capped volts power).released := rfl

theorem capped_shown (s : State) (volts power : Nat) : s.capped volts power = { s with regs := (s.capped volts power).regs, uCap := s.capStep power } ∧
    (s.capped volts power).reg (rk .PW_INPUT) = BitVec.ofNat 64 (volts % 65536 + 2 ^ 16 * (power % 65536)) ∧
    ∀ k : RegKey, k.name ∉ [RegName.PW_INPUT, .PW_CAP_TICKS] → (s.capped volts power).reg k = s.reg k := by
  unfold State.capped
  extract_lets a b
  have cap : a.capStep power = s.capStep power := by
    have watts : a.reg (rk .PW_CAP) = s.reg (rk .PW_CAP) := State.reg_setReg_other _ _ (by decide)
    rw [State.capStep, State.capWatts, State.fld, State.fld, watts]
    rfl
  have start : a = { s with regs := a.regs } := rfl
  have eq : b = { s with regs := b.regs, uCap := s.capStep power } := by
    rw [← cap]
    rfl
  have input : b.reg (rk .PW_INPUT) = BitVec.ofNat 64 (volts % 65536 + 2 ^ 16 * (power % 65536)) := State.reg_setReg_same ..
  have reg (k : RegKey) (out : k.name ∉ [RegName.PW_INPUT, .PW_CAP_TICKS]) : b.reg k = s.reg k :=
    State.reg_setReg_other _ _ fun same => out (by rw [same]; exact (by decide : RegName.PW_INPUT ∈ [RegName.PW_INPUT, .PW_CAP_TICKS]))
  split
  · refine ⟨by rw [← cap]; rfl,
      (State.reg_setReg_other _ _ (by decide)).trans input, fun k out => ?_⟩
    exact (State.reg_setReg_other _ _ fun same => out (by rw [same]; exact (by decide : RegName.PW_CAP_TICKS ∈ [RegName.PW_INPUT, .PW_CAP_TICKS]))).trans
      (reg k out)
  · exact ⟨eq, input, reg⟩

theorem released_shown (s : State) : s.released = { s with regs := s.released.regs, uCut := s.released.uCut, pwrAlert := s.released.pwrAlert } ∧
    s.released.uCut = (if s.fld (rk .PW_STATUS) 0 2 = 2 then min (s.uCut + 16) 256 else s.uCut) ∧
    (s.fld (rk .PW_STATUS) 0 2 = 2 → 240 ≤ s.uCut → s.released.fld (rk .PW_STATUS) 0 2 = 0 ∧ s.released.pwrAlert = false) ∧
    ∀ k : RegKey, k ≠ rk .PW_STATUS → s.released.reg k = s.reg k := by
  unfold State.released
  by_cases releasing : s.fld (rk .PW_STATUS) 0 2 = 2
  · rw [if_pos releasing, if_pos releasing]
    dsimp only
    by_cases whole : min (s.uCut + 16) 256 = 256
    · rw [if_pos whole]
      exact ⟨rfl, rfl, fun _ _ => ⟨State.fld_setFld_same _ _ 0 2 0 (by decide), rfl⟩, fun k other => State.reg_setFld_other _ _ _ _ other⟩
    · rw [if_neg whole]
      exact ⟨rfl, rfl, fun _ high => absurd (by omega) whole, fun _ _ => rfl⟩
  · rw [if_neg releasing, if_neg releasing]
    exact ⟨rfl, rfl, fun now => absurd now releasing, fun _ _ => rfl⟩

theorem metered_shown (s : State) (volts power : Nat) :
    (s.metered volts power).uCap = s.capStep power ∧
    (s.metered volts power).uCut = (if s.fld (rk .PW_STATUS) 0 2 = 2 then min (s.uCut + 16) 256 else s.uCut) ∧
    (s.fld (rk .PW_STATUS) 0 2 = 2 → 240 ≤ s.uCut → (s.metered volts power).fld (rk .PW_STATUS) 0 2 = 0 ∧ (s.metered volts power).pwrAlert = false) ∧
    (s.metered volts power).reg (rk .PW_INPUT) = BitVec.ofNat 64 (volts % 65536 + 2 ^ 16 * (power % 65536)) ∧
    (∀ n, (s.metered volts power).reg (rk .PW_SHARE 0 n) = s.reg (rk .PW_SHARE 0 n)) ∧
    (s.metered volts power).lmap = s.lmap ∧ (s.metered volts power).sensors = s.sensors ∧ (s.metered volts power).jobs = s.jobs ∧
    (s.metered volts power).rings = s.rings := by
  obtain ⟨eq, input, reg⟩ := capped_shown s volts power
  have status : (s.capped volts power).fld (rk .PW_STATUS) 0 2 = s.fld (rk .PW_STATUS) 0 2 := by
    rw [State.fld, reg _ (by decide), ← State.fld]
  have shares (n : Nat) : (s.capped volts power).reg (rk .PW_SHARE 0 n) = s.reg (rk .PW_SHARE 0 n) := reg _ (by simp [rk])
  have cut : (s.capped volts power).uCut = s.uCut := by rw [eq]
  obtain ⟨eq', cut', ended, reg'⟩ := released_shown (s.capped volts power)
  rw [status, cut] at cut' ended
  rw [metered_eq]
  generalize s.capped volts power = c at *
  refine ⟨?_, cut', ended, (reg' _ (by decide)).trans input, fun n => (reg' _ (by simp [rk])).trans (shares n), ?_, ?_, ?_, ?_⟩ <;> rw [eq', eq]

/-- The terraces' shares with those that throttle counted. -/
theorem cooled_reg {s : State} (empty : s.lmap = []) {k : RegKey} (out : k.name ∉ [RegName.PW_SHARE, .PW_THERMAL_TICKS] ++ eventRegs) :
    s.cooled.reg k = s.reg k := by
  have apart {m : RegName} (mem : m ∈ [RegName.PW_SHARE, .PW_THERMAL_TICKS]) (u i : Nat) : k ≠ rk m u i := fun same =>
    out (List.mem_append_left _ (by rw [same]; exact mem))
  have quiet : k.name ∉ eventRegs := fun mem => out (List.mem_append_right _ mem)
  have sweep : ((List.range 35).foldl State.thermalStep s).rest = s.rest ∧ ((List.range 35).foldl State.thermalStep s).reg k = s.reg k :=
    List.foldlRecOn (motive := fun t : State => t.rest = s.rest ∧ t.reg k = s.reg k) _ _ ⟨rfl, rfl⟩ fun t same x _ => by
      obtain ⟨rest, reg⟩ := same
      exact ⟨(rest_thermalStep t x).trans rest,
        (thermalStep_reg ((of_rest State.lmap rest).trans empty) x quiet (apart (m := .PW_SHARE) (by decide) 0 x)).trans reg⟩
  obtain ⟨_, reg⟩ := sweep
  exact (State.reg_setReg_other _ _ (apart (m := .PW_THERMAL_TICKS) (by decide) 0 0)).trans reg

theorem cooled_shares {s : State} (empty : s.lmap = []) {n : Nat} (own : n < 35) : s.cooled.rest = s.rest ∧
    s.cooled.fld (rk .PW_SHARE 0 n) 9 9 = warmed (s.fld (rk .PW_SHARE 0 n) 9 9) (s.terraceTemp n) := by
  obtain ⟨rest, share⟩ := thermal_shares empty own
  unfold State.cooled
  generalize (List.range 35).foldl State.thermalStep s = t at rest share
  exact ⟨rest, (State.fld_setReg_other _ _ _ _ (by simp [rk])).trans share⟩

/-- The shares shown, the thermal one as it was. -/
theorem showShares_share (s : State) {n : Nat} (own : n < 35) :
    s.showShares.fld (rk .PW_SHARE 0 n) 9 9 = s.fld (rk .PW_SHARE 0 n) 9 9 ∧
    s.showShares.fld (rk .PW_SHARE 0 n) 0 9 = min (min s.uCap s.uCut) (s.fld (rk .PW_SHARE 0 n) 9 9) := by
  unfold State.showShares
  extract_lets a b
  have status {k : RegKey} (other : k ≠ rk .PW_STATUS) : b.reg k = s.reg k :=
    (State.reg_setFld_other _ _ _ _ other).trans (State.reg_setFld_other _ _ _ _ other)
  have shares : b.uCap = s.uCap ∧ b.uCut = s.uCut := ⟨rfl, rfl⟩
  have thermal : b.fld (rk .PW_SHARE 0 n) 9 9 = s.fld (rk .PW_SHARE 0 n) 9 9 := by
    rw [State.fld, status (by simp [rk]), ← State.fld]
  clear_value b
  obtain ⟨cap, cut⟩ := shares
  obtain ⟨-, u, kept, reg, last⟩ := foldl_own
    (f := fun (s : State) t => s.show (rk .PW_SHARE 0 t) (min (min s.uCap s.uCut) (s.fld (rk .PW_SHARE 0 t) 9 9) + 2 ^ 9 * s.fld (rk .PW_SHARE 0 t) 9 9))
    (key := fun n => rk .PW_SHARE 0 n) List.nodup_range (List.mem_range.mpr own) b
    (fun t x => (shows_show (ks := [.PW_SHARE]) t (by decide) ..).rest) fun t _ x other => by
      rw [show_reg, if_neg fun eq => other (congrArg RegKey.idx eq).symm]
  have before : u.fld (rk .PW_SHARE 0 n) 9 9 = s.fld (rk .PW_SHARE 0 n) 9 9 := by rw [State.fld, reg, ← State.fld, thermal]
  have small : s.fld (rk .PW_SHARE 0 n) 9 9 < 512 := Nat.mod_lt _ (by decide)
  rw [show_reg, if_pos rfl, of_rest State.uCap kept, of_rest State.uCut kept, cap, cut, before] at last
  generalize s.fld (rk .PW_SHARE 0 n) 9 9 = x at last small ⊢
  have least : min (min s.uCap s.uCut) x < 512 := by omega
  generalize min (min s.uCap s.uCut) x = y at last least ⊢
  have whole : y + 2 ^ 9 * x < 2 ^ 64 := by omega
  refine ⟨?_, ?_⟩
  · rw [State.fld, last, BitVec.toNat_ofNat, Nat.mod_eq_of_lt whole, bitsOf]
    omega
  · rw [State.fld, last, BitVec.toNat_ofNat, Nat.mod_eq_of_lt whole, bitsOf]
    omega

theorem showShares_state (s : State) : s.showShares.fld (rk .PW_STATUS) 0 2 = s.fld (rk .PW_STATUS) 0 2 := by
  unfold State.showShares
  extract_lets a b
  have shares : Shows [.PW_SHARE] b ((List.range 35).foldl (fun s t =>
      s.show (rk .PW_SHARE 0 t) (min (min s.uCap s.uCut) (s.fld (rk .PW_SHARE 0 t) 9 9) + 2 ^ 9 * s.fld (rk .PW_SHARE 0 t) 9 9)) b) :=
    Shows.foldl _ _ b fun t _ => shows_show t (by decide) ..
  refine (shares.fld (by decide) 0 2).trans ?_
  exact (State.fld_setFld_apart _ _ 3 1 _ 0 2 (by decide) (by decide)).trans (State.fld_setFld_apart _ _ 2 1 _ 0 2 (by decide) (by decide))

/-- What follows the measurements leaves of them. -/
theorem cooled_shown {s : State} (empty : s.lmap = []) (power : Nat) : let t := s.cooled.showShares.pressed power
    t.uCap = s.uCap ∧ t.uCut = s.uCut ∧ t.pwrAlert = s.pwrAlert ∧ t.jobs = s.jobs ∧ t.rings = s.rings ∧
    t.fld (rk .PW_STATUS) 0 2 = s.fld (rk .PW_STATUS) 0 2 ∧ t.reg (rk .PW_INPUT) = s.reg (rk .PW_INPUT) ∧
    ∀ n < 35, t.fld (rk .PW_SHARE 0 n) 9 9 = warmed (s.fld (rk .PW_SHARE 0 n) 9 9) (s.terraceTemp n) ∧
      t.fld (rk .PW_SHARE 0 n) 0 9 = min (min s.uCap s.uCut) (t.fld (rk .PW_SHARE 0 n) 9 9) := by
  intro t
  have pressed : Shows [.DZ_PRESSURE] s.cooled.showShares t := shows_pressed _ power
  have shown : Shows [.PW_STATUS, .PW_SHARE] s.cooled s.cooled.showShares := shows_showShares _
  have rest : t.rest = s.rest := pressed.rest.trans (shown.rest.trans (cooled_shares empty (n := 0) (by decide)).1)
  refine ⟨of_rest State.uCap rest, of_rest State.uCut rest, of_rest State.pwrAlert rest, of_rest State.jobs rest, of_rest State.rings rest, ?_, ?_,
    fun n own => ?_⟩
  · rw [pressed.fld (by decide), showShares_state, State.fld, cooled_reg empty (by decide), ← State.fld]
  · rw [pressed.reg _ (by decide), shown.reg _ (by decide), cooled_reg empty (by decide)]
  · obtain ⟨kept, share⟩ := cooled_shares empty own
    obtain ⟨thermal, least⟩ := showShares_share s.cooled own
    rw [pressed.fld (by simp [rk]), pressed.fld (by simp [rk]), thermal, least, share, of_rest State.uCap kept, of_rest State.uCut kept]
    exact ⟨rfl, rfl⟩

/-! ### A sample -/

/-- The readings of a sample in place, with its excursions of the input counted. -/
def State.read (s : State) (xs : List (BitVec 16)) : State :=
  ({ s with sensors := (List.range xs.length).zip xs, tripNow := false } : State).excursion

theorem find?_zip_range' {α : Type} (xs : List α) (first i : Nat) :
    Tab.find? ((List.range' first xs.length).zip xs) (first + i) = xs[i]? := by
  induction xs generalizing first i with
  | nil => rfl
  | cons x xs ih =>
    rw [List.length_cons, List.range'_succ, List.zip_cons_cons, Tab.find?]
    cases i with
    | zero => simp
    | succ i => rw [if_neg (by omega), show first + (i + 1) = first + 1 + i by omega, ih, List.getElem?_cons_succ]

theorem read_sensor (s : State) (xs : List (BitVec 16)) {i : Nat} (inside : i < xs.length) : (s.read xs).sensor i = xs.getD i 0 := by
  have found := find?_zip_range' xs 0 i
  rw [← List.range_eq_range', Nat.zero_add] at found
  change (Tab.find? ((List.range xs.length).zip xs) i).getD _ = _
  rw [found, List.getElem?_eq_getElem inside, List.getD_eq_getElem _ _ inside]
  rfl

theorem stackTemp_regs (s : State) (st : Nat) : (s.stackTemp st).rest = s.rest ∧
    ∀ k : RegKey, k.name ∉ eventRegs → k ≠ rk .DM_TEMP st → k ≠ rk .DM_STATUS st → (s.stackTemp st).reg k = s.reg k := by
  unfold State.stackTemp
  extract_lets x k a b
  have ha : a.rest = s.rest ∧ ∀ n : RegKey, n ≠ rk .DM_TEMP st → a.reg n = s.reg n :=
    ⟨(shows_show (ks := [.DM_TEMP]) s (by decide) ..).rest, fun n other => (show_reg ..).trans (if_neg other)⟩
  have hb : b.rest = a.rest ∧ ∀ n : RegKey, n ≠ k → b.reg n = a.reg n := by
    unfold b
    split
    · exact ⟨rfl, fun n other => State.reg_setFld_other _ _ _ _ other⟩
    · split
      · exact ⟨rfl, fun n other => State.reg_setFld_other _ _ _ _ other⟩
      · exact ⟨rfl, fun _ _ => rfl⟩
  obtain ⟨rest, reg⟩ := ha
  obtain ⟨rest', reg'⟩ := hb
  have kept : b.rest = s.rest ∧ ∀ n : RegKey, n.name ∉ eventRegs → n ≠ rk .DM_TEMP st → n ≠ k → b.reg n = s.reg n :=
    ⟨rest'.trans rest, fun n _ temp status => (reg' n status).trans (reg n temp)⟩
  have set (v : Nat) : (b.setFld k 2 1 v).rest = s.rest ∧
      ∀ n : RegKey, n.name ∉ eventRegs → n ≠ rk .DM_TEMP st → n ≠ k → (b.setFld k 2 1 v).reg n = s.reg n :=
    ⟨kept.1, fun n quiet temp status => (State.reg_setFld_other _ _ _ _ status).trans (kept.2 n quiet temp status)⟩
  split
  · split
    · exact kept
    · exact ⟨(rest_raise ..).trans (set 1).1, fun n quiet temp status => (State.raise_reg quiet ..).trans ((set 1).2 n quiet temp status)⟩
  · split
    · exact set 0
    · exact kept

/-- What a stack shows of a temperature. -/
theorem stackTemp_bits (s : State) (st : Nat) : let x := (s.sensor (70 + st)).toInt
    (760 ≤ x → (s.stackTemp st).bit (rk .DM_STATUS st) 2 = true) ∧ (x ≤ 744 → (s.stackTemp st).bit (rk .DM_STATUS st) 2 = false) ∧
    (744 < x → x < 760 → (s.stackTemp st).bit (rk .DM_STATUS st) 2 = s.bit (rk .DM_STATUS st) 2) ∧
    (680 < x → (s.stackTemp st).bit (rk .DM_STATUS st) 1 = true) ∧ (x ≤ 664 → (s.stackTemp st).bit (rk .DM_STATUS st) 1 = false) := by
  unfold State.stackTemp
  extract_lets x k a b
  have quiet : k.name ∉ eventRegs := (by decide : RegName.DM_STATUS ∉ eventRegs)
  have ha (i : Nat) : a.bit k i = s.bit k i := by
    have temp : a.reg k = s.reg k := (show_reg ..).trans (if_neg (by simp [k, rk]))
    rw [State.bit, State.fld, temp, ← State.fld, ← State.bit]
  have two : b.bit k 2 = s.bit k 2 := by
    rw [← ha 2]
    unfold b
    split
    · exact bit_setFld_apart _ _ _ _ _ _ (by decide) (by decide)
    · split
      · exact bit_setFld_apart _ _ _ _ _ _ (by decide) (by decide)
      · rfl
  have hot : 680 < x → b.bit k 1 = true := fun hot => by
    unfold b
    rw [if_pos hot]
    exact bit_setFld_same _ _ 1 true (by decide)
  have cool : x ≤ 664 → b.bit k 1 = false := fun cool => by
    unfold b
    rw [if_neg (by omega), if_pos cool]
    exact bit_setFld_same _ _ 1 false (by decide)
  clear_value b x
  have one (v : Nat) : (b.setFld k 2 1 v).bit k 1 = b.bit k 1 := bit_setFld_apart _ _ _ _ _ _ (by decide) (by decide)
  have raised (u : State) (c h i : Nat) (p : List Byte) : (u.raise c h p).bit k i = u.bit k i := by
    rw [State.bit, State.fld, State.raise_reg quiet, ← State.fld, ← State.bit]
  by_cases top : 760 ≤ x
  · rw [if_pos top]
    by_cases already : b.bit k 2 = true
    · rw [if_pos already]
      exact ⟨fun _ => already, fun low => absurd low (by omega), fun _ low => absurd low (by omega), hot, cool⟩
    · rw [if_neg already, raised, raised, one]
      exact ⟨fun _ => bit_setFld_same _ _ 2 true (by decide), fun low => absurd low (by omega), fun _ low => absurd low (by omega), hot, cool⟩
  · rw [if_neg top]
    by_cases low : x ≤ 744
    · rw [if_pos low, one]
      exact ⟨fun high => absurd high top, fun _ => bit_setFld_same _ _ 2 false (by decide), fun high => absurd high (by omega), hot, cool⟩
    · rw [if_neg low, two]
      exact ⟨fun high => absurd high top, fun now => absurd now low, fun _ _ => rfl, hot, cool⟩

/-- All the stacks' temperatures shown. -/
def State.warmedStacks (s : State) : State := (List.range 16).foldl State.stackTemp s

/-- What a sample leaves once its readings are shown: a second one in a row with a point too hot trips. -/
def State.tripped? (s : State) : State :=
  match s.tripPoint with
  | none => { s with overSample := false }
  | some i =>
    if s.overSample && !s.tripped then
      { s with tripped := true, tripNow := true }.raise 0x604 devHandle (payload [(24, 1, i), (26, 2, (s.sensor i).toNat)])
    else { s with overSample := true }

theorem tripped?_none {s : State} (cool : s.tripPoint = none) : s.tripped? = { s with overSample := false } := by
  rw [State.tripped?, cool]

theorem tripped?_again {s : State} {i : Nat} (hot : s.tripPoint = some i) (second : (s.overSample && !s.tripped) = true) :
    s.tripped? = { s with tripped := true, tripNow := true }.raise 0x604 devHandle (payload [(24, 1, i), (26, 2, (s.sensor i).toNat)]) := by
  rw [State.tripped?, hot]
  exact if_pos second

theorem tripped?_marked {s : State} {i : Nat} (hot : s.tripPoint = some i) (first : (s.overSample && !s.tripped) = false) :
    s.tripped? = { s with overSample := true } := by
  rw [State.tripped?, hot]
  exact if_neg (by rw [first]; decide)

theorem exec_sensorSample_good {s : State} (good : s.powerGood = true) (xs : List (BitVec 16)) :
    exec (.sensorSample xs) s = .next (s.read xs).warmedStacks.tripped? := by
  have powered : s.powered = true := by rw [State.powered, good, Bool.true_or]
  rw [exec_sensorSample, execSensorSample, powered, if_neg (by decide)]
  extract_lets a b c
  have still : b.powerGood = true := good
  have shown : c = (s.read xs).warmedStacks := rfl
  rw [still, if_neg (by decide), ← shown]
  clear_value c
  unfold State.tripped?
  cases c.tripPoint with
  | none => rfl
  | some i =>
    dsimp only
    split <;> rfl

/-- A sample's end: what it leaves, and what a hot point does. -/
theorem tripped?_shown (s : State) : s.tripped?.jobs = s.jobs ∧ s.tripped?.rings = s.rings ∧ s.tripped?.sensors = s.sensors ∧
    (∀ k : RegKey, k.name ∉ eventRegs → s.tripped?.reg k = s.reg k) ∧
    (s.tripPoint ≠ none → s.tripped?.tripped = (s.tripped || s.overSample)) ∧
    (s.tripPoint = none → s.tripped?.tripped = s.tripped ∧ s.tripped?.overSample = false) ∧
    (s.tripPoint ≠ none → s.overSample = false → s.tripped?.overSample = true) := by
  cases point : s.tripPoint with
  | none =>
    rw [tripped?_none point]
    exact ⟨rfl, rfl, rfl, fun _ _ => rfl, fun hot => absurd rfl hot, fun _ => ⟨rfl, rfl⟩, fun hot => absurd rfl hot⟩
  | some i =>
    cases second : (s.overSample && !s.tripped) with
    | false =>
      have same : s.tripped = (s.tripped || s.overSample) := by
        revert second
        cases s.tripped <;> cases s.overSample <;> decide
      rw [tripped?_marked point second]
      exact ⟨rfl, rfl, rfl, fun _ _ => rfl, fun _ => same, (fun cool => by cases cool), fun _ _ => rfl⟩
    | true =>
      obtain ⟨again, -⟩ := Bool.and_eq_true_iff.mp second
      rw [tripped?_again point second]
      exact ⟨raise_jobs .., raise_rings .., (of_rest State.sensors (rest_raise ..) :), fun k quiet => State.raise_reg quiet ..,
        fun _ => (of_rest State.tripped (rest_raise ..) :).trans (by rw [again, Bool.or_true]), (fun cool => by cases cool),
        fun _ first => absurd (again.symm.trans first) (by decide)⟩

theorem warmedStacks_rest (s : State) : s.warmedStacks.rest = s.rest :=
  List.foldlRecOn (motive := fun t : State => t.rest = s.rest) _ _ rfl fun t same st _ => (stackTemp_regs t st).1.trans same

/-- What all the stacks' temperatures leave in one's register. -/
theorem warmedStacks_status (s : State) {n : Nat} (own : n < 16) : ∃ u : State, u.rest = s.rest ∧
    u.reg (rk .DM_STATUS n) = s.reg (rk .DM_STATUS n) ∧ s.warmedStacks.reg (rk .DM_STATUS n) = (u.stackTemp n).reg (rk .DM_STATUS n) := by
  obtain ⟨-, stackless⟩ := foldl_own (f := State.stackTemp) (key := fun n => rk .DM_STATUS n) List.nodup_range (List.mem_range.mpr own) s
    (fun t x => (stackTemp_regs t x).1) fun t _ x other => by
      obtain ⟨-, reg⟩ := stackTemp_regs t x
      exact reg _ (by simp [eventRegs, rk]) (by simp [rk]) fun eq => other (congrArg RegKey.unit eq).symm
  exact stackless

/-- The first point too hot, of the logic's 70 and the stacks' 16. -/
theorem tripPoint_none_iff (s : State) : s.tripPoint = none ↔
    ¬ ∃ i, (i < 70 ∧ 920 ≤ (s.sensor i).toInt) ∨ (70 ≤ i ∧ i < 86 ∧ 800 ≤ (s.sensor i).toInt) := by
  rw [State.tripPoint, List.find?_eq_none]
  simp only [List.mem_range, decide_eq_true_eq]
  refine ⟨fun cool ⟨i, hot⟩ => ?_, fun cool i inside high => cool ⟨i, ?_⟩⟩
  · obtain ⟨low, high⟩ | ⟨low, inside, high⟩ := hot
    · exact cool i (by omega) (by rw [if_pos low]; exact high)
    · exact cool i inside (by rw [if_neg (by omega)]; exact high)
  · split at high
    · exact .inl ⟨by assumption, high⟩
    · exact .inr ⟨by omega, inside, high⟩

end Sys2Proof.Machine

open Sys2Proof.Machine in
/-- Settles O50: a tick by its measurements and its sweep over the terraces, a sample by its sweep over the stacks and its hottest point. -/
theorem ticksAndSamplesThrottleAndTrip : Obligations.TicksAndSamplesThrottleAndTrip := by
  refine ⟨fun v p s good unmapped => ?_, fun xs s good whole => ?_⟩
  · obtain ⟨cap, cut, release, input, share, lmap, sensors, jobs, rings⟩ := metered_shown s v p
    obtain ⟨cap', cut', alert', jobs', rings', state', input', shares⟩ := cooled_shown (s := s.metered v p) (lmap.trans unmapped) p
    have word : (BitVec.ofNat 64 (v % 65536 + 2 ^ 16 * (p % 65536))).toNat = v % 65536 + 2 ^ 16 * (p % 65536) := by
      rw [BitVec.toNat_ofNat, Nat.mod_eq_of_lt (by omega)]
    refine ⟨_, exec_telemetryTick_good good v p, cap'.trans cap, cut'.trans cut, fun now high => ?_, ?_, ?_, fun n own => ?_, jobs'.trans jobs,
      rings'.trans rings⟩
    · obtain ⟨state, alert⟩ := release now high
      exact ⟨state'.trans state, alert'.trans alert⟩
    · rw [State.fld, input', input, word, Sys2Proof.bitsOf]
      omega
    · rw [State.fld, input', input, word, Sys2Proof.bitsOf]
      omega
    · obtain ⟨thermal, least⟩ := shares n own
      have temp : (s.metered v p).terraceTemp n = s.terraceTemp n := by
        rw [State.terraceTemp, State.sensor, State.sensor, sensors]
        rfl
      have old : (s.metered v p).fld (rk .PW_SHARE 0 n) 9 9 = s.fld (rk .PW_SHARE 0 n) 9 9 := by rw [State.fld, share, ← State.fld]
      rw [temp, old] at thermal
      refine ⟨thermal, ?_⟩
      rw [cap', cut']
      exact least
  · intro logic stack hot
    have rest := warmedStacks_rest (s.read xs)
    have sensor {i : Nat} (inside : i < 120) : (s.read xs).warmedStacks.sensor i = xs.getD i 0 :=
      (of_rest (fun t => t.sensor i) rest).trans (read_sensor s xs (by omega))
    have same : (s.read xs).warmedStacks.tripPoint = none ↔ ¬ hot := by
      rw [tripPoint_none_iff]
      refine not_congr (exists_congr fun i => or_congr (and_congr_right fun low => ?_) (and_congr_right fun low => and_congr_right fun high => ?_))
      · rw [sensor (by omega)]
      · rw [sensor (by omega)]
    obtain ⟨jobs, rings, sensors, regs, trips, cools, marks⟩ := tripped?_shown (s.read xs).warmedStacks
    have tripped : (s.read xs).warmedStacks.tripped = s.tripped := (of_rest State.tripped rest :)
    have first : (s.read xs).warmedStacks.overSample = s.overSample := (of_rest State.overSample rest :)
    rw [tripped, first] at trips
    rw [tripped] at cools
    rw [first] at marks
    refine ⟨_, exec_sensorSample_good good xs, fun i inside => ?_, fun high => trips fun none => same.mp none high, fun low => cools (same.mpr low),
      fun high => marks fun none => same.mp none high, fun n own => ?_, jobs.trans (of_rest State.jobs rest :), rings.trans (of_rest State.rings rest :)⟩
    · rw [State.sensor, sensors]
      exact sensor inside
    · obtain ⟨u, kept, before, after⟩ := warmedStacks_status (s.read xs) own
      have bits := stackTemp_bits u n
      have temp : u.sensor (70 + n) = xs.getD (70 + n) 0 :=
        (of_rest (fun t => t.sensor (70 + n)) kept).trans (read_sensor s xs (by omega))
      have shown (i : Nat) : (s.read xs).warmedStacks.tripped?.bit (rk .DM_STATUS n) i = (u.stackTemp n).bit (rk .DM_STATUS n) i := by
        rw [State.bit, State.fld, regs _ (by simp [eventRegs, rk]), after, ← State.fld, ← State.bit]
      have was : u.bit (rk .DM_STATUS n) 2 = s.bit (rk .DM_STATUS n) 2 := by
        rw [State.bit, State.fld, before]
        rfl
      rw [temp, was] at bits
      rw [shown, shown]
      exact bits
end


section
/-! PROOFS. Descriptors carried between members (16_rill_and_cascades.md, R14, R16, R30). -/

namespace Sys2Proof.Machine

/-- The descriptor of another member's as it is taken up here. -/
def State.carriedJob (s : State) (m r q c : Nat) (bs : List Byte) : Job := Job.fresh s.nextJid r q c (some m) (Desc.ofBytes bs) (bs.take 128)

theorem exec_remoteDescriptor_taken {s : State} {m : Nat} (r q c : Nat) (bs : List Byte) (mate : s.inCascade m = true) (stays : s.leaving = false)
    (free : s.dispatchHeld = false) : exec (.remoteDescriptor m r q c bs) s =
    .next (s.takeUp (s.carriedJob m r q c bs) (s.remoteVerdict { Desc.ofBytes bs with target := carriedTo bs })) := by
  rw [exec_remoteDescriptor, execRemoteDescriptor, mate, stays, free]
  rfl

theorem bitOf_mark (f n i : Nat) : bitOf (f ||| 2 ^ n) i = (decide (i = n) || bitOf f i) := by
  rw [bitOf_eq_testBit, bitOf_eq_testBit, Nat.testBit_or, Nat.testBit_two_pow, Bool.or_comm, decide_eq_decide.mpr (eq_comm (a := n))]

theorem carriedTo_appended {bs : List Byte} (whole : bs.length = 128) {h : Nat} (small : h < 2 ^ 24) : carriedTo (bs ++ leBytes 3 h) = h := by
  have length : 131 ≤ (bs ++ leBytes 3 h).length := by rw [List.length_append, length_leBytes, whole]
  have field := fieldAt_piece bs [] (n := 3) h whole
  rw [List.append_nil, Nat.mod_eq_of_lt small] at field
  rw [carriedTo, if_pos length, field]

end Sys2Proof.Machine

open Sys2Proof.Machine in
/-- Settles O44: a descriptor of another member is taken up as one of the module's own; the record of one that ran elsewhere ends it. -/
theorem descriptorsCrossBetweenMembers : Obligations.DescriptorsCrossBetweenMembers := by
  refine ⟨fun m r q c bs s => ⟨fun off => ?_, fun u x mate stays free go => ?_, fun e mate stays free refused => ?_, fun d => rfl, fun whole => ?_,
    fun h small whole => carriedTo_appended whole small⟩, fun n j bs s found away => ?_⟩
  · have gate : (!s.inCascade m || s.leaving || s.dispatchHeld) = true := by
      obtain off | off | off := off <;> simp [off]
    rw [exec_remoteDescriptor, execRemoteDescriptor, if_pos gate]
  · obtain ⟨t, jobs, next⟩ := place1_jobs s (s.carriedJob m r q c bs) u x
    refine ⟨_, _, ?_, jobs, next, rfl, rfl, rfl, rfl, rfl, rfl, rfl, rfl⟩
    rw [exec_remoteDescriptor_taken r q c bs mate stays free, go]
    rfl
  · have jobs := endJob_jobs (s.addJob (s.carriedJob m r q c bs)) { s.carriedJob m r q c bs with claimed := [], reads := [] } e.1 e.2
    refine ⟨_, _, ?_, by rw [jobs]; exact List.mem_append_right _ (List.mem_singleton_self _), rfl, rfl, rfl, rfl, rfl⟩
    rw [exec_remoteDescriptor_taken r q c bs mate stays free, refused]
    rfl
  · rw [carriedTo, if_neg (by omega)]
  · have jobs := endJob_jobs s ({ j with block := bs, flags := fieldAt bs 2 2 }.mark flRemote true) (fieldAt bs 0 2) (fieldAt bs 20 4)
    refine ⟨_, _, ?_, jobs, rfl, rfl, rfl, rfl, rfl, rfl, fun i _ => bitOf_mark ..⟩
    rw [exec_remoteCompletion, execRemoteCompletion, State.whenJob, found]
    dsimp only
    rw [if_pos (decide_eq_true away)]
end


section
/-! PROOFS. Members of a cascade that join, agree and leave (16_rill_and_cascades.md, R406 to R410). -/

namespace Sys2Proof.Machine

/-! ### The word of a membership -/

/-- What stands above the state, the flags, the indices and the count in a membership's word. -/
def Casc.upper (c : Casc) : Nat := c.rank + 2 ^ 8 * treeDepthOf 4 c.rank + 2 ^ 10 * c.parent.getD 0

theorem word_eq (c : Casc) (st : Nat) : c.word st = st + 4 * flagNat (c.own = c.master) + 8 * flagNat c.distributor + 16 * flagNat c.treeOk +
    2 ^ 8 * c.own + 2 ^ 16 * c.master + 2 ^ 24 * c.n + 2 ^ 33 * c.upper := by
  unfold Casc.word Casc.upper
  omega

theorem flagNat_le (b : Bool) : flagNat b ≤ 1 := by cases b <;> decide

theorem word_state (c : Casc) {st : Nat} (small : st < 4) : c.word st % 4 = st := by
  rw [word_eq]
  omega

theorem word_tree (c : Casc) {st : Nat} (small : st < 4) : bitsOf (c.word st) 4 1 = flagNat c.treeOk := by
  have master := flagNat_le (c.own = c.master)
  have distributor := flagNat_le c.distributor
  have tree := flagNat_le c.treeOk
  rw [word_eq, bitsOf]
  omega

theorem bitOf_eq_bitsOf (x i : Nat) : bitOf x i = decide (bitsOf x i 1 = 1) := rfl

theorem word_treeOk (c : Casc) {st : Nat} (small : st < 4) : bitOf (c.word st) 4 = c.treeOk := by
  rw [bitOf_eq_bitsOf, word_tree c small]
  cases c.treeOk <;> rfl

theorem bitsOf_ofNat (x : Nat) {lo w : Nat} (low : lo + w ≤ 64) : bitsOf (BitVec.ofNat 64 x).toNat lo w = bitsOf x lo w := by
  apply Nat.eq_of_testBit_eq
  intro i
  rw [testBit_bitsOf, testBit_bitsOf, BitVec.toNat_ofNat, Nat.testBit_mod_two_pow]
  by_cases inside : i < w
  · rw [decide_eq_true (show lo + i < 64 by omega), Bool.true_and]
  · rw [decide_eq_false inside, Bool.false_and, Bool.false_and]

/-- The indices and the count in a membership's word. -/
theorem word_indices (c : Casc) {st : Nat} (small : st < 4) (own : c.own < 256) (master : c.master < 256) (n : c.n < 512) :
    bitsOf (c.word st) 8 8 = c.own ∧ bitsOf (c.word st) 16 8 = c.master ∧ bitsOf (c.word st) 24 9 = c.n := by
  have first := flagNat_le (c.own = c.master)
  have distributor := flagNat_le c.distributor
  have tree := flagNat_le c.treeOk
  rw [word_eq]
  generalize flagNat (decide (c.own = c.master)) = a at *
  generalize flagNat c.distributor = b at *
  generalize flagNat c.treeOk = d at *
  generalize c.upper = u
  unfold bitsOf
  refine ⟨?_, ?_, ?_⟩ <;> omega

/-! ### The state shown -/

theorem setCascade_shown (s : State) (w who : Nat) : (s.setCascade w who).rest = s.rest ∧
    (s.setCascade w who).reg (rk .LK_CASCADE) = BitVec.ofNat 64 w := by
  have shown : (s.show (rk .LK_CASCADE) w).reg (rk .LK_CASCADE) = BitVec.ofNat 64 w := (show_reg ..).trans (if_pos rfl)
  have rest : (s.show (rk .LK_CASCADE) w).rest = s.rest := (shows_show (ks := [.LK_CASCADE]) s (by decide) ..).rest
  unfold State.setCascade
  dsimp only
  split
  · exact ⟨rest, shown⟩
  · exact ⟨(rest_raise ..).trans rest, (State.raise_reg (by decide) ..).trans shown⟩

/-- The state that a membership goes to. -/
def State.cascNext (s : State) (c : Casc) : Nat :=
  if s.agreed c = true then 2 else if s.fld (rk .LK_CASCADE) 0 2 ≤ 1 ∧ s.unequal c = false then 1 else 3

theorem cascNext_lt (s : State) (c : Casc) : s.cascNext c < 4 := by
  unfold State.cascNext
  split
  · decide
  · split <;> decide

theorem showCascade_eq {s : State} {c : Casc} (member : s.casc = some c) (who : Nat) : s.showCascade who = s.setCascade (c.word (s.cascNext c)) who := by
  rw [State.showCascade, member]
  unfold State.cascNext
  simp only [Bool.and_eq_true, decide_eq_true_eq, Bool.not_eq_true']

/-- A membership's word set: its state and its tree as they stand. -/
theorem setCascade_word (s : State) (c : Casc) {st : Nat} (small : st < 4) (who : Nat) : s.setCascade (c.word st) who =
    if s.fld (rk .LK_CASCADE) 0 2 = st ∧ s.bit (rk .LK_CASCADE) 4 = c.treeOk then s.show (rk .LK_CASCADE) (c.word st)
    else (s.show (rk .LK_CASCADE) (c.word st)).raise 0x210 devHandle (payload [(24, 1, st), (25, 1, flagNat c.treeOk), (26, 1, who)]) := by
  have state : (s.reg (rk .LK_CASCADE)).toNat % 4 = s.fld (rk .LK_CASCADE) 0 2 := by
    rw [State.fld, bitsOf, Nat.pow_zero, Nat.div_one]
    rfl
  unfold State.setCascade
  dsimp only
  rw [word_state c small, word_treeOk c small, word_tree c small, state]
  rfl

/-! ### A join -/

theorem own_lt (s : State) (mb : Nat) : (s.cascArg mb).own < 256 ∧ (s.cascArg mb).master < 256 := ⟨pay_lt s mb 0 1, pay_lt s mb 1 1⟩

/-- A sound membership has as many members as its bit map names. -/
theorem count_of_sound {c : Casc} (sound : c.bad = none) : c.n < 512 := by
  unfold Casc.bad at sound
  split at sound
  · cases sound
  · split at sound
    · cases sound
    · split at sound
      · cases sound
      · next same =>
        have most := List.length_filter_le (bitOf c.bitmap ·) (List.range 256)
        rw [List.length_range] at most
        omega

theorem claimPps_shown (s : State) : s.claimPps.core = s.core ∧ s.claimPps.reg (rk .LK_CASCADE) = s.reg (rk .LK_CASCADE) := by
  unfold State.claimPps
  split
  · have held := settles_setHolder { s with ppsWait := false } resPps (h := 6) (by decide)
    exact ⟨held.core, (State.reg_setFld_other _ _ _ _ (by decide)).trans (held.reg _ (by decide))⟩
  · split
    · exact ⟨rfl, rfl⟩
    · exact ⟨rfl, rfl⟩

theorem shows_showPeers (s : State) : Shows [.LK_PORT_STATUS] s s.showPeers :=
  Shows.foldl _ _ s fun t p => (shows_setFld t (by decide) ..).trans (shows_setFld _ (by decide) ..)

/-- A sweep that sends messages alone. -/
theorem rest_sends {α : Type} (f : State → α → State) (l : List α) (s : State) {k : RegKey}
    (step : ∀ t x, (f t x).rest = t.rest ∧ (f t x).reg k = t.reg k) : (l.foldl f s).rest = s.rest ∧ (l.foldl f s).reg k = s.reg k :=
  List.foldlRecOn (motive := fun t : State => t.rest = s.rest ∧ t.reg k = s.reg k) l f ⟨rfl, rfl⟩ fun t same x _ => by
    obtain ⟨rest, reg⟩ := same
    obtain ⟨rest', reg'⟩ := step t x
    exact ⟨rest'.trans rest, reg'.trans reg⟩

theorem exchangeOn_sent (s : State) (p : Nat) : (s.exchangeOn p).rest = s.rest ∧ (s.exchangeOn p).reg (rk .LK_CASCADE) = s.reg (rk .LK_CASCADE) := by
  unfold State.exchangeOn
  split
  · split
    · exact ⟨rest_sendLink .., State.sendLink_reg (by decide) ..⟩
    · exact ⟨rfl, rfl⟩
  · exact ⟨rfl, rfl⟩

/-- A member whose neighbours have all not joined stays JOINING. -/
theorem cascNext_alone {s : State} {c : Casc} (alone : s.neigh = []) (near : c.near ≠ []) (joining : s.fld (rk .LK_CASCADE) 0 2 = 1) :
    s.cascNext c = 1 := by
  have unheard (i : Nat) : Tab.find? s.neigh i = none := by rw [alone]; rfl
  have agreed : s.agreed c = false := by
    obtain ⟨i, rest, eq⟩ := List.exists_cons_of_ne_nil near
    simp [State.agreed, eq, unheard]
  have unequal : s.unequal c = false := by simp [State.unequal, unheard]
  rw [State.cascNext, agreed, unequal, joining]
  rfl

/-- The member that has joined, before it asks for PPS_OUT. -/
def State.joined (s : State) (c : Casc) : State :=
  ((List.range 16).foldl State.exchangeOn ((({ s with casc := some c, leaving := false } : State).showPeers).setCascade (c.word 1) 0)).showCascade 0

theorem joined_shown (s : State) {c : Casc} (alone : s.neigh = []) (near : c.near ≠ []) :
    (s.joined c).rest = ({ s with casc := some c, leaving := false } : State).rest ∧
    (s.joined c).reg (rk .LK_CASCADE) = BitVec.ofNat 64 (c.word 1) := by
  unfold State.joined
  obtain ⟨rest, word⟩ := setCascade_shown ({ s with casc := some c, leaving := false } : State).showPeers (c.word 1) 0
  have peers := (shows_showPeers { s with casc := some c, leaving := false }).rest
  generalize (({ s with casc := some c, leaving := false } : State).showPeers).setCascade (c.word 1) 0 = t at rest word
  obtain ⟨rest', word'⟩ := rest_sends State.exchangeOn (List.range 16) t (k := rk .LK_CASCADE) exchangeOn_sent
  generalize (List.range 16).foldl State.exchangeOn t = u at rest' word'
  have same : u.rest = ({ s with casc := some c, leaving := false } : State).rest := rest'.trans (rest.trans peers)
  have member : u.casc = some c := of_rest State.casc same
  have neigh : u.neigh = [] := (of_rest State.neigh same).trans alone
  have next : u.cascNext c = 1 := cascNext_alone neigh near (by
    rw [State.fld, word', word, bitsOf_ofNat _ (by decide), bitsOf, Nat.pow_zero, Nat.div_one]
    exact word_state c (st := 1) (by decide))
  rw [showCascade_eq member, next]
  obtain ⟨rest'', word''⟩ := setCascade_shown u (c.word 1) 0
  exact ⟨rest''.trans same, word''⟩

section
variable {s : State} {mb : Nat}

theorem exec_cascadeJoin_due (due : MailboxDue s (.cascadeJoin mb)) : exec (.cascadeJoin mb) s = .next (Ended.answered
    (match (s.cascArg mb).bad with
    | some o => s.fails msLimit o
    | none =>
      if s.casc.isSome then s.fails msBusy 0
      else (if (s.cascArg mb).distributor then (s.joined (s.cascArg mb)).claimPps else s.joined (s.cascArg mb)).ends) mb) :=
  (exec_due rfl due).trans rfl

theorem exec_cascadeLeave_due (due : MailboxDue s (.cascadeLeave mb)) : exec (.cascadeLeave mb) s = .next (Ended.answered
    (if s.casc.isNone then s.fails msNotFound 0
    else if s.leaving then s.fails msBusy 0
    else State.starts { s with leaving := true } mb .cascadeLeave) mb) := (exec_due rfl due).trans rfl

end

/-! ### The member that has left -/

theorem showCascade_none {s : State} (alone : s.casc = none) (who : Nat) : s.showCascade who = s.setCascade 0 who := by
  rw [State.showCascade, alone]

/-- The member once its neighbours are told, before PPS_OUT is given up. -/
def State.parted (s : State) (c : Casc) : State :=
  let t := (c.ports.filterMap id).eraseDups.foldl (fun s i => s.sendLink (.leave i)) s
  ({ t with casc := none, leaving := false, ppsWait := false } : State).showPeers.showCascade 0

theorem parted_shown (s : State) (c : Casc) : (s.parted c).rest = ({ s with casc := none, leaving := false, ppsWait := false } : State).rest ∧
    (s.parted c).fld (rk .LK_CASCADE) 0 2 = 0 := by
  unfold State.parted
  extract_lets t
  have sent : t.rest = s.rest := (rest_sends (k := rk .LK_CASCADE) _ _ s fun u i => ⟨rest_sendLink .., State.sendLink_reg (by decide) ..⟩).1
  have peers := shows_showPeers { t with casc := none, leaving := false, ppsWait := false }
  have alone : ({ t with casc := none, leaving := false, ppsWait := false } : State).showPeers.casc = none := peers.field State.casc
  obtain ⟨rest, word⟩ := setCascade_shown ({ t with casc := none, leaving := false, ppsWait := false } : State).showPeers 0 0
  rw [showCascade_none alone]
  refine ⟨rest.trans (peers.rest.trans ?_), ?_⟩
  · exact congrArg (fun u : State => ({ u with casc := none, leaving := false, ppsWait := false } : State)) sent
  · rw [State.fld, word]
    rfl

theorem left_shown {s : State} {c : Casc} (member : s.casc = some c) : s.left.casc = none ∧ s.left.leaving = false ∧
    s.left.fld (rk .LK_CASCADE) 0 2 = 0 ∧ s.left.holder 1 ≠ 6 ∧ s.left.ppsWait = false := by
  obtain ⟨rest, state⟩ := parted_shown s c
  have left : s.left = if (s.parted c).holder resPps = 6 then ((s.parted c).freeHolder resPps).showPps else s.parted c := by
    rw [State.left, member]
    rfl
  rw [left]
  have casc : (s.parted c).casc = none := (of_rest State.casc rest :)
  have leaving : (s.parted c).leaving = false := (of_rest State.leaving rest :)
  have wait : (s.parted c).ppsWait = false := (of_rest State.ppsWait rest :)
  generalize s.parted c = t at *
  split
  · have waits : (t.setHolder resPps 0).ppsWait = false := wait
    have freed : t.freeHolder resPps = t.setHolder resPps 0 := by
      rw [State.freeHolder, waits]
      exact if_neg fun ⟨_, now⟩ => by cases now
    have held := settles_setHolder t resPps (h := 0) (by decide)
    have holder : (t.setHolder resPps 0).holder 1 = 0 := (getD_holders t.holders resPps 0 1).trans (if_pos rfl)
    have shown : (t.setHolder resPps 0).showPps.reg (rk .LK_CASCADE) = t.reg (rk .LK_CASCADE) :=
      (State.reg_setFld_other _ _ _ _ (by decide)).trans (held.reg _ (by decide))
    rw [freed]
    refine ⟨(held.field State.casc).trans casc, (held.field State.leaving).trans leaving, ?_, ?_, waits⟩
    · rw [State.fld, shown]
      exact state
    · exact ne_of_eq_of_ne holder (by decide)
  · next other => exact ⟨casc, leaving, state, other, wait⟩

end Sys2Proof.Machine

open Sys2Proof.Machine in
/-- Settles O42: a join and a leave by what they show, a neighbour's values by the membership's next state. -/
theorem membersJoinAgreeAndLeave : Obligations.MembersJoinAgreeAndLeave := by
  refine ⟨fun mb s => ?_, fun p i m n b s => ⟨fun down => ?_, fun up some => ?_, fun up => ?_⟩, fun s c who member => ?_⟩
  · intro c
    refine ⟨fun due => ⟨fun o bad => ?_, fun sound member => ?_, fun sound alone unheard near => ?_⟩, fun due => ⟨fun alone => ?_, fun member stays => ?_⟩,
      fun d only small member => ⟨fun carried => ?_, fun none => ?_⟩⟩
    · have bad : (s.cascArg mb).bad = some o := bad
      rw [exec_cascadeJoin_due due, bad]
      rfl
    · have sound : (s.cascArg mb).bad = none := sound
      rw [exec_cascadeJoin_due due, sound]
      dsimp only
      rw [if_pos member]
      rfl
    · obtain ⟨rest, word⟩ := joined_shown s (c := c) unheard near
      obtain ⟨own, master⟩ := own_lt s mb
      obtain ⟨owns, masters, counts⟩ := word_indices c (st := 1) (by decide) own master (count_of_sound sound)
      have ran : exec (.cascadeJoin mb) s = answersOk mb (if c.distributor then (s.joined c).claimPps else s.joined c) [] := by
        have sound : (s.cascArg mb).bad = none := sound
        rw [exec_cascadeJoin_due due, sound, alone]
        rfl
      obtain ⟨core, word'⟩ : (if c.distributor then (s.joined c).claimPps else s.joined c).core = (s.joined c).core ∧
          (if c.distributor then (s.joined c).claimPps else s.joined c).reg (rk .LK_CASCADE) = (s.joined c).reg (rk .LK_CASCADE) := by
        split
        · exact claimPps_shown _
        · exact ⟨rfl, rfl⟩
      have fields {lo w : Nat} (low : lo + w ≤ 64) : (if c.distributor then (s.joined c).claimPps else s.joined c).fld (rk .LK_CASCADE) lo w =
          Sys2Proof.bitsOf (c.word 1) lo w := by rw [State.fld, word', word, bitsOf_ofNat _ low]
      refine ⟨_, ran, ?_⟩
      have keep {α : Type} (f : State → α) (hf : ∀ x : State, f x.core = f x) (hr : ∀ x : State, f x.rest = f x) :
          f (if c.distributor then (s.joined c).claimPps else s.joined c) = f { s with casc := some c, leaving := false } := by
        rw [← hf, core, hf, ← hr, rest, hr]
      rw [fields (by decide), fields (by decide), fields (by decide), fields (by decide), owns, masters, counts]
      refine ⟨keep State.casc (fun _ => rfl) (fun _ => rfl), keep State.leaving (fun _ => rfl) (fun _ => rfl), ?_, rfl, rfl, rfl,
        keep State.jobs (fun _ => rfl) (fun _ => rfl), keep State.rings (fun _ => rfl) (fun _ => rfl)⟩
      rw [Sys2Proof.bitsOf, Nat.pow_zero, Nat.div_one]
      exact word_state c (by decide)
    · rw [exec_cascadeLeave_due due, alone]
      rfl
    · have joined : ¬ s.casc.isNone = true := by
        rw [← Option.not_isSome, member]
        decide
      rw [exec_cascadeLeave_due due, if_neg joined, stays]
      rfl
    · obtain ⟨j, mem, either⟩ := carried
      have due : s.runDue .cascadeLeave = false := by
        have some : s.jobs.any (fun j => j.origin.isSome || j.member.isSome) = true := List.any_eq_true.mpr ⟨j, mem, by simpa using either⟩
        exact congrArg not some
      rw [exec_mailboxCompletion_one only small, due]
      rfl
    · have due : s.runDue .cascadeLeave = true := by
        have clear : s.jobs.any (fun j => j.origin.isSome || j.member.isSome) = false := List.any_eq_false.mpr fun j mem => by
          obtain ⟨origin, member⟩ := none j mem
          rw [origin, member]
          decide
        exact congrArg not clear
      rw [exec_mailboxCompletion_one only small, due]
      exact ⟨_, rfl, left_shown (s := { s with mbRun := [] }) member⟩
  · rw [exec_cascadeExchange, execCascadeExchange, down]
    rfl
  · rw [exec_cascadeExchange, execCascadeExchange, up, if_neg (by decide), if_neg (by omega)]
  · rw [exec_cascadeExchange, execCascadeExchange, up]
    rfl
  · intro old st
    have next : st = s.cascNext c := rfl
    rw [next]
    have small := cascNext_lt s c
    obtain ⟨_, word⟩ := setCascade_shown s (c.word (s.cascNext c)) who
    rw [showCascade_eq member]
    refine ⟨?_, fun state tree => ?_, fun other => ?_⟩
    · rw [State.fld, word, bitsOf_ofNat _ (by decide), Sys2Proof.bitsOf, Nat.pow_zero, Nat.div_one]
      exact word_state c small
    · rw [setCascade_word s c small, if_pos ⟨state, tree⟩]
    · rw [setCascade_word s c small, if_neg fun ⟨state, tree⟩ => other.elim (· state) (· tree)]
end


section
/-! PROOFS. Operations of a cascade (16_rill_and_cascades.md, R413 to R417). -/

namespace Sys2Proof.Machine

/-! ### Registers that a write cannot change -/

section
variable {k : RegKey} (unread : k.name ∉ readRegs ++ eventRegs)
include unread

theorem State.wordWritten_unread (s : State) (q x n : Nat) : (s.wordWritten q x n).reg k = s.reg k := by
  unfold State.wordWritten
  dsimp only
  split
  · exact State.wholeWord_reg (unmarked_of_unread unread) ..
  · split
    · rfl
    · split
      · exact (State.poolCorrected_unread unread ..).trans rfl
      · rfl

theorem State.poolStore_unread (s : State) (q x : Nat) (bs : List Byte) : (s.poolStore q x bs).reg k = s.reg k :=
  (State.reg_foldl _ k _ _ fun t p _ => State.wordWritten_unread unread t q p.1 p.2).trans rfl

theorem State.raising_unread (r : State × Option Ev) : (State.raising r).reg k = r.1.reg k := by
  unfold State.raising
  split
  · exact State.raise_unread unread ..
  · rfl

theorem State.poolRequest_unread (s : State) (q x cls writer : Nat) (bs : List Byte) : (s.poolRequest q x cls writer bs).reg k = s.reg k := by
  unfold State.poolRequest
  dsimp only
  split
  · exact State.poolStore_unread unread ..
  · exact (State.raising_unread unread _).trans (State.dropLatch_reg (unmarked_of_unread unread) ..)

theorem State.poolWrite_unread (s : State) (w : Who) (q x : Nat) (bs : List Byte) : (s.poolWrite w q x bs).reg k = s.reg k := by
  unfold State.poolWrite
  split
  · exact State.poolStore_unread unread ..
  · exact State.reg_foldl _ k _ _ fun t p _ => State.poolRequest_unread unread ..

theorem State.dramStore_unread (s : State) (st a : Nat) (bs : List Byte) : (s.dramStore st a bs).reg k = s.reg k := by
  have stored := State.stackStore_reg (unmarked_of_unread unread) s st a bs
  unfold State.dramStore
  dsimp only
  split
  · exact stored
  · split
    · exact stored
    · split
      · exact (State.dramCorrected_unread unread ..).trans stored
      · exact stored

theorem State.writePiece_unread (s : State) (w : Who) (a : Nat) (bs : List Byte) : (s.writePiece w a bs).reg k = s.reg k := by
  have unmarked := unmarked_of_unread unread
  unfold State.writePiece
  split
  · exact State.unmapped_unread unread ..
  · exact State.poolWrite_unread unread ..
  · exact (State.dramStore_unread unread ..).trans rfl
  · exact (State.send_reg unmarked ..).trans rfl
  · exact State.sendLink_reg unmarked ..
  · split
    · exact (State.sendLink_reg unmarked ..).trans rfl
    · rfl
  · rfl

theorem State.writeDev_unread (s : State) (w : Who) (a : Nat) (bs : List Byte) : (s.writeDev w a bs).reg k = s.reg k :=
  State.reg_foldl _ k _ _ fun t _ _ => State.writePiece_unread unread t ..

end

/-! ### Step closes that end -/

/-- What the ends of step closes leave: all but the monitor and the registers of Weir. -/
structure Closes (s t : State) : Prop where
  reg : ∀ k : RegKey, k.name ∉ [RegName.WR_SLOT_SCALE, .WR_STATUS] → t.reg k = s.reg k
  eq : t = { s with regs := t.regs, mon := t.mon, weirQ := t.weirQ }

theorem Closes.refl (s : State) : Closes s s := ⟨fun _ _ => rfl, rfl⟩

theorem Closes.trans {s t u : State} (st : Closes s t) (tu : Closes t u) : Closes s u where
  reg k out := (tu.reg k out).trans (st.reg k out)
  eq := by rw [tu.eq, st.eq]

theorem Shows.closes {s t : State} (same : Shows [.WR_SLOT_SCALE, .WR_STATUS] s t) : Closes s t := ⟨same.reg, same.eq.trans (by rw [same.eq])⟩

theorem Closes.foldl {α : Type} (f : State → α → State) (l : List α) (s : State) (step : ∀ s x, Closes s (f s x)) : Closes s (l.foldl f s) :=
  List.foldlRecOn l f (Closes.refl s) fun t same x _ => same.trans (step t x)

theorem closes_closeSlot (s : State) (n amax : Nat) (sat : Bool) : Closes s (s.closeSlot n amax sat) := by
  have hist : Closes s (s.closeHist n amax sat) := by
    have mon : Closes s (s.putMon n { s.slotMon n with hist := s.histClosed n amax sat }) := ⟨fun _ _ => rfl, rfl⟩
    exact mon.trans (shows_setFld _ (by decide) ..).closes
  rw [State.closeSlot_eq]
  split
  · exact hist.trans (shows_setFld _ (by decide) ..).closes
  · exact hist

theorem closes_endClose (s : State) : Closes s s.endClose := by
  unfold State.endClose
  split
  · exact .refl s
  · next c r _ =>
    extract_lets a b
    have ha : Closes s a := Closes.foldl _ _ s fun t x => closes_closeSlot t ..
    have hb : Closes a b := Closes.foldl _ _ a fun t x => (shows_setFld t (by decide) ..).closes
    have taken : Closes b { b with weirQ := r } := ⟨fun _ _ => rfl, rfl⟩
    exact ((ha.trans hb).trans taken).trans ((shows_setFld _ (by decide) ..).trans (shows_setFld _ (by decide) ..)).closes

theorem closes_endCloses (s : State) (first count n : Nat) : Closes s (s.endCloses first count n) := by
  induction n generalizing s with
  | zero => exact .refl s
  | succ n ih =>
    unfold State.endCloses
    split
    · exact (closes_endClose s).trans (ih _)
    · exact .refl s

/-! ### A snapshot -/

/-- The records of a snapshot's slots are taken once their closes have ended; none of its settings changes by it. -/
theorem takeSnapshot_eq (s : State) : s.takeSnapshot = s.snapped := by
  unfold State.takeSnapshot State.snapped
  extract_lets k first count c bs m t
  have closed := closes_endCloses s first count 17
  have settings {n : RegKey} (out : n.name ∉ [RegName.WR_SLOT_SCALE, .WR_STATUS]) (unread : n.name ∉ readRegs ++ eventRegs) :
      c.reg n = s.reg n ∧ m.reg n = s.reg n ∧ t.reg n = s.reg n := by
    have hc : c.reg n = s.reg n := closed.reg n out
    have hm : m.reg n = c.reg n := by
      unfold m
      split <;> rfl
    have ht : t.reg n = m.reg n := by
      unfold t
      split
      · rfl
      · exact State.writeDev_unread unread ..
    exact ⟨hc, hm.trans hc, ht.trans (hm.trans hc)⟩
  obtain ⟨clear, -, -⟩ := settings (n := rk .LK_SNAP_CFG) (by decide) (by decide)
  obtain ⟨-, place, -⟩ := settings (n := rk .LK_SNAP_DST) (by decide) (by decide)
  obtain ⟨-, -, now⟩ := settings (n := rk .TM_NOW) (by decide) (by decide)
  have hm : m = if s.bit (rk .LK_SNAP_CFG) 25 = true then c.monClear first count else c := by
    unfold m
    rw [State.bit, State.fld, clear]
    rfl
  have ht : t = if count = 0 then m else m.writeDev zenithWho (s.fld (rk .LK_SNAP_DST) 0 56) bs := by
    unfold t
    rw [State.fld, place]
    rfl
  have time : BitVec.ofNat 64 t.now = s.reg (rk .TM_NOW) := by rw [State.now, BitVec.ofNat_toNat, BitVec.setWidth_eq, now]
  have whole : t.setReg (rk .LK_SNAP_TIME) (BitVec.ofNat 64 t.now) =
      (if count = 0 then (if s.bit (rk .LK_SNAP_CFG) 25 = true then c.monClear first count else c)
        else (if s.bit (rk .LK_SNAP_CFG) 25 = true then c.monClear first count else c).writeDev zenithWho (s.fld (rk .LK_SNAP_DST) 0 56)
          bs).setReg (rk .LK_SNAP_TIME) (s.reg (rk .TM_NOW)) := by rw [time, ht, hm]
  exact congrArg (fun u : State => ({ u with holdPost := true } : State)) whole

/-- What a snapshot leaves of what an operation works with. -/
theorem snapped_shown (s : State) : s.snapped.gop = s.gop ∧ s.snapped.casc = s.casc ∧ s.snapped.powerGood = s.powerGood ∧
    s.snapped.reg (rk .LK_SNAP_TIME) = s.reg (rk .TM_NOW) ∧ s.snapped.reg gopReg = s.reg gopReg := by
  unfold State.snapped
  extract_lets first count c m t
  have closed : Closes s c := closes_endCloses s first count 17
  have hm : Closes s m := by
    unfold m
    split
    · exact closed.trans ⟨fun _ _ => rfl, rfl⟩
    · exact closed
  have ht : t.rest = m.rest ∧ t.reg gopReg = m.reg gopReg := by
    unfold t
    split
    · exact ⟨rfl, rfl⟩
    · exact ⟨rest_writeDev .., State.writeDev_unread (by decide) ..⟩
  obtain ⟨rest, reg⟩ := ht
  refine ⟨?_, ?_, ?_, State.reg_setReg_same .., (State.reg_setReg_other _ _ (by decide)).trans (reg.trans (hm.reg _ (by decide)))⟩
  · exact (of_rest State.gop rest).trans (by rw [hm.eq])
  · exact (of_rest State.casc rest).trans (by rw [hm.eq])
  · exact (of_rest State.powerGood rest).trans (by rw [hm.eq])

/-! ### Messages to children -/

theorem rest_toKids (s : State) (msg : Nat → LinkMsg) : (s.toKids msg).rest = s.rest := rest_foldl _ _ _ fun t i => rest_sendLink t (msg i) 0

theorem toKids_reg (s : State) (msg : Nat → LinkMsg) {k : RegKey} (out : k.name ∉ eventRegs) : (s.toKids msg).reg k = s.reg k :=
  State.reg_foldl _ k _ _ fun t i _ => State.sendLink_reg out t (msg i) 0

theorem toKids_childless {s : State} (none : s.kids = []) (msg : Nat → LinkMsg) : s.toKids msg = s := by rw [State.toKids, none, List.foldl_nil]

/-- A message goes out whatever operation is under way. -/
theorem sendLink_gop (s : State) (g : Option Gop) (m : LinkMsg) (op : Nat) :
    ({ s with gop := g } : State).sendLink m op = { s.sendLink m op with gop := g } := by
  have cls : ({ s with gop := g } : State).linkClass op m = s.linkClass op m := by cases m <;> rfl
  have port : ({ s with gop := g } : State).portOf (s.linkClass op m) m = s.portOf (s.linkClass op m) m := by
    have route : ({ s with gop := g } : State).linkPort m = s.linkPort m := by cases m <;> rfl
    unfold State.portOf
    rw [route]
    rfl
  unfold State.sendLink State.sendAs
  rw [cls, port]
  split
  · rfl
  · dsimp only
    have same (p : Nat) : ({ s with gop := g } : State).rill p = s.rill p := rfl
    rw [same]
    split <;> rfl

/-! ### An operation's own part and its end -/

theorem kids_of_casc {s t : State} (same : t.casc = s.casc) : t.kids = s.kids := by rw [State.kids, State.kids, same]

theorem isMaster_of_casc {s t : State} (same : t.casc = s.casc) : t.isMaster = s.isMaster := by rw [State.isMaster, State.isMaster, same]

/-- The member's own part of an operation that it has begun. -/
theorem gopOwn_begun {s : State} {op : Nat} (begun : s.gop = some ⟨op, s.kids, 1, false, false, false⟩) : s.gopOwn = (s.ownPart op).gopCheck := by
  rw [State.gopOwn, begun]
  rfl

theorem gopBegin_shown (s : State) {op : Nat} (small : op < 8) : (s.gopBegin op).bit gopReg 0 = true ∧ (s.gopBegin op).fld gopReg 2 2 = 0 ∧
    (s.gopBegin op).fld gopReg 4 3 = op ∧ (s.gopBegin op).gop = some ⟨op, s.kids, 1, false, false, false⟩ ∧
    s.gopBegin op = { s with regs := (s.gopBegin op).regs, gop := (s.gopBegin op).gop } := by
  refine ⟨?_, ?_, ?_, rfl, rfl⟩
  · refine (bit_setFld_apart _ _ 4 3 _ 0 (by decide) (by decide)).trans ((bit_setFld_apart _ _ 2 2 _ 0 (by decide) (by decide)).trans ?_)
    exact bit_setFld_same _ _ 0 true (by decide)
  · exact (State.fld_setFld_apart _ _ 4 3 _ 2 2 (by decide) (by decide)).trans (State.fld_setFld_same _ _ 2 2 _ (by decide))
  · exact (State.fld_setFld_same _ _ 4 3 _ (by decide)).trans (Nat.mod_eq_of_lt small)

/-- Beginning an operation leaves the sequence and the answers shown. -/
theorem gopBegin_fld (s : State) (op : Nat) {lo w : Nat} (high : 7 ≤ lo) : (s.gopBegin op).fld gopReg lo w = s.fld gopReg lo w :=
  (State.fld_setFld_apart _ _ 4 3 _ _ _ (by decide) (by omega)).trans ((State.fld_setFld_apart _ _ 2 2 _ _ _ (by decide) (by omega)).trans
    (State.fld_setFld_apart _ _ 0 1 _ _ _ (by decide) (by omega)))

/-- The next sequence number, with no answer counted yet. -/
def State.gopNext (s : State) : State := ((s.setFld gopReg 16 16 (s.fld gopReg 16 16 + 1)).setFld gopReg 2 2 0).setFld gopReg 7 9 0

theorem gopStart_eq (s : State) (op : Nat) : s.gopStart op = s.gopNext.gopBegin op := rfl

theorem gopNext_shown (s : State) : s.gopNext.fld gopReg 16 16 = (s.fld gopReg 16 16 + 1) % 2 ^ 16 ∧ s.gopNext.fld gopReg 7 9 = 0 := by
  refine ⟨?_, State.fld_setFld_same _ _ 7 9 _ (by decide)⟩
  exact (State.fld_setFld_apart _ _ 7 9 _ 16 16 (by decide) (by decide)).trans ((State.fld_setFld_apart _ _ 2 2 _ 16 16 (by decide) (by decide)).trans
    (State.fld_setFld_same _ _ 16 16 _ (by decide)))

theorem gopStart_shown (s : State) {op : Nat} (small : op < 8) : (s.gopStart op).gop = some ⟨op, s.kids, 1, false, false, false⟩ ∧
    (s.gopStart op).fld gopReg 16 16 = (s.fld gopReg 16 16 + 1) % 2 ^ 16 ∧ (s.gopStart op).fld gopReg 7 9 = 0 ∧ (s.gopStart op).bit gopReg 0 = true ∧
    s.gopStart op = { s with regs := (s.gopStart op).regs, gop := (s.gopStart op).gop } := by
  obtain ⟨seq, answers⟩ := gopNext_shown s
  obtain ⟨busy, -, -, gop, eq⟩ := gopBegin_shown s.gopNext small
  have kids : s.gopNext.kids = s.kids := kids_of_casc rfl
  have next : s.gopNext = { s with regs := s.gopNext.regs } := rfl
  rw [gopStart_eq, gopBegin_fld _ _ (by decide), gopBegin_fld _ _ (by decide)]
  refine ⟨gop.trans (by rw [kids]), seq, answers, busy, eq.trans ?_⟩
  generalize (s.gopNext.gopBegin op).regs = r, (s.gopNext.gopBegin op).gop = g
  rw [next]

theorem gopStart_reg (s : State) (op : Nat) {k : RegKey} (other : k ≠ gopReg) : (s.gopStart op).reg k = s.reg k := by
  have start : s.gopNext.reg k = s.reg k :=
    (State.reg_setFld_other _ _ _ _ other).trans ((State.reg_setFld_other _ _ _ _ other).trans (State.reg_setFld_other _ _ _ _ other))
  exact (State.reg_setFld_other _ _ _ _ other).trans ((State.reg_setFld_other _ _ _ _ other).trans
    ((State.reg_setFld_other _ _ _ _ other).trans start))

theorem gopBegin_reg (s : State) (op : Nat) {k : RegKey} (other : k ≠ gopReg) : (s.gopBegin op).reg k = s.reg k :=
  (State.reg_setFld_other _ _ _ _ other).trans ((State.reg_setFld_other _ _ _ _ other).trans (State.reg_setFld_other _ _ _ _ other))

/-! ### What an operation waits for -/

section
variable {s : State} {g : Gop}

theorem gopCheck_waits (under : s.gop = some g) (early : g.waiting ≠ [] ∨ g.received = false) : s.gopCheck = s := by
  have gate : (!g.received || !g.waiting.isEmpty) = true := by
    obtain early | early := early <;> simp [early]
  rw [State.gopCheck, under]
  exact if_pos gate

theorem gopCheck_through (under : s.gop = some g) (clear : g.waiting = []) (own : g.received = true) : s.gopCheck =
    if s.isMaster then
      let e := s.gopEnd g.op (if g.missing then 1 else 0) g.answered
      if g.op = 2 then e.release else e
    else
      let a := match s.casc.bind Casc.parent with
        | some p => s.sendLink (.answer p g.answered g.missing)
        | none => s
      if g.op = 2 then { a with gop := some { g with received := false } }
      else
        let d := { a.setFld gopReg 0 1 0 with gop := none }
        if g.op = 3 then d.setFld gopReg 1 1 1 else d := by
  have gate : ¬ (!g.received || !g.waiting.isEmpty) = true := by simp [clear, own]
  rw [State.gopCheck, under]
  exact if_neg gate

theorem gopCheck_master (under : s.gop = some g) (clear : g.waiting = []) (own : g.received = true) (master : s.isMaster = true) :
    s.gopCheck = if g.op = 2 then (s.gopEnd g.op (flagNat g.missing) g.answered).release else s.gopEnd g.op (flagNat g.missing) g.answered := by
  rw [gopCheck_through under clear own, if_pos master]
  rfl

theorem gopCheck_below {c : Casc} {p : Nat} (under : s.gop = some g) (clear : g.waiting = []) (own : g.received = true) (below : s.isMaster = false)
    (member : s.casc = some c) (parent : c.parent = some p) : s.gopCheck =
    if g.op = 2 then { s.sendLink (.answer p g.answered g.missing) with gop := some { g with received := false } }
    else if g.op = 3 then State.setFld { (s.sendLink (.answer p g.answered g.missing)).setFld gopReg 0 1 0 with gop := none } gopReg 1 1 1
    else { (s.sendLink (.answer p g.answered g.missing)).setFld gopReg 0 1 0 with gop := none } := by
  have up : s.casc.bind Casc.parent = some p := by rw [member]; exact parent
  rw [gopCheck_through under clear own, if_neg (by rw [below]; decide), up]

end

/-- An operation's end is the same whatever it was. -/
theorem gopEnd_gop (s : State) (g : Option Gop) (op result answered : Nat) : ({ s with gop := g } : State).gopEnd op result answered =
    s.gopEnd op result answered := rfl

/-! ### Writes that start an operation -/

section
variable {s : State} {v : BitVec 32} {op : Nat} {ok : Bool} {run : State → State}

theorem gopWrite_off (off : s.bit gopReg 0 = true ∨ s.powerGood = false) : s.gopWrite v op ok run = s := by
  have gate : (decide (bitsOf v.toNat 0 3 ≠ op) || !s.powerGood || s.bit gopReg 0) = true := by
    obtain off | off := off <;> simp [off]
  exact if_pos gate

theorem gopWrite_refused (named : bitsOf v.toNat 0 3 = op) (idle : s.bit gopReg 0 = false) (good : s.powerGood = true)
    (bad : s.isMaster = false ∨ ok = false) : s.gopWrite v op ok run = ((s.setFld gopReg 1 1 1).setFld gopReg 2 2 2).setFld gopReg 4 3 op := by
  have gate : ¬ (decide (bitsOf v.toNat 0 3 ≠ op) || !s.powerGood || s.bit gopReg 0) = true := by simp [named, idle, good]
  have refused : (!s.isMaster || !ok) = true := by
    obtain bad | bad := bad <;> simp [bad]
  rw [State.gopWrite, if_neg gate, if_pos refused]

theorem gopWrite_runs (named : bitsOf v.toNat 0 3 = op) (free : s.gopFree) (sound : ok = true) : s.gopWrite v op ok run = run s := by
  obtain ⟨master, idle, good⟩ := free
  have gate : ¬ (decide (bitsOf v.toNat 0 3 ≠ op) || !s.powerGood || s.bit gopReg 0) = true := by simp [named, idle, good]
  have taken : ¬ (!s.isMaster || !ok) = true := by simp [master, sound]
  rw [State.gopWrite, if_neg gate, if_neg taken]

end

theorem gopFree_of_alone {s : State} (alone : s.gopAlone) : s.gopFree ∧ s.kids = [] := by
  obtain ⟨none, idle, good⟩ := alone
  refine ⟨⟨?_, idle, good⟩, ?_⟩
  · rw [State.isMaster, none]
  · rw [State.kids, none]

/-! ### A member's own part -/

/-- The member `s` has begun an operation, and its own part is under way. -/
def Begun (s t : State) (op : Nat) : Prop := t.gop = some ⟨op, s.kids, 1, false, false, false⟩ ∧ t.casc = s.casc

theorem Begun.of_rest {s t u : State} {op : Nat} (begun : Begun s t op) (same : u.rest = t.rest) : Begun s u op := by
  obtain ⟨gop, casc⟩ := begun
  exact ⟨(Machine.of_rest State.gop same).trans gop, (Machine.of_rest State.casc same).trans casc⟩

theorem begun_gopStart (s : State) {op : Nat} (small : op < 8) : Begun s (s.gopStart op) op := by
  obtain ⟨gop, -, -, -, eq⟩ := gopStart_shown s small
  exact ⟨gop, by rw [eq]⟩

theorem begun_gopBegin (s : State) {op : Nat} (small : op < 8) : Begun s (s.gopBegin op) op := by
  obtain ⟨-, -, -, gop, eq⟩ := gopBegin_shown s small
  exact ⟨gop, by rw [eq]⟩

theorem Begun.snapped {s t : State} {op : Nat} (begun : Begun s t op) : Begun s t.snapped op := by
  obtain ⟨gop, casc⟩ := begun
  obtain ⟨gop', casc', -⟩ := snapped_shown t
  exact ⟨gop'.trans gop, casc'.trans casc⟩

theorem Begun.gopOwn {s t : State} {op : Nat} (begun : Begun s t op) : t.gopOwn = (t.ownPart op).gopCheck := by
  obtain ⟨gop, casc⟩ := begun
  exact gopOwn_begun (gop.trans (by rw [kids_of_casc casc]))

theorem Begun.kids {s t : State} {op : Nat} (begun : Begun s t op) : t.kids = s.kids := by
  obtain ⟨-, casc⟩ := begun
  exact kids_of_casc casc

/-- A broadcast's copy sent on and written. -/
theorem gopCopy_eq {s t : State} (place : t.reg (rk .LK_GOP_DST) = s.reg (rk .LK_GOP_DST)) (bs : List Byte) :
    t.gopCopy bs = (t.toKids fun i => .copy i bs).writeDev gopWho (s.fld (rk .LK_GOP_DST) 0 56) bs := by
  have same : (t.toKids fun i => .copy i bs).fld (rk .LK_GOP_DST) 0 56 = s.fld (rk .LK_GOP_DST) 0 56 := by
    rw [State.fld, toKids_reg t _ (by decide), place, ← State.fld]
  rw [← same]
  rfl

theorem rest_copied (t : State) (a : Nat) (bs : List Byte) : ((t.toKids fun i => .copy i bs).writeDev gopWho a bs).rest = t.rest :=
  (rest_writeDev ..).trans (rest_toKids ..)

theorem hold_eq {s t : State} {op : Nat} (begun : Begun s t op) : t.hold = (((t.toKids .hold).snapped).ownPart op).gopCheck := by
  have held : t.hold = (t.toKids .hold).takeSnapshot.gopOwn := rfl
  rw [held, takeSnapshot_eq]
  exact (begun.of_rest (rest_toKids t .hold)).snapped.gopOwn

section
variable {s : State} {v : BitVec 32}

theorem exec_broadcast_runs (named : bitsOf v.toNat 0 3 = 1) (free : s.gopFree) (sound : s.gopLenOk = true) : exec (.broadcast v) s =
    .next (match (s.gopStart 1).readSpan gopWho ⟨s.fld (rk .LK_GOP_SRC) 0 56, 0, s.fld (rk .LK_GOP_LEN) 0 32⟩ with
      | (t, some _) => t.gopEnd 1 3 0
      | (t, none) => (t.gopCopy (s.peek gopWho (s.fld (rk .LK_GOP_SRC) 0 56) 0 (s.fld (rk .LK_GOP_LEN) 0 32))).gopOwn) := by
  rw [exec_broadcast, execBroadcast, gopWrite_runs named free sound] <;> rfl

/-- A broadcast whose source is read whole. -/
theorem exec_broadcast_copies (named : bitsOf v.toNat 0 3 = 1) (free : s.gopFree) (sound : s.gopLenOk = true) {r : State × Option Err}
    (read : (s.gopStart 1).readSpan gopWho ⟨s.fld (rk .LK_GOP_SRC) 0 56, 0, s.fld (rk .LK_GOP_LEN) 0 32⟩ = r) (clean : r.2 = none) {bs : List Byte}
    (source : s.peek gopWho (s.fld (rk .LK_GOP_SRC) 0 56) 0 (s.fld (rk .LK_GOP_LEN) 0 32) = bs) : exec (.broadcast v) s =
    .next ((((r.1.toKids fun i => .copy i bs).writeDev gopWho (s.fld (rk .LK_GOP_DST) 0 56) bs).ownPart 1).gopCheck) ∧ Begun s r.1 1 := by
  have rest : r.1.rest = (s.gopStart 1).rest := read ▸ rest_readSpan ..
  have place : r.1.reg (rk .LK_GOP_DST) = s.reg (rk .LK_GOP_DST) :=
    (read ▸ State.readSpan_unread (by decide) ..).trans (gopStart_reg s 1 (by decide))
  have begun : Begun s r.1 1 := (begun_gopStart s (by decide)).of_rest rest
  refine ⟨?_, begun⟩
  rw [exec_broadcast_runs named free sound, read, source]
  obtain ⟨t, e⟩ := r
  subst clean
  dsimp only
  rw [gopCopy_eq place, (begun.of_rest (rest_copied ..)).gopOwn]

theorem exec_broadcast_unread (named : bitsOf v.toNat 0 3 = 1) (free : s.gopFree) (sound : s.gopLenOk = true) {r : State × Option Err}
    (read : (s.gopStart 1).readSpan gopWho ⟨s.fld (rk .LK_GOP_SRC) 0 56, 0, s.fld (rk .LK_GOP_LEN) 0 32⟩ = r) (bad : r.2 ≠ none) :
    exec (.broadcast v) s = .next (r.1.gopEnd 1 3 0) := by
  rw [exec_broadcast_runs named free sound, read]
  obtain ⟨t, e⟩ := r
  cases e with
  | none => exact absurd rfl bad
  | some e => rfl

theorem exec_snapshot_runs (named : bitsOf v.toNat 0 3 = 2) (free : s.gopFree) : exec (.snapshot v) s =
    .next ((((s.gopStart 2).toKids .hold).snapped.ownPart 2).gopCheck) := by
  rw [exec_snapshot, execSnapshot, gopWrite_runs named free rfl, hold_eq (begun_gopStart s (by decide))]

theorem exec_reset_runs (named : bitsOf v.toNat 0 3 = 3) (free : s.gopFree) : exec (.reset v) s = .next ((s.gopStart 3).toKids .reset).computeReset := by
  rw [exec_reset, execReset, gopWrite_runs named free rfl]
  rfl

end

/-! ### Members below the master -/

theorem gopMember_iff (s : State) : s.gopMember = true ↔ s.gopBelow := by
  simp only [State.gopMember, State.gopBelow, Bool.and_eq_true, Bool.not_eq_true', and_assoc]

section
variable {s : State}

theorem exec_broadcastCopy_below (below : s.gopBelow) (bs : List Byte) : exec (.broadcastCopy bs) s =
    .next ((((((s.gopBegin 1).toKids fun i => .copy i bs).writeDev gopWho (s.fld (rk .LK_GOP_DST) 0 56) bs).setFld gopReg 1 1 1).ownPart 1).gopCheck) := by
  have begun := begun_gopBegin s (op := 1) (by decide)
  have own : Begun s ((((s.gopBegin 1).toKids fun i => .copy i bs).writeDev gopWho (s.fld (rk .LK_GOP_DST) 0 56) bs).setFld gopReg 1 1 1) 1 :=
    (begun.of_rest (rest_copied ..)).of_rest rfl
  rw [exec_broadcastCopy, execBroadcastCopy, if_pos ((gopMember_iff s).mpr below), gopCopy_eq (gopBegin_reg s 1 (by decide)), own.gopOwn]

theorem exec_snapshotHold_below (below : s.gopBelow) : exec .snapshotHold s = .next ((((s.gopBegin 2).toKids .hold).snapped.ownPart 2).gopCheck) := by
  rw [exec_snapshotHold, execSnapshotHold, if_pos ((gopMember_iff s).mpr below), hold_eq (begun_gopBegin s (by decide))]

theorem exec_resetMessage_below (below : s.gopBelow) : exec .resetMessage s = .next ((s.gopBegin 3).toKids .reset).computeReset := by
  rw [exec_resetMessage, execResetMessage, if_pos ((gopMember_iff s).mpr below)]
  rfl

theorem release_eq (s : State) : s.release = ({ s with holdPost := false } : State).toKids .release := by
  have kids : ({ s with holdPost := false } : State).kids = s.kids := kids_of_casc rfl
  rw [State.toKids, kids]
  rfl

theorem exec_snapshotRelease_below (below : s.gopBelow) {g : Gop} (under : s.gop = some g) (snapshot : g.op = 2) : exec .snapshotRelease s =
    .next { (({ s with holdPost := false } : State).toKids .release).setFld gopReg 0 2 2 with gop := none } := by
  have gate : (s.gopMember && decide (g.op = 2)) = true := by rw [(gopMember_iff s).mpr below, decide_eq_true snapshot]; rfl
  have ran : execSnapshotRelease s = if s.gopMember && g.op = 2 then .next { s.release.setFld gopReg 0 2 2 with gop := none } else .next s := by
    rw [execSnapshotRelease, under]
  rw [exec_snapshotRelease, ran, if_pos gate, release_eq]

/-- A message of an operation that does not come to a member below the master. -/
theorem not_below (out : ¬ s.gopBelow) (bs : List Byte) : exec (.broadcastCopy bs) s = .next s ∧ exec .snapshotHold s = .next s ∧
    exec .resetMessage s = .next s ∧ exec .snapshotRelease s = .next s := by
  have off : s.gopMember = false := Bool.eq_false_iff.mpr fun on => out ((gopMember_iff s).mp on)
  refine ⟨?_, ?_, ?_, ?_⟩
  · rw [exec_broadcastCopy, execBroadcastCopy, off]
    rfl
  · rw [exec_snapshotHold, execSnapshotHold, off]
    rfl
  · rw [exec_resetMessage, execResetMessage, off]
    rfl
  · rw [exec_snapshotRelease, execSnapshotRelease]
    split
    · rw [off]
      rfl
    · rfl

theorem below_of_leaf {c : Casc} (leaf : s.gopLeaf c) : s.gopBelow ∧ s.kids = [] ∧ s.isMaster = false := by
  obtain ⟨member, other, childless, good⟩ := leaf
  have below : s.isMaster = false := by
    rw [State.isMaster, member]
    exact decide_eq_false other
  refine ⟨⟨by rw [member]; rfl, below, good⟩, ?_, below⟩
  rw [State.kids, member]
  exact childless

/-- A leaf's own part is through, and its answer goes to its parent. -/
theorem leaf_answers {t : State} {c : Casc} {p op : Nat} (leaf : s.gopLeaf c) (parent : c.parent = some p) (begun : Begun s t op) :
    (t.ownPart op).gopCheck =
    if op = 2 then { t.sendLink (.answer p 1 false) with gop := some ⟨op, [], 1, false, false, false⟩ }
    else if op = 3 then State.setFld { (t.sendLink (.answer p 1 false)).setFld gopReg 0 1 0 with gop := none } gopReg 1 1 1
    else { (t.sendLink (.answer p 1 false)).setFld gopReg 0 1 0 with gop := none } := by
  obtain ⟨-, childless, below⟩ := below_of_leaf leaf
  obtain ⟨member, -⟩ := leaf
  have kids : t.kids = [] := begun.kids.trans childless
  obtain ⟨-, casc⟩ := begun
  have own : t.ownPart op = { t with gop := some ⟨op, [], 1, false, false, true⟩ } := by rw [State.ownPart, kids]
  have check := gopCheck_below (s := { t with gop := some ⟨op, [], 1, false, false, true⟩ }) (g := ⟨op, [], 1, false, false, true⟩) rfl rfl rfl
    ((isMaster_of_casc casc).trans below) (casc.trans member) parent
  rw [own, check, sendLink_gop]
  rfl

end

/-! ### A module alone -/

/-- An operation of a module alone ends with its own part. -/
theorem alone_ends {s t : State} {op : Nat} (alone : s.gopAlone) (begun : Begun s t op) : (t.ownPart op).gopCheck =
    if op = 2 then (t.gopEnd op 0 1).release else t.gopEnd op 0 1 := by
  obtain ⟨⟨master, -, -⟩, childless⟩ := gopFree_of_alone alone
  have kids : t.kids = [] := begun.kids.trans childless
  obtain ⟨-, casc⟩ := begun
  have own : t.ownPart op = { t with gop := some ⟨op, [], 1, false, false, true⟩ } := by rw [State.ownPart, kids]
  have check := gopCheck_master (s := { t with gop := some ⟨op, [], 1, false, false, true⟩ }) (g := ⟨op, [], 1, false, false, true⟩) rfl rfl rfl
    ((isMaster_of_casc casc).trans master)
  rw [own, check, gopEnd_gop]
  rfl

theorem gopEnd_shown (s : State) {op result answered : Nat} (result' : result < 4) (answers : answered < 512) :
    (s.gopEnd op result answered).gop = none ∧ (s.gopEnd op result answered).casc = s.casc ∧
    (s.gopEnd op result answered).fld gopReg 0 2 = 2 ∧ (s.gopEnd op result answered).fld gopReg 2 2 = result ∧
    (s.gopEnd op result answered).fld gopReg 7 9 = answered ∧ (s.gopEnd op result answered).fld gopReg 4 3 = s.fld gopReg 4 3 ∧
    (s.gopEnd op result answered).fld gopReg 16 16 = s.fld gopReg 16 16 ∧
    ∀ k : RegKey, k.name ∉ eventRegs → k ≠ gopReg → (s.gopEnd op result answered).reg k = s.reg k := by
  unfold State.gopEnd
  extract_lets a u
  have reg (k : RegKey) : u.reg k = (((s.setFld gopReg 0 2 2).setFld gopReg 2 2 result).setFld gopReg 7 9 answered).reg k := rfl
  have casc : u.casc = s.casc := rfl
  have gop : u.gop = none := rfl
  clear_value u
  have fld (c h : Nat) (p : List Byte) (lo w : Nat) : (u.raise c h p).fld gopReg lo w =
      (((s.setFld gopReg 0 2 2).setFld gopReg 2 2 result).setFld gopReg 7 9 answered).fld gopReg lo w := by
    rw [State.fld, State.raise_reg (by decide), reg, ← State.fld]
  rw [fld, fld, fld, fld, fld]
  refine ⟨(of_rest State.gop (rest_raise ..)).trans gop, (of_rest State.casc (rest_raise ..)).trans casc, ?_, ?_, ?_, ?_, ?_, fun k quiet other => ?_⟩
  · refine (State.fld_setFld_apart _ _ 7 9 _ 0 2 (by decide) (by decide)).trans ((State.fld_setFld_apart _ _ 2 2 _ 0 2 (by decide) (by decide)).trans ?_)
    exact State.fld_setFld_same _ _ 0 2 2 (by decide)
  · refine (State.fld_setFld_apart _ _ 7 9 _ 2 2 (by decide) (by decide)).trans ((State.fld_setFld_same _ _ 2 2 _ (by decide)).trans ?_)
    exact Nat.mod_eq_of_lt result'
  · exact (State.fld_setFld_same _ _ 7 9 _ (by decide)).trans (Nat.mod_eq_of_lt answers)
  · exact (State.fld_setFld_apart _ _ 7 9 _ 4 3 (by decide) (by decide)).trans ((State.fld_setFld_apart _ _ 2 2 _ 4 3 (by decide) (by decide)).trans
      (State.fld_setFld_apart _ _ 0 2 _ 4 3 (by decide) (by decide)))
  · exact (State.fld_setFld_apart _ _ 7 9 _ 16 16 (by decide) (by decide)).trans ((State.fld_setFld_apart _ _ 2 2 _ 16 16 (by decide) (by decide)).trans
      (State.fld_setFld_apart _ _ 0 2 _ 16 16 (by decide) (by decide)))
  · rw [State.raise_reg quiet, reg]
    exact (State.reg_setFld_other _ _ _ _ other).trans ((State.reg_setFld_other _ _ _ _ other).trans (State.reg_setFld_other _ _ _ _ other))

/-- A snapshot of a module alone. -/
theorem alone_snapshot {s : State} {v : BitVec 32} (alone : s.gopAlone) (named : bitsOf v.toNat 0 3 = 2) : ∃ t : State, exec (.snapshot v) s = .next t ∧
    t.gop = none ∧ t.holdPost = false ∧ t.reg (rk .LK_SNAP_TIME) = s.reg (rk .TM_NOW) ∧ t.fld gopReg 0 2 = 2 ∧ t.fld gopReg 2 2 = 0 ∧
    t.fld gopReg 4 3 = 2 ∧ t.fld gopReg 7 9 = 1 ∧ t.fld gopReg 16 16 = (s.fld gopReg 16 16 + 1) % 2 ^ 16 := by
  obtain ⟨free, childless⟩ := gopFree_of_alone alone
  have start := begun_gopStart s (op := 2) (by decide)
  have sent : (s.gopStart 2).toKids .hold = s.gopStart 2 := toKids_childless (start.kids.trans childless) _
  have ended := exec_snapshot_runs named free
  rw [sent, alone_ends alone start.snapped, if_pos rfl] at ended
  obtain ⟨gop, casc, state, result, answers, op, seq, regs⟩ :=
    gopEnd_shown (s.gopStart 2).snapped (op := 2) (result := 0) (answered := 1) (by decide) (by decide)
  obtain ⟨-, casc', -, time, status⟩ := snapped_shown (s.gopStart 2)
  obtain ⟨-, seq', -⟩ := gopStart_shown s (op := 2) (by decide)
  obtain ⟨-, -, op', -⟩ := gopBegin_shown s.gopNext (op := 2) (by decide)
  obtain ⟨-, casc''⟩ := start
  have none : ({ (s.gopStart 2).snapped.gopEnd 2 0 1 with holdPost := false } : State).kids = [] :=
    (kids_of_casc (casc.trans (casc'.trans casc''))).trans childless
  rw [release_eq, toKids_childless none] at ended
  have fld {lo w : Nat} : (s.gopStart 2).snapped.fld gopReg lo w = (s.gopStart 2).fld gopReg lo w := by rw [State.fld, status, ← State.fld]
  rw [fld] at op seq
  exact ⟨_, ended, gop, rfl, (regs _ (by decide) (by decide)).trans (time.trans (gopStart_reg s 2 (by decide))), state, result, op.trans op', answers,
    seq.trans seq'⟩

/-! ### Answers -/

section
variable {s : State} {g : Gop} {i : Nat}

theorem exec_gopAnswer_awaited (under : s.gop = some g) (awaited : i ∈ g.waiting) (n : Nat) (miss : Bool) : exec (.gopAnswer i n miss) s =
    .next ({ s with gop := some { g with
      waiting := g.waiting.filter (· ≠ i), answered := min (g.answered + n) 256, missing := g.missing || miss } } : State).gopCheck := by
  rw [exec_gopAnswer, execGopAnswer, under]
  dsimp only
  rw [if_pos (List.contains_iff_mem.mpr awaited)]

theorem exec_gopAnswerTimeout_awaited (under : s.gop = some g) (awaited : i ∈ g.waiting) (limit : s.fld (rk .LK_GOP_CFG) 0 16 ≠ 0) :
    exec (.gopAnswerTimeout i) s = .next ({ s with gop := some { g with waiting := g.waiting.filter (· ≠ i), missing := true } } : State).gopCheck := by
  have gate : (g.waiting.contains i && decide (s.fld (rk .LK_GOP_CFG) 0 16 ≠ 0)) = true := by
    rw [List.contains_iff_mem.mpr awaited, decide_eq_true limit]
    rfl
  rw [exec_gopAnswerTimeout, execGopAnswerTimeout, under]
  dsimp only
  rw [if_pos gate]

theorem exec_gopAnswerTimeout_unlimited (limit : s.fld (rk .LK_GOP_CFG) 0 16 = 0) : exec (.gopAnswerTimeout i) s = .next s := by
  rw [exec_gopAnswerTimeout, execGopAnswerTimeout]
  split
  · rw [limit]
    exact if_neg (by simp)
  · rfl

theorem gop_unawaited (out : ∀ g : Gop, s.gop = some g → i ∉ g.waiting) (n : Nat) (miss : Bool) : exec (.gopAnswer i n miss) s = .next s ∧
    exec (.gopAnswerTimeout i) s = .next s := by
  rw [exec_gopAnswer, execGopAnswer, exec_gopAnswerTimeout, execGopAnswerTimeout]
  cases under : s.gop with
  | none => exact ⟨rfl, rfl⟩
  | some g =>
    have gone : g.waiting.contains i = false := Bool.eq_false_iff.mpr fun mem => out g under (List.contains_iff_mem.mp mem)
    dsimp only
    rw [gone]
    exact ⟨rfl, rfl⟩

theorem exec_computeResetDone_under (under : s.gop = some g) (resetting : s.resetting = true) :
    let d := (({ s with resetting := false, dispatchHeld := s.snapshotBegun } : State).settle).resetDone 3
    exec .computeResetDone s = .next (if g.op = 3 then ({ d with gop := some { g with received := true } } : State).gopCheck else d) := by
  intro d
  have still : d.gop = some g := by
    have settled := (settles_settle { s with resetting := false, dispatchHeld := s.snapshotBegun }).trans (settles_resetDone _ 3)
    exact (settled.field State.gop).trans under
  rw [exec_computeResetDone, execComputeResetDone, resetting]
  change (match d.gop with
    | some g => if g.op = 3 then Host.Outcome.next d.gopOwn else Host.Outcome.next d
    | none => Host.Outcome.next d) = _
  rw [still]
  dsimp only
  rw [State.gopOwn, still, apply_ite Host.Outcome.next]

end

end Sys2Proof.Machine

open Sys2Proof.Machine in
/-- Settles O43: the writes that start an operation, the members' own parts, and what an operation waits for. -/
theorem cascadeOperationsRunAndCount : Obligations.CascadeOperationsRunAndCount := by
  refine ⟨fun v s => ⟨fun _ off => ?_, fun _ off => ?_, fun _ off => ?_, fun named idle good bad => ?_, fun named idle good bad => ?_,
    fun named idle good bad => ?_, fun free => ?_, fun alone => ?_⟩,
    fun s bs below => ⟨exec_broadcastCopy_below below bs, exec_snapshotHold_below below, exec_resetMessage_below below,
      fun g under snapshot => exec_snapshotRelease_below below under snapshot⟩,
    fun s bs out => not_below out bs, fun s c bs p leaf parent => ?_, fun s op small => ?_, fun s g under => ?_, fun s g i n miss under awaited => ?_,
    fun s i n miss out => gop_unawaited out n miss, fun s none => ?_⟩
  · rw [exec_broadcast, execBroadcast, gopWrite_off off]
  · rw [exec_snapshot, execSnapshot, gopWrite_off off]
  · rw [exec_reset, execReset, gopWrite_off off]
  · rw [exec_broadcast, execBroadcast, gopWrite_refused named idle good bad]
  · rw [exec_snapshot, execSnapshot, gopWrite_refused named idle good (.inl bad)]
  · rw [exec_reset, execReset, gopWrite_refused named idle good (.inl bad)]
  · intro a n bs r
    refine ⟨fun named sound => ⟨fun clean => ?_, fun bad => exec_broadcast_unread named free sound rfl bad⟩, fun named => exec_snapshot_runs named free,
      fun named => exec_reset_runs named free⟩
    obtain ⟨ran, -⟩ := exec_broadcast_copies named free sound (r := r) rfl clean (bs := bs) rfl
    exact ran
  · intro a n r
    obtain ⟨free, childless⟩ := gopFree_of_alone alone
    refine ⟨fun named sound clean => ?_, fun named => alone_snapshot alone named, fun named => ?_⟩
    · obtain ⟨ran, begun⟩ := exec_broadcast_copies named free sound (r := r) rfl clean (bs := s.peek gopWho a 0 n) rfl
      rw [ran, alone_ends alone (begun.of_rest (rest_copied ..)), if_neg (by decide), toKids_childless (begun.kids.trans childless)]
    · rw [exec_reset_runs named free, toKids_childless ((begun_gopStart s (op := 3) (by decide)).kids.trans childless)]
  · obtain ⟨below, childless, -⟩ := below_of_leaf leaf
    have begun {op : Nat} (small : op < 8) : Begun s (s.gopBegin op) op := begun_gopBegin s small
    have sent {op : Nat} (small : op < 8) (msg : Nat → LinkMsg) : (s.gopBegin op).toKids msg = s.gopBegin op :=
      toKids_childless ((begun small).kids.trans childless) msg
    refine ⟨?_, ?_, ?_⟩
    · have own : Begun s (((s.gopBegin 1).writeDev gopWho (s.fld (rk .LK_GOP_DST) 0 56) bs).setFld gopReg 1 1 1) 1 :=
        ((begun (by decide)).of_rest (rest_writeDev ..)).of_rest rfl
      rw [exec_broadcastCopy_below below, sent (by decide), leaf_answers leaf parent own, if_neg (by decide), if_neg (by decide)]
    · have own : Begun s (s.gopBegin 2).snapped 2 := (begun (by decide)).snapped
      obtain ⟨gop, -⟩ := own
      have sends : ((s.gopBegin 2).snapped.sendLink (.answer p 1 false)).gop = some ⟨2, [], 1, false, false, false⟩ :=
        (of_rest State.gop (rest_sendLink ..)).trans (gop.trans (by rw [childless]))
      rw [exec_snapshotHold_below below, sent (by decide), leaf_answers leaf parent (begun (by decide)).snapped, if_pos rfl, ← sends]
    · rw [exec_resetMessage_below below, sent (by decide)]
  · intro t u
    obtain ⟨busy, result, runs, gop, eq⟩ := gopBegin_shown s small
    obtain ⟨gop', seq, answers, busy', eq'⟩ := gopStart_shown s small
    exact ⟨busy, result, runs, gop, eq, gop'.trans gop.symm, seq, answers, busy', eq'⟩
  · refine ⟨gopCheck_waits under, fun clear own master => ?_, fun c p clear own below member parent => ?_,
      fun resetting => exec_computeResetDone_under under resetting⟩
    · intro e
      rw [gopCheck_master under clear own master, release_eq]
    · intro a
      rw [gopCheck_below under clear own below member parent]
      exact ⟨fun op => if_pos op, fun op => (if_neg (by omega)).trans (if_neg (by omega)), fun op => (if_neg (by omega)).trans (if_pos op)⟩
  · intro w h
    refine ⟨exec_gopAnswer_awaited under awaited n miss, fun early => ?_, fun clear own master other => ?_,
      fun limit => exec_gopAnswerTimeout_awaited under awaited limit, fun early limit => ?_, fun limit => exec_gopAnswerTimeout_unlimited limit⟩
    · rw [exec_gopAnswer_awaited under awaited n miss, gopCheck_waits (g := h) rfl early]
    · rw [exec_gopAnswer_awaited under awaited n miss, gopCheck_master (s := { s with gop := some h }) (g := h) rfl clear own master,
        if_neg other]
      rfl
    · rw [exec_gopAnswerTimeout_awaited under awaited limit, gopCheck_waits (g := { g with waiting := w, missing := true }) rfl early]
  · rw [exec_snapshotRelease, execSnapshotRelease, none]
end


section
/-! PROOFS. Rill ports: flits, replays, lanes and classes (16_rill_and_cascades.md, R402 to R412). -/

namespace Sys2Proof.Machine

/-! ### What an event's record leaves of a port -/

/-- A port keeps its lanes and, while it retrains, the flits that wait for acknowledgement. -/
structure LanesHeld (p : Nat) (s t : State) : Prop where
  badLanes : (t.rill p).badLanes = (s.rill p).badLanes
  narrowed : (t.rill p).narrowed = (s.rill p).narrowed
  retraining : (t.rill p).retraining = (s.rill p).retraining
  unacked : (s.rill p).retraining = true → (t.rill p).unacked = (s.rill p).unacked

section
variable {p : Nat}

theorem lanesHeld_of_ports {s t : State} (same : t.ports = s.ports) : LanesHeld p s t := by
  have rill : t.rill p = s.rill p := congrArg (fun x : Tab Port => Tab.getD x p ⟨[], 0, [], false, false, [], 0, 0⟩) same
  constructor <;> intros <;> rw [rill]

theorem LanesHeld.trans {s t u : State} (st : LanesHeld p s t) (tu : LanesHeld p t u) : LanesHeld p s u where
  badLanes := tu.badLanes.trans st.badLanes
  narrowed := tu.narrowed.trans st.narrowed
  retraining := tu.retraining.trans st.retraining
  unacked h := (tu.unacked (st.retraining.trans h)).trans (st.unacked h)

theorem rill_put_same (s : State) (q : Nat) (r : Port) (t : State) (put : t.ports = Tab.put s.ports q r) : t.rill q = r := by
  rw [State.rill, put, Tab.getD_put_same]

theorem rill_put_other {s t : State} {q n : Nat} {r : Port} (put : t.ports = Tab.put s.ports q r) (other : n ≠ q) : t.rill n = s.rill n := by
  rw [State.rill, put, Tab.getD_put_other _ _ _ other, State.rill]

theorem lanesHeld_put {s t : State} {q : Nat} {r : Port} (put : t.ports = Tab.put s.ports q r)
    (bad : r.badLanes = (s.rill q).badLanes) (narrowed : r.narrowed = (s.rill q).narrowed)
    (retraining : r.retraining = (s.rill q).retraining) (unacked : (s.rill q).retraining = true → r.unacked = (s.rill q).unacked) :
    LanesHeld p s t := by
  by_cases same : p = q
  · subst same
    have rill := rill_put_same s p r t put
    exact ⟨rill ▸ bad, rill ▸ narrowed, rill ▸ retraining, fun h => rill ▸ unacked h⟩
  · have rill := rill_put_other put same
    exact ⟨rill ▸ rfl, rill ▸ rfl, rill ▸ rfl, fun _ => rill ▸ rfl⟩

theorem lanesHeld_sendAs (s : State) (cls : Nat) (m : LinkMsg) (op : Nat) : LanesHeld p s (s.sendAs cls m op) := by
  unfold State.sendAs
  split
  · exact lanesHeld_of_ports rfl
  · next q _ =>
    dsimp only
    split
    · exact lanesHeld_put (q := q) rfl rfl rfl rfl fun _ => rfl
    · next off => exact lanesHeld_put (q := q) rfl rfl rfl rfl fun on => absurd on off

theorem ports_send (s : State) (x : Post) : (s.send x).ports = s.ports := by
  unfold State.send
  split
  · cases x with
    | write a bs => rfl
    | vector v =>
      unfold State.post
      dsimp only
      split
      · rfl
      · split <;> rfl
  · rfl

theorem ports_recordRequest (s : State) (q x : Nat) (bs : List Byte) : (s.recordRequest q x bs).1.ports = s.ports := by
  unfold State.recordRequest
  split
  · refine List.foldlRecOn (motive := fun t : State => t.ports = s.ports) _ _ rfl fun t same c _ => ?_
    unfold State.wholeWord
    dsimp only
    split <;> exact same
  · unfold State.dropLatch
    dsimp only
    split <;> rfl

theorem lanesHeld_recordStore (s : State) (x : Place) (o : Nat) (bs : List Byte) : LanesHeld p s (s.recordStore x o bs).1 := by
  unfold State.recordStore
  dsimp only
  split
  · exact lanesHeld_of_ports (ports_send ..)
  · split
    case h_1 =>
      unfold State.unmappedLatch
      dsimp only
      split <;> exact lanesHeld_of_ports rfl
    case h_2 => exact lanesHeld_of_ports (ports_recordRequest ..)
    case h_3 => exact lanesHeld_of_ports rfl
    case h_4 => exact lanesHeld_of_ports (ports_send ..)
    case h_5 => exact lanesHeld_sendAs ..
    case h_6 =>
      split
      · exact LanesHeld.trans (t := { s.used ((x.base + o) % 2 ^ 47) with dev := _ }) (lanesHeld_of_ports rfl) (lanesHeld_sendAs ..)
      · exact lanesHeld_of_ports rfl
    case h_7 => exact lanesHeld_of_ports rfl

theorem lanesHeld_raiseN (fuel : Nat) (s : State) (c u : Nat) (pay : List Byte) : LanesHeld p s (s.raiseN fuel c u pay) := by
  induction fuel generalizing s c u pay with
  | zero => exact lanesHeld_of_ports rfl
  | succ n ih =>
    have logged : (s.logEvent c u pay).ports = s.ports := rfl
    unfold State.raiseN
    dsimp only
    generalize s.logEvent c u pay = x at logged ⊢
    split
    · exact lanesHeld_of_ports logged
    · split
      · exact lanesHeld_of_ports logged
      · next r _ =>
        split
        · have written (bs : List Byte) (o : Nat) :
              LanesHeld p s ((({ x with evRing := some { r with posted := r.posted + 1 } } : State).recordStore r.place o bs).1.send (.vector 2047)) :=
            (LanesHeld.trans (t := { x with evRing := some { r with posted := r.posted + 1 } }) (lanesHeld_of_ports logged)
              (lanesHeld_recordStore ..)).trans (lanesHeld_of_ports (ports_send ..))
          split
          · exact (written _ _).trans (ih ..)
          · exact written _ _
        · exact lanesHeld_of_ports logged

theorem lanesHeld_raise (s : State) (c u : Nat) (pay : List Byte) : LanesHeld p s (s.raise c u pay) := lanesHeld_raiseN 4 s c u pay

end

/-! ### A port that goes down (R405) -/

/-- A port's status is shown as it was. -/
theorem portUp_congr {s t : State} {p : Nat} (same : t.reg (rk .LK_PORT_STATUS 0 p) = s.reg (rk .LK_PORT_STATUS 0 p)) : t.portUp p = s.portUp p :=
  bit_congr same 0

section
variable {k : RegKey} (status : k.name = .LK_PORT_STATUS)
include status

theorem linkError_reg (s : State) (op : Nat) : (s.linkError op).reg k = s.reg k := by
  unfold State.linkError State.whenJob
  split
  · rfl
  · split
    · next j _ =>
      rw [if_pos rfl]
      beta_reduce
      by_cases done : j.phase = .done
      · rw [if_pos done]
        split <;> rfl
      · rw [if_neg done]
        split
        · exact endJob_reg _ _ _ _ (by rw [status]; decide)
        · exact failJob_reg _ _ _ _ (by rw [status]; decide)
    · rfl

theorem resend_reg (s : State) (gone : List Nat) (cls op : Nat) (msg : LinkMsg) : (s.resend gone cls op msg).reg k = s.reg k := by
  unfold State.resend
  split
  · rfl
  · split
    · rfl
    · exact linkError_reg status ..

theorem flitOut_reg (s : State) (p : Nat) : (s.flitOut p).reg k = s.reg k := by
  unfold State.flitOut
  dsimp only
  split
  · rfl
  · split
    · rfl
    · exact State.reg_bump_other _ _ fun same => by rw [same] at status; exact RegName.noConfusion status

theorem flitsOut_reg (s : State) (p n : Nat) : (s.flitsOut p n).reg k = s.reg k := by
  induction n generalizing s with
  | zero => rfl
  | succ n ih => exact (ih _).trans (flitOut_reg status s p)

theorem sendWaiting_reg (s : State) : s.sendWaiting.reg k = s.reg k :=
  State.reg_foldl _ k _ _ fun t p _ => by
    split
    · rfl
    · exact flitsOut_reg status ..

theorem setCascade_reg (s : State) (w who : Nat) : (s.setCascade w who).reg k = s.reg k := by
  have shown : (s.show (rk .LK_CASCADE) w).reg k = s.reg k := (shows_show (ks := [.LK_CASCADE]) s (by decide) ..).reg k (by rw [status]; decide)
  unfold State.setCascade
  dsimp only
  split
  · exact shown
  · exact (State.raise_reg (by rw [status]; decide) ..).trans shown

theorem showCascade_reg (s : State) (who : Nat) : (s.showCascade who).reg k = s.reg k := by
  unfold State.showCascade
  split <;> exact setCascade_reg status ..

end

/-- A status field set to 0 with bit 0 in it shows the port down. -/
theorem portUp_cleared (s : State) (p : Nat) : (s.setFld (rk .LK_PORT_STATUS 0 p) 0 5 0).portUp p = false := by
  have field := State.fld_setFld_same s (rk .LK_PORT_STATUS 0 p) 0 5 0 (by decide)
  unfold State.portUp State.bit
  simp only [State.fld, bitsOf, pow_zero, Nat.div_one] at field ⊢
  have even : ((s.setFld (rk .LK_PORT_STATUS 0 p) 0 5 0).reg (rk .LK_PORT_STATUS 0 p)).toNat % 2 ^ 1 ≠ 1 := by omega
  exact decide_eq_false even

theorem portDown_portUp (s : State) (p : Nat) : (s.portDown p).portUp p = false := by
  by_cases up : s.portUp p
  · refine Eq.trans (portUp_congr ?_) (portUp_cleared s p)
    have status : (rk RegName.LK_PORT_STATUS 0 p).name = .LK_PORT_STATUS := rfl
    unfold State.portDown
    rw [if_neg (by simp [up])]
    refine (showCascade_reg status ..).trans ((sendWaiting_reg status _).trans ?_)
    refine (State.reg_foldl _ _ _ _ fun t x _ => resend_reg status ..).trans ?_
    refine (State.reg_foldl _ _ _ _ fun t op _ => linkError_reg status t op).trans ?_
    refine (State.raise_reg (show RegName.LK_PORT_STATUS ∉ eventRegs by decide) ..).trans ?_
    refine (State.reg_bump_other _ _ (by simp [rk])).trans ?_
    exact (settles_settle _).reg _ (show RegName.LK_PORT_STATUS ∉ settleRegs by decide)
  · rw [State.portDown, if_pos (by simp [up])]
    simpa using up

/-! ### Flits (R402, R403) -/

section
variable {s : State} {p : Nat}

theorem flitReceive_off (off : s.portUp p = false ∨ (s.rill p).retraining = true) (g : Bool) (a : Nat) (e : FlitEnd) :
    exec (.flitReceive p g a e) s = .next s :=
  if_pos (by simpa using off)

variable (up : s.portUp p = true) (trained : (s.rill p).retraining = false)
include up trained

/-- A good flit counted, with what it acknowledges. -/
def State.flitCounted (s : State) (p a : Nat) : State :=
  { s.bump (rk .LK_RX_FLITS 0 p) with
    ports := Tab.put s.ports p { s.rill p with
      unacked := (s.rill p).unacked.drop a, fails := if a = 0 then (s.rill p).fails else 0, rxBad := 0 } }

theorem flitReceive_good (a : Nat) (b : Brought) :
    exec (.flitReceive p true a ⟨false, b⟩) s = .next ((s.flitCounted p a).bring b) := by
  rw [exec_flitReceive, execFlitReceive, if_neg (by simp [up, trained]), if_neg (by simp)]
  rfl

theorem flitReceive_bad (a : Nat) (e : FlitEnd) :
    exec (.flitReceive p false a e) s = .next (if 15 ≤ (s.rill p).rxBad then (s.flitBad p).portDown p else s.flitBad p) := by
  rw [exec_flitReceive, execFlitReceive, if_neg (by simp [up, trained]), if_pos (by simp)]

/-- A replay counted, with the flits that it sends again. -/
def State.replayed (s : State) (p : Nat) : State :=
  let u := s.flitCounted p 0
  { (u.bump (rk .LK_REPLAYS 0 p)).bump (rk .LK_TX_FLITS 0 p) (s.rill p).unacked.length with
    ports := Tab.put u.ports p { s.rill p with fails := (s.rill p).fails + 1, rxBad := 0 } }

theorem flitReceive_nak (kept : (s.rill p).unacked ≠ []) :
    exec (.flitReceive p true 0 ⟨true, .nothing⟩) s =
      .next (if 16 ≤ (s.rill p).fails + 1 then (s.replayed p).portDown p else s.replayed p) := by
  rw [exec_flitReceive, execFlitReceive, if_neg (by simp [up, trained]), if_neg (by simp)]
  extract_lets r r2 s1 s2 s3
  rw [if_neg (by simpa [r2, r] using kept)]
  rfl

end

end Sys2Proof.Machine
end


section
/-! PROOFS. What a flit's message brings, lane faults, retrains and priority classes (16_rill_and_cascades.md, R402 to R412). -/

namespace Sys2Proof.Machine

/-! ### What a message brings (R246, R258, R333, R409) -/

theorem toNat_bump (s : State) (k : RegKey) (n : Nat) : ((s.bump k n).reg k).toNat = min ((s.reg k).toNat + n) (2 ^ 64 - 1) := by
  rw [State.bump, State.reg_setReg_same, BitVec.toNat_ofNat]
  exact Nat.mod_eq_of_lt (by omega)

theorem isSlotRef_of_low {a : Nat} (low : a < 2 ^ 47) : isSlotRef a = false := by
  have zero : a / 2 ^ 63 = 0 := Nat.div_eq_of_lt (by omega)
  rw [isSlotRef, Sys2Proof.bitOf, zero]
  rfl

theorem bring_token_claim {q : Nat} (here : q < 140) (s : State) (n : Nat) (full : Bool) :
    s.bring (.token q n full true) = s.setFld (s.slotKey q n) 33 1 1 := by
  have near : isRemote q = false := decide_eq_false (by omega)
  simp [State.bring, State.slotClaim, near]

theorem bring_token_fill {q : Nat} (here : q < 140) (s : State) (n : Nat) (full : Bool) :
    s.bring (.token q n full false) = (s.setFld (s.slotKey q n) 33 1 0).setFld (s.slotKey q n) 32 1 (flagNat full) := by
  have near : isRemote q = false := decide_eq_false (by omega)
  simp [State.bring, State.slotFill, near]

theorem bit_setFld_flag (s : State) (k : RegKey) {i : Nat} (inside : i + 1 ≤ 64) (b : Bool) : (s.setFld k i 1 (flagNat b)).bit k i = b := by
  rw [State.bit, State.fld_setFld_same _ _ _ _ _ inside]
  cases b <;> rfl

/-- A token's message sets its slot's marks and nothing else. -/
theorem bring_token {q : Nat} (here : q < 140) (s : State) (n : Nat) (full claimed : Bool) :
    let t := s.bring (.token q n full claimed)
    t.slotClaimed q n = claimed ∧ t.slotFull q n = (if claimed = true then s.slotFull q n else full) ∧ t = { s with regs := t.regs } := by
  cases claimed with
  | true =>
    rw [bring_token_claim here]
    exact ⟨bit_setFld_flag s _ (by decide) true, bit_setFld_apart s _ _ _ _ _ (by decide) (by decide), rfl⟩
  | false =>
    rw [bring_token_fill here]
    exact ⟨(bit_setFld_apart _ _ _ _ _ _ (by decide) (by decide)).trans (bit_setFld_flag s _ (by decide) false),
      bit_setFld_flag _ _ (by decide) full, rfl⟩

section
variable {s : State} {l st : Nat} (onStack : s.loc l = .dram l st) (low : l < 2 ^ 47) (clean : Tab.find? s.dramErr (codeKey st l) = none)
include onStack low clean

theorem bring_write (unit : Nat) {bs : List Byte} (some' : 0 < bs.length) (fits : l % 64 + bs.length ≤ 64) :
    s.bring (.write unit l bs) = (s.used (l % 2 ^ 47)).stackStore st l bs := by
  have at' : s.loc ((l + 0) % 2 ^ 56) = .dram l st := by rw [Nat.add_zero, Nat.mod_eq_of_lt (by omega)]; exact onStack
  unfold State.bring State.writeAt
  simp only [isSlotRef_of_low low, Bool.false_eq_true, if_false]
  exact writeDev_dram (rillWho unit) at' clean some' fits

theorem bring_read (m c : Nat) {n : Nat} (some' : 0 < n) (fits : l % 64 + n ≤ 64) :
    s.bring (.read m c l n) = (((s.used (l % 2 ^ 47)).bump (rk .DM_READ_BYTES st) n)).sendAs c (.found m c (s.peek (rillWho 0) l 0 n) false) 0 := by
  have at' : s.loc (l % 2 ^ 56) = .dram l st := by rw [Nat.mod_eq_of_lt (by omega)]; exact onStack
  have read : s.readEach (rillWho 0) l n = ((s.used (l % 2 ^ 47)).bump (rk .DM_READ_BYTES st) n, []) := by
    unfold State.readEach
    rw [devPieces_dram at' some' fits]
    have errors : Tab.find? ((s.used (l % 2 ^ 47)).bump (rk .DM_READ_BYTES st) n).dramErr (codeKey st l) = none := clean
    simp only [List.foldl_cons, List.foldl_nil, State.readPiece, at', State.dramRead, errors, Option.toList_none, List.append_nil]
  simp only [State.bring, read, List.any_nil]

end

/-- An allocation that a peer spills here lies where the request puts it, on the stacks that are ready (R333). -/
theorem takeSpill_off {s : State} (barred : s.bit (rk .PL_CFG) 1 = false) (b n f : Nat) : s.takeSpill b n f = s := by
  rw [State.takeSpill, if_neg (by simp [barred])]

theorem takeSpill_allocs {s : State} {b n f : Nat} (lets : s.bit (rk .PL_CFG) 1 = true) (some' : n ≠ 0) (whole : n % 65536 = 0)
    (few : s.allocs.length < 65536) (inside : f < ((List.range 16).filter s.stackReady).length)
    (room : s.roomOn ((List.range 16).filter s.stackReady) n f = true) (free : s.addrFree b n = true) :
    (s.takeSpill b n f).allocs = s.allocs ++ [(⟨b, n, peerHint, (List.range 16).filter s.stackReady, f, .onStacks, none, s.tk, 0⟩ : Alloc)] := by
  have chosen : s.chosen peerHint 0 = (List.range 16).filter s.stackReady := rfl
  rw [State.takeSpill, chosen, if_pos (by simp [lets, some', whole, few, inside, room, free])]
  exact congrArg State.allocs (shows_showSpace _).eq

theorem freeAlloc_allocs (s : State) (x : Alloc) : (s.freeAlloc x).allocs = s.allocs.filter fun y => y.base ≠ x.base :=
  congrArg State.allocs (shows_freeAlloc s x).eq

/-! ### Lanes (R404) -/

theorem active_second : ∀ x < 8, ∀ l < 9, l ≠ x →
    (((List.range 9).filter fun y => !([x, l] : List Nat).contains y).take 4).length = 4 ∧
      ((List.range 9).filter fun y => !([x] : List Nat).contains y).contains l = true := by decide

theorem active_first : ∀ l < 8, ((List.range 9).filter fun y => !([l] : List Nat).contains y).length = 8 ∧ (List.range 8).contains l = true := by decide

/-- A port with one lane more that has faulted, which retrains. -/
def Port.faulted (r : Port) (l : Nat) : Port :=
  { r with badLanes := r.badLanes ++ [l], narrowed := !r.badLanes.isEmpty, retraining := true }

/-- A lane's fault counted and shown on its port. -/
def State.laneLost (s : State) (p l : Nat) : State :=
  { s.bump (rk .LK_LANE_FAULTS 0 p) with
    life := { s.life with rillFaults := s.life.rillFaults.modify p fun n => satAdd 16 n 1 }
    ports := Tab.put s.ports p ((s.rill p).faulted l) }

/-- A fault that leaves four lanes or more reports them and keeps the port up. -/
theorem laneFault_kept {s : State} {p l : Nat} {n : Option Nat} (up : s.portUp p = true) (inUse : (s.rill p).active.contains l = true)
    (bad : s.laneBad p n = true) (left : 4 ≤ ((s.rill p).faulted l).active.length) :
    ∃ pay, exec (.laneFault p ⟨l, n⟩) s = .next ((((s.laneLost p l).raise 0x201 devHandle pay).setFld (rk .LK_PORT_STATUS 0 p) 1 4
      ((s.rill p).faulted l).active.length).setFld (rk .LK_PORT_STATUS 0 p) 5 1 1) := by
  rw [exec_laneFault, execLaneFault]
  dsimp only
  rw [if_neg (by rw [up, inUse, bad]; decide)]
  change ∃ pay, (if decide (((s.rill p).faulted l).active.length < 4) = true then _ else _) = _
  rw [if_neg (by simpa using left)]
  exact ⟨_, rfl⟩

theorem laneFault_off {s : State} {p l : Nat} {n : Option Nat} (idle : s.portUp p = false ∨ s.laneBad p n = false) :
    exec (.laneFault p ⟨l, n⟩) s = .next s := by
  rw [exec_laneFault, execLaneFault]
  refine if_pos ?_
  rcases idle with down | fine
  · simp [down]
  · simp [fine]

/-- What a port's fault leaves of it while it stays up. -/
theorem laneFault_shown {s : State} {p l m : Nat} {t : State} {pay : List Byte}
    (eq : t = (((s.laneLost p l).raise 0x201 devHandle pay).setFld (rk .LK_PORT_STATUS 0 p) 1 4 m).setFld (rk .LK_PORT_STATUS 0 p) 5 1 1) :
    t.portUp p = s.portUp p ∧ (t.rill p).badLanes = (s.rill p).badLanes ++ [l] ∧ (t.rill p).narrowed = !(s.rill p).badLanes.isEmpty ∧
      t.fld (rk .LK_PORT_STATUS 0 p) 1 4 = m % 16 ∧ t.bit (rk .LK_PORT_STATUS 0 p) 5 = true ∧ (t.rill p).retraining = true ∧
      (t.rill p).unacked = (s.rill p).unacked := by
  have lost : (s.laneLost p l).rill p = (s.rill p).faulted l := rill_put_same s p _ _ rfl
  obtain ⟨badLanes, narrowed, retraining, unacked⟩ := lanesHeld_raise (p := p) (s.laneLost p l) 0x201 devHandle pay
  have rill : t.rill p = ((s.laneLost p l).raise 0x201 devHandle pay).rill p := by rw [eq]; rfl
  rw [lost] at badLanes narrowed retraining unacked
  rw [rill]
  refine ⟨?_, badLanes, narrowed, ?_, ?_, retraining, unacked rfl⟩
  · have raised : ((s.laneLost p l).raise 0x201 devHandle pay).reg (rk .LK_PORT_STATUS 0 p) = s.reg (rk .LK_PORT_STATUS 0 p) :=
      (State.raise_reg (show RegName.LK_PORT_STATUS ∉ eventRegs by decide) ..).trans (State.reg_bump_other _ _ (by simp [rk]))
    rw [eq]
    refine (bit_setFld_apart _ _ _ _ _ _ (by decide) (by decide)).trans ?_
    rw [State.bit, State.fld_setFld_apart _ _ _ _ _ _ _ (by decide) (by decide)]
    exact bit_congr raised 0
  · rw [eq, State.fld_setFld_apart _ _ _ _ _ _ _ (by decide) (by decide), State.fld_setFld_same _ _ _ _ _ (by decide)]
    rfl
  · rw [eq]
    exact bit_setFld_flag _ _ (by decide) true

/-! ### Priority classes (R411, R412) -/

theorem nextClass_forced {cs : List Nat} {n : Nat} (waits : 2 ∈ cs) (run : 7 ≤ n) : nextClass cs n = some 2 :=
  if_pos (by simp [waits, run])

theorem nextClass_lowest {cs : List Nat} {n c : Nat} (low : c < 3) (waits : c ∈ cs) (first : ∀ b < c, b ∉ cs) (run : n < 7) :
    nextClass cs n = some c := by
  rw [nextClass, if_neg (by simp [run])]
  obtain rfl | rfl | rfl : c = 0 ∨ c = 1 ∨ c = 2 := by omega
  · simp [waits]
  · simp [waits, first 0 (by decide)]
  · simp [waits, first 0 (by decide), first 1 (by decide)]

/-- What waits in some class of the three is served, from a class that waits. -/
theorem nextClass_some {cs : List Nat} (n : Nat) {c : Nat} (low : c < 3) (waits : c ∈ cs) : ∃ d ∈ cs, nextClass cs n = some d := by
  unfold nextClass
  split
  · next forced => exact ⟨2, by simpa using (Bool.and_eq_true_iff.mp forced).1, rfl⟩
  · cases found : [0, 1, 2].find? cs.contains with
    | some d => exact ⟨d, by simpa using List.find?_some found, rfl⟩
    | none =>
      have none' := List.find?_eq_none.mp found c (by have : c = 0 ∨ c = 1 ∨ c = 2 := by omega
                                                      simpa using this)
      exact absurd (by simpa using waits) none'

theorem flitOut_run {s : State} {p : Nat} (short : (s.rill p).run ≤ 7) : ((s.flitOut p).rill p).run ≤ 7 := by
  unfold State.flitOut
  dsimp only
  split
  · exact short
  · next c next' =>
    split
    · exact short
    · rw [rill_put_same s p _ _ rfl]
      dsimp only
      split
      · exact Nat.zero_le 7
      · next other =>
        unfold nextClass at next'
        split at next'
        · exact absurd (by simpa using next'.symm) (fun same : c = 2 => other (by simp [same]))
        · next unforced =>
          simp only [Bool.or_eq_true, decide_eq_true_eq, Bool.not_eq_true', not_or, Bool.not_eq_false] at other
          simp only [other.2, Bool.true_and, decide_eq_true_eq] at unforced
          omega

theorem portOf_free {s : State} {cls : Nat} {msg : LinkMsg}
    (free : ∀ q < 16, ∀ x ∈ (s.rill q).waiting, x.1 = cls → x.2.2.2.member = none ∨ x.2.2.2.member ≠ msg.member) :
    s.portOf cls msg = s.linkPort msg := by
  have none' : (List.range 16).find? (fun p => (s.rill p).waiting.any fun x => x.1 = cls && x.2.2.2.member.isSome && x.2.2.2.member = msg.member) = none := by
    refine List.find?_eq_none.mpr fun q mem any => ?_
    obtain ⟨x, wait, hit⟩ := List.any_eq_true.mp any
    simp only [Bool.and_eq_true, decide_eq_true_eq] at hit
    obtain ⟨⟨same, some'⟩, member⟩ := hit
    rcases free q (List.mem_range.mp mem) x wait same with absent | other
    · simp [absent] at some'
    · exact other member
  rw [State.portOf, none']

theorem portOf_some {s : State} {cls q : Nat} {msg : LinkMsg} (out : s.portOf cls msg = some q) :
    (∃ x ∈ (s.rill q).waiting, x.1 = cls ∧ x.2.2.2.member = msg.member) ∨ s.linkPort msg = some q := by
  unfold State.portOf at out
  split at out
  · next found =>
    obtain rfl := Option.some.inj out
    obtain ⟨x, wait, hit⟩ := List.any_eq_true.mp (List.find?_some (p := fun p => List.any _ _) found)
    simp only [Bool.and_eq_true, decide_eq_true_eq] at hit
    exact .inl ⟨x, wait, hit.1.1, hit.2⟩
  · exact .inr out

theorem sendLink_held {s : State} {p op : Nat} {msg : LinkMsg} (out : s.portOf (s.linkClass op msg) msg = some p) (held : (s.rill p).retraining = true) :
    s.sendLink msg op = { s with ports := Tab.put s.ports p { s.rill p with
      waiting := (s.rill p).waiting ++ [(s.linkClass op msg, op, msg.flits, msg)] } } := by
  rw [State.sendLink, State.sendAs, out]
  exact if_pos held

theorem sendLink_sent {s : State} {p op : Nat} {msg : LinkMsg} (out : s.portOf (s.linkClass op msg) msg = some p)
    (trained : (s.rill p).retraining = false) : (s.sendLink msg op).linkOut = s.linkOut ++ [msg] ∧
      ((s.sendLink msg op).rill p).unacked = (s.rill p).unacked ++ List.replicate msg.flits op := by
  rw [State.sendLink, State.sendAs, out]
  dsimp only
  rw [if_neg (by simp [trained])]
  exact ⟨rfl, by rw [rill_put_same s p _ _ rfl]⟩

/-! ### The end of a retrain (R404, R411) -/

/-- Flits of the messages that wait. -/
def flitSum (w : List (Nat × Nat × Nat × LinkMsg)) : Nat := (w.map fun x => x.2.2.1).sum

/-- Every message that waits has a class and a flit to send. -/
def Sendable (w : List (Nat × Nat × Nat × LinkMsg)) : Prop := ∀ x ∈ w, x.1 < 3 ∧ 1 ≤ x.2.2.1

/-- One flit of a class that waits: one flit less, and its message out with its last. -/
theorem takeFlit_some {c : Nat} {w : List (Nat × Nat × Nat × LinkMsg)} (sendable : Sendable w) (waits : c ∈ w.map Prod.fst) :
    ∃ op msg, (takeFlit c w).2 = some (op, msg) ∧ Sendable (takeFlit c w).1 ∧ flitSum (takeFlit c w).1 + 1 = flitSum w ∧
      (takeFlit c w).1.length + msg.toList.length = w.length := by
  induction w with
  | nil => simp at waits
  | cons x r ih =>
    obtain ⟨low, some'⟩ := sendable x (by simp)
    have rest : Sendable r := fun y mem => sendable y (by simp [mem])
    unfold takeFlit
    by_cases same : x.1 = c
    · rw [if_pos same]
      by_cases last : x.2.2.1 ≤ 1
      · rw [if_pos last]
        exact ⟨_, _, rfl, rest, by simp only [flitSum, List.map_cons, List.sum_cons]; omega, rfl⟩
      · rw [if_neg last]
        refine ⟨_, _, rfl, ?_, by simp only [flitSum, List.map_cons, List.sum_cons]; omega, rfl⟩
        intro y mem
        rcases List.mem_cons.mp mem with rfl | mem
        · exact ⟨same ▸ low, by dsimp only; omega⟩
        · exact rest y mem
    · rw [if_neg same]
      obtain ⟨op, msg, taken, left, sum, length⟩ := ih rest (by simpa [Ne.symm same] using waits)
      refine ⟨op, msg, taken, ?_, ?_, ?_⟩
      · intro y mem
        rcases List.mem_cons.mp mem with rfl | mem
        · exact ⟨low, some'⟩
        · exact left y mem
      · simp only [flitSum, List.map_cons, List.sum_cons] at sum ⊢
        omega
      · simp only [List.length_cons] at length ⊢
        omega

/-- What a port's sending changes: registers, what has gone out, and the port. -/
theorem flitOut_some {s : State} {p : Nat} (sendable : Sendable (s.rill p).waiting) (waits : (s.rill p).waiting ≠ []) :
    Sendable ((s.flitOut p).rill p).waiting ∧ flitSum ((s.flitOut p).rill p).waiting + 1 = flitSum (s.rill p).waiting ∧
      (s.flitOut p).linkOut.length + ((s.flitOut p).rill p).waiting.length = s.linkOut.length + (s.rill p).waiting.length ∧
      ((s.flitOut p).rill p).unacked.length = (s.rill p).unacked.length + 1 ∧ ((s.flitOut p).rill p).retraining = (s.rill p).retraining ∧
      s.flitOut p = { s with regs := (s.flitOut p).regs, linkOut := (s.flitOut p).linkOut, ports := (s.flitOut p).ports } := by
  obtain ⟨x, mem⟩ := List.exists_mem_of_ne_nil _ waits
  obtain ⟨c, cmem, served⟩ := nextClass_some (s.rill p).run (sendable x mem).1 (List.mem_map.mpr ⟨x, mem, rfl⟩)
  obtain ⟨op, msg, taken, left, sum, length⟩ := takeFlit_some sendable cmem
  have eq : takeFlit c (s.rill p).waiting = ((takeFlit c (s.rill p).waiting).1, some (op, msg)) := Prod.ext rfl taken
  unfold State.flitOut
  simp only [served]
  rw [eq]
  dsimp only
  rw [rill_put_same s p _ _ rfl]
  refine ⟨left, sum, ?_, by simp, rfl, rfl⟩
  simp only [List.length_append, State.bump_linkOut]
  omega

theorem flitsOut_all {s : State} {p : Nat} (n : Nat) (sum : flitSum (s.rill p).waiting = n) (sendable : Sendable (s.rill p).waiting) :
    ((s.flitsOut p n).rill p).waiting = [] ∧ (s.flitsOut p n).linkOut.length = s.linkOut.length + (s.rill p).waiting.length ∧
      ((s.flitsOut p n).rill p).unacked.length = (s.rill p).unacked.length + n ∧ ((s.flitsOut p n).rill p).retraining = (s.rill p).retraining ∧
      s.flitsOut p n = { s with regs := (s.flitsOut p n).regs, linkOut := (s.flitsOut p n).linkOut, ports := (s.flitsOut p n).ports } := by
  induction n generalizing s with
  | zero =>
    have empty : (s.rill p).waiting = [] := by
      rcases waiting : (s.rill p).waiting with _ | ⟨x, r⟩
      · rfl
      · have := (sendable x (by simp [waiting])).2
        rw [waiting] at sum
        simp only [flitSum, List.map_cons, List.sum_cons] at sum
        omega
    exact ⟨empty, by simp [State.flitsOut, empty], rfl, rfl, rfl⟩
  | succ n ih =>
    have waits : (s.rill p).waiting ≠ [] := fun empty => by simp [empty, flitSum] at sum
    obtain ⟨left, less, out, unacked, retraining, eq⟩ := flitOut_some sendable waits
    obtain ⟨gone, out', unacked', retraining', eq'⟩ := ih (s := s.flitOut p) (by omega) left
    refine ⟨gone, out'.trans out, by rw [State.flitsOut, unacked', unacked]; omega, retraining'.trans retraining, ?_⟩
    rw [State.flitsOut, eq', eq]

/-! ### A port that comes up (R405) -/

/-- What lies above the units is up as it was. -/
theorem own_takeReserve (s : State) {i : Nat} (high : 332 ≤ i) : s.takeReserve.own i = s.own i := by
  unfold State.takeReserve
  split
  · next e r _ reserve =>
    have inside : r ∈ [32, 33, 34] := List.mem_of_find?_eq_some reserve
    have below : r ≤ 34 := by simp at inside; omega
    refine (congrArg (List.contains · i) (of_rest State.up (rest_refreshReady _))).trans ?_
    refine List.foldlRecOn (motive := fun u : State => u.own i = s.own i) _ _ ?_ fun u same x mem => ?_
    · rw [own_setOwn, if_neg (by omega)]
      rfl
    · have lt := List.mem_range.mp mem
      rw [own_setOwn, if_neg (by omega)]
      exact same
  · rfl

theorem own_settle (s : State) {i : Nat} (high : 332 ≤ i) : s.settle.own i = s.own i := by
  have held (t : State) : t.holdDefaults.showSpares.own i = t.own i :=
    congrArg (List.contains · i) ((up_showSpares _).trans (up_holdDefaults t))
  have ready : s.refreshReady.own i = s.own i := congrArg (List.contains · i) (of_rest State.up (rest_refreshReady s))
  rw [State.settle, held, own_takeReserve _ high, own_takeReserve _ high, own_takeReserve _ high, ready]

theorem isReady_port (s : State) {p : Nat} (port : p < 16) : s.isReady (384 + p) = s.own (384 + p) := by
  unfold State.isReady
  iterate 10 rw [if_neg (by omega)]
  rw [if_neg (by omega), if_neg (by omega), if_neg (by omega), if_pos (by omega)]

/-- A port that trains, before its state is reported. -/
def State.trained (s : State) (p : Nat) : State :=
  let k := rk .LK_PORT_STATUS 0 p
  ((s.setFld k 0 1 1).setFld k 1 4 (s.rill p).active.length).setOwn (384 + p) true

theorem portUp_trains {s : State} {p : Nat} (down : s.portUp p = false) (enabled : s.bit (rk .LK_PORT_CFG 0 p) 0 = true)
    (power : s.powerGood = true) (lanes : 4 ≤ (s.rill p).active.length) (alone : s.casc = none) (port : p < 16) :
    ∃ t : State, exec (.portUp p) s = .next t ∧ t.portUp p = true ∧ t.fld (rk .LK_PORT_STATUS 0 p) 1 4 = (s.rill p).active.length % 16 ∧
      t.isReady (384 + p) = true := by
  have status : (rk RegName.LK_PORT_STATUS 0 p).name = .LK_PORT_STATUS := rfl
  obtain ⟨pay, eq⟩ : ∃ pay, exec (.portUp p) s = .next ((((s.trained p).settle.raise 0x200 devHandle pay).exchangeOn p).showCascade
      (((((s.trained p).settle.raise 0x200 devHandle pay).exchangeOn p).casc.bind fun c => c.ports.getD p none).getD 0)) := by
    rw [exec_portUp, execPortUp]
    dsimp only
    rw [if_neg (by simp [down, enabled, power, lanes])]
    exact ⟨_, rfl⟩
  have still : ((s.trained p).settle.raise 0x200 devHandle pay).casc = none :=
    (of_rest State.casc (rest_raise ..)).trans ((settle_field (s.trained p) State.casc).trans alone)
  have reg : ((s.trained p).settle.raise 0x200 devHandle pay).reg (rk .LK_PORT_STATUS 0 p) = (s.trained p).reg (rk .LK_PORT_STATUS 0 p) :=
    (State.raise_reg (show RegName.LK_PORT_STATUS ∉ eventRegs by decide) ..).trans
      ((settles_settle _).reg _ (show RegName.LK_PORT_STATUS ∉ settleRegs by decide))
  have up : ((s.trained p).settle.raise 0x200 devHandle pay).own (384 + p) = true :=
    (congrArg (List.contains · (384 + p)) (of_rest State.up (rest_raise ..))).trans
      ((own_settle _ (by omega)).trans ((own_setOwn ..).trans (if_pos rfl)))
  generalize (s.trained p).settle.raise 0x200 devHandle pay = u at eq still reg up
  have unsent : u.exchangeOn p = u := by rw [State.exchangeOn, still]
  rw [unsent, still, showCascade_none still] at eq
  have same : (u.setCascade 0 0).reg (rk .LK_PORT_STATUS 0 p) = (s.trained p).reg (rk .LK_PORT_STATUS 0 p) := (setCascade_reg status ..).trans reg
  refine ⟨_, eq, (bit_congr same 0).trans ?_, ?_, ?_⟩
  · exact (bit_setFld_apart _ _ _ _ _ _ (by decide) (by decide)).trans (bit_setFld_flag s _ (by decide) true)
  · exact (congrArg (fun w : Word => bitsOf w.toNat 1 4) same).trans (State.fld_setFld_same _ _ _ _ _ (by decide))
  · rw [isReady_port _ port]
    exact (congrArg (List.contains · (384 + p)) (of_rest State.up (setCascade_shown u 0 0).1)).trans up

end Sys2Proof.Machine

open Sys2Proof.Machine in
/-- Settles O45: each event of a port by its guard; what waits on a port goes out flit by flit, each flit one less of the sum that waits. -/
theorem rillPortsCountReplayAndNarrow : Obligations.RillPortsCountReplayAndNarrow := by
  unfold Obligations.RillPortsCountReplayAndNarrow
  intro p s
  refine ⟨fun off g k a b => flitReceive_off off g a _, fun down l x => laneFault_off (.inl down),
    fun l n few => laneFault_off (.inr (decide_eq_false (by omega))), fun up trained a => ⟨fun b => flitReceive_good up trained a b, fun nak b => ⟨?_, ?_⟩⟩,
    ⟨rfl, fun q n full claimed here _ => bring_token here s n full claimed, fun l st onStack low wf clean => ⟨?_, ?_⟩, fun b n f => ⟨?_, ?_⟩, ?_, ?_⟩,
    ?_, ?_, ?_, ?_, ?_, ?_, ?_, ?_, flitOut_run, fun cs n => ⟨nextClass_forced, fun c => nextClass_lowest⟩, portUp_trains⟩
  · intro few
    rw [flitReceive_bad up trained, if_neg (by omega)]
    rfl
  · intro last
    exact ⟨_, (flitReceive_bad up trained a _).trans (by rw [if_pos last]), portDown_portUp _ p⟩
  · intro unit bs some' fits
    rw [bring_write onStack low clean unit some' fits]
    exact ⟨Mem.read_write _ _ _ wf, fun a out => Mem.get_write_outside _ _ _ _ out, rfl, rfl, rfl⟩
  · intro m c n some' fits
    exact ⟨(s.used (l % 2 ^ 47)).bump (rk .DM_READ_BYTES st) n, rfl, rfl, bring_read onStack low clean m c some' fits⟩
  · exact fun barred => takeSpill_off barred b n f
  · intro lets some' whole few inside room free
    exact ⟨_, takeSpill_allocs lets some' whole few inside room free, rfl, rfl, rfl, rfl, rfl, rfl, rfl⟩
  · intro b x found
    have base : x.base = b := by have := List.find?_some found; simp only [Bool.and_eq_true, decide_eq_true_eq] at this; exact this.1
    simp only [State.bring, found]
    rw [freeAlloc_allocs, base]
  · exact fun m c n => ⟨rfl, rfl⟩
  · intro up trained kept few
    have rill := rill_put_same (s.flitCounted p 0) p { s.rill p with fails := (s.rill p).fails + 1, rxBad := 0 } (s.replayed p) rfl
    refine ⟨s.replayed p, (flitReceive_nak up trained kept).trans (by rw [if_neg (by omega)]), by rw [rill], by rw [rill], ?_, ?_⟩
    · refine (congrArg BitVec.toNat (State.reg_bump_other _ _ (by simp [rk]))).trans ((toNat_bump ..).trans ?_)
      rw [show (s.flitCounted p 0).reg (rk .LK_REPLAYS 0 p) = s.reg (rk .LK_REPLAYS 0 p) from State.reg_bump_other _ _ (by simp [rk])]
    · refine (toNat_bump ..).trans ?_
      rw [State.reg_bump_other _ _ (by simp [rk]),
        show (s.flitCounted p 0).reg (rk .LK_TX_FLITS 0 p) = s.reg (rk .LK_TX_FLITS 0 p) from State.reg_bump_other _ _ (by simp [rk])]
  · intro up trained kept last
    exact ⟨_, (flitReceive_nak up trained kept).trans (by rw [if_pos (by omega)]), portDown_portUp _ p⟩
  · intro up fresh l n lane bad
    obtain ⟨width, used⟩ := active_first l lane
    have inUse : (s.rill p).active.contains l = true := by rw [Port.active, fresh]; exact used
    have active : ((s.rill p).faulted l).active = (List.range 9).filter fun y => !([l] : List Nat).contains y := by
      simp [Port.active, Port.faulted, fresh]
    rw [← active] at width
    obtain ⟨pay, eq⟩ := laneFault_kept up inUse bad (by omega)
    obtain ⟨port, lanes, _, shown, retrains, retraining, unacked⟩ := laneFault_shown rfl
    exact ⟨_, eq, port.trans up, by rw [lanes, fresh]; rfl, by rw [shown, width], retrains, retraining, unacked⟩
  · intro up x l n one low whole lane other bad
    obtain ⟨width, used⟩ := active_second x low l lane other
    have inUse : (s.rill p).active.contains l = true := by rw [Port.active, one, whole]; exact used
    have active : ((s.rill p).faulted l).active = ((List.range 9).filter fun y => !([x, l] : List Nat).contains y).take 4 := by
      simp [Port.active, Port.faulted, one]
    rw [← active] at width
    obtain ⟨pay, eq⟩ := laneFault_kept up inUse bad (by omega)
    obtain ⟨_, _, narrowed, shown, _⟩ := laneFault_shown rfl
    exact ⟨_, eq, by rw [shown, width], by rw [narrowed, one]; rfl⟩
  · intro retrains sendable
    have rill := rill_put_same s p { s.rill p with retraining := false } { s with ports := Tab.put s.ports p { s.rill p with retraining := false } } rfl
    obtain ⟨gone, out, unacked, retraining, eq⟩ := flitsOut_all
      (s := { s with ports := Tab.put s.ports p { s.rill p with retraining := false } }) (p := p) (flitSum (s.rill p).waiting)
      (by rw [rill]) (by rw [rill]; exact sendable)
    rw [rill] at out unacked retraining
    exact ⟨_, if_pos retrains, retraining, gone, out, unacked, eq⟩
  · exact fun trained => if_neg (by simp [trained])
  · exact fun cls msg => ⟨portOf_free, fun q => portOf_some⟩
  · exact fun msg op out => ⟨sendLink_held out, sendLink_sent out⟩
end


section
/-! PROOFS. Fronthaul flows, frames and symbols (15_host_fronthaul_timing.md, R384 to R392, R400). -/

namespace Sys2Proof.Machine

/-! ### Flows and grids (R386) -/

/-- What a CELL_CONFIG SET within its limits does once its flow is gone. -/
def State.cellSet (t : State) (s : State) (k : Nat) (f : Flow) : Ended :=
  if t.cellBusy f then s.fails msBusy 0
  else
    match t.gridFor f.dst with
    | none => s.fails msLimit 72
    | some g =>
      if (Tab.find? t.grids g).isNone && decide (2 ^ 28 < t.stagedBytes + f.staging) then s.fails msLimit 72
      else
        State.ends (State.showGrid
          { (if (Tab.find? t.grids g).isNone then t.newGrid g f else t) with
            flows := Tab.put (if (Tab.find? t.grids g).isNone then t.newGrid g f else t).flows k { f with grid := g } } g)

theorem cellConfigSet_due {s : State} {mb : Nat} (due : MailboxDue s (.cellConfigSet mb)) (inside : s.cellLimit mb = none) :
    exec (.cellConfigSet mb) s = .next (((s.dropFlow (s.pay mb 0 2)).cellSet s (s.pay mb 0 2) (s.flowArg mb)).answered mb) := by
  refine (exec_due rfl due).trans ?_
  dsimp only
  rw [inside]
  rfl

theorem cellConfigSet_limit {s : State} {mb : Nat} {e : Err} (due : MailboxDue s (.cellConfigSet mb)) (outside : s.cellLimit mb = some e) :
    exec (.cellConfigSet mb) s = .next (s.mbAnswer mb e.1 e.2 []) := by
  refine (exec_due rfl due).trans ?_
  dsimp only
  rw [outside]
  rfl

/-- The lowest free number. -/
theorem gridFor_lowest {t : State} {f : Flow} {g : Nat} (new : t.gridAt f.dst = none) (low : g < 64) (unused : Tab.find? t.grids g = none)
    (below : ∀ i < g, (Tab.find? t.grids i).isSome = true) : t.gridFor f.dst = some g := by
  rw [State.gridFor, new]
  dsimp only
  rw [List.find?_eq_some_iff_getElem]
  refine ⟨by simp [unused], g, by simpa using low, by simp, fun i lt => ?_⟩
  simpa [Option.isSome_iff_ne_none] using below i lt

section
variable {t s : State} {k : Nat} {f : Flow}

theorem cellSet_busy (busy : t.cellBusy f = true) : t.cellSet s k f = s.fails msBusy 0 := if_pos busy

variable (free : t.cellBusy f = false)
include free

theorem cellSet_joins {g : Nat} (at' : t.gridAt f.dst = some g) (there : (Tab.find? t.grids g).isSome = true) :
    t.cellSet s k f = ({ t with flows := Tab.put t.flows k { f with grid := g } }.showGrid g).ends := by
  have old : (Tab.find? t.grids g).isNone = false := by simpa [Option.isSome_iff_ne_none] using there
  rw [State.cellSet, if_neg (by simp [free]), State.gridFor, at']
  simp only [old, Bool.false_and, Bool.false_eq_true, if_false]

theorem cellSet_full (new : t.gridAt f.dst = none) (full : ∀ g < 64, (Tab.find? t.grids g).isSome = true) :
    t.cellSet s k f = s.fails msLimit 72 := by
  have none' : (List.range 64).find? (fun g => (Tab.find? t.grids g).isNone) = none := by
    refine List.find?_eq_none.mpr fun g mem => ?_
    simpa [Option.isSome_iff_ne_none] using full g (List.mem_range.mp mem)
  rw [State.cellSet, if_neg (by simp [free]), State.gridFor, new]
  dsimp only
  rw [none']

variable {g : Nat} (new : t.gridAt f.dst = none) (low : g < 64) (unused : Tab.find? t.grids g = none)
  (below : ∀ i < g, (Tab.find? t.grids i).isSome = true)
include new low unused below

theorem cellSet_crowded (much : 2 ^ 28 < t.stagedBytes + f.staging) : t.cellSet s k f = s.fails msLimit 72 := by
  rw [State.cellSet, if_neg (by simp [free]), gridFor_lowest new low unused below]
  exact if_pos (by rw [unused]; exact decide_eq_true much)

theorem cellSet_begins (fits : t.stagedBytes + f.staging ≤ 2 ^ 28) :
    t.cellSet s k f = ({ t.newGrid g f with flows := Tab.put t.flows k { f with grid := g } }.showGrid g).ends := by
  rw [State.cellSet, if_neg (by simp [free]), gridFor_lowest new low unused below]
  dsimp only
  have fits' : decide (2 ^ 28 < t.stagedBytes + f.staging) = false := decide_eq_false (by omega)
  rw [fits', Bool.and_false, unused]
  rfl

end

/-- A new grid has nothing staged and its two registers at its start. -/
theorem newGrid_shown (t : State) (g : Nat) (f : Flow) : ∃ x : Grid, (t.newGrid g f).grids = Tab.put t.grids g x ∧ x.dst = f.dst ∧ x.staged = [] ∧
    x.claim = none ∧ (t.timeSet? = false → x.written = []) ∧ (t.newGrid g f).reg (rk .FH_GRID_DST 0 g) = BitVec.ofNat 64 f.dst ∧
    (t.newGrid g f).reg (rk .FH_GRID 0 g) = 0 ∧
    (∀ r : RegKey, r ≠ rk .FH_GRID_DST 0 g → r ≠ rk .FH_GRID 0 g → (t.newGrid g f).reg r = t.reg r) ∧
    t.newGrid g f = { t with grids := (t.newGrid g f).grids, regs := (t.newGrid g f).regs } := by
  refine ⟨_, rfl, rfl, rfl, rfl, fun unset => if_neg (by simp [unset]), State.reg_setReg_same .., ?_, fun r dst grid => ?_, rfl⟩
  · exact (State.reg_setReg_other _ _ (by simp [rk])).trans (State.reg_setReg_same ..)
  · exact (State.reg_setReg_other _ _ dst).trans (State.reg_setReg_other _ _ grid)

/-- A flow dropped: it is gone, and no other flow, descriptor or byte changes. -/
theorem dropFlow_shown (s : State) (k : Nat) : Tab.find? (s.dropFlow k).flows k = none ∧
    (∀ n, n ≠ k → Tab.find? (s.dropFlow k).flows n = Tab.find? s.flows n) ∧ (s.dropFlow k).jobs = s.jobs ∧ (s.dropFlow k).dev = s.dev := by
  have filled (t : State) (q n : Nat) : (t.slotFill q n false).flows = t.flows ∧ (t.slotFill q n false).jobs = t.jobs ∧ (t.slotFill q n false).dev = t.dev := by
    refine ⟨of_rest State.flows (rest_slotFill ..), of_rest State.jobs (rest_slotFill ..), ?_⟩
    unfold State.slotFill
    split
    · exact sendLink_field t _ _ State.dev
    · rfl
  unfold State.dropFlow
  split
  · next absent => exact ⟨absent, fun _ _ => rfl, rfl, rfl⟩
  · next f _ =>
    have gone : Tab.find? (Tab.del s.flows k) k = none := Tab.find?_del_same ..
    have others (n : Nat) (other : n ≠ k) : Tab.find? (Tab.del s.flows k) n = Tab.find? s.flows n := Tab.find?_del_other _ other
    dsimp only
    split
    · have token : ∀ u : State, u.flows = Tab.del s.flows k ∧ u.jobs = s.jobs ∧ u.dev = s.dev →
          Tab.find? u.flows k = none ∧ (∀ n, n ≠ k → Tab.find? u.flows n = Tab.find? s.flows n) ∧ u.jobs = s.jobs ∧ u.dev = s.dev :=
        fun u ⟨flows, jobs, dev⟩ => ⟨by rw [flows, gone], fun n other => by rw [flows, others n other], jobs, dev⟩
      refine token _ ?_
      dsimp only [State.showGrid, State.setFld, State.setReg]
      split
      · split
        · exact filled { s with flows := Tab.del s.flows k } _ _
        · exact ⟨rfl, rfl, rfl⟩
      · exact ⟨rfl, rfl, rfl⟩
    · exact ⟨gone, others, rfl, rfl⟩

/-! ### Frames (R384, R385, R390) -/

section
variable {s : State} {p : Nat}

theorem frameReceive_off (off : s.bit (rk .FH_PORT_CFG 0 p) 48 = false ∨ s.bit (rk .FH_PORT_STATUS 0 p) 0 = false) (ok : Bool) (bs : List Byte) :
    exec (.frameReceive p ok bs) s = .next s := by
  refine if_pos ?_
  rcases off with off | off <;> simp [off]

variable (enabled : s.bit (rk .FH_PORT_CFG 0 p) 48 = true) (up : s.bit (rk .FH_PORT_STATUS 0 p) 0 = true)
include enabled up

theorem frameReceive_badSequence (bs : List Byte) :
    exec (.frameReceive p false bs) s = .next ((s.bump (rk .FH_RX_FRAMES 0 p)).bump (rk .FH_DROP_FCS 0 p)) := by
  rw [exec_frameReceive, execFrameReceive, if_neg (by simp [enabled, up]), if_pos (by simp)]

theorem frameReceive_unparsed {bs : List Byte} (none' : parseFrame (s.fld (rk .FH_PORT_CFG 0 p) 0 48) bs = none) :
    exec (.frameReceive p true bs) s = .next ((s.bump (rk .FH_RX_FRAMES 0 p)).bump (rk .FH_DROP_OTHER 0 p)) := by
  have same : (s.bump (rk .FH_RX_FRAMES 0 p)).fld (rk .FH_PORT_CFG 0 p) 0 48 = s.fld (rk .FH_PORT_CFG 0 p) 0 48 :=
    State.fld_setReg_other _ _ _ _ (by simp [rk])
  rw [exec_frameReceive, execFrameReceive, if_neg (by simp [enabled, up]), if_neg (by simp)]
  dsimp only
  rw [same, none']

variable {bs : List Byte} {m : UMsg} (parsed : parseFrame (s.fld (rk .FH_PORT_CFG 0 p) 0 48) bs = some m)
include parsed

theorem frameReceive_stray (free : ∀ e ∈ s.flows, ¬ (e.2.port = p ∧ e.2.eaxc = m.eaxc)) : exec (.frameReceive p true bs) s =
    .next (if strayBad (s.bit (rk .FH_PORT_CFG 0 p) 49) (m.body.length + 1) m.body = true
      then (s.bump (rk .FH_RX_FRAMES 0 p)).bump (rk .FH_DROP_OTHER 0 p) else (s.bump (rk .FH_RX_FRAMES 0 p)).bump (rk .FH_DROP_NOFLOW 0 p)) := by
  have same : (s.bump (rk .FH_RX_FRAMES 0 p)).fld (rk .FH_PORT_CFG 0 p) 0 48 = s.fld (rk .FH_PORT_CFG 0 p) 0 48 :=
    State.fld_setReg_other _ _ _ _ (by simp [rk])
  have static : (s.bump (rk .FH_RX_FRAMES 0 p)).bit (rk .FH_PORT_CFG 0 p) 49 = s.bit (rk .FH_PORT_CFG 0 p) 49 :=
    bit_congr (State.reg_bump_other _ _ (by simp [rk])) 49
  have stray : List.find? (fun e : Nat × Flow => e.2.port = p && e.2.eaxc = m.eaxc) s.flows = none :=
    List.find?_eq_none.mpr fun e mem => by simpa using free e mem
  rw [exec_frameReceive, execFrameReceive, if_neg (by simp [enabled, up]), if_neg (by simp)]
  dsimp only
  rw [same, parsed]
  dsimp only
  rw [State.bump_flows, stray, static]
  dsimp only
  split <;> rfl

theorem frameReceive_takes {e : Nat × Flow} {xs : List Sect}
    (hit : List.find? (fun x : Nat × Flow => x.2.port = p && x.2.eaxc = m.eaxc) s.flows = some e) (inside : m.slot < 2 ^ e.2.mu)
    (whole : sections (s.bit (rk .FH_PORT_CFG 0 p) 49) (e.2.rbs, e.2.w) (m.body.length + 1) 0 m.body = some xs) :
    exec (.frameReceive p true bs) s = .next ((s.bump (rk .FH_RX_FRAMES 0 p)).takeMessage p e.1 e.2 m xs) := by
  have same : (s.bump (rk .FH_RX_FRAMES 0 p)).fld (rk .FH_PORT_CFG 0 p) 0 48 = s.fld (rk .FH_PORT_CFG 0 p) 0 48 :=
    State.fld_setReg_other _ _ _ _ (by simp [rk])
  have static : (s.bump (rk .FH_RX_FRAMES 0 p)).bit (rk .FH_PORT_CFG 0 p) 49 = s.bit (rk .FH_PORT_CFG 0 p) 49 :=
    bit_congr (State.reg_bump_other _ _ (by simp [rk])) 49
  rw [exec_frameReceive, execFrameReceive, if_neg (by simp [enabled, up]), if_neg (by simp)]
  dsimp only
  rw [same, parsed]
  dsimp only
  rw [State.bump_flows, hit, static]
  dsimp only
  rw [whole]
  exact if_neg (by omega)

end

/-- The header of a body's first section decides a stray frame, or its lengths lead to the next. -/
theorem strayBad_cases (n : Nat) (static : Bool) (bs : List Byte) :
    let h := beAt bs 0 4
    let c := beAt bs 4 1
    let len := 6 + h % 256 * prbBytes (if c / 16 = 0 then 16 else c / 16)
    (bs = [] → strayBad static (n + 1) bs = false) ∧
    (bs ≠ [] → Sys2Proof.bitOf h 19 = true → strayBad static (n + 1) bs = true) ∧
    (bs ≠ [] → Sys2Proof.bitOf h 19 = false → static = true → strayBad static (n + 1) bs = false) ∧
    (bs ≠ [] → Sys2Proof.bitOf h 19 = false → static = false → strayBad static (n + 1) bs =
      if c % 16 ≠ 1 then true else if h % 256 = 0 then false else if bs.length < len then true else strayBad false n (bs.drop len)) := by
  intro h c len
  have unfolds : strayBad static (n + 1) bs = if bs.isEmpty then false else if Sys2Proof.bitOf h 19 then true else if static then false
      else if c % 16 ≠ 1 then true else if h % 256 = 0 then false else if bs.length < len then true else strayBad static n (bs.drop len) := rfl
  refine ⟨fun empty => ?_, fun some' reserved => ?_, fun some' plain fixed => ?_, fun some' plain free => ?_⟩
  · rw [unfolds, if_pos (by simp [empty])]
  · rw [unfolds, if_neg (by simpa using some'), if_pos reserved]
  · rw [unfolds, if_neg (by simpa using some'), if_neg (by simp [plain]), if_pos fixed]
  · rw [unfolds, if_neg (by simpa using some'), if_neg (by simp [plain]), if_neg (by simp [free]), free]

/-! ### Symbols (R388, R391, R392) -/

theorem rest_gridToken (s : State) (k : Nat) (g : Grid) (f : Flow) (n : Nat) : (s.gridToken k g f n).1.rest = s.rest := by
  unfold State.gridToken
  split
  · rfl
  · split
    · rfl
    · split
      · rfl
      · split
        · exact rest_slotClaim ..
        · exact (rest_raise ..).trans rfl

theorem rest_gridDone (s : State) (k : Nat) (g : Grid) (f : Flow) (n : Nat) : (s.gridDone k g f n).1.rest = s.rest := by
  unfold State.gridDone
  split
  · rfl
  · split
    · rfl
    · dsimp only
      split
      · split
        · exact (rest_slotFill ..).trans rfl
        · rfl
      · rfl

theorem gridDone_grid (s : State) (k : Nat) (g : Grid) (f : Flow) (n : Nat) :
    (s.gridDone k g f n).2.staged = g.staged ∧ (s.gridDone k g f n).2.written = g.written := by
  unfold State.gridDone
  split
  · exact ⟨rfl, rfl⟩
  · split
    · exact ⟨rfl, rfl⟩
    · dsimp only
      split
      · split <;> exact ⟨rfl, rfl⟩
      · exact ⟨rfl, rfl⟩

theorem rest_writeRows (s : State) (f : Flow) (ps : List Prb) (n sym : Nat) : (s.writeRows f ps n sym).rest = s.rest :=
  rest_foldl _ _ s fun _ _ => (rest_bump ..).trans ((rest_bump ..).trans (rest_writeAt ..))

/-- A symbol written or discarded with its slot: it counts as written, its samples are no longer staged, and no other grid changes. -/
theorem writeSymbol_shown (s : State) (k : Nat) (g : Grid) (f : Flow) (fs : List Flow) (n sym : Nat) : ∃ h : Grid,
    (s.writeSymbol k g f fs n sym).grids = Tab.put s.grids k h ∧ (n, sym) ∈ h.written ∧ h.staged = g.staged.filter (fun x => !(x.slot = n && x.sym = sym)) ∧
      (s.writeSymbol k g f fs n sym).flows = s.flows := by
  have written (u : State) (same : u.rest = s.rest) (ps : List Prb) (b : Bool) :
      (if b then (u.bump (rk .FH_MISSING_PRB) (symMissing fs ps)).writeRows f ps n sym else u).rest = s.rest := by
    split
    · exact (rest_writeRows ..).trans same
    · exact same
  unfold State.writeSymbol
  dsimp only
  generalize hu : (if (s.gridToken k g f n).2.2 = true then _ else _ : State) = u
  have same : u.rest = s.rest := hu ▸ written _ (rest_gridToken ..) _ _
  generalize hh : ({ (s.gridToken k g f n).2.1 with staged := _, written := _ } : Grid) = h
  obtain ⟨staged, past⟩ := gridDone_grid u k h f n
  refine ⟨_, congrArg (Tab.put · k _) (of_rest State.grids ((rest_gridDone ..).trans same)), ?_, ?_, of_rest State.flows ((rest_gridDone ..).trans same)⟩
  · rw [past, ← hh]
    simp
  · rw [staged, ← hh]

section
variable {s : State} {k y : Nat} {g : Grid} {f : Flow} {r : List Flow} (there : Tab.find? s.grids k = some g) (flows : s.gridFlows k = f :: r)
  (inside : y < f.symbols)
include there flows inside

theorem symbolWrite_idle (idle : s.dueSlot g f (f :: r) y = none) : exec (.symbolWrite k y) s = .next s := by
  rw [exec_symbolWrite, execSymbolWrite, there]
  dsimp only
  rw [flows]
  dsimp only
  rw [if_neg (by omega), idle]

theorem symbolWrite_due {n : Nat} (due : s.dueSlot g f (f :: r) y = some n) :
    exec (.symbolWrite k y) s = .next (s.writeSymbol k g f (f :: r) n y) := by
  rw [exec_symbolWrite, execSymbolWrite, there]
  dsimp only
  rw [flows]
  dsimp only
  rw [if_neg (by omega), due]

end

/-! ### Windows and ports (R389, R390, R400) -/

/-- A message by its flow's window, once its sequence value is counted. -/
def State.windowed (s : State) (p : Nat) (f : Flow) (m : UMsg) (xs : List Sect) : State :=
  let n := nearestFrame s.frameOff s.now m.frame * frameSlots f.mu + m.subframe * 2 ^ f.mu + m.slot
  let t := symTime s.frameOff f.mu n m.sym
  if s.now < t + f.early then s.bump (rk .FH_DROP_EARLY 0 p)
  else if t + f.late < s.now then s.bump (rk .FH_DROP_LATE 0 p)
  else
    match Tab.find? s.grids f.grid with
    | none => s
    | some g =>
      if g.written.contains (n, m.sym) then s.bump (rk .FH_DROP_DUP 0 p)
      else { s with grids := Tab.put s.grids f.grid (g.stage (xs.flatMap fun x => x.prbs f n m.sym)) }

theorem windowed_cases (s : State) (p : Nat) (f : Flow) (m : UMsg) (xs : List Sect) :
    let n := nearestFrame s.frameOff s.now m.frame * frameSlots f.mu + m.subframe * 2 ^ f.mu + m.slot
    let t := symTime s.frameOff f.mu n m.sym
    (s.now < t + f.early → s.windowed p f m xs = s.bump (rk .FH_DROP_EARLY 0 p)) ∧
    (t + f.early ≤ s.now → t + f.late < s.now → s.windowed p f m xs = s.bump (rk .FH_DROP_LATE 0 p)) ∧
    (t + f.early ≤ s.now → s.now ≤ t + f.late → ∀ g, Tab.find? s.grids f.grid = some g →
      ((n, m.sym) ∈ g.written → s.windowed p f m xs = s.bump (rk .FH_DROP_DUP 0 p)) ∧
      ((n, m.sym) ∉ g.written → s.windowed p f m xs = { s with grids := Tab.put s.grids f.grid (g.stage (xs.flatMap fun x => x.prbs f n m.sym)) })) := by
  intro n t
  refine ⟨fun early => if_pos early, fun open' late => (if_neg (Nat.not_lt.mpr open')).trans (if_pos late), fun open' shut g there => ⟨fun past => ?_, fun fresh => ?_⟩⟩
  all_goals
    refine ((if_neg (Nat.not_lt.mpr open')).trans (if_neg (Nat.not_lt.mpr shut))).trans ?_
    rw [there]
  · exact if_pos (by simpa using past)
  · exact if_neg (by simpa using fresh)

theorem takeMessage_window (s : State) (p k : Nat) (f : Flow) (m : UMsg) (xs : List Sect) :
    let n := nearestFrame s.frameOff s.now m.frame * frameSlots f.mu + m.subframe * 2 ^ f.mu + m.slot
    let t := symTime s.frameOff f.mu n m.sym
    let u : State := { s.bump (rk .FH_SEQ_GAPS 0 p) (f.gap m.seq) with flows := Tab.put s.flows k { f with lastSeq := some m.seq } }
    (s.now < t + f.early → s.takeMessage p k f m xs = u.bump (rk .FH_DROP_EARLY 0 p)) ∧
    (t + f.early ≤ s.now → t + f.late < s.now → s.takeMessage p k f m xs = u.bump (rk .FH_DROP_LATE 0 p)) ∧
    (t + f.early ≤ s.now → s.now ≤ t + f.late → ∀ g, Tab.find? s.grids f.grid = some g →
      ((n, m.sym) ∈ g.written → s.takeMessage p k f m xs = u.bump (rk .FH_DROP_DUP 0 p)) ∧
      ((n, m.sym) ∉ g.written → s.takeMessage p k f m xs = { u with grids := Tab.put s.grids f.grid (g.stage (xs.flatMap fun x => x.prbs f n m.sym)) })) := by
  intro n t u
  have now : u.now = s.now := congrArg BitVec.toNat (State.reg_bump_other s (k := rk .FH_SEQ_GAPS 0 p) _ (by simp [rk]))
  have offset : u.frameOff = s.frameOff := rfl
  have cases := windowed_cases u p f m xs
  rw [now, offset] at cases
  exact cases

theorem isReady_fronthaul (s : State) {p : Nat} (port : p < 2) : s.isReady (400 + p) = s.own (400 + p) := by
  unfold State.isReady
  iterate 13 rw [if_neg (by omega)]
  rw [if_pos (by omega)]

/-- A port's state shown, before it is reported. -/
def State.frontShown (s : State) (p : Nat) (up : Bool) : State :=
  ((s.setFld (rk .FH_PORT_STATUS 0 p) 0 1 (flagNat up)).setOwn (400 + p) up).settle

theorem fhPortState_changes {s : State} {p : Nat} {up : Bool} (power : s.powerGood = true) (change : s.bit (rk .FH_PORT_STATUS 0 p) 0 ≠ up)
    (port : p < 2) : exec (.fhPortState p up) s = .next ((s.frontShown p up).raise 0x110 devHandle (payload [(24, 1, p), (25, 1, flagNat up)])) ∧
      (s.frontShown p up).bit (rk .FH_PORT_STATUS 0 p) 0 = up ∧ (s.frontShown p up).isReady (400 + p) = up := by
  refine ⟨if_neg (by simp [power, change]), ?_, ?_⟩
  · exact (bit_congr ((settles_settle _).reg _ (show RegName.FH_PORT_STATUS ∉ settleRegs by decide)) 0).trans (bit_setFld_flag s _ (by decide) up)
  · rw [isReady_fronthaul _ port]
    exact (own_settle _ (by omega)).trans ((own_setOwn ..).trans (if_pos rfl))

end Sys2Proof.Machine

open Sys2Proof.Machine in
/-- Settles O48: a flow's grid by what is there, a frame by the first check that fails, a symbol by the slot that is due. -/
theorem fronthaulPlacesFramesAndWritesSymbols : Obligations.FronthaulPlacesFramesAndWritesSymbols := by
  unfold Obligations.FronthaulPlacesFramesAndWritesSymbols
  refine ⟨fun mb s => ?_, fun p ok bs s => ?_, fun n static bs => strayBad_cases n static bs, takeMessage_window, fun k y n g f r s there flows inside => ⟨?_, ?_⟩,
    fun p up s port => ⟨?_, ?_⟩⟩
  · refine ⟨fun e => cellConfigSet_limit, fun due inside => ?_, fun due low => ?_⟩
    · rw [cellConfigSet_due due inside]
      refine ⟨fun absent => ?_, fun busy => ?_, fun g free at' there => ?_, fun free new full => ?_, fun g low free new unused below => ⟨fun much => ?_, fun fits => ?_⟩⟩
      · rw [State.dropFlow, absent]
      · rw [cellSet_busy busy]
        rfl
      · rw [cellSet_joins free at' there]
        rfl
      · rw [cellSet_full free new full]
        rfl
      · rw [cellSet_crowded free new low unused below much]
        rfl
      · obtain ⟨x, shown⟩ := newGrid_shown (s.dropFlow (s.pay mb 0 2)) g (s.flowArg mb)
        rw [cellSet_begins free new low unused below fits]
        exact ⟨_, x, rfl, shown⟩
    · obtain ⟨gone, others, jobs, dev⟩ := dropFlow_shown s (s.pay mb 0 2)
      refine ⟨_, (exec_due rfl due).trans ?_, gone, others, jobs, dev⟩
      rw [if_neg (by omega)]
      rfl
  · exact ⟨fun off => frameReceive_off off ok bs, fun enabled up => ⟨frameReceive_badSequence enabled up bs, frameReceive_unparsed enabled up,
      fun m parsed => ⟨frameReceive_stray enabled up parsed, fun e xs => frameReceive_takes enabled up parsed⟩⟩⟩
  · exact symbolWrite_idle there flows inside
  · intro due
    obtain ⟨h, grids, past, staged, kept⟩ := writeSymbol_shown s k g f (f :: r) n y
    exact ⟨_, h, symbolWrite_due there flows inside due, by rw [grids, Tab.find?_put_same], past, staged,
      fun i other => by rw [grids, Tab.find?_put_other _ _ other], kept⟩
  · intro idle
    refine if_pos ?_
    rcases idle with off | same
    · simp [off]
    · simp [same]
  · intro power change
    exact ⟨_, fhPortState_changes power change port⟩
end


section
/-! PROOFS. The tokens of a descriptor that ends or waits (10_basin_pools.md, R257 to R262). -/

namespace Sys2Proof.Machine

/-! ### Tokens filled or given back -/

/-- A slot's token is there as `ok` says, and nobody claims it. -/
def State.tokenIs (s : State) (k : RegKey) (ok : Bool) : Prop := s.bit k 32 = ok ∧ s.bit k 33 = false

theorem tokenIs_congr {s t : State} {k : RegKey} {ok : Bool} (same : t.reg k = s.reg k) (is : s.tokenIs k ok) : t.tokenIs k ok :=
  ⟨(bit_congr same 32).trans is.1, (bit_congr same 33).trans is.2⟩

theorem tokenIs_slotFill {s : State} {q : Nat} (here : isRemote q = false) (n : Nat) (ok : Bool) (op : Nat) :
    (s.slotFill q n ok op).tokenIs (s.slotKey q n) ok := by
  rw [slotFill_eq_local here]
  exact ⟨bit_setFld_flag _ _ (by decide) ok,
    (bit_setFld_apart _ _ _ _ _ _ (by decide) (by decide)).trans (bit_setFld_flag _ _ (by decide) false)⟩

theorem reg_slotFill_apart {s : State} {q : Nat} (here : isRemote q = false) (n : Nat) (ok : Bool) (op : Nat) {k : RegKey} (apart : k ≠ s.slotKey q n) :
    (s.slotFill q n ok op).reg k = s.reg k := by
  rw [slotFill_eq_local here, State.reg_setFld_other _ _ _ _ apart, State.reg_setFld_other _ _ _ _ apart]

/-- The tokens of a list of this module's slots, each set as `ok` says. -/
def State.setTokens (s : State) (cs : List (Nat × Nat)) (ok : Bool) (op : Nat) : State := cs.foldl (fun s c => s.slotFill c.1 c.2 ok op) s

theorem rest_setTokens (s : State) (cs : List (Nat × Nat)) (ok : Bool) (op : Nat) : (s.setTokens cs ok op).rest = s.rest :=
  rest_foldl _ cs s fun t c => rest_slotFill_op t c.1 c.2 ok op

section
variable {cs : List (Nat × Nat)} (here : ∀ c ∈ cs, isRemote c.1 = false)
include here

theorem reg_setTokens_apart (s : State) (ok : Bool) (op : Nat) {k : RegKey} (apart : ∀ c ∈ cs, k ≠ s.slotKey c.1 c.2) :
    (s.setTokens cs ok op).reg k = s.reg k := by
  refine List.foldlRecOn (motive := fun t : State => t.reg k = s.reg k ∧ t.rest = s.rest) _ _ ⟨rfl, rfl⟩ (fun t same c mem => ?_) |>.1
  exact ⟨(reg_slotFill_apart (here c mem) _ _ _ (slotKey_of_rest same.2 c.1 c.2 ▸ apart c mem)).trans same.1, (rest_slotFill_op ..).trans same.2⟩

/-- A token once set as `ok` says stays so, whatever slots follow. -/
theorem tokenIs_setTokens_of_is (s : State) (ok : Bool) (op : Nat) {k : RegKey} (is : s.tokenIs k ok) : (s.setTokens cs ok op).tokenIs k ok := by
  refine List.foldlRecOn (motive := fun t : State => t.tokenIs k ok) _ _ is fun t held c mem => ?_
  by_cases same : k = t.slotKey c.1 c.2
  · exact same ▸ tokenIs_slotFill (here c mem) _ ok op
  · exact tokenIs_congr (reg_slotFill_apart (here c mem) _ _ _ same) held

theorem tokenIs_setTokens (s : State) (ok : Bool) (op : Nat) {c : Nat × Nat} (mem : c ∈ cs) : (s.setTokens cs ok op).tokenIs (s.slotKey c.1 c.2) ok := by
  induction cs generalizing s with
  | nil => cases mem
  | cons x r ih =>
    have rest : ∀ c ∈ r, isRemote c.1 = false := fun c mem => here c (List.mem_cons_of_mem _ mem)
    rcases List.mem_cons.mp mem with rfl | mem
    · exact tokenIs_setTokens_of_is rest _ ok op (tokenIs_slotFill (here c (by simp)) _ ok op)
    · exact slotKey_of_rest (rest_slotFill_op s x.1 x.2 ok op) c.1 c.2 ▸ ih rest (s.slotFill x.1 x.2 ok op) mem

end

/-- A descriptor ended after its tokens are set: the tokens, the other registers, and its place among the descriptors. -/
theorem endJob_tokens {s t : State} {j e : Job} {cs : List (Nat × Nat)} {ok : Bool} {op status detail : Nat} (here : ∀ c ∈ cs, isRemote c.1 = false)
    (ended : t = (s.setTokens cs ok op).endJob e status detail) (jid : e.jid = j.jid) :
    (∀ c ∈ cs, t.slotFull c.1 c.2 = ok ∧ t.slotClaimed c.1 c.2 = false) ∧
    (∀ k : RegKey, (∀ c ∈ cs, k ≠ s.slotKey c.1 c.2) ∧ k.name ≠ .JT_STATUS ∧ k.name ≠ .SE_STATUS → t.reg k = s.reg k) ∧
    t.job? j.jid = some (e.finished status detail s.tk) := by
  subst ended
  refine ⟨fun c mem => ?_, fun k apart => ?_, ?_⟩
  · have key : ((s.setTokens cs ok op).endJob e status detail).slotKey c.1 c.2 = s.slotKey c.1 c.2 := by
      refine Eq.trans ?_ (slotKey_of_rest (rest_setTokens s cs ok op) c.1 c.2)
      rw [State.slotKey, State.slotKey, State.physB, State.physB, State.physT, State.physT, State.endJob_lmap]
    rw [State.slotFull, State.slotClaimed, key]
    exact tokenIs_congr (endJob_reg _ _ _ _ (show RegName.BS_SLOT ∉ storeRegs by decide)) (tokenIs_setTokens here s ok op mem)
  · exact (endJob_reg _ _ _ _ (by simp [storeRegs, apart.2])).trans (reg_setTokens_apart here s ok op apart.1)
  · have tk : (s.setTokens cs ok op).tk = s.tk := of_rest State.tk (rest_setTokens ..)
    rw [State.job?, endJob_jobs, jid, tk]
    refine List.find?_append.trans ?_
    rw [List.find?_eq_none.mpr (by simp)]
    simp [Job.finished, jid]

theorem succeed_eq (s : State) (j : Job) : s.succeed j = (s.setTokens j.claimed true (j.jid + 1)).endJob { j with claimed := [] } 0 0 := rfl

theorem failJob_tokens (s : State) (j : Job) (status detail : Nat) : s.failJob j status detail =
    ((s.shutGroups j).setTokens j.claimed false (j.jid + 1)).endJob { j with claimed := [], reads := [] } status detail := rfl

theorem shutGroups_reg (s : State) (j : Job) (k : RegKey) : (s.shutGroups j).reg k = s.reg k :=
  shutGroups_keeps (fun t : State => t.reg k) (fun _ _ _ => rfl) s j

theorem shutGroups_slotKey (s : State) (j : Job) (q n : Nat) : (s.shutGroups j).slotKey q n = s.slotKey q n :=
  shutGroups_keeps (fun t : State => t.slotKey q n) (fun _ _ _ => rfl) s j

/-! ### Waits (R258, R259) -/

/-- A stall changes nothing that a wait looks at. -/
theorem awaitsBlock_stall (s : State) (q n : Nat) (j : Job) : (s.stall q n).awaitsBlock j = s.awaitsBlock j := by
  unfold State.stall
  split <;> rfl

theorem proceed_waits {s u : State} {j i : Job} {o : Op} {x : Nat × Nat}
    (took : s.takeTokens j (s.readSlots j o) (s.slotsOf (o.writes j)) = (u, i, some x)) : s.proceed j o = u.waitToken i .waiting (some x) := by
  rw [State.proceed]
  dsimp only
  rw [took]

theorem proceed_runs {s u : State} {j i : Job} {o : Op}
    (took : s.takeTokens j (s.readSlots j o) (s.slotsOf (o.writes j)) = (u, i, none)) : s.proceed j o =
      o.run (u.putJob { i with reads := s.readSlots j o, phase := .waiting, waitOn := none }) { i with reads := s.readSlots j o, phase := .waiting, waitOn := none } := by
  rw [State.proceed]
  dsimp only
  rw [took]

section
variable {s : State} {jid n : Nat} {j : Job} {c : Nat × Nat} (found : s.job? jid = some j) (waits : j.phase = .waiting ∨ j.phase = .drainWait)
  (on : j.waitOn = some c)
include found waits on

omit found in
theorem waits_of : j.waits = true := by
  rcases waits with phase | phase <;> simp [Job.waits, phase, on]

omit waits in
theorem slotWaitEnd_lacking (lacks : s.missing j = some c) : exec (.slotWaitEnd ⟨jid, n⟩) s = .next s := by
  rw [exec_slotWaitEnd, execSlotWaitEnd, State.whenJob_eq found, if_neg (by simp [lacks, on])]

omit waits on in
theorem slotWaitEnd_closing (closing : (s.awaitsBlock j && j.d.usesGroup && s.accBusy { j with bm := (s.bounds j).1 }) = true) :
    exec (.slotWaitEnd ⟨jid, n⟩) s = .next s := by
  rw [exec_slotWaitEnd, execSlotWaitEnd, State.whenJob_eq found, if_neg (by simp [closing])]

theorem slotWaitEnd_there (there : s.missing j ≠ some c) (open' : (s.awaitsBlock j && j.d.usesGroup && s.accBusy { j with bm := (s.bounds j).1 }) = false) :
    exec (.slotWaitEnd ⟨jid, n⟩) s = .next (if j.phase = .drainWait then (s.stall (basinOf j.unit) n).tryDrain j
      else if s.awaitsBlock j then (s.stall (basinOf j.unit) n).issueBlock j (opOf (s.stall (basinOf j.unit) n) j.d)
      else (s.stall (basinOf j.unit) n).proceed j (opOf (s.stall (basinOf j.unit) n) j.d)) := by
  have met : (j.waits && decide (s.missing j ≠ j.waitOn) && !(s.awaitsBlock j && j.d.usesGroup && s.accBusy { j with bm := (s.bounds j).1 })) = true := by
    refine Bool.and_eq_true_iff.mpr ⟨?_, (congrArg not open' :)⟩
    rw [waits_of waits on, on]
    simpa using there
  rw [exec_slotWaitEnd, execSlotWaitEnd, State.whenJob_eq found, if_pos met, ← awaitsBlock_stall s (basinOf j.unit) n]

omit waits in
theorem slotTimeout_there (there : s.missing j ≠ some c) : exec (.slotTimeout jid) s = .next s := by
  rw [exec_slotTimeout, execSlotTimeout, State.whenJob_eq found, if_neg (by simp [on, there])]

theorem slotTimeout_lacking (lacks : s.missing j = some c) : exec (.slotTimeout jid) s =
    .next (if 20 * 2 ^ s.watchdog c.1 j.cls ≤ s.tk - j.waitFrom
      then (s.bump (rk .BS_SLOT_TIMEOUTS (s.physB c.1))).failJob j stSlotTimeout (0x200 + c.1 + 2 ^ 16 * c.2) else s) := by
  rw [exec_slotTimeout, execSlotTimeout, State.whenJob_eq found, if_pos (by rw [waits_of waits on, on, lacks]; simp), on]

end

end Sys2Proof.Machine

open Sys2Proof.Machine in
/-- Settles O53: the tokens claimed are set one slot after another; a wait and its timeout go by the token that is missing. -/
theorem slotTokensFollowTheirUse : Obligations.SlotTokensFollowTheirUse := by
  unfold Obligations.SlotTokensFollowTheirUse
  refine ⟨fun s j here => ?_, fun s jid n j c found waits on => ⟨slotWaitEnd_lacking found on, fun there => ?_, fun lacks => ?_⟩,
    fun s jid n still => ?_⟩
  · obtain ⟨tokens, others, ended⟩ := endJob_tokens (j := j) here (succeed_eq s j) rfl
    refine ⟨tokens, others, ⟨_, ended, rfl, rfl, rfl, rfl⟩, fun st d => ?_⟩
    obtain ⟨tokens, others, ended⟩ := endJob_tokens (j := j) here (failJob_tokens s j st d) rfl
    refine ⟨tokens, fun k other => ?_, _, ended, rfl, rfl, rfl⟩
    refine (others k ⟨fun c mem => ?_, other.2⟩).trans (shutGroups_reg ..)
    rw [shutGroups_slotKey]
    exact other.1 c mem
  · refine ⟨fun drain => ?_, fun waiting block => ⟨fun closing => ?_, fun open' => ?_⟩, fun waiting plain => ?_, slotTimeout_there found on there⟩
    · have plain : s.awaitsBlock j = false := by simp [State.awaitsBlock, drain]
      rw [slotWaitEnd_there found waits on there (by simp [plain]), if_pos drain]
    · exact slotWaitEnd_closing found (by rw [block, closing.1, closing.2]; rfl)
    · have idle : (s.awaitsBlock j && j.d.usesGroup && s.accBusy { j with bm := (s.bounds j).1 }) = false := by
        rw [block, Bool.true_and]
        simpa using open'
      rw [slotWaitEnd_there found waits on there idle, if_neg (by simp [waiting]), if_pos block]
    · have run := slotWaitEnd_there (n := n) found waits on there (by simp [plain])
      rw [if_neg (by simp [waiting]), if_neg (by simp [plain])] at run
      exact ⟨fun u i x took => run.trans (congrArg _ (proceed_waits took)), fun u i took => run.trans (congrArg _ (proceed_runs took))⟩
  · have timeout := slotTimeout_lacking found waits on lacks
    refine ⟨fun early => timeout.trans (congrArg _ (if_neg (Nat.not_le.mpr early))), fun late => ?_⟩
    obtain ⟨tk, jobs⟩ := failJob_jobs (s.bump (rk .BS_SLOT_TIMEOUTS (s.physB c.1))) j stSlotTimeout (0x200 + c.1 + 2 ^ 16 * c.2)
    have jid' : j.jid = jid := by simpa using List.find?_some found
    refine ⟨_, { j with claimed := [], reads := [] }.finished stSlotTimeout (0x200 + c.1 + 2 ^ 16 * c.2) tk, timeout.trans (congrArg _ (if_pos late)), ?_, rfl, rfl, rfl, fun none' => ?_⟩
    · rw [State.job?, jobs]
      refine List.find?_append.trans ?_
      rw [List.find?_eq_none.mpr (by simp [jid'])]
      simp [Job.finished, jid']
    · obtain ⟨_, others, _⟩ := endJob_tokens (j := j) (by simp [none']) (failJob_tokens (s.bump (rk .BS_SLOT_TIMEOUTS (s.physB c.1))) j stSlotTimeout (0x200 + c.1 + 2 ^ 16 * c.2)) rfl
      have kept (k : RegKey) (jet : k.name ≠ .JT_STATUS) (engine : k.name ≠ .SE_STATUS) :=
        (others k ⟨by simp [none'], jet, engine⟩).trans (shutGroups_reg ..)
      refine ⟨kept _ (by simp [rk]) (by simp [rk]), fun k other jet engine => (kept k jet engine).trans (State.reg_bump_other _ _ other)⟩
  · have idle (ok : Job → Bool) (f : Job → State) (no : ∀ j : Job, j.phase ≠ .waiting ∧ j.phase ≠ .drainWait → ok j = false) : s.whenJob jid ok f = s := by
      cases found : s.job? jid with
      | none => rw [State.whenJob, found]
      | some j => rw [State.whenJob_eq found, if_neg (by simp [no j (still j found)])]
    exact ⟨congrArg _ (idle _ _ fun j out => by simp [Job.waits, out]), congrArg _ (idle _ _ fun j out => by simp [Job.waits, out])⟩
end


section
/-! PROOFS. BARRIER's rounds (11_operation_descriptors.md, R285, R286). -/

namespace Sys2Proof.Machine

/-! ### Descriptors that succeed together -/

/-- A descriptor that has ended with SUCCESS. -/
def State.succeeded (s : State) (k : Nat) : Prop := ∃ e : Job, s.job? k = some e ∧ e.phase = .done ∧ e.status = 0

/-- One arrival ended, if it is still there. -/
def State.succeedAt (s : State) (k : Nat) : State := s.whenJob k (fun _ => true) fun x => s.succeed x

theorem succeedAt_cases (s : State) (k : Nat) : s.succeedAt k = s ∧ s.job? k = none ∨ ∃ j, s.job? k = some j ∧ s.succeedAt k = s.succeed j := by
  cases found : s.job? k with
  | none => exact .inl ⟨State.whenJob_none found _ _, rfl⟩
  | some j => exact .inr ⟨j, rfl, (State.whenJob_eq found _ _).trans (if_pos rfl)⟩

theorem succeed_rounds (s : State) (j : Job) : (s.succeed j).rounds = s.rounds :=
  (State.endJob_rounds ..).trans (of_rest State.rounds (rest_setTokens s j.claimed true (j.jid + 1)))

theorem succeed_done (s : State) (j : Job) : (s.succeed j).succeeded j.jid := by
  rw [succeed_eq]
  exact ⟨_, State.job?_endJob (s.setTokens j.claimed true (j.jid + 1)) { j with claimed := [] } 0 0, rfl, rfl⟩

theorem succeed_other (s : State) (j : Job) {n : Nat} (other : n ≠ j.jid) : (s.succeed j).job? n = s.job? n := by
  have tokens : (s.setTokens j.claimed true (j.jid + 1)).job? n = s.job? n :=
    congrArg (fun l : List Job => l.find? fun x : Job => x.jid = n) (of_rest State.jobs (rest_setTokens s j.claimed true (j.jid + 1)))
  exact (State.job?_endJob_other (s.setTokens j.claimed true (j.jid + 1)) { j with claimed := [] } 0 0 n other).trans tokens

theorem succeedAt_rounds (s : State) (k : Nat) : (s.succeedAt k).rounds = s.rounds := by
  rcases succeedAt_cases s k with ⟨same, _⟩ | ⟨j, _, ends⟩
  · rw [same]
  · rw [ends, succeed_rounds]

theorem succeedAt_there {s : State} {k n : Nat} (there : (s.job? n).isSome = true) : ((s.succeedAt k).job? n).isSome = true := by
  rcases succeedAt_cases s k with ⟨same, _⟩ | ⟨j, found, ends⟩
  · rw [same, there]
  · rw [ends]
    by_cases own : n = j.jid
    · obtain ⟨e, is, _⟩ := succeed_done s j
      rw [own, is]
      rfl
    · rw [succeed_other s j own, there]

theorem succeedAt_done {s : State} {k : Nat} (there : (s.job? k).isSome = true) : (s.succeedAt k).succeeded k := by
  rcases succeedAt_cases s k with ⟨_, absent⟩ | ⟨j, found, ends⟩
  · simp [absent] at there
  · rw [ends, ← State.jid_of_job? found]
    exact succeed_done s j

theorem succeedAt_stays {s : State} {n : Nat} (k : Nat) (done : s.succeeded n) : (s.succeedAt k).succeeded n := by
  rcases succeedAt_cases s k with ⟨same, _⟩ | ⟨j, found, ends⟩
  · rwa [same]
  · rw [ends]
    by_cases own : n = j.jid
    · exact own ▸ succeed_done s j
    · rw [State.succeeded, succeed_other s j own]
      exact done

/-- Every arrival that is there ends with SUCCESS, in whatever order they are taken. -/
theorem succeedAll_done {s : State} {l : List Nat} {k : Nat} (mem : k ∈ l) (there : (s.job? k).isSome = true) :
    (l.foldl State.succeedAt s).succeeded k := by
  induction l generalizing s with
  | nil => cases mem
  | cons x r ih =>
    by_cases same : k = x
    · subst same
      exact List.foldlRecOn (motive := fun t : State => t.succeeded k) r _ (succeedAt_done there) fun t done y _ => succeedAt_stays y done
    · exact ih ((List.mem_cons.mp mem).resolve_left same) (succeedAt_there there)

theorem succeedAll_rounds (s : State) (l : List Nat) : (l.foldl State.succeedAt s).rounds = s.rounds :=
  List.foldlRecOn (motive := fun t : State => t.rounds = s.rounds) l _ rfl fun t same k _ => (succeedAt_rounds t k).trans same

/-! ### Arrivals (R286) -/

/-- A BARRIER whose ring lets it go: its round is here, it is carried to its member, or it ends. -/
theorem barrier_fenced {s : State} {jid : Nat} {j : Job} (found : s.job? jid = some j) (barrier : j.d.opcode = opBarrier) (due : s.issueDue j = true)
    (fenced : s.fenced j = true) (away : s.isHere (j.d.target / 2 ^ 16) = false) : exec (.barrier jid) s =
    .next (if s.reachable (j.d.target / 2 ^ 16) then
      (s.putJob { j with phase := .away, member := some (j.d.target / 2 ^ 16) }).linkDescriptor j (j.d.target / 2 ^ 16) else s.endJob j stLink 0) := by
  rw [exec_barrier, execBarrier, State.whenJob_eq found, if_pos (by simp [barrier, due, fenced])]
  exact congrArg _ (if_neg (by rw [away]; decide))

section
variable {s : State} {jid : Nat} {j : Job} (found : s.job? jid = some j) (sent : j.phase = .barrierSent)
include found sent

/-- An arrival as it waits for its round. -/
def State.arrived (s : State) (j : Job) : State := s.putJob { j with phase := .barrierArrived, waitFrom := s.tk }

theorem joinRound_sent (r : Round) : s.joinRound j r =
    if r.p ≤ r.arrivals.length + 1 then
      (r.arrivals ++ [jid]).foldl State.succeedAt { s.arrived j with rounds := Tab.del s.rounds j.barrierId }
    else { s.arrived j with rounds := Tab.put s.rounds j.barrierId { r with arrivals := r.arrivals ++ [jid] } } := by
  obtain rfl := State.jid_of_job? found
  rw [State.joinRound]
  dsimp only
  rw [if_pos sent, List.length_append]
  rfl

theorem arrival_opens (none' : Tab.find? s.rounds j.barrierId = none) (room : s.rounds.length < 1024) :
    exec (.barrierArrival jid) s = .next (s.joinRound j ⟨j.bn, []⟩) := by
  rw [exec_barrierArrival, execBarrierArrival, State.whenJob_eq found, if_pos (by simp [sent]), none']
  exact congrArg _ (if_pos room)

theorem arrival_waits (none' : Tab.find? s.rounds j.barrierId = none) (full : 1024 ≤ s.rounds.length) :
    exec (.barrierArrival jid) s = .next (s.arrived j) := by
  rw [exec_barrierArrival, execBarrierArrival, State.whenJob_eq found, if_pos (by simp [sent]), none']
  dsimp only
  rw [if_neg (by omega), sent, if_pos rfl]
  rfl

theorem arrival_joins {r : Round} (there : Tab.find? s.rounds j.barrierId = some r) :
    exec (.barrierArrival jid) s = .next (s.joinRound j r) := by
  rw [exec_barrierArrival, execBarrierArrival, State.whenJob_eq found, if_pos (by simp [sent]), there]

theorem arrived_there {k : Nat} (there : (s.job? k).isSome = true) : ((s.arrived j).job? k).isSome = true := by
  have own := State.jid_of_job? found
  rw [State.job?, List.find?_isSome] at there ⊢
  obtain ⟨x, mem, is⟩ := there
  refine ⟨_, List.mem_map_of_mem mem, ?_⟩
  split
  · next same => simpa [same] using is
  · exact is

end

end Sys2Proof.Machine

open Sys2Proof.Machine in
/-- Settles O54: the last arrival of a round ends every arrival of it, one after another. -/
theorem barriersGatherTheirRounds : Obligations.BarriersGatherTheirRounds := by
  unfold Obligations.BarriersGatherTheirRounds
  refine ⟨fun s jid j found barrier due => ⟨fun held => ?_, fun fenced away reach => ?_, fun fenced away lost => ?_⟩,
    fun s jid j found sent => ⟨fun none' room many => ?_, fun none' full => arrival_waits found sent none' full, fun r there => ⟨fun few => ?_, fun last => ?_⟩⟩,
    fun s jid j found arrived => ⟨fun early => ?_, fun some' late => ?_⟩⟩
  · rw [exec_barrier, execBarrier, State.whenJob_eq found, if_neg (by simp [held])]
  · rw [barrier_fenced found barrier due fenced away, if_pos reach]
  · rw [barrier_fenced found barrier due fenced away, if_neg (by rw [lost]; decide)]
    rfl
  · rw [arrival_opens found sent none' room, joinRound_sent found sent, if_neg (by simp; omega)]
    rfl
  · rw [arrival_joins found sent there, joinRound_sent found sent, if_neg (by omega)]
    rfl
  · refine ⟨_, (arrival_joins found sent there).trans (by rw [joinRound_sent found sent, if_pos last]), ?_, fun i other => ?_, fun k mem here => ?_⟩
    · rw [succeedAll_rounds]
      exact Tab.find?_del_same ..
    · rw [succeedAll_rounds]
      exact Tab.find?_del_other _ other
    · exact succeedAll_done (by simpa [or_comm] using mem) (arrived_there found sent here)
  · rw [exec_barrierTimeout, execBarrierTimeout, State.whenJob_eq found, if_neg]
    rcases early with none' | early
    · simp [none']
    · simp [early]
  · have own := State.jid_of_job? found
    obtain ⟨tk, jobs⟩ := failJob_jobs { s with rounds := Tab.modify s.rounds j.barrierId fun r => { r with arrivals := r.arrivals.filter (· ≠ jid) } } j stBarrier 0
    refine ⟨State.failJob { s with rounds := Tab.modify s.rounds j.barrierId fun r => { r with arrivals := r.arrivals.filter (· ≠ jid) } } j stBarrier 0,
      { j with claimed := [], reads := [] }.finished stBarrier 0 tk, ?_, ?_, rfl, rfl, fun r there => ?_⟩
    · rw [exec_barrierTimeout, execBarrierTimeout, State.whenJob_eq found, if_pos (by simp [arrived, some', late])]
    · rw [State.job?, jobs]
      refine List.find?_append.trans ?_
      rw [List.find?_eq_none.mpr (by simp [own])]
      simp [Job.finished, own]
    · have rounds (t : State) : (t.failJob j stBarrier 0).rounds = t.rounds :=
        (State.endJob_rounds ..).trans ((of_rest State.rounds (rest_giveBack ..)).trans (shutGroups_keeps State.rounds (fun _ _ _ => rfl) t j))
      rw [rounds, modify_of_found there, Tab.find?_put_same]
end


section
/-! PROOFS. A drain's step of a descriptor that is not in flight (04_accumulation_and_drain.md, 12_tiling_and_issue_timing.md). -/

namespace Sys2Proof.Machine

/-- A descriptor of 32 output tiles on jet 0, which no state after reset has in flight. -/
def strayJob : Job := { Job.fresh 0 0 0 1 none (Desc.ofBytes []) [] with unit := 0x400, bm := 1000, bn := 1000 }

theorem strayJob_tiles : strayJob.tileCount = 32 ∧ (State.reset.dueTile strayJob).getD strayJob.tile = 0 ∧ (strayJob.drainedTile 0).tile = 1 := by
  decide +kernel

/-- A descriptor's entry is replaced where it stands; one that stands nowhere is not put in. -/
theorem drainStep_strayJob : (State.reset.drainStep strayJob).job? strayJob.jid = none := by
  decide +kernel

end Sys2Proof.Machine

open Sys2Proof.Machine in
/-- Refutes O55: the drain's clause takes every descriptor, also one that is not in flight, and of that one no entry stands after the
step. After reset, with no descriptor in flight, the drain of the first of 32 output tiles of `strayJob` finds no open group and no
error, has more tiles to go, and leaves no descriptor at all, where the clause wants one that is not done. -/
theorem not_weightTilesLoadSwapAndYield : ¬ Obligations.WeightTilesLoadSwapAndYield := by
  unfold Obligations.WeightTilesLoadSwapAndYield
  intro ⟨_, _, _, drains, _⟩
  obtain ⟨_, more, _⟩ := drains State.reset strayJob 0 strayJob_tiles.2.1 _ strayJob none rfl
  obtain ⟨b, found, _⟩ := more rfl (by rw [strayJob_tiles.1, strayJob_tiles.2.2]; decide)
  rw [drainStep_strayJob] at found
  cases found
end

section
/-! PROOFS. What ends a descriptor, what leaves it running on the jets, and which number its copies keep (12_tiling_and_issue_timing.md). -/

namespace Sys2Proof.Machine

/-- The descriptor `jid` has completed. -/
def State.isOver (s : State) (jid : Nat) : Prop := ∃ e : Job, s.job? jid = some e ∧ e.phase = .done

/-- The descriptor `jid` has completed, or runs on the jets. -/
def State.isRunning (s : State) (jid : Nat) : Prop := ∃ e : Job, s.job? jid = some e ∧ (e.phase = .done ∨ e.phase = .draining)

theorem isRunning_of_isOver {s : State} {jid : Nat} (h : s.isOver jid) : s.isRunning jid := by
  obtain ⟨e, found, done⟩ := h
  exact ⟨e, found, .inl done⟩

theorem isRunning_congr {s t : State} {jid : Nat} (same : t.jobs = s.jobs) : t.isRunning jid ↔ s.isRunning jid := by
  simp only [State.isRunning, State.job?, same]

theorem isOver_endJob (s : State) (j : Job) (status detail : Nat) : (s.endJob j status detail).isOver j.jid :=
  ⟨_, s.job?_endJob j status detail, rfl⟩

theorem isOver_failJob (s : State) (j : Job) (status detail : Nat) : (s.failJob j status detail).isOver j.jid :=
  isOver_endJob ..

theorem isOver_succeed (s : State) (j : Job) : (s.succeed j).isOver j.jid := isOver_endJob ..

/-- The end of a descriptor leaves the others as they are. -/
theorem isRunning_endJob {s : State} {jid : Nat} (h : s.isRunning jid) (j : Job) (status detail : Nat) :
    (s.endJob j status detail).isRunning jid := by
  by_cases own : jid = j.jid
  · exact own ▸ isRunning_of_isOver (isOver_endJob ..)
  · rwa [State.isRunning, State.job?_endJob_other _ _ _ _ _ own]

theorem shut_jobs (s : State) (x g : Nat) : (s.shut x g).jobs = s.jobs := rfl

theorem isRunning_failJob {s : State} {jid : Nat} (h : s.isRunning jid) (j : Job) (status detail : Nat) :
    (s.failJob j status detail).isRunning jid := by
  rw [failJob_eq]
  refine isRunning_endJob ((isRunning_congr ?_).2 h) ..
  exact (of_rest State.jobs (rest_giveBack ..)).trans (shutGroups_keeps State.jobs (fun _ _ _ => rfl) s j)

/-- What stands under a number after a descriptor's entry is replaced. -/
theorem State.job?_putJob {s : State} {jid : Nat} {j e : Job} (found : s.job? jid = some e) :
    (s.putJob j).job? jid = some (if e.jid = j.jid then j else e) := by
  have same : ((fun x : Job => decide (x.jid = jid)) ∘ fun x : Job => if x.jid = j.jid then j else x) = fun x => decide (x.jid = jid) := by
    funext x
    simp only [Function.comp_apply]
    split <;> simp [*]
  rw [State.job?] at found
  rw [State.job?, State.putJob, List.find?_map, same, found, Option.map_some]

theorem isRunning_putJob {s : State} {jid : Nat} (h : s.isRunning jid) {j : Job} (draining : j.phase = .draining) :
    (s.putJob j).isRunning jid := by
  obtain ⟨e, found, live⟩ := h
  refine ⟨_, State.job?_putJob found, ?_⟩
  split
  · exact .inr draining
  · exact live

/-- A descriptor in flight whose entry is replaced stands as it was put. -/
theorem job?_putJob_self {s : State} {j e : Job} (found : s.job? j.jid = some e) : (s.putJob j).job? j.jid = some j := by
  rw [State.job?_putJob found, if_pos (State.jid_of_job? found)]

/-! ### The number of a descriptor's copies -/

theorem mark_jid (j : Job) (i : Nat) (c : Bool) : (j.mark i c).jid = j.jid := by
  rw [Job.mark]
  split <;> rfl

theorem sampleSegs_jid (s : State) (j : Job) (n n0 n1 : Nat) (segs : List (Nat × Nat × List (Nat × Nat × Bool))) :
    (s.sampleSegs j n n0 n1 segs).2.jid = j.jid := by
  rw [State.sampleSegs]
  split
  · rfl
  · refine List.foldlRecOn (motive := fun a : State × Job => a.2.jid = j.jid) _ _ rfl fun a own g _ => ?_
    refine List.foldlRecOn (motive := fun a : State × Job => a.2.jid = j.jid) _ _ own fun b own t _ => ?_
    split
    · exact own
    · simp only [apply_ite (fun r : State × Job => r.2.jid), mark_jid, ite_self, own]

theorem counted_jid (j : Job) (r : Drained) (g : Nat) (dz : Bool) : (j.counted r g dz).jid = j.jid := by
  simp only [Job.counted, mark_jid]

theorem drainOut_jid (s : State) (j : Job) (o : Out) (t : TileIn) : (s.drainOut j o t).2.1.jid = j.jid := by
  rw [State.drainOut]
  dsimp only
  split
  · rfl
  · exact (sampleSegs_jid ..).trans (counted_jid ..)

theorem drainRows_jid (s : State) (j : Job) (softmax : Bool) (stateDst : Nat) (rows : List RowState) :
    (s.drainRows j softmax stateDst rows).2.1.jid = j.jid := by
  rw [State.drainRows]
  dsimp only
  split
  · split
    · exact mark_jid ..
    · exact (drainOut_jid ..).trans (mark_jid ..)
  · split
    · exact mark_jid ..
    · exact (mark_jid ..).trans (mark_jid ..)

theorem drainParts_jid (s : State) (j : Job) (gid : Nat) (ps : List Part) (merge : Bool) (o : Out) (t : Rect) (fill : Bool) :
    (s.drainParts j gid ps merge o t fill).2.1.jid = j.jid := by
  rw [State.drainParts]
  dsimp only
  split
  · rfl
  · rfl
  · split
    · rfl
    · exact (drainOut_jid ..).trans ((mark_jid ..).trans (mark_jid ..))

theorem drainJet_jid (s : State) (j : Job) (x : Nat) : (s.drainJet j x).2.1.jid = j.jid := by
  rw [State.drainJet]
  split
  · rfl
  · exact drainParts_jid ..

theorem drainJets_jid (s : State) (j : Job) (xs : List Nat) : (s.drainJets j xs).2.1.jid = j.jid := by
  induction xs generalizing s j with
  | nil => rfl
  | cons x xs ih =>
    have one := drainJet_jid s j x
    rw [State.drainJets]
    split
    · next h => rwa [h] at one
    · next h => rw [h] at one; exact (ih ..).trans one

theorem convTile_jid (s : State) (j : Job) (q : Nat) : (s.convTile j q).2.1.jid = j.jid := by
  rw [State.convTile]
  dsimp only
  split
  · rfl
  · split
    · rfl
    · split
      · rfl
      · split
        · rfl
        · exact drainOut_jid ..

theorem trial_jid (j : Job) (x : Nat) (c : Counts) : (j.trial x c).jid = j.jid := rfl

theorem emuWrite_jid (s : State) (j : Job) (x : Nat) (ws : List (Nat × Nat × List Byte)) (elements zeros sat : Nat) :
    (s.emuWrite j x ws elements zeros sat).2.1.jid = j.jid := by
  rw [State.emuWrite]
  split
  · rfl
  · exact (trial_jid ..).trans (mark_jid ..)

theorem readBooks_jid (s : State) (j : Job) (l : List (Bool × Nat)) : (s.readBooks j l).2.1.jid = j.jid := by
  rw [State.readBooks]
  split <;> rfl

theorem claimFree_jid (s : State) (j : Job) (cs : List (Nat × Nat)) : (s.claimFree j cs).2.jid = j.jid := by
  induction cs generalizing s j with
  | nil => rfl
  | cons c cs ih =>
    rw [State.claimFree]
    split
    · exact ih ..
    · split
      · exact ih ..
      · rfl

/-! ### The operations that run to their end at issue -/

/-- The number of the descriptor that an operation's part hands on. -/
theorem jid_of_result {r : State × Job × Option Err} {t : State} {i : Job} {x : Option Err} {jid : Nat} (h : r = (t, i, x)) (own : r.2.1.jid = jid) :
    i.jid = jid := by
  subst h
  exact own

theorem isOver_runReduce (s : State) (j : Job) : (s.runReduce j).isOver j.jid := by
  rw [State.runReduce]
  split
  · exact isOver_failJob ..
  · dsimp only
    split
    · next h => exact jid_of_result h (drainRows_jid ..) ▸ isOver_failJob ..
    · next h => exact jid_of_result h (drainRows_jid ..) ▸ isOver_succeed ..

theorem isOver_ite {c : Prop} [Decidable c] {s t : State} {jid : Nat} (h : s.isOver jid) (k : t.isOver jid) : (if c then s else t).isOver jid := by
  split
  · exact h
  · exact k

theorem isOver_runUpdate (s : State) (j : Job) : (s.runUpdate j).isOver j.jid := by
  rw [State.runUpdate]
  split
  · exact isOver_failJob ..
  · refine isOver_ite (isOver_failJob ..) ?_
    have own (a b : Bool) : ((j.mark flSat a).mark flNonfinite b).jid = j.jid := (mark_jid ..).trans (mark_jid ..)
    exact own _ _ ▸ isOver_succeed ..

theorem isOver_convTiles (s : State) (j : Job) (ts : List Nat) : (s.convTiles j ts).isOver j.jid := by
  induction ts generalizing s j with
  | nil => exact isOver_succeed ..
  | cons q ts ih =>
    rw [State.convTiles]
    split
    · next h => exact jid_of_result h (convTile_jid ..) ▸ isOver_failJob ..
    · next h => exact jid_of_result h (convTile_jid ..) ▸ ih ..

theorem isOver_runGather (s : State) (j : Job) : (s.runGather j).isOver j.jid := by
  rw [State.runGather]
  split
  · exact isOver_failJob ..
  · dsimp only
    split
    · exact isOver_failJob ..
    · exact isOver_ite (isOver_failJob ..) (isOver_succeed ..)

theorem isOver_emuDone (s : State) (j : Job) (ws : List (Nat × Nat × List Byte)) (elements zeros sat : Nat) :
    (s.emuDone j ws elements zeros sat).isOver j.jid := by
  rw [State.emuDone]
  split
  · next h => exact jid_of_result h (emuWrite_jid ..) ▸ isOver_failJob ..
  · next h => exact jid_of_result h (emuWrite_jid ..) ▸ isOver_succeed ..

theorem isOver_runStream (s : State) (j : Job) : (s.runStream j).isOver j.jid := by
  rw [State.runStream]
  dsimp only
  split
  · exact isOver_failJob ..
  · exact isOver_emuDone ..

theorem isOver_runEntries (s : State) (j : Job) (es : List ReEntry) : (s.runEntries j es).isOver j.jid := by
  induction es generalizing s with
  | nil => exact isOver_succeed ..
  | cons e es ih =>
    rw [State.runEntries]
    split
    · exact isOver_failJob ..
    · exact isOver_ite (isOver_failJob ..) (ih ..)

/-- What a DRAIN hands on is its descriptor. -/
theorem isOver_runDrain (s : State) (j : Job) : (s.runDrain j).isOver j.jid := by
  rw [State.runDrain]
  have own (xs : List Nat) (c : Prop) [Decidable c] (ps : List Part) (m : Bool) (o : Out) (t : Rect) :
      (if c then s.drainParts (j.mark flPartial true) j.d.accGroup ps m o t true else s.drainJets (j.mark flPartial true) xs).2.1.jid = j.jid := by
    split
    · exact drainParts_jid ..
    · exact drainJets_jid ..
  split
  · next h =>
    refine jid_of_result (jid := j.jid) h ?_ ▸ isOver_failJob ..
    split
    · rfl
    · exact own ..
  · next h =>
    refine jid_of_result (jid := j.jid) h ?_ ▸ isOver_succeed ..
    split
    · rfl
    · exact own ..

end Sys2Proof.Machine
end

section
/-! PROOFS. A descriptor stays in flight while its weight tiles are queued and loaded (12_tiling_and_issue_timing.md). -/

namespace Sys2Proof.Machine

theorem plain_jobs {s t : State} (h : t.plain = s.plain) : t.jobs = s.jobs := State.of_plain h State.jobs fun _ => rfl

theorem rest_jobs {s t : State} (h : t.rest = s.rest) : t.jobs = s.jobs := of_rest State.jobs h

theorem putSets_jobs (s : State) (x : Nat) (js : JetSets) : (s.putSets x js).jobs = s.jobs := plain_jobs (s.plain_putSets x js)

theorem putStores_jobs (s : State) (e : Nat) (es : EngSets) : (s.putStores e es).jobs = s.jobs := plain_jobs (s.plain_putStores e es)

theorem jobs_foldl {α : Type} {f : State → α → State} (h : ∀ s x, (f s x).jobs = s.jobs) (l : List α) (s : State) : (l.foldl f s).jobs = s.jobs := by
  induction l generalizing s with
  | nil => rfl
  | cons x l ih => exact (ih _).trans (h s x)

theorem isRunning_foldl {α : Type} {f : State → α → State} {jid : Nat} (h : ∀ s x, s.isRunning jid → (f s x).isRunning jid) (l : List α) {s : State}
    (run : s.isRunning jid) : (l.foldl f s).isRunning jid := by
  induction l generalizing s with
  | nil => exact run
  | cons x l ih => exact ih (h s x run)

theorem isRunning_ite {c : Prop} [Decidable c] {s t : State} {jid : Nat} (h : s.isRunning jid) (k : t.isRunning jid) :
    (if c then s else t).isRunning jid := by
  split
  · exact h
  · exact k

theorem pushSpans_jobs (s : State) (x : Nat) (radio : Bool) (ls : List (List TileLoad)) : (s.pushSpans x radio ls).jobs = s.jobs := by
  rw [State.pushSpans]
  split
  · rfl
  · split
    · exact putSets_jobs ..
    · exact putSets_jobs ..

theorem countDense_rest (s : State) (x : Nat) (declined busy thin : Bool) : (s.countDense x declined busy thin).rest = s.rest := by
  rw [State.countDense]
  split
  · rfl
  · exact rest_ite ((rest_bump ..).trans (rest_ite ((rest_bump ..).trans (rest_ite (rest_bump ..) rfl)) (rest_ite (rest_bump ..) rfl)))
      (rest_ite ((rest_bump ..).trans (rest_ite (rest_bump ..) rfl)) (rest_ite (rest_bump ..) rfl))

/-- The descriptor whose tiles are queued next runs on the jets. -/
theorem nextOn_draining {s : State} {x : Nat} {j : Job} (next : s.nextOn x = some j) : j.phase = .draining := by
  have more : j.more x = true := by
    rw [State.nextOn] at next
    split at next
    · next h =>
      obtain rfl : _ = j := Option.some.inj next
      exact (Bool.and_eq_true_iff.1 (List.find?_some (p := fun j : Job => j.more x && decide (j.cls = 0)) h)).1
    · exact List.find?_some (p := fun j : Job => j.more x) next
  simp only [Job.more, Bool.and_eq_true, decide_eq_true_eq] at more
  exact more.1.1.2

theorem isRunning_queueNext {s : State} {jid : Nat} (run : s.isRunning jid) (x : Nat) : (s.queueNext x).isRunning jid := by
  rw [State.queueNext]
  split
  · exact run
  · next j next =>
    have draining := nextOn_draining next
    exact isRunning_ite run ((isRunning_congr (jobs_foldl (fun _ _ => pushSpans_jobs ..) _ _)).2 (isRunning_putJob run draining))

theorem isRunning_putSets {s : State} {jid : Nat} (run : s.isRunning jid) (x : Nat) (js : JetSets) : (s.putSets x js).isRunning jid :=
  (isRunning_congr (putSets_jobs ..)).2 run

/-- A mark set in a descriptor's entry leaves what is in flight in flight. -/
theorem isRunning_modMark {s : State} {jid : Nat} (run : s.isRunning jid) (n i : Nat) (c : Bool) : (s.modJob n fun j => j.mark i c).isRunning jid := by
  obtain ⟨e, found, live⟩ := run
  cases at' : s.job? n with
  | none => rw [State.modJob, State.whenJob_none at']; exact ⟨e, found, live⟩
  | some j =>
    rw [State.modJob, State.whenJob_eq at', if_pos rfl]
    refine ⟨_, State.job?_putJob found, ?_⟩
    split
    · next own =>
      obtain rfl : e = j := by
        rw [mark_jid, State.jid_of_job? at', State.jid_of_job? found] at own
        exact Option.some.inj (found.symm.trans (own ▸ at'))
      rw [Job.mark]
      split <;> exact live
    · exact live

theorem isRunning_countAll {s : State} {jid : Nat} (run : s.isRunning jid) (x n : Nat) (declined busy thin : Bool) :
    ((List.range n).foldl (fun s _ => s.countDense x declined busy thin) s).isRunning jid :=
  (isRunning_congr (jobs_foldl (fun _ _ => rest_jobs (countDense_rest ..)) _ _)).2 run

theorem isRunning_feedSpan {s : State} {jid : Nat} (run : s.isRunning jid) (x : Nat) (sp : List TileLoad) (rest : List (List TileLoad)) :
    (s.feedSpan x sp rest).1.isRunning jid := by
  have read {w : Who} {hs : List Span} {t : State} {e : Option Err} (h : s.readSpans w hs = (t, e)) : t.isRunning jid :=
    (isRunning_congr (rest_jobs ((congrArg (·.1.rest) h).symm.trans (rest_readSpans ..)))).2 run
  rw [State.feedSpan]
  dsimp only
  split
  · exact isRunning_putSets run ..
  · split
    · exact isRunning_putSets run ..
    · split
      · next h => exact isRunning_failJob (read h) ..
      · next h =>
        have read := read h
        split
        · exact isRunning_failJob read ..
        · exact isRunning_putSets (isRunning_modMark (isRunning_countAll read ..) ..) ..
        · exact read
        · split
          · exact read
          · exact (isRunning_congr (putStores_jobs ..)).2 (isRunning_putSets read ..)

theorem isRunning_feed {s : State} {jid : Nat} (run : s.isRunning jid) (x fuel : Nat) : (s.feed x fuel).isRunning jid := by
  induction fuel generalizing s with
  | zero => exact run
  | succ fuel ih =>
    have queued := isRunning_queueNext run x
    rw [State.feed]
    refine isRunning_ite queued (isRunning_ite (ih (isRunning_putSets queued ..)) (isRunning_ite queued (isRunning_ite (isRunning_putSets queued ..) ?_)))
    split
    · exact isRunning_ite (ih queued) queued
    · exact isRunning_ite (ih (isRunning_feedSpan queued ..)) (isRunning_feedSpan queued ..)

theorem isRunning_feedAll {s : State} {jid : Nat} (run : s.isRunning jid) (j : Job) : (s.feedAll j).isRunning jid :=
  isRunning_foldl (fun _ _ run => isRunning_feed run ..) _ run

theorem isRunning_pushTiles {s : State} {jid : Nat} (run : s.isRunning jid) (j : Job) (ts : List (Nat × List TileLoad)) :
    (s.pushTiles j ts).isRunning jid :=
  isRunning_feedAll ((isRunning_congr (jobs_foldl (fun _ _ => pushSpans_jobs ..) _ _)).2 run) j

theorem retireOf_jobs (s : State) (x n q : Nat) : (s.retireOf x n q).jobs = s.jobs := by
  rw [State.retireOf]
  split
  · split
    · rw [State.retire]
      split
      · rfl
      · exact putSets_jobs ..
    · rfl
  · rfl

theorem endSpan_jobs (s : State) (e : Nat) : (s.endSpan e).jobs = s.jobs := by
  rw [State.endSpan]
  split
  · rfl
  · exact putStores_jobs ..

theorem spanOver_jobs (s : State) (x : Nat) : (s.spanOver x).jobs = s.jobs := by
  rw [State.spanOver]
  split
  · rfl
  · split
    · split
      · exact endSpan_jobs ..
      · rfl
    · rfl

theorem isRunning_afterSwap {s : State} {jid : Nat} (run : s.isRunning jid) (n : Nat) : (s.afterSwap n).isRunning jid := by
  rw [State.afterSwap]
  cases found : s.job? n with
  | none => rwa [State.whenJob_none found]
  | some j =>
    rw [State.whenJob_eq found]
    refine isRunning_ite (isRunning_endJob ((isRunning_congr ?_).2 run) ..) run
    exact jobs_foldl (fun t x => (spanOver_jobs ..).trans (retireOf_jobs t x j.jid j.tile)) _ _

end Sys2Proof.Machine
end

section
/-! PROOFS. What an opcode's effect leaves of its descriptor, and what its checks leave of those in flight (11_operation_descriptors.md). -/

namespace Sys2Proof.Machine

/-! ### The operations whose tiles run on the jets -/

section
variable {s : State} {j e : Job} (found : s.job? j.jid = some e)
include found

/-- A descriptor in flight that is put back as running is running. -/
theorem isRunning_put {i : Job} (own : i.jid = j.jid) (draining : i.phase = .draining) : (s.putJob i).isRunning j.jid :=
  ⟨i, own ▸ job?_putJob_self (own ▸ found), .inr draining⟩

theorem isRunning_startHaze : (s.startHaze j).isRunning j.jid := isRunning_pushTiles (isRunning_put found (i := { j with phase := .draining }) rfl rfl) ..

theorem isRunning_startForecast : (s.startForecast j).isRunning j.jid :=
  isRunning_pushTiles (isRunning_put found (i := { j with phase := .draining }) rfl rfl) ..

theorem isRunning_startDot : (s.startDot j).isRunning j.jid := isRunning_pushTiles (isRunning_put found (i := { j with phase := .draining }) rfl rfl) ..

end

theorem readBooks_jobs (s : State) (j : Job) (l : List (Bool × Nat)) : (s.readBooks j l).1.jobs = s.jobs := by
  have read := rest_jobs (rest_readSpans s j.who ((l.filter Prod.fst).map fun a => ⟨a.2, 0, 64⟩) 11)
  rw [State.readBooks]
  split
  · next h => rwa [h] at read
  · next h => rwa [h] at read

theorem placeSlots_jobs (s : State) (q half base n : Nat) : (s.placeSlots q half base n).jobs = s.jobs :=
  jobs_foldl (fun _ _ => (State.setFld_jobs ..).trans (State.setFld_jobs ..)) _ _

theorem placeP_jobs (s : State) (q half n : Nat) (alone : Bool) : (s.placeP q half n alone).jobs = s.jobs := by
  rw [State.placeP]
  split
  · exact (placeSlots_jobs ..).trans (placeSlots_jobs ..)
  · exact placeSlots_jobs ..

theorem job?_congr {s t : State} (same : t.jobs = s.jobs) (n : Nat) : t.job? n = s.job? n := by rw [State.job?, State.job?, same]

theorem isRunning_startMatmul {s : State} {j e : Job} (found : s.job? j.jid = some e) : (s.startMatmul j).isRunning j.jid := by
  rw [State.startMatmul]
  split
  · next h => exact jid_of_result h (readBooks_jid ..) ▸ isRunning_of_isOver (isOver_failJob ..)
  · next t i h =>
    have own : i.jid = j.jid := jid_of_result h (readBooks_jid ..)
    have there : t.job? j.jid = some e := (job?_congr ((congrArg (·.1.jobs) h).symm.trans (readBooks_jobs ..)) _).trans found
    rw [← own] at there ⊢
    refine isRunning_ite (isRunning_of_isOver (isOver_endJob ..)) (isRunning_afterSwap (isRunning_feedAll ?_ _) _)
    exact isRunning_put there rfl rfl

theorem isRunning_startFused {s : State} {j e : Job} (found : s.job? j.jid = some e) : (s.startFused j).isRunning j.jid := by
  rw [State.startFused]
  dsimp only
  split
  · next h => exact jid_of_result h (readBooks_jid ..) ▸ isRunning_of_isOver (isOver_failJob ..)
  · next t i h =>
    have own : i.jid = j.jid := jid_of_result h (readBooks_jid ..)
    have there : t.job? j.jid = some e := (job?_congr ((congrArg (·.1.jobs) h).symm.trans (readBooks_jobs ..)) _).trans found
    rw [← own] at there ⊢
    split
    · exact isRunning_of_isOver (isOver_failJob ..)
    · next k =>
      refine isRunning_pushTiles (isRunning_put (e := e) ?_ ?_ ?_) ..
      · exact (job?_congr ((placeP_jobs ..).trans (rest_jobs ((congrArg (·.1.rest) k).symm.trans (rest_readSpans ..)))) _).trans there
      · rfl
      · rfl

/-! ### The checks leave what is in flight -/

theorem readSpans_jobs {s : State} {w : Who} {hs : List Span} {t : State} {e : Option Err} (h : s.readSpans w hs = (t, e)) : t.jobs = s.jobs :=
  rest_jobs ((congrArg (·.1.rest) h).symm.trans (rest_readSpans ..))

theorem readSpan_jobs {s : State} {w : Who} {p : Span} {t : State} {e : Option Err} (h : s.readSpan w p = (t, e)) : t.jobs = s.jobs :=
  rest_jobs ((congrArg (·.1.rest) h).symm.trans (rest_readSpan ..))

/-- An operation's parts leave the descriptors in flight, and hand on the one they run for. -/
structure Op.Keeps (o : Op) : Prop where
  check : ∀ (s : State) (j : Job), (o.check s j).1.jobs = s.jobs
  last : ∀ (s : State) (j : Job), (o.last s j).1.jobs = s.jobs
  opens : ∀ (s : State) (j : Job), (o.opens s j).1.jobs = s.jobs
  same : ∀ (s : State) (j : Job), (o.opens s j).2.jid = j.jid

theorem keeps_plain (noop : Job → Bool) (reads writes : Job → List Nat) (run : State → Job → State) : (Op.plain noop reads writes run).Keeps :=
  ⟨fun _ _ => rfl, fun _ _ => rfl, fun _ _ => rfl, fun _ _ => rfl⟩

theorem openOn_jobs (s : State) (x g : Nat) (r : Group) : (s.openOn x g r).jobs = s.jobs := rfl

theorem openTile_jobs (s : State) (j : Job) (q : Nat) : (s.openTile j q).jobs = s.jobs := jobs_foldl (fun _ _ => openOn_jobs ..) _ _

theorem openNode_jobs (s : State) (j : Job) (q : Nat) : (s.openNode j q).jobs = s.jobs := rfl

theorem joinGroup_keeps (s : State) (j : Job) : (s.joinGroup j).1.jobs = s.jobs ∧ (s.joinGroup j).2.jid = j.jid := by
  rw [State.joinGroup]
  refine List.foldlRecOn (motive := fun a : State × Job => a.1.jobs = s.jobs ∧ a.2.jid = j.jid) _ _ ⟨rfl, rfl⟩ fun a kept x _ => ?_
  split
  · exact kept
  · exact ⟨kept.1, (mark_jid ..).trans kept.2⟩

theorem keeps_matmulOp : matmulOp.Keeps where
  check _ _ := rfl
  last _ _ := rfl
  opens s j := by
    simp only [matmulOp]
    split
    · exact jobs_foldl (fun _ _ => openTile_jobs ..) _ _
    · exact (joinGroup_keeps s j).1
  same s j := by
    simp only [matmulOp]
    split
    · rfl
    · exact (joinGroup_keeps s j).2

theorem keeps_fusedOp : fusedOp.Keeps where
  check s j := by
    simp only [fusedOp, State.fusedCheck]
    split <;> rfl
  last _ _ := rfl
  opens s j := jobs_foldl (fun _ _ => openOn_jobs ..) _ _
  same _ _ := rfl

theorem keeps_nodeOp : nodeOp.Keeps where
  check s j := by
    simp only [nodeOp, State.nodeStep9]
    split <;> rfl
  last _ _ := rfl
  opens s j := jobs_foldl (fun _ _ => openNode_jobs ..) _ _
  same _ _ := rfl

theorem keeps_reduceOp : reduceOp.Keeps where
  check s j := by
    simp only [reduceOp, State.reduceStep9]
    split <;> rfl
  last s j := by
    simp only [reduceOp, State.reduceLast]
    split
    · split
      · next h => exact readSpans_jobs h
      · next h => split <;> exact readSpans_jobs h
    · rfl
  opens _ _ := rfl
  same _ _ := rfl

theorem keeps_updateOp : updateOp.Keeps where
  check s j := by
    simp only [updateOp, State.updStep9]
    split
    · rfl
    · split
      · rfl
      · split
        · next h => exact readSpans_jobs h
        · next h => split <;> exact readSpans_jobs h
  last _ _ := rfl
  opens _ _ := rfl
  same _ _ := rfl

theorem keeps_convertOp : convertOp.Keeps := ⟨fun _ _ => rfl, fun _ _ => rfl, fun _ _ => rfl, fun _ _ => rfl⟩

theorem keeps_gatherOp : gatherOp.Keeps := ⟨fun _ _ => rfl, fun _ _ => rfl, fun _ _ => rfl, fun _ _ => rfl⟩

theorem keeps_hazeOp : hazeOp.Keeps where
  check s j := by
    simp only [hazeOp, State.hazeStep9]
    split <;> rfl
  last _ _ := rfl
  opens s j := jobs_foldl (fun _ _ => openOn_jobs ..) _ _
  same _ _ := rfl

theorem keeps_forecastOp : forecastOp.Keeps where
  check s j := by
    simp only [forecastOp, State.forecastStep9]
    split <;> rfl
  last _ _ := rfl
  opens s j := jobs_foldl (fun _ _ => openOn_jobs ..) _ _
  same _ _ := rfl

theorem emuStep9_jobs (s : State) (j : Job) : (s.emuStep9 j).1.jobs = s.jobs := by
  rw [State.emuStep9]
  split <;> rfl

theorem keeps_dotOp : dotOp.Keeps := ⟨emuStep9_jobs, fun _ _ => rfl, fun _ _ => rfl, fun _ _ => rfl⟩

theorem keeps_streamOp : streamOp.Keeps := ⟨emuStep9_jobs, fun _ _ => rfl, fun _ _ => rfl, fun _ _ => rfl⟩

theorem keeps_drainOp : drainOp.Keeps := ⟨fun _ _ => rfl, fun _ _ => rfl, fun _ _ => rfl, fun _ _ => rfl⟩

theorem keeps_reshardOp (s : State) : (reshardOp s).Keeps where
  check s j := by
    simp only [reshardOp, State.reshardStep9]
    split
    · rfl
    · split
      · next h => exact readSpan_jobs h
      · next h => exact readSpan_jobs h
  last _ _ := rfl
  opens _ _ := rfl
  same _ _ := rfl

/-- Each opcode's operation leaves the descriptors in flight until it runs. -/
theorem keeps_opOf (s : State) (d : Desc) : (opOf s d).Keeps := by
  have ite {c : Prop} [Decidable c] {o p : Op} (h : o.Keeps) (k : p.Keeps) : (if c then o else p).Keeps := by
    split
    · exact h
    · exact k
  exact ite keeps_matmulOp <| ite keeps_fusedOp <| ite keeps_nodeOp <| ite keeps_reduceOp <| ite keeps_updateOp <| ite keeps_convertOp <|
    ite keeps_gatherOp <| ite keeps_hazeOp <| ite keeps_forecastOp <| ite (ite keeps_dotOp keeps_streamOp) <| ite keeps_drainOp <|
    ite (keeps_reshardOp s) (keeps_plain ..)

/-! ### What an opcode's effect leaves of its descriptor -/

/-- What stands under its number once the opcode of `d` has run: completed, on the jets, or sent to its round. -/
def State.hasRun (s : State) (jid : Nat) (d : Desc) : Prop :=
  ∃ e : Job, s.job? jid = some e ∧ (e.phase = .done ∨ (d.opcode ∈ jetOpcodes ∧ e.phase = .draining) ∨ (d.opcode = opBarrier ∧ e.phase = .barrierSent))

theorem hasRun_of_isOver {s : State} {jid : Nat} (h : s.isOver jid) (d : Desc) : s.hasRun jid d := by
  obtain ⟨e, found, done⟩ := h
  exact ⟨e, found, .inl done⟩

theorem hasRun_of_isRunning {s : State} {jid : Nat} (h : s.isRunning jid) {d : Desc} (jets : d.opcode ∈ jetOpcodes) : s.hasRun jid d := by
  obtain ⟨e, found, done | draining⟩ := h
  · exact ⟨e, found, .inl done⟩
  · exact ⟨e, found, .inr (.inl ⟨jets, draining⟩)⟩

/-- A descriptor that issues and has none of the other opcodes is a BARRIER. -/
theorem barrier_of_issueRow {jid n : Nat} {d : Desc} {c : Instr} (row : issueRow? jid n d = some c)
    (other : d.opcode ∉ [opMatmul, opFused, opCheck, opReduce, opUpdate, opConvert, opGather, opHaze, opForecast, opEmu, opDrain, opReshard]) :
    d.opcode = opBarrier := by
  simp only [List.mem_cons, List.not_mem_nil, or_false, not_or] at other
  obtain ⟨a, b, c, d, e, f, g, h, i, k, l, m⟩ := other
  rw [issueRow?, if_neg a, if_neg b, if_neg c, if_neg d, if_neg e, if_neg f, if_neg g, if_neg h, if_neg i, if_neg k, if_neg l, if_neg m] at row
  by_contra barrier
  rw [if_neg barrier] at row
  cases row

end Sys2Proof.Machine
end

section
/-! PROOFS. Issue (11_operation_descriptors.md): the checks in their order, the tokens, and the opcode's effect. -/

namespace Sys2Proof.Machine

/-- After the operation of a descriptor that is in flight, it has run. -/
def Op.Runs (o : Op) (u : State) (i : Job) (d : Desc) : Prop := (o.run u i).hasRun i.jid d

theorem runs_ite {c : Prop} [Decidable c] {o p : Op} {u : State} {i : Job} {d : Desc} (h : c → o.Runs u i d) (k : ¬ c → p.Runs u i d) :
    (if c then o else p).Runs u i d := iteInduction (motive := fun o : Op => o.Runs u i d) h k

theorem runs_convertOp (s : State) (j : Job) (d : Desc) : convertOp.Runs s j d := hasRun_of_isOver (isOver_convTiles s j _) d

theorem runs_reshardOp (s t : State) (j : Job) (d : Desc) : (reshardOp t).Runs s j d := hasRun_of_isOver (isOver_runEntries s j _) d

theorem runs_nodeOp {s : State} {j e : Job} (found : s.job? j.jid = some e) {d : Desc} (jets : d.opcode ∈ jetOpcodes) : nodeOp.Runs s j d :=
  hasRun_of_isRunning (isRunning_put found (i := { j with phase := .draining }) rfl rfl) jets

theorem runs_barrierOp {s : State} {j e : Job} (found : s.job? j.jid = some e) {d : Desc} (barrier : d.opcode = opBarrier) : barrierOp.Runs s j d :=
  ⟨{ j with phase := .barrierSent }, job?_putJob_self found, .inr (.inr ⟨barrier, rfl⟩)⟩

/-- The effect of a descriptor's opcode, the descriptor being in flight. -/
theorem runs_opOf {u : State} {i e : Job} (found : u.job? i.jid = some e) (s : State) {d : Desc} {jid n : Nat} {c : Instr}
    (row : issueRow? jid n d = some c) : (opOf s d).Runs u i d := by
  have jets {n : Nat} (op : d.opcode = n) (mem : n ∈ jetOpcodes) : d.opcode ∈ jetOpcodes := op ▸ mem
  refine runs_ite (fun op => hasRun_of_isRunning (isRunning_startMatmul found) (jets op (by decide))) fun a => ?_
  refine runs_ite (fun op => hasRun_of_isRunning (isRunning_startFused found) (jets op (by decide))) fun b => ?_
  refine runs_ite (fun op => runs_nodeOp found (jets op (by decide))) fun c => ?_
  refine runs_ite (fun _ => hasRun_of_isOver (isOver_runReduce ..) d) fun e => ?_
  refine runs_ite (fun _ => hasRun_of_isOver (isOver_runUpdate ..) d) fun f => ?_
  refine runs_ite (fun _ => runs_convertOp ..) fun g => ?_
  refine runs_ite (fun _ => hasRun_of_isOver (isOver_runGather ..) d) fun h => ?_
  refine runs_ite (fun op => hasRun_of_isRunning (isRunning_startHaze found) (jets op (by decide))) fun k => ?_
  refine runs_ite (fun op => hasRun_of_isRunning (isRunning_startForecast found) (jets op (by decide))) fun l => ?_
  refine runs_ite (fun op => ?_) fun m => ?_
  · exact runs_ite (fun _ => hasRun_of_isRunning (isRunning_startDot found) (jets op (by decide))) fun _ => hasRun_of_isOver (isOver_runStream ..) d
  · refine runs_ite (fun _ => hasRun_of_isOver (isOver_runDrain ..) d) fun o => ?_
    exact runs_ite (fun _ => runs_reshardOp ..) fun p =>
      runs_barrierOp found (barrier_of_issueRow row (by simp only [List.mem_cons, List.not_mem_nil, or_false, not_or]; exact ⟨a, b, c, e, f, g, h, k, l, m, o, p⟩))

/-! ### The rows of the opcodes -/

/-- A row of a descriptor whose turn it is issues it by its operation. -/
theorem issueRow_due {p : State} {r : IssueRun} {j : Job} {mine : Desc → Bool} (found : p.job? r.jid = some j) (own : mine j.d = true)
    (due : p.issueDue j = true) (o : Op) : p.issueRow r mine o = (p.stall (basinOf j.unit) r.stalls).issueAs j o := by
  rw [State.issueRow, State.whenJob_eq found, if_pos (by rw [own, due]; rfl)]

/-- The state in which a descriptor issues: RESHARD and BARRIER stall no basin. -/
def State.issueState (p : State) (j : Job) (n : Nat) : State :=
  if j.d.opcode = opReshard ∨ j.d.opcode = opBarrier then p else p.stall (basinOf j.unit) n

theorem issueState_stall (p : State) {j : Job} (n : Nat) (other : j.d.opcode ∉ [opReshard, opBarrier]) : p.issueState j n = p.stall (basinOf j.unit) n :=
  if_neg (by simpa using other)

theorem of_ite_some {α : Type} {c : Prop} [Decidable c] {x y : α} (h : (if c then some x else none) = some y) : c ∧ x = y := by
  split at h
  · next holds => exact ⟨holds, Option.some.inj h⟩
  · cases h

/-- The row of a descriptor whose turn it is. -/
theorem exec_issueRow {p : State} {jid n : Nat} {j : Job} {c : Instr} (found : p.job? jid = some j) (due : p.issueDue j = true)
    (here : p.barrierHere j) (row : issueRow? jid n j.d = some c) :
    exec c p = .next ((p.issueState j n).issueAs j (opOf (p.issueState j n) j.d)) := by
  have plain {k : Nat} (op : j.d.opcode = k) (other : k ∉ [opReshard, opBarrier]) : p.issueState j n = p.stall (basinOf j.unit) n :=
    issueState_stall p n (op ▸ other)
  rw [issueRow?] at row
  rw [opOf]
  by_cases a : j.d.opcode = opMatmul
  · rw [if_pos a] at row ⊢
    obtain rfl := Option.some.inj row
    rw [exec_matmul, execMatmul, issueRow_due found (decide_eq_true a) due, plain a (by decide)]
  rw [if_neg a] at row ⊢
  by_cases b : j.d.opcode = opFused
  · rw [if_pos b] at row ⊢
    obtain rfl := Option.some.inj row
    rw [exec_fusedPair, execFusedPair, issueRow_due found (decide_eq_true b) due, plain b (by decide)]
  rw [if_neg b] at row ⊢
  by_cases c : j.d.opcode = opCheck
  · rw [if_pos c] at row ⊢
    obtain rfl := Option.some.inj row
    rw [exec_checknode, execChecknode, issueRow_due found (decide_eq_true c) due, plain c (by decide)]
  rw [if_neg c] at row ⊢
  by_cases d : j.d.opcode = opReduce
  · rw [if_pos d] at row ⊢
    obtain rfl := Option.some.inj row
    rw [exec_reduce, execReduce, issueRow_due found (decide_eq_true d) due, plain d (by decide)]
  rw [if_neg d] at row ⊢
  by_cases e : j.d.opcode = opUpdate
  · rw [if_pos e] at row ⊢
    obtain rfl := Option.some.inj row
    rw [exec_update, execUpdate, issueRow_due found (decide_eq_true e) due, plain e (by decide)]
  rw [if_neg e] at row ⊢
  by_cases f : j.d.opcode = opConvert
  · rw [if_pos f] at row ⊢
    obtain rfl := Option.some.inj row
    rw [exec_convert, execConvert, issueRow_due found (decide_eq_true f) due, plain f (by decide)]
  rw [if_neg f] at row ⊢
  by_cases g : j.d.opcode = opGather
  · rw [if_pos g] at row ⊢
    by_cases r : j.d.rowfn = 0
    · rw [if_pos r] at row
      obtain rfl := Option.some.inj row
      rw [exec_gatherRows, execGatherRows, issueRow_due found (by simp [g, r]) due, plain g (by decide)]
    · rw [if_neg r] at row
      obtain ⟨q, rfl⟩ := of_ite_some row
      rw [exec_gatherColumns, execGatherColumns, issueRow_due found (by simp [g, q]) due, plain g (by decide)]
  rw [if_neg g] at row ⊢
  by_cases h : j.d.opcode = opHaze
  · rw [if_pos h] at row ⊢
    obtain rfl := Option.some.inj row
    rw [exec_hazeSelect, execHazeSelect, issueRow_due found (decide_eq_true h) due, plain h (by decide)]
  rw [if_neg h] at row ⊢
  by_cases k : j.d.opcode = opForecast
  · rw [if_pos k] at row ⊢
    obtain rfl := Option.some.inj row
    rw [exec_forecast, execForecast, issueRow_due found (decide_eq_true k) due, plain k (by decide)]
  rw [if_neg k] at row ⊢
  by_cases l : j.d.opcode = opEmu
  · rw [if_pos l] at row ⊢
    by_cases r : j.d.rowfn = 0
    · rw [if_pos r] at row ⊢
      obtain rfl := Option.some.inj row
      rw [exec_dot, execDot, issueRow_due found (by simp [l, r]) due, plain l (by decide)]
    rw [if_neg r] at row ⊢
    by_cases q : j.d.rowfn = 1
    · rw [if_pos q] at row
      obtain rfl := Option.some.inj row
      rw [exec_toStream, execToStream, issueRow_due found (by simp [l, q]) due, plain l (by decide)]
    · rw [if_neg q] at row
      obtain ⟨q, rfl⟩ := of_ite_some row
      rw [exec_fromStream, execFromStream, issueRow_due found (by simp [l, q]) due, plain l (by decide)]
  rw [if_neg l] at row ⊢
  by_cases m : j.d.opcode = opDrain
  · rw [if_pos m] at row ⊢
    obtain rfl := Option.some.inj row
    rw [exec_drain, execDrain, issueRow_due found (decide_eq_true m) due, plain m (by decide)]
  rw [if_neg m] at row ⊢
  by_cases o : j.d.opcode = opReshard
  · rw [if_pos o] at row ⊢
    obtain rfl := Option.some.inj row
    rw [exec_reshard, execReshard, issueRow_due found (decide_eq_true o) due, State.issueState, if_pos (.inl o)]
    rfl
  rw [if_neg o] at row ⊢
  obtain ⟨barrier, rfl⟩ := of_ite_some row
  obtain ⟨fenced, own⟩ := here barrier
  rw [exec_barrier, execBarrier, State.whenJob_eq found, if_pos (by simp [barrier, due, fenced]), if_pos own, State.issueState, if_pos (Or.inr barrier)]

/-! ### The checks, in their order -/

/-- The read of the bounds record, as issue makes it. -/
theorem boundsRead_issuing (s : State) (j : Job) :
    (if (s.issuing j).d.readsBounds && decide ((s.issuing j).d.boundsSrc = 2) then s.readSpan (s.issuing j).who (s.issuing j).d.boundsSpan
      else (s, none)) = s.boundsRead j := by
  rw [State.boundsRead]
  exact if_congr (by rw [Bool.and_eq_true, decide_eq_true_eq]; rfl) rfl rfl

theorem issueAs_unread {s t : State} {j : Job} {e : Err} (read : s.boundsRead j = (t, some e)) (o : Op) :
    s.issueAs j o = t.issueFail (s.issuing j) e := by
  rw [← boundsRead_issuing, State.issuing] at read
  rw [State.issueAs]
  dsimp only at read ⊢
  rw [read] <;> rfl

/-- The rest of issue, for a descriptor whose bounds are known. -/
def State.issueKnown (s : State) (j : Job) (o : Op) : State :=
  match j.d.rangeCheck j.bm j.bn j.bk with
  | some e => s.reject j e
  | none =>
    match (match s.formatCheck j.d with | some e => some e | none => o.format s j) with
    | some e => s.reject j e
    | none => s.issueBlock j o

theorem issueAs_known {s t : State} {j k : Job} (known : s.bounded? t j k) (o : Op) : s.issueAs j o = t.issueKnown k o := by
  obtain ⟨read, rfl⟩ := known
  rw [← boundsRead_issuing, State.issuing] at read
  rw [State.issueAs]
  dsimp only at read ⊢
  rw [read] <;> rfl

section
variable {s t : State} {j : Job} {o : Op} {e : Err}

theorem issueKnown_outOfRange (range : j.d.rangeCheck j.bm j.bn j.bk = some e) : s.issueKnown j o = s.reject j e := by
  rw [State.issueKnown, range]

theorem issueKnown_badFormat (range : j.d.rangeCheck j.bm j.bn j.bk = none) (format : s.formatCheck j.d = some e) :
    s.issueKnown j o = s.reject j e := by
  rw [State.issueKnown, range]
  dsimp only
  rw [format]

theorem issueKnown_passes (range : j.d.rangeCheck j.bm j.bn j.bk = none) (format : s.formatCheck j.d = none) (own : o.format s j = none) :
    s.issueKnown j o = s.issueBlock j o := by
  rw [State.issueKnown, range]
  dsimp only
  rw [format]
  dsimp only
  rw [own]

theorem issueBlock_passes (near : o.block j = 0 ∨ s.strayRef j j.d.metaSrc = false) (there : s.blockWaits j (o.block j) = false)
    (read : (if o.block j = 0 then (s, none) else s.readSpan j.who ⟨j.d.metaSrc, 0, o.block j⟩) = (t, none)) :
    s.issueBlock j o = t.afterBlock { j with block := if o.block j = 0 then [] else t.peek j.who j.d.metaSrc 0 (o.block j) } o := by
  rw [State.issueBlock, if_neg (by rcases near with near | near <;> simp [near]), if_neg (by simp [there])]
  rw [read]

variable {k : Job}

theorem afterBlock_noop (check : o.check s j = (t, none)) (single : ¬ (j.d.readsReduce = true ∧ j.d.reduce = 4 ∧ j.d.opcode ≠ opCheck))
    (empty : o.noop j = true) : s.afterBlock j o = t.endJob { j with flags := j.flags ||| 2 ^ flNoop } 0 0 := by
  rw [State.afterBlock, check]
  dsimp only
  rw [if_neg single, if_pos empty, Job.mark, if_pos rfl]

theorem afterBlock_proceeds {u v : State} (check : o.check s j = (u, none))
    (single : ¬ (j.d.readsReduce = true ∧ j.d.reduce = 4 ∧ j.d.opcode ≠ opCheck)) (full : o.noop j = false)
    (acc : o.acc = true → u.accCheck j (o.shape j) (o.terms j) = none) (last : o.last u j = (v, none)) (opens : o.opens v j = (t, k)) :
    s.afterBlock j o = t.proceed k o := by
  have acc : (if o.acc then u.accCheck j (o.shape j) (o.terms j) else none) = none := by
    split
    · next h => exact acc h
    · rfl
  rw [State.afterBlock, check]
  dsimp only
  rw [if_neg single, if_neg (by simp [full]), acc]
  dsimp only
  rw [last]
  dsimp only
  rw [opens]

end

/-- A descriptor that passes its block is issued as far as the step that follows. -/
theorem issueAs_blockPasses {s t : State} {j k : Job} {o : Op} (passes : s.blockPasses t j k o) :
    ∃ v : State, s.issueAs j o = v.afterBlock k o ∧ o.check v k = (t, none) ∧ ¬ (k.d.readsReduce = true ∧ k.d.reduce = 4 ∧ k.d.opcode ≠ opCheck) := by
  obtain ⟨u, v, i, known, range, format, own, near, there, read, rfl, check, single⟩ := passes
  exact ⟨v, (issueAs_known known o).trans ((issueKnown_passes range format own).trans (issueBlock_passes near there read)), check, single⟩

theorem issueAs_noop {s t : State} {j k : Job} {o : Op} (passes : s.blockPasses t j k o) (empty : o.noop k = true) :
    s.issueAs j o = t.endJob { k with flags := k.flags ||| 2 ^ flNoop } 0 0 := by
  obtain ⟨v, issued, check, single⟩ := issueAs_blockPasses passes
  exact issued.trans (afterBlock_noop check single empty)

theorem issueAs_passes {s t : State} {j k : Job} {o : Op} (passes : s.passes t j k o) : s.issueAs j o = t.proceed k o := by
  obtain ⟨u, v, i, block, full, acc, last, opens⟩ := passes
  obtain ⟨w, issued, check, single⟩ := issueAs_blockPasses block
  exact issued.trans (afterBlock_proceeds check single full acc last opens)

/-! ### The descriptor stays in flight through the checks -/

theorem boundsRead_jobs {s t : State} {j : Job} {e : Option Err} (read : s.boundsRead j = (t, e)) : t.jobs = s.jobs := by
  rw [State.boundsRead] at read
  split at read
  · exact readSpan_jobs read
  · obtain ⟨rfl, _⟩ := Prod.mk.inj read
    rfl

theorem blockPasses_keeps {s t : State} {j k : Job} {o : Op} (keeps : o.Keeps) (passes : s.blockPasses t j k o) : t.jobs = s.jobs ∧ k.jid = j.jid := by
  obtain ⟨u, v, i, ⟨bounds, rfl⟩, _, _, _, _, _, read, rfl, check, _⟩ := passes
  have block : v.jobs = u.jobs := by
    split at read
    · obtain ⟨rfl, _⟩ := Prod.mk.inj read
      rfl
    · exact readSpan_jobs read
  exact ⟨(congrArg (·.1.jobs) check).symm.trans ((keeps.check ..).trans (block.trans (boundsRead_jobs bounds))), rfl⟩

theorem passes_keeps {s t : State} {j k : Job} {o : Op} (keeps : o.Keeps) (passes : s.passes t j k o) : t.jobs = s.jobs ∧ k.jid = j.jid := by
  obtain ⟨u, v, i, block, _, _, last, opens⟩ := passes
  obtain ⟨jobs, own⟩ := blockPasses_keeps keeps block
  constructor
  · calc
      t.jobs = v.jobs := (congrArg (·.1.jobs) opens).symm.trans (keeps.opens ..)
      _ = u.jobs := (congrArg (·.1.jobs) last).symm.trans (keeps.last ..)
      _ = s.jobs := jobs
  · exact (congrArg (·.2.jid) opens).symm.trans ((keeps.same ..).trans own)

theorem slotClaim_jobs (s : State) (q n op : Nat) : (s.slotClaim q n op).jobs = s.jobs := by
  rw [State.slotClaim]
  split
  · exact rest_jobs (rest_sendLink ..)
  · rfl

theorem claimFree_jobs (s : State) (j : Job) (cs : List (Nat × Nat)) : (s.claimFree j cs).1.jobs = s.jobs := by
  induction cs generalizing s j with
  | nil => rfl
  | cons c cs ih =>
    rw [State.claimFree]
    split
    · exact ih ..
    · split
      · exact (ih ..).trans (slotClaim_jobs ..)
      · rfl

theorem takeTokens_keeps {s u : State} {j i : Job} {rd wr : List (Nat × Nat)} {x : Option (Nat × Nat)} (took : s.takeTokens j rd wr = (u, i, x)) :
    u.jobs = s.jobs ∧ i.jid = j.jid := by
  rw [State.takeTokens] at took
  obtain ⟨rfl, h⟩ := Prod.mk.inj took
  obtain ⟨rfl, _⟩ := Prod.mk.inj h
  split
  · exact ⟨claimFree_jobs .., claimFree_jid ..⟩
  · exact ⟨rfl, rfl⟩

theorem issueState_jobs (p : State) (j : Job) (n : Nat) : (p.issueState j n).jobs = p.jobs := by
  rw [State.issueState]
  split
  · rfl
  · rw [State.stall]
    split <;> rfl

/-- Which bounds a descriptor's bounds check refuses, all with one status (R288). -/
theorem rangeCheck_status (d : Desc) {m n k : Nat} {e : Err} (h : d.rangeCheck m n k = some e) : e.1 = 0x7 := by
  have ite {c : Prop} [Decidable c] {e : Err} {x : Nat} {o : Option Err} (h : (if c then some (stRange, x) else o) = some e) (k : o = some e → e.1 = 7) : e.1 = 7 := by
    split at h
    · exact (congrArg (fun o : Option Err => (o.getD (7, 0)).1) h).symm
    · exact k h
  exact ite h fun h => ite h fun h => ite h fun h => ite h fun h => ite h fun h => nomatch h

theorem rangeCheck_refuses (d : Desc) (m n k : Nat) : (d.rangeCheck m n k).isSome = true ↔
    (d.opcode ∈ [opMatmul, opFused, opCheck, opConvert, opGather, opUpdate, opHaze, opForecast, opEmu, opReduce] ∧
      (2 ^ 24 - 1 < m ∨ (2 ^ 24 - 1 < n ∧ ¬ (d.opcode = opEmu ∧ d.isDot = false)) ∨ 2 ^ 26 < k)) ∨
    (d.opcode = opReduce ∧ (k < 1 ∨ 8 < k)) ∨ (d.opcode = opBarrier ∧ 65536 < n) := by
  have ite {c : Prop} [Decidable c] {e : Err} {o : Option Err} : (if c then some e else o).isSome = true ↔ c ∨ o.isSome = true := by
    split <;> simp [*]
  simp only [Desc.rangeCheck, ite, Option.isSome_none, Bool.false_eq_true, or_false, Desc.among, List.contains_eq_mem, decide_eq_true_eq,
    Nat.lt_one_iff, Bool.not_eq_true', Bool.and_eq_false_iff, decide_eq_false_iff_not]
  grind

end Sys2Proof.Machine

open Sys2Proof.Machine in
/-- Settles O52, along the steps of issue: the bounds record, the bounds, the formats, the block, the extent, the tokens; then by
opcode, the tiles that run on the jets leaving their descriptor running through every feed of a jet. -/
theorem issueChecksInOrderThenRuns : Obligations.IssueChecksInOrderThenRuns := by
  unfold Obligations.IssueChecksInOrderThenRuns
  refine ⟨fun d m n k => ⟨fun e h => rangeCheck_status d h, rangeCheck_refuses d m n k⟩, ?_⟩
  intro p jid n j c s o found due here row
  have issued : exec c p = .next (s.issueAs j o) := exec_issueRow found due here row
  have next {t : State} (h : s.issueAs j o = t) : exec c p = .next t := h ▸ issued
  refine ⟨fun t e read => next (issueAs_unread read o), fun t k known => ⟨fun e range => ?_, fun e range format => ?_⟩,
    fun t k block empty => next (issueAs_noop block empty), ?_⟩
  · exact next ((issueAs_known known o).trans (issueKnown_outOfRange range))
  · exact next ((issueAs_known known o).trans (issueKnown_badFormat range format))
  intro t k passes rd
  refine ⟨fun u i x took => ?_, fun u i took => ?_⟩
  · exact next ((issueAs_passes passes).trans (proceed_waits took))
  · refine ⟨next ((issueAs_passes passes).trans (proceed_runs took)), ?_⟩
    obtain ⟨checked, own⟩ := passes_keeps (keeps_opOf s j.d) passes
    obtain ⟨taken, same⟩ := takeTokens_keeps took
    have jobs : u.jobs = p.jobs := taken.trans (checked.trans (issueState_jobs p j n))
    have own : i.jid = jid := same.trans (own.trans (State.jid_of_job? found))
    subst own
    have there : u.job? i.jid = some j := (job?_congr jobs _).trans found
    have waiting := job?_putJob_self (j := { i with reads := rd, phase := .waiting, waitOn := none }) there
    exact runs_opOf waiting s row
end

section
/-! PROOFS. UNIT_TEST (14_rings_and_mailboxes.md, 18_reserves_and_faults.md): the reset of the unit that is tested. -/

namespace Sys2Proof.Machine

/-- Nothing comes up, no mailbox command starts or ends, and no byte of a mailbox changes. -/
structure Lowers (s t : State) : Prop where
  own : ∀ i, t.own i = true → s.own i = true
  run : t.mbRun = s.mbRun
  bytes : t.mbox = s.mbox

theorem Lowers.refl (s : State) : Lowers s s := ⟨fun _ h => h, rfl, rfl⟩

theorem Lowers.trans {s t u : State} (st : Lowers s t) (tu : Lowers t u) : Lowers s u :=
  ⟨fun i h => st.own i (tu.own i h), tu.run.trans st.run, tu.bytes.trans st.bytes⟩

theorem Lowers.foldl {α : Type} {f : State → α → State} (h : ∀ s x, Lowers s (f s x)) (l : List α) (s : State) : Lowers s (l.foldl f s) :=
  List.foldlRecOn (motive := Lowers s) l f (.refl s) fun t same x _ => same.trans (h t x)

theorem Lowers.ite {c : Prop} [Decidable c] {s t u : State} (h : Lowers s t) (k : Lowers s u) : Lowers s (if c then t else u) := by
  split
  · exact h
  · exact k

/-- What is down stays down. -/
theorem Lowers.down {s t : State} (h : Lowers s t) {i : Nat} (down : s.own i = false) : t.own i = false := by
  by_contra up
  rw [h.own i (by simpa using up)] at down
  cases down

theorem lowers_of_up {s t : State} (up : t.up = s.up) (run : t.mbRun = s.mbRun) (bytes : t.mbox = s.mbox) : Lowers s t :=
  ⟨fun i h => by rwa [State.own, up] at h, run, bytes⟩

theorem lowers_of_rest {s t : State} (h : t.rest = s.rest) : Lowers s t :=
  lowers_of_up (of_rest State.up h) (of_rest State.mbRun h) (of_rest State.mbox h)

theorem lowers_setOwn (s : State) (i : Nat) : Lowers s (s.setOwn i false) :=
  ⟨fun k h => by
    rw [own_setOwn] at h
    split at h
    · cases h
    · exact h, rfl, rfl⟩

theorem lowers_setTerrace (s : State) (t : Nat) : Lowers s (s.setTerrace t false) :=
  (lowers_setOwn ..).trans (.foldl (fun _ _ => lowers_setOwn ..) _ _)

/-- A terrace taken out is down. -/
theorem own_setTerrace_false (s : State) (t : Nat) : (s.setTerrace t false).own (128 + t) = false :=
  (Lowers.foldl (fun _ _ => lowers_setOwn ..) _ _).down (by rw [own_setOwn, if_pos rfl])

theorem lowers_setHolder (s : State) (r h : Nat) : Lowers s (s.setHolder r h) := by
  refine lowers_of_up (up_setHolder ..) ?_ ?_
  · rw [(maps_setHolder s r h).eq]
  · rw [(maps_setHolder s r h).eq]

theorem lowers_shows {ks : List RegName} {s t : State} (h : Shows ks s t) : Lowers s t := by
  refine lowers_of_up ?_ ?_ ?_ <;> rw [h.eq]

theorem lowers_takeReserve (s : State) : Lowers s s.takeReserve := by
  unfold State.takeReserve
  split
  · next e r _ _ =>
    have moved : Lowers s { s with failing := Tab.put s.failing e.1 r } := lowers_of_up rfl rfl rfl
    exact (moved.trans (lowers_setTerrace _ r)).trans (lowers_of_rest (rest_refreshReady _))
  · exact .refl s

theorem lowers_settle (s : State) : Lowers s s.settle where
  own i up := by
    have reserves : Lowers s s.refreshReady.takeReserve.takeReserve.takeReserve :=
      (((lowers_of_rest (rest_refreshReady s)).trans (lowers_takeReserve _)).trans (lowers_takeReserve _)).trans (lowers_takeReserve _)
    have same (t : State) : t.holdDefaults.showSpares.up = t.up := (up_showSpares _).trans (up_holdDefaults t)
    rw [State.settle, State.own, same] at up
    exact reserves.own i up
  run := settle_field s State.mbRun
  bytes := settle_field s State.mbox

theorem lowers_flushed (s : State) (kind unit : Nat) : Lowers s (s.flushed kind unit) := by
  refine lowers_of_rest ?_
  unfold State.flushed
  dsimp only
  split
  · rfl
  · exact rest_raise ..

/-! ### The resets of a unit and of a stack -/

theorem lowers_dropSamples (s : State) (t : Nat) : Lowers s (s.dropSamples t) := by
  have counted (q : List HaloSample) : Lowers s (q.foldl (fun (s : State) x =>
      if x.d.opcode = opForecast then s.bump (rk .FC_TRK_DROPPED 0 (ForecastBlk.ofBytes x.block).tracker)
      else if x.d.opcode = opHaze then s.bump (rk .HZ_TRK_DROPPED 0 (HazeBlk.ofBytes x.block).tracker)
      else s) s) := .foldl (fun t x => .ite (lowers_of_rest (rest_bump ..)) (.ite (lowers_of_rest (rest_bump ..)) (.refl t))) _ _
  unfold State.dropSamples
  dsimp only
  split
  · exact .refl s
  · have shown (u : State) : Lowers u (u.show (rk .HL_PENDING 0 t) 0) := lowers_shows (ks := [.HL_PENDING]) (shows_show u (by decide) ..)
    refine Lowers.trans ?_ (shown _)
    exact (counted _).trans (lowers_of_up rfl rfl rfl)

theorem lowers_plain {s t : State} (h : t.plain = s.plain) : Lowers s t :=
  lowers_of_up (State.of_plain h State.up fun _ => rfl) (State.of_plain h State.mbRun fun _ => rfl) (State.of_plain h State.mbox fun _ => rfl)

theorem lowers_clearTerrace (s : State) (t : Nat) : Lowers s (s.clearTerrace t) := by
  have jet (x : State) (y : Nat) : Lowers x ((x.showJet y).quiet y) := by
    refine lowers_plain ((State.plain_quiet ..).trans ?_)
    simp only [State.showJet]
    split <;> rfl
  have engine (x : State) (y : Nat) : Lowers x (x.showEngine y) := by
    refine lowers_plain ?_
    simp only [State.showEngine]
    split <;> rfl
  unfold State.clearTerrace
  extract_lets mine a js b
  have cleared : Lowers s a := lowers_of_up rfl rfl rfl
  exact (cleared.trans (.foldl jet _ a)).trans (.foldl (fun x i => engine x _) _ b)

theorem lowers_showSpace (s : State) : Lowers s s.showSpace := lowers_shows (shows_showSpace s)

/-- A unit reset leaves no unit up that was not, and the unit that it resets is down. -/
theorem lowers_unitReset (s : State) (l : Nat) :
    Lowers s (s.unitReset l) ∧ (s.unitReset l).own (if 0x200 ≤ l then 192 + (l - 0x200) else 128 + (l - 0x100)) = false := by
  unfold State.unitReset
  extract_lets t p _ a b
  have begun : Lowers s a ∧ a.own (if 0x200 ≤ l then 192 + (l - 0x200) else 128 + (l - 0x100)) = false := by
    unfold a
    split
    · have cleared (u : State) : Lowers u ((u.clearBasin (l - 0x200)).clearPools (l - 0x200) 1) := lowers_of_up rfl rfl rfl
      exact ⟨(lowers_setOwn ..).trans (cleared _), (cleared _).down (by rw [own_setOwn, if_pos rfl])⟩
    · next terrace =>
      have emptied (u : State) : Lowers u ((u.clearTerrace t).clearPools (4 * t) 4) := (lowers_clearTerrace u t).trans (lowers_of_up rfl rfl rfl)
      have dropped (u : State) : Lowers u { u with regs := u.regs.filter fun e => !unitOfTerrace p e.1 } := lowers_of_up rfl rfl rfl
      have cleared (u : State) := (emptied u).trans (dropped _)
      refine ⟨((lowers_dropSamples s t).trans (lowers_setTerrace _ t)).trans (cleared _), (cleared _).down ?_⟩
      have same : t = l - 0x100 := if_neg terrace
      rw [same]
      exact own_setTerrace_false ..
  have shown : Lowers a b := (lowers_setHolder a ..).trans (lowers_shows (shows_showIds _ p))
  have columns : Lowers b ((List.range 16).foldl (fun s i => s.showColumns (17 * p + i)) b) := .foldl (fun x i => lowers_shows (shows_showColumns x _)) _ b
  have through := ((shown.trans columns).trans (lowers_settle _)).trans (lowers_flushed _ 4 (hereHandle l))
  exact ⟨begun.1.trans through, through.down begun.2⟩

theorem lowers_stackReset (s : State) (st : Nat) : Lowers s (s.stackReset st) ∧ (s.stackReset st).own (64 + st) = false := by
  unfold State.stackReset
  extract_lets out left a b c
  have cleared : Lowers s b := lowers_of_up rfl rfl rfl
  have shown : Lowers s c := cleared.trans (.ite (.refl b) (lowers_of_rest (rest_setFld ..)))
  have through (x : State) : Lowers x ((x.settle.flushed 4 devHandle).showSpace) :=
    ((lowers_settle x).trans (lowers_flushed ..)).trans (lowers_showSpace _)
  refine ⟨(shown.trans (lowers_setOwn ..)).trans (through _), (through _).down ?_⟩
  rw [own_setOwn, if_pos rfl]

theorem unitKind_terrace {l : Nat} (h : unitKind l = some .terrace) : 0x100 ≤ l ∧ l < 0x123 := by
  unfold unitKind at h
  split at h
  · cases h
  split at h
  · assumption
  · repeat first | split at h | cases h

theorem unitKind_basin {l : Nat} (h : unitKind l = some .basin) : 0x200 ≤ l ∧ l < 0x28C := by
  unfold unitKind at h
  split at h
  · cases h
  split at h
  · cases h
  split at h
  · assumption
  · repeat first | split at h | cases h

/-- What UNIT_TEST names: a terrace, a basin or a stack. -/
theorem testUnit_some {s : State} {h l : Nat} (named : s.testUnit h = some l) :
    (∃ st : Nat, l = dramTest st) ∨ (0x100 ≤ l ∧ l < 0x123) ∨ (0x200 ≤ l ∧ l < 0x28C) := by
  unfold State.testUnit at named
  split at named
  · cases named
  · split at named
    · next kind =>
      obtain rfl := Option.some.inj named
      exact .inr (.inl (unitKind_terrace kind))
    · next kind =>
      obtain rfl := Option.some.inj named
      exact .inr (.inr (unitKind_basin kind))
    · cases named
    · obtain ⟨st, _, rfl⟩ := Option.map_eq_some_iff.1 named
      exact .inl ⟨_, rfl⟩

/-- A unit that is tested is not ready. -/
theorem testReset_down {s : State} {h l : Nat} (named : s.testUnit h = some l) : (s.testReset l).testReady l = false := by
  rcases testUnit_some named with ⟨st, rfl⟩ | ⟨low, high⟩ | ⟨low, high⟩
  · have stack : 2 ^ 16 ≤ dramTest st := Nat.le_add_right ..
    rw [State.testReset, if_pos stack, State.testReady, if_pos stack, State.stackReady, dramTest,
      Nat.add_sub_cancel_left, (lowers_stackReset s st).2, Bool.false_and]
  · have down := (lowers_unitReset s l).2
    rw [if_neg (by omega)] at down
    rw [State.testReset, if_neg (by omega), State.testReady, if_neg (by omega), State.unitReady, unitKind, if_neg (by omega), if_pos ⟨low, high⟩]
    dsimp only
    rw [State.terraceReady, down, Bool.false_and, Bool.false_and]
  · have down := (lowers_unitReset s l).2
    rw [if_pos (by omega)] at down
    rw [State.testReset, if_neg (by omega), State.testReady, if_neg (by omega), State.unitReady, unitKind, if_neg (by omega), if_neg (by omega), if_pos ⟨low, high⟩]
    dsimp only
    rw [basinOf, if_pos ⟨low, high⟩, State.basinReady, down, Bool.false_and]

theorem lowers_testReset (s : State) (l : Nat) : Lowers s (s.testReset l) := by
  unfold State.testReset
  split
  · exact (lowers_stackReset ..).1
  · exact (lowers_unitReset ..).1

/-! ### The command and its end -/

section
variable {s : State} {mb l : Nat} {f : Option Nat} (due : MailboxDue s (.unitTest mb f))
include due

theorem unitTest_elsewhere (unnamed : s.testUnit (s.pay mb 0 3) = none) : exec (.unitTest mb f) s = .next (s.mbAnswer mb 4 64 []) := by
  rw [exec_due (exec_unitTest ..) due]
  rw [unnamed]
  rfl

variable (named : s.testUnit (s.pay mb 0 3) = some l)
include named

theorem unitTest_notReady (down : s.testReady l = false) : exec (.unitTest mb f) s = .next (s.mbAnswer mb 0x11 0 []) := by
  rw [exec_due (exec_unitTest ..) due]
  rw [named]
  dsimp only
  rw [if_pos (by simp [down])]
  rfl

theorem unitTest_busy (up : s.testReady l = true) (busy : s.unitBusy l = true) : exec (.unitTest mb f) s = .next (s.mbAnswer mb 0x13 0 []) := by
  rw [exec_due (exec_unitTest ..) due]
  rw [named]
  dsimp only
  rw [if_neg (by simp [up]), if_pos busy]
  rfl

theorem unitTest_runs (up : s.testReady l = true) (idle : s.unitBusy l = false) : exec (.unitTest mb f) s =
    .next { s.testReset l with mbRun := Tab.put (s.testReset l).mbRun mb (.unitTest l f) } := by
  rw [exec_due (exec_unitTest ..) due]
  rw [named]
  dsimp only
  rw [if_neg (by simp [up]), if_neg (by simp [idle])]
  rfl

end

end Sys2Proof.Machine
end

section
/-! PROOFS. What settling leaves of a stack's status (13_memory_and_placement.md): every bit but the ready bit. -/

namespace Sys2Proof.Machine

/-- Bit `i` of the status of stack `st` stands as it was. -/
def BitStays (st i : Nat) (s t : State) : Prop := t.bit (rk .DM_STATUS st) i = s.bit (rk .DM_STATUS st) i

section
variable {st i : Nat}

theorem BitStays.refl (s : State) : BitStays st i s s := rfl

theorem BitStays.trans {s t u : State} (h : BitStays st i s t) (k : BitStays st i t u) : BitStays st i s u := Eq.trans k h

theorem BitStays.foldl {α : Type} {f : State → α → State} (h : ∀ s x, BitStays st i s (f s x)) (l : List α) (s : State) :
    BitStays st i s (l.foldl f s) :=
  List.foldlRecOn (motive := BitStays st i s) l f (.refl s) fun t same x _ => same.trans (h t x)

theorem bitStays_of_reg {s t : State} (same : t.reg (rk .DM_STATUS st) = s.reg (rk .DM_STATUS st)) : BitStays st i s t := bit_congr same i

theorem bitStays_setReg (s : State) {n : RegName} (other : n ≠ .DM_STATUS) (u x : Nat) (v : Word) : BitStays st i s (s.setReg (rk n u x) v) :=
  bitStays_of_reg (State.reg_setReg_other _ _ fun same => other (congrArg RegKey.name same).symm)

theorem bitStays_setFld (s : State) {n : RegName} (other : n ≠ .DM_STATUS) (u x lo w v : Nat) : BitStays st i s (s.setFld (rk n u x) lo w v) :=
  bitStays_setReg s other ..

theorem bitStays_raise (s : State) (c u : Nat) (p : List Byte) : BitStays st i s (s.raise c u p) :=
  bitStays_of_reg (State.raise_reg (show RegName.DM_STATUS ∉ eventRegs by decide) ..)

/-- A field of a stack's status set beside the bit. -/
theorem bitStays_field (s : State) (n lo w x : Nat) (inside : lo + w ≤ 64) (apart : i + 1 ≤ lo ∨ lo + w ≤ i) :
    BitStays st i s (s.setFld (rk .DM_STATUS n) lo w x) := by
  by_cases same : n = st
  · subst same
    exact bit_setFld_apart s _ lo w x i inside apart
  · exact bit_setFld_other s lo w x i fun h => same (congrArg RegKey.unit h).symm

theorem bitStays_refreshReady (above : 1 ≤ i) (s : State) : BitStays st i s s.refreshReady := by
  by_cases same : s.readyChanges = []
  · rw [State.refreshReady_of_nil same]
    exact .refl s
  · have words : BitStays st i s s.setReadyWords :=
      bitStays_of_reg (State.reg_foldl _ _ _ _ fun t x mem => t.reg_setReg_other _ fun e => by
        have name : x.1 = .DM_STATUS := (congrArg RegKey.name e).symm
        exact readyWords_apart x mem (by rw [name]; decide))
    have generation (t : State) (v : Word) : BitStays st i t (t.setReg (rk .READY_GENERATION) v) := bitStays_setReg t (by decide) ..
    have ready (t : State) : BitStays st i t ((List.range 16).foldl (fun t n => t.setFld (rk .DM_STATUS n) 0 1 (flagNat (s.stackReady n))) t) :=
      .foldl (fun t n => bitStays_field t n 0 1 _ (by decide) (.inr above)) _ t
    have published : BitStays st i s s.publishReady :=
      (((words.trans (generation ..)).trans (ready _)).trans (bitStays_setFld _ (n := .PL_STATUS) (by decide) ..)).trans (bitStays_setFld _ (n := .NB_STATUS) (by decide) ..)
    rw [State.refreshReady_of_ne_nil same]
    exact published.trans (.foldl (fun t e => bitStays_raise t ..) _ _)

theorem bitStays_setTerrace (s : State) (t : Nat) (b : Bool) : BitStays st i s (s.setTerrace t b) :=
  have one (x : State) (n : Nat) : BitStays st i x (x.setOwn n b) := bitStays_of_reg rfl
  (one s _).trans (.foldl (fun x n => one x _) _ _)

theorem bitStays_takeReserve (above : 1 ≤ i) (s : State) : BitStays st i s s.takeReserve := by
  unfold State.takeReserve
  split
  · next e r _ _ =>
    have moved : BitStays st i s { s with failing := Tab.put s.failing e.1 r } := bitStays_of_reg rfl
    exact (moved.trans (bitStays_setTerrace ..)).trans (bitStays_refreshReady above _)
  · exact .refl s

theorem bitStays_setHolder (s : State) (r h : Nat) : BitStays st i s (s.setHolder r h) := by
  unfold State.setHolder
  dsimp only
  split
  · exact (BitStays.trans (bitStays_of_reg rfl) (bitStays_setFld _ (n := .JT_STATUS) (by decide) ..)).trans
      ((bitStays_setFld _ (n := .TR_RESERVE) (by decide) ..).trans (bitStays_setFld _ (n := .TR_RESERVE) (by decide) ..))
  · exact bitStays_of_reg rfl

theorem bitStays_ite {c : Prop} [Decidable c] {s t u : State} (h : BitStays st i s t) (k : BitStays st i s u) : BitStays st i s (if c then t else u) := by
  split
  · exact h
  · exact k

theorem bitStays_settle (above : 1 ≤ i) (s : State) : BitStays st i s s.settle := by
  have held (t : State) : BitStays st i t t.holdDefaults := by
    have timer : BitStays st i t (if t.nimbus && t.holder resTimer = 0 then t.setHolder resTimer 5 else t) := bitStays_ite (bitStays_setHolder ..) (.refl t)
    refine timer.trans (.foldl (fun u x => ?_) _ _)
    exact bitStays_ite (bitStays_ite (bitStays_setHolder ..) (.refl u)) (bitStays_ite (bitStays_setHolder ..) (.refl u))
  have spares (t : State) : BitStays st i t t.showSpares := bitStays_ite (.refl t) (bitStays_setReg t (by decide) ..)
  have reserves := ((bitStays_takeReserve (st := st) above s.refreshReady).trans (bitStays_takeReserve above _)).trans (bitStays_takeReserve above _)
  exact (((bitStays_refreshReady above s).trans reserves).trans (held _)).trans (spares _)

end

end Sys2Proof.Machine
end

section
/-! PROOFS. The errors of device memory that an event's record can clear (13_memory_and_placement.md, 14_rings_and_mailboxes.md). -/

namespace Sys2Proof.Machine

theorem dramErr_send (s : State) (p : Post) : (s.send p).dramErr = s.dramErr := by
  unfold State.send
  split
  · cases p with
    | write a bs => rfl
    | vector v =>
      unfold State.post
      dsimp only
      split
      · rfl
      · split <;> rfl
  · rfl

theorem dramErr_sendLink (s : State) (m : LinkMsg) (op : Nat) : (s.sendLink m op).dramErr = s.dramErr := by
  unfold State.sendLink State.sendAs
  split
  · rfl
  · dsimp only
    split <;> rfl

theorem dramErr_dropLatch (s : State) (q x c w : Nat) : (s.dropLatch q x c w).1.dramErr = s.dramErr := by
  unfold State.dropLatch
  dsimp only
  split <;> rfl

theorem dramErr_unmappedLatch (s : State) (a : Nat) : (s.unmappedLatch a).1.dramErr = s.dramErr := by
  unfold State.unmappedLatch
  dsimp only
  split <;> rfl

theorem dramErr_wholeWord (s : State) (q x : Nat) : (s.wholeWord q x).dramErr = s.dramErr := by
  unfold State.wholeWord
  dsimp only
  split <;> rfl

theorem dramErr_recordRequest (s : State) (q x : Nat) (bs : List Byte) : (s.recordRequest q x bs).1.dramErr = s.dramErr := by
  unfold State.recordRequest
  split
  · exact List.foldlRecOn (motive := fun t : State => t.dramErr = s.dramErr) _ _ rfl fun t same p _ => (dramErr_wholeWord t q p.1).trans same
  · exact dramErr_dropLatch ..

theorem dramErr_spillStore (s : State) (m x : Nat) (bs : List Byte) (op : Nat) : (s.spillStore m x bs op).dramErr = s.dramErr :=
  (dramErr_sendLink ..).trans rfl

/-- Errors of device memory go, and none comes. -/
def Clears (s t : State) : Prop := ∀ w ∈ t.dramErr, w ∈ s.dramErr

theorem Clears.trans {s t u : State} (h : Clears s t) (k : Clears t u) : Clears s u := fun w mem => h w (k w mem)

theorem clears_of_eq {s t : State} (same : t.dramErr = s.dramErr) : Clears s t := fun _ mem => same ▸ mem

theorem clears_del {s t : State} {k : Nat} (same : t.dramErr = Tab.del s.dramErr k) : Clears s t := fun w mem => by
  rw [same] at mem
  exact (List.mem_filter.1 mem).1

/-- A record's store adds no error. -/
theorem clears_recordStore (s : State) (p : Place) (o : Nat) (bs : List Byte) : Clears s (s.recordStore p o bs).1 := by
  unfold State.recordStore
  dsimp only
  split
  · exact clears_of_eq (dramErr_send ..)
  · split
    case h_1 => exact clears_of_eq (dramErr_unmappedLatch ..)
    case h_2 => exact clears_of_eq (dramErr_recordRequest ..)
    case h_3 => exact clears_del rfl
    case h_4 => exact clears_of_eq ((dramErr_send ..).trans rfl)
    case h_5 => exact clears_of_eq (dramErr_sendLink ..)
    case h_6 =>
      split
      · exact clears_of_eq ((dramErr_spillStore ..).trans rfl)
      · exact clears_of_eq rfl
    case h_7 => exact clears_of_eq rfl

/-- An event adds no error. -/
theorem clears_raise (s : State) (c u : Nat) (p : List Byte) : Clears s (s.raise c u p) := by
  have bound (fuel : Nat) : Clears s (s.raiseN fuel c u p) := by
    induction fuel generalizing s c u p with
    | zero => exact clears_of_eq rfl
    | succ n ih =>
      have logged : (s.logEvent c u p).dramErr = s.dramErr := rfl
      unfold State.raiseN
      dsimp only
      generalize s.logEvent c u p = x at logged ⊢
      split
      · exact clears_of_eq logged
      · split
        · exact clears_of_eq logged
        · next r _ =>
          have written (t : State) (bs : List Byte) (o : Nat) (same : t.dramErr = s.dramErr) :
              Clears s ((t.recordStore r.place o bs).1.send (.vector 2047)) :=
            ((clears_of_eq same).trans (clears_recordStore t _ _ _)).trans (clears_of_eq (dramErr_send ..))
          split
          · split
            · refine Clears.trans ?_ (ih _ _ _ _)
              exact written _ _ _ (Eq.trans rfl logged)
            · exact written _ _ _ (Eq.trans rfl logged)
          · exact clears_of_eq (Eq.trans rfl logged)
  exact bound 4

/-! ### A corrected codeword -/

/-- What the patrol of a codeword leaves: the dies that are out, the repair map, what is up; errors only go, and with
the event ring outside device memory no allocation changes. -/
structure Scrubs (st : Nat) (s t : State) : Prop where
  bits : ∀ i, 1 ≤ i → i < 8 → BitStays st i s t
  map : t.life.map = s.life.map
  count : t.life.dies = s.life.dies
  up : t.up = s.up
  less : Clears s t
  plain : s.plainEvents → t.plainEvents ∧ t.allocs = s.allocs

theorem Scrubs.refl (st : Nat) (s : State) : Scrubs st s s := ⟨fun _ _ _ => rfl, rfl, rfl, rfl, fun _ h => h, fun h => ⟨h, rfl⟩⟩

theorem Scrubs.trans {st : Nat} {s t u : State} (h : Scrubs st s t) (k : Scrubs st t u) : Scrubs st s u where
  bits i low high := (h.bits i low high).trans (k.bits i low high)
  map := k.map.trans h.map
  count := k.count.trans h.count
  up := k.up.trans h.up
  less := h.less.trans k.less
  plain p := ⟨(k.plain (h.plain p).1).1, (k.plain (h.plain p).1).2.trans (h.plain p).2⟩

theorem scrubs_raise (st : Nat) (s : State) (c u : Nat) (p : List Byte) : Scrubs st s (s.raise c u p) where
  bits i _ _ := bitStays_raise s c u p
  map := raise_field s c u p fun x => x.life.map
  count := raise_field s c u p fun x => x.life.dies
  up := raise_field s c u p State.up
  less := clears_raise s c u p
  plain h := ⟨(sameLog_raise s c u p h).plain h, (settles_raise s c u p).plainField h State.allocs⟩

/-- The state of a correction before its row is spared. -/
theorem scrubs_corrected (s : State) (st a : Nat) (rows : Tab (List Nat)) :
    Scrubs st s { s.bump (rk .DM_CORRECTED st) with dramErr := Tab.del s.dramErr (codeKey st a), rowCorr := rows } where
  bits i _ _ := bitStays_setReg (st := st) (i := i) s (n := .DM_CORRECTED) (by decide) ..
  map := rfl
  count := rfl
  up := rfl
  less := clears_del rfl
  plain h := ⟨h, rfl⟩

theorem dramCorrected_eq (s : State) (st a : Nat) : ∃ (rows : Tab (List Nat)) (n : Nat),
    let t : State := { s.bump (rk .DM_CORRECTED st) with dramErr := Tab.del s.dramErr (codeKey st a), rowCorr := rows }
    s.dramCorrected st a = t ∨
    s.dramCorrected st a = ((({ t with life := { t.life with dramRows := satAdd 32 t.life.dramRows 1 } } : State).setFld (rk .DM_STATUS st) 8 12 n).bump
      (rk .DM_ROWS_SPARED st)).raise 0x21 devHandle (payload [(24, 1, st), (26, 2, n)]) := by
  unfold State.dramCorrected
  dsimp only
  split
  · exact ⟨_, _, .inr rfl⟩
  · exact ⟨_, 0, .inl rfl⟩

theorem scrubs_dramCorrected (s : State) (st a : Nat) : Scrubs st s (s.dramCorrected st a) := by
  obtain ⟨rows, n, h | h⟩ := dramCorrected_eq s st a
  · exact h ▸ scrubs_corrected s st a rows
  · rw [h]
    refine (scrubs_corrected s st a rows).trans (Scrubs.trans ?_ (scrubs_raise ..))
    exact ⟨fun i _ high => (bitStays_field (st := st) (i := i) _ st 8 12 n (by decide) (.inl (by omega))).trans
      (bitStays_setReg _ (n := .DM_ROWS_SPARED) (by decide) ..), rfl, rfl, rfl, clears_of_eq rfl, fun h => ⟨h, rfl⟩⟩

theorem dramCorrected_dieSeen (s : State) (st a : Nat) : (s.dramCorrected st a).dieSeen = s.dieSeen := by
  obtain ⟨rows, n, h | h⟩ := dramCorrected_eq s st a
  · exact (congrArg State.dieSeen h).trans rfl
  · exact (congrArg State.dieSeen h).trans (raise_field _ _ _ _ State.dieSeen)

/-- A corrected codeword holds no error. -/
theorem dramCorrected_gone (s : State) (st a : Nat) : ∀ w ∈ (s.dramCorrected st a).dramErr, w.1 ≠ codeKey st a := by
  obtain ⟨rows, n, h | h⟩ := dramCorrected_eq s st a
  · intro w mem
    rw [h] at mem
    simpa using (List.mem_filter.1 mem).2
  · intro w mem
    rw [h] at mem
    simpa using (List.mem_filter.1 (clears_raise _ _ _ _ w mem)).2

/-- A correction with the event ring outside device memory: the codeword's errors go, and no others, and it is counted. -/
theorem dramCorrected_plain {s : State} (plain : s.plainEvents) (st a : Nat) : (s.dramCorrected st a).dramErr = Tab.del s.dramErr (codeKey st a) ∧
    (s.dramCorrected st a).reg (rk .DM_CORRECTED st) = (s.bump (rk .DM_CORRECTED st)).reg (rk .DM_CORRECTED st) := by
  obtain ⟨rows, n, h | h⟩ := dramCorrected_eq s st a
  · rw [h]
    exact ⟨rfl, rfl⟩
  · rw [h]
    refine ⟨Eq.trans ((settles_raise _ _ _ _).plainField (by exact plain) State.dramErr) rfl, ?_⟩
    rw [State.raise_reg (show RegName.DM_CORRECTED ∉ eventRegs by decide), State.reg_bump_other _ _ (by simp [rk]), State.reg_setFld_other _ _ _ _ (by simp [rk])]
    rfl

/-! ### A table with one entry put in -/

section
variable {α : Type} {t : Tab α} {k : Nat}

theorem Tab.filter_put_fresh {p : Nat × α → Bool} (none : t.filter p = []) (v : α) (own : p (k, v) = true) (fresh : ∀ e ∈ t, e.1 ≠ k) :
    (Tab.put t k v).filter p = [(k, v)] := by
  induction t with
  | nil => simp [Tab.put, own]
  | cons e r ih =>
    have head : p e = false := by
      by_contra h
      rw [List.filter_cons, if_pos (by simpa using h)] at none
      cases none
    have tail : r.filter p = [] := by simpa [List.filter_cons, head] using none
    unfold Tab.put
    split
    · simp [own, head, tail]
    · split
      · next same => exact absurd same.symm (fresh e (.head _))
      · rw [List.filter_cons, if_neg (by simp [head])]
        exact ih tail fun e mem => fresh e (.tail _ mem)

theorem Tab.del_put_fresh (v : α) (fresh : ∀ e ∈ t, e.1 ≠ k) : Tab.del (Tab.put t k v) k = t := by
  have gone (r : Tab α) (fresh : ∀ e ∈ r, e.1 ≠ k) : Tab.del r k = r := List.filter_eq_self.2 fun e mem => by simpa using fresh e mem
  induction t with
  | nil => simp [Tab.put, Tab.del]
  | cons e r ih =>
    have tail : ∀ e ∈ r, e.1 ≠ k := fun e mem => fresh e (.tail _ mem)
    have head := fresh e (.head _)
    unfold Tab.put
    split
    · rw [Tab.del, List.filter_cons, if_neg (by simp)]
      exact gone _ fresh
    · split
      · next same => exact absurd same.symm head
      · rw [Tab.del, List.filter_cons, if_pos (by simpa using head)]
        exact congrArg (e :: ·) (ih tail)

theorem Tab.getD_fresh (z : α) (fresh : ∀ e ∈ t, e.1 ≠ k) : Tab.getD t k z = z := by
  induction t with
  | nil => rfl
  | cons e r ih =>
    rw [Tab.getD, Tab.find?, if_neg (fresh e (.head _))]
    exact ih fun e mem => fresh e (.tail _ mem)

end

/-- Each entry of a pass that changes distinct entries of a table. -/
theorem Tab.getD_foldl_put {α : Type} {key : Nat → Nat} (inj : ∀ a b, key a = key b → a = b) (f : α → α) (z : α) {l : List Nat} (nd : l.Nodup)
    (t : Tab α) (d : Nat) : Tab.getD (l.foldl (fun t d => Tab.put t (key d) (f (Tab.getD t (key d) z))) t) (key d) z =
      if d ∈ l then f (Tab.getD t (key d) z) else Tab.getD t (key d) z := by
  induction l generalizing t with
  | nil => simp
  | cons x l ih =>
    obtain ⟨new, nd⟩ := List.nodup_cons.1 nd
    rw [List.foldl_cons, ih nd]
    by_cases same : d = x
    · subst same
      rw [if_neg new, if_pos (.head _), Tab.getD_put_same]
    · have other : key d ≠ key x := fun e => same (inj _ _ e)
      simp only [Tab.getD_put_other _ _ _ other, List.mem_cons, same, false_or]

/-! ### The marks of the dies -/

/-- The codewords of the patrol period in which die `d` of stack `st` showed errors. -/
def State.seenOn (s : State) (st d : Nat) : List Nat := Tab.getD s.dieSeen (5 * st + d) []

/-- What a codeword adds to a die's marks. -/
def seenWith (d : Nat) (l : List Nat) (w : Nat × List (Nat × Nat)) : List Nat := if w.2.any fun x => x.1 = d then setIns l (w.1 % 2 ^ 34) else l

theorem seenOn_dieShown (s : State) (st : Nat) (w : Nat × List (Nat × Nat)) {d : Nat} (die : d < 5) :
    (s.dieShown st (64 * (w.1 % 2 ^ 34)) w.2).seenOn st d = seenWith d (s.seenOn st d) w := by
  have nd : ((List.range 5).filter fun d => w.2.any fun e => e.1 = d).Nodup := List.nodup_range.filter _
  have shown := Tab.getD_foldl_put (key := fun d => 5 * st + d) (fun a b e => by omega) (fun l => setIns l (64 * (w.1 % 2 ^ 34) / 64)) ([] : List Nat) nd s.dieSeen d
  refine shown.trans ?_
  rw [Nat.mul_div_cancel_left _ (by decide), seenWith]
  exact if_congr (by simp [die]) rfl rfl

theorem patrolWord_cases (s : State) (st a : Nat) (es : List (Nat × Nat)) :
    (s.codewordOk st es = false ∧ s.patrolWord st a es = s.dieShown st a es) ∨
    (s.codewordOk st es = true ∧ s.patrolWord st a es = (s.dieShown st a es).dramCorrected st a) := by
  have same : (s.dieShown st a es).codewordOk st es = s.codewordOk st es := rfl
  unfold State.patrolWord
  dsimp only
  rw [same]
  split
  · next ok => exact .inr ⟨ok, rfl⟩
  · next bad => exact .inl ⟨by simpa using bad, rfl⟩

theorem scrubs_patrolWord (s : State) (st a : Nat) (es : List (Nat × Nat)) : Scrubs st s (s.patrolWord st a es) := by
  have shown : Scrubs st s (s.dieShown st a es) := ⟨fun _ _ _ => bitStays_of_reg rfl, rfl, rfl, rfl, clears_of_eq rfl, fun h => ⟨h, rfl⟩⟩
  obtain ⟨_, h⟩ | ⟨_, h⟩ := patrolWord_cases s st a es
  · exact h ▸ shown
  · exact h ▸ shown.trans (scrubs_dramCorrected ..)

theorem seenOn_patrolWord (s : State) (st : Nat) (w : Nat × List (Nat × Nat)) {d : Nat} (die : d < 5) :
    (s.patrolWord st (64 * (w.1 % 2 ^ 34)) w.2).seenOn st d = seenWith d (s.seenOn st d) w := by
  obtain ⟨_, h⟩ | ⟨_, h⟩ := patrolWord_cases s st (64 * (w.1 % 2 ^ 34)) w.2
  · rw [h, seenOn_dieShown _ _ _ die]
  · rw [h, State.seenOn, dramCorrected_dieSeen, ← State.seenOn, seenOn_dieShown _ _ _ die]

/-- A codeword's address names it. -/
theorem codeKey_of_word {n st : Nat} (own : n / 2 ^ 34 = st) : codeKey st (64 * (n % 2 ^ 34)) = n := by
  rw [codeKey, Nat.mul_div_cancel_left _ (by decide), ← own]
  exact Nat.div_add_mod' n (2 ^ 34)

/-! ### The codewords of a pass -/

/-- The patrol of the codewords of a stack that hold an error. -/
def State.scrubWords (s : State) (st : Nat) (ws : List (Nat × List (Nat × Nat))) : State :=
  ws.foldl (fun s w => s.patrolWord st (64 * (w.1 % 2 ^ 34)) w.2) s

theorem scrubs_scrubWords (s : State) (st : Nat) (ws : List (Nat × List (Nat × Nat))) : Scrubs st s (s.scrubWords st ws) :=
  List.foldlRecOn (motive := Scrubs st s) ws _ (.refl st s) fun t same w _ => same.trans (scrubs_patrolWord t st _ w.2)

theorem seenOn_scrubWords (s : State) (st : Nat) (ws : List (Nat × List (Nat × Nat))) {d : Nat} (die : d < 5) :
    (s.scrubWords st ws).seenOn st d = ws.foldl (seenWith d) (s.seenOn st d) := by
  induction ws generalizing s with
  | nil => rfl
  | cons w ws ih => exact (ih _).trans (congrArg (ws.foldl (seenWith d)) (seenOn_patrolWord s st w die))

/-- Which dies are out decides what can be corrected. -/
theorem codewordOk_congr {s t : State} {st : Nat} (same : t.diesOut st = s.diesOut st) (es : List (Nat × Nat)) : t.codewordOk st es = s.codewordOk st es := by
  rw [State.codewordOk, State.codewordOk, same]

theorem diesOut_testBit (s : State) (st d : Nat) : bitOf (s.diesOut st) d = (decide (d < 5) && s.bit (rk .DM_STATUS st) (3 + d)) := by
  have bit : s.bit (rk .DM_STATUS st) (3 + d) = bitOf (s.reg (rk .DM_STATUS st)).toNat (3 + d) := rfl
  rw [bit, bitOf_eq_testBit, bitOf_eq_testBit, State.diesOut, State.fld, bitsOf, Nat.testBit_mod_two_pow, Nat.testBit_div_two_pow, Nat.add_comm d 3]

theorem Scrubs.diesOut {st : Nat} {s t : State} (h : Scrubs st s t) : t.diesOut st = s.diesOut st := by
  refine Nat.eq_of_testBit_eq fun d => ?_
  rw [← bitOf_eq_testBit, ← bitOf_eq_testBit, diesOut_testBit, diesOut_testBit]
  by_cases die : d < 5
  · rw [h.bits (3 + d) (by omega) (by omega)]
  · simp [die]

/-- Codewords that can be corrected hold no error after the pass. -/
theorem scrubWords_gone {s : State} {st : Nat} {ws : List (Nat × List (Nat × Nat))} (own : ∀ w ∈ ws, w.1 / 2 ^ 34 = st)
    (ok : ∀ w ∈ ws, s.codewordOk st w.2 = true) : ∀ x ∈ (s.scrubWords st ws).dramErr, ∀ w ∈ ws, x.1 ≠ w.1 := by
  induction ws generalizing s with
  | nil => exact fun _ _ _ mem => nomatch mem
  | cons w ws ih =>
    have one := scrubs_patrolWord s st (64 * (w.1 % 2 ^ 34)) w.2
    intro x mem y among
    rcases List.mem_cons.1 among with rfl | among
    · have left : x ∈ (s.patrolWord st (64 * (y.1 % 2 ^ 34)) y.2).dramErr := (scrubs_scrubWords _ st ws).less x mem
      obtain ⟨bad, _⟩ | ⟨_, h⟩ := patrolWord_cases s st (64 * (y.1 % 2 ^ 34)) y.2
      · rw [ok y (.head _)] at bad
        cases bad
      · rw [h] at left
        exact codeKey_of_word (own y (.head _)) ▸ dramCorrected_gone _ _ _ x left
    · refine ih (fun w mem => own w (.tail _ mem)) (fun w mem => ?_) x mem y among
      rw [codewordOk_congr one.diesOut]
      exact ok w (.tail _ mem)

/-- The errors of other stacks stay, with the event ring outside device memory. -/
theorem scrubWords_others {s : State} (plain : s.plainEvents) {st : Nat} {ws : List (Nat × List (Nat × Nat))} (own : ∀ w ∈ ws, w.1 / 2 ^ 34 = st) :
    ∀ x ∈ s.dramErr, x.1 / 2 ^ 34 ≠ st → x ∈ (s.scrubWords st ws).dramErr := by
  induction ws generalizing s with
  | nil => exact fun x mem _ => mem
  | cons w ws ih =>
    intro x mem other
    have one := scrubs_patrolWord s st (64 * (w.1 % 2 ^ 34)) w.2
    refine ih (one.plain plain).1 (fun w mem => own w (.tail _ mem)) x ?_ other
    obtain ⟨_, h⟩ | ⟨_, h⟩ := patrolWord_cases s st (64 * (w.1 % 2 ^ 34)) w.2
    · rw [h]
      exact mem
    · rw [h, (dramCorrected_plain (by exact plain) _ _).1, codeKey_of_word (own w (.head _))]
      exact List.mem_filter.2 ⟨mem, by simpa using fun same : x.1 = w.1 => other (same ▸ own w (.head _))⟩

end Sys2Proof.Machine
end

section
/-! PROOFS. The patrol of a stack (13_memory_and_placement.md, 18_reserves_and_faults.md): its marks, its passes and the dies it retires. -/

namespace Sys2Proof.Machine

/-! ### How many codewords mark a die -/

theorem length_setIns (l : List Nat) (k : Nat) : l.length ≤ (setIns l k).length ∧ (setIns l k).length ≤ l.length + 1 := by
  induction l with
  | nil => simp [setIns]
  | cons x r ih =>
    unfold setIns
    split
    · simp
    · split
      · simp
      · simpa using ih

section
variable (d : Nat) (ws : List (Nat × List (Nat × Nat))) (l : List Nat)

theorem length_seenWith (w : Nat × List (Nat × Nat)) : l.length ≤ (seenWith d l w).length ∧
    (seenWith d l w).length ≤ l.length + if w.2.any (fun x => x.1 = d) then 1 else 0 := by
  unfold seenWith
  split
  · exact length_setIns ..
  · exact ⟨le_refl _, le_refl _⟩

/-- The marks of a die grow by no more than the codewords in which it shows errors. -/
theorem length_marks : l.length ≤ (ws.foldl (seenWith d) l).length ∧
    (ws.foldl (seenWith d) l).length ≤ l.length + (ws.filter fun w => w.2.any fun x => x.1 = d).length := by
  induction ws generalizing l with
  | nil => simp
  | cons w ws ih =>
    obtain ⟨grows, bound⟩ := length_seenWith d l w
    obtain ⟨grows', bound'⟩ := ih (seenWith d l w)
    rw [List.foldl_cons, List.filter_cons]
    refine ⟨grows.trans grows', bound'.trans ?_⟩
    split <;> simp_all <;> omega

theorem mem_seenWith (w : Nat × List (Nat × Nat)) {x : Nat} (mem : x ∈ l) : x ∈ seenWith d l w := by
  unfold seenWith
  split
  · exact (mem_setIns ..).2 (.inr mem)
  · exact mem

theorem mem_marks_old {x : Nat} (mem : x ∈ l) : x ∈ ws.foldl (seenWith d) l :=
  List.foldlRecOn (motive := fun l : List Nat => x ∈ l) ws _ mem fun l mem w _ => mem_seenWith d l w mem

/-- Each codeword in which the die shows an error is marked. -/
theorem mem_marks {w : Nat × List (Nat × Nat)} (mem : w ∈ ws) (shows : w.2.any (fun x => x.1 = d) = true) :
    w.1 % 2 ^ 34 ∈ ws.foldl (seenWith d) l := by
  induction ws generalizing l with
  | nil => cases mem
  | cons y ws ih =>
    rcases List.mem_cons.1 mem with rfl | mem
    · refine mem_marks_old d ws _ ?_
      rw [seenWith, if_pos shows]
      exact (mem_setIns ..).2 (.inl rfl)
    · exact ih _ mem

/-- Distinct codewords of a stack in which the die shows errors are marked apart. -/
theorem marks_of_distinct {st : Nat} (own : ∀ w ∈ ws, w.1 / 2 ^ 34 = st) (distinct : (ws.map Prod.fst).Nodup) :
    (ws.filter fun w => w.2.any fun x => x.1 = d).length ≤ (ws.foldl (seenWith d) l).length := by
  have rows : ((ws.filter fun w => w.2.any fun x => x.1 = d).map fun w => w.1 % 2 ^ 34).Nodup := by
    have apart : ((ws.filter fun w => w.2.any fun x => x.1 = d).map Prod.fst).Nodup := distinct.sublist (List.filter_sublist.map _)
    have same : ((ws.filter fun w => w.2.any fun x => x.1 = d).map fun w => w.1 % 2 ^ 34) =
        ((ws.filter fun w => w.2.any fun x => x.1 = d).map Prod.fst).map (· % 2 ^ 34) := by rw [List.map_map]; rfl
    rw [same]
    refine apart.map_on fun a ha b hb e => ?_
    obtain ⟨w, mem, rfl⟩ := List.mem_map.1 ha
    obtain ⟨v, mem', rfl⟩ := List.mem_map.1 hb
    have stack := own w (List.mem_filter.1 mem).1
    have stack' := own v (List.mem_filter.1 mem').1
    omega
  have marked : ((ws.filter fun w => w.2.any fun x => x.1 = d).map fun w => w.1 % 2 ^ 34) ⊆ ws.foldl (seenWith d) l := fun x mem => by
    obtain ⟨w, inside, rfl⟩ := List.mem_map.1 mem
    obtain ⟨among, shows⟩ := List.mem_filter.1 inside
    exact mem_marks d ws l among shows
  simpa using (rows.subperm marked).length_le

end

/-! ### The end of a pass -/

/-- The stack's pass counted, its marks started afresh, and the dies that showed too many errors retired. -/
def State.passEnds (s : State) (st : Nat) : State :=
  let s := s.bump (rk .DM_SCRUB_PASSES st)
  let bad := s.badDies st
  let s : State := { s with
    rowCorr := s.rowCorr.filter fun e => !(e.1 % 2 = 0 && e.1 / 2 / 2 ^ 27 = st)
    dieSeen := s.dieSeen.filter fun e => e.1 / 5 ≠ st }
  bad.foldl (fun s d => s.dieFails st d) s

/-- The errors that a pass finds beside those known. -/
def State.found (s : State) (st : Nat) (es : List (Nat × Nat × Nat)) : State :=
  { s with dramErr := (es.filter fun e => decide (e.1 < 2 ^ 40) && decide (e.2.1 < 5) && decide (0 < e.2.2)).foldl (fun t e =>
      Tab.put t (codeKey st e.1) (addErrors (Tab.getD t (codeKey st e.1) []) e.2.1 e.2.2)) s.dramErr }

theorem exec_dramPatrol_due {s : State} {st : Nat} (ready : s.stackReady st = true) (patrolled : s.fld (rk .DM_CFG st) 4 8 ≠ 0)
    (es : List (Nat × Nat × Nat)) : exec (.dramPatrol st es) s =
      .next (((s.found st es).scrubWords st ((s.found st es).dramErr.filter fun e => e.1 / 2 ^ 34 = st)).passEnds st) := by
  rw [exec_dramPatrol, execDramPatrol, if_neg (by simp [ready, patrolled])]
  rfl

section
variable {s : State} {st : Nat}

theorem mem_badDies {d : Nat} : d ∈ (s.bump (rk .DM_SCRUB_PASSES st)).badDies st ↔ d < 5 ∧ 64 < (s.seenOn st d).length := by
  rw [State.badDies, List.mem_filter, List.mem_range, decide_eq_true_eq]
  rfl

/-- The stack's pass counted and its marks started afresh. -/
def State.passed (s : State) (st : Nat) : State :=
  { s.bump (rk .DM_SCRUB_PASSES st) with
    rowCorr := s.rowCorr.filter fun e => !(e.1 % 2 = 0 && e.1 / 2 / 2 ^ 27 = st)
    dieSeen := s.dieSeen.filter fun e => e.1 / 5 ≠ st }

theorem passEnds_eq : s.passEnds st = ((s.bump (rk .DM_SCRUB_PASSES st)).badDies st).foldl (fun s d => s.dieFails st d) (s.passed st) := rfl

theorem passEnds_clean (few : ∀ d < 5, (s.seenOn st d).length ≤ 64) : s.passEnds st = s.passed st := by
  have none : (s.bump (rk .DM_SCRUB_PASSES st)).badDies st = [] := List.eq_nil_iff_forall_not_mem.2 fun d mem => by
    obtain ⟨die, many⟩ := mem_badDies.1 mem
    exact absurd (few d die) (by omega)
  rw [passEnds_eq, none]
  rfl

/-- The one die that showed too many errors. -/
theorem passEnds_one {d : Nat} (die : d < 5) (many : 64 < (s.seenOn st d).length) (few : ∀ x < 5, x ≠ d → (s.seenOn st x).length ≤ 64) :
    s.passEnds st = (s.passed st).dieFails st d := by
  have one : (s.bump (rk .DM_SCRUB_PASSES st)).badDies st = [d] := by
    have same : (s.bump (rk .DM_SCRUB_PASSES st)).badDies st = (List.range 5).filter (· = d) := by
      refine List.filter_congr fun x mem => ?_
      have inside := List.mem_range.1 mem
      refine decide_eq_decide.2 ⟨fun shown => ?_, fun e => e ▸ many⟩
      by_contra other
      exact absurd (few x inside other) (by exact Nat.not_le.2 shown)
    rw [same]
    interval_cases d <;> rfl
  rw [passEnds_eq, one]
  rfl

end

/-! ### A die that fails -/

theorem loseStack_bit (s : State) (st : Nat) {i : Nat} (low : 1 ≤ i) (high : i < 8) : BitStays st i s (s.loseStack st) := by
  have lost : BitStays st i s ((s.setFld (rk .DM_STATUS st) 20 1 1).setOwn (64 + st) false) :=
    BitStays.trans (bitStays_field s st 20 1 1 (by decide) (.inl (by omega))) (bitStays_of_reg rfl)
  have shown (t : State) : BitStays st i t t.showSpace := bitStays_of_reg ((shows_showSpace t).reg _ (show RegName.DM_STATUS ∉ [RegName.PL_FREE, .PL_STATUS] by decide))
  unfold State.loseStack
  extract_lets a _ b
  have hb : BitStays st i s b := BitStays.trans lost (bitStays_of_reg rfl)
  exact ((hb.trans (bitStays_settle low b)).trans (shown _)).trans (bitStays_raise ..)

theorem mapAdd_bit (s : State) (kind unit loc st i : Nat) : BitStays st i s (s.mapAdd kind unit loc) := by
  unfold State.mapAdd
  split
  · exact bitStays_of_reg rfl
  · exact bitStays_raise ..

theorem dieFails_eq (s : State) (st d : Nat) : s.dieFails st d =
    if bitOf (s.diesOut st) d then s
    else if s.diesOut st = 0 then
      ({ ((s.mapAdd 5 st d).setFld (rk .DM_STATUS st) (3 + d) 1 1) with life :=
        { ((s.mapAdd 5 st d).setFld (rk .DM_STATUS st) (3 + d) 1 1).life with
          dies := satAdd 8 ((s.mapAdd 5 st d).setFld (rk .DM_STATUS st) (3 + d) 1 1).life.dies 1 } } : State).raise 0x22 devHandle
            (payload [(24, 1, st), (25, 1, d)])
    else ((s.mapAdd 5 st d).setFld (rk .DM_STATUS st) (3 + d) 1 1).loseStack st := rfl

/-- A die that is out already. -/
theorem dieFails_out {s : State} {st d : Nat} (out : bitOf (s.diesOut st) d = true) : s.dieFails st d = s := by
  rw [dieFails_eq, if_pos out]

/-- What follows a die's mark of being out leaves the marks. -/
theorem dieFails_marks {s : State} {st d : Nat} (fresh : bitOf (s.diesOut st) d = false) {i : Nat} (low : 1 ≤ i) (high : i < 8) :
    BitStays st i ((s.mapAdd 5 st d).setFld (rk .DM_STATUS st) (3 + d) 1 1) (s.dieFails st d) := by
  rw [dieFails_eq, if_neg (by simp [fresh])]
  split
  · exact BitStays.trans (bitStays_of_reg rfl) (bitStays_raise ..)
  · exact loseStack_bit _ st low high

theorem dieFails_sets (s : State) (st : Nat) {d : Nat} (die : d < 5) : (s.dieFails st d).bit (rk .DM_STATUS st) (3 + d) = true := by
  cases out : bitOf (s.diesOut st) d with
  | true =>
    rw [dieFails_out out]
    rw [diesOut_testBit] at out
    exact (Bool.and_eq_true_iff.1 out).2
  | false => exact Eq.trans (dieFails_marks (i := 3 + d) out (by omega) (by omega)) (bit_setFld_same _ _ _ true (by omega))

theorem dieFails_keeps {s : State} {st d y : Nat} (die : d < 5) (die' : y < 5) (out : s.bit (rk .DM_STATUS st) (3 + d) = true) :
    (s.dieFails st y).bit (rk .DM_STATUS st) (3 + d) = true := by
  by_cases same : y = d
  · exact same ▸ dieFails_sets s st die'
  · cases gone : bitOf (s.diesOut st) y with
    | true => rwa [dieFails_out gone]
    | false =>
      have apart := bitStays_field (st := st) (i := 3 + d) (s.mapAdd 5 st y) st (3 + y) 1 1 (by omega) (by omega)
      exact Eq.trans (dieFails_marks (i := 3 + d) gone (by omega) (by omega)) (Eq.trans apart (Eq.trans (mapAdd_bit ..) out))

/-- A die with too many marks is out after the pass. -/
theorem passEnds_out {s : State} {st d : Nat} (die : d < 5) (many : 64 < (s.seenOn st d).length) :
    (s.passEnds st).bit (rk .DM_STATUS st) (3 + d) = true := by
  rw [passEnds_eq]
  have mem : d ∈ (s.bump (rk .DM_SCRUB_PASSES st)).badDies st := mem_badDies.2 ⟨die, many⟩
  have dies : ∀ y ∈ (s.bump (rk .DM_SCRUB_PASSES st)).badDies st, y < 5 := fun y mem => (mem_badDies.1 mem).1
  generalize (s.bump (rk .DM_SCRUB_PASSES st)).badDies st = l at mem dies
  obtain ⟨before, after, rfl⟩ := List.append_of_mem mem
  rw [List.foldl_append, List.foldl_cons]
  exact List.foldlRecOn (motive := fun t : State => t.bit (rk .DM_STATUS st) (3 + d) = true) after _ (dieFails_sets _ st die)
    fun t out y mem => dieFails_keeps die (dies y (List.mem_append_right _ (.tail _ mem))) out

/-- The first die of a stack that fails: it goes into the repair map and the count, and the stack stays. -/
theorem dieFails_first {s : State} {st d : Nat} (out : s.diesOut st = 0) (room : s.life.map.length < 4095) :
    (∃ e ∈ (s.dieFails st d).life.map, e.kind = 5 ∧ e.unit = st ∧ e.loc = d) ∧ (s.dieFails st d).life.dies = min (s.life.dies + 1) 255 ∧
      (s.dieFails st d).up = s.up ∧ (s.plainEvents → ∃ e : LogEntry, (s.dieFails st d).dieLog.getLast? = some e ∧ e.code = 0x22 ∧
        e.payload = payload [(24, 1, st), (25, 1, d)]) := by
  have fresh : bitOf (s.diesOut st) d = false := by rw [out, bitOf_eq_testBit, Nat.zero_testBit]
  have added : s.mapAdd 5 st d = { s with life := { s.life with map := s.life.map ++ [⟨5, st, d, min (s.life.poweredS / 86400) 65535⟩] } } :=
    if_pos (by omega)
  obtain ⟨x, raised, map, dies, up, ring⟩ : ∃ x : State, s.dieFails st d = x.raise 0x22 devHandle (payload [(24, 1, st), (25, 1, d)]) ∧
      x.life.map = s.life.map ++ [⟨5, st, d, min (s.life.poweredS / 86400) 65535⟩] ∧ x.life.dies = satAdd 8 s.life.dies 1 ∧ x.up = s.up ∧
      x.evRing = s.evRing := by
    rw [dieFails_eq, if_neg (by simp [fresh]), if_pos out, added]
    exact ⟨_, rfl, rfl, rfl, rfl, rfl⟩
  rw [raised]
  refine ⟨⟨⟨5, st, d, min (s.life.poweredS / 86400) 65535⟩, ?_, rfl, rfl, rfl⟩, ?_, ?_, fun plain => ?_⟩
  · rw [raise_field _ _ _ _ fun x => x.life.map, map]
    exact List.mem_append_right _ (.head _)
  · rw [raise_field _ _ _ _ fun x => x.life.dies, dies]
    rfl
  · rw [raise_field _ _ _ _ State.up, up]
  · have plain : x.plainEvents := fun r h => plain r (ring ▸ h)
    rw [(sameLog_raise _ _ _ _ plain).log]
    exact ⟨_, logEvent_getLast .., rfl, rfl⟩

/-! ### What a pass leaves -/

/-- The codewords of a stack that hold an error. -/
def State.errorsOn (s : State) (st : Nat) : List (Nat × List (Nat × Nat)) := s.dramErr.filter fun e => e.1 / 2 ^ 34 = st

theorem errorsOn_own {s : State} {st : Nat} : ∀ w ∈ s.errorsOn st, w.1 / 2 ^ 34 = st := fun w mem => by
  simpa using (List.mem_filter.1 mem).2

section
variable {s : State} {st : Nat} (ready : s.stackReady st = true) (patrolled : s.fld (rk .DM_CFG st) 4 8 ≠ 0)
include ready patrolled

/-- A pass that finds nothing new. -/
theorem exec_dramPatrol_none : exec (.dramPatrol st []) s = .next ((s.scrubWords st (s.errorsOn st)).passEnds st) :=
  exec_dramPatrol_due ready patrolled []

/-- A pass over a stack without errors is counted. -/
theorem dramPatrol_sound (clean : s.errorsOn st = []) (fresh : ∀ d < 5, s.seenOn st d = []) : exec (.dramPatrol st []) s = .next (s.passed st) := by
  rw [exec_dramPatrol_none ready patrolled, clean]
  exact congrArg _ (passEnds_clean (s := s) fun d die => by rw [fresh d die]; exact Nat.zero_le _)

/-- A pass that finds one codeword that can be corrected. -/
theorem dramPatrol_one {a d n : Nat} (clean : s.errorsOn st = []) (fresh : ∀ d < 5, s.seenOn st d = []) (whole : s.diesOut st = 0) (inside : a < 2 ^ 40)
    (die : d < 5) (some' : 0 < n) (few : n ≤ 8) (plain : s.plainEvents) : ∃ t : State, exec (.dramPatrol st [(a, d, n)]) s = .next t ∧
      t.dramErr = s.dramErr ∧ t.allocs = s.allocs ∧ t.reg (rk .DM_CORRECTED st) = (s.bump (rk .DM_CORRECTED st)).reg (rk .DM_CORRECTED st) := by
  have key : codeKey st a / 2 ^ 34 = st := by
    rw [codeKey, Nat.add_comm, Nat.add_mul_div_right _ _ (by decide), Nat.div_eq_of_lt (by omega), Nat.zero_add]
  have unknown : ∀ e ∈ s.dramErr, e.1 ≠ codeKey st a := fun e mem same =>
    (List.filter_eq_nil_iff.1 clean e mem) (by rw [same, key]; exact decide_eq_true rfl)
  have found : s.found st [(a, d, n)] = { s with dramErr := Tab.put s.dramErr (codeKey st a) [(d, n)] } := by
    unfold State.found
    rw [List.filter_cons, if_pos (by simp [die, some']; omega), List.filter_nil, List.foldl_cons, List.foldl_nil, Tab.getD_fresh _ unknown]
    rfl
  obtain ⟨u, hu⟩ : ∃ u : State, u = { s with dramErr := Tab.put s.dramErr (codeKey st a) [(d, n)] } := ⟨_, rfl⟩
  have only : u.dramErr.filter (fun e => e.1 / 2 ^ 34 = st) = [(codeKey st a, [(d, n)])] := by
    rw [hu]
    exact Tab.filter_put_fresh clean _ (decide_eq_true key) unknown
  have known : (u.codewordOk st [(d, n)]) = true := by
    have out : u.diesOut st = 0 := by rw [hu]; exact whole
    have none (x : Nat) : bitOf 0 x = false := by rw [bitOf_eq_testBit, Nat.zero_testBit]
    rw [State.codewordOk, out]
    simp [none]
    omega
  have scrubbed : u.scrubWords st [(codeKey st a, [(d, n)])] = (u.dieShown st (64 * (codeKey st a % 2 ^ 34)) [(d, n)]).dramCorrected st (64 * (codeKey st a % 2 ^ 34)) := by
    obtain ⟨bad, _⟩ | ⟨_, h⟩ := patrolWord_cases u st (64 * (codeKey st a % 2 ^ 34)) [(d, n)]
    · rw [known] at bad
      cases bad
    · exact h
  have few (x : Nat) (die : x < 5) : ((u.scrubWords st [(codeKey st a, [(d, n)])]).seenOn st x).length ≤ 64 := by
    rw [seenOn_scrubWords _ _ _ die]
    have none : u.seenOn st x = [] := by rw [hu]; exact fresh x die
    have bound := (length_marks x [(codeKey st a, [(d, n)])] (u.seenOn st x)).2
    have one := List.length_filter_le (fun w : Nat × List (Nat × Nat) => w.2.any fun y => y.1 = x) [(codeKey st a, [(d, n)])]
    rw [none] at bound ⊢
    simp only [List.length_nil, List.length_singleton] at bound one
    omega
  have shownPlain : (u.dieShown st (64 * (codeKey st a % 2 ^ 34)) [(d, n)]).plainEvents := by rw [hu]; exact plain
  obtain ⟨errors, counted⟩ := dramCorrected_plain shownPlain st (64 * (codeKey st a % 2 ^ 34))
  refine ⟨_, exec_dramPatrol_due ready patrolled _, ?_⟩
  rw [found, ← hu, only, passEnds_clean few, scrubbed]
  refine ⟨errors.trans ?_, ?_, ?_⟩
  · rw [codeKey_of_word key, hu]
    exact Tab.del_put_fresh _ unknown
  · have same := ((scrubs_dramCorrected (u.dieShown st (64 * (codeKey st a % 2 ^ 34)) [(d, n)]) st (64 * (codeKey st a % 2 ^ 34))).plain shownPlain).2
    exact same.trans (by rw [hu]; rfl)
  · refine (State.reg_bump_other _ _ (by simp [rk])).trans (counted.trans ?_)
    rw [hu]
    rfl

/-- A pass over codewords that can all be corrected, with no die in too many of them. -/
theorem dramPatrol_corrects (ok : ∀ w ∈ s.errorsOn st, s.codewordOk st w.2 = true) (fresh : ∀ d < 5, s.seenOn st d = [])
    (few : ∀ d < 5, ((s.errorsOn st).filter fun w => w.2.any fun x => x.1 = d).length ≤ 64) : ∃ t : State, exec (.dramPatrol st []) s = .next t ∧
      (∀ w ∈ t.dramErr, w.1 / 2 ^ 34 ≠ st) ∧ (s.plainEvents → ∀ w ∈ s.dramErr, w.1 / 2 ^ 34 ≠ st → w ∈ t.dramErr) := by
  refine ⟨_, exec_dramPatrol_none ready patrolled, ?_⟩
  have marks (d : Nat) (die : d < 5) : ((s.scrubWords st (s.errorsOn st)).seenOn st d).length ≤ 64 := by
    have bound := (length_marks d (s.errorsOn st) (s.seenOn st d)).2
    rw [seenOn_scrubWords _ _ _ die]
    rw [fresh d die] at bound ⊢
    exact bound.trans (by rw [List.length_nil, Nat.zero_add]; exact few d die)
  rw [passEnds_clean marks]
  refine ⟨fun x mem own => ?_, fun plain x mem other => scrubWords_others plain errorsOn_own x mem other⟩
  have was : x ∈ s.dramErr := (scrubs_scrubWords s st _).less x mem
  exact scrubWords_gone errorsOn_own ok x mem x (List.mem_filter.2 ⟨was, decide_eq_true own⟩) rfl

/-- A die that showed errors in too many codewords is out after the pass; the first of its stack goes into the repair map. -/
theorem dramPatrol_retires {d : Nat} (die : d < 5) (many : (64 < ((s.errorsOn st).filter fun w => w.2.any fun x => x.1 = d).length ∧
      ((s.errorsOn st).map Prod.fst).Nodup) ∨ 64 < (s.seenOn st d).length) :
    ∃ t : State, exec (.dramPatrol st []) s = .next t ∧ t.bit (rk .DM_STATUS st) (3 + d) = true ∧
      (s.diesOut st = 0 → (∀ d < 5, s.seenOn st d = []) →
        (∀ x < 5, x ≠ d → ((s.errorsOn st).filter fun w => w.2.any fun y => y.1 = x).length ≤ 64) → s.life.map.length < 4095 →
        (∃ e ∈ t.life.map, e.kind = 5 ∧ e.unit = st ∧ e.loc = d) ∧ t.life.dies = min (s.life.dies + 1) 255 ∧ t.own (64 + st) = s.own (64 + st) ∧
        (s.plainEvents → ∃ e : LogEntry, t.dieLog.getLast? = some e ∧ e.code = 0x22 ∧ e.payload = payload [(24, 1, st), (25, 1, d)])) := by
  have marked : 64 < ((s.scrubWords st (s.errorsOn st)).seenOn st d).length := by
    rw [seenOn_scrubWords _ _ _ die]
    rcases many with ⟨many, distinct⟩ | many
    · exact many.trans_le (marks_of_distinct d _ _ errorsOn_own distinct)
    · exact many.trans_le (length_marks d _ _).1
  refine ⟨_, exec_dramPatrol_none ready patrolled, passEnds_out die marked, fun whole fresh others room => ?_⟩
  have few (x : Nat) (inside : x < 5) (other : x ≠ d) : ((s.scrubWords st (s.errorsOn st)).seenOn st x).length ≤ 64 := by
    have bound := (length_marks x (s.errorsOn st) (s.seenOn st x)).2
    rw [seenOn_scrubWords _ _ _ inside]
    rw [fresh x inside] at bound ⊢
    exact bound.trans (by rw [List.length_nil, Nat.zero_add]; exact others x inside other)
  have scrubbed := scrubs_scrubWords s st (s.errorsOn st)
  have out : ((s.scrubWords st (s.errorsOn st)).passed st).diesOut st = 0 := by
    have same : ((s.scrubWords st (s.errorsOn st)).passed st).diesOut st = (s.scrubWords st (s.errorsOn st)).diesOut st :=
      congrArg (fun v : Word => bitsOf v.toNat 3 5) (State.reg_bump_other _ _ (by simp [rk]))
    rw [same, scrubbed.diesOut, whole]
  obtain ⟨map, dies, up, log⟩ := dieFails_first (d := d) out (show _ < 4095 by exact scrubbed.map ▸ room)
  rw [passEnds_one die marked few]
  refine ⟨map, dies.trans ?_, congrArg (List.contains · (64 + st)) (up.trans scrubbed.up), fun plain => log (by exact (scrubbed.plain plain).1)⟩
  exact congrArg (fun n => min (n + 1) 255) scrubbed.count

end

end Sys2Proof.Machine

open Sys2Proof.Machine in
/-- Settles O58, by the reset of the unit that UNIT_TEST takes, and by an induction over the codewords of a patrol that hold an error. -/
theorem testsAndPatrolsFindFaults : Obligations.TestsAndPatrolsFindFaults := by
  unfold Obligations.TestsAndPatrolsFindFaults
  refine ⟨⟨?_, fun mb l s small => ⟨fun only => ?_, fun x only => ?_⟩⟩, fun st s => ⟨?_, ?_⟩⟩
  · intro mb f s due h
    refine ⟨fun unnamed => unitTest_elsewhere due unnamed, fun l named => ⟨fun down => unitTest_notReady due named down,
      fun up busy => unitTest_busy due named up busy, fun up idle => ?_⟩⟩
    exact ⟨_, unitTest_runs due named up idle, Tab.find?_put_same .., (lowers_testReset s l).bytes, testReset_down named⟩
  · rw [exec_mailboxCompletion_one only small]
    rfl
  · rw [exec_mailboxCompletion_one only small]
    rfl
  · intro es closed
    rw [exec_dramPatrol, execDramPatrol, if_pos (by simpa using closed)]
  · intro ready patrolled ws dies fresh'
    refine ⟨fun clean fresh => ?_, fun a d n clean fresh whole inside die some' few plain => ?_, fun ok fresh few => ?_, fun d die many => ?_⟩
    · exact ⟨_, dramPatrol_sound ready patrolled clean fresh, rfl, rfl, rfl, rfl⟩
    · exact dramPatrol_one ready patrolled clean fresh whole inside die some' few plain
    · exact dramPatrol_corrects ready patrolled ok fresh few
    · exact dramPatrol_retires ready patrolled die many
end

section
/-! PROOFS. What work leaves of the repair state (18_reserves_and_faults.md): loading, accumulating, draining and replaying move no unit,
and count no residue mismatch. -/

namespace Sys2Proof.Machine

/-- No unit moves, no column is marked or spared, and no residue mismatch is counted. -/
structure Works (s t : State) : Prop where
  engines : t.emap = s.emap
  jets : t.jmap = s.jmap
  terraces : t.lmap = s.lmap
  marks : t.suspects = s.suspects
  columns : t.spareCols = s.spareCols
  count : t.reg (rk .SP_RESIDUE_ERRORS) = s.reg (rk .SP_RESIDUE_ERRORS)

theorem Works.refl (s : State) : Works s s := ⟨rfl, rfl, rfl, rfl, rfl, rfl⟩

theorem Works.trans {s t u : State} (h : Works s t) (k : Works t u) : Works s u :=
  ⟨k.engines.trans h.engines, k.jets.trans h.jets, k.terraces.trans h.terraces, k.marks.trans h.marks, k.columns.trans h.columns, k.count.trans h.count⟩

theorem Works.foldl {α : Type} {f : State → α → State} (h : ∀ s x, Works s (f s x)) (l : List α) (s : State) : Works s (l.foldl f s) :=
  List.foldlRecOn (motive := Works s) l f (.refl s) fun t same x _ => same.trans (h t x)

theorem Works.ite {c : Prop} [Decidable c] {s t u : State} (h : Works s t) (k : Works s u) : Works s (if c then t else u) := by
  split
  · exact h
  · exact k

/-- What a step with a result beside the state leaves. -/
theorem Works.of_eq {α : Type} {s t : State} {x : α} {r : State × α} (h : r = (t, x)) (k : Works s r.1) : Works s t := by
  subst h
  exact k

theorem works_of_rest {s t : State} (same : t.rest = s.rest) (count : t.reg (rk .SP_RESIDUE_ERRORS) = s.reg (rk .SP_RESIDUE_ERRORS)) : Works s t :=
  ⟨of_rest State.emap same, of_rest State.jmap same, of_rest State.lmap same, of_rest State.suspects same, of_rest State.spareCols same, count⟩

theorem works_of_plain {s t : State} (same : t.plain = s.plain) (count : t.reg (rk .SP_RESIDUE_ERRORS) = s.reg (rk .SP_RESIDUE_ERRORS)) : Works s t :=
  ⟨State.of_plain same State.emap fun _ => rfl, State.of_plain same State.jmap fun _ => rfl, State.of_plain same State.lmap fun _ => rfl,
    State.of_plain same State.suspects fun _ => rfl, State.of_plain same State.spareCols fun _ => rfl, count⟩

theorem works_setReg (s : State) {n : RegName} (other : n ≠ .SP_RESIDUE_ERRORS) (u i : Nat) (v : Word) : Works s (s.setReg (rk n u i) v) :=
  works_of_rest (rest_setReg ..) (State.reg_setReg_other _ _ fun same => other (congrArg RegKey.name same).symm)

theorem works_setFld (s : State) {n : RegName} (other : n ≠ .SP_RESIDUE_ERRORS) (u i lo w x : Nat) : Works s (s.setFld (rk n u i) lo w x) :=
  works_setReg s other ..

theorem works_bump (s : State) {n : RegName} (other : n ≠ .SP_RESIDUE_ERRORS) (u i x : Nat) : Works s (s.bump (rk n u i) x) := works_setReg s other ..

theorem works_raise (s : State) (c u : Nat) (p : List Byte) : Works s (s.raise c u p) :=
  works_of_rest (rest_raise ..) (State.raise_reg (show RegName.SP_RESIDUE_ERRORS ∉ eventRegs by decide) ..)

theorem works_readSpans {s t : State} {w : Who} {ps : List Span} {req : Nat} {e : Option Err} (h : s.readSpans w ps req = (t, e)) : Works s t :=
  .of_eq h (works_of_rest (rest_readSpans ..) (State.readSpans_unread (show RegName.SP_RESIDUE_ERRORS ∉ readRegs ++ eventRegs by decide) ..))

theorem works_putSets (s : State) (x : Nat) (js : JetSets) : Works s (s.putSets x js) :=
  works_of_plain (State.plain_putSets ..) (putSets_reg _ _ _ (show RegName.SP_RESIDUE_ERRORS ∉ storeRegs by decide))

theorem works_putStores (s : State) (e : Nat) (es : EngSets) : Works s (s.putStores e es) :=
  works_of_plain (State.plain_putStores ..) (putStores_reg _ _ _ (show RegName.SP_RESIDUE_ERRORS ∉ storeRegs by decide))

theorem works_quiet (s : State) (x : Nat) : Works s (s.quiet x) :=
  works_of_plain (State.plain_quiet ..) (quiet_reg _ _ (show RegName.SP_RESIDUE_ERRORS ∉ storeRegs by decide))

theorem works_unload (s : State) (jid : Nat) : Works s (s.unload jid) :=
  works_of_plain (State.plain_unload ..) (unload_reg _ _ (show RegName.SP_RESIDUE_ERRORS ∉ storeRegs by decide))

theorem works_putJob (s : State) (j : Job) : Works s (s.putJob j) := ⟨rfl, rfl, rfl, rfl, rfl, rfl⟩

theorem works_modJob (s : State) (jid : Nat) (f : Job → Job) : Works s (s.modJob jid f) := by
  unfold State.modJob
  cases found : s.job? jid with
  | none => rw [State.whenJob_none found]; exact .refl s
  | some j => rw [State.whenJob_eq found, if_pos rfl]; exact works_putJob ..

theorem works_endJob (s : State) (j : Job) (status detail : Nat) : Works s (s.endJob j status detail) :=
  (works_unload s j.jid).trans ⟨rfl, rfl, rfl, rfl, rfl, rfl⟩

theorem works_shut (s : State) (x g : Nat) : Works s (s.shut x g) := ⟨rfl, rfl, rfl, rfl, rfl, rfl⟩

theorem works_failJob (s : State) (j : Job) (status detail : Nat) : Works s (s.failJob j status detail) := by
  rw [failJob_eq]
  have shut : Works s (s.shutGroups j) := .ite (.foldl (fun t x => works_shut t x _) _ _) (.refl s)
  have given (t : State) : Works t (t.giveBack j.claimed (j.jid + 1)) :=
    works_of_rest (rest_giveBack ..) (giveBack_reg _ _ _ (show RegName.SP_RESIDUE_ERRORS ∉ .BS_SLOT :: eventRegs by decide))
  exact (shut.trans (given _)).trans (works_endJob ..)

/-! ### Tiles and spans -/

theorem works_runRows (s : State) (x : Nat) (t : LoadedTile) (n : Nat) : Works s (s.runRows x t n) :=
  ((works_bump s (n := .JT_ROW_CYCLES) (by decide) ..).trans (works_bump _ (n := .JT_GROUP_LIVE_CYCLES) (by decide) ..)).trans
    (works_bump _ (n := .JT_GROUP_GATED_CYCLES) (by decide) ..)

theorem works_retireOf (s : State) (x n q : Nat) : Works s (s.retireOf x n q) := by
  unfold State.retireOf
  split
  · refine .ite ?_ (.refl s)
    unfold State.retire
    dsimp only
    split
    · exact .refl s
    · exact (works_runRows ..).trans (works_putSets ..)
  · exact .refl s

theorem works_endSpan (s : State) (e : Nat) : Works s (s.endSpan e) := by
  unfold State.endSpan
  split
  · exact .refl s
  · exact (works_bump s (n := .SE_SPANS_RUN) (by decide) ..).trans (works_putStores ..)

theorem works_spanOver (s : State) (x : Nat) : Works s (s.spanOver x) := by
  unfold State.spanOver
  split
  · exact .refl s
  · split
    · exact .ite (works_endSpan ..) (.refl s)
    · exact .refl s

theorem works_readBooks (s : State) (j : Job) (l : List (Bool × Nat)) : Works s (s.readBooks j l).1 := by
  unfold State.readBooks
  split
  · next h => exact works_readSpans h
  · next h => exact works_readSpans h

theorem works_countDense (s : State) (x : Nat) (declined busy thin : Bool) : Works s (s.countDense x declined busy thin) := by
  unfold State.countDense
  split
  · exact .refl s
  · next e _ =>
    have one (t : State) : Works t (if declined then t.bump (rk .SE_DECLINED (s.physE e)) else t) := .ite (works_bump t (by decide) ..) (.refl t)
    have two (t : State) : Works t (if busy then t.bump (rk .SE_BUSY_DENSE (s.physE e)) else t) := .ite (works_bump t (by decide) ..) (.refl t)
    have three (t : State) : Works t (if thin then t.bump (rk .SE_DENSITY_DENSE (s.physE e)) else t) := .ite (works_bump t (by decide) ..) (.refl t)
    exact ((one s).trans (two _)).trans (three _)

theorem works_pushSpans (s : State) (x : Nat) (radio : Bool) (ls : List (List TileLoad)) : Works s (s.pushSpans x radio ls) := by
  unfold State.pushSpans
  exact .ite (.refl s) (.ite (works_putSets ..) (works_putSets ..))

theorem works_queueNext (s : State) (x : Nat) : Works s (s.queueNext x) := by
  unfold State.queueNext
  split
  · exact .refl s
  · exact .ite (.refl s) ((works_putJob ..).trans (.foldl (fun _ _ => works_pushSpans ..) _ _))

theorem works_feedSpan (s : State) (x : Nat) (sp : List TileLoad) (rest : List (List TileLoad)) : Works s (s.feedSpan x sp rest).1 := by
  rw [State.feedSpan]
  dsimp only
  split
  · exact works_putSets ..
  · split
    · exact works_putSets ..
    · split
      · next h => exact (works_readSpans h).trans (works_failJob ..)
      · next h =>
        have read := works_readSpans h
        split
        · exact read.trans (works_failJob ..)
        · exact read.trans (((Works.foldl (fun _ _ => works_countDense ..) _ _).trans (works_modJob ..)).trans (works_putSets ..))
        · exact read
        · split
          · exact read
          · exact read.trans ((works_putSets ..).trans (works_putStores ..))

theorem works_feed (s : State) (x fuel : Nat) : Works s (s.feed x fuel) := by
  induction fuel generalizing s with
  | zero => exact .refl s
  | succ fuel ih =>
    have queued := works_queueNext s x
    rw [State.feed]
    refine .ite queued (.ite ((queued.trans (works_putSets ..)).trans (ih _)) (.ite queued (.ite (queued.trans (works_putSets ..)) ?_)))
    split
    · exact .ite (queued.trans (ih _)) queued
    · exact .ite ((queued.trans (works_feedSpan ..)).trans (ih _)) (queued.trans (works_feedSpan ..))

theorem works_feedAll (s : State) (j : Job) : Works s (s.feedAll j) := .foldl (fun t x => works_feed t x 64) _ s

theorem works_pushTiles (s : State) (j : Job) (ts : List (Nat × List TileLoad)) : Works s (s.pushTiles j ts) :=
  (Works.foldl (fun _ _ => works_pushSpans ..) _ s).trans (works_feedAll ..)

theorem works_afterSwap (s : State) (n : Nat) : Works s (s.afterSwap n) := by
  unfold State.afterSwap
  cases found : s.job? n with
  | none => rw [State.whenJob_none found]; exact .refl s
  | some j =>
    rw [State.whenJob_eq found]
    exact .ite ((Works.foldl (fun t x => (works_retireOf t x j.jid j.tile).trans (works_spanOver _ x)) _ s).trans (works_endJob ..)) (.refl s)

/-! ### The operations that start on the jets -/

theorem works_placeP (s : State) (q half n : Nat) (alone : Bool) : Works s (s.placeP q half n alone) := by
  have placed (t : State) (h b m : Nat) : Works t (t.placeSlots q h b m) :=
    .foldl (fun u _ => (works_setFld u (n := .BS_SLOT) (by decide) ..).trans (works_setFld _ (n := .BS_SLOT) (by decide) ..)) _ _
  exact .ite ((placed ..).trans (placed ..)) (placed ..)

theorem works_startHaze (s : State) (j : Job) : Works s (s.startHaze j) := (works_putJob s { j with phase := .draining }).trans (works_pushTiles ..)

theorem works_startForecast (s : State) (j : Job) : Works s (s.startForecast j) :=
  (works_putJob s { j with phase := .draining }).trans (works_pushTiles ..)

theorem works_startFused (s : State) (j : Job) : Works s (s.startFused j) := by
  rw [State.startFused]
  dsimp only
  split
  · next h => exact (Works.of_eq h (works_readBooks ..)).trans (works_failJob ..)
  · next h =>
    have books := Works.of_eq h (works_readBooks ..)
    split
    · next k => exact (books.trans (works_readSpans k)).trans (works_failJob ..)
    · next k =>
      refine (books.trans (works_readSpans k)).trans (Works.trans ?_ (works_pushTiles ..))
      exact (works_placeP ..).trans (works_putJob ..)

end Sys2Proof.Machine
end

section
/-! PROOFS. A replay moves no unit (18_reserves_and_faults.md): the accumulation, the restart of a descriptor, the groups of a jet. -/

namespace Sys2Proof.Machine

/-! ### Accumulation -/

theorem works_readAcc (s : State) (p : Nat → Bool) : Works s (s.readAcc p) := by
  unfold State.readAcc
  exact .ite (.refl s) ((works_bump s (n := .SP_ACC_CORRECTED) (by decide) ..).trans ⟨rfl, rfl, rfl, rfl, rfl, rfl⟩)

theorem works_addSums (s : State) (j : Job) (x n : Nat) (xs : List (Nat × Nat × List Sum)) : Works s (s.addSums j x n xs).1 := by
  rw [State.addSums]
  split
  · exact .refl s
  · extract_lets a b c _ d e f lapsed i k
    have read : Works s a := works_readAcc ..
    have put : Works a e := ⟨rfl, rfl, rfl, rfl, rfl, rfl⟩
    have term (t : State) (y : Nat) : Works t { t with grp := Tab.modify t.grp (grpKey y j.d.accGroup) fun g => g.terms n } := ⟨rfl, rfl, rfl, rfl, rfl, rfl⟩
    have terms : Works e f := .foldl term _ e
    have counted : Works f i := .ite (works_bump f (n := .SP_UNJOURNALED) (by decide) ..) (.refl f)
    exact (((read.trans put).trans terms).trans counted).trans (works_modJob ..)

theorem works_addTile (s : State) (j : Job) (x : Nat) (l : TileLoad) (cols : List Column) : Works s (s.addTile j x l cols).1 := by
  rw [State.addTile]
  split
  · next h => exact works_readSpans h
  · next h => exact (works_readSpans h).trans ((works_modJob ..).trans (works_addSums ..))

theorem works_countSpan (s : State) (e : Nat) (j : Job) (sp : EngSpan) (rows : List (List Bool)) : Works s (s.countSpan e j sp rows) := by
  unfold State.countSpan
  extract_lets u m ms T pairs cyc pack a b
  have shown : Works s a := works_setReg s (by decide) ..
  have status : Works a b := works_setFld a (by decide) ..
  exact (shown.trans status).trans ((((works_bump b (n := .SE_MATCHED_PAIRS) (by decide) ..).trans (works_bump _ (n := .SE_LANE_BUSY_CYCLES) (by decide) ..)).trans
    (works_bump _ (n := .SE_RUN_CYCLES) (by decide) ..)).trans (works_bump _ (n := .SE_SKEW_STALLS) (by decide) ..))

theorem works_addSpan (s : State) (j : Job) (e : Nat) (sp : EngSpan) : Works s (s.addSpan j e sp).1 := by
  rw [State.addSpan]
  split
  · exact .refl s
  · dsimp only
    split
    · next h => exact works_readSpans h
    · next h => exact (works_readSpans h).trans ((works_countSpan ..).trans ((works_modJob ..).trans (works_addSums ..)))

/-! ### A tile, a span, an entry again -/

theorem works_replayTile (s : State) (j : Job) (x : Nat) (l : TileLoad) : Works s (s.replayTile j x l).1 := by
  have loaded (t : State) (w : LoadedTile) : Works t (t.countLoad j x w) :=
    (works_bump t (n := .JT_TILES_LOADED) (by decide) ..).trans (works_bump _ (n := .JT_PLANES_SKIPPED) (by decide) ..)
  have sparse (t : State) (w : LoadedTile) : Works t (t.countS24 x w) := .ite (works_bump t (n := .JT_S24_TILES) (by decide) ..) (.refl t)
  rw [State.replayTile]
  split
  · next h => exact works_readSpans h
  · next h => exact (works_readSpans h).trans (((loaded ..).trans (sparse ..)).trans ((works_runRows ..).trans (works_addTile ..)))

theorem works_replayOnEngine (s : State) (j : Job) (x e : Nat) (sp : List TileLoad) : Works s (s.replayOnEngine j x e sp).1 := by
  rw [State.replayOnEngine]
  split
  · next h => exact works_readSpans h
  · next h => exact (works_readSpans h).trans ((works_bump _ (n := .SE_SPANS_RUN) (by decide) ..).trans (works_addSpan ..))

theorem works_replayTiles (s : State) (j : Job) (x : Nat) (ls : List TileLoad) : Works s (s.replayTiles j x ls).1 := by
  induction ls generalizing s with
  | nil => exact .refl s
  | cons l ls ih =>
    rw [State.replayTiles]
    split
    · next h => exact .of_eq h (works_replayTile ..)
    · next h => exact (Works.of_eq h (works_replayTile ..)).trans (ih _)

theorem works_replaySpans (s : State) (j : Job) (x : Nat) (ls : List (List TileLoad)) : Works s (s.replaySpans j x ls).1 := by
  induction ls generalizing s with
  | nil => exact .refl s
  | cons sp ls ih =>
    have one : Works s (match s.chooseEngine j x sp, engineOf x with
        | .engine, some e => s.replayOnEngine j x e sp
        | _, _ => s.replayTiles j x (s.mergeS24 j sp)).1 := by
      split
      · exact works_replayOnEngine ..
      · exact works_replayTiles ..
    rw [State.replaySpans]
    split
    · next h => exact .of_eq h one
    · next h => exact (Works.of_eq h one).trans (ih _)

theorem works_replayEntry (s : State) (xs : List Nat) (unit : Nat) (e : Entry) : Works s (s.replayEntry xs unit e).1 := by
  rw [State.replayEntry]
  dsimp only
  split
  · exact .refl s
  · split
    · next h => exact .of_eq h (works_readBooks ..)
    · next t i h =>
      have books : Works s t := .of_eq h (works_readBooks ..)
      have fold (l : List Part) (u : State) (f : State → Part → List (List TileLoad)) : Works u (l.foldl (fun (r : State × Option Err) p =>
          if r.2.isSome then r else r.1.replaySpans i p.jet (f t p)) (u, none)).1 :=
        List.foldlRecOn (motive := fun r : State × Option Err => Works u r.1) l _ (.refl u) fun r same p _ => by
          split
          · exact same
          · exact same.trans (works_replaySpans ..)
      exact (books.trans (fold _ t fun t p => t.pairSpans i (i.spansOf 0 p))).trans ⟨rfl, rfl, rfl, rfl, rfl, rfl⟩

theorem works_replayEntries (s : State) (xs : List Nat) (unit : Nat) (es : List Entry) : Works s (s.replayEntries xs unit es).1 := by
  induction es generalizing s with
  | nil => exact .refl s
  | cons e es ih =>
    rw [State.replayEntries]
    split
    · next h => exact .of_eq h (works_replayEntry ..)
    · next h => exact (Works.of_eq h (works_replayEntry ..)).trans (ih _)

/-! ### A descriptor again -/

theorem works_strip (s : State) (xs : List Nat) (jid : Nat) : Works s (s.strip xs jid) := by
  refine .foldl (fun t x => ?_) _ _
  dsimp only
  have quieted := (works_putSets t x ((t.setsOf x).without jid)).trans (works_quiet _ x)
  split
  · exact quieted
  · exact quieted.trans (works_putStores ..)

theorem works_restart (s : State) (j : Job) (xs : List Nat) : Works s (s.restart j xs) :=
  ((works_putJob s _).trans (works_strip ..)).trans ((Works.foldl (fun t x => works_feed t x 64) _ _).trans (works_afterSwap ..))

theorem works_rerun (s : State) (j : Job) (xs : List Nat) : Works s (s.rerun j xs) := by
  unfold State.rerun
  exact .ite (works_restart ..) (.ite ((works_unload ..).trans (works_startFused ..)) (.ite ((works_unload ..).trans (works_startForecast ..))
    (.ite ((works_unload ..).trans (works_startHaze ..)) ((works_unload ..).trans (works_putJob ..)))))

theorem works_unitFault (s : State) (j : Job) (unit : Nat) : Works s (s.unitFault j unit) := by
  have counted : Works s { s.bump (rk .SP_UNIT_FAULTS) with life := { s.life with unitFaults := satAdd 32 s.life.unitFaults 1 } } :=
    (works_bump s (n := .SP_UNIT_FAULTS) (by decide) ..).trans ⟨rfl, rfl, rfl, rfl, rfl, rfl⟩
  exact (counted.trans (works_raise ..)).trans (works_failJob ..)

theorem works_unitFaults (s : State) (js : List Nat) (unit : Nat) : Works s (s.unitFaults js unit) := by
  refine .foldl (fun t n => ?_) _ _
  cases found : t.job? n with
  | none => rw [State.whenJob_none found]; exact .refl t
  | some j => rw [State.whenJob_eq found]; exact .ite (works_unitFault ..) (.refl t)

theorem works_endUnreplayed (s : State) (unit : Nat) (on : Job → Bool) : Works s (s.endUnreplayed unit on) := works_unitFaults ..

/-! ### The groups of a jet -/

theorem works_reopen (s : State) (x g : Nat) : Works s (s.reopen x g) := by
  unfold State.reopen
  split
  · exact .refl s
  · exact ⟨rfl, rfl, rfl, rfl, rfl, rfl⟩

theorem works_replayGroup (s : State) (x g : Nat) : Works s (s.replayGroup x g) := by
  unfold State.replayGroup
  split
  · exact .refl s
  · dsimp only
    split
    · split
      · exact (works_unitFault ..).trans (.foldl (fun _ _ => works_shut ..) _ _)
      · exact .foldl (fun _ _ => works_shut ..) _ _
    · have opened (xs : List Nat) : Works s (xs.foldl (fun s y => s.reopen y g) s) := .foldl (fun _ _ => works_reopen ..) _ _
      split
      · next h _ => exact (opened _).trans ((Works.of_eq h (works_replayEntries ..)).trans (works_failJob ..))
      · next h _ => exact (opened _).trans ((Works.of_eq h (works_replayEntries ..)).trans (.foldl (fun _ _ => works_shut ..) _ _))
      · next h _ => exact (opened _).trans ((Works.of_eq h (works_replayEntries ..)).trans (works_rerun ..))
      · next h _ => exact (opened _).trans (.of_eq h (works_replayEntries ..))

theorem works_redoDot (s : State) (x : Nat) (j : Job) : Works s (s.redoDot x j) := by
  unfold State.redoDot
  dsimp only
  split
  · exact .refl s
  · exact (works_putJob ..).trans (works_putSets ..)

theorem works_replayOnce (s : State) (x cause : Nat) : Works s (s.replayOnce x cause) := by
  unfold State.replayOnce
  extract_lets gs kept dot live n a b cyc c d
  have groups : Works s a := .foldl (fun t g => works_replayGroup t x g) _ _
  have dots : Works a b := by
    unfold b
    cases dot with
    | none => exact .refl a
    | some j => exact works_redoDot ..
  have noted : Works b c := ⟨rfl, rfl, rfl, rfl, rfl, rfl⟩
  have counted : Works c d := (works_bump c (n := .SP_REPLAYS) (by decide) ..).trans (works_bump _ (n := .SP_REPLAY_CYCLES) (by decide) ..)
  exact (groups.trans dots).trans (.ite (.refl b) ((noted.trans counted).trans (works_raise ..)))

theorem works_reruns (s : State) (rs : List Rerun) : Works s { s with reruns := rs } := ⟨rfl, rfl, rfl, rfl, rfl, rfl⟩

theorem works_replay (s : State) (x cause : Nat) : Works s (s.replay x cause) := by
  unfold State.replay
  refine ((works_reruns s _).trans (works_replayOnce ..)).trans (.foldl (fun t r => ?_) _ _)
  exact .ite ((works_reruns t _).trans (works_replayOnce ..)) (.refl t)

theorem works_reloadSets (s : State) (x : Nat) : Works s (s.reloadSets x) := by
  unfold State.reloadSets
  dsimp only
  split
  · exact .refl s
  · exact works_putSets ..

theorem works_markDense (s : State) (sp : EngSpan) : Works s (s.markDense sp) := by
  unfold State.markDense
  split
  · exact .refl s
  · exact works_modJob ..

theorem works_refill (s : State) (e : Nat) : Works s (s.refill e) :=
  .ite (works_putStores ..) ((works_putStores ..).trans (.foldl (fun _ _ => works_putSets ..) _ _))

theorem works_flushed (s : State) (kind unit : Nat) : Works s (s.flushed kind unit) := by
  unfold State.flushed
  dsimp only
  have drawn : Works s { s with draws := s.draws + 1 } := ⟨rfl, rfl, rfl, rfl, rfl, rfl⟩
  exact .ite drawn (drawn.trans ((works_bump _ (n := .CK_CDC_FLUSHED) (by decide) ..).trans (works_raise ..)))

end Sys2Proof.Machine
end

section
/-! PROOFS. A unit taken out of service (18_reserves_and_faults.md): an engine, a jet, a column, a terrace. -/

namespace Sys2Proof.Machine

theorem works_mapAdd (s : State) (kind unit loc : Nat) : Works s (s.mapAdd kind unit loc) := by
  unfold State.mapAdd
  exact .ite ⟨rfl, rfl, rfl, rfl, rfl, rfl⟩ (works_raise ..)

theorem works_shows {ks : List RegName} {s t : State} (h : Shows ks s t) (out : RegName.SP_RESIDUE_ERRORS ∉ ks) : Works s t :=
  ⟨h.field State.emap, h.field State.jmap, h.field State.lmap, h.field State.suspects, h.field State.spareCols, h.reg _ out⟩

theorem works_showIds (s : State) (p : Nat) : Works s (s.showIds p) := works_shows (shows_showIds s p) (by decide)

theorem works_showColumns (s : State) (u : Nat) : Works s (s.showColumns u) := works_shows (shows_showColumns s u) (by decide)

theorem works_settle (s : State) : Works s s.settle :=
  ⟨settle_field s State.emap, settle_field s State.jmap, settle_field s State.lmap, settle_field s State.suspects, settle_field s State.spareCols,
    (settles_settle s).reg _ (show RegName.SP_RESIDUE_ERRORS ∉ settleRegs by decide)⟩

theorem works_setHolder (s : State) (r h : Nat) : Works s (s.setHolder r h) := by
  have held : Works s { s with holders := if h = 0 then Tab.del s.holders r else Tab.put s.holders r h } := ⟨rfl, rfl, rfl, rfl, rfl, rfl⟩
  unfold State.setHolder
  exact .ite (held.trans ((works_setFld _ (n := .JT_STATUS) (by decide) ..).trans ((works_setFld _ (n := .TR_RESERVE) (by decide) ..).trans
    (works_setFld _ (n := .TR_RESERVE) (by decide) ..)))) held

theorem works_dropSamples (s : State) (t : Nat) : Works s (s.dropSamples t) := by
  have counted (q : List HaloSample) : Works s (q.foldl (fun (s : State) x =>
      if x.d.opcode = opForecast then s.bump (rk .FC_TRK_DROPPED 0 (ForecastBlk.ofBytes x.block).tracker)
      else if x.d.opcode = opHaze then s.bump (rk .HZ_TRK_DROPPED 0 (HazeBlk.ofBytes x.block).tracker)
      else s) s) := .foldl (fun t x => .ite (works_bump t (by decide) ..) (.ite (works_bump t (by decide) ..) (.refl t))) _ _
  have shown (u : State) : Works u (u.show (rk .HL_PENDING 0 t) 0) := works_shows (ks := [.HL_PENDING]) (shows_show u (by decide) ..) (by decide)
  unfold State.dropSamples
  dsimp only
  split
  · exact .refl s
  · refine Works.trans ?_ (shown _)
    exact ((counted _).trans (works_bump _ (n := .HL_DROPPED) (by decide) ..)).trans ⟨rfl, rfl, rfl, rfl, rfl, rfl⟩

/-! ### An engine -/

/-- The state in which an engine has just been taken out. -/
def State.engineGone (s : State) (e : Nat) : State := { s.mapAdd 2 (s.physE e) 0 with emap := s.emap ++ [s.physE e] }

theorem works_spareEngine (s : State) (e cause : Nat) : Works (s.engineGone e) (s.spareEngine e cause) := by
  unfold State.spareEngine
  extract_lets u v mine ran _ a p _ q b c d f
  have counted : Works a b := by
    have spared : Works a p := works_bump a (n := .SP_ENGINES_SPARED) (by decide) ..
    have noted : Works p q := ⟨rfl, rfl, rfl, rfl, rfl, rfl⟩
    exact .ite (.refl a) ((spared.trans noted).trans (works_raise ..))
  have shown : Works b c := (works_showIds ..).trans (works_flushed ..)
  have ended : Works c d := .foldl (fun _ _ => works_endUnreplayed ..) _ _
  have filled : Works d f := (Works.foldl works_markDense _ _).trans (.foldl works_refill _ _)
  exact (((counted.trans shown).trans ended).trans filled).trans (.foldl (fun t x => works_replay t x cause) _ _)

/-- An engine's fault takes it out and counts no residue mismatch of its own. -/
theorem spareEngine_out (s : State) (e cause : Nat) : (s.spareEngine e cause).emap = s.emap ++ [s.physE e] ∧
    (s.spareEngine e cause).reg (rk .SP_RESIDUE_ERRORS) = s.reg (rk .SP_RESIDUE_ERRORS) :=
  ⟨(works_spareEngine s e cause).engines, (works_spareEngine s e cause).count.trans (works_mapAdd s 2 (s.physE e) 0).count⟩

theorem engineFault_up {s : State} {e : Nat} (ready : s.terraceReady (e / 8) = true) (up : s.engineUp e = true) (cause : Nat) :
    s.engineFault e cause = s.spareEngine e cause := by rw [State.engineFault, ready, up, Bool.and_self, if_pos rfl]

theorem engineFault_down {s : State} {e : Nat} (down : s.terraceReady (e / 8) = false ∨ s.engineUp e = false) (cause : Nat) : s.engineFault e cause = s :=
  if_neg (by rcases down with h | h <;> simp [h])

/-! ### A terrace -/

theorem works_setTerrace (s : State) (t : Nat) (b : Bool) : Works s (s.setTerrace t b) := by
  have one (x : State) (n : Nat) : Works x (x.setOwn n b) := ⟨rfl, rfl, rfl, rfl, rfl, rfl⟩
  exact (one s _).trans (.foldl (fun x n => one x _) _ _)

theorem works_clearTerrace (s : State) (t : Nat) : Works s (s.clearTerrace t) := by
  have jet (x : State) (y : Nat) : Works x ((x.showJet y).quiet y) := by
    refine Works.trans (works_of_plain ?_ (showJet_reg _ _ (show RegName.SP_RESIDUE_ERRORS ∉ storeRegs by decide))) (works_quiet ..)
    simp only [State.showJet]
    split <;> rfl
  have engine (x : State) (y : Nat) : Works x (x.showEngine y) := by
    refine works_of_plain ?_ (showEngine_reg _ _ (show RegName.SP_RESIDUE_ERRORS ∉ storeRegs by decide))
    simp only [State.showEngine]
    split <;> rfl
  unfold State.clearTerrace
  extract_lets mine a js b
  have cleared : Works s a := ⟨rfl, rfl, rfl, rfl, rfl, rfl⟩
  exact (cleared.trans (.foldl jet _ a)).trans (.foldl (fun x i => engine x _) _ b)

theorem works_refreshReady (s : State) : Works s s.refreshReady :=
  works_of_rest (rest_refreshReady s) ((settles_refreshReady s).reg _ (show RegName.SP_RESIDUE_ERRORS ∉ settleRegs by decide))

theorem works_beginWait (s : State) (t : Nat) : Works s (s.beginWait t) := by
  have begun : Works s { s with failing := Tab.put s.failing t 0 } := ⟨rfl, rfl, rfl, rfl, rfl, rfl⟩
  exact .ite (begun.trans (works_raise ..)) begun

theorem works_giveBack (s : State) (cs : List (Nat × Nat)) (op : Nat) : Works s (s.giveBack cs op) :=
  works_of_rest (rest_giveBack ..) (giveBack_reg _ _ _ (show RegName.SP_RESIDUE_ERRORS ∉ .BS_SLOT :: eventRegs by decide))

/-- The end of a failing terrace's own work, before its reserve is sought. -/
def State.failoverBegun (s : State) (t : Nat) : State :=
  ((((s.mapAdd 4 (s.physT t) 0).setTerrace t false).dropSamples t).flushed 4 (hereHandle (0x100 + t))).clearTerrace t

theorem works_failoverBegun (s : State) (t : Nat) : Works s (s.failoverBegun t) :=
  ((((works_mapAdd ..).trans (works_setTerrace ..)).trans (works_dropSamples ..)).trans (works_flushed ..)).trans (works_clearTerrace ..)

theorem works_startFailover (s : State) (t : Nat) : Works s (s.startFailover t) := by
  unfold State.startFailover
  extract_lets a b js c d
  have begun : Works s c := works_failoverBegun s t
  have ready : Works c d := works_refreshReady c
  refine begun.trans (.ite ((works_unitFaults ..).trans (works_settle _)) (ready.trans (.ite ?_ ?_)))
  · refine Works.trans ?_ (works_settle _)
    exact (Works.foldl (fun t (j : Job) => (works_giveBack t j.claimed 0).trans (works_putJob ..)) _ d).trans ⟨rfl, rfl, rfl, rfl, rfl, rfl⟩
  · exact ((works_beginWait ..).trans (works_unitFaults ..)).trans (works_settle _)

theorem lowers_mapAdd (s : State) (kind unit loc : Nat) : Lowers s (s.mapAdd kind unit loc) := by
  unfold State.mapAdd
  exact .ite (lowers_of_up rfl rfl rfl) (lowers_of_rest (rest_raise ..))

theorem lowers_failJob (s : State) (j : Job) (status detail : Nat) : Lowers s (s.failJob j status detail) := by
  rw [failJob_eq]
  have one (t : State) (x : Nat) : Lowers t (t.shut x j.d.accGroup) := lowers_of_up rfl rfl rfl
  have shut : Lowers s (s.shutGroups j) := .ite (.foldl one _ _) (.refl s)
  have ended (t : State) (i : Job) : Lowers t (t.endJob i status detail) := (lowers_plain (State.plain_unload t i.jid)).trans (lowers_of_up rfl rfl rfl)
  exact (shut.trans (lowers_of_rest (rest_giveBack ..))).trans (ended ..)

theorem lowers_unitFaults (s : State) (js : List Nat) (unit : Nat) : Lowers s (s.unitFaults js unit) := by
  have fault (t : State) (j : Job) : Lowers t (t.unitFault j unit) := by
    have counted : Lowers t { t.bump (rk .SP_UNIT_FAULTS) with life := { t.life with unitFaults := satAdd 32 t.life.unitFaults 1 } } := lowers_of_up rfl rfl rfl
    exact (counted.trans (lowers_of_rest (rest_raise ..))).trans (lowers_failJob ..)
  refine .foldl (fun t n => ?_) _ _
  cases found : t.job? n with
  | none => rw [State.whenJob_none found]; exact .refl t
  | some j => rw [State.whenJob_eq found]; exact .ite (fault ..) (.refl t)

/-- A terrace that fails is not ready. -/
theorem own_startFailover (s : State) (t : Nat) : (s.startFailover t).own (128 + t) = false := by
  unfold State.startFailover
  extract_lets a b js c d
  have out : a.own (128 + t) = false := own_setTerrace_false ..
  have begun : Lowers a c := ((lowers_dropSamples ..).trans (lowers_flushed ..)).trans (lowers_clearTerrace ..)
  have ready : Lowers c d := lowers_of_rest (rest_refreshReady c)
  have waits : Lowers d (d.beginWait t) := by
    have put : Lowers d { d with failing := Tab.put d.failing t 0 } := lowers_of_up rfl rfl rfl
    exact .ite (put.trans (lowers_of_rest (rest_raise ..))) put
  refine Lowers.down (begun.trans (.ite ((lowers_unitFaults ..).trans (lowers_settle _)) (ready.trans (.ite ?_ ?_)))) out
  · refine Lowers.trans ?_ (lowers_settle _)
    have again (u : State) (j : Job) : Lowers u ((u.giveBack j.claimed).putJob j.again) :=
      (lowers_of_rest (rest_giveBack u j.claimed 0)).trans (lowers_of_up rfl rfl rfl)
    exact (Lowers.foldl again _ d).trans (lowers_of_up rfl rfl rfl)
  · exact (waits.trans (lowers_unitFaults ..)).trans (lowers_settle _)

end Sys2Proof.Machine
end

section
/-! PROOFS. A jet and a column spared (18_reserves_and_faults.md). -/

namespace Sys2Proof.Machine

section
variable (s : State) (x cause : Nat)

/-- With no reserve jet free, the jet's terrace goes. -/
theorem spareJet_none (none : ¬ s.reserveFree x) : s.spareJet x cause = s.startFailover (jetTerrace x) := by
  unfold State.spareJet
  dsimp only
  refine if_pos ?_
  by_contra free
  obtain ⟨other, idle⟩ := not_or.1 free
  obtain ⟨idle, unused⟩ := not_or.1 idle
  refine none ⟨other, by simpa using idle, fun e mem same => unused ?_⟩
  exact List.any_eq_true.2 ⟨e, mem, decide_eq_true same⟩

/-- The repair state just after a jet has been replaced by its terrace's reserve jet. -/
structure JetSpared (s t : State) (u r : Nat) : Prop where
  jets : t.jmap = Tab.put s.jmap u r
  marks : t.suspects = s.suspects
  columns : t.spareCols = s.spareCols

theorem JetSpared.trans {s t v : State} {u r : Nat} (h : JetSpared s t u r) (k : Works t v) : JetSpared s v u r :=
  ⟨k.jets.trans h.jets, k.marks.trans h.marks, k.columns.trans h.columns⟩

theorem spareJet_free (free : s.reserveFree x) : JetSpared s (s.spareJet x cause) (s.physJ x) (17 * s.physT (jetTerrace x) + 16) := by
  obtain ⟨other, idle, unused⟩ := free
  unfold State.spareJet
  extract_lets t u r a b c d f g i
  rw [if_neg]
  · have ended : Works s a := .ite (works_unitFaults ..) (.refl s)
    have held : Works a b := (works_dropSamples ..).trans (works_setHolder ..)
    have counted : Works b c := (works_mapAdd ..).trans (works_bump _ (n := .SP_JETS_SPARED) (by decide) ..)
    have was := (ended.trans held).trans counted
    have put : JetSpared s f u r := ⟨congrArg (Tab.put · u r) was.jets, was.marks, was.columns⟩
    have shown : Works f g := (works_showIds ..).trans (works_flushed ..)
    have raised : Works g i := works_raise ..
    exact put.trans ((shown.trans raised).trans ((works_endUnreplayed ..).trans ((works_settle _).trans ((works_replay ..).trans (works_reloadSets ..)))))
  · rintro (same | gone | taken)
    · exact other same
    · simp [r, t, idle] at gone
    · obtain ⟨e, mem, same⟩ := List.any_eq_true.1 taken
      exact unused e mem (of_decide_eq_true same)

/-- A jet spared: its reserve jet, or its terrace taken out; no column is marked or spared. -/
theorem sparesJet_spareJet : s.sparesJet (s.spareJet x cause) x ∧ (s.spareJet x cause).suspects = s.suspects ∧
    (s.spareJet x cause).spareCols = s.spareCols := by
  by_cases free : s.reserveFree x
  · have spared := spareJet_free s x cause free
    exact ⟨⟨fun _ => by rw [spared.jets, Tab.find?_put_same], fun none => absurd free none⟩, spared.marks, spared.columns⟩
  · rw [spareJet_none s x cause free]
    exact ⟨⟨fun h => absurd h free, fun _ => own_startFailover ..⟩, (works_startFailover ..).marks, (works_startFailover ..).columns⟩

end

/-- Which reserve jets are free is said by the repair map alone. -/
theorem sparesJet_congr {s s' t : State} (x : Nat) (terraces : s'.lmap = s.lmap) (jets : s'.jmap = s.jmap) : s'.sparesJet t x ↔ s.sparesJet t x := by
  have place (n : Nat) : s'.physT n = s.physT n := by rw [State.physT, State.physT, terraces]
  have own : s'.physJ x = s.physJ x := by simp only [State.physJ, State.ownJ, place, jets]
  simp only [State.sparesJet, State.reserveFree, place, own, jets]

/-! ### A column -/

section
variable (s : State) (x c : Nat)

/-- The state in which a column is no longer suspect. -/
def State.unmarked (s : State) (x c : Nat) : State := { s with suspects := Tab.del s.suspects (256 * s.physJ x + c) }

theorem spareColumn_moves (few : Tab.getD s.spareCols (s.physJ x) 0 < 2) :
    (s.spareColumn x c).suspects = Tab.del s.suspects (256 * s.physJ x + c) ∧
    (s.spareColumn x c).spareCols = Tab.put s.spareCols (s.physJ x) (Tab.getD s.spareCols (s.physJ x) 0 + 1) ∧ (s.spareColumn x c).jmap = s.jmap := by
  unfold State.spareColumn
  extract_lets u n a now b d f
  rw [if_neg (Nat.not_le.2 few)]
  have counted : Works a b := (works_mapAdd ..).trans (works_bump _ (n := .SP_COLUMNS_SPARED) (by decide) ..)
  have after (t : State) : Works t (((t.showColumns u).raise 0x400 (hereHandle (jetHandle x))
      (payload [(24, 1, 0), (25, 1, c), (26, 2, now), (28, 2, 128 + n), (30, 1, 1 - n)])).replay x 0) :=
    (works_showColumns ..).trans ((works_raise ..).trans (works_replay ..))
  exact ⟨(after f).marks.trans counted.marks, (after f).columns.trans (congrArg (Tab.put · u (n + 1)) counted.columns),
    (after f).jets.trans counted.jets⟩

theorem spareColumn_none (many : 2 ≤ Tab.getD s.spareCols (s.physJ x) 0) :
    s.sparesJet (s.spareColumn x c) x ∧ (s.spareColumn x c).suspects = Tab.del s.suspects (256 * s.physJ x + c) := by
  have shown := works_showColumns (s.unmarked x c) (s.physJ x)
  have spared := sparesJet_spareJet ((s.unmarked x c).showColumns (s.physJ x)) x 0
  have eq : s.spareColumn x c = ((s.unmarked x c).showColumns (s.physJ x)).spareJet x 0 := if_pos many
  rw [eq]
  exact ⟨(sparesJet_congr x shown.terraces shown.jets).1 spared.1, spared.2.1.trans shown.marks⟩

end

end Sys2Proof.Machine
end

section
/-! PROOFS. The end of a failover (18_reserves_and_faults.md): the reserve stands in the terrace's place. -/

namespace Sys2Proof.Machine

/-! ### Reads lose no terrace -/

/-- The lifetime record counts as many terraces lost as before. -/
def SameLosses (s t : State) : Prop := t.life.terraces = s.life.terraces

theorem SameLosses.trans {s t u : State} (h : SameLosses s t) (k : SameLosses t u) : SameLosses s u := Eq.trans k h

theorem SameLosses.foldl {α : Type} {f : State → α → State} (h : ∀ s x, SameLosses s (f s x)) (l : List α) (s : State) : SameLosses s (l.foldl f s) :=
  List.foldlRecOn (motive := SameLosses s) l f rfl fun t same x _ => same.trans (h t x)

theorem SameLosses.ite {c : Prop} [Decidable c] {s t u : State} (h : SameLosses s t) (k : SameLosses s u) : SameLosses s (if c then t else u) := by
  split
  · exact h
  · exact k

theorem SameLosses.scan {α β : Type} {f : State × β → α → State × β} (h : ∀ r x, SameLosses r.1 (f r x).1) (l : List α) (r : State × β) :
    SameLosses r.1 (l.foldl f r).1 :=
  List.foldlRecOn (motive := fun t : State × β => SameLosses r.1 t.1) l f rfl fun t same x _ => same.trans (h t x)

theorem sameLosses_raise (s : State) (c u : Nat) (p : List Byte) : SameLosses s (s.raise c u p) := raise_field s c u p fun x => x.life.terraces

theorem sameLosses_of_eventless {s t : State} (h : t.eventless = s.eventless) : SameLosses s t :=
  (congrArg (fun x : State => x.life.terraces) h : t.eventless.life.terraces = s.eventless.life.terraces)

theorem sameLosses_mapAdd (s : State) (kind unit loc : Nat) : SameLosses s (s.mapAdd kind unit loc) := by
  unfold State.mapAdd
  exact .ite rfl (sameLosses_raise ..)

theorem sameLosses_poolCorrected (s : State) (q x : Nat) : SameLosses s (s.poolCorrected q x) := by
  unfold State.poolCorrected
  extract_lets u a key ns th used rows b c d
  have mapped : SameLosses b c := sameLosses_mapAdd ..
  exact .ite (mapped.trans (SameLosses.trans rfl (sameLosses_raise d ..))) rfl

theorem sameLosses_poolRowRead (s : State) (q x n req : Nat) : SameLosses s (s.poolRowRead q x n req).1 := by
  have fixed (l m : List Nat) : SameLosses s (l.foldl (fun (t : State) y => t.poolCorrected q y)
      { s with poolErr := m.foldl (fun t y => Tab.del t ((poolBase q + y) / 32)) s.poolErr }) :=
    SameLosses.trans rfl (.foldl (fun t y => sameLosses_poolCorrected t q y) _ _)
  unfold State.poolRowRead
  dsimp only
  split
  · exact fixed ..
  · exact (fixed ..).trans (SameLosses.trans rfl (sameLosses_raise ..))

theorem sameLosses_dramUncorr (s : State) (st a : Nat) (es : List (Nat × Nat)) : SameLosses s (s.dramUncorr st a es) := by
  have latched (t : State) (v : Word) : SameLosses t (if t.bit (rk .DM_ERR_INFO st) 63 then t else t.setReg (rk .DM_ERR_INFO st) v) := .ite rfl rfl
  exact (SameLosses.trans rfl (latched (s.bump (rk .DM_UNCORR st)) _)).trans (sameLosses_raise ..)

theorem sameLosses_dramCorrected (s : State) (st a : Nat) : SameLosses s (s.dramCorrected st a) := by
  obtain ⟨rows, n, h | h⟩ := dramCorrected_eq s st a
  · exact (congrArg (fun x : State => x.life.terraces) h).trans rfl
  · exact (congrArg (fun x : State => x.life.terraces) h).trans (sameLosses_raise ..)

theorem sameLosses_dramRead (s : State) (st a n : Nat) : SameLosses s (s.dramRead st a n).1 := by
  unfold State.dramRead
  dsimp only
  split
  · rfl
  · split
    · refine SameLosses.trans ?_ (sameLosses_dramCorrected ..)
      rfl
    · refine SameLosses.trans ?_ (sameLosses_dramUncorr ..)
      rfl

theorem sameLosses_sendLink (s : State) (m : LinkMsg) (op : Nat) : SameLosses s (s.sendLink m op) :=
  sameLosses_of_eventless (eventless_sendLink s m op)

theorem sameLosses_spillRead (s : State) (w : Who) (n : Nat) : SameLosses s (s.spillRead w n) := .ite rfl rfl

theorem sameLosses_unmapped (s : State) (a : Nat) : SameLosses s (s.unmapped a) := by
  have latched : SameLosses s (s.unmappedLatch a).1 := sameLosses_of_eventless (eventless_unmappedLatch s a)
  unfold State.unmapped State.raising
  split
  · exact latched.trans (sameLosses_raise ..)
  · exact latched

theorem sameLosses_readPiece (s : State) (w : Who) (a n req : Nat) : SameLosses s (s.readPiece w a n req).1 := by
  have used (x : Nat) : SameLosses s (s.used x) := rfl
  unfold State.readPiece
  split
  case h_1 => exact sameLosses_unmapped ..
  case h_2 =>
    split
    · exact sameLosses_poolRowRead ..
    · rfl
  case h_3 => exact (used _).trans (sameLosses_dramRead ..)
  case h_4 =>
    split
    · exact (used _).trans (sameLosses_spillRead ..)
    · rfl
  case h_5 =>
    split
    · exact SameLosses.trans rfl (sameLosses_sendLink ..)
    · rfl
  case h_6 =>
    split
    · exact (used _).trans ((sameLosses_spillRead ..).trans (sameLosses_sendLink ..))
    · rfl
  case h_7 => exact sameLosses_dramUncorr ..

theorem sameLosses_boundsHit (s : State) (q n o : Nat) : SameLosses s (s.boundsHit q n o) :=
  .ite (SameLosses.trans rfl (sameLosses_raise ..)) rfl

theorem sameLosses_slotPiece (s : State) (w : Who) (q n o len req : Nat) : SameLosses s (s.slotPiece w q n o len req).1 := by
  unfold State.slotPiece
  dsimp only
  split
  · exact .foldl (fun t o => sameLosses_boundsHit t q n o) _ _
  · split
    · exact sameLosses_poolRowRead ..
    · rfl

theorem sameLosses_readSpan (s : State) (w : Who) (p : Span) (req : Nat) : SameLosses s (s.readSpan w p req).1 := by
  unfold State.readSpan
  split
  · split
    · rfl
    · refine .scan (fun r c => ?_) _ (s, (none : Option Err))
      split
      · rfl
      · exact sameLosses_slotPiece ..
  · refine .scan (fun r c => ?_) _ (s, (none : Option Err))
    split
    · rfl
    · exact sameLosses_readPiece ..

theorem sameLosses_readSpans (s : State) (w : Who) (ps : List Span) (req : Nat) : SameLosses s (s.readSpans w ps req).1 := by
  refine .scan (fun r p => ?_) _ (s, (none : Option Err))
  split
  · rfl
  · exact sameLosses_readSpan ..

/-! ### What the end of a failover leaves until it settles -/

/-- The terraces' places, those that fail, and the count of those lost. -/
structure Places (s t : State) : Prop where
  terraces : t.lmap = s.lmap
  failing : t.failing = s.failing
  losses : SameLosses s t

theorem Places.refl (s : State) : Places s s := ⟨rfl, rfl, rfl⟩

theorem Places.trans {s t u : State} (h : Places s t) (k : Places t u) : Places s u :=
  ⟨k.terraces.trans h.terraces, k.failing.trans h.failing, h.losses.trans k.losses⟩

theorem Places.foldl {α : Type} {f : State → α → State} (h : ∀ s x, Places s (f s x)) (l : List α) (s : State) : Places s (l.foldl f s) :=
  List.foldlRecOn (motive := Places s) l f (.refl s) fun t same x _ => same.trans (h t x)

theorem Places.ite {c : Prop} [Decidable c] {s t u : State} (h : Places s t) (k : Places s u) : Places s (if c then t else u) := by
  split
  · exact h
  · exact k

theorem places_shows {ks : List RegName} {s t : State} (h : Shows ks s t) : Places s t :=
  ⟨h.field State.lmap, h.field State.failing, h.field fun x => x.life.terraces⟩

theorem places_show (s : State) (k : RegKey) (n : Nat) : Places s (s.show k n) := by
  unfold State.show
  exact .ite (.refl s) ⟨rfl, rfl, rfl⟩

theorem places_readList (s : State) (t : Nat) : Places s (s.readList t).1 := by
  unfold State.readList
  extract_lets a n r
  split
  · exact .refl s
  · have read : r.1.rest = s.rest := rest_readSpans ..
    exact ⟨of_rest State.lmap read, of_rest State.failing read, sameLosses_readSpans ..⟩

theorem places_provide (s : State) (t : Nat) (e : Provision) : Places s (s.provide t e) := by
  have read := rest_readSpan s queueWho ⟨e.src, 0, 256 * e.units⟩ 11
  exact ⟨of_rest State.lmap read, of_rest State.failing read, sameLosses_readSpan s queueWho ⟨e.src, 0, 256 * e.units⟩ 11⟩

theorem places_copyBasin (s : State) (u v : Nat) (full : Nat → Bool) : Places s (s.copyBasin u v full) :=
  ((Places.foldl (fun _ _ => places_show ..) _ _).trans (.foldl (fun _ _ => places_show ..) _ _)).trans (places_show ..)

theorem places_setHolder (s : State) (r h : Nat) : Places s (s.setHolder r h) := by
  have held : Places s { s with holders := if h = 0 then Tab.del s.holders r else Tab.put s.holders r h } := ⟨rfl, rfl, rfl⟩
  exact .ite (held.trans ⟨rfl, rfl, rfl⟩) held

theorem sameLosses_giveBack (s : State) (cs : List (Nat × Nat)) (op : Nat) : SameLosses s (s.giveBack cs op) :=
  .foldl (fun t c => by
    unfold State.slotFill
    exact .ite (sameLosses_sendLink ..) rfl) cs s

theorem places_unitFaults (s : State) (js : List Nat) (unit : Nat) : Places s (s.unitFaults js unit) := by
  have raised (t : State) (c u : Nat) (p : List Byte) : Places t (t.raise c u p) :=
    ⟨raise_field t c u p State.lmap, raise_field t c u p State.failing, sameLosses_raise ..⟩
  have ended (t : State) (i : Job) (a b : Nat) : Places t (t.endJob i a b) := by
    have plain := State.plain_unload t i.jid
    exact ⟨State.of_plain plain State.lmap fun _ => rfl, State.of_plain plain State.failing fun _ => rfl, State.of_plain plain (fun x => x.life.terraces) fun _ => rfl⟩
  have failed (t : State) (j : Job) (a b : Nat) : Places t (t.failJob j a b) := by
    have one (u : State) (x : Nat) : Places u (u.shut x j.d.accGroup) := ⟨rfl, rfl, rfl⟩
    have shut : Places t (t.shutGroups j) := .ite (.foldl one _ _) (.refl t)
    have given (u : State) : Places u (u.giveBack j.claimed (j.jid + 1)) :=
      ⟨of_rest State.lmap (rest_giveBack ..), of_rest State.failing (rest_giveBack ..), sameLosses_giveBack ..⟩
    rw [failJob_eq]
    exact (shut.trans (given _)).trans (ended ..)
  have fault (t : State) (j : Job) : Places t (t.unitFault j unit) := by
    have counted : Places t { t.bump (rk .SP_UNIT_FAULTS) with life := { t.life with unitFaults := satAdd 32 t.life.unitFaults 1 } } := ⟨rfl, rfl, rfl⟩
    exact (counted.trans (raised ..)).trans (failed ..)
  refine .foldl (fun t n => ?_) _ _
  cases found : t.job? n with
  | none => rw [State.whenJob_none found]; exact .refl t
  | some j => rw [State.whenJob_eq found]; exact .ite (fault ..) (.refl t)

/-! ### Settling takes no terrace of service out -/

theorem own_takeReserve_terrace (s : State) {t : Nat} (service : t < 32) : s.takeReserve.own (128 + t) = s.own (128 + t) := by
  unfold State.takeReserve
  split
  · next e r _ reserve =>
    have inside : r ∈ [32, 33, 34] := List.mem_of_find?_eq_some reserve
    have above : 32 ≤ r := by simp at inside; omega
    refine (congrArg (List.contains · (128 + t)) (of_rest State.up (rest_refreshReady _))).trans ?_
    refine List.foldlRecOn (motive := fun u : State => u.own (128 + t) = s.own (128 + t)) _ _ ?_ fun u same x mem => ?_
    · rw [own_setOwn, if_neg (by omega)]
      rfl
    · rw [own_setOwn, if_neg (by omega)]
      exact same
  · rfl

theorem own_settle_terrace (s : State) {t : Nat} (service : t < 32) : s.settle.own (128 + t) = s.own (128 + t) := by
  have held (u : State) : u.holdDefaults.showSpares.own (128 + t) = u.own (128 + t) :=
    congrArg (List.contains · (128 + t)) ((up_showSpares _).trans (up_holdDefaults u))
  have ready : s.refreshReady.own (128 + t) = s.own (128 + t) := congrArg (List.contains · (128 + t)) (of_rest State.up (rest_refreshReady s))
  rw [State.settle, held, own_takeReserve_terrace _ service, own_takeReserve_terrace _ service, own_takeReserve_terrace _ service, ready]

theorem find?_of_find?_none {α : Type} {l : Tab α} {k : Nat} (none : Tab.find? l k = none) : ∀ e ∈ l, e.1 ≠ k := by
  induction l with
  | nil => exact fun _ mem => nomatch mem
  | cons x r ih =>
    unfold Tab.find? at none
    split at none
    · cases none
    · next other =>
      intro e mem
      rcases List.mem_cons.1 mem with rfl | mem
      · exact other
      · exact ih none e mem

theorem failing_setTerrace (s : State) (t : Nat) (b : Bool) : (s.setTerrace t b).failing = s.failing :=
  List.foldlRecOn (motive := fun u : State => u.failing = s.failing) _ _ rfl fun _ same _ _ => same

theorem failing_takeReserve {s : State} {t : Nat} (absent : Tab.find? s.failing t = none) : Tab.find? s.takeReserve.failing t = none := by
  unfold State.takeReserve
  split
  · next e r waits _ =>
    have other : t ≠ e.1 := (find?_of_find?_none absent e (List.mem_of_find?_eq_some waits)).symm
    rw [of_rest State.failing (rest_refreshReady _), failing_setTerrace, Tab.find?_put_other _ _ other, absent]
  · exact absent

theorem places_holds (s : State) : Places s s.holdDefaults.showSpares := by
  have timer : Places s (if s.nimbus && s.holder resTimer = 0 then s.setHolder resTimer 5 else s) := .ite (places_setHolder ..) (.refl s)
  have held : Places s s.holdDefaults := by
    refine timer.trans (.foldl (fun t x => ?_) _ _)
    exact .ite (.ite (places_setHolder ..) (.refl t)) (.ite (places_setHolder ..) (.refl t))
  have spares (t : State) : Places t t.showSpares := .ite (.refl t) ⟨rfl, rfl, rfl⟩
  exact held.trans (spares _)

/-- A terrace that does not fail is not given a reserve. -/
theorem failing_settle {s : State} {t : Nat} (absent : Tab.find? s.failing t = none) : Tab.find? s.settle.failing t = none := by
  have held (u : State) : u.holdDefaults.showSpares.failing = u.failing := (places_holds u).failing
  have ready : Tab.find? s.refreshReady.failing t = none := (congrArg (Tab.find? · t) (of_rest State.failing (rest_refreshReady s))).trans absent
  rw [State.settle, held]
  exact failing_takeReserve (failing_takeReserve (failing_takeReserve ready))

/-! ### The end of a failover -/

theorem endFailover_places (s : State) {t r us : Nat} (service : t < 32) (reserve : 32 ≤ r) :
    (s.endFailover t r us).physT t = s.physT r ∧ (s.endFailover t r us).own (128 + t) = true ∧ Tab.find? (s.endFailover t r us).failing t = none ∧
      (s.endFailover t r us).life.terraces = min (s.life.terraces + 1) 255 := by
  unfold State.endFailover
  extract_lets old new read es pools a b c d f g _ k h m mine p q settled
  have copied : Places s g := by
    have cleared : Places a b := ⟨rfl, rfl, rfl⟩
    have provided : Places b c := .foldl (fun x e => places_provide x t e) _ _
    have slots : Places c d := by
      refine .foldl (fun x i => ?_) _ _
      exact places_copyBasin ..
    have groups : Places d f := by
      refine .foldl (fun x i => ?_) _ _
      exact places_show ..
    have begun : Places s a := places_readList s t
    have issue : Places f g := places_show ..
    exact (((begun.trans cleared).trans provided).trans slots).trans (groups.trans issue)
  clear_value g
  have moved : k.physT t = new := by
    have place : k.lmap = Tab.put (Tab.put g.lmap t new) r old := rfl
    rw [State.physT, place, Tab.getD_put_other _ _ _ (by omega), Tab.getD_put_same]
  have gone : Tab.find? k.failing t = none := Tab.find?_del_same ..
  have counted : k.life.terraces = min (s.life.terraces + 1) 255 := congrArg (fun n => min (n + 1) 255) copied.losses
  have shown : Places k q := by
    have held : Places k h := .ite (places_setHolder ..) (.refl k)
    have columns : Places h m := by
      have one (x : State) (i : Nat) : Places x ((x.showColumns (17 * old + i)).showColumns (17 * new + i)) :=
        (places_shows (shows_showColumns x _)).trans (places_shows (shows_showColumns _ _))
      have ids : Places h ((h.showIds old).showIds new) := (places_shows (shows_showIds h _)).trans (places_shows (shows_showIds _ _))
      exact (ids.trans (.foldl one _ _)).trans ⟨rfl, rfl, rfl⟩
    have queued : Places m p := ⟨rfl, rfl, rfl⟩
    exact (held.trans columns).trans (queued.trans (places_unitFaults ..))
  have up : (q.setTerrace t true).own (128 + t) = true := by
    refine List.foldlRecOn (motive := fun u : State => u.own (128 + t) = true) _ _ ?_ fun u same i _ => ?_
    · rw [own_setOwn, if_pos rfl]
    · rw [own_setOwn]
      split
      · rfl
      · exact same
  have failing : Tab.find? (q.setTerrace t true).failing t = none := by rw [failing_setTerrace, shown.failing, gone]
  have placed : settled.physT t = new := by
    have same : settled.lmap = k.lmap := (settle_field _ State.lmap).trans ((works_setTerrace q t true).terraces.trans shown.terraces)
    rw [State.physT, same, ← State.physT, moved]
  have losses : settled.life.terraces = k.life.terraces := by
    have set : (q.setTerrace t true).life = q.life := List.foldlRecOn (motive := fun u : State => u.life = q.life) _ _ rfl fun _ same _ _ => same
    exact (settle_field _ fun x => x.life.terraces).trans ((congrArg Life.terraces set).trans shown.losses)
  refine ⟨?_, ?_, ?_, ?_⟩
  · exact (congrArg (Tab.getD · t t) (raise_field _ _ _ _ State.lmap)).trans placed
  · exact (congrArg (List.contains · (128 + t)) (raise_field _ _ _ _ State.up)).trans ((own_settle_terrace _ service).trans up)
  · exact (congrArg (Tab.find? · t) (raise_field _ _ _ _ State.failing)).trans (failing_settle failing)
  · exact (raise_field _ _ _ _ fun x => x.life.terraces).trans (losses.trans counted)

end Sys2Proof.Machine
end

section
/-! PROOFS. The faults of the units (18_reserves_and_faults.md). -/

namespace Sys2Proof.Machine

/-! ### A residue mismatch -/

section
variable {s : State} {x col : Nat}

theorem residueMismatch_idle (small : x < 595) (idle : s.jetRuns x = none) : exec (.residueMismatch x col) s = .next s := by
  rw [exec_residueMismatch, execResidueMismatch, if_neg (by omega), idle]

theorem residueMismatch_engine_idle {e : Nat} (idle : (s.storesOf e).active = none) : exec (.residueMismatch (0x800 + e) col) s = .next s := by
  rw [exec_residueMismatch, execResidueMismatch, if_pos (Nat.le_add_right ..), Nat.add_sub_cancel_left, idle]

theorem residueMismatch_engine {e : Nat} (runs : (s.storesOf e).active.isSome = true) (ready : s.terraceReady (e / 8) = true)
    (up : s.engineUp e = true) : exec (.residueMismatch (0x800 + e) col) s = .next ((s.bump (rk .SP_RESIDUE_ERRORS)).spareEngine e 0) := by
  obtain ⟨a, active⟩ := Option.isSome_iff_exists.1 runs
  rw [exec_residueMismatch, execResidueMismatch, if_pos (Nat.le_add_right ..), Nat.add_sub_cancel_left, active]
  dsimp only
  rw [engineFault_up (s := s.bump (rk .SP_RESIDUE_ERRORS)) ready up]

/-- Has the column been suspect within the suspect time? -/
def State.againSuspect (s : State) (x col : Nat) : Prop :=
  ∃ p, Tab.find? s.suspects (256 * s.physJ x + col) = some p ∧ s.life.poweredS - p ≤ 3600 * s.fld (rk .SP_CFG) 0 16

/-- The state in which a jet's mismatch has been counted. -/
def State.mismatched (s : State) : State := s.bump (rk .SP_RESIDUE_ERRORS)

theorem mismatched_cfg (s : State) : s.mismatched.fld (rk .SP_CFG) 0 16 = s.fld (rk .SP_CFG) 0 16 :=
  congrArg (fun v : Word => bitsOf v.toNat 0 16) (State.reg_bump_other _ _ (by simp [rk]))

theorem stillSuspect_iff (s : State) (x col : Nat) :
    (Tab.find? s.suspects (256 * s.physJ x + col)).any s.mismatched.stillSuspect = true ↔ s.againSuspect x col := by
  rw [State.againSuspect, Option.any_eq_true]
  have iff (p : Nat) : s.mismatched.stillSuspect p = true ↔ s.life.poweredS - p ≤ 3600 * s.fld (rk .SP_CFG) 0 16 := by
    rw [State.stillSuspect, decide_eq_true_eq, mismatched_cfg]
    rfl
  simp only [iff]

variable {j : Job} (small : x < 595) (runs : s.jetRuns x = some j)
include small runs

theorem residueMismatch_first (radio : j.cls ≠ 0) (time : s.fld (rk .SP_CFG) 0 16 ≠ 0) (first : ¬ s.againSuspect x col) :
    exec (.residueMismatch x col) s = .next (({ s.mismatched with
      suspects := Tab.put s.suspects (256 * s.physJ x + col) s.life.poweredS } : State).showColumns (s.physJ x) |>.replay x 0) := by
  rw [exec_residueMismatch, execResidueMismatch, if_neg (by omega), runs]
  refine if_neg ?_
  rw [← stillSuspect_iff] at first
  rw [Bool.or_eq_true, Bool.or_eq_true, decide_eq_true_eq, decide_eq_true_eq]
  rintro ((h | h) | h)
  · exact radio h
  · exact time ((mismatched_cfg s).symm.trans h)
  · exact first h

theorem residueMismatch_again (moves : j.cls = 0 ∨ s.fld (rk .SP_CFG) 0 16 = 0 ∨ s.againSuspect x col) :
    exec (.residueMismatch x col) s = .next (s.mismatched.spareColumn x col) := by
  rw [exec_residueMismatch, execResidueMismatch, if_neg (by omega), runs]
  refine if_pos ?_
  rw [Bool.or_eq_true, Bool.or_eq_true, decide_eq_true_eq, decide_eq_true_eq]
  rcases moves with h | h | h
  · exact .inl (.inl h)
  · exact .inl (.inr ((mismatched_cfg s).trans h))
  · exact .inr ((stillSuspect_iff s x col).2 h)

end

/-! ### Handles of units -/

theorem unitKind_jet {x : Nat} (small : x < 560) : unitKind (0x400 + x) = some .jet := by
  rw [unitKind, if_neg (by omega), if_neg (by omega), if_neg (by omega), if_pos (by omega)]

theorem unitKind_engine {e : Nat} (small : e < 280) : unitKind (0x800 + e) = some .engine := by
  rw [unitKind, if_neg (by omega), if_neg (by omega), if_neg (by omega), if_neg (by omega), if_pos (by omega)]

theorem unitKind_ofTerrace {t : Nat} (small : t < 35) : unitKind (0x100 + t) = some .terrace := by
  rw [unitKind, if_neg (by omega), if_pos (by omega)]

theorem unitKind_ofBasin {q : Nat} (small : q < 140) : unitKind (0x200 + q) = some .basin := by
  rw [unitKind, if_neg (by omega), if_neg (by omega), if_pos (by omega)]

/-! ### Progress faults -/

section
variable (s : State)

theorem progressFault_jet {x : Nat} (small : x < 560) : exec (.progressFault (0x400 + x)) s = .next (if s.jetLive x then s.spareJet x 2 else s) := by
  rw [exec_progressFault, execProgressFault, unitKind_jet small]
  dsimp only
  rw [Nat.add_sub_cancel_left]
  split <;> rfl

theorem progressFault_engine {e : Nat} (small : e < 280) : exec (.progressFault (0x800 + e)) s = exec (.sparseEngineFault e) s := by
  rw [exec_progressFault, execProgressFault, unitKind_engine small, exec_sparseEngineFault, execSparseEngineFault]
  dsimp only
  rw [Nat.add_sub_cancel_left]

theorem progressFault_terrace {t : Nat} (small : t < 35) :
    exec (.progressFault (0x100 + t)) s = .next (if s.terraceReady t then s.startFailover t else s) := by
  rw [exec_progressFault, execProgressFault, unitKind_ofTerrace small]
  dsimp only
  rw [Nat.add_sub_cancel_left]
  split <;> rfl

theorem progressFault_basin {q : Nat} (small : q < 140) (ready : s.basinReady q = true) :
    exec (.progressFault (0x200 + q)) s = exec (.progressFault (0x100 + q / 4)) s := by
  have terrace : s.terraceReady (q / 4) = true := (Bool.and_eq_true_iff.1 ready).2
  rw [progressFault_terrace s (by omega), if_pos terrace, exec_progressFault, execProgressFault, unitKind_ofBasin small]
  dsimp only
  rw [Nat.add_sub_cancel_left, if_pos ready]

end

end Sys2Proof.Machine

open Sys2Proof.Machine in
/-- Settles O57, by what work leaves: loading, accumulating and replaying move no unit and mark no column, so that the repair map after
a fault is the one its own step made. -/
theorem faultsSpareTheUnit : Obligations.FaultsSpareTheUnit := by
  unfold Obligations.FaultsSpareTheUnit
  refine ⟨fun x col s small idle => residueMismatch_idle small idle, fun e col s => ⟨fun idle => residueMismatch_engine_idle idle,
    fun runs ready up => ?_⟩, ?_, fun x s => ⟨fun down => ?_, fun live => ?_, fun small live => ?_, fun small down => ?_⟩, fun e s => ⟨fun ready up => ?_, fun down => ?_,
    fun small => progressFault_engine s small⟩, fun t s small => ⟨fun ready => ?_, fun down => ?_, fun b inside ready => ?_⟩, fun t us s => ⟨fun none => ?_, ?_⟩⟩
  · obtain ⟨out, counted⟩ := spareEngine_out (s.bump (rk .SP_RESIDUE_ERRORS)) e 0
    exact ⟨_, residueMismatch_engine runs ready up, out, counted⟩
  · intro x col s j small runs key h again n
    refine ⟨fun radio time first => ⟨_, residueMismatch_first small runs radio time first, ?_⟩, fun moves => ⟨_, residueMismatch_again small runs moves, ?_⟩⟩
    · have after (u : State) : Works u ((u.showColumns (s.physJ x)).replay x 0) := (works_showColumns ..).trans (works_replay ..)
      refine ⟨?_, (after _).columns, (after _).jets⟩
      rw [(after _).marks]
      exact Tab.find?_put_same ..
    · by_cases few : n < 2
      · obtain ⟨marks, columns, jets⟩ := spareColumn_moves s.mismatched x col few
        refine ⟨?_, fun _ => ⟨?_, jets⟩, fun many => absurd few (by omega)⟩
        · rw [marks]
          exact Tab.find?_del_same ..
        · rw [columns]
          exact Tab.getD_put_same ..
      · obtain ⟨spared, marks⟩ := spareColumn_none s.mismatched x col (by exact Nat.not_lt.1 few)
        refine ⟨?_, fun h => absurd h few, fun _ => spared⟩
        rw [marks]
        exact Tab.find?_del_same ..
  · rw [exec_accumulatorEccError, execAccumulatorEccError, if_neg (by simp [down])]
  · exact ⟨s.spareJet x 1, by rw [exec_accumulatorEccError, execAccumulatorEccError, if_pos live], (sparesJet_spareJet s x 1).1⟩
  · exact ⟨s.spareJet x 2, by rw [progressFault_jet s small, if_pos live], (sparesJet_spareJet s x 2).1⟩
  · rw [progressFault_jet s small, if_neg (by simp [down])]
  · exact ⟨s.spareEngine e 2, by rw [exec_sparseEngineFault, execSparseEngineFault, engineFault_up ready up], (spareEngine_out s e 2).1⟩
  · rw [exec_sparseEngineFault, execSparseEngineFault, engineFault_down down]
  · exact ⟨s.startFailover t, by rw [progressFault_terrace s small, if_pos ready], own_startFailover s t⟩
  · rw [progressFault_terrace s small, if_neg (by simp [down])]
  · have terrace : (4 * t + b) / 4 = t := by omega
    rw [progressFault_basin s (by omega) ready, terrace]
  · rw [exec_failoverDone, execFailoverDone]
    rcases none with h | h <;> rw [h]
    rfl
  · intro r service low high found
    refine ⟨s.endFailover t r us, ?_, endFailover_places s service low⟩
    rw [exec_failoverDone, execFailoverDone, found]
    exact if_neg (by omega)
end
